-- ==== Sys2Proof/Word.lean ====
section
/-! DEFINITION. The word types of the Jarfold (R6) and the sparse stores that memories and register files are kept in. -/

namespace Sys2Proof

/-- A byte is 8 bits (R6). -/
abbrev Byte := BitVec 8

/-- A word is 32 bits (R6). One parcel of code, and one lane's slice of a vector register. -/
abbrev Word := BitVec 32

/-- A dword is 64 bits (R6): scalar registers, addresses, header dwords. -/
abbrev Dword := BitVec 64

/-- The lane and mask sets of 1024 bits (R105, R124). -/
abbrev LaneMask := BitVec 1024

/-- A team's handle (R31). -/
abbrev Handle := BitVec 32

/-- A store of values at numbered places: the places listed, in strictly rising order, hold the values
listed; every other place holds the store's default value, which no listed place holds. -/
abbrev Sparse (α : Type) := List (Nat × α)

end Sys2Proof
end

