-- ==== Sys2Proof/Syntax.lean ====
section
/-! DEFINITION. The syntax of the Jarfold's steps: one constructor of Instr for each row of the opcode table, instructions and events alike (the file spec/95_what_each_step_holds.md lists the events inside each step). -/

namespace Sys2Proof

/-- The operand fields of a V-format word, and the literal of an L-format word (R93): lit is none for the
V-format and the third parcel for the L-format. The memory layout (R97), the synchronisation layout and the
matrix layout are views of these same fields (Machine/Operands.lean). The codes stay raw here because a word
whose operand code is refused (R94) or whose format pair is reserved (R159) still decodes, and traps in the
order of R103. -/
structure VFields where
  /-- Bits [51:43]. -/
  vd : BitVec 9
  /-- Bits [42:34]. -/
  va : BitVec 9
  /-- Bits [33:25]. -/
  vb : BitVec 9
  /-- Bits [24:16]. -/
  vc : BitVec 9
  /-- Bits [15:12], the element format code (R43). -/
  fmt : BitVec 4
  /-- Bits [11:8], the modifier MOD. -/
  md : BitVec 4
  /-- Bits [7:0], FUNC. -/
  fn : BitVec 8
  /-- The third parcel in L-format, absent in V-format. -/
  lit : Option (BitVec 32)
  deriving DecidableEq, Repr

/-- A storage array with error counters of its own (R377). -/
inductive ArrayId where
  /-- The SRAM pool of a core. -/
  | pool (core : Nat)
  /-- The arrays of a device-cache slice. -/
  | slice (slice : Nat)
  /-- One sub-channel of an HBM4 stack. -/
  | hbm (stack sub : Nat)
  /-- The arrays of a core's matrix engine (R395). -/
  | engine (core : Nat)
  deriving DecidableEq, Repr

/-- A unit that an uncorrectable error can poison (R291). -/
inductive Unit32 where
  /-- The 32-byte sector of memory that holds a domain physical address. -/
  | sector (pa : Nat)
  /-- A word of a team's vector register: register and lane. -/
  | reg (tid : Handle) (reg lane : Nat)
  /-- A word of a plot's scratchpad: plot and byte offset. -/
  | scratch (plot offset : Nat)
  /-- A team's part of its saved image (R393). -/
  | image (tid : Handle)
  /-- A word of an accumulator tile's values: crew, physical tile and element index. -/
  | tile (crew tile elem : Nat)
  deriving DecidableEq, Repr

/-- A request that a peer module sends over a Luador link (R405), with the local address it names. -/
inductive PeerOp where
  /-- Read len bytes at a local address. -/
  | read (local_ len : Nat)
  /-- Write bytes at a local address. -/
  | write (local_ : Nat) (data : List Byte)
  /-- An atomic: operation and format codes of R97, operand, and the new value of a cas. -/
  | atomic (aop : BitVec 4) (fmt : BitVec 4) (w64 : BitVec 2) (local_ : Nat) (x y : Dword)
  deriving DecidableEq, Repr

/-- A firmware image as a die controller's ROM reads it (R406). -/
structure FirmwareImage where
  /-- The firmware, which the signature covers. -/
  bytes : List Byte
  /-- The security version it carries. -/
  securityVersion : Nat
  /-- Norelm's LMS public key, 56 bytes (RFC 8554). -/
  publicKey : List Byte := []
  /-- The LMS signature, 1,772 bytes (RFC 8554). -/
  signature : List Byte := []
  deriving DecidableEq, Repr

/-- Which instance of an event happens: the data beside an event's name (State.arg). Each event's meaning says
which of these it reads. -/
structure EventArg where
  /-- A team. -/
  tid : Handle := 0
  /-- An operation, copy, command, core, context, slice, link, die or function number. -/
  a : Nat := 0
  /-- A second number: a lane, partition, launch, port, offset or mailbox dword. -/
  b : Nat := 0
  /-- A third number: a piece or a length. -/
  c : Nat := 0
  /-- Whether a write goes by way of the release buffer, is relaxed, or a training succeeded. -/
  flag : Bool := false
  /-- The value of a mailbox write. -/
  value : Dword := 0
  /-- The tag of a host command (R398). -/
  tag : BitVec 16 := 0
  /-- The pieces that a load delivery samples: lane and piece. -/
  pairs : List (Nat × Nat) := []
  /-- Bytes that an outside agent writes. -/
  bytes : List Byte := []
  /-- What the peers of a collective sent: rank and elements. -/
  peers : List (Nat × List Dword) := []
  /-- A storage array. -/
  array : ArrayId := .pool 0
  /-- A unit of storage. -/
  unit_ : Unit32 := .sector 0
  /-- A peer module's request. -/
  peer : PeerOp := .read 0 0
  /-- The firmware images of the dies. -/
  images : List FirmwareImage := []
  /-- The host ends an engine's or an atomic's access to its window with an error (R391). -/
  hostErr : Bool := false
  deriving DecidableEq, Repr

/-- The steps of the machine. An instruction carries the operand fields of its word. An event carries nothing:
which instance of it happens stands in the state (State.arg), placed there by the turn that brings it. -/
inductive Instr where
  /-- NOP (R153): Does nothing and fits every clause class. -/
  | nop
  /-- SADD_REG (R133): s[SD] gets A + B modulo 2^64, B from a register. -/
  | saddReg (d : BitVec 7) (a : BitVec 7) (b : BitVec 7)
  /-- SADD_IMM (R133): s[SD] gets A + B modulo 2^64, B a sign-extended immediate. -/
  | saddImm (d : BitVec 7) (a : BitVec 7) (i : BitVec 8)
  /-- SSUB_REG (R133): s[SD] gets A − B, B from a register. -/
  | ssubReg (d : BitVec 7) (a : BitVec 7) (b : BitVec 7)
  /-- SSUB_IMM (R133): s[SD] gets A − B, B an immediate. -/
  | ssubImm (d : BitVec 7) (a : BitVec 7) (i : BitVec 8)
  /-- SMUL_REG (R133): s[SD] gets the low 64 bits of A × B, B from a register. -/
  | smulReg (d : BitVec 7) (a : BitVec 7) (b : BitVec 7)
  /-- SMUL_IMM (R133): s[SD] gets the low 64 bits of A × B, B an immediate. -/
  | smulImm (d : BitVec 7) (a : BitVec 7) (i : BitVec 8)
  /-- SMULH_REG (R133): s[SD] gets the high 64 bits of the signed product, B from a register. -/
  | smulhReg (d : BitVec 7) (a : BitVec 7) (b : BitVec 7)
  /-- SMULH_IMM (R133): s[SD] gets the high 64 bits of the signed product, B an immediate. -/
  | smulhImm (d : BitVec 7) (a : BitVec 7) (i : BitVec 8)
  /-- SDIV_REG (R134): Starts a signed division on the scalar divider, B from a register; never traps. -/
  | sdivReg (d : BitVec 7) (a : BitVec 7) (b : BitVec 7)
  /-- SDIV_IMM (R134): Starts a signed division on the scalar divider, B an immediate. -/
  | sdivImm (d : BitVec 7) (a : BitVec 7) (i : BitVec 8)
  /-- SREM_REG (R134): Starts a signed remainder on the scalar divider, B from a register. -/
  | sremReg (d : BitVec 7) (a : BitVec 7) (b : BitVec 7)
  /-- SREM_IMM (R134): Starts a signed remainder on the scalar divider, B an immediate. -/
  | sremImm (d : BitVec 7) (a : BitVec 7) (i : BitVec 8)
  /-- SAND_REG (R133): s[SD] gets A and B, B from a register. -/
  | sandReg (d : BitVec 7) (a : BitVec 7) (b : BitVec 7)
  /-- SAND_IMM (R133): s[SD] gets A and B, B an immediate. -/
  | sandImm (d : BitVec 7) (a : BitVec 7) (i : BitVec 8)
  /-- SOR_REG (R133): s[SD] gets A or B, B from a register. -/
  | sorReg (d : BitVec 7) (a : BitVec 7) (b : BitVec 7)
  /-- SOR_IMM (R133): s[SD] gets A or B, B an immediate. -/
  | sorImm (d : BitVec 7) (a : BitVec 7) (i : BitVec 8)
  /-- SXOR_REG (R133): s[SD] gets A xor B, B from a register. -/
  | sxorReg (d : BitVec 7) (a : BitVec 7) (b : BitVec 7)
  /-- SXOR_IMM (R133): s[SD] gets A xor B, B an immediate. -/
  | sxorImm (d : BitVec 7) (a : BitVec 7) (i : BitVec 8)
  /-- SANDN_REG (R133): s[SD] gets A and not B, B from a register. -/
  | sandnReg (d : BitVec 7) (a : BitVec 7) (b : BitVec 7)
  /-- SANDN_IMM (R133): s[SD] gets A and not B, B an immediate. -/
  | sandnImm (d : BitVec 7) (a : BitVec 7) (i : BitVec 8)
  /-- SSHL_REG (R136): s[SD] gets A shifted left by B[5:0]. -/
  | sshlReg (d : BitVec 7) (a : BitVec 7) (b : BitVec 7)
  /-- SSHL_IMM (R136): s[SD] gets A shifted left by a zero-extended immediate. -/
  | sshlImm (d : BitVec 7) (a : BitVec 7) (n : BitVec 6)
  /-- SSHR_REG (R136): s[SD] gets A shifted right with zero fill by B[5:0]. -/
  | sshrReg (d : BitVec 7) (a : BitVec 7) (b : BitVec 7)
  /-- SSHR_IMM (R136): s[SD] gets A shifted right with zero fill by an immediate. -/
  | sshrImm (d : BitVec 7) (a : BitVec 7) (n : BitVec 6)
  /-- SSAR_REG (R136): s[SD] gets A shifted right arithmetically by B[5:0]. -/
  | ssarReg (d : BitVec 7) (a : BitVec 7) (b : BitVec 7)
  /-- SSAR_IMM (R136): s[SD] gets A shifted right arithmetically by an immediate. -/
  | ssarImm (d : BitVec 7) (a : BitVec 7) (n : BitVec 6)
  /-- SROL_REG (R136): s[SD] gets A rotated left by B[5:0]. -/
  | srolReg (d : BitVec 7) (a : BitVec 7) (b : BitVec 7)
  /-- SROL_IMM (R136): s[SD] gets A rotated left by an immediate. -/
  | srolImm (d : BitVec 7) (a : BitVec 7) (n : BitVec 6)
  /-- SMIN_REG (R133): s[SD] gets the signed smaller of A and B, B from a register. -/
  | sminReg (d : BitVec 7) (a : BitVec 7) (b : BitVec 7)
  /-- SMIN_IMM (R133): s[SD] gets the signed smaller of A and an immediate. -/
  | sminImm (d : BitVec 7) (a : BitVec 7) (i : BitVec 8)
  /-- SMAX_REG (R133): s[SD] gets the signed larger of A and B, B from a register. -/
  | smaxReg (d : BitVec 7) (a : BitVec 7) (b : BitVec 7)
  /-- SMAX_IMM (R133): s[SD] gets the signed larger of A and an immediate. -/
  | smaxImm (d : BitVec 7) (a : BitVec 7) (i : BitVec 8)
  /-- SCMP_REG (R139): Signed three-way compare of A and a register B into s[SD]. -/
  | scmpReg (d : BitVec 7) (a : BitVec 7) (b : BitVec 7)
  /-- SCMP_IMM (R139): Signed three-way compare of A and an immediate into s[SD]. -/
  | scmpImm (d : BitVec 7) (a : BitVec 7) (i : BitVec 8)
  /-- SCMP_U_REG (R139): Unsigned three-way compare of A and a register B into s[SD]. -/
  | scmpUReg (d : BitVec 7) (a : BitVec 7) (b : BitVec 7)
  /-- SCMP_U_IMM (R139): Unsigned three-way compare of A and an immediate into s[SD]. -/
  | scmpUImm (d : BitVec 7) (a : BitVec 7) (i : BitVec 8)
  /-- SSEL_REG (R140): s[SD] gets s[SA] if old s[SD] is nonzero, else register B. -/
  | sselReg (d : BitVec 7) (a : BitVec 7) (b : BitVec 7)
  /-- SSEL_IMM (R140): s[SD] gets s[SA] if old s[SD] is nonzero, else the immediate. -/
  | sselImm (d : BitVec 7) (a : BitVec 7) (i : BitVec 8)
  /-- SLEA_1 (R135): s[SD] gets s[SA] + s[SB] × 1. -/
  | slea1 (d : BitVec 7) (a : BitVec 7) (b : BitVec 7)
  /-- SLEA_2 (R135): s[SD] gets s[SA] + s[SB] × 2. -/
  | slea2 (d : BitVec 7) (a : BitVec 7) (b : BitVec 7)
  /-- SLEA_4 (R135): s[SD] gets s[SA] + s[SB] × 4. -/
  | slea4 (d : BitVec 7) (a : BitVec 7) (b : BitVec 7)
  /-- SLEA_8 (R135): s[SD] gets s[SA] + s[SB] × 8. -/
  | slea8 (d : BitVec 7) (a : BitVec 7) (b : BitVec 7)
  /-- SLEA_16 (R135): s[SD] gets s[SA] + s[SB] × 16. -/
  | slea16 (d : BitVec 7) (a : BitVec 7) (b : BitVec 7)
  /-- SCLZ (R137): s[SD] gets the count of leading zeros of s[SA], 64 for zero. -/
  | sclz (d : BitVec 7) (a : BitVec 7)
  /-- SCTZ (R137): s[SD] gets the count of trailing zeros of s[SA], 64 for zero. -/
  | sctz (d : BitVec 7) (a : BitVec 7)
  /-- SPOP (R137): s[SD] gets the number of set bits of s[SA]. -/
  | spop (d : BitVec 7) (a : BitVec 7)
  /-- SBFX (R138): Extracts a bit field of s[SA] described by s[SB] into s[SD], optionally sign-extended. -/
  | sbfx (d : BitVec 7) (a : BitVec 7) (b : BitVec 7)
  /-- SBFI (R138): Inserts the low bits of s[SA] into the field of s[SD] described by s[SB]. -/
  | sbfi (d : BitVec 7) (a : BitVec 7) (b : BitVec 7)
  /-- SMOV (R141): s[SD] gets s[SA]. -/
  | smov (d : BitVec 7) (a : BitVec 7)
  /-- SLI (R141): s[SD] gets a sign-extended 8-bit immediate. -/
  | sli (d : BitVec 7) (i : BitVec 8)
  /-- SLI_LONG (R141): Long form: s[SD] gets LIT sign-extended. -/
  | sliLong (f : VFields)
  /-- SLI_Z (R141): Long form: s[SD] gets LIT zero-extended. -/
  | sliZ (f : VFields)
  /-- SLI_HI (R141): Long form: LIT goes into s[SD] bits [63:32], the low half kept. -/
  | sliHi (f : VFields)
  /-- SWID (R142): s[SD] gets work-identifier field k (1 to 5) of the team. -/
  | swid (d : BitVec 7) (k : BitVec 8)
  /-- SGET (R143): Reads a system register into s[SD], sixteen registers for HOLD. -/
  | sget (d : BitVec 7) (c : BitVec 8)
  /-- SSET (R143): Writes s[SA] to a system register under the permissions of R119. -/
  | sset (a : BitVec 7) (c : BitVec 8)
  /-- MPOP (R145): s[SD] gets the number of active lanes. -/
  | mpop (d : BitVec 7)
  /-- MFIRST (R145): s[SD] gets the lowest active lane index, or all ones. -/
  | mfirst (d : BitVec 7)
  /-- MELECT (R145): Rewrites the mask window to hold only the lowest active lane. -/
  | melect
  /-- BCC_Z (R147): Branches if s[T] = 0. -/
  | bccZ (t : BitVec 7) (o : BitVec 15)
  /-- BCC_NZ (R147): Branches if s[T] ≠ 0. -/
  | bccNz (t : BitVec 7) (o : BitVec 15)
  /-- BCC_LT (R147): Branches if s[T] < 0. -/
  | bccLt (t : BitVec 7) (o : BitVec 15)
  /-- BCC_GE (R147): Branches if s[T] ≥ 0. -/
  | bccGe (t : BitVec 7) (o : BitVec 15)
  /-- BCC_GT (R147): Branches if s[T] > 0. -/
  | bccGt (t : BitVec 7) (o : BitVec 15)
  /-- BCC_LE (R147): Branches if s[T] ≤ 0. -/
  | bccLe (t : BitVec 7) (o : BitVec 15)
  /-- BCC_LONG (R147): Long conditional branch with a 32-bit parcel offset and the condition in FUNC. -/
  | bccLong (f : VFields)
  /-- BRA (R147): Always jumps by a 22-bit parcel offset. -/
  | bra (o : BitVec 22)
  /-- BRA_LONG (R146): Always jumps by a 32-bit parcel offset in LIT. -/
  | braLong (f : VFields)
  /-- BMZ (R148): Jumps if no lane of the team is active. -/
  | bmz (o : BitVec 22)
  /-- BMZ_LONG (R148): Long form of BMZ. -/
  | bmzLong (f : VFields)
  /-- BMNZ (R148): Jumps if some lane is active. -/
  | bmnz (o : BitVec 22)
  /-- BMNZ_LONG (R148): Long form of BMNZ. -/
  | bmnzLong (f : VFields)
  /-- BMALL (R148): Jumps if every lane below the team width is active. -/
  | bmall (o : BitVec 22)
  /-- BMALL_LONG (R148): Long form of BMALL. -/
  | bmallLong (f : VFields)
  /-- CALL (R149): Writes the return address to the link register and jumps. -/
  | call (k : BitVec 7) (o : BitVec 15)
  /-- CALL_LONG (R149): Long CALL with a 32-bit offset; the link is 12 bytes past the CALL. -/
  | callLong (f : VFields)
  /-- RET (R149): Jumps to s[SA], with a return-predictor hint. -/
  | ret (a : BitVec 7)
  /-- JMPI (R149): Jumps to the address in s[SA]. -/
  | jmpi (a : BitVec 7)
  /-- EXIT (R155): Ends the team after its loads deliver, conveying its estate if it holds entries. -/
  | exit
  /-- YIELD (R154): At clause end the team becomes PENDING if an eligible pending team waits. -/
  | yield
  /-- FWAIT (R150): Holds the team until every named completion flag is clear. -/
  | fwait (m : BitVec 12)
  /-- FSET (R150): Sets the software bit of every named flag. -/
  | fset (m : BitVec 12)
  /-- FCLR (R150): Clears the software bit of every named flag. -/
  | fclr (m : BitVec 12)
  /-- REP (R152): Repeats the next instruction N + 1 times with stepped operand codes. -/
  | rep (n : BitVec 6) (d : BitVec 4) (a : BitVec 4) (b : BitVec 4)
  /-- TRAP (R272): Takes the precise trap SOFTWARE with an 8-bit code. -/
  | trap (c : BitVec 8)
  /-- RFT (R273): Returns the supervisor from a delivery and re-enables deliveries. -/
  | rft
  /-- SEGSET (R116): Supervisor writes one segment register's BASE and LIMIT. -/
  | segset (s : BitVec 3) (a : BitVec 7) (b : BitVec 7)
  /-- KILL (R274): Supervisor kills the team named by a handle; conveyance follows. -/
  | kill (a : BitVec 7)
  /-- VMOV (R165): Copies a vector register or constant into vD in active lanes. -/
  | vmov (f : VFields)
  /-- VBCAST (R165): Broadcasts the low bits of a scalar register into every element. -/
  | vbcast (f : VFields)
  /-- VLANE (R165): Reads vA from the lane each lane's vB names. -/
  | vlane (f : VFields)
  /-- VSETL (R165): Keeps elements below an index and makes the rest absent. -/
  | vsetl (f : VFields)
  /-- VIOTA (R165): Gives each lane the count of lower active lanes whose truth is true. -/
  | viota (f : VFields)
  /-- VWID (R165): Writes work-identifier field k of each lane. -/
  | vwid (f : VFields)
  /-- VADD (R167): Float addition with one rounding. -/
  | vadd (f : VFields)
  /-- VSUB (R167): Float subtraction with one rounding. -/
  | vsub (f : VFields)
  /-- VMUL (R167): Float multiplication with one rounding. -/
  | vmul (f : VFields)
  /-- VFMA (R167): Fused a × b + c, rounded once under NBV 2. -/
  | vfma (f : VFields)
  /-- VFMS (R167): Fused a × b − c. -/
  | vfms (f : VFields)
  /-- VFNMA (R167): Fused −(a × b) + c. -/
  | vfnma (f : VFields)
  /-- VMIN (R167): Exact float minimum, −0 below +0. -/
  | vmin (f : VFields)
  /-- VMAX (R167): Exact float maximum, −0 below +0. -/
  | vmax (f : VFields)
  /-- VABS (R167): Clears the sign of each float element. -/
  | vabs (f : VFields)
  /-- VNEG (R167): Inverts the sign of each float element. -/
  | vneg (f : VFields)
  /-- VCLAMP (R167): Clamps each element to the range b to c. -/
  | vclamp (f : VFields)
  /-- VIADD (R169): Integer addition, wrapping or saturating. -/
  | viadd (f : VFields)
  /-- VISUB (R169): Integer subtraction, wrapping or saturating. -/
  | visub (f : VFields)
  /-- VIMUL (R169): Integer multiplication, wrapping or saturating. -/
  | vimul (f : VFields)
  /-- VIMULH (R169): Upper half of the exact integer product. -/
  | vimulh (f : VFields)
  /-- VIMAD (R169): Integer a × b + c. -/
  | vimad (f : VFields)
  /-- VSHL (R168): Shifts each element left. -/
  | vshl (f : VFields)
  /-- VSHR (R168): Shifts each element right with zero fill. -/
  | vshr (f : VFields)
  /-- VSAR (R168): Shifts each element right arithmetically. -/
  | vsar (f : VFields)
  /-- VAND (R168): Bitwise and. -/
  | vand (f : VFields)
  /-- VOR (R168): Bitwise or. -/
  | vor (f : VFields)
  /-- VXOR (R168): Bitwise exclusive or. -/
  | vxor (f : VFields)
  /-- VNOT (R168): Bitwise complement. -/
  | vnot (f : VFields)
  /-- VCLZ (R168): Counts leading zeros per element. -/
  | vclz (f : VFields)
  /-- VPOP (R168): Counts set bits per element. -/
  | vpop (f : VFields)
  /-- VBFX (R168): Extracts a bit field per element. -/
  | vbfx (f : VFields)
  /-- VBFI (R168): Inserts a bit field into each element of vD. -/
  | vbfi (f : VFields)
  /-- VPERMB_LIT (R170): Permutes bytes of vA:vB under a selector literal. -/
  | vpermbLit (f : VFields)
  /-- VPERMB_REG (R170): Permutes bytes of vA:vB under per-lane selectors from vC. -/
  | vpermbReg (f : VFields)
  /-- VSHUF (R171): Permutes lanes within each pass. -/
  | vshuf (f : VFields)
  /-- VROT_IMM (R171): Rotates lanes across the team by a literal amount. -/
  | vrotImm (f : VFields)
  /-- VROT_REG (R171): Rotates lanes across the team by a scalar amount. -/
  | vrotReg (f : VFields)
  /-- VSEL (R172): Selects a lane slice by a three-valued truth selector. -/
  | vsel (f : VFields)
  /-- VCMP (R172): Compares elements, yielding true, false or unknown. -/
  | vcmp (f : VFields)
  /-- VISABS (R172): Yields 1 where the element is absent, else 0. -/
  | visabs (f : VFields)
  /-- VCOALESCE (R172): Takes a unless it is absent, else b. -/
  | vcoalesce (f : VFields)
  /-- VNULLIF (R172): Makes an element absent where a equals b. -/
  | vnullif (f : VFields)
  /-- VMKABS (R172): Keeps a where the truth is true, else absent. -/
  | vmkabs (f : VFields)
  /-- VTAND (R172): Kleene three-valued and. -/
  | vtand (f : VFields)
  /-- VTOR (R172): Kleene three-valued or. -/
  | vtor (f : VFields)
  /-- VTNOT (R172): Kleene three-valued not. -/
  | vtnot (f : VFields)
  /-- VCVT (R173): Converts each element of a lane group between formats. -/
  | vcvt (f : VFields)
  /-- VQUANT (R174): Quantises 32-element blocks with a shared scale, optionally writing residuals. -/
  | vquant (f : VFields)
  /-- VDEQ (R175): Dequantises block-scaled elements to float. -/
  | vdeq (f : VFields)
  /-- VAMAX (R176): Writes the team's maximum magnitude over kept non-NaN elements. -/
  | vamax (f : VFields)
  /-- VRADD (R177): Sums kept elements in the order of R68 and writes sum and kept count. -/
  | vradd (f : VFields)
  /-- VRMIN (R177): Writes the least kept element and the kept count. -/
  | vrmin (f : VFields)
  /-- VRMAX (R177): Writes the greatest kept element and the kept count. -/
  | vrmax (f : VFields)
  /-- VRCOUNT (R177): Writes the kept count only. -/
  | vrcount (f : VFields)
  /-- VSCAN (R179): Inclusive or exclusive running sums with running kept counts. -/
  | vscan (f : VFields)
  /-- VRAND (R183): Writes one raw random draw per active lane. -/
  | vrand (f : VFields)
  /-- VRANDF (R184): Writes a uniform float in [0,1) per element from the lane stream. -/
  | vrandf (f : VFields)
  /-- MKMASK (R144): Builds mask-window registers from the lanes whose truth matches the selection. -/
  | mkmask (f : VFields)
  /-- VRCP (R181): Correctly rounded reciprocal. -/
  | vrcp (f : VFields)
  /-- VRSQ (R181): Faithfully rounded reciprocal square root. -/
  | vrsq (f : VFields)
  /-- VSQRT (R181): Correctly rounded square root. -/
  | vsqrt (f : VFields)
  /-- VEXP2 (R181): Faithfully rounded 2^x. -/
  | vexp2 (f : VFields)
  /-- VLOG2 (R181): Faithfully rounded log2 x. -/
  | vlog2 (f : VFields)
  /-- VSIN (R181): Faithfully rounded sine. -/
  | vsin (f : VFields)
  /-- VCOS (R181): Faithfully rounded cosine. -/
  | vcos (f : VFields)
  /-- VTANH (R181): Faithfully rounded hyperbolic tangent. -/
  | vtanh (f : VFields)
  /-- VLOGI (R181): Faithfully rounded logistic function. -/
  | vlogi (f : VFields)
  /-- VLD (R192): Issues a per-lane load delivering asynchronously into vD. -/
  | vld (f : VFields)
  /-- VST (R192): Issues a posted per-lane store. -/
  | vst (f : VFields)
  /-- SLD (R192): Issues a scalar load delivering into s[D]. -/
  | sld (f : VFields)
  /-- SST (R192): Issues a posted scalar store. -/
  | sst (f : VFields)
  /-- VLDS (R192): Issues a strided vector load. -/
  | vlds (f : VFields)
  /-- VSTS (R192): Issues a posted strided vector store. -/
  | vsts (f : VFields)
  /-- PLD (R194): Hints lines and translations into the caches for reading. -/
  | pld (f : VFields)
  /-- PST (R194): Hints lines and translations into the caches, checking write permission. -/
  | pst (f : VFields)
  /-- PROBE (R195): Writes a translation and permission status word per lane without faulting. -/
  | probe (f : VFields)
  /-- SDRAIN (R197): Holds the team until every earlier posted store has performed or its fault record is written. -/
  | sdrain (f : VFields)
  /-- CPY (R200): Hands a byte-run copy, optionally converting, to the core's copy engine. -/
  | cpy (f : VFields)
  /-- CPYW (R200): Hands a rectangle copy to the copy engine. -/
  | cpyw (f : VFields)
  /-- FENCE (R201): Orders the team's accesses as a release and/or acquire at a scope. -/
  | fence (f : VFields)
  /-- ATOM (R204): Issues per-lane atomics that return old values. -/
  | atom (f : VFields)
  /-- ATOMS (R204): Issues a scalar atomic that returns the old value. -/
  | atoms (f : VFields)
  /-- RED (R204): Issues posted per-lane atomic reductions. -/
  | red (f : VFields)
  /-- AMAXSWAP (R206): Returns a location's maximum and resets it to absent indivisibly. -/
  | amaxswap (f : VFields)
  /-- MARM (R207): Arms the team's single monitor on a line at its home slice. -/
  | marm (f : VFields)
  /-- MWAIT (R208): Parks the team until its monitor fires or another wake event, then writes a status. -/
  | mwait (f : VFields)
  /-- BARV (R211): Arrives at a scratchpad barrier as a release. -/
  | barv (f : VFields)
  /-- BARW (R211): Waits at a scratchpad barrier until its phase advances or the parties are abandoned. -/
  | barw (f : VFields)
  /-- GBARV (R211): Arrives at a grid barrier of a gang. -/
  | gbarv (f : VFields)
  /-- GBARW (R211): Waits at a grid barrier of a gang. -/
  | gbarw (f : VFields)
  /-- HOLD (R213): Takes a lock, claims an orphan, or joins the lock's waiter queue. -/
  | hold (f : VFields)
  /-- HREL (R214): Releases a held lock to the first waiter or frees it. -/
  | hrel (f : VFields)
  /-- HEIR (R215): Sets the heir of the team's estate entry for an object. -/
  | heir (f : VFields)
  /-- HCLRB (R215): Clears BEREAVED of a held lock or pending promise. -/
  | hclrb (f : VFields)
  /-- HCLRB_POOL (R215): Clears BRET of a permit pool word. -/
  | hclrbPool (f : VFields)
  /-- PMAKE (R216): Makes a promise PENDING with the team as holder. -/
  | pmake (f : VFields)
  /-- PFULFIL (R216): Fulfils a held promise with a value and wakes its waiters. -/
  | pfulfil (f : VFields)
  /-- PWAIT (R216): Waits for a promise to be fulfilled or orphaned, then reads value and state. -/
  | pwait (f : VFields)
  /-- PERMGET (R217): Requests permits from a pool in first-in, first-out order. -/
  | permget (f : VFields)
  /-- PERMPUT (R217): Returns permits to a pool and grants queued requests. -/
  | permput (f : VFields)
  /-- ESTATE (R218): Reads one entry of the team's estate into three registers. -/
  | estate (f : VFields)
  /-- CONVEY (R219): Hands an estate entry to its heir while the team lives. -/
  | convey (f : VFields)
  /-- MLDT (R230): Latches the scratchpad offset of the A image. -/
  | mldt (f : VFields)
  /-- MFENCE (R231): Holds the team until its operand writes are complete for the matrix engine. -/
  | mfence (f : VFields)
  /-- MMA (R232): Collective arrival at a 64 × 64 multiply-accumulate into a tile. -/
  | mma (f : VFields)
  /-- MMAT (R234): Collective 64 × 128 multiply across both engines of a twin. -/
  | mmat (f : VFields)
  /-- MMASP (R235): Collective sparse multiply over the live k of two bitmaps. -/
  | mmasp (f : VFields)
  /-- MZERO (R237): Collective: binds a tile name and clears values, kept bits and counts. -/
  | mzero (f : VFields)
  /-- MNEW (R237): Collective: binds a tile name to a fresh cleared physical tile. -/
  | mnew (f : VFields)
  /-- MHAD (R240): Starts a block Hadamard transform in the transform stage. -/
  | mhad (f : VFields)
  /-- MDRAIN (R239): Queues a stream of a tile's values into a drain port. -/
  | mdrain (f : VFields)
  /-- MCNT (R239): Queues a stream of a tile's counts into a drain port. -/
  | mcnt (f : VFields)
  /-- MWAITA (R238): Holds the team until earlier operations on a tile name have retired. -/
  | mwaita (f : VFields)
  /-- GATHER (R247): Hands a gather command to the gleaner, delivering into a queue register. -/
  | gather (f : VFields)
  /-- SCATTER (R248): Hands a scatter command to the gleaner. -/
  | scatter (f : VFields)
  /-- GLCFG (R249): Sets up a gather or scatter stream of n entries. -/
  | glcfg (f : VFields)
  /-- BALE (R253): Hands a pack-to-compact-layout command to the die's baler. -/
  | bale (f : VFields)
  /-- UNBALE (R254): Hands an unpack-to-dense command to the baler. -/
  | unbale (f : VFields)
  /-- COLL (R256): Hands a collective command to the confluence engine. -/
  | coll (f : VFields)
  /-- RCNT (R259): Increments the routing counter each active non-absent lane names. -/
  | rcnt (f : VFields)
  /-- RSNAP (R260): Reads and clears a range of routing counters and writes them to memory. -/
  | rsnap (f : VFields)
  /-- HEAPOFFER (R262): Offers a scored token to an expert heap. -/
  | heapoffer (f : VFields)
  /-- HEAPSEAL (R263): Seals an expert heap and writes its entries in rank order. -/
  | heapseal (f : VFields)
  /-- HEAPREAD (R263): Reads one entry of a sealed heap. -/
  | heapread (f : VFields)
  /-- LAUNCH (R265): Validates a launch header and enqueues the launch, or reports a rejection. -/
  | launch (f : VFields)
  /-- LAUNCHD (R266): Enqueues a launch that waits on a fence word. -/
  | launchd (f : VFields)
  /-- WSET (R268): Writes a weir register, claiming or freeing the weir. -/
  | wset (f : VFields)
  /-- WGET (R268): Reads a weir register. -/
  | wget (f : VFields)
  /-- HINSP (R269): Reads an item of a halted team. -/
  | hinsp (f : VFields)
  /-- HPOKE (R269): Writes an item of a halted team. -/
  | hpoke (f : VFields)
  /-- HSTEP (R270): Resumes a halted team alone for n instructions with the focus lane active. -/
  | hstep (f : VFields)
  /-- HRESUME (R271): Resumes the halted teams of a team, plot or launch. -/
  | hresume (f : VFields)
  /-- HKILL (R271): Kills a halted team, conveying its estate. -/
  | hkill (f : VFields)
  /-- LRELEASE (R271): Clears one lane's HOLD bit of a target team. -/
  | lrelease (f : VFields)
  /-- RRPOP (R275): Returns the Q offset of the oldest unpopped retry-ring entry. -/
  | rrpop (f : VFields)
  /-- RPUT (R275): Writes one faulted lane's result into the parked destination. -/
  | rput (f : VFields)
  /-- RDONE_DONE (R275): Resolves a retry entry whose lanes the supervisor performed. -/
  | rdoneDone (f : VFields)
  /-- RDONE_REPLAY (R275): Resolves a retry entry by having the hardware perform or resume it once. -/
  | rdoneReplay (f : VFields)
  /-- RDONE_ABANDON (R275): Resolves a retry entry by giving absent load lanes or ending the engine command. -/
  | rdoneAbandon (f : VFields)
  /-- SFPOP (R275): Returns the oldest store-fault record and frees the previous one. -/
  | sfpop (f : VFields)
  /-- CLAUSE_START (R89): A team's clause header is fetched, checked as a whole and started once every flag named in its WAIT field is clear. -/
  | clauseStart
  /-- DIVIDER_RESULT (R131): After 24 cycles the scalar divider writes its result and releases the issuing team. -/
  | dividerResult
  /-- DYING_TEAM_STOP (R315): A killed or exiting team stops at its next issue slot, lets loads resolve and drains its posted stores. -/
  | dyingTeamStop
  /-- CONVEYANCE_ENTRY (R350): One estate entry of a dying team is conveyed to its receiver as a release at .dev. -/
  | conveyanceEntry
  /-- DATAPATH_LAST_PASS (R158): A vector instruction's last pass ends, its results are written and its datapath entry empties. -/
  | datapathLastPass
  /-- COPY_COMPLETE (R200): The copy engine finishes a copy and signals it by flag, continuation or completion word. -/
  | copyComplete
  /-- LOAD_DELIVERY (R190): A load or value-returning atomic delivers its lanes into the destination and lowers its flag count. -/
  | loadDelivery
  /-- STORE_PERFORM (R196): A posted store's piece performs at its home slice, or its lane faults. -/
  | storePerform
  /-- ATOMIC_PERFORM (R204): An atomic request is performed indivisibly at its home slice or the scratchpad unit. -/
  | atomicPerform
  /-- HOME_SLICE_SERVE (R40): A home slice serves the next queued estate, barrier, heap or monitor request round-robin. -/
  | homeSliceServe
  /-- RELEASE_BUFFER_DRAIN (R308): The oldest write of a core's release buffer performs at its home slice. -/
  | releaseBufferDrain
  /-- PROMOTED_ACQUIRE_REPLY (R308): Once tagged cores have drained, the home slice answers a promoted acquire. -/
  | promotedAcquireReply
  /-- RETRY_ENTRY_WRITE (R325): A faulted load, atomic or engine access is written as a retry-ring entry once there is room. -/
  | retryEntryWrite
  /-- STORE_FAULT_RECORD_WRITE (R388): A faulted posted store writes its record to the store-fault ring once there is room. -/
  | storeFaultRecordWrite
  /-- MWAIT_BUDGET_EXPIRY (R208): The MWAIT cycle budget runs out and the team wakes with status 1. -/
  | mwaitBudgetExpiry
  /-- MATRIX_OP_START (R228): The matrix engine starts the next accepted operation, round-robin among crews. -/
  | matrixOpStart
  /-- MATRIX_STEP (R236): A step of 32 terms of the running operation completes and the step counter advances. -/
  | matrixStep
  /-- MATRIX_OP_RETIRE (R236): An operation retires 16 cycles after its last step. -/
  | matrixOpRetire
  /-- MHAD_COMPLETE (R240): The transform stage writes MHAD's result into vD. -/
  | mhadComplete
  /-- MDRAIN_ROW (R239): The engine produces one row of a drain stream into its port. -/
  | mdrainRow
  /-- GLEANER_DELIVERY (R247): The gleaner fetches one entry and pushes it into the queue when room allows. -/
  | gleanerDelivery
  /-- GLEANER_SCATTER_WRITE (R248): The gleaner pops a data entry and writes its lanes. -/
  | gleanerScatterWrite
  /-- BALER_COMPLETE (R253): The baler finishes a BALE, commits the layout and increments DONE. -/
  | balerComplete
  /-- UNBALE_COMPLETE (R254): The baler finishes an UNBALE, checks the commit word and sets STATUS. -/
  | unbaleComplete
  /-- COLL_COMPLETE (R257): Once the members meet, the confluence engine reduces and writes results and ends FLAGB. -/
  | collComplete
  /-- ROUTING_BANK_EXCHANGE (R258): The core's routing bank is swapped with another context's saved bank. -/
  | routingBankExchange
  /-- LAUNCHD_FENCE_MET (R266): The headgate acquires the fence value, reads GRIDA and makes the launch eligible or discards it. -/
  | launchdFenceMet
  /-- HSTEP_END (R270): The stepped team stops again and HSTEP writes its outcome. -/
  | hstepEnd
  /-- STEP_LIMIT (R270): 4,096 consecutive instructions without the focus lane active end the step. -/
  | stepLimit
  /-- TEAM_HALT_STOP (R362): Another team of a halted plot or gang stops after its allowed skid. -/
  | teamHaltStop
  /-- DELIVERY_TAKE (R382): The supervisor takes the oldest pending delivery and continues at VECTOR. -/
  | deliveryTake
  /-- TEAM_WAKE (R39): A parked team's wake notice reaches its core and the team leaves PARKED. -/
  | teamWake
  /-- TEAM_PROMOTE (R38): A freed active-set place goes to the longest-waiting eligible pending team. -/
  | teamPromote
  /-- HOLD_SWAP (R332): A team held 96 cycles is swapped for an eligible pending team. -/
  | holdSwap
  /-- FORCED_PROMOTION (R331): A pending team that has waited 2,048 cycles is promoted regardless of eligibility. -/
  | forcedPromotion
  /-- FORCED_ACTIVE_PLACE (R331): If no place frees within 1,024 further cycles, the headgate swaps out the longest-active team. -/
  | forcedActivePlace
  /-- PLOT_PLACEMENT (R328): The headgate places a plot of the launch it serves on the best qualifying core. -/
  | plotPlacement
  /-- GANG_RESERVE (R329): The headgate reserves slots and granules for the next plot of a gang. -/
  | gangReserve
  /-- GANG_ABORT (R330): A strictly higher-priority head launch aborts a non-sticky gang reservation. -/
  | gangAbort
  /-- HEADGATE_PREEMPTION (R335): A head launch unplaced for 20 µs makes the headgate pre-empt a lower-priority launch. -/
  | headgatePreemption
  /-- PREEMPTION_SAVE (R336): Once a victim's loads and stores have resolved, its state is saved and its teams become PREEMPTED. -/
  | preemptionSave
  /-- RESTORE (R337): With granules free for all its plots, a victim is restored whole to its own slots. -/
  | restore
  /-- INVALIDATION_ENTRY (R297): The hardware processes one invalidation-ring entry and advances HEAD and DONE. -/
  | invalidationEntry
  /-- ECC_CORRECTED (R291): A corrected memory error is rewritten in place and counted. -/
  | eccCorrected
  /-- PREDICTIVE_FAILURE (R395): After 2^24 further accesses above threshold the RAS function declares predictive failure. -/
  | predictiveFailure
  /-- UNCORRECTABLE_ERROR (R291): An uncorrectable error poisons its sector or granule word. -/
  | uncorrectableError
  /-- TIMING_REPLAY (R371): A timing-detector replay stretches one cycle and is counted. -/
  | timingReplay
  /-- DROOP_EVENT (R327): A core's timing detector counts a voltage-droop event. -/
  | droopEvent
  /-- DROOP_WINDOW_END (R327): A 65,536-cycle window ends and the die controller may rate the core hot. -/
  | droopWindowEnd
  /-- HOT_CLEAR_WINDOW (R327): A 5 ms window ends and a hot core may stop being hot. -/
  | hotClearWindow
  /-- POWER_CAP_CONTROL (R410): The 1 ms power average is checked and the clock lowered or raised in 100 MHz steps. -/
  | powerCapControl
  /-- THERMAL_THROTTLE (R410): A die's hottest core passes 105 °C and the die clock is lowered. -/
  | thermalThrottle
  /-- THERMAL_TRIP (R410): At 115 °C the module turns off and sets the sticky thermal-trip status. -/
  | thermalTrip
  /-- MAILBOX_REGISTER_WRITE (R398): A host write to a mailbox field that carries no command of its own. -/
  | mailboxRegisterWrite
  /-- FEAT_READ (R399): Returns one dword of the offered feature vector. -/
  | featRead
  /-- FEAT_ACCEPT (R403): Records the accepted feature vector once per reset. -/
  | featAccept
  /-- DOMAIN_SET (R405): Sets the module number and one route of the domain table. -/
  | domainSet
  /-- CTX_SETUP (R399): Records a context's aperture base and save-area size. -/
  | ctxSetup
  /-- CTX_CREATE (R400): Builds a context, clears its rings and starts its supervisor. -/
  | ctxCreate
  /-- CTX_DESTROY (R400): Kills a context's launches and discards its state. -/
  | ctxDestroy
  /-- CORESET (R399): Assigns a core mask to a context. -/
  | coreset
  /-- PREEMPT (R335): Driver requests pre-emption of a launch or every launch of a context. -/
  | preempt
  /-- KILL_LAUNCH (R399): Kills every team of a launch. -/
  | killLaunch
  /-- DEBUG (R399): Performs one debug instruction on the host's behalf. -/
  | debug
  /-- REPORT (R402): Returns the oldest unread report record and frees the previous one. -/
  | report
  /-- COUNTERS_READ (R399): Reads a performance or error counter. -/
  | countersRead
  /-- COUNTERS_CLEAR (R399): Clears a performance or error counter. -/
  | countersClear
  /-- COUNTERS_PROGRAM (R376): Programs a performance counter's event code and filter. -/
  | countersProgram
  /-- ATTEST (R408): Writes a signed attestation report to a host buffer. -/
  | attest
  /-- POWER_CAP (R410): Sets the package power limit. -/
  | powerCap
  /-- BAR2_READ (R397): A host read through BAR2 is translated and performed at the home slice. -/
  | bar2Read
  /-- BAR2_WRITE (R397): A host write through BAR2 is translated and performed at the home slice. -/
  | bar2Write
  /-- PEER_REQUEST (R405): A request from a peer module arrives over a Luador link and is performed or refused. -/
  | peerRequest
  /-- LINK_CRC_ERROR (R405): A flit fails its CRC and is retransmitted and counted. -/
  | linkCrcError
  /-- LINK_FAILURE (R405): A link fails and its traffic moves to the other links of the mask. -/
  | linkFailure
  /-- LINK_TRAIN_RETRY (R411): Every 100 ms an untrained link retries training. -/
  | linkTrainRetry
  /-- POWER_GOOD (R411): Power is good; die controllers boot and verify firmware. -/
  | powerGood
  /-- HBM_TRAINING_DONE (R411): HBM4 training completes and memory is cleared with correct ECC. -/
  | hbmTrainingDone
  /-- PCIE_LINK_TRAINED (R411): The PCI Express link trains, CYC starts and FEAT_READ becomes available. -/
  | pcieLinkTrained
  /-- LUADOR_LINK_TRAINED (R411): A Luador link completes training toward a peer module, and peers routed over it become reachable. -/
  | luadorLinkTrained
  deriving DecidableEq, Repr

end Sys2Proof
end

