-- ==== Sys2Proof/Machine/Encoding.lean ====
section
/-! DEFINITION. The bits of instructions (R87, R92, R93), the views of a V-format word's fields that the family layouts give (R97, R199, R229, R245), and the check of R103 order 1 for every V-format and L-format opcode. -/

namespace Sys2Proof.Machine

/-! ## Parcels -/

/-- Bits [31:30] of a first parcel (R87): 0 S-format, 1 V-format, 2 L-format, 3 a clause header. -/
def kindOf (p : Word) : Nat := p.toNat / 2 ^ 30

/-- Parcels that a word of a kind takes (R87). -/
def kindParcels : Nat → Nat
  | 0 => 1
  | 1 => 2
  | 2 => 3
  | _ => 2

/-- The opcode of a V-format or L-format word, from its first parcel (R93). -/
def opcodeOf (p : Word) : Nat := p.toNat / 2 ^ 20 % 1024

/-- The fields of a V-format or L-format word (R93). -/
def fieldsOf (p0 p1 : Word) (lit : Option Word) : VFields where
  vd := BitVec.ofNat 9 (p0.toNat / 2 ^ 11)
  va := BitVec.ofNat 9 (p0.toNat / 2 ^ 2)
  vb := BitVec.ofNat 9 (p0.toNat % 4 * 128 + p1.toNat / 2 ^ 25)
  vc := BitVec.ofNat 9 (p1.toNat / 2 ^ 16)
  fmt := BitVec.ofNat 4 (p1.toNat / 2 ^ 12)
  md := BitVec.ofNat 4 (p1.toNat / 2 ^ 8)
  fn := BitVec.ofNat 8 p1.toNat
  lit := lit

/-- The first parcel of a V-format or L-format word (R93). -/
def firstParcel (op : Nat) (f : VFields) : Word :=
  BitVec.ofNat 32 ((if f.lit.isSome then 2 else 1) * 2 ^ 30 + op * 2 ^ 20 + f.vd.toNat * 2 ^ 11
    + f.va.toNat * 4 + f.vb.toNat / 128)

/-- The second parcel (R93). -/
def secondParcel (f : VFields) : Word :=
  BitVec.ofNat 32 (f.vb.toNat % 128 * 2 ^ 25 + f.vc.toNat * 2 ^ 16 + f.fmt.toNat * 2 ^ 12 + f.md.toNat * 2 ^ 8
    + f.fn.toNat)

/-- The parcels of a V-format or L-format word, in storage order (R7, R93). -/
def vParcels (op : Nat) (f : VFields) : List Word :=
  firstParcel op f :: secondParcel f :: f.lit.toList

/-! ## Views of the fields -/

/-- LIT as a number, 0 in V-format (R93). -/
def litNat (f : VFields) : Nat := (f.lit.getD 0).toNat

/-- SEG of the memory layout (R97). -/
def mSeg (f : VFields) : Nat := f.vb.toNat / 64
/-- SCALE (R97). -/
def mScale (f : VFields) : Nat := f.vb.toNat / 8 % 8
/-- ORD (R97). -/
def mOrd (f : VFields) : Nat := f.vb.toNat % 8
/-- BURST (R97). -/
def mBurst (f : VFields) : Nat := f.vc.toNat / 128
/-- BASE (R97). -/
def mBase (f : VFields) : Nat := f.vc.toNat % 128
/-- NOBASE (R97). -/
def mNoBase (f : VFields) : Bool := decide (8 ≤ f.md.toNat)
/-- SCOPE (R97). -/
def mScope (f : VFields) : Nat := f.md.toNat % 8
/-- W64 (R97), and the 64-bit format select of FUNC[7:6] (R44). -/
def mW64 (f : VFields) : Nat := f.fn.toNat / 64
/-- WIDTH (R97). -/
def mWidth (f : VFields) : Nat := f.fn.toNat / 16 % 4
/-- AOP (R97). -/
def mAop (f : VFields) : Nat := f.fn.toNat % 16
/-- The heir code, FUNC[3:0] of the synchronisation layout. -/
def mHeir (f : VFields) : Nat := f.fn.toNat % 16
/-- The rounding code MOD[10:8] (R59). -/
def modRound (f : VFields) : Nat := f.md.toNat % 8
/-- .sat, MOD[11] (R59). -/
def modSat (f : VFields) : Bool := decide (8 ≤ f.md.toNat)
/-- Source format code of a conversion, FUNC[3:0]. -/
def srcFmt (f : VFields) : Nat := f.fn.toNat % 16
/-- 64-bit select of a conversion's source, FUNC[5:4]. -/
def srcSel (f : VFields) : Nat := f.fn.toNat / 16 % 4
/-- SSEG of a copy (R199). -/
def cSseg (f : VFields) : Nat := f.md.toNat / 4
/-- DSEG of a copy (R199). -/
def cDseg (f : VFields) : Nat := f.md.toNat % 4
/-- DONE of a copy (R199). -/
def cDone (f : VFields) : Nat := f.fn.toNat / 64
/-- SCOPE of a copy (R199). -/
def cScope (f : VFields) : Nat := f.fn.toNat / 8 % 8
/-- SFMT of a copy (R199). -/
def cSfmt (f : VFields) : Nat := f.fn.toNat % 8

/-! ## Forms (R93, R101) -/

/-- The formats that an opcode is assigned in (R101). -/
inductive Form where
  | v | l | vl
  deriving DecidableEq, Repr

/-- The form of each assigned V-format or L-format opcode (R101). -/
def formOf (op : Nat) : Option Form :=
  if op ≤ 0x001 then some .vl
  else if op ≤ 0x005 then some .v
  else if 0x010 ≤ op && op ≤ 0x01A then some .vl
  else if 0x020 ≤ op && op ≤ 0x030 then some .vl
  else if op = 0x031 then some .v
  else if op = 0x032 then some .vl
  else if 0x038 ≤ op && op ≤ 0x040 then some .vl
  else if 0x048 ≤ op && op ≤ 0x04B then some .v
  else if 0x050 ≤ op && op ≤ 0x054 then some .v
  else if op = 0x058 || op = 0x059 || op = 0x060 then some .v
  else if op = 0x0F0 then some .l
  else if op = 0x100 || op = 0x101 || (0x104 ≤ op && op ≤ 0x109) then some .vl
  else if op = 0x110 || op = 0x111 then some .l
  else if op = 0x112 then some .v
  else if op = 0x113 then some .vl
  else if op = 0x114 then some .v
  else if 0x118 ≤ op && op ≤ 0x11B then some .vl
  else if 0x120 ≤ op && op ≤ 0x122 then some .vl
  else if 0x124 ≤ op && op ≤ 0x126 then some .v
  else if 0x128 ≤ op && op ≤ 0x12C then some .vl
  else if op = 0x180 || op = 0x181 then some .vl
  else if 0x184 ≤ op && op ≤ 0x190 then some .vl
  else if op = 0x191 || op = 0x192 then some .v
  else if op = 0x1C0 then some .vl
  else if 0x1C1 ≤ op && op ≤ 0x1CA then some .v
  else if 0x200 ≤ op && op ≤ 0x208 then some .v
  else if 0x240 ≤ op && op ≤ 0x245 then some .l
  else if op = 0x280 || op = 0x281 then some .v
  else if 0x288 ≤ op && op ≤ 0x293 then some .v
  else none

/-- The word's format is one the opcode is assigned in (R93). -/
def formOk (op : Nat) (f : VFields) : Bool :=
  match formOf op with
  | none => false
  | some .v => f.lit.isNone
  | some .l => f.lit.isSome
  | some .vl => true

/-! ## Order 1 of R103, family by family

A check answers true when no reserved bit, unused field or reserved code stands in the word. -/

/-- The fields VD, VA, VB and VC that an opcode uses; the others must be zero (R96). -/
def uses (d a b c : Bool) (f : VFields) : Bool :=
  (d || f.vd == 0) && (a || f.va == 0) && (b || f.vb == 0) && (c || f.vc == 0)

/-- FUNC lies within the bits that an opcode defines: [7:6] under FMT 15 (R44), and those of a mask (R164). -/
def fnIn (mask : Nat) (f : VFields) : Bool :=
  let x := if f.fmt = 15 then f.fn.toNat % 64 else f.fn.toNat
  (x &&& mask) == x

/-- MOD unused (R164). -/
def modNone (f : VFields) : Bool := f.md == 0
/-- MOD[11] only (R164). -/
def modS (f : VFields) : Bool := modRound f == 0
/-- Rounding and .sat: codes 6 and 7 are reserved (R59). -/
def modRS (f : VFields) : Bool := decide (modRound f ≤ 5)
/-- A rounding code without .sat (R177). -/
def modR (f : VFields) : Bool := !modSat f && decide (modRound f ≤ 5)

/-- The format code is of class FL (R159). -/
def codeFL (f : VFields) : Bool :=
  f.fmt == 8 || f.fmt == 9 || f.fmt == 10 || (f.fmt == 15 && mW64 f == 0)

/-- The format code is of class F8 (R159). -/
def codeF8 (f : VFields) : Bool := f.fmt == 11 || f.fmt == 12

/-- The format code is of class IN (R159). -/
def codeIN (f : VFields) : Bool :=
  (decide (1 ≤ f.fmt.toNat) && decide (f.fmt.toNat ≤ 7)) || (f.fmt == 15 && (mW64 f == 1 || mW64 f == 2))

/-- A selector literal of VPERMB holds no mode 3 and no bit above 19 (R170). Log entry 17. -/
def permLitOk (f : VFields) : Bool :=
  let l := litNat f
  decide (l < 2 ^ 20) && ((List.range 4).all fun i => l / 2 ^ (5 * i + 3) % 4 != 3)

/-- Element instructions below opcode 0x0FF (R164 to R184, R144, R141). -/
def order1Element (op : Nat) (f : VFields) : Bool :=
  match op with
  | 0x000 => uses true true false false f && modNone f && fnIn 0 f
  | 0x001 => uses true true false false f && modNone f && fnIn 0 f && litNat f == 0
  | 0x002 => uses true true true false f && modNone f && fnIn 0 f
  | 0x003 => uses true true true false f && modNone f && fnIn 0 f
  | 0x004 => uses true true false false f && modNone f && fnIn 0 f
  | 0x005 => uses true false false false f && modNone f && fnIn 7 f
  | 0x010 | 0x011 | 0x012 => uses true true true false f && modRS f && fnIn 0 f
  | 0x013 | 0x014 | 0x015 => uses true true true true f && modRS f && fnIn 0 f
  | 0x016 | 0x017 => uses true true true false f && modNone f && fnIn 0 f
  | 0x018 | 0x019 => uses true true false false f && modNone f && fnIn 0 f
  | 0x01A => uses true true true true f && modNone f && fnIn 0 f
  | 0x020 | 0x021 | 0x022 => uses true true true false f && modS f && fnIn 0 f
  | 0x023 => uses true true true false f && modNone f && fnIn 0 f
  | 0x024 => uses true true true true f && modS f && fnIn 0 f
  | 0x025 | 0x026 | 0x027 | 0x028 | 0x029 | 0x02A => uses true true true false f && modNone f && fnIn 0 f
  | 0x02B | 0x02C | 0x02D => uses true true false false f && modNone f && fnIn 0 f
  | 0x02E | 0x02F => uses true true true true f && modNone f && fnIn 0 f
  | 0x030 => -- FUNC[0] selects the form; an FMT other than 0 is a reserved combination, order 5 (R159, R170)
    modNone f && fnIn 1 f &&
      (if f.fn.toNat % 2 = 1 then f.lit.isNone && uses true true true true f
       else uses true true true false f && permLitOk f)
  | 0x031 => uses true true true false f && modNone f && fnIn 0 f
  | 0x032 => -- FUNC[0] = 1 exists in the V-format only (R171)
    modNone f && fnIn 1 f &&
      (if f.fn.toNat % 2 = 1 then f.lit.isNone && uses true true true false f else uses true true false false f)
  | 0x038 => uses true true true true f && modNone f && fnIn 0 f
  | 0x039 => uses true true true false f && modNone f && fnIn 7 f && decide (f.fn.toNat % 8 ≤ 5)
  | 0x03A => uses true true false false f && modNone f && fnIn 0 f
  | 0x03B | 0x03C | 0x03D | 0x03E | 0x03F => uses true true true false f && modNone f && fnIn 0 f
  | 0x040 => uses true true false false f && modNone f && fnIn 0 f
  | 0x048 => uses true true false false f && modRS f && fnIn 0x3F f && (f.fn.toNat % 16 == 15 || srcSel f == 0)
  | 0x049 => modRS f && fnIn 0x3F f && (f.fn.toNat % 16 == 15 || srcSel f == 0)
  | 0x04A => uses true true true false f && modRS f && fnIn 0x3F f && (f.fn.toNat % 16 == 15 || srcSel f == 0)
  | 0x04B => uses true true false false f && modNone f && fnIn 0 f
  | 0x050 => uses true true false true f && fnIn 0x20 f && (if codeFL f || codeF8 f then modR f else modNone f)
  | 0x051 | 0x052 => uses true true false true f && fnIn 0x20 f && modNone f
  | 0x053 => uses true true false false { f with vc := if f.vc = 448 then 0 else f.vc } && fnIn 0x20 f && modNone f
  | 0x054 => uses true true false true f && fnIn 1 f &&
      (if codeFL f then modR f else if codeIN f then modS f else modNone f)
  | 0x058 | 0x059 => uses true false false false f && modNone f && fnIn 0 f
  | 0x060 => uses true true false false f && modNone f && f.fmt == 14 && decide (f.fn.toNat ≤ 2)
  | 0x0F0 => uses true false false false f && modNone f && f.fmt == 0 && decide (f.fn.toNat ≤ 2)
  | _ => false

/-- What every user of the memory layout owes (R97, R103): reserved codes, SCOPE without ORD, SCALE without an
index, BASE beside NOBASE, W64 without FMT 15. -/
def memCommon (f : VFields) : Bool :=
  decide (mScale f ≤ 4) && decide (mOrd f ≤ 3) && decide (mBurst f ≤ 2) && decide (mScope f ≤ 6)
    && decide (mWidth f ≤ 1) && decide (mAop f ≤ 7)
    && (mOrd f != 0 || mScope f == 0) && (f.va != 448 || mScale f == 0)
    && (!mNoBase f || mBase f == 0) && (f.fmt == 15 || mW64 f == 0)

/-- ORD and SCOPE zero. -/
def noOrd (f : VFields) : Bool := mOrd f == 0 && mScope f == 0
/-- BURST zero. -/
def noBurst (f : VFields) : Bool := mBurst f == 0
/-- AOP zero. -/
def noAop (f : VFields) : Bool := mAop f == 0

/-- Class 1 (R192 to R206, R247 to R260). -/
def order1Memory (op : Nat) (f : VFields) : Bool :=
  match op with
  | 0x100 | 0x104 | 0x106 => memCommon f && noAop f
  | 0x101 | 0x105 | 0x107 => memCommon f && noAop f && noBurst f
  | 0x108 | 0x109 => memCommon f && noAop f && noBurst f && noOrd f && f.vd == 0 && f.fmt == 0 && mWidth f == 0
  | 0x110 | 0x111 =>
    decide (cSseg f ≤ 2) && decide (cDseg f ≤ 1) && decide (cDone f ≤ 2) && decide (cScope f ≤ 6)
      && decide (cSfmt f ≤ 3) && (cDone f != 0 || f.vc == 0)
      && (op == 0x111 || f.vb == 448 || litNat f == 0)
  | 0x112 => uses false false false false f && modNone f && f.fmt == 0 && f.fn == 0
  | 0x113 => memCommon f && noAop f && noBurst f && noOrd f
  | 0x114 => f.vd == 0 && f.va == 0 && mSeg f == 0 && mScale f == 0 && f.vc == 0 && !mNoBase f && f.fmt == 0
      && f.fn == 0 && decide (1 ≤ mOrd f) && decide (mOrd f ≤ 3) && decide (mScope f ≤ 6)
  | 0x118 | 0x119 | 0x11A => memCommon f && noBurst f
  | 0x11B => memCommon f && noBurst f && noAop f
  | 0x120 => memCommon f && noAop f && noOrd f
  | 0x121 => memCommon f && noAop f && noOrd f && noBurst f
  | 0x122 => modNone f && fnIn 0xF f && decide (f.fn.toNat % 8 ≤ 2)
  | 0x124 => uses false true false false f && modNone f && fnIn 1 f
  | 0x125 => uses false true false false f && modNone f && fnIn 0 f
  | 0x126 => uses false true false false f && modNone f && f.fmt == 0 && f.fn == 0
  | 0x128 => uses false true false false f && modNone f && fnIn 0 f && litNat f == 0
  | 0x129 => uses false true true false f && modNone f && f.fmt == 0 && decide (f.fn.toNat ≤ 6)
  | 0x12A | 0x12C => f.fmt == 0 && f.fn == 0 && noOrd f && mScale f == 0 && noBurst f && (!mNoBase f || mBase f == 0)
  | 0x12B => f.fmt == 0 && f.fn == 0 && noOrd f && mScale f == 0 && noBurst f && (!mNoBase f || mBase f == 0)
      && f.va == 0
  | _ => false

/-- What the synchronisation layout owes: FMT 0, no SCALE and no BURST, ORD and SCOPE as in R97, and FUNC within
a mask. -/
def syncCommon (mask : Nat) (f : VFields) : Bool :=
  f.fmt == 0 && mScale f == 0 && noBurst f && decide (mOrd f ≤ 3) && decide (mScope f ≤ 6)
    && (mOrd f != 0 || mScope f == 0) && (!mNoBase f || mBase f == 0) && (f.fn.toNat &&& mask) == f.fn.toNat

/-- The heir code, and X zero unless the code is 5. -/
def heirOk (f : VFields) : Bool := decide (mHeir f ≤ 5) && (mHeir f == 5 || f.va == 0)

/-- Class 5 (R207 to R219). HEIR, PMAKE and HCLRB, to which R212 gives no direction, take no ORD and no SCOPE; an
instruction without an heir takes no heir code at all, .pool included (R96). Log entry 15. HCLRB's FUNC is checked at
order 4 (R215). -/
def order1Sync (op : Nat) (f : VFields) : Bool :=
  match op with
  | 0x180 => syncCommon 0 f && noOrd f && f.vd == 0 && f.va == 0
  | 0x181 => uses true true false false f && modNone f && f.fmt == 0 && f.fn == 0 && litNat f == 0
  | 0x184 | 0x186 => syncCommon 0 f && f.vd == 0 && f.va == 0
  | 0x185 | 0x187 => syncCommon 0x20 f && f.va == 0 && (f.fn == 0x20 || f.vd == 0)
  | 0x188 => syncCommon 0x1F f && heirOk f
  | 0x189 => syncCommon 0 f && f.vd == 0 && f.va == 0
  | 0x18A => syncCommon 0xF f && heirOk f && noOrd f && f.vd == 0
  | 0x18B => syncCommon 0xF f && noOrd f && f.vd == 0 && f.va == 0
  | 0x18C => syncCommon 0xF f && heirOk f && noOrd f && f.vd == 0
  | 0x18D => syncCommon 0 f && f.vd == 0
  | 0x18E => syncCommon 0 f && f.va == 0
  | 0x18F => syncCommon 0xF f && decide (mHeir f ≤ 5)
  | 0x190 => syncCommon 0 f && f.vd == 0
  | 0x191 => uses true true false false f && modNone f && f.fmt == 0 && f.fn == 0
  | 0x192 => syncCommon 0 f && f.va == 0
  | _ => false

/-- Class 2 (R229). -/
def order1Matrix (op : Nat) (f : VFields) : Bool :=
  match op with
  | 0x1C0 => memCommon f && noAop f && noBurst f && noOrd f && f.vd == 0 && f.fmt == 0 && mWidth f == 0
  | 0x1C1 => uses false false false false f && modNone f && f.fmt == 0 && f.fn == 0
  | 0x1C2 | 0x1C3 => f.vb == 0 && f.vc == 0 && decide (f.vd.toNat < 16) && decide (f.md.toNat ≤ 2)
      && decide (f.fn.toNat < 16)
  | 0x1C4 => f.vc == 0 && decide (f.vd.toNat < 16) && decide (f.md.toNat ≤ 2) && decide (f.fn.toNat < 16)
  | 0x1C5 => uses true true false false f && modNone f && fnIn 3 f && decide (f.fn.toNat % 4 ≤ 2)
  | 0x1C6 | 0x1C7 | 0x1C9 => uses true false false false f && decide (f.vd.toNat < 16) && modNone f && f.fmt == 0
      && f.fn == 0
  | 0x1C8 | 0x1CA => uses true true false false f && decide (f.va.toNat < 16) && modNone f && f.fmt == 0 && f.fn == 0
  | _ => false

/-- Class 3 (R181, R182). -/
def order1Special (f : VFields) : Bool := uses true true false false f && modRS f && fnIn 0 f

/-- Class 4 (R146, R265 to R275). -/
def order1Control (op : Nat) (f : VFields) : Bool :=
  modNone f && f.fmt == 0 &&
  match op with
  | 0x240 | 0x243 | 0x244 | 0x245 => uses false false false false f && f.fn == 0
  | 0x241 => uses true false false false f && decide (f.fn.toNat ≤ 5)
  | 0x242 => uses true false false false f && f.fn == 0
  | 0x280 => uses true true true false f && f.fn == 0
  | 0x281 => f.fn == 0
  | 0x288 | 0x28A | 0x28C | 0x28F => uses true true true false f && f.fn == 0
  | 0x289 | 0x28E => uses true true false false f && f.fn == 0
  | 0x28B => f.fn == 0
  | 0x28D => uses true true false false f && decide (f.fn.toNat ≤ 2)
  | 0x290 | 0x293 => uses true false false false f && f.fn == 0
  | 0x291 => uses false true true true f && f.fn == 0
  | 0x292 => uses false true false false f && decide (f.fn.toNat ≤ 2)
  | _ => false

/-- R103 order 1 for a V-format or L-format word: an assigned opcode in a form it is assigned in, and no reserved
bit, unused field or reserved code. Log entry 15. -/
def order1 (op : Nat) (f : VFields) : Bool :=
  formOk op f &&
  (if op < 0x100 then order1Element op f
   else if op < 0x180 then order1Memory op f
   else if op < 0x1C0 then order1Sync op f
   else if op < 0x200 then order1Matrix op f
   else if op < 0x240 then order1Special f
   else order1Control op f)

/-! ## Constructors and opcodes (R101) -/

/-- The opcode and fields of a V-format or L-format instruction, and whether the fields pick this constructor
among those that share its opcode. -/
def vOf : Instr → Option (Nat × VFields × Bool)
  | .clauseStart => none
  | .nop => none
  | .saddReg _ _ _ => none
  | .saddImm _ _ _ => none
  | .ssubReg _ _ _ => none
  | .ssubImm _ _ _ => none
  | .smulReg _ _ _ => none
  | .smulImm _ _ _ => none
  | .smulhReg _ _ _ => none
  | .smulhImm _ _ _ => none
  | .sdivReg _ _ _ => none
  | .sdivImm _ _ _ => none
  | .sremReg _ _ _ => none
  | .sremImm _ _ _ => none
  | .dividerResult => none
  | .sandReg _ _ _ => none
  | .sandImm _ _ _ => none
  | .sorReg _ _ _ => none
  | .sorImm _ _ _ => none
  | .sxorReg _ _ _ => none
  | .sxorImm _ _ _ => none
  | .sandnReg _ _ _ => none
  | .sandnImm _ _ _ => none
  | .sshlReg _ _ _ => none
  | .sshlImm _ _ _ => none
  | .sshrReg _ _ _ => none
  | .sshrImm _ _ _ => none
  | .ssarReg _ _ _ => none
  | .ssarImm _ _ _ => none
  | .srolReg _ _ _ => none
  | .srolImm _ _ _ => none
  | .sminReg _ _ _ => none
  | .sminImm _ _ _ => none
  | .smaxReg _ _ _ => none
  | .smaxImm _ _ _ => none
  | .scmpReg _ _ _ => none
  | .scmpImm _ _ _ => none
  | .scmpUReg _ _ _ => none
  | .scmpUImm _ _ _ => none
  | .sselReg _ _ _ => none
  | .sselImm _ _ _ => none
  | .slea1 _ _ _ => none
  | .slea2 _ _ _ => none
  | .slea4 _ _ _ => none
  | .slea8 _ _ _ => none
  | .slea16 _ _ _ => none
  | .sclz _ _ => none
  | .sctz _ _ => none
  | .spop _ _ => none
  | .sbfx _ _ _ => none
  | .sbfi _ _ _ => none
  | .smov _ _ => none
  | .sli _ _ => none
  | .sliLong f => some (0x0F0, f, f.fn == 0)
  | .sliZ f => some (0x0F0, f, f.fn == 1)
  | .sliHi f => some (0x0F0, f, f.fn == 2)
  | .swid _ _ => none
  | .sget _ _ => none
  | .sset _ _ => none
  | .mpop _ => none
  | .mfirst _ => none
  | .melect => none
  | .bccZ _ _ => none
  | .bccNz _ _ => none
  | .bccLt _ _ => none
  | .bccGe _ _ => none
  | .bccGt _ _ => none
  | .bccLe _ _ => none
  | .bccLong f => some (0x241, f, true)
  | .bra _ => none
  | .braLong f => some (0x240, f, true)
  | .bmz _ => none
  | .bmzLong f => some (0x243, f, true)
  | .bmnz _ => none
  | .bmnzLong f => some (0x244, f, true)
  | .bmall _ => none
  | .bmallLong f => some (0x245, f, true)
  | .call _ _ => none
  | .callLong f => some (0x242, f, true)
  | .ret _ => none
  | .jmpi _ => none
  | .exit => none
  | .yield => none
  | .fwait _ => none
  | .fset _ => none
  | .fclr _ => none
  | .rep _ _ _ _ => none
  | .trap _ => none
  | .rft => none
  | .segset _ _ _ => none
  | .kill _ => none
  | .dyingTeamStop => none
  | .conveyanceEntry => none
  | .vmov f => some (0x000, f, true)
  | .vbcast f => some (0x001, f, true)
  | .vlane f => some (0x002, f, true)
  | .vsetl f => some (0x003, f, true)
  | .viota f => some (0x004, f, true)
  | .vwid f => some (0x005, f, true)
  | .vadd f => some (0x010, f, true)
  | .vsub f => some (0x011, f, true)
  | .vmul f => some (0x012, f, true)
  | .vfma f => some (0x013, f, true)
  | .vfms f => some (0x014, f, true)
  | .vfnma f => some (0x015, f, true)
  | .vmin f => some (0x016, f, true)
  | .vmax f => some (0x017, f, true)
  | .vabs f => some (0x018, f, true)
  | .vneg f => some (0x019, f, true)
  | .vclamp f => some (0x01A, f, true)
  | .viadd f => some (0x020, f, true)
  | .visub f => some (0x021, f, true)
  | .vimul f => some (0x022, f, true)
  | .vimulh f => some (0x023, f, true)
  | .vimad f => some (0x024, f, true)
  | .vshl f => some (0x025, f, true)
  | .vshr f => some (0x026, f, true)
  | .vsar f => some (0x027, f, true)
  | .vand f => some (0x028, f, true)
  | .vor f => some (0x029, f, true)
  | .vxor f => some (0x02A, f, true)
  | .vnot f => some (0x02B, f, true)
  | .vclz f => some (0x02C, f, true)
  | .vpop f => some (0x02D, f, true)
  | .vbfx f => some (0x02E, f, true)
  | .vbfi f => some (0x02F, f, true)
  | .vpermbLit f => some (0x030, f, f.fn.toNat % 2 == 0)
  | .vpermbReg f => some (0x030, f, f.fn.toNat % 2 == 1)
  | .vshuf f => some (0x031, f, true)
  | .vrotImm f => some (0x032, f, f.fn.toNat % 2 == 0)
  | .vrotReg f => some (0x032, f, f.fn.toNat % 2 == 1)
  | .vsel f => some (0x038, f, true)
  | .vcmp f => some (0x039, f, true)
  | .visabs f => some (0x03A, f, true)
  | .vcoalesce f => some (0x03B, f, true)
  | .vnullif f => some (0x03C, f, true)
  | .vmkabs f => some (0x03D, f, true)
  | .vtand f => some (0x03E, f, true)
  | .vtor f => some (0x03F, f, true)
  | .vtnot f => some (0x040, f, true)
  | .vcvt f => some (0x048, f, true)
  | .vquant f => some (0x049, f, true)
  | .vdeq f => some (0x04A, f, true)
  | .vamax f => some (0x04B, f, true)
  | .vradd f => some (0x050, f, true)
  | .vrmin f => some (0x051, f, true)
  | .vrmax f => some (0x052, f, true)
  | .vrcount f => some (0x053, f, true)
  | .vscan f => some (0x054, f, true)
  | .vrand f => some (0x058, f, true)
  | .vrandf f => some (0x059, f, true)
  | .mkmask f => some (0x060, f, true)
  | .vrcp f => some (0x200, f, true)
  | .vrsq f => some (0x201, f, true)
  | .vsqrt f => some (0x202, f, true)
  | .vexp2 f => some (0x203, f, true)
  | .vlog2 f => some (0x204, f, true)
  | .vsin f => some (0x205, f, true)
  | .vcos f => some (0x206, f, true)
  | .vtanh f => some (0x207, f, true)
  | .vlogi f => some (0x208, f, true)
  | .datapathLastPass => none
  | .vld f => some (0x100, f, true)
  | .vst f => some (0x101, f, true)
  | .sld f => some (0x104, f, true)
  | .sst f => some (0x105, f, true)
  | .vlds f => some (0x106, f, true)
  | .vsts f => some (0x107, f, true)
  | .pld f => some (0x108, f, true)
  | .pst f => some (0x109, f, true)
  | .probe f => some (0x113, f, true)
  | .sdrain f => some (0x112, f, true)
  | .cpy f => some (0x110, f, true)
  | .cpyw f => some (0x111, f, true)
  | .copyComplete => none
  | .fence f => some (0x114, f, true)
  | .atom f => some (0x118, f, true)
  | .atoms f => some (0x119, f, true)
  | .red f => some (0x11A, f, true)
  | .amaxswap f => some (0x11B, f, true)
  | .loadDelivery => none
  | .storePerform => none
  | .atomicPerform => none
  | .homeSliceServe => none
  | .releaseBufferDrain => none
  | .promotedAcquireReply => none
  | .retryEntryWrite => none
  | .storeFaultRecordWrite => none
  | .marm f => some (0x180, f, true)
  | .mwait f => some (0x181, f, true)
  | .mwaitBudgetExpiry => none
  | .barv f => some (0x184, f, true)
  | .barw f => some (0x185, f, true)
  | .gbarv f => some (0x186, f, true)
  | .gbarw f => some (0x187, f, true)
  | .hold f => some (0x188, f, true)
  | .hrel f => some (0x189, f, true)
  | .heir f => some (0x18A, f, true)
  | .hclrb f => some (0x18B, f, f.fn != 3)
  | .hclrbPool f => some (0x18B, f, f.fn == 3)
  | .pmake f => some (0x18C, f, true)
  | .pfulfil f => some (0x18D, f, true)
  | .pwait f => some (0x18E, f, true)
  | .permget f => some (0x18F, f, true)
  | .permput f => some (0x190, f, true)
  | .estate f => some (0x191, f, true)
  | .convey f => some (0x192, f, true)
  | .mldt f => some (0x1C0, f, true)
  | .mfence f => some (0x1C1, f, true)
  | .mma f => some (0x1C2, f, true)
  | .mmat f => some (0x1C3, f, true)
  | .mmasp f => some (0x1C4, f, true)
  | .mzero f => some (0x1C6, f, true)
  | .mnew f => some (0x1C7, f, true)
  | .matrixOpStart => none
  | .matrixStep => none
  | .matrixOpRetire => none
  | .mhad f => some (0x1C5, f, true)
  | .mhadComplete => none
  | .mdrain f => some (0x1C8, f, true)
  | .mcnt f => some (0x1CA, f, true)
  | .mdrainRow => none
  | .mwaita f => some (0x1C9, f, true)
  | .gather f => some (0x120, f, true)
  | .scatter f => some (0x121, f, true)
  | .glcfg f => some (0x122, f, true)
  | .gleanerDelivery => none
  | .gleanerScatterWrite => none
  | .bale f => some (0x124, f, true)
  | .unbale f => some (0x125, f, true)
  | .balerComplete => none
  | .unbaleComplete => none
  | .coll f => some (0x126, f, true)
  | .collComplete => none
  | .rcnt f => some (0x128, f, true)
  | .rsnap f => some (0x129, f, true)
  | .routingBankExchange => none
  | .heapoffer f => some (0x12A, f, true)
  | .heapseal f => some (0x12B, f, true)
  | .heapread f => some (0x12C, f, true)
  | .launch f => some (0x280, f, true)
  | .launchd f => some (0x281, f, true)
  | .launchdFenceMet => none
  | .wset f => some (0x288, f, true)
  | .wget f => some (0x289, f, true)
  | .hinsp f => some (0x28A, f, true)
  | .hpoke f => some (0x28B, f, true)
  | .hstep f => some (0x28C, f, true)
  | .hstepEnd => none
  | .stepLimit => none
  | .hresume f => some (0x28D, f, true)
  | .hkill f => some (0x28E, f, true)
  | .lrelease f => some (0x28F, f, true)
  | .rrpop f => some (0x290, f, true)
  | .rput f => some (0x291, f, true)
  | .rdoneDone f => some (0x292, f, f.fn == 0)
  | .rdoneReplay f => some (0x292, f, f.fn == 1)
  | .rdoneAbandon f => some (0x292, f, f.fn == 2)
  | .sfpop f => some (0x293, f, true)
  | .teamHaltStop => none
  | .deliveryTake => none
  | .teamWake => none
  | .teamPromote => none
  | .holdSwap => none
  | .forcedPromotion => none
  | .forcedActivePlace => none
  | .plotPlacement => none
  | .gangReserve => none
  | .gangAbort => none
  | .headgatePreemption => none
  | .preemptionSave => none
  | .restore => none
  | .invalidationEntry => none
  | .eccCorrected => none
  | .predictiveFailure => none
  | .uncorrectableError => none
  | .timingReplay => none
  | .droopEvent => none
  | .droopWindowEnd => none
  | .hotClearWindow => none
  | .powerCapControl => none
  | .thermalThrottle => none
  | .thermalTrip => none
  | .mailboxRegisterWrite => none
  | .featRead => none
  | .featAccept => none
  | .domainSet => none
  | .ctxSetup => none
  | .ctxCreate => none
  | .ctxDestroy => none
  | .coreset => none
  | .preempt => none
  | .killLaunch => none
  | .debug => none
  | .report => none
  | .countersRead => none
  | .countersClear => none
  | .countersProgram => none
  | .attest => none
  | .powerCap => none
  | .bar2Read => none
  | .bar2Write => none
  | .peerRequest => none
  | .linkCrcError => none
  | .linkFailure => none
  | .linkTrainRetry => none
  | .powerGood => none
  | .hbmTrainingDone => none
  | .pcieLinkTrained => none
  | .luadorLinkTrained => none

end Sys2Proof.Machine
end

