-- ==== Sys2Proof/WellFormed.lean ====
section
/-! DEFINITION. Which terms of Instr are instructions that a word can hold: those that pass R103 order 1. Every other check of the manual is made when the instruction issues (Machine/Checks.lean). -/

namespace Sys2Proof

/-- The instruction has an encoding in the S-format (R99). -/
def Instr.isScalarFormat : Instr → Bool
  | .clauseStart => false
  | .nop => true
  | .saddReg _ _ _ => true
  | .saddImm _ _ _ => true
  | .ssubReg _ _ _ => true
  | .ssubImm _ _ _ => true
  | .smulReg _ _ _ => true
  | .smulImm _ _ _ => true
  | .smulhReg _ _ _ => true
  | .smulhImm _ _ _ => true
  | .sdivReg _ _ _ => true
  | .sdivImm _ _ _ => true
  | .sremReg _ _ _ => true
  | .sremImm _ _ _ => true
  | .dividerResult => false
  | .sandReg _ _ _ => true
  | .sandImm _ _ _ => true
  | .sorReg _ _ _ => true
  | .sorImm _ _ _ => true
  | .sxorReg _ _ _ => true
  | .sxorImm _ _ _ => true
  | .sandnReg _ _ _ => true
  | .sandnImm _ _ _ => true
  | .sshlReg _ _ _ => true
  | .sshlImm _ _ _ => true
  | .sshrReg _ _ _ => true
  | .sshrImm _ _ _ => true
  | .ssarReg _ _ _ => true
  | .ssarImm _ _ _ => true
  | .srolReg _ _ _ => true
  | .srolImm _ _ _ => true
  | .sminReg _ _ _ => true
  | .sminImm _ _ _ => true
  | .smaxReg _ _ _ => true
  | .smaxImm _ _ _ => true
  | .scmpReg _ _ _ => true
  | .scmpImm _ _ _ => true
  | .scmpUReg _ _ _ => true
  | .scmpUImm _ _ _ => true
  | .sselReg _ _ _ => true
  | .sselImm _ _ _ => true
  | .slea1 _ _ _ => true
  | .slea2 _ _ _ => true
  | .slea4 _ _ _ => true
  | .slea8 _ _ _ => true
  | .slea16 _ _ _ => true
  | .sclz _ _ => true
  | .sctz _ _ => true
  | .spop _ _ => true
  | .sbfx _ _ _ => true
  | .sbfi _ _ _ => true
  | .smov _ _ => true
  | .sli _ _ => true
  | .sliLong _ => false
  | .sliZ _ => false
  | .sliHi _ => false
  | .swid _ _ => true
  | .sget _ _ => true
  | .sset _ _ => true
  | .mpop _ => true
  | .mfirst _ => true
  | .melect => true
  | .bccZ _ _ => true
  | .bccNz _ _ => true
  | .bccLt _ _ => true
  | .bccGe _ _ => true
  | .bccGt _ _ => true
  | .bccLe _ _ => true
  | .bccLong _ => false
  | .bra _ => true
  | .braLong _ => false
  | .bmz _ => true
  | .bmzLong _ => false
  | .bmnz _ => true
  | .bmnzLong _ => false
  | .bmall _ => true
  | .bmallLong _ => false
  | .call _ _ => true
  | .callLong _ => false
  | .ret _ => true
  | .jmpi _ => true
  | .exit => true
  | .yield => true
  | .fwait _ => true
  | .fset _ => true
  | .fclr _ => true
  | .rep _ _ _ _ => true
  | .trap _ => true
  | .rft => true
  | .segset _ _ _ => true
  | .kill _ => true
  | .dyingTeamStop => false
  | .conveyanceEntry => false
  | .vmov _ => false
  | .vbcast _ => false
  | .vlane _ => false
  | .vsetl _ => false
  | .viota _ => false
  | .vwid _ => false
  | .vadd _ => false
  | .vsub _ => false
  | .vmul _ => false
  | .vfma _ => false
  | .vfms _ => false
  | .vfnma _ => false
  | .vmin _ => false
  | .vmax _ => false
  | .vabs _ => false
  | .vneg _ => false
  | .vclamp _ => false
  | .viadd _ => false
  | .visub _ => false
  | .vimul _ => false
  | .vimulh _ => false
  | .vimad _ => false
  | .vshl _ => false
  | .vshr _ => false
  | .vsar _ => false
  | .vand _ => false
  | .vor _ => false
  | .vxor _ => false
  | .vnot _ => false
  | .vclz _ => false
  | .vpop _ => false
  | .vbfx _ => false
  | .vbfi _ => false
  | .vpermbLit _ => false
  | .vpermbReg _ => false
  | .vshuf _ => false
  | .vrotImm _ => false
  | .vrotReg _ => false
  | .vsel _ => false
  | .vcmp _ => false
  | .visabs _ => false
  | .vcoalesce _ => false
  | .vnullif _ => false
  | .vmkabs _ => false
  | .vtand _ => false
  | .vtor _ => false
  | .vtnot _ => false
  | .vcvt _ => false
  | .vquant _ => false
  | .vdeq _ => false
  | .vamax _ => false
  | .vradd _ => false
  | .vrmin _ => false
  | .vrmax _ => false
  | .vrcount _ => false
  | .vscan _ => false
  | .vrand _ => false
  | .vrandf _ => false
  | .mkmask _ => false
  | .vrcp _ => false
  | .vrsq _ => false
  | .vsqrt _ => false
  | .vexp2 _ => false
  | .vlog2 _ => false
  | .vsin _ => false
  | .vcos _ => false
  | .vtanh _ => false
  | .vlogi _ => false
  | .datapathLastPass => false
  | .vld _ => false
  | .vst _ => false
  | .sld _ => false
  | .sst _ => false
  | .vlds _ => false
  | .vsts _ => false
  | .pld _ => false
  | .pst _ => false
  | .probe _ => false
  | .sdrain _ => false
  | .cpy _ => false
  | .cpyw _ => false
  | .copyComplete => false
  | .fence _ => false
  | .atom _ => false
  | .atoms _ => false
  | .red _ => false
  | .amaxswap _ => false
  | .loadDelivery => false
  | .storePerform => false
  | .atomicPerform => false
  | .homeSliceServe => false
  | .releaseBufferDrain => false
  | .promotedAcquireReply => false
  | .retryEntryWrite => false
  | .storeFaultRecordWrite => false
  | .marm _ => false
  | .mwait _ => false
  | .mwaitBudgetExpiry => false
  | .barv _ => false
  | .barw _ => false
  | .gbarv _ => false
  | .gbarw _ => false
  | .hold _ => false
  | .hrel _ => false
  | .heir _ => false
  | .hclrb _ => false
  | .hclrbPool _ => false
  | .pmake _ => false
  | .pfulfil _ => false
  | .pwait _ => false
  | .permget _ => false
  | .permput _ => false
  | .estate _ => false
  | .convey _ => false
  | .mldt _ => false
  | .mfence _ => false
  | .mma _ => false
  | .mmat _ => false
  | .mmasp _ => false
  | .mzero _ => false
  | .mnew _ => false
  | .matrixOpStart => false
  | .matrixStep => false
  | .matrixOpRetire => false
  | .mhad _ => false
  | .mhadComplete => false
  | .mdrain _ => false
  | .mcnt _ => false
  | .mdrainRow => false
  | .mwaita _ => false
  | .gather _ => false
  | .scatter _ => false
  | .glcfg _ => false
  | .gleanerDelivery => false
  | .gleanerScatterWrite => false
  | .bale _ => false
  | .unbale _ => false
  | .balerComplete => false
  | .unbaleComplete => false
  | .coll _ => false
  | .collComplete => false
  | .rcnt _ => false
  | .rsnap _ => false
  | .routingBankExchange => false
  | .heapoffer _ => false
  | .heapseal _ => false
  | .heapread _ => false
  | .launch _ => false
  | .launchd _ => false
  | .launchdFenceMet => false
  | .wset _ => false
  | .wget _ => false
  | .hinsp _ => false
  | .hpoke _ => false
  | .hstep _ => false
  | .hstepEnd => false
  | .stepLimit => false
  | .hresume _ => false
  | .hkill _ => false
  | .lrelease _ => false
  | .rrpop _ => false
  | .rput _ => false
  | .rdoneDone _ => false
  | .rdoneReplay _ => false
  | .rdoneAbandon _ => false
  | .sfpop _ => false
  | .teamHaltStop => false
  | .deliveryTake => false
  | .teamWake => false
  | .teamPromote => false
  | .holdSwap => false
  | .forcedPromotion => false
  | .forcedActivePlace => false
  | .plotPlacement => false
  | .gangReserve => false
  | .gangAbort => false
  | .headgatePreemption => false
  | .preemptionSave => false
  | .restore => false
  | .invalidationEntry => false
  | .eccCorrected => false
  | .predictiveFailure => false
  | .uncorrectableError => false
  | .timingReplay => false
  | .droopEvent => false
  | .droopWindowEnd => false
  | .hotClearWindow => false
  | .powerCapControl => false
  | .thermalThrottle => false
  | .thermalTrip => false
  | .mailboxRegisterWrite => false
  | .featRead => false
  | .featAccept => false
  | .domainSet => false
  | .ctxSetup => false
  | .ctxCreate => false
  | .ctxDestroy => false
  | .coreset => false
  | .preempt => false
  | .killLaunch => false
  | .debug => false
  | .report => false
  | .countersRead => false
  | .countersClear => false
  | .countersProgram => false
  | .attest => false
  | .powerCap => false
  | .bar2Read => false
  | .bar2Write => false
  | .peerRequest => false
  | .linkCrcError => false
  | .linkFailure => false
  | .linkTrainRetry => false
  | .powerGood => false
  | .hbmTrainingDone => false
  | .pcieLinkTrained => false
  | .luadorLinkTrained => false

/-- The instruction is one that a word of code can hold: every S-format instruction, and a V-format or L-format
one whose fields pass order 1 of R103 and pick its constructor. An event of the machine is none. -/
def Instr.wellFormed (i : Instr) : Bool :=
  match Machine.vOf i with
  | some (op, f, picked) => Machine.order1 op f && picked
  | none => i.isScalarFormat

end Sys2Proof
end

