-- ==== Sys2Proof/Decode.lean ====
section
/-! DEFINITION. The decoder, total on any parcels and bytes, which refuses by name; and the encoder, written from the same tables (R87, R92, R93, R99, R101). -/

namespace Sys2Proof

/-- Why a word is not an instruction. -/
inductive DecodeError where
  /-- The parcels end inside the word. -/
  | truncated
  /-- A first parcel of kind 0b11 is a clause header (R87). -/
  | header
  /-- An unassigned opcode (R99, R101). -/
  | unassigned
  /-- The opcode is not assigned in this format (R93). -/
  | form
  /-- A nonzero reserved bit or unused field, or a reserved code (R103 order 1). -/
  | reserved
  deriving DecidableEq, Repr

/-- What the decoder answers: an instruction and the number of its parcels, or a refusal. -/
inductive Decoded where
  | ok (i : Instr) (parcels : Nat)
  | refused (e : DecodeError)
  deriving DecidableEq, Repr

namespace Machine

/-- Bits [hi:lo] of a parcel are zero. -/
def zeroIn (w hi lo : Nat) : Bool := w / 2 ^ lo % 2 ^ (hi - lo + 1) == 0

/-- SD (R92). -/
def sdBits (w : Nat) : BitVec 7 := BitVec.ofNat 7 (w / 2 ^ 15)
/-- SA (R92). -/
def saOf (w : Nat) : BitVec 7 := BitVec.ofNat 7 (w / 2 ^ 8)
/-- SB as a register number (R92). -/
def sbOf (w : Nat) : BitVec 7 := BitVec.ofNat 7 w
/-- SB as an 8-bit immediate (R92). -/
def immOf (w : Nat) : BitVec 8 := BitVec.ofNat 8 w
/-- SB as a shift amount (R132). -/
def amtOf (w : Nat) : BitVec 6 := BitVec.ofNat 6 w

end Machine

open Machine

/-- The S-format instruction that a parcel holds (R99, R132), if every unused bit is zero. -/
def decodeS (w : Nat) : Option Instr :=
  match w / 2 ^ 22 % 256 with
  | 0x00 => if zeroIn w 21 0 then some .nop else none
  | 0x02 => if zeroIn w 7 7 then some (.saddReg (sdBits w) (saOf w) (sbOf w)) else none
  | 0x03 => some (.saddImm (sdBits w) (saOf w) (immOf w))
  | 0x04 => if zeroIn w 7 7 then some (.ssubReg (sdBits w) (saOf w) (sbOf w)) else none
  | 0x05 => some (.ssubImm (sdBits w) (saOf w) (immOf w))
  | 0x06 => if zeroIn w 7 7 then some (.smulReg (sdBits w) (saOf w) (sbOf w)) else none
  | 0x07 => some (.smulImm (sdBits w) (saOf w) (immOf w))
  | 0x08 => if zeroIn w 7 7 then some (.smulhReg (sdBits w) (saOf w) (sbOf w)) else none
  | 0x09 => some (.smulhImm (sdBits w) (saOf w) (immOf w))
  | 0x0A => if zeroIn w 7 7 then some (.sdivReg (sdBits w) (saOf w) (sbOf w)) else none
  | 0x0B => some (.sdivImm (sdBits w) (saOf w) (immOf w))
  | 0x0C => if zeroIn w 7 7 then some (.sremReg (sdBits w) (saOf w) (sbOf w)) else none
  | 0x0D => some (.sremImm (sdBits w) (saOf w) (immOf w))
  | 0x0E => if zeroIn w 7 7 then some (.sandReg (sdBits w) (saOf w) (sbOf w)) else none
  | 0x0F => some (.sandImm (sdBits w) (saOf w) (immOf w))
  | 0x10 => if zeroIn w 7 7 then some (.sorReg (sdBits w) (saOf w) (sbOf w)) else none
  | 0x11 => some (.sorImm (sdBits w) (saOf w) (immOf w))
  | 0x12 => if zeroIn w 7 7 then some (.sxorReg (sdBits w) (saOf w) (sbOf w)) else none
  | 0x13 => some (.sxorImm (sdBits w) (saOf w) (immOf w))
  | 0x14 => if zeroIn w 7 7 then some (.sandnReg (sdBits w) (saOf w) (sbOf w)) else none
  | 0x15 => some (.sandnImm (sdBits w) (saOf w) (immOf w))
  | 0x16 => if zeroIn w 7 7 then some (.sshlReg (sdBits w) (saOf w) (sbOf w)) else none
  | 0x17 => if zeroIn w 7 6 then some (.sshlImm (sdBits w) (saOf w) (amtOf w)) else none
  | 0x18 => if zeroIn w 7 7 then some (.sshrReg (sdBits w) (saOf w) (sbOf w)) else none
  | 0x19 => if zeroIn w 7 6 then some (.sshrImm (sdBits w) (saOf w) (amtOf w)) else none
  | 0x1A => if zeroIn w 7 7 then some (.ssarReg (sdBits w) (saOf w) (sbOf w)) else none
  | 0x1B => if zeroIn w 7 6 then some (.ssarImm (sdBits w) (saOf w) (amtOf w)) else none
  | 0x1C => if zeroIn w 7 7 then some (.srolReg (sdBits w) (saOf w) (sbOf w)) else none
  | 0x1D => if zeroIn w 7 6 then some (.srolImm (sdBits w) (saOf w) (amtOf w)) else none
  | 0x1E => if zeroIn w 7 7 then some (.sminReg (sdBits w) (saOf w) (sbOf w)) else none
  | 0x1F => some (.sminImm (sdBits w) (saOf w) (immOf w))
  | 0x20 => if zeroIn w 7 7 then some (.smaxReg (sdBits w) (saOf w) (sbOf w)) else none
  | 0x21 => some (.smaxImm (sdBits w) (saOf w) (immOf w))
  | 0x22 => if zeroIn w 7 7 then some (.scmpReg (sdBits w) (saOf w) (sbOf w)) else none
  | 0x23 => some (.scmpImm (sdBits w) (saOf w) (immOf w))
  | 0x24 => if zeroIn w 7 7 then some (.scmpUReg (sdBits w) (saOf w) (sbOf w)) else none
  | 0x25 => some (.scmpUImm (sdBits w) (saOf w) (immOf w))
  | 0x26 => if zeroIn w 7 7 then some (.sselReg (sdBits w) (saOf w) (sbOf w)) else none
  | 0x27 => some (.sselImm (sdBits w) (saOf w) (immOf w))
  | 0x28 => if zeroIn w 7 7 then some (.slea1 (sdBits w) (saOf w) (sbOf w)) else none
  | 0x29 => if zeroIn w 7 7 then some (.slea2 (sdBits w) (saOf w) (sbOf w)) else none
  | 0x2A => if zeroIn w 7 7 then some (.slea4 (sdBits w) (saOf w) (sbOf w)) else none
  | 0x2B => if zeroIn w 7 7 then some (.slea8 (sdBits w) (saOf w) (sbOf w)) else none
  | 0x2C => if zeroIn w 7 7 then some (.slea16 (sdBits w) (saOf w) (sbOf w)) else none
  | 0x2D => if zeroIn w 7 0 then some (.sclz (sdBits w) (saOf w)) else none
  | 0x2E => if zeroIn w 7 0 then some (.sctz (sdBits w) (saOf w)) else none
  | 0x2F => if zeroIn w 7 0 then some (.spop (sdBits w) (saOf w)) else none
  | 0x30 => if zeroIn w 7 7 then some (.sbfx (sdBits w) (saOf w) (sbOf w)) else none
  | 0x31 => if zeroIn w 7 7 then some (.sbfi (sdBits w) (saOf w) (sbOf w)) else none
  | 0x32 => if zeroIn w 7 0 then some (.smov (sdBits w) (saOf w)) else none
  | 0x33 => if zeroIn w 14 8 then some (.sli (sdBits w) (immOf w)) else none
  | 0x34 => if zeroIn w 14 8 then some (.swid (sdBits w) (immOf w)) else none
  | 0x35 => if zeroIn w 14 8 then some (.sget (sdBits w) (immOf w)) else none
  | 0x36 => if zeroIn w 21 15 then some (.sset (saOf w) (immOf w)) else none
  | 0x38 => if zeroIn w 14 0 then some (.mpop (sdBits w)) else none
  | 0x39 => if zeroIn w 14 0 then some (.mfirst (sdBits w)) else none
  | 0x3A => if zeroIn w 21 0 then some .melect else none
  | 0x40 => some (.bccZ (sdBits w) (BitVec.ofNat 15 w))
  | 0x41 => some (.bccNz (sdBits w) (BitVec.ofNat 15 w))
  | 0x42 => some (.bccLt (sdBits w) (BitVec.ofNat 15 w))
  | 0x43 => some (.bccGe (sdBits w) (BitVec.ofNat 15 w))
  | 0x44 => some (.bccGt (sdBits w) (BitVec.ofNat 15 w))
  | 0x45 => some (.bccLe (sdBits w) (BitVec.ofNat 15 w))
  | 0x48 => some (.bra (BitVec.ofNat 22 w))
  | 0x49 => some (.bmz (BitVec.ofNat 22 w))
  | 0x4A => some (.bmnz (BitVec.ofNat 22 w))
  | 0x4B => some (.bmall (BitVec.ofNat 22 w))
  | 0x4C => some (.call (sdBits w) (BitVec.ofNat 15 w))
  | 0x4D => if zeroIn w 7 0 && zeroIn w 21 15 then some (.ret (saOf w)) else none
  | 0x4E => if zeroIn w 7 0 && zeroIn w 21 15 then some (.jmpi (saOf w)) else none
  | 0x4F => if zeroIn w 21 0 then some .exit else none
  | 0x50 => if zeroIn w 21 0 then some .yield else none
  | 0x51 => if zeroIn w 21 12 then some (.fwait (BitVec.ofNat 12 w)) else none
  | 0x52 => if zeroIn w 21 12 then some (.fset (BitVec.ofNat 12 w)) else none
  | 0x53 => if zeroIn w 21 12 then some (.fclr (BitVec.ofNat 12 w)) else none
  | 0x54 => if zeroIn w 3 0 then some (.rep (BitVec.ofNat 6 (w / 2 ^ 16)) (BitVec.ofNat 4 (w / 2 ^ 12)) (BitVec.ofNat 4 (w / 2 ^ 8)) (BitVec.ofNat 4 (w / 2 ^ 4))) else none
  | 0x55 => if zeroIn w 21 8 then some (.trap (immOf w)) else none
  | 0x58 => if zeroIn w 21 0 then some .rft else none
  | 0x59 => if zeroIn w 7 7 && zeroIn w 18 15 then some (.segset (BitVec.ofNat 3 (w / 2 ^ 19)) (saOf w) (sbOf w)) else none
  | 0x5A => if zeroIn w 7 0 && zeroIn w 21 15 then some (.kill (saOf w)) else none
  | _ => none

/-- The S-format opcode is assigned (R99). -/
def assignedS (op : Nat) : Bool :=
  op == 0x00 || (decide (0x02 ≤ op) && decide (op ≤ 0x36)) || (decide (0x38 ≤ op) && decide (op ≤ 0x3A))
    || (decide (0x40 ≤ op) && decide (op ≤ 0x45)) || (decide (0x48 ≤ op) && decide (op ≤ 0x55))
    || (decide (0x58 ≤ op) && decide (op ≤ 0x5A))

/-- The constructor that a V-format or L-format opcode and its fields name (R101). -/
def ofV (op : Nat) (f : VFields) : Option Instr :=
  match op with
  | 0x000 => some (.vmov f)
  | 0x001 => some (.vbcast f)
  | 0x002 => some (.vlane f)
  | 0x003 => some (.vsetl f)
  | 0x004 => some (.viota f)
  | 0x005 => some (.vwid f)
  | 0x010 => some (.vadd f)
  | 0x011 => some (.vsub f)
  | 0x012 => some (.vmul f)
  | 0x013 => some (.vfma f)
  | 0x014 => some (.vfms f)
  | 0x015 => some (.vfnma f)
  | 0x016 => some (.vmin f)
  | 0x017 => some (.vmax f)
  | 0x018 => some (.vabs f)
  | 0x019 => some (.vneg f)
  | 0x01A => some (.vclamp f)
  | 0x020 => some (.viadd f)
  | 0x021 => some (.visub f)
  | 0x022 => some (.vimul f)
  | 0x023 => some (.vimulh f)
  | 0x024 => some (.vimad f)
  | 0x025 => some (.vshl f)
  | 0x026 => some (.vshr f)
  | 0x027 => some (.vsar f)
  | 0x028 => some (.vand f)
  | 0x029 => some (.vor f)
  | 0x02A => some (.vxor f)
  | 0x02B => some (.vnot f)
  | 0x02C => some (.vclz f)
  | 0x02D => some (.vpop f)
  | 0x02E => some (.vbfx f)
  | 0x02F => some (.vbfi f)
  | 0x030 => some (if f.fn.toNat % 2 = 1 then .vpermbReg f else .vpermbLit f)
  | 0x031 => some (.vshuf f)
  | 0x032 => some (if f.fn.toNat % 2 = 1 then .vrotReg f else .vrotImm f)
  | 0x038 => some (.vsel f)
  | 0x039 => some (.vcmp f)
  | 0x03A => some (.visabs f)
  | 0x03B => some (.vcoalesce f)
  | 0x03C => some (.vnullif f)
  | 0x03D => some (.vmkabs f)
  | 0x03E => some (.vtand f)
  | 0x03F => some (.vtor f)
  | 0x040 => some (.vtnot f)
  | 0x048 => some (.vcvt f)
  | 0x049 => some (.vquant f)
  | 0x04A => some (.vdeq f)
  | 0x04B => some (.vamax f)
  | 0x050 => some (.vradd f)
  | 0x051 => some (.vrmin f)
  | 0x052 => some (.vrmax f)
  | 0x053 => some (.vrcount f)
  | 0x054 => some (.vscan f)
  | 0x058 => some (.vrand f)
  | 0x059 => some (.vrandf f)
  | 0x060 => some (.mkmask f)
  | 0x0F0 => some (if f.fn = 0 then .sliLong f else if f.fn = 1 then .sliZ f else .sliHi f)
  | 0x100 => some (.vld f)
  | 0x101 => some (.vst f)
  | 0x104 => some (.sld f)
  | 0x105 => some (.sst f)
  | 0x106 => some (.vlds f)
  | 0x107 => some (.vsts f)
  | 0x108 => some (.pld f)
  | 0x109 => some (.pst f)
  | 0x110 => some (.cpy f)
  | 0x111 => some (.cpyw f)
  | 0x112 => some (.sdrain f)
  | 0x113 => some (.probe f)
  | 0x114 => some (.fence f)
  | 0x118 => some (.atom f)
  | 0x119 => some (.atoms f)
  | 0x11A => some (.red f)
  | 0x11B => some (.amaxswap f)
  | 0x120 => some (.gather f)
  | 0x121 => some (.scatter f)
  | 0x122 => some (.glcfg f)
  | 0x124 => some (.bale f)
  | 0x125 => some (.unbale f)
  | 0x126 => some (.coll f)
  | 0x128 => some (.rcnt f)
  | 0x129 => some (.rsnap f)
  | 0x12A => some (.heapoffer f)
  | 0x12B => some (.heapseal f)
  | 0x12C => some (.heapread f)
  | 0x180 => some (.marm f)
  | 0x181 => some (.mwait f)
  | 0x184 => some (.barv f)
  | 0x185 => some (.barw f)
  | 0x186 => some (.gbarv f)
  | 0x187 => some (.gbarw f)
  | 0x188 => some (.hold f)
  | 0x189 => some (.hrel f)
  | 0x18A => some (.heir f)
  | 0x18B => some (if f.fn = 3 then .hclrbPool f else .hclrb f)
  | 0x18C => some (.pmake f)
  | 0x18D => some (.pfulfil f)
  | 0x18E => some (.pwait f)
  | 0x18F => some (.permget f)
  | 0x190 => some (.permput f)
  | 0x191 => some (.estate f)
  | 0x192 => some (.convey f)
  | 0x1C0 => some (.mldt f)
  | 0x1C1 => some (.mfence f)
  | 0x1C2 => some (.mma f)
  | 0x1C3 => some (.mmat f)
  | 0x1C4 => some (.mmasp f)
  | 0x1C5 => some (.mhad f)
  | 0x1C6 => some (.mzero f)
  | 0x1C7 => some (.mnew f)
  | 0x1C8 => some (.mdrain f)
  | 0x1C9 => some (.mwaita f)
  | 0x1CA => some (.mcnt f)
  | 0x200 => some (.vrcp f)
  | 0x201 => some (.vrsq f)
  | 0x202 => some (.vsqrt f)
  | 0x203 => some (.vexp2 f)
  | 0x204 => some (.vlog2 f)
  | 0x205 => some (.vsin f)
  | 0x206 => some (.vcos f)
  | 0x207 => some (.vtanh f)
  | 0x208 => some (.vlogi f)
  | 0x240 => some (.braLong f)
  | 0x241 => some (.bccLong f)
  | 0x242 => some (.callLong f)
  | 0x243 => some (.bmzLong f)
  | 0x244 => some (.bmnzLong f)
  | 0x245 => some (.bmallLong f)
  | 0x280 => some (.launch f)
  | 0x281 => some (.launchd f)
  | 0x288 => some (.wset f)
  | 0x289 => some (.wget f)
  | 0x28A => some (.hinsp f)
  | 0x28B => some (.hpoke f)
  | 0x28C => some (.hstep f)
  | 0x28D => some (.hresume f)
  | 0x28E => some (.hkill f)
  | 0x28F => some (.lrelease f)
  | 0x290 => some (.rrpop f)
  | 0x291 => some (.rput f)
  | 0x292 => some (if f.fn = 0 then .rdoneDone f else if f.fn = 1 then .rdoneReplay f else .rdoneAbandon f)
  | 0x293 => some (.sfpop f)
  | _ => none

/-- Decode a V-format or L-format word of so many parcels. -/
def decodeV (op : Nat) (f : VFields) (n : Nat) : Decoded :=
  match formOf op with
  | none => .refused .unassigned
  | some _ =>
    if formOk op f then
      if order1 op f then
        match ofV op f with
        | some i => .ok i n
        | none => .refused .unassigned
      else .refused .reserved
    else .refused .form

/-- The instruction that stands at the head of a list of parcels (R87, R92, R93). -/
def decode : List Word → Decoded
  | [] => .refused .truncated
  | p0 :: rest =>
    match kindOf p0, rest with
    | 0, _ =>
      match decodeS p0.toNat with
      | some i => .ok i 1
      | none => .refused (if assignedS (p0.toNat / 2 ^ 22 % 256) then .reserved else .unassigned)
    | 1, p1 :: _ => decodeV (opcodeOf p0) (fieldsOf p0 p1 none) 2
    | 2, p1 :: p2 :: _ => decodeV (opcodeOf p0) (fieldsOf p0 p1 (some p2)) 3
    | 3, _ => .refused .header
    | _, _ => .refused .truncated

/-- Parcels from bytes, each a little-endian word (R7); bytes past the last whole parcel are left. -/
def parcelsOf : List Byte → List Word
  | a :: b :: c :: d :: r =>
    BitVec.ofNat 32 (a.toNat + b.toNat * 2 ^ 8 + c.toNat * 2 ^ 16 + d.toNat * 2 ^ 24) :: parcelsOf r
  | _ => []

/-- The instruction that stands at the head of a list of bytes. -/
def decodeBytes (bs : List Byte) : Decoded := decode (parcelsOf bs)

/-- The instruction read from an instruction whose bits are numbered as the opcode table numbers them: the first
parcel in bits [31:0], the second in [63:32], the third in [95:64]. -/
def decodeTableWord (nbits w : Nat) : Option Instr :=
  let w := w % 2 ^ nbits
  match decode [BitVec.ofNat 32 w, BitVec.ofNat 32 (w / 2 ^ 32), BitVec.ofNat 32 (w / 2 ^ 64)] with
  | .ok i _ => some i
  | .refused _ => none

/-- An S-format parcel from its opcode and the fields SD, SA and SB (R92). -/
def sWord (op d a b : Nat) : Word := BitVec.ofNat 32 (op * 2 ^ 22 + d * 2 ^ 15 + a * 2 ^ 8 + b)

/-- The parcel of REP (R102). -/
def repWord (n d a b : Nat) : Word := BitVec.ofNat 32 (0x54 * 2 ^ 22 + n * 2 ^ 16 + d * 2 ^ 12 + a * 2 ^ 8 + b * 2 ^ 4)

/-- The parcel of an S-format instruction (R92, R99). -/
def encodeS : Instr → Option Word
  | .nop => some (sWord 0x00 0 0 0)
  | .saddReg d a b => some (sWord 0x02 d.toNat a.toNat b.toNat)
  | .saddImm d a i => some (sWord 0x03 d.toNat a.toNat i.toNat)
  | .ssubReg d a b => some (sWord 0x04 d.toNat a.toNat b.toNat)
  | .ssubImm d a i => some (sWord 0x05 d.toNat a.toNat i.toNat)
  | .smulReg d a b => some (sWord 0x06 d.toNat a.toNat b.toNat)
  | .smulImm d a i => some (sWord 0x07 d.toNat a.toNat i.toNat)
  | .smulhReg d a b => some (sWord 0x08 d.toNat a.toNat b.toNat)
  | .smulhImm d a i => some (sWord 0x09 d.toNat a.toNat i.toNat)
  | .sdivReg d a b => some (sWord 0x0A d.toNat a.toNat b.toNat)
  | .sdivImm d a i => some (sWord 0x0B d.toNat a.toNat i.toNat)
  | .sremReg d a b => some (sWord 0x0C d.toNat a.toNat b.toNat)
  | .sremImm d a i => some (sWord 0x0D d.toNat a.toNat i.toNat)
  | .sandReg d a b => some (sWord 0x0E d.toNat a.toNat b.toNat)
  | .sandImm d a i => some (sWord 0x0F d.toNat a.toNat i.toNat)
  | .sorReg d a b => some (sWord 0x10 d.toNat a.toNat b.toNat)
  | .sorImm d a i => some (sWord 0x11 d.toNat a.toNat i.toNat)
  | .sxorReg d a b => some (sWord 0x12 d.toNat a.toNat b.toNat)
  | .sxorImm d a i => some (sWord 0x13 d.toNat a.toNat i.toNat)
  | .sandnReg d a b => some (sWord 0x14 d.toNat a.toNat b.toNat)
  | .sandnImm d a i => some (sWord 0x15 d.toNat a.toNat i.toNat)
  | .sshlReg d a b => some (sWord 0x16 d.toNat a.toNat b.toNat)
  | .sshlImm d a n => some (sWord 0x17 d.toNat a.toNat n.toNat)
  | .sshrReg d a b => some (sWord 0x18 d.toNat a.toNat b.toNat)
  | .sshrImm d a n => some (sWord 0x19 d.toNat a.toNat n.toNat)
  | .ssarReg d a b => some (sWord 0x1A d.toNat a.toNat b.toNat)
  | .ssarImm d a n => some (sWord 0x1B d.toNat a.toNat n.toNat)
  | .srolReg d a b => some (sWord 0x1C d.toNat a.toNat b.toNat)
  | .srolImm d a n => some (sWord 0x1D d.toNat a.toNat n.toNat)
  | .sminReg d a b => some (sWord 0x1E d.toNat a.toNat b.toNat)
  | .sminImm d a i => some (sWord 0x1F d.toNat a.toNat i.toNat)
  | .smaxReg d a b => some (sWord 0x20 d.toNat a.toNat b.toNat)
  | .smaxImm d a i => some (sWord 0x21 d.toNat a.toNat i.toNat)
  | .scmpReg d a b => some (sWord 0x22 d.toNat a.toNat b.toNat)
  | .scmpImm d a i => some (sWord 0x23 d.toNat a.toNat i.toNat)
  | .scmpUReg d a b => some (sWord 0x24 d.toNat a.toNat b.toNat)
  | .scmpUImm d a i => some (sWord 0x25 d.toNat a.toNat i.toNat)
  | .sselReg d a b => some (sWord 0x26 d.toNat a.toNat b.toNat)
  | .sselImm d a i => some (sWord 0x27 d.toNat a.toNat i.toNat)
  | .slea1 d a b => some (sWord 0x28 d.toNat a.toNat b.toNat)
  | .slea2 d a b => some (sWord 0x29 d.toNat a.toNat b.toNat)
  | .slea4 d a b => some (sWord 0x2A d.toNat a.toNat b.toNat)
  | .slea8 d a b => some (sWord 0x2B d.toNat a.toNat b.toNat)
  | .slea16 d a b => some (sWord 0x2C d.toNat a.toNat b.toNat)
  | .sclz d a => some (sWord 0x2D d.toNat a.toNat 0)
  | .sctz d a => some (sWord 0x2E d.toNat a.toNat 0)
  | .spop d a => some (sWord 0x2F d.toNat a.toNat 0)
  | .sbfx d a b => some (sWord 0x30 d.toNat a.toNat b.toNat)
  | .sbfi d a b => some (sWord 0x31 d.toNat a.toNat b.toNat)
  | .smov d a => some (sWord 0x32 d.toNat a.toNat 0)
  | .sli d i => some (sWord 0x33 d.toNat 0 i.toNat)
  | .swid d k => some (sWord 0x34 d.toNat 0 k.toNat)
  | .sget d c => some (sWord 0x35 d.toNat 0 c.toNat)
  | .sset a c => some (sWord 0x36 0 a.toNat c.toNat)
  | .mpop d => some (sWord 0x38 d.toNat 0 0)
  | .mfirst d => some (sWord 0x39 d.toNat 0 0)
  | .melect => some (sWord 0x3A 0 0 0)
  | .bccZ t o => some (sWord 0x40 t.toNat 0 o.toNat)
  | .bccNz t o => some (sWord 0x41 t.toNat 0 o.toNat)
  | .bccLt t o => some (sWord 0x42 t.toNat 0 o.toNat)
  | .bccGe t o => some (sWord 0x43 t.toNat 0 o.toNat)
  | .bccGt t o => some (sWord 0x44 t.toNat 0 o.toNat)
  | .bccLe t o => some (sWord 0x45 t.toNat 0 o.toNat)
  | .bra o => some (sWord 0x48 0 0 o.toNat)
  | .bmz o => some (sWord 0x49 0 0 o.toNat)
  | .bmnz o => some (sWord 0x4A 0 0 o.toNat)
  | .bmall o => some (sWord 0x4B 0 0 o.toNat)
  | .call k o => some (sWord 0x4C k.toNat 0 o.toNat)
  | .ret a => some (sWord 0x4D 0 a.toNat 0)
  | .jmpi a => some (sWord 0x4E 0 a.toNat 0)
  | .exit => some (sWord 0x4F 0 0 0)
  | .yield => some (sWord 0x50 0 0 0)
  | .fwait m => some (sWord 0x51 0 0 m.toNat)
  | .fset m => some (sWord 0x52 0 0 m.toNat)
  | .fclr m => some (sWord 0x53 0 0 m.toNat)
  | .rep n d a b => some (repWord n.toNat d.toNat a.toNat b.toNat)
  | .trap c => some (sWord 0x55 0 0 c.toNat)
  | .rft => some (sWord 0x58 0 0 0)
  | .segset s a b => some (sWord 0x59 (s.toNat * 16) a.toNat b.toNat)
  | .kill a => some (sWord 0x5A 0 a.toNat 0)
  | .clauseStart => none
  | .dividerResult => none
  | .sliLong _ => none
  | .sliZ _ => none
  | .sliHi _ => none
  | .bccLong _ => none
  | .braLong _ => none
  | .bmzLong _ => none
  | .bmnzLong _ => none
  | .bmallLong _ => none
  | .callLong _ => none
  | .dyingTeamStop => none
  | .conveyanceEntry => none
  | .vmov _ => none
  | .vbcast _ => none
  | .vlane _ => none
  | .vsetl _ => none
  | .viota _ => none
  | .vwid _ => none
  | .vadd _ => none
  | .vsub _ => none
  | .vmul _ => none
  | .vfma _ => none
  | .vfms _ => none
  | .vfnma _ => none
  | .vmin _ => none
  | .vmax _ => none
  | .vabs _ => none
  | .vneg _ => none
  | .vclamp _ => none
  | .viadd _ => none
  | .visub _ => none
  | .vimul _ => none
  | .vimulh _ => none
  | .vimad _ => none
  | .vshl _ => none
  | .vshr _ => none
  | .vsar _ => none
  | .vand _ => none
  | .vor _ => none
  | .vxor _ => none
  | .vnot _ => none
  | .vclz _ => none
  | .vpop _ => none
  | .vbfx _ => none
  | .vbfi _ => none
  | .vpermbLit _ => none
  | .vpermbReg _ => none
  | .vshuf _ => none
  | .vrotImm _ => none
  | .vrotReg _ => none
  | .vsel _ => none
  | .vcmp _ => none
  | .visabs _ => none
  | .vcoalesce _ => none
  | .vnullif _ => none
  | .vmkabs _ => none
  | .vtand _ => none
  | .vtor _ => none
  | .vtnot _ => none
  | .vcvt _ => none
  | .vquant _ => none
  | .vdeq _ => none
  | .vamax _ => none
  | .vradd _ => none
  | .vrmin _ => none
  | .vrmax _ => none
  | .vrcount _ => none
  | .vscan _ => none
  | .vrand _ => none
  | .vrandf _ => none
  | .mkmask _ => none
  | .vrcp _ => none
  | .vrsq _ => none
  | .vsqrt _ => none
  | .vexp2 _ => none
  | .vlog2 _ => none
  | .vsin _ => none
  | .vcos _ => none
  | .vtanh _ => none
  | .vlogi _ => none
  | .datapathLastPass => none
  | .vld _ => none
  | .vst _ => none
  | .sld _ => none
  | .sst _ => none
  | .vlds _ => none
  | .vsts _ => none
  | .pld _ => none
  | .pst _ => none
  | .probe _ => none
  | .sdrain _ => none
  | .cpy _ => none
  | .cpyw _ => none
  | .copyComplete => none
  | .fence _ => none
  | .atom _ => none
  | .atoms _ => none
  | .red _ => none
  | .amaxswap _ => none
  | .loadDelivery => none
  | .storePerform => none
  | .atomicPerform => none
  | .homeSliceServe => none
  | .releaseBufferDrain => none
  | .promotedAcquireReply => none
  | .retryEntryWrite => none
  | .storeFaultRecordWrite => none
  | .marm _ => none
  | .mwait _ => none
  | .mwaitBudgetExpiry => none
  | .barv _ => none
  | .barw _ => none
  | .gbarv _ => none
  | .gbarw _ => none
  | .hold _ => none
  | .hrel _ => none
  | .heir _ => none
  | .hclrb _ => none
  | .hclrbPool _ => none
  | .pmake _ => none
  | .pfulfil _ => none
  | .pwait _ => none
  | .permget _ => none
  | .permput _ => none
  | .estate _ => none
  | .convey _ => none
  | .mldt _ => none
  | .mfence _ => none
  | .mma _ => none
  | .mmat _ => none
  | .mmasp _ => none
  | .mzero _ => none
  | .mnew _ => none
  | .matrixOpStart => none
  | .matrixStep => none
  | .matrixOpRetire => none
  | .mhad _ => none
  | .mhadComplete => none
  | .mdrain _ => none
  | .mcnt _ => none
  | .mdrainRow => none
  | .mwaita _ => none
  | .gather _ => none
  | .scatter _ => none
  | .glcfg _ => none
  | .gleanerDelivery => none
  | .gleanerScatterWrite => none
  | .bale _ => none
  | .unbale _ => none
  | .balerComplete => none
  | .unbaleComplete => none
  | .coll _ => none
  | .collComplete => none
  | .rcnt _ => none
  | .rsnap _ => none
  | .routingBankExchange => none
  | .heapoffer _ => none
  | .heapseal _ => none
  | .heapread _ => none
  | .launch _ => none
  | .launchd _ => none
  | .launchdFenceMet => none
  | .wset _ => none
  | .wget _ => none
  | .hinsp _ => none
  | .hpoke _ => none
  | .hstep _ => none
  | .hstepEnd => none
  | .stepLimit => none
  | .hresume _ => none
  | .hkill _ => none
  | .lrelease _ => none
  | .rrpop _ => none
  | .rput _ => none
  | .rdoneDone _ => none
  | .rdoneReplay _ => none
  | .rdoneAbandon _ => none
  | .sfpop _ => none
  | .teamHaltStop => none
  | .deliveryTake => none
  | .teamWake => none
  | .teamPromote => none
  | .holdSwap => none
  | .forcedPromotion => none
  | .forcedActivePlace => none
  | .plotPlacement => none
  | .gangReserve => none
  | .gangAbort => none
  | .headgatePreemption => none
  | .preemptionSave => none
  | .restore => none
  | .invalidationEntry => none
  | .eccCorrected => none
  | .predictiveFailure => none
  | .uncorrectableError => none
  | .timingReplay => none
  | .droopEvent => none
  | .droopWindowEnd => none
  | .hotClearWindow => none
  | .powerCapControl => none
  | .thermalThrottle => none
  | .thermalTrip => none
  | .mailboxRegisterWrite => none
  | .featRead => none
  | .featAccept => none
  | .domainSet => none
  | .ctxSetup => none
  | .ctxCreate => none
  | .ctxDestroy => none
  | .coreset => none
  | .preempt => none
  | .killLaunch => none
  | .debug => none
  | .report => none
  | .countersRead => none
  | .countersClear => none
  | .countersProgram => none
  | .attest => none
  | .powerCap => none
  | .bar2Read => none
  | .bar2Write => none
  | .peerRequest => none
  | .linkCrcError => none
  | .linkFailure => none
  | .linkTrainRetry => none
  | .powerGood => none
  | .hbmTrainingDone => none
  | .pcieLinkTrained => none
  | .luadorLinkTrained => none

/-- The parcels of an instruction; none for an event. -/
def encode (i : Instr) : List Word :=
  match vOf i with
  | some (op, f, _) => vParcels op f
  | none => (encodeS i).toList

end Sys2Proof
end

