-- ==== Sys2Proof/Config.lean ====
section
/-! DEFINITION. What an implementation fixes and the manual leaves open, and the free values. Nothing here that is opaque has a value a proof can see: a theorem that holds, holds whatever these are. -/

namespace Sys2Proof.Config

/-- The number of enabled cores, 0 to 191 (R1, R19). -/
def cores : Nat := 192

/-- Cores per die (R19). -/
def coresPerDie : Nat := 48

/-- Partitions per core (R21). -/
def partitions : Nat := 6

/-- Team slots per partition (R21). -/
def slots : Nat := 32

/-- ACTIVE teams per partition (R21). -/
def activePlaces : Nat := 8

/-- Granules of a core's SRAM pool (R1, R277). -/
def granules : Nat := 192

/-- Bytes of a granule (R277). -/
def granuleBytes : Nat := 16384

/-- Device-cache slices of the module (R1, R23). -/
def slices : Nat := 96

/-- Luador links of the module (R405). -/
def links : Nat := 18

/-- The offered feature vector: the twelve defined bits, and 0 in bits 12 to 255 (R403). -/
def offered : BitVec 256 := 0xFFF#256

/-- The n-th free value: an undefined value of the manual (R11), of which nothing is known. Log entry 5. -/
opaque freeValue : Nat → BitVec 64

/-- The n-th free choice between two outcomes the manual leaves open. Log entry 5. -/
opaque freeBool : Nat → Bool

/-- Which of the two bracketing values a faithfully rounded function gives: a fixed function of the special
function's opcode, the format code and the operand's pattern, left to the implementation and not documented
(R182); true for the value farther up. Log entry 9. -/
opaque specialUp : Nat → Nat → Nat → Bool

/-- Whether the host completes PCI Express AtomicOps (R290). -/
opaque hostAtomicOps : Bool

/-- The hash of Norelm's public key that is fused in a die (R406). Log entry 69. -/
opaque fusedKeyHash : Nat → BitVec 256

/-- The fused minimum security version of a die (R406). -/
opaque fusedMinimum : Nat → Nat

/-- The module's serial number as ATTEST writes it (R408). -/
opaque serialNumber : BitVec 64

/-- The identity signature with a leaf index over a report's bytes: its 1,932 bytes are the first that this
gives by index (R407, R408). -/
opaque identitySignature : Nat → List Byte → Nat → Byte

/-- What a COUNTERS selector names (R399): the manual gives its argument no layout. -/
inductive CounterSel where
  /-- Performance counter n of a core (R376). -/
  | perf (core n : Nat)
  /-- Corrected errors of an array (R377). -/
  | corrected (a : ArrayId)
  /-- Uncorrected errors of an array (R377). -/
  | uncorrected (a : ArrayId)
  /-- Timing replays of a core (R377). -/
  | replays (core : Nat)
  /-- Droop events of a core in total (R377). -/
  | droopTotal (core : Nat)
  /-- Droop events of a core in its last complete window (R377). -/
  | droopLast (core : Nat)
  /-- Retransmitted flits of a link (R377). -/
  | linkRetries (link : Nat)
  deriving DecidableEq, Repr

/-- The counter that a COUNTERS selector argument names, if any: the encoding is the implementation's. Log entry 70. -/
opaque counterSel : Dword → Option CounterSel

/-- The event code and context filter (none: every context) that a COUNTERS program argument holds: the
encoding is the implementation's. -/
opaque counterProgram : Dword → Nat × Option Nat

/-- Whether the teams of a launch with this header are debug-privileged (R101, R120): the manual says that
TSTAT.DBGP follows from the launch header and gives no field for it. Log entry 22. -/
opaque debugPrivileged : List Dword → Bool

/-- Where the headgate puts a team's estate array in its context's G (R115): the manual leaves the place open. Log entry 51. -/
opaque estateBase : Nat → Handle → Dword

/-- Where the headgate puts a team's stack region in its context's G (R115): the manual leaves the place open. -/
opaque stackBase : Nat → Handle → Dword

/-- The slot of partition 0 reserved for a context's supervisor team (R33, R400). DEDUCED from the worked
handle 0x001F_0001 of 14_estate.md; log entry 21. -/
def supervisorSlot : Nat := 31

end Sys2Proof.Config
end

