-- ==== Sys2Proof/Machine/State.lean ====
section
/-! DEFINITION. The machine's state, whole and plain: teams, plots, crews, launches, contexts, cores, memories, queues, engines, host interface and links. Every field names the rule of spec/ that gives it, or says that it is the model's own. -/

namespace Sys2Proof.Machine

/-! ## Operations in flight -/

/-- Why a lane of a memory operation failed: a cause of R294 or R391, the faulting page (R294), and the faulting
address. -/
structure LaneFault where
  cause : Nat
  page : Nat
  pageSize : Nat
  addr : Nat := 0
  deriving DecidableEq, Repr

/-- One piece of a lane's access: the part of it within one 32-byte sector (R311), whether it is over, and the fault
that it met if it was not performed. -/
structure Piece where
  off : Nat
  len : Nat
  done : Bool := false
  fault : Option LaneFault := none
  deriving DecidableEq, Repr

/-- One lane's access in a memory operation (R186, R187): its address (a virtual address, or a pool offset
through P), operands of an atomic, the pieces, the bytes read or to be written, and the fault if it failed. -/
structure LaneAcc where
  lane : Nat
  addr : Nat
  x : Dword := 0
  y : Dword := 0
  pieces : List Piece := []
  bytes : List Byte := []
  fault : Option LaneFault := none
  /-- The lane has been resolved by an entry's service (R275) or written by RPUT. -/
  resolved : Bool := false
  deriving DecidableEq, Repr

/-- What a memory operation does when its lanes are performed. -/
inductive OpKind where
  /-- VLD, VLDS, SLD (R192). -/
  | load
  /-- VST, VSTS, SST (R196). -/
  | store
  /-- ATOM, ATOMS (R204). -/
  | atomic
  /-- RED (R196, R204). -/
  | red
  /-- AMAXSWAP (R206). -/
  | amaxswap
  /-- PROBE (R195). -/
  | probe
  deriving DecidableEq, Repr

/-- The instruction's identity that a fault record carries (R385, R387). -/
structure Origin where
  tid : Handle
  ctx : Nat
  lid : Nat
  core : Nat
  plot : Nat
  pc : Dword
  iword : Dword
  lit : BitVec 32
  issue : Nat
  /-- Index of the instruction in its clause (R365). -/
  idx : Nat := 0
  deriving DecidableEq, Repr

/-- A memory operation that has issued and is not finished (R190, R196). Its identifier rises in the order of
issue, which is program order within a team (R191). -/
structure MemOp where
  id : Nat
  kind : OpKind
  origin : Origin
  seg : Nat
  /-- Destination operand code after REP stepping, or scalar register (R385 DEST). -/
  dest : Nat
  scalar : Bool
  fmt : Nat
  size : Nat
  aop : Nat := 0
  ord : Nat := 0
  scope : Nat := 0
  burst : Nat := 0
  /-- The completion flag whose count the operation holds (R83, R113). -/
  flag : Option Nat := none
  lanes : List LaneAcc := []
  /-- Registers and lanes of the destination that the team wrote after the issue (R84); lane 0 for a scalar. -/
  overwritten : List (Nat × Nat) := []
  /-- The home slice has asked the tagged cores to drain (R308). -/
  promoted : Bool := false
  /-- A write of a core-local release: every write that happens before it stands in the release buffer at this
  sequence number or below (R308). -/
  mark : Nat := 0
  /-- The values have been delivered once (R190). -/
  delivered : Bool := false
  /-- Fault groups not yet written as entries or records. -/
  unwritten : Nat := 0
  /-- Lanes that a TIMING 1 weir of the instruction itself has frozen: its own delivery still writes them (R364). -/
  thawed : List Nat := []
  deriving DecidableEq, Repr

/-- A write in a core's release buffer (R308): its place in the order of entry, where it goes, its bytes, and who
wrote it. -/
structure BufWrite where
  seq : Nat
  pa : Nat
  bytes : List Byte
  opId : Nat
  tid : Handle
  ctx : Nat
  lid : Nat
  /-- Its page bypasses the caches (R292). -/
  nc : Bool := false
  deriving DecidableEq, Repr

/-- Bytes of a poisoned unit that one instruction or engine command has written so far (R291, R394): the identifier of
the operation or command, the unit by its first byte, and the bytes. -/
structure Cover where
  writer : Nat
  at_ : Nat
  bytes : BitVec 32
  deriving DecidableEq, Repr

/-- What a request at a home slice asks (R40, R212). -/
inductive ReqKind where
  | marm
  /-- The lanes of an operation that share a lane's address (R205). -/
  | atomic (op lane : Nat)
  | arrive (wait : Bool) (sd : Option (BitVec 7)) (scope : Nat)
  | hold (sd : BitVec 7) (claim : Bool) (heir : BitVec 4) (handle : Handle)
  | hrel
  | hclrb
  | hclrbPool
  | pmake (heir : BitVec 4) (handle : Handle)
  | pfulfil (v : Dword)
  | pwait (sd : BitVec 7) (flag : Option Nat)
  | permget (sd : BitVec 7) (n : Nat) (heir : BitVec 4) (handle : Handle) (flag : Option Nat)
  | permput (n : Nat)
  | convey (sd : BitVec 7)
  | heapoffer (sd : BitVec 7) (v : Dword)
  | heapseal (sd : BitVec 7)
  | heapread (sd : BitVec 7) (i : Dword)
  deriving DecidableEq, Repr

/-- A request queued at a home slice (R40), in the order of arrival. -/
structure Req where
  id : Nat
  slice : Nat
  core : Nat
  tid : Handle
  va : Dword
  pa : Nat
  kind : ReqKind
  /-- Scope of its acquire, if it makes one. -/
  acquire : Option Nat := none
  promoted : Bool := false
  /-- As for a memory operation: a core-local release (R308). -/
  mark : Nat := 0
  deriving DecidableEq, Repr

/-- Where a barrier word stands: in a plot's scratchpad, or in G (R209). -/
inductive BarLoc where
  | scratch (plot offset : Nat)
  | grid (pa : Nat)
  deriving DecidableEq, Repr

/-! ## Teams -/

/-- Why a team is PARKED, and what it needs to resume (R34, R36). -/
inductive Park where
  /-- MWAIT: destination, cycle at which the budget ends (R208). -/
  | monitor (d : BitVec 7) (deadline : Option Nat)
  /-- HOLD waiting in a lock's queue (R213). -/
  | lock (pa : Nat)
  /-- PERMGET waiting in a pool's queue (R217). -/
  | permit (pa : Nat)
  /-- PWAIT (R216). -/
  | promise (pa : Nat)
  /-- BARW or GBARW (R211): the word, the scalar register of the status if any, and the scope of the acquire. -/
  | barrier (w : BarLoc) (va : Dword) (sd : Option (BitVec 7)) (scope : Nat)
  /-- CPY.yield (R200): the copy and the continuation. -/
  | copy (id : Nat) (cont : Dword)
  /-- An entry in the retry ring stands behind the team's wait (R35, R190). -/
  | retry
  deriving DecidableEq, Repr

/-- What ended a park: the notice that has reached, or will reach, the team's core (R39). -/
inductive Wake where
  /-- MWAIT status (R208). -/
  | status (n : Nat)
  /-- The wait is over, and the registers it writes have been written. -/
  | done
  /-- The barrier's phase advanced (false) or the parties are abandoned (true) (R211). -/
  | barrier (abandoned : Bool)
  deriving DecidableEq, Repr

/-- The state of a team that is not HALTED or PREEMPTED (R34). -/
inductive Run where
  | pending
  | active
  | parked (p : Park) (w : Option Wake)
  deriving DecidableEq, Repr

/-- The hold a team waits on (R332), kept for the swap rule and for eligibility (R331). -/
inductive Hold where
  | clauseWait (mask : Nat)
  | flags (mask : Nat)
  | queueRead (q : Nat)
  | queueWrite (q : Nat)
  | portRead (port : Nat)
  | portFull (port : Nat)
  | sdrain
  | request (id : Nat)
  | collective
  | mfence
  | mwaita (ops : List Nat)
  | gleanerSlot
  | gleanerRoom
  | register
  | divider
  | datapath
  | release (scope : Nat)
  | accesses
  | replay (op : Nat) (lanes : List Nat)
  | buffer
  | exit
  | routing
  | debug
  deriving DecidableEq, Repr

/-- A REP in progress (R102, R152): last issue number, steps, and the issue to come next. -/
structure Rep where
  n : Nat
  stepD : Int
  stepA : Int
  stepB : Int
  m : Nat
  /-- The mask as it stood when issue 0 issued, which every issue reads (R111, R152). -/
  mask : Option LaneMask := none
  deriving DecidableEq, Repr

/-- The clause a team runs (R87 to R91): header address, header, the body's parcels as fetched, the index of
the next instruction and its first parcel's place in the body, and a REP in progress. -/
structure Clause where
  addr : Dword
  hdr : Dword
  body : List Word
  idx : Nat := 0
  pos : Nat := 0
  rep : Option Rep := none
  deriving DecidableEq, Repr

/-- A clause position (R381). -/
structure Position where
  pc : Dword
  clause : Option Clause
  deriving DecidableEq, Repr

/-- A write of one lane's slice of a vector register (R108). -/
structure LaneWrite where
  reg : Nat
  lane : Nat
  val : Word
  deriving DecidableEq, Repr

/-- The instruction in a team's datapath entry, or MHAD in the transform stage (R158, R240, R333): the results
it will write, the registers it reads and writes, the scalar results of a reduction, pushes to queues, and the
core's cycle from which its last pass may end. -/
structure Datapath where
  writes : List LaneWrite
  scalars : List (Nat × Dword) := []
  /-- Entries that it will push, in the order of its destination fields (R161). -/
  pushes : List (Nat × List Word) := []
  reads : List Nat
  dests : List Nat
  readyAt : Nat
  deriving DecidableEq, Repr

/-- A completion flag (R113). -/
structure Flag where
  count : Nat := 0
  soft : Bool := false
  deriving DecidableEq, Repr

/-- A segment register (R114, R115). -/
structure Segment where
  base : Dword := 0
  limit : Dword := 0
  deriving DecidableEq, Repr

/-- A queue register that is bound (R117, R321): the direction (true: the gleaner produces), and its entries,
oldest first. -/
structure Queue where
  code : Nat
  producerGleaner : Bool
  entries : List (List Word)
  deriving DecidableEq, Repr

/-- An arrival record (R211). -/
structure Arrival where
  loc : BarLoc
  va : Dword
  phase : Nat
  deriving DecidableEq, Repr

/-- The kind of an estate entry (R340). -/
inductive EKind where
  | lock
  | promise
  | permit
  deriving DecidableEq, Repr

/-- An estate entry (R340), with the object's physical address as it was translated at registration. -/
structure Estate where
  obj : Dword
  pa : Nat
  kind : EKind
  count : Nat := 0
  inherited : Bool := false
  heir : BitVec 4 := 0
  handle : Handle := 0
  sender : Handle := 0
  /-- The supervisor has stored over it in its array in E (R341). -/
  spoiled : Bool := false
  deriving DecidableEq, Repr

/-- A monitor arm or the event that ended it (R207, R208). -/
inductive Monitor where
  | none_
  | armed (line : Nat)
  | ended (status : Nat)
  deriving DecidableEq, Repr

/-- A debug step in progress on a team (R270): the stepping team (none: the host), where the outcome goes,
focus lane, count left, and consecutive instructions without the focus lane active. -/
structure Stepping where
  by_ : Option Handle
  mailbox : Nat
  sd : BitVec 7
  focus : Nat
  left : Nat
  idle : Nat := 0
  /-- The focus lane was active when the instruction at the team's position came to issue. -/
  on : Bool := false
  outcome : Option Nat := none
  deriving DecidableEq, Repr

/-- A trap that waits for its delivery, or a notice (R378, R380, R381). -/
structure Delivery where
  cause : Nat
  detail : Nat
  tid : Handle
  lid : Nat
  pc : Dword
  issue : Nat
  info : Dword
  mask : LaneMask
  /-- Dword 24 of the block in a HEIRLESS notice (R381). -/
  extra : Dword := 0
  exited : Bool := false
  deriving DecidableEq, Repr

/-- Why a team stands still and is not running (R34, R36). -/
inductive Stop where
  /-- HALTED; trapped teams are HALTED too, without a halt record (R380). -/
  | halted
  /-- A team of a halted plot or gang that has not yet reached its stop (R362): the halt record to be written, the
  instructions it may still issue, and whether it stops at its clause's end at the latest (another core's team). -/
  | stopping (halt : Dword) (left : Nat) (atClauseEnd : Bool)
  deriving DecidableEq, Repr

/-- An accepted death (R347): by kill or containment or by EXIT, and the event that caused it, which orders the
conveyances of a group (R352). -/
structure Dying where
  killed : Bool
  group : Nat
  /-- It was accepted while the team's launch was being saved, and takes effect after the save (R338). -/
  inSave : Bool := false
  deriving DecidableEq, Repr

/-- The trigger of a capture or halt record (R365, R366). -/
structure Trigger where
  weir : Nat
  timing : Nat
  kind : Nat
  action : Nat
  scalar : Bool
  lane : Nat
  lanes : List Nat
  value : Nat
  addr : Nat
  xflags : Nat
  deriving DecidableEq, Repr

/-- A scalar divider's operation (R131, R134). -/
structure Divide where
  tid : Handle
  d : BitVec 7
  result : Dword
  readyAt : Nat
  deriving DecidableEq, Repr

/-- The entry that a gleaner command works on: slices by lane, and the lanes with their offsets still to be fetched or
written (R250). -/
structure GleanEntry where
  words : List (Nat × Word) := []
  todo : List (Nat × Dword) := []
  deriving DecidableEq, Repr

/-- A command of the gleaner (R247 to R249). -/
structure Glean where
  id : Nat
  origin : Origin
  width : Nat
  scatter : Bool
  /-- Data queue code, or none for a SCATTER from a vector register. -/
  queue : Option Nat
  /-- Captured data of a SCATTER from a vector register, by lane. -/
  data : List Word := []
  seg : Nat
  segBase : Dword
  segLimit : Dword
  /-- Offset base, displacement included. -/
  base : Dword
  /-- Shift of the index (R186); an indexed stream has 2. -/
  scale : Nat
  /-- Captured index slices by lane, or the queue they come from. -/
  index : Option (List Word) := none
  indexQueue : Option Nat := none
  /-- An affine stream: 4 × lane in place of an index, and the stride of its entries. -/
  affine : Bool := false
  stride : Int := 0
  entries : Nat := 1
  next : Nat := 0
  /-- The captured mask's lanes, ascending. -/
  lanes : List Nat
  flag : Option Nat := none
  /-- It waits for the RDONE of a retry-ring entry (R250). -/
  stopped : Bool := false
  /-- A lane out of limit ends the stream (R249). -/
  ends : Bool := false
  pending : Option GleanEntry := none
  deriving DecidableEq, Repr

/-- A team's arrival at a collective matrix instruction: what matched arrivals must agree in (R227). -/
structure CrewArrival where
  pc : Dword
  op : Nat
  f : VFields
  aOffset : Nat
  bitmap : Nat
  nbv : BitVec 8
  fenced : Bool
  deriving DecidableEq, Repr

/-- A failure that the reply to an atomic or a load brought while its team was being saved (R390): its cause, the
instruction's PC, the failing lanes, and the failing address, which is a physical one for poison (R393). -/
structure Deferred where
  cause : Nat
  pc : Dword
  mask : LaneMask
  addr : Nat := 0
  deriving DecidableEq, Repr

/-- A team that is resident or PREEMPTED (R24, R34, R105). -/
structure Team where
  tid : Handle
  ctx : Nat
  lid : Nat
  plot : Nat
  index : Nat
  width : Nat
  regs : Nat
  run : Run
  stop : Option Stop := none
  /-- Halt record (R366). -/
  haltRec : Dword := 0
  /-- The first issue after HRESUME evaluates no TIMING 0 weir, and its header no STEP bit (R363). -/
  exempt : Bool := false
  preempted : Bool := false
  /-- The team's death has been accepted (R347). -/
  dying : Option Dying := none
  /-- DYING_TEAM_STOP has happened (R315 steps 1 to 3). -/
  drained : Bool := false
  pc : Dword
  clause : Option Clause := none
  /-- Vector registers, by register and then by lane (R107). -/
  v : Sparse (Sparse Word) := []
  s : Sparse Dword := []
  flags : Sparse Flag := []
  segs : Sparse Segment := []
  fsr : BitVec 8 := 0
  rmode : BitVec 3 := 1
  nbv : BitVec 8 := 2
  key : Dword := 0
  hold : LaneMask := 0
  dbg : BitVec 2 := 0
  /-- The team is debug-privileged (TSTAT.DBGP, R120). -/
  dbgp : Bool := false
  bereaved : BitVec 8 := 0
  preempts : BitVec 4 := 0
  ctr : Sparse Dword := []
  queues : List Queue := []
  gleans : List Glean := []
  arrivals : List Arrival := []
  estate : List Estate := []
  /-- Estate entries reserved for a HOLD or PERMGET that waits (R213, R353). -/
  reservedEntries : Nat := 0
  monitor : Monitor := .none_
  /-- The A offset latch (R230). -/
  aOffset : Nat := 0
  /-- Whether an MFENCE stands since the team's last collective instruction (R231). -/
  fenced : Bool := false
  /-- NBV may be written while nothing has retired (R70). -/
  retired : Bool := false
  /-- The team is held at the collective instruction it has arrived at (R226). -/
  arrived : Option CrewArrival := none
  /-- The hold the team waits on, and the cycle from which it has waited (R332). -/
  held : Option (Hold × Nat) := none
  /-- Cycle of entering PENDING and of the last promotion (R38, R331). -/
  since : Nat := 0
  /-- R331: a pending team whose age has made the headgate free a place for it. -/
  forced : Bool := false
  /-- The team leaves the active set when its clause ends (R331). -/
  leaveAtEnd : Bool := false
  datapath : Option Datapath := none
  hadamard : Option Datapath := none
  stepping : Option Stepping := none
  /-- The strongest stop that TIMING 1 weirs have found on the instruction at issue; it acts when the instruction
  has retired (R361, R363). -/
  late : Option Trigger := none
  /-- The KIND 5 weirs have been evaluated for the instruction at which the team waits (R358). -/
  pcSeen : Bool := false
  /-- While an instruction is tried under live weirs: the TIMING 0 stop of a KIND 5 weir, if any (R363). The model's own. -/
  weirMark : Option (Option Trigger) := none
  /-- It halted at a step, and resumes from one (R363). -/
  stepHalt : Bool := false
  /-- A core-local FENCE release: what stood in the release buffer at it (R304, R308). -/
  fenceMark : Nat := 0
  /-- Tags on lines that the team's strong reads found without promotion: core and mark. A FENCE acquire at .dev or
  wider waits for them (R304, R308). -/
  readTags : List (Nat × Nat) := []
  /-- A faulted acquire, which holds the team's later memory instructions (R316). -/
  acquireFault : Option Nat := none
  /-- What stood in the release buffer at the team's latest core-local release (R308, R317). -/
  lastMark : Nat := 0
  /-- Failures that replies brought during a save, oldest first (R390). -/
  deferred : List Deferred := []
  deriving DecidableEq, Repr

/-- A team that has become EXITED (R34): what still names it, and its KILLED mark. -/
structure Exited where
  tid : Handle
  ctx : Nat
  lid : Nat
  plot : Nat
  index : Nat
  killed : Bool
  deriving DecidableEq, Repr

/-- A register lane that RPUT has written and whose team has not yet waited on the operation's flag: until then a read
gives an undefined value, and a write leaves either value (R109). old holds RPUT's value once the team has written. -/
structure Rput where
  tid : Handle
  flag : Option Nat
  opId : Nat
  scalar : Bool
  reg : Nat
  lane : Nat
  old : Option Dword := none
  deriving DecidableEq, Repr

/-! ## Plots, crews and the matrix engine -/

/-- A physical accumulator tile (R105, R112): values, kept bits and counts by element index 64·i + j. -/
structure Tile where
  values : Sparse Word := []
  kept : List Nat := []
  counts : Sparse (BitVec 16) := []
  /-- Elements whose value's word is poisoned (R291). -/
  poison : List Nat := []
  deriving DecidableEq, Repr

/-- What stands in a crew's engine order: a multiply operation, or the clearing of a tile by MZERO (R228, R237). -/
inductive MatrixKind where
  | mma
  | mmat
  | mmasp
  | zero
  deriving DecidableEq, Repr

/-- An operation that has been accepted and has not retired (R228, R232). Its operand images are taken when it is
accepted: a later write to them makes its results undefined (R238). -/
structure MatrixOp where
  id : Nat
  kind : MatrixKind
  /-- Physical tiles, and the names they were accepted under; two under MMAT (R234). -/
  tiles : List Nat
  names : List Nat := []
  fmtA : Nat := 0
  fmtB : Nat := 0
  mode : Nat := 0
  nbv : Nat := 2
  /-- The members, with the first register and the number of registers of their runs (R224). -/
  runs : List (Handle × Nat) := []
  runLen : Nat := 0
  /-- The A image's place in the pool and its size; likewise the bitmaps (R223, R235). -/
  aAt : Nat := 0
  aLen : Nat := 0
  mapAt : Nat := 0
  mapLen : Nat := 0
  imgA : List Byte := []
  /-- Words of the B image with their companion words, for 64 columns, then 64 more under MMAT (R224, R225). -/
  imgB : List (Word × Word) := []
  bitmaps : List Byte := []
  /-- The values it writes are undefined (R231, R238). -/
  wild : Bool := false
  /-- Its kept bits and counts are undefined too (R231). -/
  wildBits : Bool := false
  started : Bool := false
  step : Nat := 0
  /-- Steps whose products have been rounded into the tile already, by a pre-emption (R243). -/
  baseStep : Nat := 0
  /-- Cycle from which the step in progress may complete, or the operation may retire (R236). -/
  readyAt : Nat := 0
  deriving DecidableEq, Repr

/-- A stream of a tile into a drain port (R239): its place in engine order, the tile (none: an unbound name), the
tile's values or counts once that place is reached, rows produced, and values read. -/
structure Stream where
  id : Nat
  tile : Option Nat
  counts : Bool
  vals : Option (List Word) := none
  row : Nat := 0
  read : Nat := 0
  /-- The instruction that issued it. -/
  origin : Option Origin := none
  /-- Cycle from which the next row may be produced. -/
  readyAt : Nat := 0
  deriving DecidableEq, Repr

/-- A crew (R26): tile names bound to physical tiles, the tiles, ports, and the operations in engine order. -/
structure Crew where
  id : Nat
  plot : Nat
  first : Nat
  size : Nat
  names : Sparse (Option Nat) := []
  tiles : Sparse Tile := []
  tileCount : Nat
  ports : Sparse (List Stream) := []
  ops : List MatrixOp := []
  broken : Bool := false
  /-- The matrix step counter (R374). -/
  stepCounter : BitVec 16 := 0
  deriving DecidableEq, Repr

/-- A plot (R25): one core, its scratchpad and its teams. -/
structure Plot where
  id : Nat
  ctx : Nat
  lid : Nat
  core : Nat
  index : Nat
  coords : List Nat
  teams : Nat
  exited : List Nat := []
  scratchSlot : Nat := 0
  scratchGranules : Nat := 0
  granules : Nat
  scratch : Sparse Byte := []
  /-- Poisoned words of the scratchpad and of teams' registers (R291). -/
  poison : List Unit32 := []
  /-- Poisoned words of the scratchpad that writes have covered in part (R291). -/
  covered : List Cover := []
  abandoned : Bool := false
  saved : Bool := false
  deriving DecidableEq, Repr

/-! ## Launches and contexts -/

/-- Where a launch stands on its way (R319, R329, R335). -/
inductive LaunchPhase where
  /-- Enqueued; a LAUNCHD waits for its fence (R266): the address of its dependence block, and the block as it was read. -/
  | waitingFence (block : Dword) (dep : List Dword)
  | queued
  /-- Some plots placed (R328). -/
  | placing
  /-- Gang reservation in progress: for each plot so far its core and its teams' slots, partition and slot (R329). -/
  | reserving (places : List (Nat × List (Nat × Nat)))
  /-- Every plot placed. -/
  | running
  /-- Pre-emption requested: the save runs (R336). -/
  | saving
  | preempted
  /-- Every team has exited and DONEW has been incremented; kept for the flags and faults that still name it. -/
  | ended
  deriving DecidableEq, Repr

/-- Whose record a part of an image is (R389). -/
inductive ImageOf where
  | plot (id : Nat)
  | crew (id : Nat)
  | team (tid : Handle)
  deriving DecidableEq, Repr

/-- A record of an image in its context's save area (R299, R389): the runs of bytes that it takes, each by its physical
address and length. -/
structure ImagePart where
  of_ : ImageOf
  runs : List (Nat × Nat)
  deriving DecidableEq, Repr

/-- A launch (R27, R264): its validated header, queue and progress. -/
structure Launch where
  ctx : Nat
  lid : Nat
  header : List Dword
  queue : Nat
  seq : Nat
  phase : LaunchPhase
  placed : Nat := 0
  /-- Teams that have not reached EXITED, of plots placed so far. -/
  living : Nat := 0
  /-- Cycle from which it has waited for placement, counted on core 0. -/
  since : Nat := 0
  aborts : Nat := 0
  /-- A gang whose reservation has ended stands at the head of its priority level (R330, R335). -/
  front : Bool := false
  haltMark : Bool := false
  abandoned : Bool := false
  killed : Bool := false
  /-- Plots left to place when it was pre-empted (R335). -/
  midPlacement : Bool := false
  /-- Its image in the save area, from the save's start to the restore (R299, R389). -/
  image : List ImagePart := []
  deriving DecidableEq, Repr

/-- A retry-ring entry that the hardware has written and RDONE has not resolved (R385). -/
structure RetryEntry where
  slot : Nat
  origin : Nat
  tid : Handle
  opId : Nat
  lanes : List Nat
  poppable : Bool := true
  deriving DecidableEq, Repr

/-- A fault waiting to be written to the retry ring or to the store-fault ring, in the order of arising
(R325). -/
structure Held where
  store : Bool
  originCode : Nat
  origin : Origin
  opId : Nat
  lanes : List Nat
  cause : Nat
  page : Nat
  engAddr : Nat := 0
  /-- Lane of the lowest faulting address (R387). -/
  lane : Nat := 0
  /-- Counted in HELD already. -/
  counted : Bool := false
  offs : List (Nat × Nat) := []
  opnds : List (Nat × Dword × Dword) := []
  dest : Nat := 0
  snapshot : List (Nat × Word) := []
  deriving DecidableEq, Repr

/-- A context (R400). -/
structure Context where
  id : Nat
  apBase : Dword
  saveSize : Nat
  live : Bool := false
  root : Nat := 0
  saveAddr : Nat := 0
  qBase : Dword := 0
  qLimit : Dword := 0
  ring : Dword := 0
  supervisor : Handle := 0
  nextLid : Nat := 1
  nextSeq : Nat := 0
  /-- Pending deliveries and notices, oldest first (R380). -/
  pending : List Delivery := []
  /-- A delivery is in progress; the position to return to, and the suspended park (R382). -/
  inDelivery : Bool := false
  saved : Option Position := none
  suspended : Option (Park × Option Wake) := none
  /-- Retry ring (R324, R325). -/
  retry : List RetryEntry := []
  retryOrder : List Nat := []
  written : Nat := 0
  popped : Nat := 0
  resolved : Nat := 0
  heldCount : Nat := 0
  /-- Store-fault ring. -/
  sfWritten : Nat := 0
  sfPopped : Nat := 0
  sfResolved : Nat := 0
  sfHeld : Nat := 0
  held : List Held := []
  /-- Invalidation ring HEAD and DONE (R297). -/
  invHead : Nat := 0
  invDone : Nat := 0
  /-- Report ring (R402): records written, returned and freed. -/
  repWritten : Nat := 0
  repRead : Nat := 0
  repFreed : Nat := 0
  /-- Routing counters saved with the context (R258). -/
  routing : Sparse Word := []
  /-- Launch-queue rotation (R320). -/
  lastQueue : Nat := 0
  /-- CTX_DESTROY is running (R400). -/
  destroying : Bool := false
  deriving DecidableEq, Repr

/-! ## Cores, slices and engines -/

/-- A weir's registers (R355, R356) and its claim (R357). -/
structure Weir where
  ctl : Dword := 0
  lo : Dword := 0
  hi : Dword := 0
  hit : Dword := 0
  owner : Option Nat := none
  deriving DecidableEq, Repr

/-- A performance event counter (R376). -/
structure Perf where
  code : Nat := 0
  filter : Option Nat := none
  count : Dword := 0
  deriving DecidableEq, Repr

/-- A leaf translation held in a translation cache (R292, R295). -/
structure TlbEntry where
  ctx : Nat
  va : Nat
  size : Nat
  pa : Nat
  flags : BitVec 9
  deriving DecidableEq, Repr

/-- A line of a core's load cache (R283). -/
structure CacheLine where
  line : Nat
  bytes : List Byte
  deriving DecidableEq, Repr

/-- A core (R21, R370). -/
structure Core where
  /-- CYC (R122). -/
  cyc : Nat := 0
  /-- Slot generation counters by 32 × partition + slot (R32). -/
  gens : Sparse Nat := []
  weirs : Sparse Weir := []
  buffer : List BufWrite := []
  cache : List CacheLine := []
  /-- The second-level translation cache, and the partitions' own (R21, R295). -/
  tlb : List TlbEntry := []
  first : Sparse (List TlbEntry) := []
  divides : Sparse (Option Divide) := []
  /-- Routing bank (R258): the context whose bank it is, and its counters. -/
  routingCtx : Option Nat := none
  routing : Sparse Word := []
  /-- Rating inputs and state (R327): degrees, droops of the window in progress and of the last window, whether the
  core is hot, windows in a row that have ended cool and quiet, cycle of the window's start. -/
  temp : Int := 0
  droops : BitVec 16 := 0
  lastDroops : Nat := 0
  hot : Bool := false
  quietWindows : Nat := 0
  windowStart : Nat := 0
  /-- The core's pool or slice array is in predictive failure; its matrix engine has failed (R395). -/
  noPlots : Bool := false
  engineFailed : Bool := false
  /-- The crew that the matrix engine served last (R228), and the operation it runs: crew and operation. -/
  lastCrew : Nat := 0
  running : Option (Nat × Nat) := none
  /-- The twin's MMAT to which the engine is slaved, and which it takes up when it has finished its own operation (R234). -/
  slaved : Option (Nat × Nat) := none
  perf : Sparse Perf := []
  replays : Nat := 0
  droopTotal : Nat := 0
  deriving DecidableEq, Repr

/-- A device-cache line's sectors (R285): its way, and valid and dirty bits of the two sectors. -/
structure SliceLine where
  line : Nat
  way : Nat := 0
  valid0 : Bool := false
  valid1 : Bool := false
  dirty0 : Bool := false
  dirty1 : Bool := false
  deriving DecidableEq, Repr

/-- A waiter in a lock's queue (R213). -/
structure LockWaiter where
  pa : Nat
  tid : Handle
  va : Dword
  sd : BitVec 7
  claim : Bool
  heir : BitVec 4
  handle : Handle
  scope : Nat
  deriving DecidableEq, Repr

/-- A request in a permit pool's queue (R217). -/
structure PermitWaiter where
  pa : Nat
  tid : Handle
  va : Dword
  sd : BitVec 7
  n : Nat
  heir : BitVec 4
  handle : Handle
  flag : Option Nat
  scope : Nat
  deriving DecidableEq, Repr

/-- A waiter on a promise (R216). -/
structure PromiseWaiter where
  pa : Nat
  tid : Handle
  sd : BitVec 7
  flag : Option Nat
  scope : Nat
  deriving DecidableEq, Repr

/-- A barrier word with arrivals in its present phase, and the launch and plot whose teams are its parties (R211). -/
structure Barrier where
  loc : BarLoc
  ctx : Nat
  lid : Nat
  plot : Nat
  deriving DecidableEq, Repr

/-- A monitor arm at its home slice (R207, R286), oldest first. -/
structure Arm where
  line : Nat
  tid : Handle
  deriving DecidableEq, Repr

/-- How a copy tells its completion (R199, R200). -/
inductive CopyDone where
  | flag (f : Option Nat)
  | yield_
  | word (va : Dword)
  deriving DecidableEq, Repr

/-- A copy in the copy engine (R199, R200): rows of rowLen bytes, the rows and bytes done, and a stop on a
retry-ring entry. Addresses are segment addresses, virtual or pool offsets. -/
structure Copy where
  id : Nat
  origin : Origin
  sseg : Nat
  dseg : Nat
  src : Dword
  dst : Dword
  rowLen : Nat
  rows : Nat
  srcPitch : Nat
  dstPitch : Nat
  fmt : Nat
  sfmt : Nat
  scope : Nat
  done : CopyDone
  /-- Source elements (bytes, when raw) written so far, in ascending address order. -/
  progress : Nat := 0
  stopped : Bool := false
  /-- Every element is written; only the completion word's increment is left. -/
  wordLeft : Bool := false
  deriving DecidableEq, Repr

/-- A command of a die's baler (R251): BALE or UNBALE, its block as it was read at issue, and how far it came. -/
structure Bale where
  id : Nat
  origin : Origin
  unbale : Bool
  fresh : Bool
  fmt : Nat
  block : Nat
  fields : List Dword
  /-- 0 not begun, 1 values (or dense rows), 2 the commit word before the pointers, 3 pointers, 4 the last commit
  word, 5 the completion word, 6 finished. -/
  stage : Nat := 0
  progress : Nat := 0
  /-- Units kept in the rows done in the phase. -/
  kept : Nat := 0
  /-- Units kept in the whole tensor. -/
  total : Nat := 0
  status : Nat := 0
  /-- The commit word read at the start. -/
  old : Nat := 0
  stopped : Bool := false
  /-- Its acquire has asked tagged cores to drain (R308). -/
  asked : Bool := false
  deriving DecidableEq, Repr

/-- A command of the confluence engine (R256): its block, the group, the elements it has sent, what other ranks sent,
and the results written. -/
structure Coll where
  id : Nat
  origin : Origin
  block : Nat
  fields : List Dword
  flag : Option Nat
  group : Option (List Nat) := none
  /-- Local members that it has met: rank and command (R256). -/
  partners : List (Nat × Nat) := []
  sent : List Nat := []
  got : List (Nat × List Nat) := []
  status : Option Nat := none
  progress : Nat := 0
  stopped : Bool := false
  deriving DecidableEq, Repr

/-- An RSNAP whose writes met a fault (R260): its values, how many are written, and whether RDONE has resolved it. -/
structure Snap where
  id : Nat
  origin : Origin
  va : Dword
  first : Nat
  values : List Word
  done : Nat := 0
  resolved : Bool := false
  deriving DecidableEq, Repr

/-! ## Host interface, links and power -/

/-- A management mailbox (R398). -/
structure Mailbox where
  args : Sparse Dword := []
  op : BitVec 8 := 0
  tag : BitVec 16 := 0
  /-- TAG of the command that runs. -/
  cmdTag : BitVec 16 := 0
  busy : Bool := false
  status : BitVec 8 := 0
  doneTag : BitVec 16 := 0
  result : Dword := 0
  deriving DecidableEq, Repr

/-- How far the module has come up (R411). -/
inductive Bringup where
  | off
  | firmware
  | memory
  | ready
  deriving DecidableEq, Repr

/-- A Luador link (R405). -/
structure Link where
  trained : Bool := false
  failed : Bool := false
  retries : Dword := 0
  deriving DecidableEq, Repr

/-- Error counts and marks of a storage array (R377, R395). -/
structure ArrayErr where
  array : ArrayId
  corrected : Dword := 0
  uncorrected : Dword := 0
  /-- The window of 2²⁰ accesses in progress (R395): accesses, and corrected errors. -/
  accesses : Nat := 0
  recent : Nat := 0
  /-- The power function has lowered the array's voltage domain below nominal margin. -/
  undervolted : Bool := false
  suspect : Bool := false
  /-- Above the threshold since its domain was forced back to nominal margin, and the accesses since then. -/
  watch : Bool := false
  nominal : Nat := 0
  failed : Bool := false
  deriving DecidableEq, Repr

/-- A piece of a write from outside that has been accepted and is still to be performed (R312, R314): the write it
belongs to, and whether it keeps its place among such writes. -/
structure Posted where
  write : Nat
  ordered : Bool
  pa : Nat
  bytes : List Byte
  nc : Bool := false
  deriving DecidableEq, Repr

/-! ## The whole machine -/

/-- What moves next. The manual leaves the order of independent agents and all latencies open; this list says
which of them comes next. It is the model's own, plain data that stands for the environment and for the choices
of hardware arbitration. Log entry 1. -/
inductive Turn where
  /-- A team issues, after so many cycles of its core. -/
  | issue (tid : Handle) (cycles : Nat)
  /-- An event of the table, or a host command, happens. -/
  | event (i : Instr) (arg : EventArg)
  /-- A core's clock advances (R371). -/
  | tick (core cycles : Nat)
  /-- A translation-cache entry is replaced: of the partition that a port names, or of its core (R295, R296). -/
  | tlbDrop (port n : Nat)
  /-- A line of a core's load cache is replaced (R283). -/
  | lineDrop (core n : Nat)
  /-- A line of the device cache is replaced (R284, R285). -/
  | sliceDrop (n : Nat)
  /-- The die controller's reading of a core's temperature in degrees (R327). -/
  | temperature (core : Nat) (degrees : Int)
  /-- An agent outside the module (the host, a peer) changes its own memory. -/
  | outside (pa : Nat) (data : List Byte)
  /-- A piece of an outside write is performed (R312). -/
  | posted (n : Nat)
  /-- A storage array is accessed so many times (R395). -/
  | accesses (a : ArrayId) (n : Nat)
  /-- The power function lowers an array's voltage domain (R395). -/
  | undervolt (a : ArrayId)
  /-- The driver clears an array's mark (R395). -/
  | clearMark (a : ArrayId)
  deriving DecidableEq, Repr

/-- The state of the machine. -/
structure State where
  /-- What moves next; when empty, the team cur issues. The model's own. Log entry 1. -/
  agenda : List Turn
  /-- The team that issues, and for which exec acts. The model's own. Log entry 1. -/
  cur : Handle
  /-- Which instance of an event happens, for which exec acts on an event's name. The model's own. Log entry 1. -/
  arg : EventArg
  /-- The number of free values drawn so far. The model's own. Log entry 5. -/
  fresh : Nat
  /-- The next identifier of an operation, request, plot or crew. The model's own. -/
  nextId : Nat
  /-- Physical memory (R277, R287), by domain physical address of 52 bits: the module's own HBM4, and beyond
  it host memory and peer modules' memory as outside agents leave them. -/
  mem : List Host.Cell
  /-- Poisoned 32-byte sectors, by physical address div 32 (R291). -/
  poison : List Nat
  /-- Sectors of lines present in the device cache (R284, R285). -/
  dcache : List SliceLine
  /-- Replacement bits of the device cache's sets, by slice × 2,048 + set (R284). -/
  plru : Sparse (BitVec 15)
  /-- Poisoned sectors that writes have covered in part (R291, R394). -/
  covered : List Cover
  /-- Lines tagged with the cores of core-local releases (R308): line, core, and the place in the core's release
  buffer up to which it must drain. -/
  tags : List (Nat × Nat × Nat)
  teams : List Team
  exited : List Exited
  plots : List Plot
  crews : List Crew
  launches : List Launch
  ctxs : List Context
  cores : Sparse Core
  /-- Cores assigned to each context (R399), by context. -/
  coresets : Sparse (BitVec 192)
  ops : List MemOp
  rputs : List Rput
  reqs : List Req
  posted : List Posted
  /-- The core served last by each slice (R40). -/
  lastServed : Sparse Nat
  lockQ : List LockWaiter
  permitQ : List PermitWaiter
  promiseQ : List PromiseWaiter
  arms : List Arm
  /-- Objects with an entry in a slice's synchronisation table, by kind and address, the least recently used first; and
  those whose entries have gone to the backing store (R286). -/
  syncOrder : List (Nat × Nat)
  spilled : List (Nat × Nat)
  /-- Barrier words with arrivals in their present phase (R211). -/
  barriers : List Barrier
  copies : List Copy
  bales : List Bale
  colls : List Coll
  snaps : List Snap
  /-- Gleaner commands of teams that have exited, which run to completion (R155). -/
  orphans : List Glean
  /-- Headgate rotation among contexts (R320). -/
  lastCtx : Nat
  /-- Gang whose reservation is in progress, if any: context and launch (R329). -/
  gang : Option (Nat × Nat)
  /-- The head launches of higher priority that waited already when the reservation began: they do not abort it (R330). -/
  gangHeads : List (Nat × Nat)
  bringup : Bringup
  /-- Firmware images that verified, by die (R406). -/
  firmware : List FirmwareImage
  /-- The accepted feature vector (R403). -/
  accepted : Option (BitVec 256)
  moduleNumber : BitVec 6
  /-- The link mask of each module number (R405). -/
  routes : Sparse (BitVec 18)
  links : Sparse Link
  mailboxes : Sparse Mailbox
  /-- The reply to the last BAR2_READ (none: Completer Abort) and to the last PEER_REQUEST (none: refused). -/
  hostReply : Option (List Byte)
  peerReply : Option (List Byte)
  /-- Next leaf index of the identity key (R407). -/
  nextLeaf : Nat
  arrayErrs : List ArrayErr
  /-- Package power limit in watts, and the clock of each die in MHz (R410). -/
  powerCap : Nat
  clock : Sparse Nat
  /-- The sticky thermal-trip status (R410). -/
  thermalTrip : Bool
  deriving DecidableEq, Repr

/-- How a step can stop with a fault: in no way. Every trap, fault and error of the manual is something the
machine goes on from (R379, R190, R196, R393), and is a next state here. -/
inductive Fault where
  deriving DecidableEq, Repr

/-- Why a step is refused. -/
inductive Refusal where
  /-- An instruction without a meaning; raised by exec's own arms alone. Safe: the step stops. -/
  | notModelled (mnemonic : String)
  deriving DecidableEq, Repr

/-- The machine right after reset: no context, no team, memory with nothing listed, module off until
POWER_GOOD (R411). Where the manual gives no reset value the value is named in log entry 2. -/
def State.reset : State where
  agenda := []
  cur := 0
  arg := {}
  fresh := 0
  nextId := 1
  mem := []
  poison := []
  dcache := []
  plru := []
  covered := []
  tags := []
  teams := []
  exited := []
  plots := []
  crews := []
  launches := []
  ctxs := []
  cores := []
  coresets := []
  ops := []
  rputs := []
  reqs := []
  posted := []
  lastServed := []
  lockQ := []
  permitQ := []
  promiseQ := []
  arms := []
  syncOrder := []
  spilled := []
  barriers := []
  copies := []
  bales := []
  colls := []
  snaps := []
  orphans := []
  lastCtx := 0
  gang := none
  gangHeads := []
  bringup := .off
  firmware := []
  accepted := none
  moduleNumber := 0
  routes := []
  links := []
  mailboxes := []
  hostReply := none
  peerReply := none
  nextLeaf := 0
  arrayErrs := []
  powerCap := 3600
  clock := []
  thermalTrip := false

end Sys2Proof.Machine
end

