-- ==== Sys2Proof/Machine/Bits.lean ====
section
/-! DEFINITION. Bit fields, byte order, sparse stores and lists kept by key: the helpers that every other file of the machine uses. -/

namespace Sys2Proof.Machine

/-! ## Numbers and bit fields (R5) -/

/-- x[hi:lo], read as an unsigned number (R5). -/
def bits (x hi lo : Nat) : Nat := (x >>> lo) % 2 ^ (hi - lo + 1)

/-- x[n] of a number (R5). -/
def bit (x n : Nat) : Bool := x.testBit n

/-- The field of a dword (R5). -/
def dbits (x : Dword) (hi lo : Nat) : Nat := bits x.toNat hi lo

/-- x with the field [hi:lo] replaced by v (R5). -/
def setBits (x hi lo v : Nat) : Nat :=
  let w := 2 ^ (hi - lo + 1)
  (x >>> (hi + 1)) <<< (hi + 1) ||| ((v % w) <<< lo) ||| (x % 2 ^ lo)

/-- A dword from a natural number, modulo 2⁶⁴. -/
def dw (n : Nat) : Dword := BitVec.ofNat 64 n

/-- A number read as two's complement of n bits. -/
def signed (n x : Nat) : Int := if bit x (n - 1) && decide (0 < n) then (x : Int) - 2 ^ n else x

/-- An integer's low n bits. -/
def wrap (n : Nat) (z : Int) : Nat := (z % 2 ^ n).toNat

/-- Sign extension of an n-bit number to a dword. -/
def sext (n x : Nat) : Dword := dw (wrap 64 (signed n (x % 2 ^ n)))

/-- All ones in n bits. -/
def ones (n : Nat) : Nat := 2 ^ n - 1

/-- The number of set bits among the low n bits. -/
def popcount (n x : Nat) : Nat := ((List.range n).filter (fun i => bit x i)).length

/-- Zero bits above the highest set bit in n bits; n for 0 (R137, R168). -/
def clz (n x : Nat) : Nat := if x % 2 ^ n = 0 then n else n - 1 - Nat.log2 (x % 2 ^ n)

/-- Zero bits below the lowest set bit in n bits; n for 0 (R137). -/
def ctz (n x : Nat) : Nat := ((List.range n).takeWhile (fun i => !bit x i)).length

/-- ⌈a / b⌉. -/
def ceilDiv (a b : Nat) : Nat := (a + b - 1) / b

/-! ## Bytes (R6: little-endian) -/

/-- The n low bytes of a number, lowest first (R6). -/
def toBytes (n x : Nat) : List Byte := (List.range n).map (fun i => BitVec.ofNat 8 (x >>> (8 * i)))

/-- The number that bytes hold, lowest first (R6). -/
def ofBytes : List Byte → Nat
  | [] => 0
  | b :: bs => b.toNat + 256 * ofBytes bs

/-! ## Sparse stores -/

/-- The value at a place. -/
def spRead {α : Type} (d : α) : Sparse α → Nat → α
  | [], _ => d
  | (j, v) :: r, k => if k = j then v else spRead d r k

/-- The store without an entry at a place. -/
def spErase {α : Type} : Sparse α → Nat → Sparse α
  | [], _ => []
  | (j, v) :: r, k => if k = j then spErase r k else (j, v) :: spErase r k

/-- The store with an entry put at a place that has none. -/
def spInsert {α : Type} : Sparse α → Nat → α → Sparse α
  | [], k, x => [(k, x)]
  | (j, v) :: r, k, x => if k < j then (k, x) :: (j, v) :: r else (j, v) :: spInsert r k x

/-- Write a place: the default value leaves no entry, so that equal stores are equal lists. -/
def spWrite {α : Type} [DecidableEq α] (d : α) (m : Sparse α) (k : Nat) (x : α) : Sparse α :=
  if x = d then spErase m k else spInsert (spErase m k) k x

/-- The canonical form: places strictly rising from a bound, and no entry equal to the default. -/
def spWfFrom {α : Type} [DecidableEq α] (d : α) : Nat → Sparse α → Bool
  | _, [] => true
  | lo, (j, v) :: r => decide (lo ≤ j) && decide (v ≠ d) && spWfFrom d (j + 1) r

/-- The canonical form of a store. -/
def spWf {α : Type} [DecidableEq α] (d : α) (m : Sparse α) : Bool := spWfFrom d 0 m

/-! ## Lists kept by key -/

/-- Replace the first element a test picks. -/
def updFirst {α : Type} (p : α → Bool) (f : α → α) : List α → List α
  | [] => []
  | a :: r => if p a then f a :: r else a :: updFirst p f r

/-- The list without the element at an index. -/
def eraseAt {α : Type} : List α → Nat → List α
  | [], _ => []
  | _ :: r, 0 => r
  | a :: r, n + 1 => a :: eraseAt r n

/-- The list with the element at an index changed. -/
def updAt {α : Type} (f : α → α) : List α → Nat → List α
  | [], _ => []
  | a :: r, 0 => f a :: r
  | a :: r, n + 1 => a :: updAt f r n

/-- The first element with the smallest key. -/
def minBy {α : Type} (key : α → Nat) : List α → Option α
  | [] => none
  | a :: r =>
    match minBy key r with
    | none => some a
    | some b => if key a ≤ key b then some a else some b

/-- A set without repeats, kept as a rising list of numbers. -/
def addTo (k : Nat) : List Nat → List Nat
  | [] => [k]
  | j :: r => if k = j then j :: r else if k < j then k :: j :: r else j :: addTo k r

/-- The elements of a list with no repeats, first occurrence kept. -/
def distinct {α : Type} [DecidableEq α] : List α → List α
  | [] => []
  | a :: r => a :: (distinct r).filter (fun b => decide (b ≠ a))

/-! ## Lane masks -/

/-- The mask of a list of lanes (R124, R381). -/
def maskOf (lanes : List Nat) : LaneMask := lanes.foldl (fun m l => m ||| ((1 : LaneMask) <<< l)) 0

/-- The lanes of a mask below a width, ascending. -/
def lanesOf (w : Nat) (m : LaneMask) : List Nat := (List.range w).filter (fun l => m.getLsbD l)

end Sys2Proof.Machine
end

