-- ==== Sys2Proof/Machine/Format.lean ====
section
/-! DEFINITION. The number formats, absent codes and special patterns of 02_formats.md (R43 to R49), and the format classes of R159. -/

namespace Sys2Proof.Machine

/-- The element formats (R43, R44). -/
inductive Fmt where
  | b32 | s8 | s16 | s32 | z8 | z16 | z32 | s4
  | f32 | f16 | bf16 | e4m3 | e5m2 | e2m1 | t
  | f64 | s64 | z64 | b64
  deriving DecidableEq, Repr

/-- The format that a 4-bit code and the 64-bit selector name (R43, R44). -/
def fmtOf (code sel : Nat) : Fmt :=
  match code with
  | 0 => .b32 | 1 => .s8 | 2 => .s16 | 3 => .s32 | 4 => .z8 | 5 => .z16 | 6 => .z32 | 7 => .s4
  | 8 => .f32 | 9 => .f16 | 10 => .bf16 | 11 => .e4m3 | 12 => .e5m2 | 13 => .e2m1 | 14 => .t
  | _ => match sel with
    | 0 => .f64 | 1 => .s64 | 2 => .z64 | _ => .b64

/-- Element width in bits (R43). -/
def Fmt.width : Fmt → Nat
  | .s4 | .e2m1 => 4
  | .s8 | .z8 | .e4m3 | .e5m2 => 8
  | .s16 | .z16 | .f16 | .bf16 => 16
  | .b32 | .s32 | .z32 | .f32 | .t => 32
  | .f64 | .s64 | .z64 | .b64 => 64

/-- Elements in a lane's slice, or in the pair of a 64-bit format (R45). -/
def Fmt.perLane (f : Fmt) : Nat := if f.width = 64 then 1 else 32 / f.width

/-- Registers that a lane's data takes (R45). -/
def Fmt.regs (f : Fmt) : Nat := if f.width = 64 then 2 else 1

/-- The format is 64 bits wide (R44). -/
def Fmt.wide (f : Fmt) : Bool := f.width == 64

/-- Class FL (R159). -/
def Fmt.isFL : Fmt → Bool
  | .f32 | .f16 | .bf16 | .f64 => true
  | _ => false

/-- Class F8 (R159). -/
def Fmt.isF8 : Fmt → Bool
  | .e4m3 | .e5m2 => true
  | _ => false

/-- Signed integer formats. -/
def Fmt.isS : Fmt → Bool
  | .s4 | .s8 | .s16 | .s32 | .s64 => true
  | _ => false

/-- Unsigned integer formats. -/
def Fmt.isZ : Fmt → Bool
  | .z8 | .z16 | .z32 | .z64 => true
  | _ => false

/-- Class IN (R159). -/
def Fmt.isIN (f : Fmt) : Bool := f.isS || f.isZ

/-- Class BT (R159). -/
def Fmt.isBT : Fmt → Bool
  | .b32 | .b64 => true
  | _ => false

/-- Float formats other than e2m1. -/
def Fmt.isFloat (f : Fmt) : Bool := f.isFL || f.isF8

/-- Class WD (R159): one element per lane or pair. -/
def Fmt.isWD : Fmt → Bool
  | .f32 | .s32 | .z32 | .f64 | .s64 | .z64 => true
  | _ => false

/-- Class AB (R159): every format with an absent code except e2m1. -/
def Fmt.isAB (f : Fmt) : Bool := f.isFloat || f.isIN || (f == .t)

/-- The absent code (R47). Under e2m1 the code 0b1000 stands (R56); raw formats have none, and all ones is what
VSETL and VSEL write there (R165, R172). -/
def Fmt.absent (f : Fmt) : Nat :=
  match f with
  | .s4 | .e2m1 => 8
  | .s8 => 0x80
  | .s16 => 0x8000
  | .s32 => 0x80000000
  | .s64 => 0x8000000000000000
  | f => ones f.width

/-- IsAbsent(x) (R47): true exactly when x equals the absent code; never under a raw format. -/
def Fmt.isAbsent (f : Fmt) (x : Nat) : Bool := !f.isBT && !(f == .e2m1) && x == f.absent

/-- Truth values (R49). -/
inductive Truth where
  | false_ | true_ | unknown
  deriving DecidableEq, Repr

/-- A 32-bit value read as truth (R49). -/
def truthOf (x : Nat) : Truth := if x = 0 then .false_ else if x = 0xFFFFFFFF then .unknown else .true_

/-- The pattern that an instruction writes for a truth value (R49). -/
def Truth.code : Truth → Nat
  | .false_ => 0 | .true_ => 1 | .unknown => 0xFFFFFFFF

/-- Kleene's and (R55). -/
def Truth.and : Truth → Truth → Truth
  | .false_, _ | _, .false_ => .false_
  | .true_, .true_ => .true_
  | _, _ => .unknown

/-- Kleene's or (R55). -/
def Truth.or : Truth → Truth → Truth
  | .true_, _ | _, .true_ => .true_
  | .false_, .false_ => .false_
  | _, _ => .unknown

/-- Kleene's not (R55). -/
def Truth.not : Truth → Truth
  | .false_ => .true_ | .true_ => .false_ | .unknown => .unknown

/-- Stored mantissa bits of a float format (R43). -/
def Fmt.mant : Fmt → Nat
  | .f32 => 23 | .f16 => 10 | .bf16 => 7 | .e4m3 => 3 | .e5m2 => 2 | .f64 => 52
  | _ => 0

/-- Exponent bits of a float format (R43). -/
def Fmt.expo : Fmt → Nat
  | .f32 => 8 | .f16 => 5 | .bf16 => 8 | .e4m3 => 4 | .e5m2 => 5 | .f64 => 11
  | _ => 0

/-- Exponent bias of a float format (R43). -/
def Fmt.bias : Fmt → Nat
  | .f32 => 127 | .f16 => 15 | .bf16 => 127 | .e4m3 => 7 | .e5m2 => 15 | .f64 => 1023
  | _ => 0

/-- The format has infinities (R43). -/
def Fmt.hasInf (f : Fmt) : Bool := f.isFloat && !(f == .e4m3)

/-- The canonical NaN (R48). -/
def Fmt.nan : Fmt → Nat
  | .f64 => 0x7FF8000000000000
  | .f32 => 0x7FC00000
  | .f16 => 0x7E00
  | .bf16 => 0x7FC0
  | .e5m2 => 0x7E
  | .e4m3 => 0x7F
  | _ => 0

/-- The sign bit of a float format, as a pattern. -/
def Fmt.signBit (f : Fmt) : Nat := 2 ^ (f.width - 1)

/-- The pattern of +∞, or of the largest finite value under e4m3 (R95). -/
def Fmt.infPat (f : Fmt) : Nat := if f == .e4m3 then 0x7E else ones f.expo <<< f.mant

/-- The pattern of the largest finite value (R43). -/
def Fmt.maxPat (f : Fmt) : Nat := if f == .e4m3 then 0x7E else (ones f.expo <<< f.mant) - 1

/-- Largest non-absent value of an integer format (R43). -/
def Fmt.maxInt (f : Fmt) : Int := if f.isS then 2 ^ (f.width - 1) - 1 else 2 ^ f.width - 2

/-- Smallest non-absent value of an integer format (R43, R57). -/
def Fmt.minInt (f : Fmt) : Int := if f.isS then -(2 ^ (f.width - 1) - 1) else 0

/-- The integer an element's pattern holds, signed under s formats (R43). -/
def Fmt.int (f : Fmt) (x : Nat) : Int := if f.isS then signed f.width x else (x : Int)

end Sys2Proof.Machine
end

