-- ==== Sys2Proof/Machine/Float.lean ====
section
/-! DEFINITION. Exact values and rounding (R59 to R63, R436), integer narrowing (R57), conversions (R66) and the special functions of R181 and R182. -/

namespace Sys2Proof.Machine

/-! ## Flags (R64) -/

/-- IV, bit 0 of FSR (R64). -/
def fIV : BitVec 8 := 0x01#8
/-- OF (R64). -/
def fOF : BitVec 8 := 0x02#8
/-- UF (R64). -/
def fUF : BitVec 8 := 0x04#8
/-- IX (R64). -/
def fIX : BitVec 8 := 0x08#8
/-- DZ (R64). -/
def fDZ : BitVec 8 := 0x10#8
/-- AM (R64). -/
def fAM : BitVec 8 := 0x20#8
/-- SAT (R64). -/
def fSAT : BitVec 8 := 0x40#8
/-- QO (R64). -/
def fQO : BitVec 8 := 0x80#8

/-! ## Exact values -/

/-- The value of an element: absent, a NaN, an infinity, or a finite value (−1)^neg × m × 2^e, where m = 0 is
a zero with its sign (R47, R48, R63). -/
inductive Val where
  | absent
  | nan
  | inf (neg : Bool)
  | fin (neg : Bool) (m : Nat) (e : Int)
  deriving DecidableEq, Repr

/-- A finite magnitude to be rounded: m × 2^e, or strictly between m × 2^e and (m + 1) × 2^e when sticky. -/
structure Exact where
  neg : Bool
  m : Nat
  e : Int
  sticky : Bool := false
  deriving DecidableEq, Repr

/-- The value of a float pattern (R43, R47, R48). -/
def floatVal (f : Fmt) (x : Nat) : Val :=
  let neg := bit x (f.width - 1)
  let ex := bits x (f.width - 2) f.mant
  let m := x % 2 ^ f.mant
  if x = f.absent then .absent
  else if f == .e4m3 && x = 0x7F then .nan
  else if f.hasInf && ex = ones f.expo then (if m = 0 then .inf neg else .nan)
  else if ex = 0 then .fin neg m (1 - (f.bias : Int) - f.mant)
  else .fin neg (2 ^ f.mant + m) ((ex : Int) - f.bias - f.mant)

/-- The value of an integer. -/
def intVal (z : Int) : Val := .fin (decide (z < 0)) z.natAbs 0

/-- The value of an element of any format but e2m1 and the raw formats (R43, R47, R49). -/
def valOf (f : Fmt) (x : Nat) : Val :=
  if f.isFloat then floatVal f x
  else if f == .t then (match truthOf x with | .unknown => .absent | .true_ => intVal 1 | .false_ => intVal 0)
  else if f.isAbsent x then .absent
  else intVal (f.int x)

/-- A value is absent. -/
def Val.isAbsent : Val → Bool
  | .absent => true
  | _ => false

/-- A value is a NaN. -/
def Val.isNan : Val → Bool
  | .nan => true
  | _ => false

/-- Twice the magnitude that codes 0 to 7 of e2m1 stand for (R50). -/
def e2m1Mag2 (c : Nat) : Nat :=
  match c % 8 with
  | 0 => 0 | 1 => 1 | 2 => 2 | 3 => 3 | 4 => 4 | 5 => 6 | 6 => 8 | _ => 12

/-- The value of an e2m1 code in a block with a scale byte and a special byte (R50). -/
def e2m1Val (c scale special : Nat) : Val :=
  if scale = 0xFF then .absent
  else if c % 16 = 8 then
    if bit special 7 then .absent
    else .fin (bit special 6) (8 + special % 8) ((bits special 5 3 : Int) - 6 + (scale : Int) - 127)
  else .fin (bit c 3) (e2m1Mag2 c) ((scale : Int) - 128)

/-! ## Rounding -/

/-- The rounding modes of R59; `pick` gives the bracketing value of larger or of smaller magnitude (R182). -/
inductive Mode where
  | rne | rtz | rup | rdn
  | rsr (u : Nat)
  | pick (away : Bool)
  deriving DecidableEq, Repr

/-- The mode that a rounding code of R59 names; u is the lane's draw under RSR (R61). -/
def modeOf (code u : Nat) : Mode :=
  match code with
  | 2 => .rtz | 3 => .rup | 4 => .rdn | 5 => .rsr u | _ => .rne

/-- Whether the part cut off rounds the magnitude up: the kept integer is n, the rest is r of 2^s, and more
below it when sticky (R59, R61). -/
def roundsUp (mode : Mode) (neg : Bool) (n r s : Nat) (sticky : Bool) : Bool :=
  let inexact := decide (r ≠ 0) || sticky
  match mode with
  | .rne => decide (2 ^ s < 2 * r) || (decide (2 * r = 2 ^ s) && decide (0 < s) && (sticky || n % 2 == 1))
  | .rtz => false
  | .rup => inexact && !neg
  | .rdn => inexact && neg
  | .rsr u => decide (u * 2 ^ s < r * 2 ^ 32) || (sticky && decide (u * 2 ^ s = r * 2 ^ 32))
  | .pick away => inexact && away

/-- A magnitude rounded to an integer multiple of 2^q: the multiple, and whether it is inexact. -/
def roundAt (mode : Mode) (x : Exact) (q : Int) : Nat × Bool :=
  if q ≤ x.e then
    let n := x.m <<< (x.e - q).toNat
    let r := roundsUp mode x.neg n 0 1 x.sticky
    (n + r.toNat, x.sticky)
  else
    let s := (q - x.e).toNat
    let n := x.m >>> s
    let r := x.m % 2 ^ s
    (n + (roundsUp mode x.neg n r s x.sticky).toNat, decide (r ≠ 0) || x.sticky)

/-- The exponent of the leading bit of a nonzero magnitude. -/
def Exact.top (x : Exact) : Int := (Nat.log2 x.m : Int) + x.e

/-- The pattern of (−1)^neg × n × 2^q, where q is the format's spacing at n and n has at most mant + 1 bits. -/
def packFloat (f : Fmt) (neg : Bool) (n : Nat) (q : Int) : Nat :=
  let sgn := if neg then f.signBit else 0
  if n < 2 ^ f.mant then sgn + n
  else
    let (n, q) := if n < 2 ^ (f.mant + 1) then (n, q) else (n / 2, q + 1)
    sgn + ((q + f.mant + f.bias).toNat <<< f.mant) + (n - 2 ^ f.mant)

/-- Which infinity or finite bound an overflow writes, and its flags (R62). -/
def overflow (f : Fmt) (mode : Mode) (sat neg : Bool) : Nat × BitVec 8 :=
  let sgn := if neg then f.signBit else 0
  if sat || !f.hasInf then (sgn + f.maxPat, fOF ||| fIX ||| fSAT)
  else
    let toLargest := match mode with
      | .rtz => true | .rup => neg | .rdn => !neg | _ => false
    if toLargest then (sgn + f.maxPat, fOF ||| fIX) else (sgn + f.infPat, fOF ||| fIX)

/-- Round(x, mode) of a finite value to a float format: the pattern and the flags it raises (R61, R62, R63). -/
def roundFloat (f : Fmt) (mode : Mode) (sat : Bool) (x : Exact) : Nat × BitVec 8 :=
  if x.m = 0 && !x.sticky then ((if x.neg then f.signBit else 0), 0)
  else
    let emin : Int := 1 - (f.bias : Int)
    let prec : Int := f.mant
    let top := x.top
    let bigM := 2 ^ f.mant + (f.maxPat % 2 ^ f.mant)
    let bigE : Int := (bits f.maxPat (f.width - 2) f.mant : Int) - f.bias - f.mant
    let q := max top emin - prec
    -- beyond the largest finite magnitude, stochastic rounding is to nearest (R61)
    let beyond := decide (top > bigE + prec) ||
      (decide (top = bigE + prec) &&
        (let r := roundAt .rtz x bigE
         decide (bigM < r.1) || (decide (r.1 = bigM) && r.2)))
    let mode := match mode with
      | .rsr u => if beyond then .rne else .rsr u
      | m => m
    let (n, inexact) := roundAt mode x q
    -- tiny: rounded to the precision with an unbounded exponent, below the smallest normal (R63)
    let u := roundAt mode x (top - prec)
    let tiny := decide (top < emin - 1) || (decide (top = emin - 1) && decide (u.1 < 2 ^ (f.mant + 1)))
    let big := decide (bigE < q) || (decide (q = bigE) && decide (bigM < n))
    if big then overflow f mode sat x.neg
    else (packFloat f x.neg n q, if inexact then (if tiny then fUF ||| fIX else fIX) else 0)

/-- Round a value to a float format: specials keep their patterns; an infinity becomes the largest finite value
and raises SAT where the format has none (R62). -/
def roundVal (f : Fmt) (mode : Mode) (sat : Bool) : Val → Nat × BitVec 8
  | .absent => (f.absent, 0)
  | .nan => (f.nan, 0)
  | .inf neg =>
    if f.hasInf then ((if neg then f.signBit else 0) + f.infPat, 0)
    else ((if neg then f.signBit else 0) + f.maxPat, fSAT)
  | .fin neg m e => roundFloat f mode sat { neg, m, e }

/-! ## Sums and products (R63, R436) -/

/-- The result of an exact operation before rounding: a value, or an invalid operation (R63). -/
inductive Res where
  | val (v : Val)
  | invalid
  deriving DecidableEq, Repr

/-- The exact product (R63): 0 × ∞ is invalid; a zero has the exclusive-or of the signs (R436). -/
def mulVal : Val → Val → Res
  | .absent, _ | _, .absent => .val .absent
  | .nan, _ | _, .nan => .val .nan
  | .inf a, .inf b => .val (.inf (a != b))
  | .inf a, .fin b m _ | .fin b m _, .inf a => if m = 0 then .invalid else .val (.inf (a != b))
  | .fin a m e, .fin b n g => .val (.fin (a != b) (m * n) (e + g))

/-- Invert the sign. -/
def negVal : Val → Val
  | .inf a => .inf (!a)
  | .fin a m e => .fin (!a) m e
  | v => v

/-- The signed integer multiple of 2^e that a finite value is, for e at most its exponent. -/
def scaled (e : Int) : Val → Int
  | .fin neg m g => (if neg then -1 else 1) * ((m : Int) * 2 ^ (g - e).toNat)
  | _ => 0

/-- The least exponent among finite values. -/
def minExp : List Val → Int → Int
  | [], e => e
  | .fin _ _ g :: r, e => minExp r (min g e)
  | _ :: r, e => minExp r e

/-- The sign of a value. -/
def Val.neg : Val → Bool
  | .inf a => a
  | .fin a _ _ => a
  | _ => false

/-- The exact sum of terms, none absent (R63, R233, R436). A NaN term gives a NaN without a flag; infinities of
both signs are invalid; an exact zero sum of terms of one sign keeps it, and any other is +0, or −0 when down
(the mode is RDN). -/
def sumVals (down : Bool) (ts : List Val) : Res :=
  if ts.any Val.isNan then .val .nan
  else
    let infs := ts.filter (fun v => match v with | .inf _ => true | _ => false)
    match infs with
    | i :: r => if r.all (fun v => v.neg == i.neg) then .val i else .invalid
    | [] =>
      let e := match ts with | .fin _ _ g :: _ => minExp ts g | _ => 0
      let z := (ts.map (scaled e)).foldl (· + ·) 0
      if z = 0 then
        let neg := match ts with
          | [] => false
          | a :: r => if r.all (fun v => v.neg == a.neg) then a.neg else down
        .val (.fin neg 0 0)
      else .val (.fin (decide (z < 0)) z.natAbs e)

/-- The exact sum of products and terms: an invalid product makes the sum invalid unless a NaN stands among the
terms (log entry 12). -/
def sumRes (down : Bool) (ts : List Res) : Res :=
  let vals := ts.filterMap (fun r => match r with | .val v => some v | .invalid => none)
  if vals.any Val.isNan then .val .nan
  else if ts.any (fun r => match r with | .invalid => true | _ => false) then .invalid
  else sumVals down vals

/-- Round the result of an exact operation; an invalid one gives the canonical NaN and IV (R63). -/
def roundRes (f : Fmt) (mode : Mode) (sat : Bool) : Res → Nat × BitVec 8
  | .invalid => (f.nan, fIV)
  | .val v => roundVal f mode sat v

/-- The mode rounds toward −∞ (R436). -/
def Mode.down : Mode → Bool
  | .rdn => true
  | _ => false

/-! ## Order (R54, R67, R167) -/

/-- Order of two values, neither absent nor NaN: an infinity stands beyond every finite value. -/
def ltVal : Val → Val → Bool
  | .inf a, .inf b => a && !b
  | .inf a, _ => a
  | _, .inf b => !b
  | v, w =>
    let e := minExp [v, w] (match v with | .fin _ _ g => g | _ => 0)
    decide (scaled e v < scaled e w)

/-- Numerical equality of values, neither absent nor NaN: −0 equals +0 (R54). -/
def eqVal (v w : Val) : Bool := !ltVal v w && !ltVal w v

/-- The order that puts −0 below +0 (R67, R167, R204). -/
def belowVal (v w : Val) : Bool := ltVal v w || (eqVal v w && v.neg && !w.neg)

/-! ## Integers (R57) -/

/-- An exact integer written in an integer format: wrapped, with AM where the wrap meets the absent code; or
clamped, with SAT (R57). -/
def narrowInt (f : Fmt) (sat : Bool) (z : Int) : Nat × BitVec 8 :=
  if sat then
    if f.maxInt < z then (wrap f.width f.maxInt, fSAT)
    else if z < f.minInt then (wrap f.width f.minInt, fSAT)
    else (wrap f.width z, 0)
  else
    let x := wrap f.width z
    (x, if f.isAbsent x then fAM else 0)

/-! ## Conversions (R66) -/

/-- A finite value rounded to an integer, and whether that is inexact. -/
def roundToInt (mode : Mode) (neg : Bool) (m : Nat) (e : Int) : Int × Bool :=
  let (n, ix) := roundAt mode { neg, m, e } 0
  ((if neg then -(n : Int) else n), ix)

/-- A truth and a packed format stand on the two sides: a truth for each sub-element, which is reserved (R46). -/
def truthPacked (dst src : Fmt) : Bool :=
  (dst == .t && decide (src.width < 32)) || (src == .t && decide (dst.width < 32))

/-- The pairs of formats that VCVT converts (R66): e2m1, b32 and b64 to themselves alone, where the row "the same
format" is taken before the reserved rows. Log entry 90. -/
def cvtPair (dst src : Fmt) : Bool :=
  if dst == src then true
  else !(dst == .e2m1) && !(src == .e2m1) && !dst.isBT && !src.isBT && !truthPacked dst src

/-- One element converted from src to dst (R66). The range of an integer format is held against the rounded value, so
that 127.4 to s8 raises IX alone. Log entry 90. -/
def convert (dst src : Fmt) (mode : Mode) (sat : Bool) (x : Nat) : Nat × BitVec 8 :=
  if dst == src then (x, 0)
  else
    match valOf src x with
    | .absent => (dst.absent, 0)
    | v =>
      if dst == .t then
        ((match v with | .fin _ m _ => if m = 0 then 0 else 1 | _ => 1), 0)
      else if dst.isFloat then
        -- only a conversion from a float raises IX
        let r := roundVal dst mode sat v
        if src.isFloat then r else (r.1, r.2 &&& ~~~fIX)
      else if src.isFloat then
        match v with
        | .fin neg m e =>
          let (z, ix) := roundToInt mode neg m e
          if dst.maxInt < z then (wrap dst.width dst.maxInt, fSAT ||| fIX)
          else if z < dst.minInt then (wrap dst.width dst.minInt, fSAT ||| fIX)
          else (wrap dst.width z, if ix then fIX else 0)
        | .inf neg => (wrap dst.width (if neg then dst.minInt else dst.maxInt), fSAT ||| fIX)
        | _ => (0, fIV)
      else
        match v with
        | .fin neg m _ => narrowInt dst sat (if neg then -(m : Int) else m)
        | _ => (0, 0)

/-! ## Roots and reciprocals -/

/-- Integer square root by digits, from bit k down. -/
def isqrtGo : Nat → Nat → Nat → Nat
  | 0, _, r => r
  | k + 1, n, r => if (r + 2 ^ k) * (r + 2 ^ k) ≤ n then isqrtGo k n (r + 2 ^ k) else isqrtGo k n r

/-- ⌊√n⌋. -/
def isqrt (n : Nat) : Nat := isqrtGo (Nat.log2 n / 2 + 1) n 0

/-- 1 / (m × 2^e), with 160 bits. -/
def recipExact (neg : Bool) (m : Nat) (e : Int) : Exact :=
  let s := Nat.log2 m + 160
  { neg, m := 2 ^ s / m, e := -e - s, sticky := decide (2 ^ s % m ≠ 0) }

/-- √(m × 2^e), with 160 bits. -/
def sqrtExact (m : Nat) (e : Int) : Exact :=
  let (m, e) := if e % 2 = 0 then (m, e) else (2 * m, e - 1)
  let n := m * 2 ^ 320
  let r := isqrt n
  { neg := false, m := r, e := e / 2 - 160, sticky := decide (r * r ≠ n) }

/-- 1 / √(m × 2^e), with 160 bits. -/
def rsqrtExact (m : Nat) (e : Int) : Exact :=
  let (m, e) := if e % 2 = 0 then (m, e) else (2 * m, e - 1)
  let s := Nat.log2 m + 320
  let s := s + s % 2
  let n := 2 ^ s / m
  let r := isqrt n
  { neg := false, m := r, e := -(e / 2) - (s / 2 : Nat), sticky := decide (r * r * m ≠ 2 ^ s) }

/-! ## Fixed-point series for the faithful functions of R182

Each works on numbers scaled by 2^k. The working precision exceeds every format's by more than a hundred bits,
and the result is taken as inexact: no operand outside the table of R181 gives a representable result. -/

/-- Σ of a power series x^i × c(i), terms given by a step from the previous one. -/
def series (step : Nat → Int → Int) : Nat → Nat → Int → Int → Int
  | 0, _, _, acc => acc
  | fuel + 1, i, term, acc => if term = 0 then acc else series step fuel (i + 1) (step i term) (acc + term)

/-- e^x for a scaled x of at most 1. -/
def expSmall (k : Nat) (x : Int) : Int :=
  series (fun i t => t * x / 2 ^ k / (i + 1)) (k + 8) 0 (2 ^ k) 0

/-- 2 × artanh(z) for a scaled z of at most 1/3. -/
def artanh2 (k : Nat) (z : Int) : Int :=
  let zz := z * z / 2 ^ k
  let powers := fun (i : Nat) (t : Int × Int) => let p := t.1 * zz / 2 ^ k; (p, t.2 + p / (2 * (i : Int) + 3))
  2 * ((List.range (k / 3 + 4)).foldl (fun t i => powers i t) (z, z)).2

/-- ln 2, scaled by 2^k: 2 artanh(1/3). -/
def ln2 (k : Nat) : Int := artanh2 k (2 ^ k / 3)

/-- arctan(1/n), scaled by 2^k. -/
def arctanInv (k n : Nat) : Int :=
  ((List.range (k / 4 + 4)).foldl
    (fun (t : Int × Int) (i : Nat) =>
      let p := t.1 / ((n : Int) * n)
      (p, if i % 2 = 0 then t.2 - p / (2 * (i : Int) + 3) else t.2 + p / (2 * (i : Int) + 3)))
    ((2 ^ k : Int) / n, (2 ^ k : Int) / n)).2

/-- π, scaled by 2^k (Machin). -/
def piScaled (k : Nat) : Int := 4 * (4 * arctanInv (k + 16) 5 - arctanInv (k + 16) 239) / 2 ^ 16

/-- sin of a scaled x of at most π/2. -/
def sinSmall (k : Nat) (x : Int) : Int :=
  let xx := x * x / 2 ^ k
  series (fun i t => -(t * xx / 2 ^ k / ((2 * (i : Int) + 2) * (2 * i + 3)))) (k + 8) 0 x 0

/-- cos of a scaled x of at most π/2. -/
def cosSmall (k : Nat) (x : Int) : Int :=
  let xx := x * x / 2 ^ k
  series (fun i t => -(t * xx / 2 ^ k / ((2 * (i : Int) + 1) * (2 * i + 2)))) (k + 8) 0 (2 ^ k) 0

/-- (−1)^neg × m × 2^e, scaled by 2^k; e at least −k. -/
def toScaled (k : Nat) (neg : Bool) (m : Nat) (e : Int) : Int :=
  (if neg then -1 else 1) * ((m : Int) * 2 ^ (e + k).toNat)

/-- A scaled number as an inexact value. -/
def ofScaled (k : Nat) (x : Int) : Exact := { neg := decide (x < 0), m := x.natAbs, e := -(k : Int), sticky := true }

/-- Working precision for an operand m × 2^e: enough for a cubic term of a small operand. -/
def workBits (m : Nat) (e : Int) : Nat := 256 + 4 * (-(e + Nat.log2 m)).toNat + (-e).toNat

/-- e^x as n and a scaled mantissa r in [1, 2]: e^x = r × 2^n. -/
def expParts (k : Nat) (x : Int) : Int × Int :=
  let l := ln2 k
  let n := x / l
  (n, expSmall k (x - n * l))

/-- 2^x (R181). -/
def exp2Exact (neg : Bool) (m : Nat) (e : Int) : Exact :=
  if e + Nat.log2 m > 12 then { neg := false, m := 1, e := if neg then -5000 else 5000, sticky := true }
  else
    let k := workBits m e
    let x := toScaled k neg m e
    let n := x / 2 ^ k
    let f := x - n * 2 ^ k
    let r := ofScaled k (expSmall k (f * ln2 k / 2 ^ k))
    if f = 0 then { neg := false, m := 1, e := n } else { r with e := r.e + n }

/-- log₂ x for x > 0 (R181). -/
def log2Exact (m : Nat) (e : Int) : Exact :=
  let k := 512
  let top := (Nat.log2 m : Int) + e
  if m = 2 ^ Nat.log2 m then { neg := decide (top < 0), m := top.natAbs, e := 0 }
  else
    let f : Int := (m : Int) * 2 ^ k / 2 ^ Nat.log2 m
    let z := (f - 2 ^ k) * 2 ^ k / (f + 2 ^ k)
    ofScaled k (top * 2 ^ k + artanh2 k z * 2 ^ k / ln2 k)

/-- sin x or cos x of a finite nonzero operand (R181, R182: argument reduction is exact over the whole range). -/
def sinCosExact (cosine : Bool) (neg : Bool) (m : Nat) (e : Int) : Exact :=
  let k := workBits m e + 2 * (e + Nat.log2 m).toNat
  let x := toScaled k neg m e
  let half := piScaled k / 2
  let q := x / half
  let r := x - q * half
  let quad := ((if cosine then q + 1 else q) % 4).toNat
  ofScaled k (match quad with
    | 0 => sinSmall k r | 1 => cosSmall k r | 2 => -(sinSmall k r) | _ => -(cosSmall k r))

/-- tanh x of a finite nonzero operand (R181). -/
def tanhExact (neg : Bool) (m : Nat) (e : Int) : Exact :=
  if e + Nat.log2 m > 8 then { neg, m := 2 ^ 200 - 1, e := -200, sticky := true }
  else
    let k := workBits m e
    let (n, r) := expParts k (2 * toScaled k false m e)
    let y := r * 2 ^ n.toNat
    { ofScaled k ((y - 2 ^ k) * 2 ^ k / (y + 2 ^ k)) with neg := neg }

/-- 1 / (1 + e^−x) of a finite nonzero operand (R181). -/
def logiExact (neg : Bool) (m : Nat) (e : Int) : Exact :=
  if e + Nat.log2 m > 10 then
    (if neg then { neg := false, m := 1, e := -2000, sticky := true }
     else { neg := false, m := 2 ^ 200 - 1, e := -200, sticky := true })
  else
    let k := workBits m e + 1500
    let (n, r) := expParts k (toScaled k neg m e)
    let y := if n < 0 then r / 2 ^ (-n).toNat else r * 2 ^ n.toNat
    ofScaled k (y * 2 ^ k / (y + 2 ^ k))

/-- The special functions (R181), by opcode from 0x200. -/
inductive SpecialFn where
  | rcp | rsq | sqrt | exp2 | log2 | sin | cos | tanh | logi
  deriving DecidableEq, Repr

/-- The function's number in the opcode map, from 0 (R101). -/
def SpecialFn.num : SpecialFn → Nat
  | .rcp => 0 | .rsq => 1 | .sqrt => 2 | .exp2 => 3 | .log2 => 4 | .sin => 5 | .cos => 6 | .tanh => 7 | .logi => 8

/-- VRCP and VSQRT are correctly rounded; the others are faithfully rounded (R182). -/
def SpecialFn.correct : SpecialFn → Bool
  | .rcp | .sqrt => true
  | _ => false

/-- What the table of R181 gives for an operand: a pattern with flags, or a value to be rounded. -/
def specialRes (f : Fmt) (fn : SpecialFn) (v : Val) : (Nat × BitVec 8) ⊕ Exact :=
  let zero (neg : Bool) : Nat := if neg then f.signBit else 0
  let infP (neg : Bool) : Nat := zero neg + f.infPat
  let one : Exact := { neg := false, m := 1, e := 0 }
  match v with
  | .absent => .inl (f.absent, 0)
  | .nan => .inl (f.nan, 0)
  | .inf neg =>
    match fn with
    | .rcp => .inl (zero neg, 0)
    | .rsq => .inl (if neg then (f.nan, fIV) else (0, 0))
    | .sqrt | .log2 => .inl (if neg then (f.nan, fIV) else (f.infPat, 0))
    | .exp2 => .inl (if neg then 0 else f.infPat, 0)
    | .sin | .cos => .inl (f.nan, fIV)
    | .tanh => .inr { one with neg := neg }
    | .logi => if neg then .inl (0, 0) else .inr one
  | .fin neg m e =>
    if m = 0 then
      match fn with
      | .rcp | .rsq => .inl (infP neg, fDZ)
      | .sqrt | .sin | .tanh => .inl (zero neg, 0)
      | .exp2 | .cos => .inr one
      | .log2 => .inl (infP true, fDZ)
      | .logi => .inr { one with e := -1 }
    else
      match fn with
      | .rcp => .inr (recipExact neg m e)
      | .rsq => if neg then .inl (f.nan, fIV) else .inr (rsqrtExact m e)
      | .sqrt => if neg then .inl (f.nan, fIV) else .inr (sqrtExact m e)
      | .exp2 => .inr (exp2Exact neg m e)
      | .log2 => if neg then .inl (f.nan, fIV) else .inr (log2Exact m e)
      | .sin => .inr (sinCosExact false neg m e)
      | .cos => .inr (sinCosExact true neg m e)
      | .tanh => .inr (tanhExact neg m e)
      | .logi => .inr (logiExact neg m e)

/-- One element of a special function (R181, R182): correctly rounded in the mode, or one of the two bracketing
values, chosen by a fixed function of the implementation; code is the format code. -/
def specialElem (code : Nat) (f : Fmt) (fn : SpecialFn) (mode : Mode) (sat : Bool) (x : Nat) : Nat × BitVec 8 :=
  match specialRes f fn (floatVal f x) with
  | .inl r => r
  | .inr y =>
    let mode := if fn.correct then mode else .pick (Config.specialUp fn.num code x)
    roundFloat f mode sat y

end Sys2Proof.Machine
end

