-- ==== Sys2Proof/Machine/Access.lean ====
section
/-! DEFINITION. Access to the parts of the state: teams and their registers, contexts, cores; physical memory in its canonical form; translation (R287 to R295); what a write at a home slice does (R208, R283, R291). -/

namespace Sys2Proof.Machine

/-! ## Handles (R31) -/

/-- CORE of a handle. -/
def coreOf (h : Handle) : Nat := h.toNat / 2 ^ 24
/-- PART of a handle. -/
def partOf (h : Handle) : Nat := h.toNat / 2 ^ 21 % 8
/-- SLOT of a handle. -/
def slotOf (h : Handle) : Nat := h.toNat / 2 ^ 16 % 32
/-- GEN of a handle. -/
def genOf (h : Handle) : Nat := h.toNat % 2 ^ 16
/-- A handle from its fields. -/
def mkHandle (core part slot gen : Nat) : Handle :=
  BitVec.ofNat 32 (core * 2 ^ 24 + part * 2 ^ 21 + slot * 2 ^ 16 + gen)

/-! ## Parts of the state -/

/-- The team with a handle, resident or saved; none when it has exited (R33). -/
def State.team? (s : State) (h : Handle) : Option Team := s.teams.find? (fun t => t.tid == h)

/-- Change the team with a handle. -/
def State.modTeam (s : State) (h : Handle) (f : Team → Team) : State :=
  { s with teams := updFirst (fun t => t.tid == h) f s.teams }

/-- Put a team back. -/
def State.setTeam (s : State) (t : Team) : State := s.modTeam t.tid (fun _ => t)

/-- A context. -/
def State.ctx? (s : State) (c : Nat) : Option Context := s.ctxs.find? (fun x => x.id == c)

/-- Change a context. -/
def State.modCtx (s : State) (c : Nat) (f : Context → Context) : State :=
  { s with ctxs := updFirst (fun x => x.id == c) f s.ctxs }

/-- A plot. -/
def State.plot? (s : State) (p : Nat) : Option Plot := s.plots.find? (fun x => x.id == p)

/-- Change a plot. -/
def State.modPlot (s : State) (p : Nat) (f : Plot → Plot) : State :=
  { s with plots := updFirst (fun x => x.id == p) f s.plots }

/-- A crew. -/
def State.crew? (s : State) (c : Nat) : Option Crew := s.crews.find? (fun x => x.id == c)

/-- Change a crew. -/
def State.modCrew (s : State) (c : Nat) (f : Crew → Crew) : State :=
  { s with crews := updFirst (fun x => x.id == c) f s.crews }

/-- A launch of a context. -/
def State.launch? (s : State) (c l : Nat) : Option Launch := s.launches.find? (fun x => x.ctx == c && x.lid == l)

/-- Change a launch. -/
def State.modLaunch (s : State) (c l : Nat) (f : Launch → Launch) : State :=
  { s with launches := updFirst (fun x => x.ctx == c && x.lid == l) f s.launches }

/-- A memory operation in flight. -/
def State.op? (s : State) (i : Nat) : Option MemOp := s.ops.find? (fun x => x.id == i)

/-- Change a memory operation. -/
def State.modOp (s : State) (i : Nat) (f : MemOp → MemOp) : State :=
  { s with ops := updFirst (fun x => x.id == i) f s.ops }

/-- A core. -/
def State.core (s : State) (c : Nat) : Core := spRead {} s.cores c

/-- Change a core. -/
def State.modCore (s : State) (c : Nat) (f : Core → Core) : State :=
  { s with cores := spWrite {} s.cores c (f (s.core c)) }

/-- The most that a 64-bit saturating counter holds (R376, R377). -/
def satAdd (x : Dword) (n : Nat) : Dword := BitVec.ofNat 64 (min (x.toNat + n) (2 ^ 64 - 1))

/-- Events of a code happen in a core for a context: the performance counters that select them count (R376). -/
def State.countPerf (s : State) (core ctx code n : Nat) : State :=
  if (s.core core).perf.isEmpty || n = 0 then s
  else
    let hit := fun (p : Perf) => p.code == code && (match p.filter with | some c => c == ctx | none => true)
    s.modCore core fun c =>
      { c with perf := c.perf.map fun p => (p.1, if hit p.2 then { p.2 with count := satAdd p.2.count n } else p.2) }

/-- CYC of a team's core (R122). -/
def State.now (s : State) (t : Team) : Nat := (s.core (coreOf t.tid)).cyc

/-- The next identifier, and the state with it taken. -/
def State.takeId (s : State) : Nat × State := (s.nextId, { s with nextId := s.nextId + 1 })

/-- Draw a free value (R11). Log entry 5. -/
def State.drawFree (s : State) : Dword × State := (Config.freeValue s.fresh, { s with fresh := s.fresh + 1 })

/-- Draw a free choice. Log entry 5. -/
def State.drawBool (s : State) : Bool × State := (Config.freeBool s.fresh, { s with fresh := s.fresh + 1 })

/-- Draw free bytes. Log entry 5. -/
def State.drawBytes (s : State) (n : Nat) : List Byte × State :=
  ((List.range n).map fun i => (Config.freeValue (s.fresh + i)).setWidth 8, { s with fresh := s.fresh + n })

/-- A feature bit has been accepted (R403, R404). -/
def State.feature (s : State) (n : Nat) : Bool :=
  match s.accepted with
  | none => false
  | some v => v.getLsbD n

/-! ## Registers of a team -/

/-- A scalar register (R110). -/
def Team.getS (t : Team) (n : Nat) : Dword := spRead 0 t.s n

/-- Write a scalar register (R110). -/
def Team.setS (t : Team) (n : Nat) (v : Dword) : Team := { t with s := spWrite 0 t.s n v }

/-- One lane's slice of a vector register (R107). -/
def Team.getV (t : Team) (r l : Nat) : Word := spRead 0 (spRead [] t.v r) l

/-- Write one lane's slice (R108). -/
def Team.setV (t : Team) (r l : Nat) (x : Word) : Team :=
  { t with v := spWrite [] t.v r (spWrite 0 (spRead [] t.v r) l x) }

/-- Write lane slices in order. -/
def Team.setLanes (t : Team) (ws : List LaneWrite) : Team := ws.foldl (fun u w => u.setV w.reg w.lane w.val) t

/-- A completion flag (R113). -/
def Team.flag (t : Team) (n : Nat) : Flag := spRead {} t.flags n

/-- Change a completion flag. -/
def Team.modFlag (t : Team) (n : Nat) (f : Flag → Flag) : Team := { t with flags := spWrite {} t.flags n (f (t.flag n)) }

/-- A flag is set while either part is nonzero (R113). -/
def Flag.isSet (f : Flag) : Bool := f.soft || decide (f.count ≠ 0)

/-- Count an outstanding operation on a flag, if any (R113). -/
def Team.raiseCount (t : Team) (f : Option Nat) : Team :=
  match f with
  | none => t
  | some n => t.modFlag n (fun x => { x with count := x.count + 1 })

/-- The end of an outstanding operation (R113). -/
def Team.lowerCount (t : Team) (f : Option Nat) : Team :=
  match f with
  | none => t
  | some n => t.modFlag n (fun x => { x with count := x.count - 1 })

/-- A segment register (R115). -/
def Team.seg (t : Team) (n : Nat) : Segment := spRead {} t.segs n

/-- The per-lane random counter CTR (R72). -/
def Team.getCtr (t : Team) (l : Nat) : Dword := spRead 0 t.ctr l

/-- The mask window s0 to s15 (R111). -/
def Team.window (t : Team) : LaneMask :=
  BitVec.ofNat 1024 ((List.range 16).foldr (fun i a => (t.getS i).toNat + a * 2 ^ 64) 0)

/-- The mask that a REP in progress holds (R152). -/
def Team.repMask (t : Team) : Option LaneMask := t.clause.bind fun c => c.rep.bind Rep.mask

/-- The mask enables a lane: within a REP, the mask of its issue 0 (R111, R152). -/
def Team.enabled (t : Team) (l : Nat) : Bool :=
  match t.repMask with
  | some m => m.getLsbD l
  | none => (t.getS (l / 64)).getLsbD (l % 64)

/-- Active(L) (R13): enabled by the mask, below the width, and not frozen. -/
def Team.active (t : Team) (l : Nat) : Bool := decide (l < t.width) && t.enabled l && !t.hold.getLsbD l

/-- The active lanes, ascending (R13). -/
def Team.lanes (t : Team) : List Nat := (List.range t.width).filter t.active

/-- A team of the context that its context names as supervisor (R120, R400). -/
def State.isSup (s : State) (t : Team) : Bool :=
  match s.ctx? t.ctx with
  | some c => c.supervisor == t.tid
  | none => false

/-- Supervisor or debug-privileged (R101). -/
def State.isDbg (s : State) (t : Team) : Bool := s.isSup t || t.dbgp

/-! ## Launch headers (R264) -/

/-- A dword of a launch header. -/
def hdrD (h : List Dword) (n : Nat) : Nat := (h.getD n 0).toNat
/-- PRIO. -/
def hPrio (h : List Dword) : Nat := bits (hdrD h 0) 55 53
/-- NBV. -/
def hNbv (h : List Dword) : Nat := bits (hdrD h 0) 47 40
/-- LOGW. -/
def hLogw (h : List Dword) : Nat := bits (hdrD h 0) 39 32
/-- TEAMS. -/
def hTeams (h : List Dword) : Nat := bits (hdrD h 0) 31 26
/-- CREW. -/
def hCrew (h : List Dword) : Nat := bits (hdrD h 0) 25 22
/-- GANG. -/
def hGang (h : List Dword) : Bool := bit (hdrD h 0) 21
/-- TWIN. -/
def hTwin (h : List Dword) : Bool := bit (hdrD h 0) 20
/-- NOMATRIX. -/
def hNomatrix (h : List Dword) : Bool := bit (hdrD h 0) 19
/-- NOSPLIT. -/
def hNosplit (h : List Dword) : Bool := bit (hdrD h 0) 18
/-- PSTORE. -/
def hPstore (h : List Dword) : Bool := bit (hdrD h 0) 17
/-- Width Wk of a work-identifier field (R29): W0 is LOGW, W1 to W5 six bits each. -/
def hW (h : List Dword) (k : Nat) : Nat := if k = 0 then hLogw h else bits (hdrD h 1) (6 * k - 1) (6 * k - 6)
/-- Extent Ek of plot coordinate k, 2 to 5. -/
def hExt (h : List Dword) (k : Nat) : Nat :=
  match k with
  | 2 => bits (hdrD h 2) 31 0 | 3 => bits (hdrD h 2) 63 32 | 4 => bits (hdrD h 3) 31 0 | _ => bits (hdrD h 3) 63 32
/-- REGS. -/
def hRegs (h : List Dword) : Nat := bits (hdrD h 4) 47 32
/-- SCRATCH. -/
def hScratch (h : List Dword) : Nat := bits (hdrD h 4) 31 24
/-- ACC. -/
def hAcc (h : List Dword) : Nat := bits (hdrD h 4) 23 16
/-- ESTATE capacity. -/
def hEstate (h : List Dword) : Nat := bits (hdrD h 4) 8 0
/-- TSIZE. -/
def hTsize (h : List Dword) : Nat := bits (hdrD h 5) 63 32
/-- Default heir of locks. -/
def hHlock (h : List Dword) : Nat := bits (hdrD h 5) 3 0
/-- Default heir of promises. -/
def hHprom (h : List Dword) : Nat := bits (hdrD h 5) 7 4
/-- Default heir of permits. -/
def hHpermit (h : List Dword) : Nat := bits (hdrD h 5) 11 8
/-- W limit. -/
def hWsize (h : List Dword) : Nat := bits (hdrD h 9) 63 32
/-- K limit. -/
def hKsize (h : List Dword) : Nat := bits (hdrD h 9) 31 0
/-- L limit. -/
def hLsize (h : List Dword) : Nat := bits (hdrD h 11) 31 0

/-- The header of a team's launch. -/
def State.header (s : State) (t : Team) : List Dword :=
  match s.launch? t.ctx t.lid with
  | some l => l.header
  | none => []

/-- The work identifier of a lane of a team (R30). -/
def State.workId (s : State) (t : Team) (lane : Nat) : Nat :=
  let h := s.header t
  let cs := match s.plot? t.plot with | some p => p.coords | none => []
  let fields := t.index :: cs
  (fields.foldl (fun (acc : Nat × Nat × Nat) v => (acc.1 ||| (v <<< acc.2.1), acc.2.1 + hW h acc.2.2, acc.2.2 + 1))
    (lane, hW h 0, 1)).1

/-- Where field k of the work identifier begins (R142). -/
def widOffset (h : List Dword) (k : Nat) : Nat := (List.range k).foldl (fun p i => p + hW h i) 0

/-! ## Physical memory (R277, R287) -/

/-- What an unlisted byte reads as: 0, since memory is cleared when it is trained (R411). Log entry 3. -/
def unlistedByte : Byte := 0

/-- The byte at a physical address. -/
def memByte (m : List Host.Cell) (pa : Nat) : Byte := spRead unlistedByte m pa

/-- Write one byte. -/
def memPut (m : List Host.Cell) (pa : Nat) (b : Byte) : List Host.Cell := spWrite unlistedByte m pa b

/-- Bytes at consecutive addresses. -/
def memRead (m : List Host.Cell) (pa n : Nat) : List Byte := (List.range n).map (fun i => memByte m (pa + i))

/-- Write bytes at consecutive addresses. -/
def memWrite : List Host.Cell → Nat → List Byte → List Host.Cell
  | m, _, [] => m
  | m, pa, b :: bs => memWrite (memPut m pa b) (pa + 1) bs

/-- The canonical form of memory: addresses strictly rising, no entry equal to what an unlisted byte reads as. -/
def Memory.wf (m : List Host.Cell) : Bool := spWf unlistedByte m

/-- A dword of physical memory, lowest byte first (R6). Log entry 27. -/
def State.physDword (s : State) (pa : Nat) : Nat := ofBytes (memRead s.mem pa 8)

/-! ## The address map (R287, R290) -/

/-- Module number of a domain physical address. -/
def paModule (pa : Nat) : Nat := pa / 2 ^ 46
/-- Local address of a domain physical address. -/
def paLocal (pa : Nat) : Nat := pa % 2 ^ 46

/-- The local address lies in one of the four 191 GiB ranges for contexts, page tables and save areas (R287). -/
def localHbm (a : Nat) : Bool :=
  decide (a < 4 * 0x3000000000) && decide (a % 0x3000000000 < 0x2FC0000000)

/-- The local address lies in the host window (R287). -/
def localHost (a : Nat) : Bool := decide (0x200000000000 ≤ a) && decide (a < 0x400000000000)

/-- The address is in the host window of this module. Log entry 79. -/
def State.isHost (s : State) (pa : Nat) : Bool := paModule pa == s.moduleNumber.toNat && localHost (paLocal pa)

/-- The cause with which an access beyond the module can end in an error (R391, R405): the host's completion of an access to
its window, or the refusal of the module that the address names. Log entry 83. -/
def State.outsideCause (s : State) (pa : Nat) : Option Nat :=
  if s.isHost pa then some 10 else if paModule pa != s.moduleNumber.toNat then some 9 else none

/-- A peer module belongs to the domain while its route mask is not empty (R405). Log entry 20. -/
def State.inDomain (s : State) (m : Nat) : Bool :=
  m == s.moduleNumber.toNat || (s.feature 11 && spRead 0 s.routes m != 0)

/-- The link that a request to a module leaves on: the lowest-numbered link of the module's mask that is trained (R405). -/
def State.linkFor (s : State) (m : Nat) : Option Nat :=
  (List.range Config.links).find? fun l =>
    (spRead (0 : BitVec 18) s.routes m).getLsbD l && (spRead ({} : Link) s.links l).trained
      && !(spRead ({} : Link) s.links l).failed

/-- A module has a link (R405). -/
def State.linkUp (s : State) (m : Nat) : Bool := (s.linkFor m).isSome

/-- The module of an address can be reached (R405). -/
def State.reachable (s : State) (pa : Nat) : Bool := paModule pa == s.moduleNumber.toNat || s.linkUp (paModule pa)

/-- The home slice of a line (R23), as a number 0 to 95. -/
def homeSlice (pa : Nat) : Nat :=
  let x := paLocal pa / 64
  let h := (x % 2 ^ 16) ^^^ (x / 2 ^ 16 % 2 ^ 16) ^^^ (x / 2 ^ 32 % 2 ^ 8)
  h * 96 / 65536

/-- The line of a physical address. -/
def lineOf (pa : Nat) : Nat := pa / 64

/-- The pieces of an access within 32-byte sectors: addresses and lengths, ascending (R311). -/
def splitSectors : Nat → Nat → Nat → List (Nat × Nat)
  | 0, _, _ => []
  | fuel + 1, a, n =>
    if n = 0 then []
    else
      let k := min n (32 - a % 32)
      (a, k) :: splitSectors fuel (a + k) (n - k)

/-- The sector pieces of an access of n bytes. -/
def sectors (a n : Nat) : List (Nat × Nat) := splitSectors (n + 1) a n

/-! ## Translation (R292 to R295) -/

/-- What an access does with the page (R294): win says that PCI Express can perform the atomic (R290). -/
inductive Acc where
  | read
  | write
  | atomic (win : Bool)
  | exec
  deriving DecidableEq, Repr

/-- The answer of a translation: a physical address and the leaf's NC bit, or a fault. -/
inductive Xlat where
  | ok (pa : Nat) (nc : Bool)
  | fault (f : LaneFault)
  deriving DecidableEq, Repr

/-- What a walk finds: a leaf's page base, size, physical base and low bits, or where it stopped. -/
inductive WalkRes where
  | leaf (e : TlbEntry)
  | stopped (cause : Nat)
  deriving DecidableEq, Repr

/-- Bytes of a page of a SIZE code (R292). -/
def pageBytes (size : Nat) : Nat :=
  match size with
  | 0 => 2 ^ 12 | 1 => 2 ^ 16 | 2 => 2 ^ 21 | 3 => 2 ^ 25 | _ => 2 ^ 31

/-- The span of an entry of a level (R293). -/
def levelSpan (lv : Nat) : Nat := 2 ^ (12 + 9 * lv)

/-- Entries in a leaf's group (R293); 0 where no such leaf exists at the level. -/
def groupCount (lv size : Nat) : Nat :=
  match lv, size with
  | 0, 0 => 1 | 0, 1 => 16 | 1, 2 => 1 | 1, 3 => 16 | 2, 4 => 2 | _, _ => 0

/-- The reserved bits of an entry are zero (R292). -/
def pteReserved (e : Nat) : Bool := decide (e < 2 ^ 52) && bits e 11 9 == 0

/-- The ADDR field, as an address. -/
def pteAddr (e : Nat) : Nat := e / 2 ^ 12 % 2 ^ 40 * 2 ^ 12

/-- A valid entry is well formed (R292, R293). Log entry 19. -/
def pteOk (s : State) (table lv idx e : Nat) : Bool :=
  pteReserved e &&
  (if bit e 1 then
    let n := groupCount lv (bits e 7 5)
    let first := idx - idx % n
    let e0 := s.physDword (table + 8 * first)
    decide (n ≠ 0) && decide (pteAddr e0 % (n * levelSpan lv) = 0) &&
      ((List.range n).all fun j => s.physDword (table + 8 * (first + j)) == e0 + j * levelSpan lv)
   else bits e 7 5 == 0)

/-- A page table lies in the module's own HBM4 outside the reserved ranges (R292). -/
def State.tableOk (s : State) (a : Nat) : Bool := paModule a == s.moduleNumber.toNat && localHbm (paLocal a)

/-- The walk from a table of a level downward (R292 to R294). -/
def walkFrom (s : State) (ctx va : Nat) : List (Nat × Nat) → Nat → WalkRes
  | [], _ => .stopped 5
  | (lv, sh) :: rest, table =>
    if s.tableOk table then
      let idx := va / 2 ^ sh % (if lv = 4 then 256 else 512)
      let e := s.physDword (table + 8 * idx)
      if !bit e 0 then .stopped 1
      else if !pteOk s table lv idx e then .stopped 5
      else if bit e 1 then
        let n := groupCount lv (bits e 7 5)
        let size := n * levelSpan lv
        let base := pteAddr e - idx % n * levelSpan lv
        .leaf { ctx, va := va / size * size, size, pa := base, flags := BitVec.ofNat 9 e }
      else walkFrom s ctx va rest (pteAddr e)
    else .stopped 6

/-- The five levels and their index positions (R292). -/
def walkLevels : List (Nat × Nat) := [(4, 48), (3, 39), (2, 30), (1, 21), (0, 12)]

/-- The walk of a virtual address in a context (R292). -/
def walk (s : State) (ctx va : Nat) : WalkRes :=
  match s.ctx? ctx with
  | none => .stopped 1
  | some c => if va < 2 ^ 56 then walkFrom s ctx va walkLevels c.root else .stopped 1

/-- Where in a core an access translates: CORE and PART of a team's handle, so 8 × core + partition (R21, R31). -/
def portOf (h : Handle) : Nat := h.toNat / 2 ^ 21

/-- Where a core's agents translate that act for no team: past the partitions, with no first-level cache. -/
def corePort (core : Nat) : Nat := 8 * core + 7

/-- Where an engine's command translates: in its team's partition. Log entry 73. -/
def Origin.port (o : Origin) : Nat := 8 * o.core + partOf o.tid

/-- A leaf translation for an address in a translation cache (R295): an entry covers a whole page or group. -/
def tlbFind (es : List TlbEntry) (ctx va : Nat) : Option TlbEntry :=
  es.find? fun e => e.ctx == ctx && decide (e.va ≤ va) && decide (va < e.va + e.size)

/-- The first-level translation cache at a port (R21); empty where no partition stands. -/
def State.firstTlb (s : State) (port : Nat) : List TlbEntry := spRead [] (s.core (port / 8)).first (port % 8)

/-- A leaf translation held for an address, if any: by the partition, or else by its core (R295). -/
def State.tlbHit (s : State) (port ctx va : Nat) : Option TlbEntry :=
  match tlbFind (s.firstTlb port) ctx va with
  | some e => some e
  | none => tlbFind (s.core (port / 8)).tlb ctx va

/-- The leaf that an access uses: the cached translation, or else the walk (R295, R296). -/
def State.leafOf (s : State) (port ctx va : Nat) : WalkRes :=
  match s.tlbHit port ctx va with
  | some e => .leaf e
  | none => walk s ctx va

/-- The checks at a leaf, in the order of R294, and that the module can be reached (R405). -/
def leafCheck (s : State) (e : TlbEntry) (va : Nat) (a : Acc) : Xlat :=
  let pa := e.pa + (va - e.va)
  let bad := fun c => Xlat.fault { cause := c, page := e.va, pageSize := e.size }
  let rd := e.flags.getLsbD 2
  let wr := e.flags.getLsbD 3
  let ex := e.flags.getLsbD 4
  let perm : Option Nat := match a with
    | .read => if rd then none else some 2
    | .write => if wr then none else some 3
    | .atomic _ => if !rd then some 2 else if !wr then some 3 else none
    | .exec => if ex then none else some 4
  match perm with
  | some c => bad c
  | none =>
    if !(s.inDomain (paModule pa) && (localHbm (paLocal pa) || localHost (paLocal pa))) then bad 6
    else if localHost (paLocal pa) &&
        (match a with | .atomic win => !(win && s.feature 10 && Config.hostAtomicOps) | _ => false) then bad 7
    else if !s.reachable pa then bad 9
    else .ok pa (e.flags.getLsbD 8)

/-- Translate a virtual address for an access at a port (R292 to R296). -/
def State.translate (s : State) (port ctx va : Nat) (a : Acc) : Xlat :=
  match s.leafOf port ctx va with
  | .leaf e => leafCheck s e va a
  | .stopped c => .fault { cause := c, page := va / 4096 * 4096, pageSize := 4096 }

/-- Entries of a partition's translation cache, and of a core's (R277, R295). -/
def tlbSizes : Nat × Nat := (256, 2048)

/-- A number below a bound that nothing fixes, and the state with it drawn. Log entry 5. -/
def State.drawBelow (s : State) (n : Nat) : Nat × State := let d := s.drawFree; (d.1.toNat % n, d.2)

/-- A list of at most size elements with one more: a full one loses an element, and which one is open. -/
def State.keepIn {α : Type} (s : State) (size : Nat) (es : List α) (e : α) : List α × State :=
  if es.length < size then (e :: es, s)
  else let d := s.drawBelow size; (e :: (eraseAt es d.1).take (size - 1), d.2)

/-- Keep a leaf in a partition's translation cache (R295). -/
def State.keepFirst (s : State) (port : Nat) (e : TlbEntry) : State :=
  if Config.partitions ≤ port % 8 then s
  else
    let r := s.keepIn tlbSizes.1 (s.firstTlb port) e
    r.2.modCore (port / 8) fun c => { c with first := spWrite [] c.first (port % 8) r.1 }

/-- Keep a leaf in a core's second-level translation cache (R295). -/
def State.keepSecond (s : State) (core : Nat) (e : TlbEntry) : State :=
  let r := s.keepIn tlbSizes.2 (s.core core).tlb e
  r.2.modCore core fun c => { c with tlb := r.1 }

/-- What an access's translation leaves in the caches (R295): the partition's, then the core's, then a walk, which is
counted whatever it finds (R376); a fault is never cached. Log entry 73. -/
def State.fillTlb (s : State) (port ctx va : Nat) : State :=
  if decide (Config.cores ≤ port / 8) || (tlbFind (s.firstTlb port) ctx va).isSome then s
  else
    match tlbFind (s.core (port / 8)).tlb ctx va with
    | some e => s.keepFirst port e
    | none =>
      let s1 := (s.countPerf (port / 8) ctx 7 1).countPerf (port / 8) ctx 8 1
      match walk s ctx va with
      | .leaf e => (s1.keepSecond (port / 8) e).keepFirst port e
      | .stopped _ => s1

/-! ## Home slices -/

/-- The sector of an address holds poison (R291). -/
def State.poisoned (s : State) (pa : Nat) : Bool := s.poison.contains (pa / 32)

/-- Bytes of a unit that a run of bytes covers, the unit's first byte at bit 0. -/
def coverBytes (at_ size pa n : Nat) : BitVec 32 :=
  BitVec.ofNat 32 (((List.range size).filter fun i => decide (pa ≤ at_ + i) && decide (at_ + i < pa + n)).foldl
    (fun m i => m + 2 ^ i) 0)

/-- A run of n bytes from pa, written by one instruction or engine command (0: by none that writes in parts), and the
poisoned units of a size: a unit that the writer has now covered whole is healed (R291, R394). The answer is the units
that stay, and what has been covered of them. -/
def heal (size writer pa n : Nat) : List Nat → List Cover → List Nat × List Cover
  | [], cov => ([], cov)
  | u :: us, cov =>
    let new := coverBytes u size pa n
    let mine := fun (c : Cover) => c.writer == writer && c.at_ == u
    let old := match cov.find? mine with | some c => c.bytes | none => 0
    if new = 0 then let r := heal size writer pa n us cov; (u :: r.1, r.2)
    else if new ||| old = BitVec.ofNat 32 (2 ^ size - 1) then heal size writer pa n us (cov.filter fun c => c.at_ != u)
    else
      let kept := if writer = 0 then cov else { writer, at_ := u, bytes := new ||| old } :: cov.filter fun c => !mine c
      let r := heal size writer pa n us kept
      (u :: r.1, r.2)

/-- The poisoned sectors after a write (R291, R394). -/
def State.healSectors (s : State) (writer pa n : Nat) : State :=
  let r := heal 32 writer pa n (s.poison.map fun k => 32 * k) s.covered
  { s with poison := r.1.map fun a => a / 32, covered := r.2 }

/-- An event ends an arm: the team's monitor records it, and a parked MWAIT gets its wake notice (R208). -/
def Team.endArm (t : Team) (status : Nat) : Team :=
  match t.monitor with
  | .armed _ =>
    { t with
      monitor := .ended status
      run := match t.run with
        | .parked (.monitor d b) none => .parked (.monitor d b) (some (.status status))
        | r => r }
  | _ => t

/-- End every arm on a line with a status (R207, R208). -/
def State.fireLine (s : State) (line status : Nat) : State :=
  let hit := s.arms.filter (fun a => a.line == line)
  let s' := { s with arms := s.arms.filter (fun a => !(a.line == line)) }
  hit.foldl (fun st a => st.modTeam a.tid (fun t => t.endArm status)) s'

/-- A team in the midst of its instruction, with what the instruction's own writes have done to its monitor (R208). -/
def State.catchUp (s : State) (t : Team) : Team :=
  match s.team? t.tid with
  | some u => { t with monitor := u.monitor }
  | none => t

/-- The lines that a run of bytes touches. -/
def linesOf (pa n : Nat) : List Nat :=
  if n = 0 then [] else (List.range ((pa + n - 1) / 64 - pa / 64 + 1)).map (fun i => pa / 64 + i)

/-- A device-cache line with the sector of an address filled, dirty after a write (R285). -/
def touchSector (l : SliceLine) (pa : Nat) (write : Bool) : SliceLine :=
  if pa / 32 % 2 = 0 then { l with valid0 := true, dirty0 := l.dirty0 || write }
  else { l with valid1 := true, dirty1 := l.dirty1 || write }

/-- The set of a line, with its home slice: slice × 2,048 + (x[10:0] xor x[26:16]), x the local line number (R284). -/
def sliceSet (line : Nat) : Nat :=
  let x := line % 2 ^ 40
  homeSlice (64 * line) * 2048 + ((x % 2 ^ 11) ^^^ (x / 2 ^ 16 % 2 ^ 11))

/-- Ways of a set (R284). -/
def sliceWays : Nat := 16

/-- Pseudo-LRU by a tree of fifteen bits, node i above nodes 2i + 1 and 2i + 2: an access to a way turns the nodes over it
away from it. Log entry 77. -/
def plruUse (b : BitVec 15) (way : Nat) : BitVec 15 :=
  (List.range 4).foldl (fun b k =>
    let node := 2 ^ k - 1 + way / 2 ^ (4 - k)
    let m : BitVec 15 := 1 <<< node
    if way.testBit (3 - k) then b &&& ~~~m else b ||| m) b

/-- The way that pseudo-LRU gives up: down the tree as its nodes point. -/
def plruVictim (b : BitVec 15) : Nat :=
  (List.range 4).foldl (fun w k => 2 * w + (if b.getLsbD (2 ^ k - 1 + w) then 1 else 0)) 0

/-- The way that a new line takes: the lowest that is free, or what pseudo-LRU gives up (R284). -/
def State.wayFor (s : State) (set : Nat) : Nat :=
  let held := (s.dcache.filter fun l => sliceSet l.line == set).map SliceLine.way
  ((List.range sliceWays).find? fun w => !held.contains w).getD (plruVictim (spRead 0 s.plru set))

/-- An access to a sector of this module's own HBM4 finds or fills it in its home slice (R284, R285). -/
def State.touchAt (s : State) (pa : Nat) (write : Bool) : State :=
  if paModule pa == s.moduleNumber.toNat && localHbm (paLocal pa) then
    let set := sliceSet (lineOf pa)
    let used := fun (way : Nat) => spWrite 0 s.plru set (plruUse (spRead 0 s.plru set) way)
    match s.dcache.find? fun l => l.line == lineOf pa with
    | some l =>
      { s with
        dcache := updFirst (fun l => l.line == lineOf pa) (fun l => touchSector l pa write) s.dcache, plru := used l.way }
    | none =>
      let way := s.wayFor set
      { s with
        dcache := touchSector { line := lineOf pa, way } pa write ::
          s.dcache.filter fun l => !(sliceSet l.line == set && l.way == way)
        plru := used way }
  else s

/-- An access of n bytes in the device cache: every sector that it touches (R285). -/
def State.touchSlice (s : State) (pa n : Nat) (write : Bool) : State :=
  (sectors pa n).foldl (fun s p => s.touchAt p.1 write) s

/-- A write of bytes performed at its home slice: memory, poison, the device cache unless the page bypasses it, and
monitors (R208, R291, R292). writer is the operation or engine command that it is a part of, 0 for a write that is
whole. -/
def State.homeWriteBy (s : State) (writer : Nat) (nc : Bool) (pa : Nat) (bs : List Byte) : State :=
  let s := { s with mem := memWrite s.mem pa bs }.healSectors writer pa bs.length
  let s := if nc then s else s.touchSlice pa bs.length true
  (linesOf pa bs.length).foldl (fun st l => st.fireLine l 0) s

/-- A whole write at its home slice. -/
def State.homeWrite (s : State) (pa : Nat) (bs : List Byte) : State := s.homeWriteBy 0 false pa bs

/-- A line of a core's load cache. -/
def State.cached (s : State) (core line : Nat) : Option CacheLine :=
  (s.core core).cache.find? (fun l => l.line == line)

/-- Replace bytes of a list from a position. -/
def patch (bs : List Byte) (off : Nat) (new : List Byte) : List Byte :=
  bs.take off ++ new ++ bs.drop (off + new.length)

/-- Write-through into a resident line of the issuing core's load cache (R283); the bytes lie in one line. -/
def State.writeThrough (s : State) (core pa : Nat) (bs : List Byte) : State :=
  let put := fun (l : CacheLine) => { l with bytes := patch l.bytes (pa % 64) bs }
  s.modCore core fun c => { c with cache := updFirst (fun l => l.line == lineOf pa) put c.cache }

/-- Drop a line of a core's load cache (R283). -/
def State.dropLine (s : State) (core line : Nat) : State :=
  s.modCore core fun c => { c with cache := c.cache.filter (fun l => !(l.line == line)) }

/-- Drop every line of a core's load cache (R283). -/
def State.dropCache (s : State) (core : Nat) : State := s.modCore core fun c => { c with cache := [] }

/-! ## Accesses of the hardware to a context's virtual memory -/

/-- The first fault among the sector pieces of an access, if any. -/
def State.firstFault (s : State) (port ctx va n : Nat) (a : Acc) : Option LaneFault :=
  (sectors va n).findSome? fun p => match s.translate port ctx p.1 a with | .fault f => some f | .ok _ _ => none

/-- What a read at its home leaves in the caches of translations and in the device cache (R285, R295). -/
def State.seen (s : State) (port ctx va n : Nat) : State :=
  (sectors va n).foldl (fun s p =>
    let s1 := s.fillTlb port ctx p.1
    match s.translate port ctx p.1 .read with
    | .ok pa nc => if nc then s1 else s1.touchSlice pa p.2 false
    | .fault _ => s1) s

/-- Read bytes at a virtual address at their homes: they, or the first fault; poison is cause 8 (R291, R391). -/
def State.vRead (s : State) (port ctx va n : Nat) : List Byte ⊕ LaneFault :=
  (sectors va n).foldr (fun p acc =>
    match s.translate port ctx p.1 .read with
    | .fault f => .inr f
    | .ok pa _ =>
      if s.poisoned pa then .inr { cause := 8, page := va / 4096 * 4096, pageSize := 4096 }
      else match acc with
        | .inl bs => .inl (memRead s.mem pa p.2 ++ bs)
        | .inr f => .inr f) (.inl [])

/-- Write bytes at a virtual address at their homes: all of them, or none and the first fault. -/
def State.vWrite (s : State) (port ctx va : Nat) (bs : List Byte) : State ⊕ LaneFault :=
  match s.firstFault port ctx va bs.length .write with
  | some f => .inr f
  | none =>
    .inl ((sectors va bs.length).foldl (fun st p =>
      match s.translate port ctx p.1 .write with
      | .ok pa nc => (st.fillTlb port ctx p.1).homeWriteBy 0 nc pa ((bs.drop (p.1 - va)).take p.2)
      | .fault _ => st) s)

/-- Bytes of dwords, in order. -/
def dwordBytes (ds : List Nat) : List Byte := ds.flatMap (toBytes 8)

end Sys2Proof.Machine
end

