-- ==== Sys2Proof/Machine/Ops.lean ====
section
/-! DEFINITION. The shared operations: advancing past an instruction, taking a trap and returning from a delivery (R379 to R383, R273), reports (R402), flag attribution (R392), deaths and containment (R393). -/

namespace Sys2Proof.Machine

/-! ## Where a team stands -/

/-- Address of the next instruction's first parcel (R87); the header's own address when no clause is in progress. -/
def Team.insnPc (t : Team) : Dword :=
  match t.clause with
  | none => t.pc
  | some c => c.addr + 8 + dw (4 * c.pos)

/-- The REP issue number, 0 without REP (R102). -/
def Team.issueNo (t : Team) : Nat :=
  match t.clause with
  | some c => (match c.rep with | some r => r.m | none => 0)
  | none => 0

/-- Index of the next instruction in its clause, 0 at a header. -/
def Team.idxNo (t : Team) : Nat :=
  match t.clause with
  | some c => c.idx
  | none => 0

/-- COUNT + 1 of a clause header (R88). -/
def hdrCount (h : Dword) : Nat := dbits h 57 54 + 1
/-- LEN of a clause header in parcels (R88). -/
def hdrLen (h : Dword) : Nat := if dbits h 53 49 = 0 then 32 else dbits h 53 49
/-- WAIT (R88). -/
def hdrWait (h : Dword) : Nat := dbits h 48 37
/-- The flag a field of 0 to 11 names; 15 names none (R88). -/
def flagName (n : Nat) : Option Nat := if n ≤ 11 then some n else none
/-- FLAGA (R83, R88). -/
def hdrFlagA (h : Dword) : Option Nat := flagName (dbits h 36 33)
/-- FLAGB (R83, R88). -/
def hdrFlagB (h : Dword) : Option Nat := flagName (dbits h 32 29)

/-- FLAGA of the clause a team runs. -/
def Team.flagA (t : Team) : Option Nat := match t.clause with | some c => hdrFlagA c.hdr | none => none
/-- FLAGB of the clause a team runs. -/
def Team.flagB (t : Team) : Option Nat := match t.clause with | some c => hdrFlagB c.hdr | none => none

/-- Address of the header after a clause (R87). -/
def Clause.next (c : Clause) : Dword := c.addr + 8 + dw (4 * hdrLen c.hdr)

/-- The kind of the parcel at the team's position, as parcels of the instruction there (R87). -/
def Clause.insnParcels (c : Clause) : Nat := kindParcelsAt c.body c.pos
where
  /-- Parcels of the word whose first parcel stands at a place of the body. -/
  kindParcelsAt (body : List Word) (pos : Nat) : Nat :=
    match (body.getD pos 0).toNat / 2 ^ 30 with | 0 => 1 | 2 => 3 | _ => 2

/-- Past the instruction at the position: the next issue of a REP, or the next instruction, or none at the
clause's end (R102, R152). -/
def Clause.advance (c : Clause) : Option Clause :=
  match c.rep with
  | some r =>
    if r.m < r.n then some { c with rep := some { r with m := r.m + 1 } }
    else if c.idx + 1 < hdrCount c.hdr then
      some { c with rep := none, idx := c.idx + 1, pos := c.pos + c.insnParcels }
    else none
  | none =>
    if c.idx + 1 < hdrCount c.hdr then some { c with idx := c.idx + 1, pos := c.pos + c.insnParcels } else none

/-- The bookkeeping of an instruction that has retired. -/
def Team.retired1 (t : Team) : Team :=
  { t with
    retired := true, exempt := false, held := none, late := none, pcSeen := false, arrived := none
    stop := match t.stop with | some (.stopping r n e) => some (.stopping r (n - 1) e) | x => x }

/-- The team past its instruction: at the next one, or at the next header (R87). -/
def Team.advance (t : Team) : Team :=
  match t.clause with
  | none => t
  | some c =>
    match c.advance with
    | some c' => { t with clause := some c' }
    | none => { t with clause := none, pc := c.next }

/-- The team at a jump's target (R146). -/
def Team.jumpTo (t : Team) (a : Dword) : Team := { t with clause := none, pc := a }

/-! ## Reports (R402) -/

/-- Write a report record of a context: into the ring at the head of the save area; when the ring is full the
newest record becomes one of kind 6. -/
def State.report (s : State) (ctx kind cause : Nat) (team : Handle) (addr data : Nat) : State :=
  match s.ctx? ctx with
  | none => s
  | some c =>
    let full := decide (1024 ≤ c.repWritten - c.repFreed)
    let k := if full then c.repWritten - 1 else c.repWritten
    let rec_ := if full then dwordBytes [6 * 2 ^ 56, 0, 0, 0]
      else dwordBytes [kind * 2 ^ 56 + cause * 2 ^ 48 + team.toNat, addr, data, 0]
    let s := s.homeWrite (c.saveAddr + 32 * (k % 1024)) rec_
    s.modCtx ctx fun c => if full then c else { c with repWritten := c.repWritten + 1 }

/-- LID.LAUNCH as report data. -/
def Team.lidData (t : Team) : Nat := t.lid

/-! ## Writes of the hardware into segment Q (R384) -/

/-- Write bytes at a Q offset of a context: dropped, with a report record of kind 9, where a translation or
permission fails. -/
def State.qWrite (s : State) (ctx off : Nat) (bs : List Byte) : State :=
  match s.ctx? ctx with
  | none => s
  | some c =>
    match s.vWrite (portOf c.supervisor) ctx (c.qBase.toNat + off) bs with
    | .inl s' => s'
    | .inr f => s.report ctx 9 f.cause 0 off 0

/-- The fault that keeps a run of bytes at a Q offset from being written, if any. -/
def State.qFault (s : State) (ctx off n : Nat) : Option LaneFault :=
  match s.ctx? ctx with
  | none => none
  | some c => s.firstFault (portOf c.supervisor) ctx (c.qBase.toNat + off) n .write

/-- A dword at a Q offset, 0 where it cannot be read. -/
def State.qDword (s : State) (ctx off : Nat) : Nat :=
  match s.ctx? ctx with
  | none => 0
  | some c =>
    match s.vRead (portOf c.supervisor) ctx (c.qBase.toNat + off) 8 with
    | .inl bs => ofBytes bs
    | .inr _ => 0

/-- The delivery block's Q offset (R381, R384). -/
def deliveryBlock : Nat := 0x1840080

/-! ## Traps (R378 to R383) -/

/-- A step by HSTEP ends with an outcome, if one is in progress (R270). -/
def Team.endStep (t : Team) (outcome : Nat) : Team :=
  match t.stepping with
  | some st => { t with stepping := some { st with outcome := some (st.outcome.getD outcome) } }
  | none => t

/-- The team HALTED: it leaves the active set, its park reason is kept (R36). -/
def Team.haltedNow (t : Team) : Team :=
  { t with
    stop := some .halted, run := (match t.run with | .active => .pending | r => r), held := none
    late := none, pcSeen := false, arrived := none, stepHalt := false, leaveAtEnd := false }

/-- Make a delivery or notice pending for a context's supervisor (R380). -/
def State.post (s : State) (ctx : Nat) (d : Delivery) : State :=
  s.modCtx ctx fun c => { c with pending := c.pending ++ [d] }

/-- TAKING A TRAP (R379, R380, R383): the team becomes HALTED at its present position and one delivery is made
pending for its context's supervisor; a trap of the supervisor itself goes into the driver's report instead. Log entry 30. -/
def State.trap (s : State) (t : Team) (cause detail : Nat) (info : Dword) (mask : LaneMask) : State :=
  let s' := s.setTeam ((t.haltedNow).endStep 3)
  if s.isSup t then s'.report t.ctx 1 cause t.tid info.toNat t.lidData
  else
    s'.post t.ctx
      { cause, detail, tid := t.tid, lid := t.lid, pc := t.insnPc, issue := t.issueNo, info, mask }

/-- A load or atomic fault of the supervisor, or poison it consumed: no entry, it halts, and a report record of
kind 7 is written (R383). -/
def State.supFault (s : State) (t : Team) (cause addr : Nat) : State :=
  (s.setTeam ((t.haltedNow).endStep 3)).report t.ctx 7 cause t.tid addr t.lidData

/-- ILLEGAL_OPCODE. -/
def cOpcode : Nat := 0x02
/-- ILLEGAL_OPERAND. -/
def cOperand : Nat := 0x03
/-- UNIMPL_COMBO. -/
def cCombo : Nat := 0x04
/-- REGBOUND. -/
def cRegbound : Nat := 0x05
/-- PRIVILEGE. -/
def cPrivilege : Nat := 0x06
/-- ILLEGAL_REPEAT. -/
def cRepeat : Nat := 0x07
/-- MATRIX_ABSENT. -/
def cMatrixAbsent : Nat := 0x08
/-- MISALIGNED. -/
def cMisaligned : Nat := 0x12

/-- The trap ILLEGAL_OPERAND of an instruction's own rules. -/
def State.illegal (s : State) (t : Team) : State := s.trap t cOperand 0 0 0

/-- A mask's sixteen dwords (R381). -/
def maskDwords (m : LaneMask) : List Nat := (List.range 16).map fun i => m.toNat / 2 ^ (64 * i) % 2 ^ 64

/-- The delivery block's dwords 1 to 31 for a delivery (R381): where the supervisor stood, and what happened. -/
def deliveryDwords (retpc retidx retissue : Nat) (susp : Bool) (left : Nat) (d : Delivery) (exited : Bool) :
    List Nat :=
  [retpc, (if susp then 2 ^ 16 else 0) + retissue * 2 ^ 8 + retidx, left,
   d.cause * 2 ^ 56 + d.detail * 2 ^ 48 + (if exited then 2 ^ 33 else 0) + d.tid.toNat,
   d.pc.toNat, d.info.toNat, d.lid * 2 ^ 32 + (if d.pc = 0 then 0 else d.issue)]
  ++ maskDwords d.mask ++ (d.extra.toNat :: List.replicate 7 0)

/-- The instruction a team is held at has begun to act elsewhere: the team does not stand between two
instructions. -/
def Hold.begun : Hold → Bool
  | .request _ | .collective | .divider | .debug => true
  | _ => false

/-- TAKING A DELIVERY (R382): with VECTOR nonzero, no delivery in progress and the supervisor between two
instructions or PARKED, the oldest pending delivery is written to the block, the supervisor's position is saved
and it continues at VECTOR. A delivery whose block cannot be written is lost (R384). -/
def State.takeDelivery (s : State) (ctx : Nat) : State :=
  match s.ctx? ctx with
  | none => s
  | some c =>
    match c.pending, s.team? c.supervisor with
    | d :: rest, some t =>
      let vector := s.qDword ctx deliveryBlock
      let parked := match t.run with | .parked _ _ => true | _ => false
      let begun := match t.held with | some (h, _) => h.begun | none => false
      if vector = 0 || c.inDelivery || t.stop.isSome || begun then s
      else match s.qFault ctx (deliveryBlock + 8) 248 with
      | some f =>
        (s.modCtx ctx fun c => { c with pending := rest }).report ctx 9 f.cause 0 (deliveryBlock + 8) 0
      | none =>
        let exited := d.exited || (s.team? d.tid).isNone
        let retpc := match t.clause with | some cl => cl.addr | none => t.pc
        let s1 := s.qWrite ctx (deliveryBlock + 8)
          (dwordBytes (deliveryDwords retpc.toNat t.idxNo t.issueNo parked rest.length d exited))
        let s2 := s1.modCtx ctx fun c =>
          { c with
            pending := rest, inDelivery := true, saved := some { pc := t.pc, clause := t.clause }
            suspended := match t.run with | .parked p w => some (p, w) | _ => none }
        let s3 := s2.modTeam t.tid fun u =>
          { u with clause := none, pc := dw vector, held := none, late := none, pcSeen := false
                   run := match u.run with | .parked _ _ => .pending | r => r }
        s3.dropCache (coreOf t.tid)
    | _, _ => s

/-- THE RETURN FROM A DELIVERY (R273, R382): the position saved when the delivery began, deliveries enabled
again, and a suspended park resumed; a wake that came meanwhile stands in it and acts at once. -/
def State.returnFromDelivery (s : State) (t : Team) (c : Context) : State :=
  let pos := c.saved.getD { pc := t.pc, clause := t.clause }
  let s1 := s.modCtx c.id fun c => { c with inDelivery := false, saved := none, suspended := none }
  s1.modTeam t.tid fun u =>
    { u.retired1 with
      pc := pos.pc, clause := pos.clause
      run := match c.suspended with | some (p, w) => .parked p w | none => u.run }

/-! ## Numeric flags (R126, R392) -/

/-- OR flags into the launch's flag summary word, as an atomic or; a failed update is dropped and reported
(kind 8). -/
def State.orFlagsum (s : State) (port ctx lid : Nat) (tid : Handle) (fl : BitVec 8) : State :=
  match s.launch? ctx lid with
  | none => s
  | some l =>
    let a := hdrD l.header 13
    if a = 0 then s
    else
      match s.translate port ctx a (.atomic false) with
      | .ok pa _ => (s.fillTlb port ctx a).homeWrite pa (toBytes 8 (s.physDword pa ||| fl.toNat))
      | .fault f => s.report ctx 8 f.cause tid a lid

/-- Attribute a flag raised by an operation: to the team wherever it stands, or to the launch's flag summary word
when it is dying or gone (R392). -/
def State.attribute (s : State) (tid : Handle) (ctx lid : Nat) (fl : BitVec 8) : State :=
  if fl = 0 then s
  else
    match s.team? tid with
    | some t =>
      if t.dying.isSome then s.orFlagsum (portOf tid) ctx lid tid fl
      else s.modTeam tid fun u => { u with fsr := u.fsr ||| fl }
    | none => s.orFlagsum (portOf tid) ctx lid tid fl

/-! ## Deaths (R274, R347, R393) -/

/-- A team is killed or contained, or exits: its death is accepted, in a group of deaths that one event causes
(R347, R352). A death accepted once stands. The team leaves every waiter queue, and an entry reserved for a wait is
released (R353); a pool's queue sees it leave when it stops (R315). An arrival at a collective instruction is void. -/
def State.acceptDeath (s : State) (h : Handle) (killed : Bool) (group : Nat) : State :=
  let s := { s with
    lockQ := s.lockQ.filter fun w => !(w.tid == h)
    promiseQ := s.promiseQ.filter fun w => !(w.tid == h)
    arms := s.arms.filter fun a => !(a.tid == h) }
  s.modTeam h fun t =>
    match t.dying with
    | some _ => t
    | none =>
      let inSave := match s.launch? t.ctx t.lid with
        | some l => (match l.phase with | .saving => !t.preempted | _ => false)
        | none => false
      { t with dying := some { killed, group, inSave }, held := none, reservedEntries := 0, arrived := none }

/-- The parties of a plot, and of a gang, become abandoned when a team of it is killed (R211): every parked
barrier wait ends with status 1. -/
def State.abandon (s : State) (t : Team) : State :=
  let gang := hGang (s.header t)
  let hit := fun (u : Team) => u.plot == t.plot || (gang && u.ctx == t.ctx && u.lid == t.lid)
  let s := s.modPlot t.plot fun p => { p with abandoned := true }
  let s := if gang then s.modLaunch t.ctx t.lid fun l => { l with abandoned := true } else s
  let wakeUp := fun (u : Team) =>
    match u.run with
    | .parked (.barrier w va sd sc) none =>
      let mine := match w with | .scratch p _ => p == t.plot | .grid _ => gang && hit u
      if mine then { u with run := .parked (.barrier w va sd sc) (some (.barrier true)) } else u
    | _ => u
  { s with teams := s.teams.map wakeUp }

/-- Kill a team (R274): its death is accepted and the parties of its plot and gang are abandoned (R211). -/
def State.kill (s : State) (h : Handle) (group : Nat) : State :=
  match s.team? h with
  | none => s
  | some t => if t.dying.isSome then s else (s.acceptDeath h true group).abandon t

/-- Containment (R393): the consuming team is killed and the supervisor gets a CONTAINED notice; a supervisor that
consumes poison is halted and reported instead (R383). The crew is broken when the team exits (R227). Log entry 26. -/
def State.contain (s : State) (t : Team) (cause pa : Nat) (pc : Dword) (issue : Nat) : State :=
  if s.isSup t then s.supFault t cause pa
  else
    let (g, s) := s.takeId
    (s.kill t.tid g).post t.ctx
      { cause := 0x41, detail := cause, tid := t.tid, lid := t.lid, pc, issue, info := dw pa, mask := 0 }

/-- The notice that ends a park (R39): it is recorded in the park of the team, or in the park that a delivery has
suspended (R382), if that park is one the notice is for and none came before. -/
def State.notify (s : State) (h : Handle) (for_ : Park → Bool) (w : Wake) : State :=
  let put := fun (p : Park) (v : Option Wake) => if for_ p && v.isNone then some w else v
  let s := s.modTeam h fun t => match t.run with | .parked p v => { t with run := .parked p (put p v) } | _ => t
  { s with ctxs := s.ctxs.map fun c =>
      if c.supervisor == h then { c with suspended := c.suspended.map fun x => (x.1, put x.1 x.2) } else c }

end Sys2Proof.Machine
end

