-- ==== Sys2Proof/Machine/Weirs.lean ====
section
/-! DEFINITION. Weirs: what they match (R358 to R360), what a match does (R356, R361 to R364), capture and halt records (R365, R366), and the stops they cause. -/

namespace Sys2Proof.Machine

/-! ## The fields of WCTL (R355) -/

/-- EN. -/
def Weir.en (w : Weir) : Bool := bit w.ctl.toNat 63
/-- ACTION. -/
def Weir.action (w : Weir) : Nat := dbits w.ctl 62 60
/-- KIND. -/
def Weir.kind (w : Weir) : Nat := dbits w.ctl 59 57
/-- TIMING. -/
def Weir.timing (w : Weir) : Nat := dbits w.ctl 56 56
/-- CMP. -/
def Weir.cmp (w : Weir) : Nat := dbits w.ctl 55 52
/-- FMT. -/
def Weir.fmt (w : Weir) : Nat := dbits w.ctl 51 48
/-- XMASK. -/
def Weir.xmask (w : Weir) : Nat := dbits w.ctl 47 40
/-- W64. -/
def Weir.w64 (w : Weir) : Nat := dbits w.ctl 39 38
/-- PCW. -/
def Weir.pcw (w : Weir) : Nat := dbits w.ctl 37 34
/-- MODE. -/
def Weir.mode (w : Weir) : Nat := dbits w.ctl 33 32
/-- ID. -/
def Weir.ident (w : Weir) : Nat := dbits w.ctl 31 0

/-- The values that WSET accepts for WCTL (R355, R360). -/
def wctlOk (v : Dword) : Bool :=
  let w : Weir := { ctl := v }
  let k := w.kind
  decide (w.action ≤ 6) && decide (k ≤ 5) && (k != 2 || w.timing == 1)
    && (decide (w.cmp ≤ 7) || w.cmp == 15) && (k != 4 || w.cmp == 0)
    && ((k != 0 && k != 4 && k != 5) || w.fmt == 0) && (k == 4 || w.xmask == 0)
    && (w.fmt == 15 || w.w64 == 0) && decide (w.mode ≤ 2) && (w.mode != 0 || w.ident == 0)
    && !(w.cmp == 7 && w.fmt == 0)

/-! ## Events and comparators (R358 to R360) -/

/-- One lane's event: its data as a number of so many bits, its address, and the flags its elements raise. -/
structure LaneEvent where
  lane : Nat
  value : Nat := 0
  bits : Nat := 64
  addr : Nat := 0
  flags : List (BitVec 8) := []
  deriving DecidableEq, Repr

/-- The events of one instruction: by KIND, and whether it is a scalar event (R359). -/
structure Events where
  scalar : Bool := false
  /-- KIND 0. -/
  addrs : List LaneEvent := []
  /-- KIND 1. -/
  stored : List LaneEvent := []
  /-- KIND 2. -/
  loaded : List LaneEvent := []
  /-- KIND 3. -/
  results : List LaneEvent := []
  /-- KIND 4. -/
  raised : List LaneEvent := []
  /-- KIND 5: the address of the instruction. -/
  pcs : List LaneEvent := []
  deriving DecidableEq, Repr

/-- The events of a kind. -/
def Events.ofKind (e : Events) (k : Nat) : List LaneEvent :=
  match k with
  | 0 => e.addrs | 1 => e.stored | 2 => e.loaded | 3 => e.results | 4 => e.raised | _ => e.pcs

/-- Values under which a comparator compares an element (R360). Log entry 23. -/
def weirVal (f : Fmt) (x : Nat) : Val :=
  if f == .e2m1 then e2m1Val x 127 0x80
  else if f.isBT || f == .t then intVal x
  else valOf f x

/-- The value of a WLO or WHI: an integer as it is, also where it equals the absent code, since only an absent element
is set apart (R360). Log entry 23. -/
def boundVal (f : Fmt) (x : Nat) : Val :=
  match weirVal f x with
  | .absent => if f.isIN then intVal (f.int x) else .nan
  | v => v

/-- x lies below y; a NaN or an absent value compares with nothing. -/
def weirLt (x y : Val) : Bool := !(x.isNan || x.isAbsent || y.isNan || y.isAbsent) && ltVal x y

/-- x equals y. -/
def weirEq (x y : Val) : Bool := !(x.isNan || x.isAbsent || y.isNan || y.isAbsent) && eqVal x y

/-- The comparator holds for an element of n bits (R360). -/
def cmpHolds (cmp : Nat) (f : Fmt) (n lo hi x : Nat) : Bool :=
  let lo := lo % 2 ^ n
  let hi := hi % 2 ^ n
  let v := weirVal f x
  let a := boundVal f lo
  let b := boundVal f hi
  let absent := if f == .e2m1 then x % 16 == 8 else f.isAbsent x
  let within := (weirLt a v || weirEq a v) && (weirLt v b || weirEq v b)
  match cmp with
  | 6 => (x ^^^ lo) &&& hi == 0
  | 7 => absent
  | 15 => false
  | c =>
    if absent then false
    else if v.isNan then c == 1 || c == 3
    else match c with
      | 0 => within
      | 1 => !within
      | 2 => weirEq v a
      | 3 => !weirEq v a
      | 4 => weirLt v a
      | _ => weirLt a v || weirEq v a

/-- The first element of an event's data that matches, if any (R359). -/
def firstMatch (w : Weir) (e : LaneEvent) : Option Nat :=
  match w.kind with
  | 4 => if e.flags.any (fun x => x.toNat &&& w.xmask != 0) then some 0 else none
  | 0 | 5 => if cmpHolds w.cmp .b64 64 w.lo.toNat w.hi.toNat e.value then some e.value else none
  | _ =>
    let f := fmtOf w.fmt w.w64
    let n := f.width
    ((List.range (e.bits / n)).map fun i => e.value / 2 ^ (n * i) % 2 ^ n).find? fun x =>
      cmpHolds w.cmp f n w.lo.toNat w.hi.toNat x

/-- A weir of a core. -/
def State.weir (s : State) (core n : Nat) : Weir := spRead {} (s.core core).weirs n

/-- The weir watches this team at this address: claimed by its context, MODE passed, inside the PC window
(R359). -/
def State.weirWatches (s : State) (t : Team) (n : Nat) (w : Weir) (pc : Dword) : Bool :=
  let core := coreOf t.tid
  let mode := match w.mode with
    | 0 => true
    | 1 => w.ident == t.lid
    | _ => w.ident == t.tid.toNat
  let window :=
    if w.pcw = n then true
    else
      let x := s.weir core w.pcw
      x.en && x.owner == some t.ctx && x.kind == 5 && cmpHolds x.cmp .b64 64 x.lo.toNat x.hi.toNat pc.toNat
  w.en && w.owner == some t.ctx && mode && window

/-! ## Captures (R365) -/

/-- Write a capture record into the launch's capture area, or count it as dropped (R365). -/
def State.capture (s : State) (t : Team) (pc : Dword) (g : Trigger) : State :=
  let w := t.seg 5
  let base := w.base.toNat
  let cap := (w.limit.toNat - 64) / 64
  let port := portOf t.tid
  if cap = 0 then s
  else
    let dword := fun k => match s.vRead port t.ctx (base + 8 * k) 8 with | .inl bs => ofBytes bs | .inr _ => 0
    let drop := fun (s : State) =>
      match s.vWrite port t.ctx (base + 8) (toBytes 8 (dword 1 + 1)) with | .inl s' => s' | .inr _ => s
    if cap ≤ dword 0 then drop s
    else
      let w2 := g.weir * 2 ^ 56 + g.timing * 2 ^ 55 + g.kind * 2 ^ 52 + g.action * 2 ^ 49
        + (if g.scalar then 2 ^ 48 else 0) + g.lane * 2 ^ 38
      let w2 := w2 + t.idxNo * 2 ^ 34 + t.issueNo * 2 ^ 28 + g.xflags
      let data := dwordBytes [t.tid.toNat * 2 ^ 32 + t.lid, pc.toNat, w2, g.addr, g.value, s.now t, 0, 0]
      match s.vWrite port t.ctx (base + 64 + 64 * dword 0) data with
      | .inr _ => drop s
      | .inl s1 =>
        match s1.vWrite port t.ctx base (toBytes 8 (dword 0 + 1)) with
        | .inl s2 => s2
        | .inr _ => s1

/-! ## Evaluation (R356, R361, R363) -/

/-- What the weirs of one timing found: the state with counts and captures made, the lanes frozen, and the
strongest stop. -/
structure WeirOut where
  state : State
  frozen : List Nat := []
  stop : Option Trigger := none

/-- The strength of a stopping action (R363): halt gang, halt plot, halt team, trap. -/
def actionRank (a : Nat) : Nat :=
  match a with
  | 4 => 4 | 3 => 3 | 2 => 2 | 6 => 1 | _ => 0

/-- Saturating addition of WHIT (R356). -/
def addHits (h : Dword) (n : Nat) : Dword := dw (min (h.toNat + n) (2 ^ 64 - 1))

/-- Evaluate weir n of the team's core on an instruction's events. -/
def evalWeir (t : Team) (pc : Dword) (timing : Nat) (kinds : List Nat) (ev : Events) (n : Nat) (o : WeirOut) :
    WeirOut :=
  let core := coreOf t.tid
  let w := o.state.weir core n
  if !(w.timing == timing && kinds.contains w.kind && o.state.weirWatches t n w pc) then o
  else
    let hits := (ev.ofKind w.kind).filterMap fun e => (firstMatch w e).map fun v => (e, v)
    match hits with
    | [] => o
    | (e, v) :: _ =>
      let scalar := ev.scalar || w.kind == 5
      let lanes := if scalar then [] else distinct (hits.map fun h => h.1.lane)
      let action := if w.action = 1 && scalar then 2 else w.action
      let g : Trigger :=
        { weir := n, timing, kind := w.kind, action := w.action, scalar, lane := if scalar then 1023 else e.lane
          lanes, value := if w.kind = 4 then 0 else v, addr := if w.kind ≤ 2 then e.addr else 0
          xflags := if w.kind = 4 then (e.flags.foldl (fun a x => a ||| x) 0).toNat else 0 }
      let s1 := o.state.modCore core fun c =>
        { c with weirs := spWrite {} c.weirs n { w with hit := addHits w.hit (if scalar then 1 else lanes.length) } }
      let s2 := if w.action = 0 then s1 else s1.capture t pc g
      let stop := match o.stop with
        | some b => if actionRank b.action < actionRank action then some { g with action } else some b
        | none => if 0 < actionRank action then some { g with action } else none
      { state := s2, frozen := if action = 1 then o.frozen ++ lanes else o.frozen, stop }

/-- Evaluate the sixteen weirs of a team's core, lowest number first. -/
def evalWeirs (s : State) (t : Team) (pc : Dword) (timing : Nat) (kinds : List Nat) (ev : Events) : WeirOut :=
  (List.range 16).foldl (fun o n => evalWeir t pc timing kinds ev n o) { state := s }

/-! ## Stops (R362, R366) -/

/-- A halt record (R366). -/
def haltRecord (cause : Nat) (g : Trigger) (trigger : Handle) : Dword :=
  dw (cause * 2 ^ 60 + g.weir * 2 ^ 56 + g.timing * 2 ^ 55 + g.kind * 2 ^ 52 + (if g.scalar then 2 ^ 48 else 0)
    + g.lane * 2 ^ 38 + trigger.toNat)

/-- A halt record without a weir: causes 4 to 7. Log entry 25. -/
def plainRecord (cause lane : Nat) (own : Handle) : Dword := dw (cause * 2 ^ 60 + lane * 2 ^ 38 + own.toNat)

/-- A team becomes HALTED with a halt record; a team already stopped, or told to stop, has the record of its first stop
(R363). A member of a crew keeps its arrival at a collective instruction (R362). -/
def Team.haltWith (t : Team) (rec_ : Dword) : Team :=
  let halt := fun (r : Dword) =>
    { t.haltedNow with haltRec := r, arrived := t.arrived, pcSeen := t.pcSeen && t.arrived.isSome }
  match t.stop with
  | some .halted => t
  | some (.stopping r _ _) => halt r
  | none => halt rec_

/-- Another team is told to stop: at once where it is PARKED, PENDING or PREEMPTED, else after its skid (R362). -/
def Team.stopOther (t : Team) (rec_ : Dword) (sameCore : Bool) : Team :=
  match t.stop with
  | some _ => t
  | none =>
    match t.run, t.preempted with
    | .active, false => { t with stop := some (.stopping rec_ (if sameCore then 2 else 16) (!sameCore)) }
    | _, _ => (t.haltWith rec_).endStep 3

/-- The action of a stopping weir of team t on the other teams: those of its plot, or those of its launch with the
launch halt mark (R362). Log entry 82. -/
def State.stopOthers (s : State) (t : Team) (g : Trigger) : State :=
  let others := fun (p : Team → Bool) (cause : Nat) =>
    { s with teams := s.teams.map fun u =>
        if u.tid == t.tid || !p u then u else u.stopOther (haltRecord cause g t.tid) (coreOf u.tid == coreOf t.tid) }
  if g.action = 3 then others (fun u => u.plot == t.plot) 2
  else if g.action = 4 then
    (others (fun u => u.ctx == t.ctx && u.lid == t.lid) 3).modLaunch t.ctx t.lid (fun l => { l with haltMark := true })
  else s

/-- The action of a stopping weir on its team and on the others (R362). -/
def State.weirStop (s : State) (h : Handle) (g : Trigger) : State :=
  match s.team? h with
  | none => s
  | some t =>
    if g.action = 6 then s.trap t 0x20 g.weir (dw g.value) (maskOf g.lanes)
    else (s.setTeam ((t.haltWith (haltRecord 1 g h)).endStep 3)).stopOthers t g

/-- Set HOLD bits (R364). -/
def State.freeze (s : State) (h : Handle) (lanes : List Nat) : State :=
  if lanes.isEmpty then s else s.modTeam h fun t => { t with hold := t.hold ||| maskOf lanes }

/-- The stop that acts of two found for one instruction: the stronger, or the lower-numbered weir's among equals
(R363). -/
def strongest : Option Trigger → Option Trigger → Option Trigger
  | none, b => b
  | a, none => a
  | some a, some b =>
    if actionRank a.action < actionRank b.action then some b
    else if actionRank a.action = actionRank b.action && decide (b.weir < a.weir) then some b
    else some a

/-- A TIMING 1 freeze acts from the next instruction on: what the triggering instruction itself has started, which has an
identifier from id on, still delivers into the lanes (R364). -/
def State.freezeLate (s : State) (h : Handle) (id : Nat) (lanes : List Nat) : State :=
  if lanes.isEmpty then s
  else
    { s.freeze h lanes with ops := s.ops.map fun o =>
        if o.origin.tid == h && decide (id ≤ o.id) then { o with thawed := lanes } else o }

/-- A TIMING 1 stop waits for the instruction to retire (R361); a stop that a delivery has left keeps its place against an
equal one of another event (R363). -/
def Team.addLate (t : Team) (g : Option Trigger) : Team :=
  match t.late, g with
  | some b, some a =>
    if b.kind = 2 || a.kind = 2 then
      (if actionRank b.action < actionRank a.action then { t with late := some a } else t)
    else { t with late := strongest (some b) (some a) }
  | none, _ => { t with late := g }
  | _, none => t

/-- A team has taken a trap at an instruction at which it stood as t: it is HALTED there (R379). -/
def Team.trappedAt (t : Team) (u : Option Team) : Bool :=
  match u with
  | some u => u.stop == some .halted && t.stop != some .halted && u.clause == t.clause && u.pc == t.pc
  | none => false

/-- An instruction under the weirs of KIND 0 to 4 (R361 to R364). The plan gives, for a list of lanes, the events
and the effect; TIMING 0 weirs, with a KIND 5 weir that has stopped the instruction (weirMark), may stop it or take lanes
from it; TIMING 1 weirs act once it has retired. An instruction that then traps has counted nothing and frozen
nothing (R379, R396). -/
def underWeirs (s : State) (t : Team) (kinds : List Nat) (lanes : List Nat) (events : List Nat → Events)
    (effect : List Nat → State → Team → State) : State :=
  let pc := t.insnPc
  let o := if t.exempt then { state := s } else evalWeirs s t pc 0 kinds (events lanes)
  match strongest o.stop t.weirMark.join with
  | some g =>
    ((o.state.freeze t.tid o.frozen).modTeam t.tid fun u => { u with weirMark := none }).weirStop t.tid g
  | none =>
    let rest := lanes.filter fun l => !o.frozen.contains l
    let o1 := evalWeirs o.state t pc 1 kinds (events rest)
    let t1 := (o1.state.catchUp { t with hold := t.hold ||| maskOf o.frozen }).addLate o1.stop
    let out := (effect rest o1.state t1).freezeLate t.tid s.nextId o1.frozen
    if t.trappedAt (out.team? t.tid) then effect rest s t else out

end Sys2Proof.Machine
end

