-- ==== Sys2Proof/Machine/Sched.lean ====
section
/-! DEFINITION. Retiring, holding, parking and waking: a team's way among ACTIVE, PENDING and PARKED (R34 to R39, R331, R332), and the waits on its own operations. -/

namespace Sys2Proof.Machine

/-! ## The active set (R21, R331) -/

/-- The team is resident and not HALTED. -/
def Team.running (t : Team) : Bool :=
  !t.preempted && (match t.stop with | some .halted => false | _ => true)

/-- ACTIVE (R34). -/
def Team.isActive (t : Team) : Bool := t.running && (match t.run with | .active => true | _ => false)

/-- PENDING (R34). -/
def Team.isPending (t : Team) : Bool := t.running && (match t.run with | .pending => true | _ => false)

/-- HALTED, trapped teams included (R34, R380). -/
def Team.isHalted (t : Team) : Bool := !t.preempted && (match t.stop with | some .halted => true | _ => false)

/-- The team is in a partition of a core. -/
def Team.inPart (t : Team) (core part : Nat) : Bool := coreOf t.tid == core && partOf t.tid == part

/-- The ACTIVE teams of a partition. -/
def State.actives (s : State) (core part : Nat) : List Team :=
  s.teams.filter fun t => t.inPart core part && t.isActive

/-- A place of the partition's active set is free (R21). -/
def State.placeFree (s : State) (core part : Nat) : Bool :=
  decide ((s.actives core part).length < Config.activePlaces)

/-! ## A team's own operations -/

/-- The operation belongs to a team and returns values (R190). -/
def MemOp.returns (o : MemOp) : Bool :=
  match o.kind with
  | .load | .atomic | .amaxswap | .probe => true
  | _ => false

/-- A lane of an operation still has a piece to perform. -/
def LaneAcc.open_ (a : LaneAcc) : Bool := a.fault.isNone && a.pieces.any (fun p => !p.done)

/-- Loads and value-returning atomics of a team that have not delivered in full. -/
def State.loadsPending (s : State) (h : Handle) : Bool := s.ops.any fun o => o.origin.tid == h && o.returns

/-- Posted stores of a team with a piece that has neither performed nor faulted. -/
def State.storesOpen (s : State) (h : Handle) : Bool :=
  s.ops.any fun o => o.origin.tid == h && !o.returns && o.lanes.any LaneAcc.open_

/-- Posted stores of a team that SDRAIN waits on (R197): not performed, record not written, or RED not resolved. -/
def State.storesLive (s : State) (h : Handle) : Bool := s.ops.any fun o => o.origin.tid == h && !o.returns

/-- A retry-ring entry of an origin stands against a team, or waits for room (R325). -/
def State.hasEntry (s : State) (t : Team) (origins : List Nat) : Bool :=
  match s.ctx? t.ctx with
  | none => false
  | some c => (c.retry.any fun e => e.tid == t.tid && origins.contains e.origin) ||
      c.held.any fun e => e.counted && !e.store && e.origin.tid == t.tid && origins.contains e.originCode

/-- A retry-ring entry of an operation stands, or waits for room (R325). -/
def Context.opInRing (c : Context) (i : Nat) : Bool :=
  (c.retry.any fun e => e.opId == i) || c.held.any fun e => e.counted && !e.store && e.opId == i

/-- What MFENCE waits on (R231): loads delivered, stores through P performed, vector results written. -/
def State.mfenceOpen (s : State) (t : Team) : Bool :=
  s.loadsPending t.tid || t.datapath.isSome || t.hadamard.isSome ||
    s.ops.any fun o => o.origin.tid == t.tid && o.seg == 1 && o.lanes.any LaneAcc.open_

/-- A flag named in a mask is set (R89, R113). -/
def Team.flagsSet (t : Team) (mask : Nat) : Bool := (List.range 12).any fun n => bit mask n && (t.flag n).isSet

/-- A queue register's entries, if it is bound. -/
def Team.queue? (t : Team) (code : Nat) : Option Queue := t.queues.find? fun q => q.code == code

/-- Rows of a partition's queue buffer in use (R321). -/
def State.queueRows (s : State) (core part : Nat) : Nat :=
  (s.teams.filter fun t => t.inPart core part).foldl (fun n t => n + t.queues.length * (t.width / 16)) 0

/-- The buffer lacks room for one more queue of the team (R321). -/
def State.roomLacks (s : State) (t : Team) : Bool :=
  decide (512 < s.queueRows (coreOf t.tid) (partOf t.tid) + t.width / 16)

/-- An operation is in a crew's engine order. -/
def State.matrixLive (s : State) (i : Nat) : Bool := s.crews.any fun c => c.ops.any fun o => o.id == i

/-- The dependence on which a team was swapped out still holds (R331). -/
def State.depHolds (s : State) (t : Team) : Bool :=
  match t.held with
  | some (.clauseWait m, _) => t.flagsSet m
  | some (.queueRead q, _) => (match t.queue? q with | some x => x.entries.isEmpty | none => false)
  | some (.collective, _) => t.arrived.isSome
  | some (.mfence, _) => s.mfenceOpen t
  | some (.mwaita ids, _) => ids.any s.matrixLive
  | some (.gleanerSlot, _) => decide (16 ≤ t.gleans.length)
  | some (.gleanerRoom, _) => s.roomLacks t
  | _ => false

/-- A pending team may be promoted (R331). -/
def State.eligible (s : State) (t : Team) : Bool := t.isPending && t.dying.isNone && !s.depHolds t

/-- Some eligible pending team waits in a partition (R88, R154). -/
def State.eligibleWaits (s : State) (core part : Nat) : Bool := s.teams.any fun t => t.inPart core part && s.eligible t

/-- The team leaves the active set and is PENDING from now (R36). -/
def Team.toPending (t : Team) (now : Nat) : Team := { t with run := .pending, since := now, leaveAtEnd := false }

/-! ## Registers that a delivery is still to write (R84) -/

/-- Vector registers, or the scalar register, that an operation delivers into. -/
def MemOp.destRegs (o : MemOp) : List Nat :=
  if o.scalar then [o.dest] else (List.range (o.size / 4)).map fun i => o.dest + i

/-- Lanes that an operation has still to deliver (R84, R190): all, or those with an entry to be resolved. -/
def MemOp.pendingLanes (o : MemOp) : List Nat :=
  (if o.delivered then o.lanes.filter fun a => a.fault.isSome && !a.resolved else o.lanes).map LaneAcc.lane

/-- Registers of a team that a load or atomic is still to deliver: scalar or vector, register, lane. -/
def State.undelivered (s : State) (h : Handle) : List (Bool × Nat × Nat) :=
  (s.ops.filter fun o => o.origin.tid == h && o.returns).flatMap fun o =>
    o.destRegs.flatMap fun r => if o.scalar then [(true, r, 0)] else o.pendingLanes.map fun l => (false, r, l)

/-- Registers of a team's B runs under operations that have not retired (R238): register, lane. -/
def State.runRegs (s : State) (t : Team) : List (Bool × Nat × Nat) :=
  s.crews.flatMap fun c =>
    if c.plot == t.plot then
      c.ops.flatMap fun o => (o.runs.filter fun r => r.1 == t.tid).flatMap fun r =>
        (List.range o.runLen).flatMap fun i => (List.range t.width).map fun l => (false, r.2 + i, l)
    else []

/-- Registers of a team that RPUT has written and on whose flag the team has not waited (R109). -/
def State.rputRegs (s : State) (h : Handle) : List (Bool × Nat × Nat) :=
  (s.rputs.filter fun r => r.tid == h).map fun r => (r.scalar, r.reg, r.lane)

/-- What a team reads in its registers at an instruction: a free value in each register that a delivery is still
to write, that RPUT has written before the team's wait, or that an operation outstanding on a B run holds (R11, R84, R109,
R238); and the number of values drawn. Log entry 10. -/
def State.view (s : State) (t : Team) : Team × Nat :=
  (s.undelivered t.tid ++ s.runRegs t ++ s.rputRegs t.tid).foldl (fun x p =>
    let v := Config.freeValue (s.fresh + x.2)
    (if p.1 then x.1.setS p.2.1 v else x.1.setV p.2.1 p.2.2 (v.setWidth 32), x.2 + 1)) (t, 0)

/-- Note that a team writes registers that a delivery is still to write: the delivery then leaves either value
(R84); the same of what RPUT has written (R109). -/
def State.noteWrites (s : State) (h : Handle) (scalar : Bool) (places : List (Nat × Nat)) : State :=
  let value := fun (r : Rput) => match s.team? h with
    | some t => some (if scalar then t.getS r.reg else (t.getV r.reg r.lane).setWidth 64)
    | none => none
  { s with
    ops := s.ops.map fun o =>
      if o.origin.tid == h && o.returns && o.scalar == scalar then
        { o with overwritten := o.overwritten ++ places.filter fun p =>
            o.destRegs.contains p.1 && (scalar || o.pendingLanes.contains p.2) }
      else o
    rputs := s.rputs.map fun r =>
      if r.tid == h && r.scalar == scalar && places.contains (r.reg, r.lane) then { r with old := r.old.or (value r) } else r }

/-- A team has waited on the flags of a mask, or an operation without a flag is resolved: what RPUT wrote is delivered
(R109), and stands or not where the team wrote the register meanwhile. -/
def State.rputsSeen (s : State) (gone : Rput → Bool) : State :=
  let due := s.rputs.filter gone
  due.foldl (fun s r =>
    match r.old with
    | none => s
    | some x =>
      let (b, s1) := s.drawBool
      if b then s1.modTeam r.tid fun t => if r.scalar then t.setS r.reg x else t.setV r.reg r.lane (x.setWidth 32) else s1)
    { s with rputs := s.rputs.filter fun r => !gone r }

/-- A team has waited on the flags of a mask. -/
def State.flagsSeen (s : State) (h : Handle) (mask : Nat) : State :=
  s.rputsSeen fun r => r.tid == h && (match r.flag with | some n => bit mask n | none => false)

/-! ## Retiring, holding, parking -/

/-- The opcode of the word at a team's position: kind of its first parcel and, for kinds 1 and 2, the opcode. -/
def Team.atWord (t : Team) : Nat × Nat :=
  match t.clause with
  | none => (3, 0)
  | some c => let w := c.body.getD c.pos 0; (kindOf w, opcodeOf w)

/-- A V-format or L-format opcode acts under the vector mask (R162, R189). -/
def underMask (op : Nat) : Bool :=
  decide (op < 0x0F0) || (decide (0x200 ≤ op) && decide (op < 0x240)) || op == 0x100 || op == 0x101 || op == 0x106
    || op == 0x107 || op == 0x108 || op == 0x109 || op == 0x113 || op == 0x118 || op == 0x11A || op == 0x120
    || op == 0x121 || op == 0x128 || op == 0x1C5

/-- A scalar instruction: S-format, the L-format SLI and the long branches (R130). -/
def Team.atScalar (t : Team) : Bool :=
  let (k, op) := t.atWord
  k == 0 || op == 0x0F0 || (decide (0x240 ≤ op) && decide (op ≤ 0x245))

/-- The instruction at the team's position acts under the vector mask. -/
def Team.atMasked (t : Team) : Bool :=
  let (k, op) := t.atWord
  (k == 1 || k == 2) && underMask op

/-- Count an instruction that has completed for a step in progress (R270, R368). Log entry 28. -/
def Team.countStep (t : Team) (counts : Bool) : Team :=
  match t.stepping with
  | none => t
  | some st =>
    if st.outcome.isSome then t
    else if counts then
      { t with stepping := some { st with
          left := st.left - 1, idle := 0, outcome := if st.left ≤ 1 then some 0 else none } }
    else { t with stepping := some { st with idle := st.idle + 1 } }

/-- What the end of a clause brings: the header's YIELD bit, and the place that the headgate made (R88, R154,
R331). -/
def State.endClause (s : State) (h : Handle) (yield : Bool) : State :=
  match s.team? h with
  | none => s
  | some t =>
    if t.isActive && (t.leaveAtEnd || (yield && s.eligibleWaits (coreOf h) (partOf h))) then
      s.setTeam (t.toPending (s.now t))
    else s

/-- The YIELD bit of the clause that a team runs (R88). -/
def Team.clauseYield (t : Team) : Bool := match t.clause with | some c => bit c.hdr.toNat 28 | none => false

/-- A TIMING 1 stop acts once its instruction has retired (R361). -/
def State.lateStop (s : State) (h : Handle) (g : Option Trigger) : State :=
  match g with
  | none => s
  | some g => s.weirStop h g

/-- The instruction of a team t has retired, and the team, with its effects made, stands at the place that go
gives. -/
def State.retireBy (s : State) (t : Team) (go : Team → Team) (yield : Bool) : State :=
  let counts := t.atScalar || (match t.stepping with | some st => st.on | none => false)
  let u := (go (t.countStep counts)).retired1
  let s' := (s.setTeam u).lateStop t.tid t.late
  if u.clause.isNone && t.clause.isSome then s'.endClause t.tid yield else s'

/-- The instruction of a team has retired: the team, with its effects made, goes on to the next one. -/
def State.retire (s : State) (t : Team) : State := s.retireBy t Team.advance t.clauseYield

/-- A jump has retired: the team goes on at the target's header (R146). -/
def State.retireAt (s : State) (t : Team) (target : Dword) : State :=
  s.retireBy t (fun u => u.jumpTo target) t.clauseYield

/-- The instruction of a team retires with scalar registers written in order (R109, R131). -/
def State.retireS (s : State) (t : Team) (ws : List (BitVec 7 × Dword)) : State :=
  (s.noteWrites t.tid true (ws.map fun w => (w.1.toNat, 0))).retire
    (ws.foldl (fun u w => u.setS w.1.toNat w.2) t)

/-- The holds that R332 lists. -/
def Hold.swaps : Hold → Bool
  | .clauseWait _ | .flags _ | .queueRead _ | .queueWrite _ | .portRead _ | .portFull _ | .sdrain | .request _ | .collective
  | .mfence | .mwaita _ | .gleanerSlot | .gleanerRoom => true
  | _ => false

/-- The team is held at its instruction (R332): nothing else changes. The cycles of listed holds that follow each other
count together. -/
def State.holdAt (s : State) (t : Team) (h : Hold) : State :=
  let since := match t.held with | some (k, n) => if k.swaps && h.swaps then n else s.now t | none => s.now t
  s.setTeam { t with held := some (h, since) }

/-- The team parks at its instruction (R36). A step in progress ends with outcome 4 (R270). -/
def State.park (s : State) (t : Team) (p : Park) (w : Option Wake) : State :=
  s.setTeam ({ t with run := .parked p w, held := none, leaveAtEnd := false }.endStep 4)

/-- The team is held, or parks with the reason retry where an entry of the retry ring stands behind the wait
(R35). -/
def State.holdOrRetry (s : State) (t : Team) (h : Hold) (entry : Bool) : State :=
  if entry then s.park t .retry none else s.holdAt t h

/-- A parked team leaves PARKED: ACTIVE if a place is free, else PENDING (R36, R39). -/
def State.unpark (s : State) (t : Team) : State :=
  if s.placeFree (coreOf t.tid) (partOf t.tid) then s.setTeam { t with run := .active, since := s.now t, leaveAtEnd := false }
  else s.setTeam (t.toPending (s.now t))

/-- An entry of the retry ring stands behind a flag of a team: an operation that the flag counts is in it (R35). -/
def State.flagInRing (s : State) (t : Team) (mask : Nat) : Bool :=
  match s.ctx? t.ctx with
  | none => false
  | some c =>
    (s.ops.any fun o => o.origin.tid == t.tid && c.opInRing o.id &&
      (match o.flag with | some n => bit mask n | none => false)) ||
    (t.gleans.any fun g => c.opInRing g.id && (match g.flag with | some n => bit mask n | none => false)) ||
    (s.copies.any fun k => k.origin.tid == t.tid && c.opInRing k.id &&
      (match k.done with | .flag (some n) => bit mask n | _ => false)) ||
    (s.colls.any fun k => k.origin.tid == t.tid && c.opInRing k.id &&
      (match k.flag with | some n => bit mask n | none => false))

/-! ## Issuing -/

/-- The team may issue (R34, R315, R362, R270): ACTIVE, not dying, with instructions left before a stop that
another team's weir has ordered, and no step that has ended. -/
def Team.mayIssue (t : Team) : Bool :=
  t.isActive && t.dying.isNone &&
    (match t.stop with
     | some (.stopping _ n atEnd) => decide (0 < n) && !(atEnd && t.clause.isNone)
     | _ => true) &&
    (match t.stepping with | some st => st.outcome.isNone && decide (st.idle < 4096) | none => true)

/-- The team's launch is being saved: its teams have stopped issuing (R336, R338). -/
def State.launchSaving (s : State) (t : Team) : Bool :=
  match s.launch? t.ctx t.lid with
  | some l => (match l.phase with | .saving => !t.preempted | _ => false)
  | none => false

/-- The team may issue now. -/
def State.canIssue (s : State) (t : Team) : Bool := t.mayIssue && !s.launchSaving t

/-- The partition's divider works for the team (R131). -/
def State.dividing (s : State) (t : Team) : Bool :=
  match spRead none (s.core (coreOf t.tid)).divides (partOf t.tid) with
  | some d => d.tid == t.tid
  | none => false

/-- A reduction of the team has still to write scalar registers (R157). -/
def Team.awaitsScalars (t : Team) : Bool := match t.datapath with | some d => !d.scalars.isEmpty | none => false

/-- An instruction comes to issue for the team that exec acts for. A team that may not issue leaves the state as
it is; a team whose division runs (R131), or whose reduction has still to write scalar registers (R157), is held.
The body gets the state, the team, and the team as it reads its registers (R84). -/
def issue (s : State) (body : State → Team → Team → State) : Host.Outcome State Fault Refusal :=
  .next (match s.team? s.cur with
  | none => s
  | some t =>
    if !s.canIssue t then s
    else if s.dividing t then s.holdAt t .divider
    else if t.awaitsScalars then s.holdAt t .register
    else
      let v := s.view t
      body { s with fresh := s.fresh + v.2 } t v.1)

end Sys2Proof.Machine
end

