-- ==== Sys2Proof/Machine/Operands.lean ====
section
/-! DEFINITION. The operand forms: inline constants (R77, R95), sources and destinations of vector instructions (R94, R160, R161), queue registers and drain ports (R117, R118), and memory addresses (R186). -/

namespace Sys2Proof.Machine

/-- The element format that FMT and FUNC[7:6] name (R43, R44). -/
def fmtF (f : VFields) : Fmt := fmtOf f.fmt.toNat (mW64 f)

/-- The source format of a conversion (R173). -/
def srcF (f : VFields) : Fmt := fmtOf (srcFmt f) (srcSel f)

/-! ## Inline constants (R77, R95) -/

/-- An integer constant in a format: its low bits, or its value rounded to nearest under a float format (R95). -/
def intConst (f : Fmt) (n : Nat) : Nat :=
  if f.isFloat then (roundFloat f .rne false { neg := false, m := n, e := 0 }).1 else n % 2 ^ f.width

/-- A real constant, scaled by 2^128, rounded to nearest. -/
def realConst (f : Fmt) (x : Int) : Nat :=
  (roundFloat f .rne false { neg := false, m := x.toNat, e := -128, sticky := true }).1

/-- A signed power of two as a float pattern. -/
def powConst (f : Fmt) (neg : Bool) (e : Int) : Nat := (roundFloat f .rne false { neg, m := 1, e }).1

/-- The pattern of an inline constant in a format, for a lane with a work identifier (R77, R95). -/
def constPat (f : Fmt) (width lane wid code : Nat) : Nat :=
  match code with
  | 448 => 0
  | 449 => if f.isFloat then powConst f false 0 else 1
  | 450 => if f.isFloat then powConst f true 0 else ones f.width
  | 451 => if f.isFloat then powConst f false (-1) else 0
  | 452 => if f.isFloat then powConst f false 1 else 2
  | 453 => f.absent
  | 454 => ones f.width
  | 455 => intConst f lane
  | 456 => intConst f (lane / 32)
  | 457 => intConst f width
  | 458 => f.infPat
  | 459 => f.signBit + f.infPat
  | 460 => if f.isFloat then f.maxPat else if f.isBT then ones f.width else wrap f.width f.maxInt
  | 461 => if f.isFloat then f.signBit + f.maxPat else if f.isBT then 0 else wrap f.width f.minInt
  | 462 => powConst f false (-(f.mant : Int))
  | 463 => f.nan
  | 464 => intConst f (wid % 2 ^ 32)
  | 465 => intConst f (wid / 2 ^ 32 % 2 ^ 32)
  | 466 => realConst f (piScaled 128)
  | 467 => realConst f (ln2 128)
  | 468 => realConst f (2 ^ 256 / ln2 128)
  | _ => realConst f (isqrt (2 ^ 255))

/-- The constants that only float formats have (R95). -/
def floatOnlyConst (code : Nat) : Bool :=
  code == 458 || code == 459 || code == 462 || code == 463 || (decide (466 ≤ code) && decide (code ≤ 469))

/-- A constant that traps UNIMPL_COMBO under a format (R95). -/
def constRefused (f : Fmt) (code : Nat) : Bool :=
  if f == .e2m1 then true
  else if f == .t then !(code == 448 || code == 449 || code == 453)
  else (floatOnlyConst code && !f.isFloat) || (code == 450 && f.isZ)

/-- The pattern that %lit gives one element (R95). -/
def litPat (f : Fmt) (lit : Nat) : Nat :=
  match f with
  | .f64 => lit * 2 ^ 32
  | .s64 => wrap 64 (signed 32 lit)
  | f => lit % 2 ^ f.width

/-! ## Elements of lanes (R45) -/

/-- Element j of a slice of a packed format. -/
def subElem (f : Fmt) (x : Word) (j : Nat) : Nat := x.toNat / 2 ^ (f.width * j) % 2 ^ f.width

/-- Element j of a lane, from a register and the registers after it (R45, R160): element j mod k of register
base + j div k, or the pair base + 2j of a 64-bit format. -/
def Team.elem (t : Team) (f : Fmt) (base lane j : Nat) : Nat :=
  if f.width = 64 then (t.getV (base + 2 * j) lane).toNat + (t.getV (base + 2 * j + 1) lane).toNat * 2 ^ 32
  else subElem f (t.getV (base + j / f.perLane) lane) (j % f.perLane)

/-- The words of a lane that hold consecutive elements, lowest first. -/
def packElems (f : Fmt) (es : List Nat) : List Word :=
  if f.width = 64 then es.flatMap fun e => [BitVec.ofNat 32 e, BitVec.ofNat 32 (e / 2 ^ 32)]
  else
    let k := f.perLane
    (List.range (ceilDiv es.length k)).map fun r =>
      BitVec.ofNat 32 (((es.drop (k * r)).take k).foldr (fun e acc => e % 2 ^ f.width + acc * 2 ^ f.width) 0)

/-! ## Sources (R94, R117, R118, R161) -/

/-- What a source field gives the instruction: registers, a constant, the literal, or one slice per lane taken
from a queue register or a drain port. -/
inductive Src where
  | reg (r : Nat)
  | const (code : Nat)
  | lit
  | slices (ws : List Word)
  deriving DecidableEq, Repr

/-- Why a source cannot be read now: a trap ILLEGAL_OPERAND, or a hold. -/
inductive SrcStop where
  | illegal
  | hold (h : Hold) (retry : Bool)
  deriving DecidableEq, Repr

/-- The crew of a team, if it has one (R26). -/
def State.crewOf (s : State) (t : Team) : Option Crew :=
  s.crews.find? fun c => c.plot == t.plot && decide (c.first ≤ t.index) && decide (t.index < c.first + c.size)

/-- Values of a stream that are produced and not read. -/
def Stream.ready (st : Stream) : List Word := ((st.vals.getD []).take (64 * st.row)).drop st.read

/-- Values of a drain port that are produced and not read, in order. -/
def portReady (ss : List Stream) : List Word := ss.flatMap Stream.ready

/-- Read n values of a port's streams; a stream read to its end leaves the port. -/
def takePort : Nat → List Stream → List Stream
  | _, [] => []
  | n, st :: r =>
    let k := min n st.ready.length
    let st1 := { st with read := st.read + k }
    if decide (st1.read = 4096) then takePort (n - k) r else st1 :: r

/-- The command behind a queue that a team reads is stopped on a retry-ring entry (R117). -/
def Team.queueStopped (t : Team) (code : Nat) : Bool :=
  t.gleans.any fun g => g.queue == some code && !g.scatter && g.stopped

/-- A read or write of a queue is held: the team waits on it, or a result for it stands in the datapath entry or the
transform stage (R322). -/
def Team.queueHeld (t : Team) (code : Nat) : Bool :=
  (match t.held with
    | some (.queueRead q, _) | some (.queueWrite q, _) => q == code
    | _ => false)
    || (t.datapath.toList ++ t.hadamard.toList).any fun d => d.pushes.any fun p => p.1 == code

/-- A queue that holds nothing, that no unfinished command names and of which no read or write is held leaves its
binding (R322). Log entry 94. -/
def Team.unbindIdle (t : Team) : Team :=
  { t with queues := t.queues.filter fun q =>
      !(q.entries.isEmpty && !t.queueHeld q.code
        && !(t.gleans.any fun g => g.queue == some q.code || g.indexQueue == some q.code)) }

/-- Read one source field at issue: what it gives, with the pop or the port read made, or why it must wait. -/
def readSrc (s : State) (t : Team) (code : Nat) : (Src × State × Team) ⊕ SrcStop :=
  if code < 384 then .inl (.reg code, s, t)
  else if code < 448 then
    match t.queue? code with
    | none => .inr .illegal
    | some q =>
      if !q.producerGleaner then .inr .illegal
      else match q.entries with
        | [] => .inr (.hold (.queueRead code) (t.queueStopped code))
        | e :: rest =>
          let t' := { t with queues := updFirst (fun x => x.code == code) (fun x => { x with entries := rest }) t.queues }
          .inl (.slices e, s, { t' with held := none }.unbindIdle)
  else if code < 470 then .inl (.const code, s, t)
  else if code = 470 then .inl (.lit, s, t)
  else if 480 ≤ code ∧ code < 496 then
    match s.crewOf t with
    | none => .inr .illegal
    | some c =>
      let ss := spRead [] c.ports (code - 480)
      if ss.isEmpty then .inr .illegal
      else
        let ready := portReady ss
        if ready.length < t.width then .inr (.hold (.portRead (code - 480)) false)
        else
          .inl (.slices (ready.take t.width),
            s.modCrew c.id (fun c => { c with ports := spWrite [] c.ports (code - 480) (takePort t.width ss) }), t)
  else .inr .illegal

/-- Element j of a lane from a source, in a format. -/
def Src.elem (x : Src) (s : State) (t : Team) (lit : Nat) (f : Fmt) (lane j : Nat) : Nat :=
  match x with
  | .reg r => t.elem f r lane j
  | .const c => constPat f t.width lane (s.workId t lane) c
  | .lit => litPat f lit
  | .slices ws => subElem f (ws.getD lane 0) j

/-- A lane's slice from a source, constants taken in a format: the words of its registers (R45, R165). -/
def Src.slice (x : Src) (s : State) (t : Team) (lit : Nat) (f : Fmt) (lane : Nat) : List Word :=
  match x with
  | .reg r => (List.range f.regs).map fun i => t.getV (r + i) lane
  | .slices ws => [ws.getD lane 0]
  | x => packElems f ((List.range f.perLane).map (x.elem s t lit f lane))

/-- A lane's 32-bit number from a source: a register's slice, or the low 32 bits of a constant in a format (R94). -/
def Src.word (x : Src) (s : State) (t : Team) (lit : Nat) (f : Fmt) (lane : Nat) : Nat :=
  match x with
  | .reg r => (t.getV r lane).toNat
  | x => ((x.slice s t lit f lane).headD 0).toNat

/-- A lane's truth from a source (R49, R95). -/
def Src.truth (x : Src) (s : State) (t : Team) (lit : Nat) (lane : Nat) : Truth :=
  truthOf (match x with | .lit => lit | x => x.word s t lit .t lane)

/-! ## Destinations (R94, R161, R322) -/

/-- Entries that instructions in the datapath entry and the transform stage will still push to a queue. -/
def Team.pushesDue (t : Team) (code : Nat) : Nat :=
  ((t.datapath.toList ++ t.hadamard.toList).flatMap fun d => d.pushes.filter fun p => p.1 == code).length

/-- A destination field that an instruction may leave out with 448 (R94). -/
def optDst (c : BitVec 9) : List Nat := if c = 448 then [] else [c.toNat]

/-- Why a destination cannot be written now, so many entries of the same instruction going to its queue first: only a
queue register can stop the instruction. -/
def dstStop (t : Team) (ahead code : Nat) : Option SrcStop :=
  if code < 384 then none
  else if code < 448 then
    match t.queue? code with
    | none => some .illegal
    | some q =>
      if q.producerGleaner then some .illegal
      else if q.entries.length + ahead + t.pushesDue code < 2 then none
      else some (.hold (.queueWrite code) (t.gleans.any fun g => g.queue == some code && g.stopped))
  else some .illegal

/-- Why the destinations of an instruction cannot be written now: a trap before a hold. -/
def dstsStop (t : Team) (dsts : List Nat) : Option SrcStop :=
  let stops := dsts.zipIdx.filterMap fun d => dstStop t ((dsts.take d.2).count d.1) d.1
  match stops.find? fun e => e == .illegal with
  | some e => some e
  | none => stops.head?

/-- The queue entry that a result makes: active lanes' results, all ones in the others (R161). -/
def queueEntry (t : Team) (lanes : List Nat) (res : Nat → Word) : List Word :=
  (List.range t.width).map fun l => if lanes.contains l then res l else 0xFFFFFFFF#32

/-! ## Memory operands (R186) -/

/-- A literal as a signed displacement (R97). -/
def disp (f : VFields) : Dword := sext 32 (litNat f)

/-- The base of a memory operand (R186). -/
def memBase (t : Team) (f : VFields) : Dword := if mNoBase f then 0 else t.getS (mBase f)

/-- The offset of a lane (R186); strided says that X is the scalar stride of VLDS and VSTS. -/
def memOff (t : Team) (f : VFields) (strided : Bool) (lane : Nat) : Dword :=
  let ix : Dword :=
    if strided then dw lane * t.getS (f.va.toNat % 128)
    else if f.va = 448 then 0
    else sext 32 (t.getV f.va.toNat lane).toNat
  memBase t f + ix * dw (2 ^ mScale f) + disp f

/-- The one offset of a scalar memory instruction or a synchronisation operand (R186). -/
def scalarOff (t : Team) (f : VFields) : Dword := memBase t f + disp f

/-- addr of an offset through a segment (R186). -/
def segAddr (t : Team) (seg : Nat) (off : Dword) : Dword := (t.seg seg).base + off

/-- An access of n bytes at an offset passes the limit of a segment (R114). -/
def limitOk (t : Team) (seg : Nat) (off : Dword) (n : Nat) : Bool :=
  decide (off.toNat + n ≤ (t.seg seg).limit.toNat)

end Sys2Proof.Machine
end

