-- ==== Sys2Proof/Machine/Checks.lean ====
section
/-! DEFINITION. The checks of R103, orders 2 to 6, that an instruction makes when it comes to issue, for every opcode: privilege, matrix presence, operand positions, reserved combinations, allocation. -/

namespace Sys2Proof.Machine

/-- What the checks of one instruction find: whether orders 2 to 5 fail, and the register runs of order 6. -/
structure Chk where
  priv : Bool := false
  matrix : Bool := false
  operand : Bool := false
  combo : Bool := false
  /-- Vector registers named: first and count. -/
  runs : List (Nat × Nat) := []
  deriving DecidableEq, Repr

/-- The cause of the first order that fails (R103, R378); regs is the team's allocation. -/
def Chk.cause (c : Chk) (regs : Nat) : Option Nat :=
  if c.priv then some cPrivilege
  else if c.matrix then some cMatrixAbsent
  else if c.operand then some cOperand
  else if c.combo then some cCombo
  else if c.runs.any (fun r => decide (regs < r.1 + r.2)) then some cRegbound
  else none

/-- Join the findings of two fields. -/
def Chk.and (a b : Chk) : Chk where
  priv := a.priv || b.priv
  matrix := a.matrix || b.matrix
  operand := a.operand || b.operand
  combo := a.combo || b.combo
  runs := a.runs ++ b.runs

/-! ## Operand positions (R94, R96, R160) -/

/-- What an opcode takes from a field. -/
inductive Role where
  /-- Not used; order 1 has required zero. -/
  | none_
  /-- A vector source in the instruction's format. -/
  | src
  /-- A vector source of one 32-bit register. -/
  | word
  /-- A truth operand (R95). -/
  | truth
  /-- A vector destination in the instruction's format. -/
  | dst
  /-- A destination of one 32-bit register. -/
  | dstWord
  /-- A destination of one register, or 448 for none. -/
  | dstOpt
  /-- A scalar register up to a number (R96). -/
  | scalar (max : Nat)
  /-- A scalar register, or 448 for "not written" (R96). -/
  | scalarOpt
  deriving DecidableEq, Repr

/-- A scalar field (R96). -/
def chkScalar (max code : Nat) : Chk := { operand := decide (max < code) }

/-- A vector source of a span of registers that must start at a multiple of an alignment. Log entry 16. -/
def chkSrc (f : Fmt) (lit : Bool) (n align code : Nat) : Chk :=
  if code < 384 then { operand := decide (code % align ≠ 0), runs := [(code, n)] }
  else if code < 448 then { operand := decide (1 < n) }
  else if code < 470 then { combo := constRefused f code }
  else if code = 470 then { operand := !lit }
  else if 480 ≤ code ∧ code < 496 then { operand := decide (1 < n) }
  else { operand := true }

/-- A vector destination of a span of registers. -/
def chkDst (_f : Fmt) (n align code : Nat) : Chk :=
  if code < 384 then { operand := decide (code % align ≠ 0), runs := [(code, n)] }
  else if code < 448 then { operand := decide (1 < n) }
  else { operand := true }

/-- Registers that an operand of a format spans: a pair for 64-bit elements, and element and companion register
for e2m1 (R45, R51, R94). -/
def span (f : Fmt) : Nat := if f.width = 64 || f == .e2m1 then 2 else 1

/-- One field under its role. -/
def chkField (f : Fmt) (lit : Bool) (r : Role) (code : Nat) : Chk :=
  match r with
  | .none_ => {}
  | .src => chkSrc f lit (span f) (span f) code
  | .word => chkSrc f lit 1 1 code
  | .truth => chkSrc .t lit 1 1 code
  | .dst => chkDst f (span f) (span f) code
  | .dstWord => chkDst .b32 1 1 code
  | .dstOpt => if code = 448 then {} else chkDst .b32 1 1 code
  | .scalar m => chkScalar m code
  | .scalarOpt => if code = 448 then {} else chkScalar 127 code

/-- The four fields under their roles. -/
def chkFields (f : Fmt) (v : VFields) (d a b c : Role) : Chk :=
  (chkField f v.lit.isSome d v.vd.toNat).and ((chkField f v.lit.isSome a v.va.toNat).and
    ((chkField f v.lit.isSome b v.vb.toNat).and (chkField f v.lit.isSome c v.vc.toNat)))

/-! ## Element instructions (R159, R165 to R184) -/

/-- A format of 32 bits or narrower with special functions or MHAD (R181, R240). -/
def Fmt.isSF : Fmt → Bool
  | .f32 | .f16 | .bf16 => true
  | _ => false

/-- The formats that an element opcode accepts (R159). -/
def elemFormat (op : Nat) (f : Fmt) : Bool :=
  match op with
  | 0x000 | 0x002 | 0x028 | 0x029 | 0x02A | 0x02B | 0x031 | 0x032 | 0x038 => true
  | 0x001 | 0x003 => !(f == .e2m1)
  | 0x004 | 0x03E | 0x03F | 0x040 => f == .t
  | 0x005 => f == .b32
  | 0x010 | 0x011 | 0x012 | 0x013 | 0x014 | 0x015 => f.isFL
  | 0x016 | 0x017 | 0x018 | 0x019 | 0x01A => f.isFL || f.isF8
  | 0x020 | 0x021 | 0x022 | 0x023 | 0x024 => f.isIN
  | 0x025 | 0x026 | 0x027 | 0x02C | 0x02D | 0x02E | 0x02F => f.isIN || f.isBT
  | 0x030 => f == .b32
  | 0x039 => f.isWD
  | 0x03A => f.isWD || f == .t
  | 0x03B | 0x03D => f.isAB
  | 0x03C => f.isFL || f.isF8 || f.isIN
  | 0x04B => (f.isFL && !(f == .f64)) || f.isF8
  | 0x058 => f.isBT
  | 0x059 => f.isFL
  | 0x060 => f == .t
  | _ => if 0x200 ≤ op ∧ op ≤ 0x208 then f.isSF else true

/-- The roles of VD, VA, VB and VC of an element opcode (R165 to R184). VBCAST takes a scalar register, or the
%absent constant 453 in its place (R165). Log entry 88. -/
def elemRoles (op : Nat) (v : VFields) : Role × Role × Role × Role :=
  match op with
  | 0x001 => (.dst, if v.va = 453 then .none_ else .scalar 127, .none_, .none_)
  | 0x002 | 0x031 => (.dst, .src, .word, .none_)
  | 0x003 => (.dst, .src, .scalar 127, .none_)
  | 0x005 | 0x058 | 0x059 => (.dst, .none_, .none_, .none_)
  | 0x000 | 0x004 | 0x018 | 0x019 | 0x02B | 0x02C | 0x02D | 0x040 => (.dst, .src, .none_, .none_)
  | 0x013 | 0x014 | 0x015 | 0x01A | 0x024 | 0x02E | 0x02F => (.dst, .src, .src, .src)
  | 0x030 => if v.fn.toNat % 2 = 1 then (.dst, .src, .src, .src) else (.dst, .src, .src, .none_)
  | 0x032 => if v.fn.toNat % 2 = 1 then (.dst, .src, .scalar 127, .none_) else (.dst, .src, .none_, .none_)
  | 0x038 => (.dst, .truth, .src, .src)
  | 0x039 => (.dstWord, .src, .src, .none_)
  | 0x03A | 0x04B => (.dstWord, .src, .none_, .none_)
  | 0x03D => (.dst, .src, .truth, .none_)
  | 0x060 => (.none_, .src, .none_, .none_)
  | _ => if 0x200 ≤ op ∧ op ≤ 0x208 then (.dst, .src, .none_, .none_) else (.dst, .src, .src, .none_)

/-- The rounding codes that an opcode's chapter reserves (R182, R180): order 5. A reduction that rounds stochastically,
by its own code or by RMODE, is under RSR (DEDUCED, log entry 31). -/
def roundReserved (rmode op : Nat) (v : VFields) : Bool :=
  let code := if modRound v = 0 then rmode else modRound v
  match op with
  | 0x201 | 0x203 | 0x204 | 0x205 | 0x206 | 0x207 | 0x208 => decide (1 < modRound v)
  | 0x050 => decide (code = 5) && (codeFL v || codeF8 v)
  | 0x054 => decide (code = 5) && codeFL v
  | _ => false

/-- Element instructions with one format. -/
def chkElem (s : State) (t : Team) (op : Nat) (v : VFields) : Chk :=
  let f := fmtF v
  let (d, a, b, c) := elemRoles op v
  let base := chkFields f v d a b c
  let extra : Chk :=
    { combo := !elemFormat op f || roundReserved t.rmode.toNat op v || (f == .e2m1 && !s.feature 1)
      operand := (op == 0x005 && decide (5 < v.fn.toNat % 8))
        || (op == 0x060 && decide (127 < v.vd.toNat + max 1 (t.width / 64) - 1)) }
  extra.and base

/-- Elements per lane of a conversion: the larger count of the two sides (R160). -/
def cvtCount (a b : Fmt) : Nat := max a.perLane b.perLane

/-- Registers of a side's group (R160); under e2m1 the companion register comes with it (R51). -/
def groupRegs (f : Fmt) (e : Nat) : Nat :=
  if f.width = 64 then 2 * e else if f == .e2m1 then 2 * ceilDiv e 8 else max 1 (e * f.width / 32)

/-- The pairs of VQUANT (R174). -/
def quantPair (dst src : Fmt) : Bool :=
  src.isSF && (dst == .e2m1 || dst == .e4m3 || dst == .e5m2 || dst == .s8 || dst == .s4)

/-- The pairs of VDEQ (R175). -/
def deqPair (dst src : Fmt) : Bool :=
  dst.isSF && (src == .e2m1 || src == .e4m3 || src == .e5m2 || src == .s8 || src == .s4)

/-- VCVT, VQUANT and VDEQ (R160, R173 to R175, R185). -/
def chkConvert (s : State) (op : Nat) (v : VFields) : Chk :=
  let d := fmtF v
  let a := srcF v
  let e := cvtCount d a
  let lit := v.lit.isSome
  let dG := chkDst d (groupRegs d e) (groupRegs d e) v.vd.toNat
  let aG := chkSrc a lit (groupRegs a e) (groupRegs a e) v.va.toNat
  let e2 : Chk := { combo := (d == .e2m1 || a == .e2m1) && !s.feature 1 }
  let groupQueue : Chk :=
    { operand := (decide (1 < groupRegs d e) && decide (384 ≤ v.vd.toNat) && decide (v.vd.toNat < 448))
        || (decide (1 < groupRegs a e) && ((decide (384 ≤ v.va.toNat) && decide (v.va.toNat < 448))
          || (decide (480 ≤ v.va.toNat) && decide (v.va.toNat < 496)))) }
  let own : Chk :=
    match op with
    | 0x048 => { combo := !cvtPair d a }
    | 0x049 =>
      ((if v.vb = 448 then {} else chkDst .b32 1 1 v.vb.toNat : Chk).and
        (if v.vc = 448 then {} else chkDst a (groupRegs a e) (groupRegs a e) v.vc.toNat)).and
        { combo := !quantPair d a || (d == .e2m1 && (modSat v || decide (1 < modRound v)))
          operand := d == .e2m1 && !(v.vb == 448) }
    | _ =>
      (if v.vb = 448 then {} else chkSrc .b32 lit 1 1 v.vb.toNat : Chk).and
        { combo := !deqPair d a
          operand := a == .e2m1 && !(v.vb == 448) }
  own.and (e2.and (groupQueue.and (dG.and aG)))

/-- The format in which a reduction returns its result (R67, R177). -/
def reduceFmt (op : Nat) (f : Fmt) : Fmt :=
  if op = 0x050 then
    match f with
    | .f16 | .bf16 | .e4m3 | .e5m2 | .f32 => .f32
    | .f64 => .f64
    | f => if f.isS then .s64 else if f.isZ then .z64 else f
  else f

/-- The formats of the reductions (R67, R177). -/
def reduceFormat (op : Nat) (f : Fmt) : Bool :=
  match op with
  | 0x053 => f.isAB
  | 0x054 => f.isWD
  | _ => f.isFL || f.isF8 || f.isIN

/-- Reductions and VSCAN (R177 to R180, R185). -/
def chkReduce (t : Team) (op : Nat) (v : VFields) : Chk :=
  let f := fmtF v
  let scal := v.fn.toNat / 32 % 2 == 1
  let g := reduceFmt op f
  let dRole := if op = 0x053 then (if scal then chkScalar 127 v.vd.toNat else chkDst .b32 1 1 v.vd.toNat)
    else if op = 0x054 then chkDst f (span f) (span f) v.vd.toNat
    else if scal then chkScalar 127 v.vd.toNat
    else chkDst g g.regs g.regs v.vd.toNat
  let cRole := if op = 0x053 then ({ operand := v.vc == 448 } : Chk)
    else if v.vc = 448 then {}
    else if scal then chkScalar 127 v.vc.toNat
    else chkDst .b32 1 1 v.vc.toNat
  let same : Chk := { operand := op != 0x053 && v.vd == v.vc
                      combo := !reduceFormat op f || roundReserved t.rmode.toNat op v }
  same.and (dRole.and (cRole.and (chkSrc f v.lit.isSome (span f) (span f) v.va.toNat)))

/-! ## Memory (R97, R187, R192 to R204, R221) -/

/-- SEG Q is the supervisor's (R97). -/
def segPriv (s : State) (t : Team) (seg : Nat) : Chk := { priv := seg == 7 && !s.isSup t }

/-- The operation and format pairs of R203. -/
def atomicPair (op : Nat) (v : VFields) : Bool :=
  let f := fmtF v
  let arith := f == .s32 || f == .z32 || f == .f32 || f == .s64 || f == .z64 || f == .f64
  let logic := f == .b32 || f == .z32 || f == .s32 || f == .b64 || f == .z64 || f == .s64
  if op = 0x11B then arith
  else if mAop v ≤ 2 then arith
  else if mAop v ≤ 5 then logic
  else f.width == 32 || f.width == 64

/-- The index vector X of a memory operand: a vector register or 448 (R97). -/
def chkIndex (v : VFields) : Chk :=
  if v.va = 448 then {} else { operand := decide (384 ≤ v.va.toNat), runs := [(v.va.toNat, 1)] }

/-- A data register of a run (R187): the run starts at a multiple of its alignment. -/
def chkData (n align : Nat) (v : VFields) : Chk :=
  { operand := decide (384 ≤ v.vd.toNat) || decide (v.vd.toNat % align ≠ 0), runs := [(v.vd.toNat, n)] }

/-- Registers that a data operand names (R187, R94): a run of four, or the span of the format; under e2m1 the
companion register is named too, whatever the instruction reads or writes of it (R51). Log entry 86. -/
def dataRegs (v : VFields) : Nat := if mWidth v = 1 then 4 else span (fmtF v)

/-- Class 1 in the memory layout. VLDS and VSTS with X = 448 fail order 4: X is a scalar field there, and 448 has bits
[8:7] set (R96). Log entry 86. -/
def chkMemory (s : State) (t : Team) (op : Nat) (v : VFields) : Chk :=
  let f := fmtF v
  let n := dataRegs v
  let seg := mSeg v
  let isLoad := op == 0x100 || op == 0x104 || op == 0x106
  let isStore := op == 0x101 || op == 0x105 || op == 0x107
  let isAtomic := decide (0x118 ≤ op) && decide (op ≤ 0x11B)
  let cas := mAop v == 7
  let common : Chk :=
    { operand := ((isStore || isAtomic) && (seg == 2 || seg == 6)) || (isAtomic && decide (1 < seg))
      combo := (isLoad && decide (2 ≤ mOrd v)) || (isStore && (mOrd v == 1 || mOrd v == 3))
        || (mBurst v != 0 && (seg != 0 || !s.feature 9)) || (mWidth v == 1 && v.fmt != 0)
        || (f == .e2m1 && !s.feature 1) }
  let own : Chk :=
    match op with
    | 0x100 | 0x101 => (chkData n n v).and (chkIndex v)
    | 0x106 | 0x107 => (chkData n n v).and (chkScalar 127 v.va.toNat)
    | 0x104 | 0x105 =>
      (chkScalar 127 v.vd.toNat).and { operand := !(v.va == 448)
                                       combo := mWidth v == 1 || f == .s4 || f == .e2m1 }
    | 0x108 | 0x109 => chkIndex v
    | 0x113 => (chkData n n v).and ((chkIndex v).and { combo := v.fmt != 6 || mWidth v == 1 })
    | 0x118 | 0x11A =>
      (chkData (if cas then 2 * f.regs else span f)
          (if mWidth v = 1 then 4 else if f.width = 64 then (if cas then 4 else 2) else span f) v).and
        ((chkIndex v).and { combo := !atomicPair op v || mWidth v == 1 })
    | 0x119 =>
      (chkScalar (if cas then 126 else 127) v.vd.toNat).and
        { operand := !(v.va == 448), combo := !atomicPair op v || mWidth v == 1 }
    | _ =>
      (chkScalar 127 v.vd.toNat).and { operand := !(v.va == 448), combo := !atomicPair op v || mWidth v == 1 }
  (segPriv s t seg).and (common.and own)

/-- CPY and CPYW (R199, R221). -/
def chkCopy (op : Nat) (v : VFields) : Chk :=
  let len := if op = 0x110 then (if v.vb = 448 then {} else chkScalar 127 v.vb.toNat) else chkScalar 126 v.vb.toNat
  let word : Chk := if cDone v = 2 then chkScalar 127 v.vc.toNat else {}
  let raw := cSfmt v == 0
  let pair := (cSfmt v == 1 && (v.fmt == 9 || v.fmt == 10 || v.fmt == 11 || v.fmt == 12))
    || (decide (2 ≤ cSfmt v) && v.fmt == 8)
  let same := raw && (v.fmt == 0 || (decide (8 ≤ v.fmt.toNat) && decide (v.fmt.toNat ≤ 12)))
  (chkScalar 127 v.vd.toNat).and ((chkScalar 127 v.va.toNat).and (len.and (word.and
    { combo := !(same || pair) || (op == 0x111 && !raw) })))

/-- GATHER, SCATTER and GLCFG (R247 to R249, R276). -/
def chkGleaner (s : State) (t : Team) (op : Nat) (v : VFields) : Chk :=
  let isQ := fun (c : Nat) => decide (384 ≤ c) && decide (c < 448)
  let d := v.vd.toNat
  let fmtBad : Chk := { combo := v.fmt == 15 || (v.fmt == 13 && !s.feature 1) }
  if op = 0x122 then
    fmtBad.and ((chkScalar 127 v.va.toNat).and ((chkScalar 127 v.vb.toNat).and
      { operand := !isQ d || !(v.vc == 448 || isQ v.vc.toNat)
          || (v.fn.toNat % 8 == 2 && decide (8 ≤ v.fn.toNat % 16)) }))
  else
    let x : Chk := if v.va = 448 || isQ v.va.toNat then {} else chkIndex v
    let dd : Chk := if isQ d then {} else if op = 0x121 then chkData (span (fmtF v)) (span (fmtF v)) v
      else { operand := true }
    (segPriv s t (mSeg v)).and (fmtBad.and (x.and (dd.and
      { combo := mWidth v == 1 || (mBurst v != 0 && (mSeg v != 0 || !s.feature 9))
        operand := op == 0x121 && (mSeg v == 2 || mSeg v == 6) })))

/-- BALE, UNBALE, COLL, RCNT and RSNAP (R251, R256, R259, R260). -/
def chkEngine (s : State) (op : Nat) (v : VFields) : Chk :=
  match op with
  | 0x124 | 0x125 =>
    let f := fmtF v
    (chkScalar 127 v.va.toNat).and { combo := f == .s4 || f == .b32 || f == .b64 || (f == .e2m1 && !s.feature 1) }
  | 0x126 => chkScalar 127 v.va.toNat
  | 0x128 => (chkData 1 1 { v with vd := v.va }).and { combo := v.fmt != 6 }
  | _ => (chkScalar 127 v.va.toNat).and (chkScalar 127 v.vb.toNat)

/-! ## Synchronisation (R207 to R219, R262) -/

/-- ORD runs against an instruction's direction (R210, R212). -/
def ordAgainst (dir : Nat) (v : VFields) : Bool := mOrd v != 0 && mOrd v != dir

/-- Class 5 and the heap instructions. -/
def chkSync (s : State) (t : Team) (op : Nat) (v : VFields) : Chk :=
  let seg := mSeg v
  let inG : Chk := (segPriv s t seg).and { operand := seg != 0 }
  let inP : Chk := (segPriv s t seg).and { operand := seg != 1 }
  let gang : Chk := { operand := !hGang (s.header t) }
  let d := chkScalar 127 v.vd.toNat
  let x := chkScalar 127 v.va.toNat
  let pool : Chk := { operand := mHeir v == 3 }
  match op with
  | 0x180 => inG
  | 0x181 => d.and x
  | 0x184 => inP.and { combo := ordAgainst 2 v }
  | 0x185 => inP.and (d.and { combo := ordAgainst 1 v })
  | 0x186 => inG.and (gang.and { combo := ordAgainst 2 v })
  | 0x187 => inG.and (gang.and (d.and { combo := ordAgainst 1 v }))
  | 0x188 => inG.and (d.and (x.and (pool.and { combo := ordAgainst 1 v })))
  | 0x189 => inG.and { combo := ordAgainst 2 v }
  | 0x18A => inG.and x
  | 0x18B => inG.and { operand := !(mHeir v == 0 || mHeir v == 3) }
  | 0x18C => inG.and (x.and pool)
  | 0x18D => inG.and (x.and { combo := ordAgainst 2 v })
  | 0x18E => inG.and ((chkScalar 126 v.vd.toNat).and { combo := ordAgainst 1 v })
  | 0x18F => inG.and (d.and (x.and { combo := ordAgainst 1 v }))
  | 0x190 => inG.and (x.and { combo := ordAgainst 2 v })
  | 0x191 => (chkScalar 125 v.vd.toNat).and x
  | 0x192 => inG.and (d.and { combo := ordAgainst 2 v })
  | 0x12A | 0x12C => inG.and (d.and x)
  | _ => inG.and d

/-! ## Matrix (R222, R229, R242) -/

/-- The K of a format pair (R222); 0 for a reserved pair. -/
def matrixK (a b : Nat) : Nat :=
  if (a = 11 || a = 12) && (b = 11 || b = 12) then 256
  else if a = 13 && b = 13 then 512
  else if (a = 9 && b = 9) || (a = 10 && b = 10) then 128
  else if a = 8 && b = 8 then 64
  else 0

/-- Run length of a member's B share in registers (R224, R225). -/
def runLength (crew width : Nat) (e2m1 twin : Bool) : Nat :=
  ceilDiv 16384 (4 * crew * width) * (if e2m1 then 2 else 1) * (if twin then 2 else 1)

/-- Class 2. -/
def chkMatrix (s : State) (t : Team) (op : Nat) (v : VFields) : Chk :=
  let h := s.header t
  let absent : Chk := { matrix := hNomatrix h }
  let crew : Chk := { operand := hCrew h == 0 }
  let mul : Chk :=
    let e2 := v.fmt == 13
    { operand := decide (383 < v.va.toNat) || (e2 && decide (v.va.toNat % 2 = 1))
      combo := matrixK v.fmt.toNat (srcFmt v) == 0 || (e2 && !s.feature 1)
      runs := if hCrew h = 0 then [] else [(v.va.toNat, runLength (hCrew h) t.width e2 (op == 0x1C3))] }
  match op with
  | 0x1C0 => (segPriv s t (mSeg v)).and (absent.and (crew.and
      { operand := mSeg v != 1 || !(v.va == 448) }))
  | 0x1C1 => absent
  | 0x1C2 => absent.and (crew.and mul)
  | 0x1C3 => absent.and (crew.and (mul.and
      { operand := decide (v.vd.toNat % 2 = 1) || !hTwin h || decide (coreOf t.tid % 2 = 1) }))
  | 0x1C4 => absent.and (crew.and (mul.and (chkScalar 127 v.vb.toNat)))
  | 0x1C5 =>
    let f := fmtF v
    absent.and ((chkFields f v .dst .src .none_ .none_).and
      { combo := !f.isSF
        operand := decide (t.width * f.perLane < 16 * 2 ^ (v.fn.toNat % 4)) })
  | 0x1C8 | 0x1CA => absent.and (crew.and { operand := !(decide (480 ≤ v.vd.toNat) && decide (v.vd.toNat < 496)) })
  | _ => absent.and crew

/-! ## Launch, debug and service instructions (R265 to R275) -/

/-- Class 4. -/
def chkControl (s : State) (t : Team) (op : Nat) (v : VFields) : Chk :=
  let dbg : Chk := { priv := !s.isDbg t }
  let sup : Chk := { priv := !s.isSup t }
  let d := chkScalar 127 v.vd.toNat
  let a := chkScalar 127 v.va.toNat
  let b := chkScalar 127 v.vb.toNat
  let c := chkScalar 127 v.vc.toNat
  let d2 := chkScalar 126 v.vd.toNat
  match op with
  | 0x241 | 0x242 => d
  | 0x280 => d.and (a.and b)
  | 0x281 => d.and (a.and (b.and c))
  | 0x288 | 0x28C | 0x28F => dbg.and (d.and (a.and b))
  | 0x289 => dbg.and (d2.and a)
  | 0x28A => dbg.and (d2.and (a.and b))
  | 0x28B => dbg.and (d.and (a.and (b.and c)))
  | 0x28D | 0x28E => dbg.and (d.and a)
  | 0x290 | 0x293 => sup.and d
  | 0x291 => sup.and (a.and (b.and c))
  | 0x292 => sup.and a
  | _ => {}

/-! ## All opcodes -/

/-- A feature that has not been accepted leaves the opcode unassigned (R404). R404 lists no opcode for bit 7 (weirs):
the model takes WSET and WGET alone. Log entry 85. -/
def featureGone (s : State) (op : Nat) : Bool :=
  (op == 0x1C4 && !s.feature 2) || ((op == 0x124 || op == 0x125) && !s.feature 4) || (op == 0x126 && !s.feature 5)
    || (decide (0x128 ≤ op) && decide (op ≤ 0x12C) && !s.feature 6) || ((op == 0x288 || op == 0x289) && !s.feature 7)

/-- The checks of a V-format or L-format instruction, orders 2 to 6. -/
def chkV (s : State) (t : Team) (op : Nat) (v : VFields) : Chk :=
  if op = 0x0F0 then chkScalar 127 v.vd.toNat
  else if 0x048 ≤ op ∧ op ≤ 0x04A then chkConvert s op v
  else if 0x050 ≤ op ∧ op ≤ 0x054 then chkReduce t op v
  else if op < 0x100 then chkElem s t op v
  else if op = 0x110 ∨ op = 0x111 then chkCopy op v
  else if op = 0x112 ∨ op = 0x114 then {}
  else if op < 0x120 then chkMemory s t op v
  else if op ≤ 0x122 then chkGleaner s t op v
  else if op ≤ 0x129 then chkEngine s op v
  else if op < 0x1C0 then chkSync s t op v
  else if op < 0x200 then chkMatrix s t op v
  else if op < 0x240 then chkElem s t op v
  else chkControl s t op v

/-- The trap that the checks of R103 give a V-format or L-format instruction of a team, if any. -/
def checkV (s : State) (t : Team) (op : Nat) (v : VFields) : Option Nat :=
  if featureGone s op then some cOpcode else (chkV s t op v).cause t.regs

/-- The trap of an S-format instruction's orders 2 and 4 (R103): its privilege and operand findings. -/
def checkS (priv operand : Bool) : Option Nat :=
  if priv then some cPrivilege else if operand then some cOperand else none

end Sys2Proof.Machine
end

