-- ==== Sys2Proof/Machine/Flags.lean ====
section
/-! DEFINITION. Flags: the numeric flags that instructions raise into FSR (R64, R65, R126) and the completion flags that long-latency operations hold (R83, R113). -/

namespace Sys2Proof.Machine

/-- The union of the flags that elements raise (R65). -/
def orFlags (fs : List (BitVec 8)) : BitVec 8 := fs.foldl (fun a f => a ||| f) 0

/-- Raise flags in a team's FSR: FSR keeps what it holds (R64, R126). -/
def Team.raise (t : Team) (fl : BitVec 8) : Team := { t with fsr := t.fsr ||| fl }

/-- Set or clear the software bit of every flag named in a mask (R150). -/
def Team.setSoft (t : Team) (mask : Nat) (v : Bool) : Team :=
  (List.range 12).foldl (fun u n => if bit mask n then u.modFlag n (fun f => { f with soft := v }) else u) t

end Sys2Proof.Machine
end

