-- ==== Sys2Proof/Machine/Quant.lean ====
section
/-! DEFINITION. Block quantisation: the e2m1 quantiser of R52 and the scales of R174. -/

namespace Sys2Proof.Machine

/-- A quantised block: the scale byte, the special byte, a code for each element and the flags each raises; flags
of the block as a whole (QO) stand apart. -/
structure QBlock where
  scale : Nat
  special : Nat := 0
  codes : List Nat
  flags : List (BitVec 8)
  block : BitVec 8 := 0
  deriving DecidableEq, Repr

/-- The finite magnitudes among values, as pairs of mantissa and exponent. -/
def finiteMags (xs : List Val) : List (Nat × Int) :=
  xs.filterMap fun v => match v with | .fin _ m e => some (m, e) | _ => none

/-- ⌊log₂⌋ of the largest nonzero finite magnitude, if there is one. -/
def topLog (xs : List Val) : Option Int :=
  (finiteMags xs).foldl (fun acc p =>
    if p.1 = 0 then acc
    else
      let t := (Nat.log2 p.1 : Int) + p.2
      match acc with | none => some t | some a => some (max a t)) none

/-- The scale byte of a block and the flag QO (R52, R174); Emax is the destination's. -/
def blockScale (emax : Int) (xs : List Val) : Nat × BitVec 8 :=
  if xs.all Val.isAbsent then (0xFF, 0)
  else match topLog xs with
    | none => (0, 0)
    | some t =>
      let s := t - emax + 127
      if 254 < s then (254, fQO) else (s.toNat, 0)

/-- A value divided by 2^(S − 127). -/
def unscale (S : Nat) : Val → Val
  | .fin n m e => .fin n m (e - (S : Int) + 127)
  | v => v

/-- Twice the magnitudes of the e2m1 grid with the midpoints between them, four times as large: code i and i + 1
meet at the i-th of these eighths (R52). -/
def gridMids : List Nat := [2, 6, 10, 14, 20, 28, 40]

/-- A finite value as an integer multiple of 2^q, q at most its exponent. -/
def atScale (q : Int) (v : Val) : Int := scaled q v

/-- The grid code nearest to a value given in units of 2^q, q ≤ −3: ties go to an even code; zero is 0b0000
(R52). -/
def gridCode (q : Int) (y : Int) : Nat :=
  let u := 2 ^ (-3 - q).toNat
  let a := y.natAbs
  let c := ((List.range 7).filter fun i =>
    let m := gridMids.getD i 0 * u
    decide (m < a) || (decide (m = a) && i % 2 == 1)).length
  if c = 0 then 0 else c + (if y < 0 then 8 else 0)

/-- The value of a grid code in units of 2^q, q ≤ −1. -/
def gridValue (q : Int) (c : Nat) : Int :=
  (if bit c 3 then -1 else 1) * ((e2m1Mag2 c : Int) * 2 ^ (-1 - q).toNat)

/-- The extra value of a special byte k with bit 7 clear, in units of 2^q, q ≤ −6 (R50). -/
def extraValue (q : Int) (k : Nat) : Int :=
  (if bit k 6 then -1 else 1) * (((8 + k % 8 : Nat) : Int) * 2 ^ ((bits k 5 3 : Int) - 6 - q).toNat)

/-- The squared distance of y to the nearer of its grid value and an extra value (R52). -/
def nearDist (q : Int) (k : Option Nat) (y : Int) : Nat :=
  let d := (y - gridValue q (gridCode q y)).natAbs
  let d := match k with | none => d | some k => min d (y - extraValue q k).natAbs
  d * d

/-- Σ of squared distances (R52): E(k), or E0 without an extra value. -/
def sumDist (q : Int) (ys : List Int) (k : Option Nat) : Nat := ys.foldl (fun a y => a + nearDist q k y) 0

/-- The e2m1 quantiser (R52), its sets and sums ranging over the values given. Log entry 13. -/
def quantE2M1 (xs : List Val) : QBlock :=
  let (S, qo) := blockScale 2 xs
  if S = 0xFF then
    { scale := S, special := 0x80, codes := xs.map fun _ => 8, flags := xs.map fun _ => 0 }
  else
    let ys := xs.map (unscale S)
    let q := minExp ys (-6)
    let fin := (ys.filter fun v => match v with | .fin _ _ _ => true | _ => false).map (scaled q)
    let anyAbsent := xs.any Val.isAbsent
    let e0 := sumDist q fin none
    let best := (List.range 128).foldl (fun (b : Nat × Nat) k =>
      let e := sumDist q fin (some k)
      if e < b.1 then (e, k) else b) (sumDist q fin (some 0), 0)
    let special := if anyAbsent then 0x80 else if best.1 < e0 then best.2 else 0
    let useExtra := !anyAbsent && decide (best.1 < e0)
    let codeOf := fun (v : Val) =>
      match v with
      | .absent => 8
      | .nan => 0
      | .inf n => if n then 15 else 7
      | y =>
        let z := scaled q y
        let c := gridCode q z
        if useExtra && decide ((z - extraValue q special).natAbs < (z - gridValue q c).natAbs) then 8 else c
    let maxMag := fun (n : Bool) =>
      let six := 6 * 2 ^ (-q).toNat
      if useExtra && bit special 6 == n then max six (extraValue q special).natAbs else six
    let flagOf := fun (v : Val) =>
      match v with
      | .absent => (0 : BitVec 8)
      | .nan => fIV
      | .inf _ => fSAT ||| fIX
      | y =>
        let z := scaled q y
        let c := codeOf y
        let d := if useExtra && c = 8 then extraValue q special else gridValue q c
        (if maxMag (decide (z < 0)) < z.natAbs then fSAT else 0) ||| (if d ≠ z then fIX else 0)
    { scale := S, special, codes := ys.map codeOf, flags := ys.map flagOf, block := qo }

/-- The scale exponent that R174 takes from a destination format. -/
def quantEmax (d : Fmt) : Int :=
  match d with
  | .e4m3 => 8 | .e5m2 => 15 | .s8 => 6 | _ => 2

/-- One element quantised under a scale S other than 0xFF (R174), in a format other than e2m1. -/
def quantElem (d : Fmt) (mode : Mode) (sat : Bool) (S : Nat) (x : Val) : Nat × BitVec 8 :=
  if d.isFloat then roundVal d mode sat (unscale S x)
  else
    match unscale S x with
    | .absent => (d.absent, 0)
    | .nan => (0, fIV)
    | .inf n => (wrap d.width (if n then d.minInt else d.maxInt), fSAT)
    | .fin n m e =>
      let (z, ix) := roundToInt mode n m e
      let fx := if ix then fIX else 0
      if d.maxInt < z then (wrap d.width d.maxInt, fSAT ||| fIX)
      else if z < d.minInt then (wrap d.width d.minInt, fSAT ||| fIX)
      else (wrap d.width z, fx)

/-- A value times 2^(S − 127). -/
def rescale (S : Nat) : Val → Val
  | .fin n m e => .fin n m (e + (S : Int) - 127)
  | v => v

/-- Decode(q) (R174): the value that an element of a block stands for. -/
def decodeElem (d : Fmt) (S P : Nat) (x : Nat) : Val :=
  if d == .e2m1 then e2m1Val x S P
  else if S = 0xFF then .absent
  else rescale S (valOf d x)

/-- x − y rounded to a format, without flags: the residual of R174. -/
def residual (f : Fmt) (mode : Mode) (sat : Bool) (x y : Val) : Nat :=
  match x, y with
  | .absent, _ | _, .absent => f.absent
  | x, y => (roundRes f mode sat (sumRes mode.down [.val x, .val (negVal y)])).1

end Sys2Proof.Machine
end

