-- ==== Sys2Proof/Machine/Vector.lean ====
section
/-! DEFINITION. How a vector instruction issues (R157 to R163), and the elements that every vector family shares: rounding modes and draws (R59 to R61, R72 to R74), and results by lane. -/

namespace Sys2Proof.Machine

/-! ## Issue of V-format and L-format instructions -/

/-- A register named by an instruction is still to be written by an older vector instruction, or MHAD is still to
read or write it (R157, R240). -/
def Team.blocked (t : Team) (runs : List (Nat × Nat)) : Bool :=
  let busy := (match t.datapath with | some d => d.dests | none => []) ++
    (match t.hadamard with | some d => d.dests ++ d.reads | none => [])
  runs.any fun r => busy.any fun b => decide (r.1 ≤ b) && decide (b < r.1 + r.2)

/-- A V-format or L-format instruction comes to issue: the checks of R103, then the register hold, then its
body. -/
def issueV (op : Nat) (f : VFields) (s : State) (body : State → Team → Team → State) :
    Host.Outcome State Fault Refusal :=
  issue s fun s t v =>
    match checkV s t op f with
    | some c => s.trap t c 0 0 0
    | none => if t.blocked (chkV s t op f).runs then s.holdAt t .register else body s t v

/-- Read source fields in order: what they give, and the state with queues popped and ports read, or why the
instruction must stop. -/
def readAll (s : State) (t : Team) : List Nat → (List Src × State × Team) ⊕ SrcStop
  | [] => .inl ([], s, t)
  | c :: cs =>
    match readSrc s t c with
    | .inr e => .inr e
    | .inl (x, s1, t1) =>
      match readAll s1 t1 cs with
      | .inr e => .inr e
      | .inl (xs, s2, t2) => .inl (x :: xs, s2, t2)

/-- An operand stops the instruction: a trap ILLEGAL_OPERAND, a hold, or a park (R117, R118, R321). -/
def State.operandStop (s : State) (t : Team) (e : SrcStop) : State :=
  match e with
  | .illegal => s.illegal t
  | .hold h r => s.holdOrRetry t h r

/-! ## Results -/

/-- What a vector instruction computes over some lanes: slices written, the flags of each lane's elements, draws
taken by lane, and scalar registers written. -/
structure VOut where
  writes : List LaneWrite := []
  /-- Slices of count registers, 32 bits each whatever the result's format (R178, R179). -/
  counts : List LaneWrite := []
  flags : List (Nat × List (BitVec 8)) := []
  draws : List (Nat × Nat) := []
  scalars : List (Nat × Dword) := []
  deriving DecidableEq, Repr

/-- Join the results of lanes. -/
def joinOut (os : List VOut) : VOut where
  writes := os.flatMap VOut.writes
  counts := os.flatMap VOut.counts
  flags := os.flatMap VOut.flags
  draws := os.flatMap VOut.draws
  scalars := os.flatMap VOut.scalars

/-- KIND 3 events (R358): each register written, or each pair of a 64-bit element. -/
def resultEvents (pair : Bool) (ws : List LaneWrite) : List LaneEvent :=
  ws.filterMap fun w =>
    if 384 ≤ w.reg then none
    else if pair then
      if w.reg % 2 = 0 then
        let hi := match ws.find? fun x => x.reg == w.reg + 1 && x.lane == w.lane with
          | some x => x.val.toNat | none => 0
        some { lane := w.lane, value := w.val.toNat + hi * 2 ^ 32, bits := 64 }
      else none
    else some { lane := w.lane, value := w.val.toNat, bits := 32 }

/-- The weir events of a vector instruction's results: KIND 3 and 4 (R358). -/
def VOut.events (o : VOut) (pair : Bool) : Events where
  results := resultEvents pair o.writes ++ resultEvents false o.counts
  raised := o.flags.filterMap fun p =>
    if p.2.all (fun x => x == 0) then none else some { lane := p.1, flags := p.2 }

/-- The draws of an instruction, taken (R72, R74). -/
def Team.drew (t : Team) (ds : List (Nat × Nat)) : Team :=
  { t with ctr := ds.foldl (fun c d => if d.2 = 0 then c else spWrite 0 c d.1 (spRead 0 c d.1 + dw d.2)) t.ctr }

/-- Passes that have an active lane (R157). -/
def passes (lanes : List Nat) : Nat := (distinct (lanes.map fun l => l / 32)).length

/-- A word of a source register that an active lane reads is poisoned (R393). -/
def State.readsPoison (s : State) (t : Team) (regs lanes : List Nat) : Bool :=
  match s.plot? t.plot with
  | none => false
  | some p => p.poison.any fun u =>
    match u with
    | .reg h r l => h == t.tid && regs.contains r && lanes.contains l
    | _ => false

/-- Containment of a team that read a poisoned pool word; the notice's address is a free value, since a pool word
has no physical address (R393). -/
def State.containPool (s : State) (t : Team) : State :=
  let (a, s) := s.drawFree
  s.contain t 8 (a.toNat % 2 ^ 52) t.insnPc t.issueNo

/-- The shape of a vector instruction: source codes, the registers it reads in each active lane, its cycles per
pass and after the last, and whether its results are pairs. -/
structure VShape where
  sources : List Nat
  reads : List Nat
  anyLane : Bool := false
  perPass : Nat
  tail : Nat := 0
  pair : Bool := false
  weirs : Bool := true
  /-- The transform stage, not the datapath entry (R240). -/
  stage : Bool := false
  deriving DecidableEq, Repr

/-- The entries that an instruction pushes to the queues among its destinations, in field order (R161); the k-th
destination that names a queue takes the k-th result for it in each active lane. -/
def pushesOf (t : Team) (lanes : List Nat) (ws : List LaneWrite) (dsts : List Nat) : List (Nat × List Word) :=
  dsts.zipIdx.filterMap fun d =>
    if d.1 < 384 then none
    else
      let mine := fun (l : Nat) => ws.filter fun w => w.reg == d.1 && w.lane == l
      some (d.1, queueEntry t lanes fun l =>
        (((mine l)[(dsts.take d.2).count d.1]?).map LaneWrite.val).getD 0)

/-- The results go into the datapath entry, which DATAPATH_LAST_PASS empties (R157, R158, R333); flags and draws
take effect now (R126). -/
def finishV (sh : VShape) (dsts : List Nat) (lanes : List Nat) (o : VOut) (s : State) (t : Team) : State :=
  let ws := o.writes ++ o.counts
  let regs := ws.filter fun w => decide (w.reg < 384)
  let d : Datapath :=
    { writes := regs, scalars := o.scalars, pushes := pushesOf t lanes ws dsts, reads := sh.reads, dests := distinct (regs.map LaneWrite.reg)
      readyAt := s.now t + sh.perPass * passes lanes + sh.tail }
  let t := (t.drew o.draws).raise (orFlags (o.flags.flatMap fun p => p.2))
  s.retire (if sh.stage then { t with hadamard := some d } else { t with datapath := some d })

/-- Push an entry to a queue register (R117, R161). -/
def Team.pushQueue (t : Team) (p : Nat × List Word) : Team :=
  { t with queues := updFirst (fun q => q.code == p.1) (fun q => { q with entries := q.entries ++ [p.2] }) t.queues }

/-- A vector instruction, its checks made: sources read, destination ready, results computed over the active lanes
under the weirs; dsts are the vector destination fields that are written. With no lane active it takes no pass, but queues act and scalars are written (R161, R162,
R180). Log entry 76. -/
def runV (sh : VShape) (dsts : List Nat) (compute : State → Team → List Src → List Nat → VOut) (s : State) (t v : Team) :
    State :=
  if !sh.stage && t.datapath.isSome then s.holdAt t .datapath
  else if sh.stage && t.hadamard.isSome then s.holdAt t .datapath
  else
    match readAll s t sh.sources with
    | .inr e => s.operandStop t e
    | .inl (srcs, s1, t1) =>
      match dstsStop t dsts with
      | some e => s.operandStop t e
      | none =>
        let lanes := v.lanes
        if lanes.isEmpty then
          let o := compute s1 v srcs []
          s1.retireS ((pushesOf t [] [] dsts).foldl Team.pushQueue t1) (o.scalars.map fun w => (BitVec.ofNat 7 w.1, w.2))
        else if s.readsPoison t sh.reads (if sh.anyLane then List.range t.width else lanes) then s.containPool t
        else
          underWeirs s t (if sh.weirs then [3, 4] else []) lanes
            (fun ls => (compute s v srcs ls).events sh.pair)
            (fun ls s2 t2 =>
              match readAll s2 t2 sh.sources with
              | .inl (_, s3, t3) => finishV sh dsts ls (compute s v srcs ls) s3 t3
              | .inr e => s2.operandStop t2 e)

/-! ## Rounding and draws -/

/-- Mix (R73). -/
def mixRound (key : Nat) (rot : Nat) (p : Nat × Nat) : Nat × Nat :=
  let m := 2 ^ 64
  let rotl := fun (v n : Nat) => (v <<< n ||| v >>> (64 - n)) % m
  let x := rotl ((p.1 + p.2) % m) rot ^^^ key
  let y := (p.2 + x + 0x4B7D19E2A05C36F1) % m
  (x, rotl y (rot + 5) ^^^ x)

/-- Mix(key, id, ctr) (R73). -/
def mix (key id ctr : Nat) : Nat :=
  let r := [17, 29, 41, 11].foldl (fun p rot => mixRound key rot p) (ctr ^^^ 0x8F3A61C52E97D40B, id ^^^ key)
  r.1 ^^^ ((r.2 <<< 32 ||| r.2 >>> 32) % 2 ^ 64)

/-- The i-th draw from now of a lane (R72). -/
def drawAt (s : State) (t : Team) (lane i : Nat) : Nat :=
  mix t.key.toNat (s.workId t lane % 2 ^ 64) (((t.getCtr lane).toNat + i) % 2 ^ 64)

/-- The rounding code in force (R59, R60). -/
def roundCode (t : Team) (f : VFields) : Nat := if modRound f = 0 then t.rmode.toNat else modRound f

/-- The mode of element i of a lane; under RSR it takes the lane's i-th draw (R61). -/
def elemMode (s : State) (t : Team) (f : VFields) (lane i : Nat) : Mode :=
  let c := roundCode t f
  modeOf c (if c = 5 then drawAt s t lane i % 2 ^ 32 else 0)

/-- Draws that an instruction of n elements per lane takes in a lane (R61). -/
def rsrDraws (t : Team) (f : VFields) (n : Nat) : Nat := if roundCode t f = 5 then n else 0

/-! ## Element-wise instructions -/

/-- Registers that vector sources of an element opcode read (R160): each field's run under its role. -/
def sourceRegs (op : Nat) (f : VFields) : List Nat :=
  let r := elemRoles op f
  let F := fmtF f
  let of := fun (role : Role) (code : Nat) =>
    match role with
    | .src => if code < 384 then (List.range F.regs).map fun i => code + i else []
    | .word | .truth => if code < 384 then [code] else []
    | _ => []
  of r.2.1 f.va.toNat ++ of r.2.2.1 f.vb.toNat ++ of r.2.2.2 f.vc.toNat
    ++ (if op = 0x02F then of .src f.vd.toNat else [])

/-- Source codes of an element opcode, in field order. -/
def sourceCodes (op : Nat) (f : VFields) : List Nat :=
  let r := elemRoles op f
  let is := fun (role : Role) => match role with | .src | .word | .truth => true | _ => false
  (if is r.2.1 then [f.va.toNat] else []) ++ (if is r.2.2.1 then [f.vb.toNat] else [])
    ++ (if is r.2.2.2 then [f.vc.toNat] else [])

/-- Cycles per pass (R158). -/
def passCycles (op : Nat) (f : VFields) : Nat :=
  if (fmtF f).width = 64 then 4
  else if 0x200 ≤ op ∨ op = 0x002 ∨ op = 0x032 then 2
  else 1

/-- The shape of an element opcode. -/
def elemShape (op : Nat) (f : VFields) (pair : Bool) : VShape where
  sources := sourceCodes op f
  reads := sourceRegs op f
  anyLane := op == 0x002 || op == 0x031 || op == 0x032
  perPass := passCycles op f
  tail := if op = 0x004 ∨ op = 0x04B then 6 else 0
  pair := pair

/-- Slices written at consecutive registers. -/
def wordsAt (vd lane : Nat) (ws : List Word) : List LaneWrite :=
  ws.zipIdx.map fun p => { reg := vd + p.2, lane, val := p.1 }

/-- Results of elements of a format, packed into the destination (R45). -/
def packOut (F : Fmt) (vd lane : Nat) (draws : Nat) (rs : List (Nat × BitVec 8)) : VOut where
  writes := wordsAt vd lane (packElems F (rs.map Prod.fst))
  flags := [(lane, rs.map Prod.snd)]
  draws := [(lane, draws)]

/-- An instruction that computes each element from the elements of its sources at the same place. -/
def mapElems (op : Nat) (f : VFields) (rounds : Bool)
    (g : Mode → List Nat → Nat × BitVec 8) (s : State) : Host.Outcome State Fault Refusal :=
  let F := fmtF f
  let E := F.perLane
  issueV op f s (runV (elemShape op f F.wide) [f.vd.toNat] fun s v srcs lanes =>
    joinOut (lanes.map fun l =>
      packOut F f.vd.toNat l (if rounds then rsrDraws v f E else 0)
        ((List.range E).map fun j =>
          g (if rounds then elemMode s v f l j else .rne) (srcs.map fun x => x.elem s v (litNat f) F l j))))

/-- An instruction that writes whole slices, or one truth, in each lane. -/
def mapSlices (op : Nat) (f : VFields) (g : State → Team → List Src → List Nat → Nat → List Word) (s : State) :
    Host.Outcome State Fault Refusal :=
  issueV op f s (runV (elemShape op f (fmtF f).wide) [f.vd.toNat] fun s v srcs lanes =>
    joinOut (lanes.map fun l => { writes := wordsAt f.vd.toNat l (g s v srcs lanes l) }))

end Sys2Proof.Machine
end

