-- ==== Sys2Proof/Machine/Scalar.lean ====
section
/-! DEFINITION. Scalar instructions (R130 to R143), the mask instructions MPOP, MFIRST and MELECT (R145), and SGET and SSET (R119 to R126). -/

namespace Sys2Proof.Machine

/-! ## Results written to one scalar register -/

/-- A scalar instruction that writes s[SD] from the team's registers (R130, R131). -/
def scalarOp (d : BitVec 7) (g : Team → Dword) (s : State) : Host.Outcome State Fault Refusal :=
  issue s fun s t v => s.retireS t [(d, g v)]

/-- A scalar register by its field. -/
def Team.reg (t : Team) (r : BitVec 7) : Dword := t.getS r.toNat

/-- An 8-bit immediate, sign-extended (R132). -/
def imm (i : BitVec 8) : Dword := i.signExtend 64

/-- The high 64 bits of the signed product (R133). -/
def mulHigh (a b : Dword) : Dword := BitVec.ofInt 64 (a.toInt * b.toInt / 2 ^ 64)

/-- The signed smaller (R133). -/
def smaller (a b : Dword) : Dword := if b.toInt < a.toInt then b else a
/-- The signed larger (R133). -/
def larger (a b : Dword) : Dword := if a.toInt < b.toInt then b else a

/-- SADD, register form (R133). -/
def execSaddReg (d a b : BitVec 7) (s : State) : Host.Outcome State Fault Refusal :=
  scalarOp d (fun v => v.reg a + v.reg b) s
/-- SADD, immediate form (R133). -/
def execSaddImm (d a : BitVec 7) (i : BitVec 8) (s : State) : Host.Outcome State Fault Refusal :=
  scalarOp d (fun v => v.reg a + imm i) s
/-- SSUB, register form (R133). -/
def execSsubReg (d a b : BitVec 7) (s : State) : Host.Outcome State Fault Refusal :=
  scalarOp d (fun v => v.reg a - v.reg b) s
/-- SSUB, immediate form (R133). -/
def execSsubImm (d a : BitVec 7) (i : BitVec 8) (s : State) : Host.Outcome State Fault Refusal :=
  scalarOp d (fun v => v.reg a - imm i) s
/-- SMUL, register form (R133). -/
def execSmulReg (d a b : BitVec 7) (s : State) : Host.Outcome State Fault Refusal :=
  scalarOp d (fun v => v.reg a * v.reg b) s
/-- SMUL, immediate form (R133). -/
def execSmulImm (d a : BitVec 7) (i : BitVec 8) (s : State) : Host.Outcome State Fault Refusal :=
  scalarOp d (fun v => v.reg a * imm i) s
/-- SMULH, register form (R133). -/
def execSmulhReg (d a b : BitVec 7) (s : State) : Host.Outcome State Fault Refusal :=
  scalarOp d (fun v => mulHigh (v.reg a) (v.reg b)) s
/-- SMULH, immediate form (R133). -/
def execSmulhImm (d a : BitVec 7) (i : BitVec 8) (s : State) : Host.Outcome State Fault Refusal :=
  scalarOp d (fun v => mulHigh (v.reg a) (imm i)) s
/-- SAND, register form (R133). -/
def execSandReg (d a b : BitVec 7) (s : State) : Host.Outcome State Fault Refusal :=
  scalarOp d (fun v => v.reg a &&& v.reg b) s
/-- SAND, immediate form (R133). -/
def execSandImm (d a : BitVec 7) (i : BitVec 8) (s : State) : Host.Outcome State Fault Refusal :=
  scalarOp d (fun v => v.reg a &&& imm i) s
/-- SOR, register form (R133). -/
def execSorReg (d a b : BitVec 7) (s : State) : Host.Outcome State Fault Refusal :=
  scalarOp d (fun v => v.reg a ||| v.reg b) s
/-- SOR, immediate form (R133). -/
def execSorImm (d a : BitVec 7) (i : BitVec 8) (s : State) : Host.Outcome State Fault Refusal :=
  scalarOp d (fun v => v.reg a ||| imm i) s
/-- SXOR, register form (R133). -/
def execSxorReg (d a b : BitVec 7) (s : State) : Host.Outcome State Fault Refusal :=
  scalarOp d (fun v => v.reg a ^^^ v.reg b) s
/-- SXOR, immediate form (R133). -/
def execSxorImm (d a : BitVec 7) (i : BitVec 8) (s : State) : Host.Outcome State Fault Refusal :=
  scalarOp d (fun v => v.reg a ^^^ imm i) s
/-- SANDN, register form (R133). -/
def execSandnReg (d a b : BitVec 7) (s : State) : Host.Outcome State Fault Refusal :=
  scalarOp d (fun v => v.reg a &&& ~~~(v.reg b)) s
/-- SANDN, immediate form (R133). -/
def execSandnImm (d a : BitVec 7) (i : BitVec 8) (s : State) : Host.Outcome State Fault Refusal :=
  scalarOp d (fun v => v.reg a &&& ~~~(imm i)) s

/-- A shift amount in a register: bits [5:0] (R136). -/
def amount (b : Dword) : Nat := b.toNat % 64

/-- SSHL, register form (R136). -/
def execSshlReg (d a b : BitVec 7) (s : State) : Host.Outcome State Fault Refusal :=
  scalarOp d (fun v => v.reg a <<< amount (v.reg b)) s
/-- SSHL, immediate form (R136). -/
def execSshlImm (d a : BitVec 7) (n : BitVec 6) (s : State) : Host.Outcome State Fault Refusal :=
  scalarOp d (fun v => v.reg a <<< n.toNat) s
/-- SSHR, register form (R136). -/
def execSshrReg (d a b : BitVec 7) (s : State) : Host.Outcome State Fault Refusal :=
  scalarOp d (fun v => v.reg a >>> amount (v.reg b)) s
/-- SSHR, immediate form (R136). -/
def execSshrImm (d a : BitVec 7) (n : BitVec 6) (s : State) : Host.Outcome State Fault Refusal :=
  scalarOp d (fun v => v.reg a >>> n.toNat) s
/-- SSAR, register form (R136). -/
def execSsarReg (d a b : BitVec 7) (s : State) : Host.Outcome State Fault Refusal :=
  scalarOp d (fun v => (v.reg a).sshiftRight (amount (v.reg b))) s
/-- SSAR, immediate form (R136). -/
def execSsarImm (d a : BitVec 7) (n : BitVec 6) (s : State) : Host.Outcome State Fault Refusal :=
  scalarOp d (fun v => (v.reg a).sshiftRight n.toNat) s
/-- SROL, register form (R136). -/
def execSrolReg (d a b : BitVec 7) (s : State) : Host.Outcome State Fault Refusal :=
  scalarOp d (fun v => (v.reg a).rotateLeft (amount (v.reg b))) s
/-- SROL, immediate form (R136). -/
def execSrolImm (d a : BitVec 7) (n : BitVec 6) (s : State) : Host.Outcome State Fault Refusal :=
  scalarOp d (fun v => (v.reg a).rotateLeft n.toNat) s

/-- SMIN, register form (R133). -/
def execSminReg (d a b : BitVec 7) (s : State) : Host.Outcome State Fault Refusal :=
  scalarOp d (fun v => smaller (v.reg a) (v.reg b)) s
/-- SMIN, immediate form (R133). -/
def execSminImm (d a : BitVec 7) (i : BitVec 8) (s : State) : Host.Outcome State Fault Refusal :=
  scalarOp d (fun v => smaller (v.reg a) (imm i)) s
/-- SMAX, register form (R133). -/
def execSmaxReg (d a b : BitVec 7) (s : State) : Host.Outcome State Fault Refusal :=
  scalarOp d (fun v => larger (v.reg a) (v.reg b)) s
/-- SMAX, immediate form (R133). -/
def execSmaxImm (d a : BitVec 7) (i : BitVec 8) (s : State) : Host.Outcome State Fault Refusal :=
  scalarOp d (fun v => larger (v.reg a) (imm i)) s

/-- The three-way compare's value (R139). -/
def threeWay (lt eq : Bool) : Dword := if lt then 0xFFFFFFFFFFFFFFFF#64 else if eq then 0 else 1

/-- The signed three-way compare (R139). -/
def cmpSigned (a b : Dword) : Dword := threeWay (decide (a.toInt < b.toInt)) (a == b)
/-- The unsigned three-way compare (R139). -/
def cmpUnsigned (a b : Dword) : Dword := threeWay (decide (a.toNat < b.toNat)) (a == b)

/-- SCMP, register form (R139). -/
def execScmpReg (d a b : BitVec 7) (s : State) : Host.Outcome State Fault Refusal :=
  scalarOp d (fun v => cmpSigned (v.reg a) (v.reg b)) s
/-- SCMP, immediate form (R139). -/
def execScmpImm (d a : BitVec 7) (i : BitVec 8) (s : State) : Host.Outcome State Fault Refusal :=
  scalarOp d (fun v => cmpSigned (v.reg a) (imm i)) s
/-- SCMP.u, register form (R139). -/
def execScmpUReg (d a b : BitVec 7) (s : State) : Host.Outcome State Fault Refusal :=
  scalarOp d (fun v => cmpUnsigned (v.reg a) (v.reg b)) s
/-- SCMP.u, immediate form (R139). -/
def execScmpUImm (d a : BitVec 7) (i : BitVec 8) (s : State) : Host.Outcome State Fault Refusal :=
  scalarOp d (fun v => cmpUnsigned (v.reg a) (imm i)) s

/-- SSEL, register form (R140). -/
def execSselReg (d a b : BitVec 7) (s : State) : Host.Outcome State Fault Refusal :=
  scalarOp d (fun v => if v.reg d ≠ 0 then v.reg a else v.reg b) s
/-- SSEL, immediate form (R140). -/
def execSselImm (d a : BitVec 7) (i : BitVec 8) (s : State) : Host.Outcome State Fault Refusal :=
  scalarOp d (fun v => if v.reg d ≠ 0 then v.reg a else imm i) s

/-- SLEA.1 (R135). -/
def execSlea1 (d a b : BitVec 7) (s : State) : Host.Outcome State Fault Refusal :=
  scalarOp d (fun v => v.reg a + v.reg b) s
/-- SLEA.2 (R135). -/
def execSlea2 (d a b : BitVec 7) (s : State) : Host.Outcome State Fault Refusal :=
  scalarOp d (fun v => v.reg a + v.reg b * 2) s
/-- SLEA.4 (R135). -/
def execSlea4 (d a b : BitVec 7) (s : State) : Host.Outcome State Fault Refusal :=
  scalarOp d (fun v => v.reg a + v.reg b * 4) s
/-- SLEA.8 (R135). -/
def execSlea8 (d a b : BitVec 7) (s : State) : Host.Outcome State Fault Refusal :=
  scalarOp d (fun v => v.reg a + v.reg b * 8) s
/-- SLEA.16 (R135). -/
def execSlea16 (d a b : BitVec 7) (s : State) : Host.Outcome State Fault Refusal :=
  scalarOp d (fun v => v.reg a + v.reg b * 16) s

/-- SCLZ (R137). -/
def execSclz (d a : BitVec 7) (s : State) : Host.Outcome State Fault Refusal :=
  scalarOp d (fun v => dw (clz 64 (v.reg a).toNat)) s
/-- SCTZ (R137). -/
def execSctz (d a : BitVec 7) (s : State) : Host.Outcome State Fault Refusal :=
  scalarOp d (fun v => dw (ctz 64 (v.reg a).toNat)) s
/-- SPOP (R137). -/
def execSpop (d a : BitVec 7) (s : State) : Host.Outcome State Fault Refusal :=
  scalarOp d (fun v => dw (popcount 64 (v.reg a).toNat)) s

/-- The length of the field that a descriptor names, cut at bit 63 (R138). -/
def bfLen (b : Dword) : Nat := min (dbits b 14 8) (64 - dbits b 5 0)

/-- The field extracted (R138). -/
def bfExtract (a b : Dword) : Dword :=
  let n := bfLen b
  let x := a.toNat / 2 ^ dbits b 5 0 % 2 ^ n
  if dbits b 15 15 = 1 then dw (wrap 64 (signed n x)) else dw x

/-- The field inserted (R138). -/
def bfInsert (d a b : Dword) : Dword :=
  let m : Dword := dw (2 ^ bfLen b - 1) <<< dbits b 5 0
  (d &&& ~~~m) ||| ((a <<< dbits b 5 0) &&& m)

/-- SBFX (R138). -/
def execSbfx (d a b : BitVec 7) (s : State) : Host.Outcome State Fault Refusal :=
  scalarOp d (fun v => bfExtract (v.reg a) (v.reg b)) s
/-- SBFI (R138). -/
def execSbfi (d a b : BitVec 7) (s : State) : Host.Outcome State Fault Refusal :=
  scalarOp d (fun v => bfInsert (v.reg d) (v.reg a) (v.reg b)) s
/-- SMOV (R141). -/
def execSmov (d a : BitVec 7) (s : State) : Host.Outcome State Fault Refusal := scalarOp d (fun v => v.reg a) s
/-- SLI, short form (R141). -/
def execSli (d : BitVec 7) (i : BitVec 8) (s : State) : Host.Outcome State Fault Refusal :=
  scalarOp d (fun _ => imm i) s

/-- The long forms of SLI: VD is a scalar field (R141). -/
def longLoad (f : VFields) (g : Dword → Dword) (s : State) : Host.Outcome State Fault Refusal :=
  issueV 0x0F0 f s fun s t v => s.retireS t [(BitVec.ofNat 7 f.vd.toNat, g (v.getS f.vd.toNat))]

/-- SLI, long form (R141). -/
def execSliLong (f : VFields) (s : State) : Host.Outcome State Fault Refusal :=
  longLoad f (fun _ => sext 32 (litNat f)) s
/-- SLI.z (R141). -/
def execSliZ (f : VFields) (s : State) : Host.Outcome State Fault Refusal := longLoad f (fun _ => dw (litNat f)) s
/-- SLI.hi (R141). -/
def execSliHi (f : VFields) (s : State) : Host.Outcome State Fault Refusal :=
  longLoad f (fun x => dw (litNat f * 2 ^ 32 + x.toNat % 2 ^ 32)) s

/-! ## The divider (R131, R134) -/

/-- The quotient and the remainder that the divider gives (R134). -/
def quotient (a b : Dword) : Dword := if b = 0 then 0 else a.sdiv b
/-- The remainder (R134). -/
def remainder (a b : Dword) : Dword := if b = 0 then a else a.srem b

/-- Start a division: the partition's divider takes the operands, or the team is held while it works for another
team (R131, R334). -/
def divideOp (d : BitVec 7) (g : Team → Dword) (s : State) : Host.Outcome State Fault Refusal :=
  issue s fun s t v =>
    match spRead none (s.core (coreOf t.tid)).divides (partOf t.tid) with
    | some _ => s.holdAt t .divider
    | none =>
      let op : Divide := { tid := t.tid, d, result := g v, readyAt := s.now t + 24 }
      (s.modCore (coreOf t.tid) fun c => { c with divides := spWrite none c.divides (partOf t.tid) (some op) }).retire t

/-- SDIV, register form (R133). -/
def execSdivReg (d a b : BitVec 7) (s : State) : Host.Outcome State Fault Refusal :=
  divideOp d (fun v => quotient (v.reg a) (v.reg b)) s
/-- SDIV, immediate form (R133). -/
def execSdivImm (d a : BitVec 7) (i : BitVec 8) (s : State) : Host.Outcome State Fault Refusal :=
  divideOp d (fun v => quotient (v.reg a) (imm i)) s
/-- SREM, register form (R133). -/
def execSremReg (d a b : BitVec 7) (s : State) : Host.Outcome State Fault Refusal :=
  divideOp d (fun v => remainder (v.reg a) (v.reg b)) s
/-- SREM, immediate form (R133). -/
def execSremImm (d a : BitVec 7) (i : BitVec 8) (s : State) : Host.Outcome State Fault Refusal :=
  divideOp d (fun v => remainder (v.reg a) (imm i)) s

/-- The divider of a partition writes its result for a team, which goes on (R131). -/
def State.endDivide (s : State) (h : Handle) (core part : Nat) : State :=
  match spRead none (s.core core).divides part with
  | some op =>
    if op.tid == h then
      ((s.modCore core fun c => { c with divides := spWrite none c.divides part none }).noteWrites h true
        [(op.d.toNat, 0)]).modTeam h fun t => { t.setS op.d.toNat op.result with held := none }
    else s
  | none => s

/-- DIVIDER_RESULT (R131): after 24 cycles the divider of core arg.a and partition arg.b writes its result and its
team goes on. -/
def execDividerResult (s : State) : Host.Outcome State Fault Refusal :=
  .next (
    let c := s.core s.arg.a
    match spRead none c.divides s.arg.b with
    | none => s
    | some op =>
      if c.cyc < op.readyAt then s else s.endDivide op.tid s.arg.a s.arg.b)

/-! ## Identity, system registers and masks -/

/-- SWID (R142): field k of the team's work identifier, k from 1 to 5. -/
def execSwid (d : BitVec 7) (k : BitVec 8) (s : State) : Host.Outcome State Fault Refusal :=
  issue s fun s t _ =>
    if k.toNat = 0 ∨ 5 < k.toNat then s.trap t cOperand 0 0 0
    else
      let h := s.header t
      s.retireS t [(d, dw (s.workId t 0 / 2 ^ widOffset h k.toNat % 2 ^ hW h k.toNat))]

/-- TSTAT of a team (R120). Log entry 74. -/
def State.tstat (s : State) (t : Team) : Dword :=
  let h := s.header t
  let b := fun (x : Bool) (n : Nat) => if x then 2 ^ n else 0
  dw (t.estate.length % 512 * 2 ^ 32 + t.bereaved.toNat * 2 ^ 24 + t.preempts.toNat * 2 ^ 16 + b (hTwin h) 4
    + b (hGang h) 3 + b (hPstore h) 2 + b t.dbgp 1 + b (s.isSup t) 0)

/-- A system register of 64 bits as SGET reads it (R100, R119); none for HOLD and codes above 9. -/
def State.sysReg (s : State) (t : Team) (c : Nat) : Option Dword :=
  match c with
  | 0 => some (t.fsr.setWidth 64)
  | 1 => some (t.rmode.setWidth 64)
  | 2 => some (t.nbv.setWidth 64)
  | 3 => some (s.tstat t)
  | 4 => some (t.tid.setWidth 64)
  | 5 => some (dw (t.ctx * 2 ^ 32 + t.lid % 2 ^ 32))
  | 6 => some (dw (s.now t))
  | 7 => some t.key
  | 9 => some (t.dbg.setWidth 64)
  | _ => none

/-- SGET (R143, R124). -/
def execSget (d : BitVec 7) (c : BitVec 8) (s : State) : Host.Outcome State Fault Refusal :=
  issue s fun s t _ =>
    if c.toNat = 8 then
      if d.toNat % 16 = 0 ∧ d.toNat ≤ 112 then
        s.retireS t ((List.range 16).map fun i =>
          (BitVec.ofNat 7 (d.toNat + i), dw (t.hold.toNat / 2 ^ (64 * i))))
      else s.trap t cOperand 0 0 0
    else
      match s.sysReg t c.toNat with
      | some x => s.retireS t [(d, x)]
      | none => s.trap t cOperand 0 0 0

/-- A team with a system register written; none where the value is refused (R60, R70, R119). -/
def Team.sysWrite (t : Team) (c : Nat) (x : Dword) : Option Team :=
  match c with
  | 0 => some { t with fsr := x.setWidth 8 }
  | 1 =>
    let m := dbits x 2 0
    if 1 ≤ m ∧ m ≤ 5 then some { t with rmode := BitVec.ofNat 3 m } else none
  | 2 =>
    let n := dbits x 7 0
    if n = 1 ∨ n = 2 then some { t with nbv := BitVec.ofNat 8 n } else none
  | 7 => some { t with key := x }
  | 9 => some { t with dbg := x.setWidth 2 }
  | _ => none

/-- SSET (R143, R119, R70). -/
def execSset (a : BitVec 7) (c : BitVec 8) (s : State) : Host.Outcome State Fault Refusal :=
  issue s fun s t v =>
    if c.toNat = 9 ∧ !s.isDbg t then s.trap t cPrivilege 0 0 0
    else if c.toNat = 2 ∧ t.retired then s.trap t cOperand 0 0 0
    else
      match t.sysWrite c.toNat (v.reg a) with
      | some t' => s.retire t'
      | none => s.trap t cOperand 0 0 0

/-- MPOP (R145). -/
def execMpop (d : BitVec 7) (s : State) : Host.Outcome State Fault Refusal :=
  scalarOp d (fun v => dw v.lanes.length) s

/-- MFIRST (R145). -/
def execMfirst (d : BitVec 7) (s : State) : Host.Outcome State Fault Refusal :=
  scalarOp d (fun v => match v.lanes with | l :: _ => dw l | [] => 0xFFFFFFFFFFFFFFFF#64) s

/-- MELECT (R145): only the lowest active lane's bit stays in the registers of the width. -/
def execMelect (s : State) : Host.Outcome State Fault Refusal :=
  issue s fun s t v =>
    s.retireS t ((List.range (min 16 (max 1 (t.width / 64)))).map fun i =>
      (BitVec.ofNat 7 i, match v.lanes with
        | l :: _ => if l / 64 = i then dw (2 ^ (l % 64)) else 0
        | [] => 0))

end Sys2Proof.Machine
end

