-- ==== Sys2Proof/Machine/Control.lean ====
section
/-! DEFINITION. Clauses (R87 to R91), branches (R146 to R149), waits on flags (R150), REP (R102, R151), YIELD and NOP (R153, R154). -/

namespace Sys2Proof.Machine

/-! ## Clause start (R89 to R91, R367) -/

/-- Bytes of code at a virtual address, as a fetch reads them at their homes (R91); or the cause of R294 and the
first address that cannot be translated or executed. Log entry 8. -/
def State.fetchBytes (s : State) (t : Team) (va n : Nat) : List Byte ⊕ (Nat × Nat) :=
  (sectors va n).foldr (fun p acc =>
    match s.translate (portOf t.tid) t.ctx p.1 .exec with
    | .fault f => .inr (f.cause, p.1)
    | .ok pa _ => (match acc with | .inl bs => .inl (memRead s.mem pa p.2 ++ bs) | .inr e => .inr e)) (.inl [])

/-- What a fetch leaves in the caches of translations and in the device cache (R285, R295). -/
def State.fetchSeen (s : State) (t : Team) (va n : Nat) : State :=
  (sectors va n).foldl (fun s p =>
    let s1 := s.fillTlb (portOf t.tid) t.ctx p.1
    match s.translate (portOf t.tid) t.ctx p.1 .exec with
    | .ok pa nc => if nc then s1 else s1.touchSlice pa p.2 false
    | .fault _ => s1) s

/-- Parcels from bytes (R7). -/
def wordsOf : List Byte → List Word
  | a :: b :: c :: d :: r => BitVec.ofNat 32 (ofBytes [a, b, c, d]) :: wordsOf r
  | _ => []

/-- The first parcels of n instructions decoded from a body (R90): where each begins and its parcel; none where a
parcel of kind 0b11 stands there or the body ends too early or too late. -/
def bodyWalk : Nat → List Word → Option (List (Word × List Word))
  | 0, [] => some []
  | 0, _ :: _ => none
  | _ + 1, [] => none
  | n + 1, w :: r =>
    let k := match kindOf w with | 0 => 1 | 1 => 2 | 2 => 3 | _ => 0
    if k = 0 || r.length + 1 < k then none
    else
      match bodyWalk n (r.drop (k - 1)) with
      | some l => some ((w, w :: r) :: l)
      | none => none

/-- The S-format opcode of a parcel. -/
def opS (w : Word) : Nat := w.toNat / 2 ^ 22 % 256

/-- A control transfer (R90 check 5): the opcode decides, so that a V-format word of an opcode that is assigned in the
L-format alone counts too. Log entry 87. -/
def isTransfer (w : Word) : Bool :=
  if kindOf w = 0 then
    let o := opS w
    (decide (0x40 ≤ o) && decide (o ≤ 0x45)) || (decide (0x48 ≤ o) && decide (o ≤ 0x50)) || o == 0x58
  else
    let o := opcodeOf w
    decide (0x240 ≤ o) && decide (o ≤ 0x245)

/-- The parcel begins a REP. -/
def isRep (w : Word) : Bool := kindOf w == 0 && opS w == 0x54

/-- The S-format opcode is assigned (R99). -/
def knownS (o : Nat) : Bool :=
  o == 0x00 || (decide (0x02 ≤ o) && decide (o ≤ 0x36)) || (decide (0x38 ≤ o) && decide (o ≤ 0x3A))
    || (decide (0x40 ≤ o) && decide (o ≤ 0x45)) || (decide (0x48 ≤ o) && decide (o ≤ 0x55))
    || (decide (0x58 ≤ o) && decide (o ≤ 0x5A))

/-- The class of an instruction of an assigned opcode; none where it fits every class or is unassigned, as an opcode
of a feature not accepted is (R98, R404). -/
def classOf (s : State) (w : Word) : Option Nat :=
  if kindOf w = 0 then
    let o := opS w
    if !knownS o || o = 0x00 || o = 0x54 then none
    else if o < 0x40 then some 0 else some 4
  else
    let o := opcodeOf w
    match formOf o with
    | none => none
    | some _ =>
      if featureGone s o then none
      else if o < 0x100 then some 0 else if o < 0x180 then some 1 else if o < 0x1C0 then some 5
      else if o < 0x200 then some 2 else if o < 0x240 then some 3 else some 4

/-- CLASS of a header (R88). -/
def hdrClass (h : Dword) : Nat := dbits h 61 58

/-- The checks of R90 that need the header alone: the detail of the first that fails. -/
def headerFault (h : Dword) : Option Nat :=
  let bad := fun (n : Nat) => decide (12 ≤ n) && decide (n ≤ 14)
  if dbits h 63 62 ≠ 3 then some 1
  else if 7 ≤ hdrClass h || dbits h 26 0 ≠ 0 then some 2
  else if bad (dbits h 36 33) || bad (dbits h 32 29) then some 3
  else none

/-- The checks of R90 on a body. -/
def bodyFault (s : State) (h : Dword) (body : List Word) : Option Nat :=
  match bodyWalk (hdrCount h) body with
  | none => some 4
  | some l =>
    let ws := l.map Prod.fst
    if ws.dropLast.any isTransfer then some 5
    else if (match ws.getLast? with | some w => isRep w | none => false) then some 6
    else if hdrClass h != 6 && ws.any (fun w => match classOf s w with | some c => c != hdrClass h | none => false) then
      some 7
    else none

/-- FETCH_FAULT. -/
def cFetch : Nat := 0x14
/-- ILLEGAL_CLAUSE. -/
def cClause : Nat := 0x01

/-- The team halts at a header for a step (R367): STEP under STEPEN, or ALLSTEP, unless it resumes there from a
step halt (R363). -/
def Team.stepHalts (t : Team) (h : Dword) : Bool :=
  !(t.exempt && t.stepHalt) && (t.dbg.getLsbD 1 || (t.dbg.getLsbD 0 && bit h.toNat 27))

/-- CLAUSE_START (R89 to R91): the clause at the team's address is fetched and checked as a whole; a step halts it
there; it starts once every flag named in WAIT is clear. The first instruction of a team that a launch has started is an
acquire at `.dev` (R303). -/
def execClauseStart (s : State) : Host.Outcome State Fault Refusal :=
  issue s fun s t _ =>
    match t.clause with
    | some _ => s
    | none =>
      match s.fetchBytes t t.pc.toNat 8 with
      | .inr e => (s.fetchSeen t t.pc.toNat 8).trap t cFetch e.1 (dw e.2) 0
      | .inl hb =>
        let ws := wordsOf hb
        let hdr := dw ((ws.getD 0 0).toNat * 2 ^ 32 + (ws.getD 1 0).toNat)
        match headerFault hdr with
        | some d => s.trap t cClause d t.pc 0
        | none =>
          let s := s.fetchSeen t t.pc.toNat (8 + 4 * hdrLen hdr)
          match s.fetchBytes t (t.pc.toNat + 8) (4 * hdrLen hdr) with
          | .inr e => s.trap t cFetch e.1 (dw e.2) 0
          | .inl bb =>
            match bodyFault s hdr (wordsOf bb) with
            | some d => s.trap t cClause d t.pc 0
            | none =>
              if t.stepHalts hdr then s.setTeam { (t.haltWith (plainRecord 4 0 t.tid)).endStep 3 with stepHalt := t.stop.isNone }
              else if t.flagsSet (hdrWait hdr) then
                s.holdOrRetry t (.clauseWait (hdrWait hdr)) (s.flagInRing t (hdrWait hdr))
              else
                let stepped := t.exempt && t.stepHalt && dbits t.haltRec 63 60 == 4
                let s := if t.retired || s.isSup t then s else s.dropCache (coreOf t.tid)
                (s.setTeam
                  { t with
                    clause := some { addr := t.pc, hdr, body := wordsOf bb }
                    held := none, exempt := t.exempt && !stepped }).flagsSeen t.tid (hdrWait hdr)

/-! ## Branches (R146 to R149) -/

/-- A relative target: the branch's address plus 4 × offset (R146). -/
def Team.target (t : Team) (off : Dword) : Dword := t.insnPc + off * 4

/-- A relative branch that is taken under a condition (R146). -/
def State.branch (s : State) (t : Team) (off : Dword) (taken : Bool) : State :=
  if taken then s.retireAt t (t.target off) else s.retire t

/-- A branch on the team as it reads its registers. -/
def branchOp (off : Dword) (p : Team → Bool) (s : State) : Host.Outcome State Fault Refusal :=
  issue s fun s t v => s.branch t off (p v)

/-- The long form of a branch (R146). -/
def branchLong (op : Nat) (f : VFields) (p : Team → Bool) (s : State) : Host.Outcome State Fault Refusal :=
  issueV op f s fun s t v => s.branch t (disp f) (p v)

/-- The conditions of BCC in the order z, nz, lt, ge, gt, le (R147). -/
def bccHolds (c : Nat) (x : Dword) : Bool :=
  let z := x.toInt
  match c with
  | 0 => decide (z = 0) | 1 => decide (z ≠ 0) | 2 => decide (z < 0) | 3 => decide (0 ≤ z) | 4 => decide (0 < z)
  | _ => decide (z ≤ 0)

/-- BCC.z (R147). -/
def execBccZ (t : BitVec 7) (o : BitVec 15) (s : State) : Host.Outcome State Fault Refusal :=
  branchOp (o.signExtend 64) (fun v => bccHolds 0 (v.reg t)) s
/-- BCC.nz (R147). -/
def execBccNz (t : BitVec 7) (o : BitVec 15) (s : State) : Host.Outcome State Fault Refusal :=
  branchOp (o.signExtend 64) (fun v => bccHolds 1 (v.reg t)) s
/-- BCC.lt (R147). -/
def execBccLt (t : BitVec 7) (o : BitVec 15) (s : State) : Host.Outcome State Fault Refusal :=
  branchOp (o.signExtend 64) (fun v => bccHolds 2 (v.reg t)) s
/-- BCC.ge (R147). -/
def execBccGe (t : BitVec 7) (o : BitVec 15) (s : State) : Host.Outcome State Fault Refusal :=
  branchOp (o.signExtend 64) (fun v => bccHolds 3 (v.reg t)) s
/-- BCC.gt (R147). -/
def execBccGt (t : BitVec 7) (o : BitVec 15) (s : State) : Host.Outcome State Fault Refusal :=
  branchOp (o.signExtend 64) (fun v => bccHolds 4 (v.reg t)) s
/-- BCC.le (R147). -/
def execBccLe (t : BitVec 7) (o : BitVec 15) (s : State) : Host.Outcome State Fault Refusal :=
  branchOp (o.signExtend 64) (fun v => bccHolds 5 (v.reg t)) s
/-- BCC, long form: the condition in FUNC, the register in VD (R97, R147). -/
def execBccLong (f : VFields) (s : State) : Host.Outcome State Fault Refusal :=
  branchLong 0x241 f (fun v => bccHolds (f.fn.toNat % 8) (v.getS f.vd.toNat)) s

/-- BRA (R147). -/
def execBra (o : BitVec 22) (s : State) : Host.Outcome State Fault Refusal :=
  branchOp (o.signExtend 64) (fun _ => true) s
/-- BRA, long form. -/
def execBraLong (f : VFields) (s : State) : Host.Outcome State Fault Refusal := branchLong 0x240 f (fun _ => true) s
/-- BMZ (R148): no lane active. -/
def execBmz (o : BitVec 22) (s : State) : Host.Outcome State Fault Refusal :=
  branchOp (o.signExtend 64) (fun v => v.lanes.isEmpty) s
/-- BMZ, long form. -/
def execBmzLong (f : VFields) (s : State) : Host.Outcome State Fault Refusal :=
  branchLong 0x243 f (fun v => v.lanes.isEmpty) s
/-- BMNZ (R148): some lane active. -/
def execBmnz (o : BitVec 22) (s : State) : Host.Outcome State Fault Refusal :=
  branchOp (o.signExtend 64) (fun v => !v.lanes.isEmpty) s
/-- BMNZ, long form. -/
def execBmnzLong (f : VFields) (s : State) : Host.Outcome State Fault Refusal :=
  branchLong 0x244 f (fun v => !v.lanes.isEmpty) s
/-- BMALL (R148): every lane of the width active. -/
def execBmall (o : BitVec 22) (s : State) : Host.Outcome State Fault Refusal :=
  branchOp (o.signExtend 64) (fun v => v.lanes.length == v.width) s
/-- BMALL, long form. -/
def execBmallLong (f : VFields) (s : State) : Host.Outcome State Fault Refusal :=
  branchLong 0x245 f (fun v => v.lanes.length == v.width) s

/-- A call: the link register gets the address so many bytes on, and the team jumps (R149). -/
def State.callTo (s : State) (t : Team) (k : Nat) (len : Nat) (off : Dword) : State :=
  (s.noteWrites t.tid true [(k, 0)]).retireAt (t.setS k (t.insnPc + dw len)) (t.target off)

/-- CALL (R149). -/
def execCall (k : BitVec 7) (o : BitVec 15) (s : State) : Host.Outcome State Fault Refusal :=
  issue s fun s t _ => s.callTo t k.toNat 4 (o.signExtend 64)
/-- CALL, long form (R149). -/
def execCallLong (f : VFields) (s : State) : Host.Outcome State Fault Refusal :=
  issueV 0x242 f s fun s t _ => s.callTo t f.vd.toNat 12 (disp f)

/-- A jump to a register's address: bits [1:0] must be zero (R149). -/
def jumpOp (a : BitVec 7) (s : State) : Host.Outcome State Fault Refusal :=
  issue s fun s t v =>
    if (v.reg a).toNat % 4 ≠ 0 then s.trap t cOperand 0 0 0 else s.retireAt t (v.reg a)

/-- RET (R149). -/
def execRet (a : BitVec 7) (s : State) : Host.Outcome State Fault Refusal := jumpOp a s
/-- JMPI (R149). -/
def execJmpi (a : BitVec 7) (s : State) : Host.Outcome State Fault Refusal := jumpOp a s

/-! ## NOP, YIELD, flags -/

/-- NOP (R153). -/
def execNop (s : State) : Host.Outcome State Fault Refusal := issue s fun s t _ => s.retire t

/-- YIELD (R154). -/
def execYield (s : State) : Host.Outcome State Fault Refusal :=
  issue s fun s t _ => s.retireBy t Team.advance true

/-- FWAIT (R150): held until every named flag is clear; parked while an entry of the retry ring stands behind one
(R35). -/
def execFwait (m : BitVec 12) (s : State) : Host.Outcome State Fault Refusal :=
  issue s fun s t _ =>
    if t.flagsSet m.toNat then s.holdOrRetry t (.flags m.toNat) (s.flagInRing t m.toNat)
    else (s.retire t).flagsSeen t.tid m.toNat

/-- FSET (R150). -/
def execFset (m : BitVec 12) (s : State) : Host.Outcome State Fault Refusal :=
  issue s fun s t _ => s.retire (t.setSoft m.toNat true)

/-- FCLR (R150). -/
def execFclr (m : BitVec 12) (s : State) : Host.Outcome State Fault Refusal :=
  issue s fun s t _ => s.retire (t.setSoft m.toNat false)

/-! ## REP (R102, R151) -/

/-- The word that begins with these parcels may be repeated (R102, R151). -/
def repeatable (ws : List Word) : Bool :=
  match ws with
  | [] => false
  | w :: r =>
    if kindOf w = 0 then opS w == 0
    else
      let o := opcodeOf w
      let scal := (match r with | p1 :: _ => bit p1.toNat 5 | [] => false)
      (decide (o ≤ 0x05F) && !(decide (0x050 ≤ o) && decide (o ≤ 0x054) && scal))
        || (decide (0x200 ≤ o) && decide (o ≤ 0x208)) || o == 0x100 || o == 0x101 || o == 0x106 || o == 0x107
        || o == 0x118 || o == 0x11A || o == 0x120 || o == 0x121

/-- A 4-bit step, signed (R102). -/
def repStep (x : BitVec 4) : Int := x.toInt

/-- REP (R102, R152): the instruction that follows runs n + 1 times, with stepped codes; a word that REP may not
precede traps ILLEGAL_REPEAT here. -/
def execRep (n : BitVec 6) (d a b : BitVec 4) (s : State) : Host.Outcome State Fault Refusal :=
  issue s fun s t _ =>
    match t.clause with
    | none => s.trap t cRepeat 0 0 0
    | some c =>
      if repeatable (c.body.drop (c.pos + 1)) then
        s.retireBy t (fun u =>
          let v := u.advance
          { v with clause := v.clause.map fun k =>
              { k with rep := some { n := n.toNat, stepD := repStep d, stepA := repStep a, stepB := repStep b, m := 0 } } })
          false
      else s.trap t cRepeat 0 0 0

/-- TRAP (R272): the software trap with its code. The instruction has retired, and the trap names the next one
(R379). -/
def execTrap (c : BitVec 8) (s : State) : Host.Outcome State Fault Refusal :=
  issue s fun s t _ =>
    let s' := s.retire { t with late := none }
    match s'.team? t.tid with
    | some u => s'.trap u 0x21 c.toNat 0 0
    | none => s'

/-- RFT (R273): the supervisor returns from its delivery; deliveries are enabled again. -/
def execRft (s : State) : Host.Outcome State Fault Refusal :=
  issue s fun s t _ =>
    if !s.isSup t then s.trap t cPrivilege 0 0 0
    else
      match s.ctx? t.ctx with
      | none => s.trap t cOperand 0 0 0
      | some c => if c.inDelivery then s.returnFromDelivery t c else s.trap t cOperand 0 0 0

/-- DELIVERY_TAKE (R382): the supervisor of context arg.a takes its oldest pending delivery. -/
def execDeliveryTake (s : State) : Host.Outcome State Fault Refusal := .next (s.takeDelivery s.arg.a)

end Sys2Proof.Machine
end

