-- ==== Sys2Proof/Machine/Order.lean ====
section
/-! DEFINITION. Ordering (R191, R302 to R311): where an access's pieces stand, what must come before a piece performs, the release buffer and its tags, and what a piece of a load reads. -/

namespace Sys2Proof.Machine

/-! ## Scratchpads (R278, R280) -/

/-- The plot-relative offset of a pool offset; none outside the plot's scratchpad. -/
def Plot.scratchOff (p : Plot) (a : Nat) : Option Nat :=
  let base := Config.granuleBytes * p.scratchSlot
  if decide (base ≤ a) && decide (a < base + Config.granuleBytes * p.scratchGranules) then some (a - base) else none

/-- A byte of a plot's scratchpad at a pool offset. -/
def Plot.scratchByte (p : Plot) (a : Nat) : Byte :=
  match p.scratchOff a with
  | some o => spRead 0 p.scratch o
  | none => 0

/-- Bytes of a plot's scratchpad at a pool offset. -/
def State.readScratch (s : State) (plot a n : Nat) : List Byte :=
  match s.plot? plot with
  | some p => (List.range n).map fun i => p.scratchByte (a + i)
  | none => List.replicate n 0

/-- Poisoned words of a plot's scratchpad, by offset. -/
def Plot.poisonWords (p : Plot) : List Nat := p.poison.filterMap fun u => match u with | .scratch _ w => some w | _ => none

/-- Write bytes of a scratchpad: words that the writer has covered whole lose their poison (R291). -/
def Plot.writeScratch (p : Plot) (writer a : Nat) (bs : List Byte) : Plot :=
  match p.scratchOff a with
  | none => p
  | some o =>
    let h := heal 4 writer o bs.length p.poisonWords p.covered
    { p with
      scratch := bs.zipIdx.foldl (fun m x => spWrite 0 m (o + x.2) x.1) p.scratch
      poison := p.poison.filter fun u => match u with | .scratch _ w => h.1.contains w | _ => true
      covered := h.2 }

/-- A store meets an operation's A image or bitmaps: its results are undefined (R238). -/
def MatrixOp.stored (o : MatrixOp) (a n : Nat) : MatrixOp :=
  let meets := fun (at_ len : Nat) => decide (at_ < a + n) && decide (a < at_ + len)
  if meets o.aAt o.aLen || meets o.mapAt o.mapLen then { o with wild := true } else o

/-- Change the operations of a plot's crews. -/
def State.modCrewOps (s : State) (plot : Nat) (f : MatrixOp → MatrixOp) : State :=
  { s with crews := s.crews.map fun c => if c.plot = plot then { c with ops := c.ops.map f } else c }

/-- Write bytes of a plot's scratchpad at a pool offset. -/
def State.writeScratch (s : State) (writer plot a : Nat) (bs : List Byte) : State :=
  (s.modPlot plot fun p => p.writeScratch writer a bs).modCrewOps plot fun o => o.stored a bs.length

/-- Poison a word of a plot's pool granules. -/
def State.poisonWord (s : State) (plot : Nat) (u : Unit32) : State :=
  s.modPlot plot fun p => if p.saved || p.poison.contains u then p else { p with poison := p.poison ++ [u] }

/-- A run of a scratchpad's bytes touches a poisoned word. -/
def State.scratchPoisoned (s : State) (plot a n : Nat) : Bool :=
  match s.plot? plot with
  | none => false
  | some p =>
    match p.scratchOff a with
    | none => false
    | some o => p.poison.any fun u =>
      match u with
      | .scratch _ w => decide (w < o + n) && decide (o < w + 4)
      | _ => false

/-! ## Places -/

/-- Where an address of a segment stands: the scratchpad (true) with a pool offset, or memory with a physical
address; none where no translation is found. -/
def State.placeOf (s : State) (port ctx seg a : Nat) : Option (Bool × Nat) :=
  if seg = 1 then some (true, a)
  else
    match s.leafOf port ctx a with
    | .leaf e => some (false, e.pa + (a - e.va))
    | .stopped _ => none

/-- Two runs of bytes share one. -/
def placesMeet (x : Option (Bool × Nat)) (n : Nat) (y : Option (Bool × Nat)) (m : Nat) : Bool :=
  match x, y with
  | some (p, a), some (q, b) => p == q && decide (a < b + m) && decide (b < a + n)
  | _, _ => false

/-- The bytes of a run from a, with those of another run from b put over them. -/
def overlay (bs : List Byte) (a b : Nat) (src : List Byte) : List Byte :=
  bs.zipIdx.map fun x => if b ≤ a + x.2 ∧ a + x.2 < b + src.length then src.getD (a + x.2 - b) x.1 else x.1

/-- The place of a piece of a lane. -/
def State.pieceAt (s : State) (o : MemOp) (a : LaneAcc) (p : Piece) : Option (Bool × Nat) :=
  s.placeOf (portOf o.origin.tid) o.origin.ctx o.seg (a.addr + p.off)

/-! ## Program order (R191, R201, R304) -/

/-- The operation is an acquire (R303). -/
def MemOp.isAcquire (o : MemOp) : Bool := o.ord == 1 || o.ord == 3

/-- The operation reads strongly (R302). -/
def MemOp.isStrongRead (o : MemOp) : Bool :=
  match o.kind with
  | .load => o.isAcquire
  | .atomic | .red | .amaxswap => true
  | _ => false

/-- A lane still has its access before it: a piece is open, or its fault waits for the service of a retry-ring entry, at
which the access takes its place in program order (R316). -/
def MemOp.lanePending (o : MemOp) (a : LaneAcc) : Bool :=
  a.open_ || ((match o.kind with | .store => false | _ => true) && a.fault.isSome && !a.resolved)

/-- Two runs of bytes overlap. -/
def runsMeet (a n b m : Nat) : Bool := decide (a < b + m) && decide (b < a + n)

/-- A run of bytes of a team's access: whether it is in the scratchpad, its segment address, its place and its length. -/
structure Run_ where
  scratch : Bool
  addr : Nat
  place : Option (Bool × Nat)
  len : Nat
  deriving DecidableEq, Repr

/-- The run of a piece. -/
def State.runOf (s : State) (o : MemOp) (a : LaneAcc) (p : Piece) : Run_ :=
  { scratch := o.seg == 1, addr := a.addr + p.off, place := s.pieceAt o a p, len := p.len }

/-- Two runs of one team share a byte: of one address, or of one place. -/
def Run_.meets (x y : Run_) : Bool :=
  (x.scratch == y.scratch && runsMeet x.addr x.len y.addr y.len) || placesMeet x.place x.len y.place y.len

/-- A lane of an operation below a number whose access is still to come meets a run. -/
def State.opMeets (s : State) (q : MemOp) (below : Nat) (x : Run_) : Bool :=
  q.lanes.any fun b => decide (b.lane < below) && q.lanePending b &&
    b.pieces.any fun r => (b.fault.isSome || !r.done) && (s.runOf q b r).meets x

/-- A place lies in the host window of this module (R290). -/
def State.hostPlace (s : State) : Option (Bool × Nat) → Bool
  | some (false, pa) => s.isHost pa
  | _ => false

/-- An earlier store of a team has still to leave through the host window (R314). -/
def State.hostOpen (s : State) (q : MemOp) : Bool :=
  (match q.kind with | .store => true | _ => false) &&
    q.lanes.any fun b => b.open_ && b.pieces.any fun r => !r.done && s.hostPlace (s.pieceAt q b r)

/-- A piece may be performed: no earlier acquire of its team is open or waits for its service (R316), and every earlier
access of the team to one of its bytes has been performed; a load takes the bytes of an earlier store from the store
itself (R191). In a vector store the lanes perform in order where they overlap (R192). A monitor's arm comes before the
team's later accesses to its line (R207). Stores through the host window leave in program order (R314). -/
def State.pieceReady (s : State) (o : MemOp) (a : LaneAcc) (p : Piece) : Bool :=
  let x := s.runOf o a p
  let isStore := fun (q : MemOp) => match q.kind with | .store => true | _ => false
  let forwards := fun (q : MemOp) => (match o.kind with | .load => true | _ => false) && isStore q
  (s.ops.all fun q => !(q.origin.tid == o.origin.tid && decide (q.id < o.id)) ||
    !(q.lanes.any q.lanePending && q.isAcquire) && (forwards q || !s.opMeets q 1024 x) &&
      !(isStore o && s.hostPlace x.place && s.hostOpen q)) &&
  !(isStore o && s.opMeets o a.lane x) &&
  !(s.reqs.any fun r => r.tid == o.origin.tid && decide (r.id < o.id) &&
    (match r.kind, x.place with | .marm, some (false, pa) => lineOf r.pa == lineOf pa | _, _ => false))

/-- An access of a team is open: not performed, sampled or faulted (R196). A store whose record waits for room
counts as not yet faulted (R325). -/
def State.accessOpen (s : State) (h : Handle) : Bool :=
  (s.ops.any fun o => o.origin.tid == h && o.lanes.any LaneAcc.open_) ||
    s.ctxs.any fun c => c.held.any fun e => e.store && e.counted && e.origin.tid == h

/-! ## The release buffer (R308, R309) -/

/-- Entries that a core's release buffer holds at most (R308). -/
def bufferSize : Nat := 64

/-- The highest sequence number in a core's release buffer, 0 when it is empty. -/
def State.bufMark (s : State) (core : Nat) : Nat := (s.core core).buffer.foldl (fun m w => max m w.seq) 0

/-- A core's release buffer holds a write at a sequence number or below. -/
def State.bufOpen (s : State) (core mark : Nat) : Bool := (s.core core).buffer.any fun w => decide (w.seq ≤ mark)

/-- A core's release buffer holds a write to one of these bytes. -/
def State.bufMeets (s : State) (core pa n : Nat) : Bool :=
  (s.core core).buffer.any fun w => decide (w.pa < pa + n) && decide (pa < w.pa + w.bytes.length)

/-- A release of a team at a scope may act: its earlier accesses have been performed or have faulted, and, at
`.die` or wider, what stands in its core's release buffer has been performed (R196, R308, R309). Log entry 32. -/
def State.releaseReady (s : State) (t : Team) (scope : Nat) : Bool :=
  !s.accessOpen t.tid && (decide (scope < 3) || (s.core (coreOf t.tid)).buffer.isEmpty)

/-- What a core-local release must find drained before an agent elsewhere synchronises with it (R308). -/
def State.releaseMark (s : State) (t : Team) (release : Bool) (scope : Nat) : Nat :=
  if release && decide (scope < 3) then s.bufMark (coreOf t.tid) else t.fenceMark

/-- A write of a core-local release has reached its home slice: the line is tagged with its core (R308). -/
def State.tagLine (s : State) (line core mark : Nat) : State :=
  if s.bufOpen core mark then { s with tags := (line, core, mark) :: s.tags } else s

/-- Tags that have served: their cores have drained (R308). -/
def State.dropTags (s : State) : State := { s with tags := s.tags.filter fun t => s.bufOpen t.2.1 t.2.2 }

/-- Tags of other cores on a line that still wait for a drain. -/
def State.tagsOn (s : State) (line core : Nat) : List (Nat × Nat) :=
  (s.tags.filter fun t => t.1 == line && !(t.2.1 == core) && s.bufOpen t.2.1 t.2.2).map Prod.snd

/-- An acquire at `.die` or wider drops every line of its core's load cache (R283). -/
def State.acquireAt (s : State) (core scope : Nat) : State := if 3 ≤ scope then s.dropCache core else s

/-- A store, copy or gleaner write of a core's team performed at its home slice, written through into the core's load
cache (R283). writer is the operation or command that it is a part of. Log entry 84. -/
def State.storeHome (s : State) (core writer : Nat) (nc : Bool) (pa : Nat) (bs : List Byte) : State :=
  (s.homeWriteBy writer nc pa bs).writeThrough core pa bs

/-! ## The end of a plot (R129, R155, R279) -/

/-- Something still works on a plot that has no team left: operations of its crews, accesses of its teams to the scratchpad,
and copies and gleaner commands through it (R155, R227). -/
def State.plotBusy (s : State) (p : Nat) : Bool :=
  (s.crews.any fun c => c.plot == p && !c.ops.isEmpty) ||
    (s.ops.any fun o => o.origin.plot == p && o.seg == 1 && o.lanes.any LaneAcc.open_) ||
    (s.copies.any fun k => k.origin.plot == p && (k.sseg == 1 || k.dseg == 1)) ||
    s.orphans.any fun g => g.origin.plot == p && g.seg == 1

/-- Records of a launch's image are given back (R299, R353). -/
def Launch.dropImage (l : Launch) (gone : ImageOf → Bool) : Launch := { l with image := l.image.filter fun p => !gone p.of_ }

/-- A plot whose last team has exited: its granules are freed, and its crews end (R129, R279) once what its teams left at
work has run to completion (R155, R227). Log entry 45. -/
def State.freePlot (s : State) (p : Nat) : State :=
  match s.plot? p with
  | none => s
  | some q =>
    if decide (q.teams ≤ q.exited.length) && !s.plotBusy p then
      let crews := (s.crews.filter fun c => c.plot == p).map Crew.id
      let gone := fun (x : ImageOf) => match x with | .plot i => i == p | .crew i => crews.contains i | .team _ => false
      { s with plots := s.plots.filter fun x => !(x.id == p), crews := s.crews.filter fun c => !(c.plot == p)
        }.modLaunch q.ctx q.lid fun l => l.dropImage gone
    else s

/-! ## The end of a launch (R264, R392) -/

/-- Accesses of a launch's teams that its completion word must follow: not performed, or in a release buffer. -/
def State.launchOpen (s : State) (ctx lid : Nat) : Bool :=
  (s.ops.any fun o => o.origin.ctx == ctx && o.origin.lid == lid && o.lanes.any LaneAcc.open_) ||
    s.cores.any fun c => c.2.buffer.any fun w => w.ctx == ctx && w.lid == lid

/-- Increment a launch's completion word; a failed update is dropped and reported, kind 8 (R264, R392). Log entry 44. -/
def State.addDonew (s : State) (l : Launch) : State :=
  let a := hdrD l.header 14
  if a = 0 then s
  else
    let port := match s.ctx? l.ctx with | some c => portOf c.supervisor | none => 0
    match s.translate port l.ctx a (.atomic true) with
    | .ok pa _ => (s.fillTlb port l.ctx a).homeWrite pa (toBytes 8 (s.physDword pa + 1))
    | .fault f => s.report l.ctx 8 f.cause 0 a l.lid

/-- A launch with every plot placed and no team left ends once its teams' accesses have been performed: the
completion word is incremented with a release at `.dev` (R264). -/
def State.finishLaunch (s : State) (ctx lid : Nat) : State :=
  match s.launch? ctx lid with
  | none => s
  | some l =>
    let whole := match l.phase with | .running => true | .saving | .preempted => !l.midPlacement | _ => false
    if whole && l.living = 0 && !s.launchOpen ctx lid then
      (s.addDonew l).modLaunch ctx lid fun l => { l with phase := .ended }
    else s

/-! ## Sampling -/

/-- What a piece of a load finds. -/
inductive Sample where
  | bytes (bs : List Byte)
  | fault (f : LaneFault)
  /-- A poisoned unit, with its physical address; none for a scratchpad word. -/
  | poison (pa : Option Nat)
  deriving DecidableEq, Repr

/-- The bytes that a team's own earlier stores, not yet performed, put over a piece (R191). -/
def State.ownStores (s : State) (o : MemOp) (x : Bool × Nat) (bs : List Byte) : List Byte :=
  (s.ops.filter fun q => q.origin.tid == o.origin.tid && decide (q.id < o.id) &&
    (match q.kind with | .store => true | _ => false)).foldl (fun bs q =>
      q.lanes.foldl (fun bs b =>
        if b.open_ then
          b.pieces.foldl (fun bs r =>
            match s.pieceAt q b r with
            | some (p, at_) =>
              if !r.done && p == x.1 then overlay bs x.2 at_ ((b.bytes.drop r.off).take r.len) else bs
            | none => bs) bs
        else bs) bs) bs

/-- The bytes that a core's release buffer puts over a run: the youngest win (R308). -/
def State.bufferOver (s : State) (core pa : Nat) (bs : List Byte) : List Byte :=
  (s.core core).buffer.foldl (fun bs w => overlay bs pa w.pa w.bytes) bs

/-- A line may be held in a load cache: no line of a host window, of this module or a peer, and no page with NC (R283,
R290, R292). -/
def cacheable (pa : Nat) (nc : Bool) : Bool := !nc && !localHost (paLocal pa)

/-- Lines of a load cache of 128 KiB (R277, R283). -/
def cacheLines : Nat := 2048

/-- Fill a line of a core's load cache from its home (R283). Log entry 78. -/
def State.fillLine (s : State) (core pa : Nat) : State :=
  let base := lineOf pa * 64
  if s.poisoned base || s.poisoned (base + 32) then s
  else
    let r := s.keepIn cacheLines (s.core core).cache { line := lineOf pa, bytes := memRead s.mem base 64 }
    r.2.modCore core fun c => { c with cache := r.1 }

/-- The home slice holds the sector of an address (R285). -/
def State.sliceHit (s : State) (pa : Nat) : Bool :=
  s.dcache.any fun l => l.line == lineOf pa && (if pa / 32 % 2 = 0 then l.valid0 else l.valid1)

/-- What a load does in the device cache: a page that bypasses it leaves it alone, and a burst modifier allocates nothing
(R285, R292). -/
def State.loadSlice (s : State) (pa n : Nat) (nc : Bool) (burst : Nat) : State :=
  if nc || (burst != 0 && !s.sliceHit pa) then s else s.touchSlice pa n false

/-- The leaf's page of an address, for a fault that no walk finds. -/
def State.pageOf (s : State) (port ctx va : Nat) : Nat × Nat :=
  match s.leafOf port ctx va with
  | .leaf e => (e.va, e.size)
  | .stopped _ => (va / 4096 * 4096, 4096)

/-- The fault of an access that the host or a peer ends with an error, where err says that it does (R391, R405). -/
def State.outsideFault (s : State) (err : Bool) (port ctx va pa : Nat) : Option LaneFault :=
  match (if err then s.outsideCause pa else none) with
  | none => none
  | some cause => let pg := s.pageOf port ctx va; some { cause, page := pg.1, pageSize := pg.2, addr := va }

/-- A plain access of a team (R302). -/
def MemOp.plain (o : MemOp) : Bool :=
  match o.kind with
  | .load => !o.isAcquire
  | .store => decide (o.ord < 2)
  | _ => false

/-- The accesses of two operations of different teams conflict, and one of them is plain (R305). -/
def MemOp.conflicts (o q : MemOp) : Bool :=
  let writes := fun (x : MemOp) => match x.kind with | .load | .probe => false | _ => true
  let reads := fun (x : MemOp) => match x.kind with | .probe => false | _ => true
  !(q.origin.tid == o.origin.tid) && q.origin.ctx == o.origin.ctx && (o.plain || q.plain) && (writes o || writes q) &&
    reads o && reads q && (o.seg != 1 || coreOf o.origin.tid == coreOf q.origin.tid)

/-- A data race: bytes of an access at a place are bytes of another team's conflicting access, and neither has been
performed (R305). Its outcome is undefined (R12). Log entry 84. -/
def State.racing (s : State) (o : MemOp) (x : Option (Bool × Nat)) (n : Nat) : Bool :=
  s.ops.any fun q => o.conflicts q && q.lanes.any fun a => a.fault.isNone &&
    a.pieces.any fun p => !p.done && placesMeet x n (s.pieceAt q a p) p.len

/-- A piece of a load sampled (R191, R283, R307, R308): the load cache serves it where it may, else its home
slice; then the release buffer and the team's own stores. hostErr says that the host, or a peer, ends the read with an
error (R391, R405). Log entry 83. -/
def State.sampleAt (s : State) (o : MemOp) (a : LaneAcc) (p : Piece) (hostErr : Bool) : Sample × State :=
  let core := coreOf o.origin.tid
  let port := portOf o.origin.tid
  let va := a.addr + p.off
  if o.seg = 1 then
    let plot := match s.team? o.origin.tid with | some t => t.plot | none => 0
    if s.scratchPoisoned plot va p.len then (.poison none, s)
    else (.bytes (s.ownStores o (true, va) (s.readScratch plot va p.len)), s)
  else
    match s.translate port o.origin.ctx va .read with
    | .fault f => (.fault { f with addr := va }, s.fillTlb port o.origin.ctx va)
    | .ok pa nc =>
      let s := s.fillTlb port o.origin.ctx va
      let laid := fun (bs : List Byte) => Sample.bytes (s.ownStores o (false, pa) (s.bufferOver core pa bs))
      let looks := cacheable pa nc && !(o.isAcquire && decide (3 ≤ o.scope))
      match (if looks then s.cached core (lineOf pa) else none) with
      | some l => (laid ((l.bytes.drop (pa % 64)).take p.len), s)
      | none =>
        let s := if looks then s.countPerf core o.origin.ctx 6 1 else s
        match s.outsideFault hostErr port o.origin.ctx va pa with
        | some f => (.fault f, s)
        | none =>
          if s.poisoned pa then (.poison (some pa), s)
          else
            let s1 := s.loadSlice pa p.len nc o.burst
            (laid (memRead s.mem pa p.len), if looks then s1.fillLine core pa else s1)

/-- A piece of a load sampled, its bytes free values in a data race (R12, R305). -/
def State.sample (s : State) (o : MemOp) (a : LaneAcc) (p : Piece) (hostErr : Bool) : Sample × State :=
  let r := s.sampleAt o a p hostErr
  match r.1 with
  | .bytes bs =>
    if s.racing o (s.pieceAt o a p) p.len then let d := r.2.drawBytes bs.length; (.bytes d.1, d.2) else r
  | _ => r

/-- A strong read of a line that other cores have tagged: the tags are kept for a FENCE to come (R304, R308). -/
def State.noteRead (s : State) (h : Handle) (pa : Nat) : State :=
  let ts := s.tagsOn (lineOf pa) (coreOf h)
  if ts.isEmpty then s else s.modTeam h fun t => { t with readTags := t.readTags ++ ts }

/-- The tags that an operation's strong read finds. -/
def State.noteTags (s : State) (o : MemOp) (pa : Nat) : State := if o.isStrongRead then s.noteRead o.origin.tid pa else s

/-- An acquire at `.dev` or wider finds its line tagged by other cores (R308). -/
def State.mustPromote (s : State) (core scope : Nat) (acquire : Bool) (x : Option (Bool × Nat)) : Bool :=
  match x with
  | some (false, pa) => acquire && decide (4 ≤ scope) && !(s.tagsOn (lineOf pa) core).isEmpty
  | _ => false

end Sys2Proof.Machine
end

