-- ==== Sys2Proof/Machine/Memory.lean ====
section
/-! DEFINITION. Memory instructions as they issue: loads and stores (R192, R196, R198), atomics (R202, R206), PROBE, the hints, SDRAIN and FENCE; the checks of R188. -/

namespace Sys2Proof.Machine

/-! ## The checks of R188 -/

/-- SEG_LIMIT. -/
def cSegLimit : Nat := 0x10
/-- SCRATCH_BOUND. -/
def cScratch : Nat := 0x11
/-- STORE_FAULT. -/
def cStoreFault : Nat := 0x13

/-- A trap with its detail, information and lane mask (R378). -/
structure TrapInfo where
  cause : Nat
  detail : Nat := 0
  info : Dword := 0
  mask : LaneMask := 0
  deriving DecidableEq, Repr

/-- Take a trap. -/
def State.takeTrap (s : State) (t : Team) (x : TrapInfo) : State := s.trap t x.cause x.detail x.info x.mask

/-- The trap of offsets that pass a segment's limit (R114). -/
def limitTrap (t : Team) (seg n : Nat) (offs : List (Nat × Dword)) : Option TrapInfo :=
  match offs.filter fun p => !limitOk t seg p.2 n with
  | [] => none
  | p :: r =>
    if seg = 1 then some { cause := cScratch, detail := 1, info := p.2, mask := maskOf ((p :: r).map Prod.fst) }
    else some { cause := cSegLimit, detail := seg, info := p.2 }

/-- The lowest of some numbers. -/
def lowest : List Nat → Nat
  | [] => 0
  | a :: r => r.foldl min a

/-- The trap of addresses that are not a multiple of a size (R188). -/
def alignTrap (t : Team) (seg n : Nat) (offs : List (Nat × Dword)) : Option TrapInfo :=
  match offs.filter fun p => decide ((segAddr t seg p.2).toNat % n ≠ 0) with
  | [] => none
  | bad =>
    some { cause := cMisaligned, detail := seg, info := dw (lowest (bad.map fun p => (segAddr t seg p.2).toNat))
           mask := maskOf (bad.map Prod.fst) }

/-- The checks of R188, in their order: limit, alignment of an atomic, and E written by a team that is not the
supervisor. -/
def memTrap (s : State) (t : Team) (seg n : Nat) (atomic writes : Bool) (offs : List (Nat × Dword)) : Option TrapInfo :=
  match limitTrap t seg n offs with
  | some x => some x
  | none =>
    match if atomic then alignTrap t seg n offs else none with
    | some x => some x
    | none =>
      if writes && seg == 3 && !s.isSup t then
        some { cause := cSegLimit, detail := 3, info := (offs.map Prod.snd).headD 0 }
      else none

/-! ## Operations -/

/-- The instruction that issues, as a record of it needs it (R385, R387). -/
def Team.origin (t : Team) : Origin :=
  let ps := match t.clause with | some c => c.body.drop c.pos | none => []
  let w := fun (n : Nat) => (ps.getD n 0).toNat
  let three := match t.clause with | some c => c.insnParcels == 3 | none => false
  { tid := t.tid, ctx := t.ctx, lid := t.lid, core := coreOf t.tid, plot := t.plot, pc := t.insnPc
    iword := dw (w 0 * 2 ^ 32 + w 1), lit := if three then ps.getD 2 0 else 0, issue := t.issueNo, idx := t.idxNo }

/-- One lane's access of n bytes, split at sector boundaries (R311). -/
def mkLane (lane addr n : Nat) (x y : Dword) (bytes : List Byte) : LaneAcc :=
  { lane, addr, x, y, bytes, pieces := (sectors addr n).map fun p => { off := p.1 - addr, len := p.2 } }

/-- Bytes of a lane's access (R187). -/
def accessBytes (op : Nat) (f : VFields) : Nat :=
  if mWidth f = 1 then 16
  else if f.fmt = 15 then 8
  else if op = 0x104 ∨ op = 0x105 then (fmtF f).width / 8
  else 4

/-- What a memory opcode does: its kind of operation, whether it acts once for the team, whether X is a stride,
and the weir kinds evaluated at issue (R358). -/
structure MemShape where
  op : Nat
  kind : OpKind
  scalar : Bool := false
  strided : Bool := false
  weirs : List Nat
  deriving DecidableEq, Repr

/-- It writes memory. -/
def MemShape.writes (sh : MemShape) : Bool := match sh.kind with | .load | .probe => false | _ => true

/-- It is an atomic. -/
def MemShape.atomic (sh : MemShape) : Bool := match sh.kind with | .atomic | .red | .amaxswap => true | _ => false

/-- It reads its data registers at issue. -/
def MemShape.sends (sh : MemShape) : Bool := match sh.kind with | .store | .atomic | .red => true | _ => false

/-- A lane's data from registers from a number on, as bytes. -/
def Team.dataBytes (v : Team) (r lane n : Nat) : List Byte :=
  (List.range (n / 4)).flatMap fun i => toBytes 4 (v.getV (r + i) lane).toNat

/-- What a lane sends: bytes of a store, operand and new value of an atomic (R192, R202). -/
def laneData (sh : MemShape) (f : VFields) (v : Team) (lane n : Nat) : Dword × Dword × List Byte :=
  let d := f.vd.toNat
  match sh.kind with
  | .store => (0, 0, if sh.scalar then toBytes n (v.getS d).toNat else v.dataBytes d lane n)
  | .atomic | .red =>
    if sh.scalar then (dw ((v.getS d).toNat % 2 ^ (8 * n)), dw ((v.getS (d + 1)).toNat % 2 ^ (8 * n)), List.replicate n 0)
    else (dw (ofBytes (v.dataBytes d lane n)), dw (ofBytes (v.dataBytes (d + n / 4) lane n)), List.replicate n 0)
  | _ => (0, 0, List.replicate n 0)

/-- The lane's access: its offset, and the access itself. -/
def laneAccess (sh : MemShape) (f : VFields) (t v : Team) (n lane : Nat) : Dword × LaneAcc :=
  let off := if sh.scalar then scalarOff v f else memOff v f sh.strided lane
  let d := laneData sh f v lane n
  (off, mkLane lane (segAddr t (mSeg f) off).toNat n d.1 d.2.1 d.2.2)

/-- Weir events of a memory instruction at issue: KIND 0 and 1 (R358). -/
def memEvents (sh : MemShape) (cas : Bool) (n : Nat) (as : List LaneAcc) : Events where
  scalar := sh.scalar
  addrs := as.map fun a => { lane := a.lane, value := a.addr, addr := a.addr }
  stored := as.map fun a =>
    match sh.kind with
    | .store => { lane := a.lane, value := ofBytes a.bytes, bits := 8 * n, addr := a.addr }
    | _ =>
      { lane := a.lane, value := a.x.toNat + (if cas then a.y.toNat * 2 ^ (8 * n) else 0)
        bits := if cas then 16 * n else 8 * n, addr := a.addr }

/-- Lanes of a store whose translation or permission fails now (R198): lane, cause, address. -/
def storeFaults (s : State) (t : Team) (as : List LaneAcc) : List (Nat × Nat × Nat) :=
  as.flatMap fun a => a.pieces.filterMap fun p =>
    match s.translate (portOf t.tid) t.ctx (a.addr + p.off) .write with
    | .fault f => some (a.lane, f.cause, a.addr + p.off)
    | .ok _ _ => none

/-- The operation that an instruction starts. -/
def mkOp (sh : MemShape) (f : VFields) (s : State) (t : Team) (id n : Nat) (as : List LaneAcc) : MemOp where
  id := id
  kind := sh.kind
  origin := t.origin
  seg := mSeg f
  dest := f.vd.toNat
  scalar := sh.scalar
  fmt := f.fmt.toNat + 16 * mW64 f
  size := n
  aop := mAop f
  ord := mOrd f
  scope := mScope f
  burst := mBurst f
  flag := match sh.kind with | .store | .red => none | _ => t.flagA
  lanes := as
  mark := if sh.atomic || decide (2 ≤ mOrd f) then s.releaseMark t (decide (2 ≤ mOrd f)) (mScope f) else 0

/-- Scratchpad cycles that a vector access takes beyond one for each pass (R281): in each pass, the largest number of
distinct words of one bank, less one. -/
def MemOp.bankCycles (o : MemOp) : Nat :=
  let words := fun (as : List LaneAcc) => distinct (as.flatMap fun a =>
    (List.range (ceilDiv (a.addr % 4 + o.size) 4)).map fun i => a.addr / 4 + i)
  ((List.range 32).map fun p =>
    let ws := words (o.lanes.filter fun a => a.lane / 32 == p)
    ((List.range 64).map fun b => (ws.filter fun w => w % 64 == b).length).foldl max 0 - 1).sum

/-- An operation starts, and its instruction retires: a later delivery into a register that an earlier one is still
to write leaves either value (R84). -/
def State.startOp (s : State) (t : Team) (o : MemOp) : State :=
  let places := if o.returns then
      o.destRegs.flatMap fun r => if o.scalar then [(r, 0)] else o.lanes.map fun a => (r, a.lane)
    else []
  let probe := match o.kind with | .probe => true | _ => false
  let s0 := if o.seg = 1 && !o.scalar && !probe then s.countPerf (coreOf t.tid) t.ctx 11 o.bankCycles else s
  let s1 := s0.noteWrites t.tid o.scalar places
  { s1 with ops := s1.ops ++ [o] }.retire ({ t with lastMark := max t.lastMark o.mark }.raiseCount o.flag)

/-- Registers that a memory instruction reads as vectors. -/
def memReads (sh : MemShape) (f : VFields) (n : Nat) : List Nat :=
  if sh.scalar then []
  else
    (if f.va = 448 ∨ sh.strided then [] else [f.va.toNat]) ++
      (if sh.sends then (List.range (n / 4)).map fun i => f.vd.toNat + i else [])

/-- A memory instruction that starts an operation: nothing without an active lane (R189); held behind a faulted
acquire (R316), for a release (R196, R309) or for room in the release buffer (R309); then the weirs, the checks of
R188, and under `.pstore` the store's translations (R198). -/
def memInsn (sh : MemShape) (f : VFields) (s : State) : Host.Outcome State Fault Refusal :=
  issueV sh.op f s fun s t v =>
    let n := accessBytes sh.op f
    let lanes := if sh.scalar then [0] else v.lanes
    if lanes.isEmpty then s.retire t
    else if t.acquireFault.isSome then s.park t .retry none
    else if s.readsPoison t (memReads sh f n) lanes then s.containPool t
    else if decide (2 ≤ mOrd f) && !s.releaseReady t (mScope f) then s.holdAt t (.release (mScope f))
    else if sh.writes && mSeg f != 1 && decide (bufferSize ≤ (s.core (coreOf t.tid)).buffer.length) then
      s.holdAt t .buffer
    else
      let acc := lanes.map (laneAccess sh f t v n)
      let pick := fun (ls : List Nat) => acc.filter fun a => ls.contains a.2.lane
      underWeirs s t sh.weirs lanes
        (fun ls => memEvents sh (sh.atomic && mAop f == 7) n ((pick ls).map Prod.snd))
        (fun ls s t =>
          let as := pick ls
          if as.isEmpty then s.retire t
          else
            match memTrap s t (mSeg f) n sh.atomic sh.writes (as.map fun a => (a.2.lane, a.1)) with
            | some x => s.takeTrap t x
            | none =>
              let bad := if sh.kind == .store && hPstore (s.header t) && mSeg f != 1 then
                storeFaults s t (as.map Prod.snd) else []
              match bad with
              | b :: _ =>
                s.trap t cStoreFault b.2.1 (dw (lowest (bad.map fun x => x.2.2))) (maskOf (bad.map Prod.fst))
              | [] =>
                let (id, s) := s.takeId
                s.startOp t (mkOp sh f s t id n (as.map Prod.snd)))

/-! ## Loads and stores (R192) -/

/-- VLD. -/
def execVld (f : VFields) (s : State) : Host.Outcome State Fault Refusal :=
  memInsn { op := 0x100, kind := .load, weirs := [0] } f s
/-- VST. -/
def execVst (f : VFields) (s : State) : Host.Outcome State Fault Refusal :=
  memInsn { op := 0x101, kind := .store, weirs := [0, 1] } f s
/-- SLD. -/
def execSld (f : VFields) (s : State) : Host.Outcome State Fault Refusal :=
  memInsn { op := 0x104, kind := .load, scalar := true, weirs := [0] } f s
/-- SST. -/
def execSst (f : VFields) (s : State) : Host.Outcome State Fault Refusal :=
  memInsn { op := 0x105, kind := .store, scalar := true, weirs := [0, 1] } f s
/-- VLDS. -/
def execVlds (f : VFields) (s : State) : Host.Outcome State Fault Refusal :=
  memInsn { op := 0x106, kind := .load, strided := true, weirs := [0] } f s
/-- VSTS. -/
def execVsts (f : VFields) (s : State) : Host.Outcome State Fault Refusal :=
  memInsn { op := 0x107, kind := .store, strided := true, weirs := [0, 1] } f s

/-! ## Atomics (R202 to R206) -/

/-- ATOM. -/
def execAtom (f : VFields) (s : State) : Host.Outcome State Fault Refusal :=
  memInsn { op := 0x118, kind := .atomic, weirs := [0, 1] } f s
/-- ATOMS. -/
def execAtoms (f : VFields) (s : State) : Host.Outcome State Fault Refusal :=
  memInsn { op := 0x119, kind := .atomic, scalar := true, weirs := [0, 1] } f s
/-- RED. -/
def execRed (f : VFields) (s : State) : Host.Outcome State Fault Refusal :=
  memInsn { op := 0x11A, kind := .red, weirs := [0, 1] } f s
/-- AMAXSWAP. -/
def execAmaxswap (f : VFields) (s : State) : Host.Outcome State Fault Refusal :=
  memInsn { op := 0x11B, kind := .amaxswap, scalar := true, weirs := [0] } f s

/-! ## PROBE and the hints (R194, R195) -/

/-- PROBE: one piece per lane, answered when it is delivered; INLIM is taken at issue. No weir, no limit trap. -/
def execProbe (f : VFields) (s : State) : Host.Outcome State Fault Refusal :=
  issueV 0x113 f s fun s t v =>
    let lanes := v.lanes
    if lanes.isEmpty then s.retire t
    else if t.acquireFault.isSome then s.park t .retry none
    else if s.readsPoison t (if f.va = 448 then [] else [f.va.toNat]) lanes then s.containPool t
    else
      let as := lanes.map fun l =>
        let off := memOff v f false l
        let inlim := limitOk t (mSeg f) off 1
        { lane := l, addr := (segAddr t (mSeg f) off).toNat, x := if inlim then 8 else 0
          pieces := [{ off := 0, len := 1 }], bytes := List.replicate 4 0 : LaneAcc }
      let (id, s) := s.takeId
      s.startOp t (mkOp { op := 0x113, kind := .probe, weirs := [] } f s t id 4 as)

/-- A hint on one lane: its line comes into the device cache and its translation into the translation cache; a
fault, or an offset past the limit, drops the lane (R194). -/
def State.hint (s : State) (t : Team) (seg : Nat) (write : Bool) (off : Dword) : State :=
  if seg = 1 || !limitOk t seg off 1 then s
  else
    let va := (segAddr t seg off).toNat
    match s.translate (portOf t.tid) t.ctx va .read, s.translate (portOf t.tid) t.ctx va .write with
    | .ok pa nc, w =>
      if write && (match w with | .fault _ => true | .ok _ _ => false) then s
      else (let s1 := s.fillTlb (portOf t.tid) t.ctx va; if nc then s1 else s1.touchSlice pa 1 false)
    | .fault _, _ => s

/-- PLD and PST: the device may follow the hint or ignore it. -/
def hintInsn (op : Nat) (write : Bool) (f : VFields) (s : State) : Host.Outcome State Fault Refusal :=
  issueV op f s fun s t v =>
    let (b, s) := s.drawBool
    let offs := v.lanes.map fun l => memOff v f false l
    (if b then offs.foldl (fun s o => s.hint t (mSeg f) write o) s else s).retire t

/-- PLD. -/
def execPld (f : VFields) (s : State) : Host.Outcome State Fault Refusal := hintInsn 0x108 false f s
/-- PST. -/
def execPst (f : VFields) (s : State) : Host.Outcome State Fault Refusal := hintInsn 0x109 true f s

/-! ## SDRAIN and FENCE (R197, R201) -/

/-- Posted stores of a team have not all performed, or a record or an entry of one is not yet dealt with (R197). -/
def State.draining (s : State) (h : Handle) : Bool :=
  s.storesLive h || (s.core (coreOf h)).buffer.any fun w => w.tid == h

/-- SDRAIN. -/
def execSdrain (f : VFields) (s : State) : Host.Outcome State Fault Refusal :=
  issueV 0x112 f s fun s t _ =>
    if s.draining t.tid then s.holdOrRetry t .sdrain (s.hasEntry t [2]) else s.retire t

/-- The tags that a team's strong reads found still wait for a drain (R304, R308). -/
def State.readTagsOpen (s : State) (t : Team) : Bool := t.readTags.any fun x => s.bufOpen x.1 x.2

/-- FENCE: held until the team's earlier accesses have been performed, as its release and acquire sides ask; a
core-local release makes the team's later strong writes releases; an acquire at `.die` or wider drops the load
cache, and at `.dev` or wider it waits for the tags that earlier strong reads found. -/
def execFence (f : VFields) (s : State) : Host.Outcome State Fault Refusal :=
  issueV 0x114 f s fun s t _ =>
    let rel := decide (2 ≤ mOrd f)
    let acq := mOrd f != 2
    let scope := mScope f
    if t.acquireFault.isSome then s.park t .retry none
    else if rel && !s.releaseReady t scope then s.holdAt t (.release scope)
    else if acq && ((s.ops.any fun o => o.origin.tid == t.tid && (o.returns || o.isStrongRead) && o.lanes.any LaneAcc.open_)
        || (decide (4 ≤ scope) && s.readTagsOpen t)) then s.holdAt t .accesses
    else
      let u := if rel && decide (scope < 3) then { t with fenceMark := s.bufMark (coreOf t.tid) } else t
      let w := if acq && decide (4 ≤ scope) then { u with readTags := [] } else u
      (if acq then s.acquireAt (coreOf t.tid) scope else s).retire w

end Sys2Proof.Machine
end

