-- ==== Sys2Proof/Machine/MemEvents.lean ====
section
/-! DEFINITION. Memory operations as they are performed: pieces of loads and stores, atomics, deliveries, the faults they leave, and the release buffer's drain (R190, R196, R204, R308, R311). -/

namespace Sys2Proof.Machine

/-! ## Registers written by a delivery -/

/-- A write meets a B run of an operation: its results are undefined (R238). -/
def MatrixOp.written (o : MatrixOp) (h : Handle) (ws : List LaneWrite) : MatrixOp :=
  if o.runs.any fun r => r.1 == h && ws.any fun w => decide (r.2 ≤ w.reg) && decide (w.reg < r.2 + o.runLen) then
    { o with wild := true }
  else o

/-- Write slices of a team's vector registers: words written lose their poison (R291), and operations on a B run
that is written lose their values (R238). -/
def State.putLanes (s : State) (h : Handle) (ws : List LaneWrite) : State :=
  match s.team? h with
  | none => s
  | some t =>
    let keep := fun (u : Unit32) => match u with
      | .reg g r l => !(g == h && ws.any fun w => w.reg == r && w.lane == l)
      | _ => true
    ((s.modTeam h fun t => t.setLanes ws).modPlot t.plot fun p => { p with poison := p.poison.filter keep }).modCrewOps
      t.plot fun o => o.written h ws

/-- The element format of an operation. -/
def MemOp.format (o : MemOp) : Fmt := fmtOf (o.fmt % 16) (o.fmt / 16)

/-- Words of a run of bytes. -/
def bytesToWords : List Byte → List Word
  | a :: b :: c :: d :: r => BitVec.ofNat 32 (ofBytes [a, b, c, d]) :: bytesToWords r
  | _ => []

/-- The value that a scalar operation delivers: sign-extended for a load under the s formats, else zero-extended
(R187, R206). -/
def MemOp.scalarValue (o : MemOp) (bs : List Byte) : Dword :=
  match o.kind with
  | .load => if o.format.isS then sext (8 * o.size) (ofBytes bs) else dw (ofBytes bs)
  | _ => dw (ofBytes bs)

/-- A choice between the delivered value and the one that stands, where the team wrote the register meanwhile
(R84): the kept writes. -/
def keepWrites (o : MemOp) : State → List LaneWrite → State × List LaneWrite
  | s, [] => (s, [])
  | s, w :: r =>
    if o.overwritten.contains (w.reg, w.lane) then
      let (b, s1) := s.drawBool
      let (s2, ws) := keepWrites o s1 r
      (s2, if b then w :: ws else ws)
    else
      let (s2, ws) := keepWrites o s r
      (s2, w :: ws)

/-- Write the values of delivered lanes into an operation's destination; a lane frozen since the operation issued keeps
its slices (R108, R364). -/
def State.writeDest (s : State) (o : MemOp) (good : List LaneAcc) : State :=
  if o.scalar then
    match good with
    | [] => s
    | a :: _ =>
      let (b, s1) := if o.overwritten.isEmpty then (true, s) else s.drawBool
      if b then s1.modTeam o.origin.tid fun t => t.setS o.dest (o.scalarValue a.bytes) else s1
  else
    let frozen := match s.team? o.origin.tid with | some t => t.hold | none => 0
    let ws := (good.filter fun a => !frozen.getLsbD a.lane || o.thawed.contains a.lane).flatMap fun a =>
      (bytesToWords a.bytes).zipIdx.map fun x => { reg := o.dest + x.2, lane := a.lane, val := x.1 : LaneWrite }
    let (s1, ws1) := keepWrites o s ws
    s1.putLanes o.origin.tid ws1

/-- KIND 2 weirs on delivered lanes that are not frozen, of every instruction but PROBE (R358, R361, R364): counted and
recorded now. A stop acts at the team's next instruction boundary, which is now unless its instruction has begun to act or
it is parked in one; a trap of a team that is HALTED or PREEMPTED waits until it runs again. -/
def State.deliveryWeirs (s : State) (o : MemOp) (good : List LaneAcc) : State :=
  match s.team? o.origin.tid with
  | none => s
  | some t =>
    let good := if o.kind == .probe then [] else if o.scalar then good else good.filter fun a => !t.hold.getLsbD a.lane
    let ev : Events :=
      { scalar := o.scalar
        loaded := good.map fun a => { lane := a.lane, value := ofBytes a.bytes, bits := 8 * o.size, addr := a.addr } }
    let at_ : Clause :=
      { addr := 0, hdr := 0, body := [], idx := o.origin.idx
        rep := some { n := 0, stepD := 0, stepA := 0, stepB := 0, m := o.origin.issue } }
    let r := evalWeirs s { t with clause := some at_ } o.origin.pc 1 [2] ev
    let s1 := r.state.freeze t.tid r.frozen
    match r.stop with
    | none => s1
    | some g =>
      let begun := (match t.held with | some (h, _) => h.begun | none => false)
        || (match t.run with | .parked _ _ => true | _ => false)
      if begun || (g.action == 6 && (t.stop == some .halted || t.preempted)) then s1.modTeam t.tid fun u => u.addLate (some g)
      else s1.weirStop t.tid g

/-! ## Faults that an operation leaves (R190, R196, R385, R388) -/

/-- Faults of a lane: of the access, or of the pieces that a store's lane is split into (R311). -/
def LaneAcc.faults (a : LaneAcc) : List LaneFault := a.fault.toList ++ a.pieces.filterMap Piece.fault

/-- Faulting pages of an operation, ascending, each with its lanes and the fault that they met there (R294, R388). -/
def faultPages (as : List LaneAcc) : List (Nat × List LaneAcc) :=
  let live := as.filter fun a => !a.resolved
  let pages := (live.flatMap LaneAcc.faults).foldl (fun l f => addTo f.page l) []
  pages.map fun p => (p, live.filterMap fun a =>
    (a.faults.find? fun f => f.page == p).map fun f => { a with fault := some f })

/-- The cause of a lane's fault. -/
def LaneAcc.cause (a : LaneAcc) : Nat := match a.fault with | some f => f.cause | none => 0
/-- The faulting address of a lane. -/
def LaneAcc.faultAddr (a : LaneAcc) : Nat := match a.fault with | some f => f.addr | none => 0

/-- ORIGIN of an operation's retry-ring entry (R385). -/
def MemOp.originCode (o : MemOp) : Nat :=
  match o.kind with
  | .atomic | .amaxswap => 1
  | .red => 2
  | _ => 0

/-- The entry or record that the lanes of one page make. -/
def MemOp.heldFor (o : MemOp) (p : Nat × List LaneAcc) : Held :=
  let store := match o.kind with | .store => true | _ => false
  let low := minBy LaneAcc.faultAddr p.2
  { store, originCode := o.originCode, origin := o.origin, opId := o.id, lanes := p.2.map LaneAcc.lane
    cause := match (if store then low else p.2.head?) with | some a => a.cause | none => 0
    page := p.1
    engAddr := match low with | some a => a.faultAddr | none => 0
    lane := if o.scalar then 0 else match low with | some a => a.lane | none => 0
    offs := p.2.map fun a => (a.lane, wrap 32 ((a.addr : Int) - p.1))
    opnds := p.2.map fun a => (a.lane, a.x, if o.aop = 7 then a.y else 0)
    dest := if o.originCode = 2 then 0 else o.dest }

/-- The operation is over. -/
def State.endOp (s : State) (o : MemOp) : State :=
  let mine := fun (r : Req) => match r.kind with | .atomic i _ => i == o.id | _ => false
  ({ s with ops := s.ops.filter fun q => !(q.id == o.id), reqs := s.reqs.filter fun r => !mine r }.modTeam o.origin.tid
    fun t => t.lowerCount o.flag).finishLaunch o.origin.ctx o.origin.lid |>.freePlot o.origin.plot

/-- An operation's faults wait to be written (R325); a faulted acquire holds the team's later memory
instructions (R316). -/
def State.raiseFaults (s : State) (o : MemOp) (ps : List (Nat × List LaneAcc)) : State :=
  let s1 := s.modCtx o.origin.ctx fun c => { c with held := c.held ++ ps.map o.heldFor }
  let s2 := s1.modOp o.id fun q => { q with delivered := true, unwritten := ps.length }
  if o.isAcquire then s2.modTeam o.origin.tid fun t => { t with acquireFault := some o.id } else s2

/-- The save of a pre-emption is in progress for an operation's launch (R336). -/
def State.saving (s : State) (o : MemOp) : Bool :=
  match s.launch? o.origin.ctx o.origin.lid with
  | some l => (match l.phase with | .saving => true | _ => false)
  | none => false

/-- Error replies that reach a team while it is being saved are kept as a deferred failure, and the lanes'
destinations hold undefined values (R390). -/
def State.deferErrors (s : State) (o : MemOp) : State :=
  let bad := o.lanes.filter fun a => decide (8 ≤ a.cause)
  match bad with
  | [] => s
  | b :: _ =>
    let s1 := s.modTeam o.origin.tid fun t =>
      { t with
        deferred := t.deferred ++
          [{ cause := b.cause, pc := o.origin.pc, mask := maskOf (bad.map LaneAcc.lane), addr := b.faultAddr }] }
    bad.foldl (fun s a =>
      let d := s.drawFree
      d.2.writeDest o [{ a with bytes := toBytes o.size (d.1.toNat + d.1.toNat * 2 ^ 64) }]) s1

/-- A load or a value-returning atomic delivers (R190): lanes that passed are written, weirs evaluated, the flag
count ends, or stays for the entries of the faulted lanes. The supervisor's own fault halts it (R383). -/
def State.deliver (s : State) (o : MemOp) : State :=
  match s.team? o.origin.tid with
  | none => s.endOp o
  | some t =>
    let good := o.lanes.filter fun a => a.fault.isNone
    let s1 := (s.writeDest o good).deliveryWeirs o good
    let s2 := if o.isAcquire then s1.acquireAt (coreOf t.tid) o.scope else s1
    let s2 := if s.saving o then s2.deferErrors o else s2
    match faultPages (if s.saving o then o.lanes.filter fun a => decide (a.cause < 8) else o.lanes) with
    | [] => s2.endOp o
    | p :: ps =>
      if s.isSup t then
        let e := o.heldFor p
        match (s2.endOp o).team? t.tid with
        | some u => (s2.endOp o).supFault u e.cause e.engAddr
        | none => s2.endOp o
      else s2.raiseFaults o (p :: ps)

/-- A posted store or RED with nothing left to perform ends, or leaves its faults (R196). An operation that returns values
waits for its delivery (R190). -/
def State.finishStore (s : State) (id : Nat) : State :=
  match s.op? id with
  | none => s
  | some o =>
    if o.returns || o.delivered || o.lanes.any LaneAcc.open_ then s
    else
      match faultPages o.lanes with
      | [] => s.endOp o
      | ps =>
        let red := match o.kind with | .red => true | _ => false
        match s.team? o.origin.tid with
        | some t =>
          if red && s.isSup t then
            let e := o.heldFor (ps.headD (0, []))
            (s.endOp o).supFault t e.cause e.engAddr
          else s.raiseFaults o ps
        | none => s.raiseFaults o ps

/-- Some lanes of an operation received poison (R393): the instruction writes nothing, and the team is contained.
While the team is being saved the error is kept as a lane's failure (R390). -/
def State.poisonOp (s : State) (o : MemOp) (lanes : List Nat) (pa : Option Nat) : State :=
  let (a, s) : Nat × State := match pa with
    | some p => (p / 32 * 32, s)
    | none => let d := s.drawFree; (d.1.toNat % 2 ^ 52, d.2)
  if s.saving o && o.returns then
    let mark := fun (x : LaneAcc) =>
      if lanes.contains x.lane then { x with fault := some { cause := 8, page := 0, pageSize := 4096, addr := a } } else x
    s.modOp o.id fun q => { q with lanes := q.lanes.map mark }
  else
    let s1 := s.endOp o
    match s1.team? o.origin.tid with
    | some t => s1.contain t 8 a o.origin.pc o.origin.issue
    | none => s1

/-! ## Pieces of loads -/

/-- Change a lane of an operation. -/
def MemOp.modLane (o : MemOp) (lane : Nat) (f : LaneAcc → LaneAcc) : MemOp :=
  { o with lanes := updFirst (fun a => a.lane == lane) f o.lanes }

/-- SIZE code of a page (R195). -/
def sizeCode (n : Nat) : Nat :=
  if n = 2 ^ 12 then 0 else if n = 2 ^ 16 then 1 else if n = 2 ^ 21 then 2 else if n = 2 ^ 25 then 3 else 4

/-- An access that the walk permits, whether or not its module can be reached (R195). -/
def Xlat.permitted : Xlat → Bool
  | .ok _ _ => true
  | .fault f => f.cause == 9

/-- The status word of PROBE (R195); inlim stands in place already. -/
def probeWord (s : State) (o : MemOp) (a : LaneAcc) : Nat :=
  let sup := match s.ctx? o.origin.ctx with | some c => c.supervisor == o.origin.tid | none => false
  let mayWrite := !(o.seg == 2 || o.seg == 6 || (o.seg == 3 && !sup))
  if o.seg = 1 then 15 * 16 + a.x.toNat + 7
  else
    match s.leafOf (portOf o.origin.tid) o.origin.ctx a.addr with
    | .stopped _ => 15 * 16 + a.x.toNat
    | .leaf e =>
      sizeCode e.size * 16 + a.x.toNat + 4
        + (if mayWrite && (leafCheck s e a.addr .write).permitted then 2 else 0)
        + (if (leafCheck s e a.addr .read).permitted then 1 else 0)

/-- One piece of a load is sampled, if it may be (R191, R308, R311); an acquire that finds its line tagged waits for
the promotion. -/
def State.samplePiece (s : State) (id : Nat) (hostErr : Bool) (x : Nat × Nat) : State :=
  match s.op? id with
  | none => s
  | some o =>
    match o.lanes.find? fun a => a.lane == x.1 && a.open_ with
    | none => s
    | some a =>
      match a.pieces[x.2]? with
      | none => s
      | some p =>
        let core := coreOf o.origin.tid
        let put := fun (bs : List Byte) (a : LaneAcc) =>
          { a with pieces := updAt (fun q => { q with done := true }) a.pieces x.2, bytes := patch a.bytes p.off bs }
        match o.kind with
        | .probe => s.modOp id fun q => q.modLane x.1 (put (toBytes 4 (probeWord s o a)))
        | _ =>
          if p.done || o.promoted || !s.pieceReady o a p then s
          else if s.mustPromote core o.scope o.isAcquire (s.pieceAt o a p) then
            s.modOp id fun q => { q with promoted := true }
          else
            match s.sample o a p hostErr with
            | (.bytes bs, s1) =>
              let s2 := s1.modOp id fun q => q.modLane x.1 (put bs)
              let s3 := match s.pieceAt o a p with | some (false, pa) => s2.noteTags o pa | _ => s2
              if o.isAcquire then s3.acquireAt core o.scope else s3
            | (.fault f, s1) => s1.modOp id fun q => q.modLane x.1 fun a => { a with fault := some f }
            | (.poison pa, s1) => s1.poisonOp o [x.1] pa

/-- Every piece of an operation, lane by lane. -/
def MemOp.allPieces (o : MemOp) : List (Nat × Nat) :=
  o.lanes.flatMap fun a => (List.range a.pieces.length).map fun k => (a.lane, k)

/-- An operation that returns values delivers once nothing of it is open. -/
def State.deliverIfDone (s : State) (id : Nat) : State :=
  match s.op? id with
  | none => s
  | some o => if o.returns && !o.delivered && !o.lanes.any LaneAcc.open_ then s.deliver o else s

/-- Sample pieces of a load, then deliver it if it is whole. -/
def State.samplePieces (s : State) (id : Nat) (hostErr : Bool) (ps : List (Nat × Nat)) : State :=
  (ps.foldl (fun s x => s.samplePiece id hostErr x) s).deliverIfDone id

/-- LOAD_DELIVERY (R190): the pieces in arg.pairs (lane and piece; every piece when the list is empty) of operation
arg.a are sampled, and the operation delivers once nothing of it is open. arg.flag says that the host, or a peer, ends reads of
its memory with an error. -/
def execLoadDelivery (s : State) : Host.Outcome State Fault Refusal :=
  .next (match s.op? s.arg.a with
  | none => s
  | some o =>
    match o.kind with
    | .load | .probe =>
      if o.delivered then s
      else s.samplePieces o.id s.arg.flag (if s.arg.pairs.isEmpty then o.allPieces else s.arg.pairs)
    | _ => s.deliverIfDone o.id)

/-! ## Pieces of stores -/

/-- A write of a team that stands in its core's release buffer goes to the host window. -/
def State.hostBuffered (s : State) (core : Nat) (h : Handle) : Bool :=
  (s.core core).buffer.any fun w => w.tid == h && s.isHost w.pa

/-- A store through segment E, which the supervisor alone makes, meets entries of its estate (R341). -/
def State.spoilEstate (s : State) (o : MemOp) (va n : Nat) : State :=
  if o.seg = 3 then
    s.modTeam o.origin.tid fun t =>
      let base := (t.seg 3).base.toNat
      { t with estate := t.estate.zipIdx.map fun x =>
          if runsMeet (base + 32 * x.2) 32 va n then { x.1 with spoiled := true } else x.1 }
  else s

/-- A piece of a store is performed: in the scratchpad, at its home, or into the release buffer; or it faults. The pieces
of a lane that crosses a sector boundary are accesses of their own (R311), and what a data race writes is undefined (R12).
Log entries 34 and 84. -/
def State.performPiece (s : State) (o : MemOp) (a : LaneAcc) (k : Nat) (p : Piece) (via : Bool) : State :=
  let core := coreOf o.origin.tid
  let port := portOf o.origin.tid
  let va := a.addr + p.off
  let (bs, s) := if s.racing o (s.pieceAt o a p) p.len then s.drawBytes p.len else ((a.bytes.drop p.off).take p.len, s)
  let over_ := fun (f : Option LaneFault) (s : State) => (s.modOp o.id fun q => q.modLane a.lane fun b =>
    { b with pieces := updAt (fun r => { r with done := true, fault := f }) b.pieces k }).finishStore o.id
  if o.seg = 1 then over_ none (s.writeScratch o.id o.origin.plot va bs)
  else
    match s.translate port o.origin.ctx va .write with
    | .fault f => over_ (some { f with addr := va }) (s.fillTlb port o.origin.ctx va)
    | .ok pa nc =>
      let s1 := (s.fillTlb port o.origin.ctx va).spoilEstate o va p.len
      let refused := if s.isHost pa then none else s.outsideFault s.arg.hostErr port o.origin.ctx va pa
      if refused.isSome then over_ refused s1
      else if via || s.bufMeets core pa p.len || (s.isHost pa && s.hostBuffered core o.origin.tid) then
        if bufferSize ≤ (s.core core).buffer.length then s
        else
          let (q, s2) := s1.takeId
          let w : BufWrite :=
            { seq := q, pa, bytes := bs, opId := o.id, tid := o.origin.tid, ctx := o.origin.ctx, lid := o.origin.lid, nc }
          over_ none (s2.modCore core fun c => { c with buffer := c.buffer ++ [w] })
      else over_ none ((s1.storeHome core o.id nc pa bs).tagLine (lineOf pa) core o.mark)

/-- STORE_PERFORM (R196, R311, R405): piece arg.c of lane arg.b of posted store arg.a is performed, or enters its core's
release buffer (arg.flag), or faults; arg.hostErr says that a peer refuses it. -/
def execStorePerform (s : State) : Host.Outcome State Fault Refusal :=
  .next (match s.op? s.arg.a with
  | none => s
  | some o =>
    match o.kind with
    | .store =>
      match o.lanes.find? fun a => a.lane == s.arg.b && a.open_ with
      | none => s
      | some a =>
        match a.pieces[s.arg.c]? with
        | none => s
        | some p => if p.done || !s.pieceReady o a p then s else s.performPiece o a s.arg.c p s.arg.flag
    | _ => s)

/-- RELEASE_BUFFER_DRAIN (R308): the oldest write of core arg.a's release buffer is performed at its home slice. -/
def execReleaseBufferDrain (s : State) : Host.Outcome State Fault Refusal :=
  .next (match (s.core s.arg.a).buffer with
  | [] => s
  | w :: rest =>
    (((s.modCore s.arg.a fun c => { c with buffer := rest }).storeHome s.arg.a w.opId w.nc w.pa w.bytes).dropTags).finishLaunch
      w.ctx w.lid)

/-! ## Atomics (R204 to R206) -/

/-- min or max of R204. -/
def pickAtomic (F : Fmt) (smaller : Bool) (m x : Nat) : Nat × BitVec 8 :=
  let a := valOf F m
  let b := valOf F x
  if b.isNan then (m, fIV)
  else if a.isNan then (x, 0)
  else if smaller then (if belowVal b a then x else m, 0)
  else (if belowVal a b then x else m, 0)

/-- Apply of R204, and cas: the new value of a location, and the flags raised. -/
def applyAtomic (aop : Nat) (F : Fmt) (m x y : Nat) : Nat × BitVec 8 :=
  let n := 2 ^ F.width
  match aop with
  | 3 => (m &&& x, 0)
  | 4 => (m ||| x, 0)
  | 5 => (m ^^^ x, 0)
  | 6 => (x, 0)
  | 7 => (if m = x then y else m, 0)
  | k =>
    if F.isAbsent x then (m, 0)
    else if F.isAbsent m then (x, 0)
    else if k = 0 then
      if F.isFloat then roundRes F .rne false (sumVals false [floatVal F m, floatVal F x])
      else
        let r := (m + x) % n
        (r, if r = F.absent then fAM else 0)
    else pickAtomic F (k == 1) m x

/-- The effect of one lane's atomic on its location. -/
def MemOp.applyLane (o : MemOp) (a : LaneAcc) (m : Nat) : Nat × BitVec 8 :=
  match o.kind with
  | .amaxswap => (o.format.absent, 0)
  | _ => applyAtomic o.aop o.format m a.x.toNat a.y.toNat

/-- Lanes of one address one after another, ascending (R205): the location's value, flags, and what each lane gets
back. -/
def applyLanes (o : MemOp) (as : List LaneAcc) (m : Nat) : Nat × BitVec 8 × List (Nat × Nat) :=
  as.foldl (fun x a =>
    let r := o.applyLane a x.1
    (r.1, x.2.1 ||| r.2, x.2.2 ++ [(a.lane, x.1)])) (m, 0, [])

/-- A PCI Express AtomicOp can do it, if the host completes them (R290). -/
def MemOp.hostAble (o : MemOp) : Bool :=
  (match o.kind with | .atomic => true | _ => false) && (o.aop == 0 || o.aop == 6 || o.aop == 7)
    && (o.format.isIN || o.format.isBT)

/-- The lanes of an address have been performed: what they get back, and flags to the team (R204, R392). Log entry 33. -/
def State.atomicDone (s : State) (o : MemOp) (r : Nat × BitVec 8 × List (Nat × Nat)) : State :=
  let s1 := s.modOp o.id fun q => r.2.2.foldl (fun q x => q.modLane x.1 fun a =>
    { a with pieces := a.pieces.map fun p => { p with done := true }, bytes := toBytes o.size x.2 }) q
  (s1.attribute o.origin.tid o.origin.ctx o.origin.lid r.2.1).finishStore o.id

/-- The lanes of one address of an atomic on P are performed by the core's scratchpad unit as one indivisible step (R204,
R205, R282). -/
def State.scratchAtomic (s : State) (o : MemOp) (as : List LaneAcc) (addr : Nat) : State :=
  if s.scratchPoisoned o.origin.plot addr o.size then s.poisonOp o (as.map LaneAcc.lane) none
  else
    let r := applyLanes o as (ofBytes (s.readScratch o.origin.plot addr o.size))
    (s.writeScratch o.id o.origin.plot addr (toBytes o.size r.1)).atomicDone o r

/-- The lanes of one address of an atomic are performed as one indivisible step at a physical address (R204, R205). -/
def State.atomicAt (s : State) (o : MemOp) (as : List LaneAcc) (pa : Nat) : State :=
  let core := coreOf o.origin.tid
  if s.poisoned pa then s.poisonOp o (as.map LaneAcc.lane) (some pa)
  else
    let r := applyLanes o as (ofBytes (memRead s.mem pa o.size))
    let s1 := (s.homeWrite pa (toBytes o.size r.1)).dropLine core (lineOf pa)
    let s2 := (s1.tagLine (lineOf pa) core o.mark).noteTags o pa
    (if o.isAcquire then s2.acquireAt core o.scope else s2).atomicDone o r

/-- Lanes of an atomic have met a fault. -/
def State.atomicFault (s : State) (o : MemOp) (as : List LaneAcc) (f : LaneFault) : State :=
  (as.foldl (fun s a => s.modOp o.id fun q => q.modLane a.lane fun b => { b with fault := some f }) s).finishStore o.id

/-- An atomic of G goes to a physical address: the host or a peer may end it with an error (R391, R405); at a host window
PCI Express performs it (R290); elsewhere send does what remains. -/
def State.atomicTo (s : State) (o : MemOp) (as : List LaneAcc) (addr : Nat) (send : State → Nat → State) : State :=
  let port := portOf o.origin.tid
  let s1 := s.fillTlb port o.origin.ctx addr
  match s.translate port o.origin.ctx addr (.atomic o.hostAble) with
  | .fault f => s1.atomicFault o as { f with addr }
  | .ok pa _ =>
    if s.bufMeets (coreOf o.origin.tid) pa o.size then s
    else
      match s.outsideFault s.arg.hostErr port o.origin.ctx addr pa with
      | some f => s1.atomicFault o as f
      | none => if localHost (paLocal pa) then s1.atomicAt o as pa else send s1 pa

/-- The lanes of an operation that share an open lane's address, if the lane is open. -/
def MemOp.sameAddress (o : MemOp) (lane : Nat) : Option (Nat × List LaneAcc) :=
  (o.lanes.find? fun a => a.lane == lane && a.open_).map fun a => (a.addr, o.lanes.filter fun b => b.addr == a.addr && b.open_)

/-- What an operation's atomic on an address must come after has been performed. -/
def State.atomicReady (s : State) (o : MemOp) (addr : Nat) : Bool :=
  s.pieceReady o { lane := 1024, addr } { off := 0, len := o.size }

/-- The atomic of a lane, and of every lane of its address, performed at once if it may be (R275, R316): the service of a
retry-ring entry. -/
def State.atomicLane (s : State) (id lane : Nat) : State :=
  match s.op? id with
  | none => s
  | some o =>
    match o.sameAddress lane with
    | none => s
    | some (addr, as) =>
      if !s.atomicReady o addr then s
      else if o.seg = 1 then s.scratchAtomic o as addr
      else s.atomicTo o as addr fun s pa => s.atomicAt o as pa

/-- The atomic of a lane's address is served at its home slice (R40, R204). -/
def State.serveAtomic (s : State) (r : Req) (id lane : Nat) : State :=
  match s.op? id with
  | none => s
  | some o =>
    match o.sameAddress lane with
    | none => s
    | some (_, as) => s.atomicAt o as r.pa

/-- The core that a slice serves next: round-robin from the one after it served last, among cores whose oldest
request there can be served (R40). -/
def State.nextCore (s : State) (slice : Nat) : Option Req :=
  let last := spRead 0 s.lastServed slice
  let heads := (List.range 192).filterMap fun i => s.reqs.find? fun r => r.slice == slice && r.core == (last + 1 + i) % 192
  heads.find? fun r => !r.promoted

/-- A request asks its tagged cores to drain before it is answered (R308). -/
def State.askDrain (s : State) (r : Req) : State :=
  { s with reqs := updFirst (fun x => x.id == r.id) (fun x => { x with promoted := true }) s.reqs }

/-- A slice takes a request to serve it. -/
def State.takeReq (s : State) (r : Req) : State :=
  { s with reqs := s.reqs.filter fun x => !(x.id == r.id), lastServed := spWrite 0 s.lastServed r.slice r.core }

/-- An acquire finds its object's line tagged by another core (R308). -/
def State.reqPromotes (s : State) (r : Req) : Bool :=
  s.mustPromote r.core (r.acquire.getD 0) r.acquire.isSome (some (false, r.pa))

/-- An atomic's request is served if it is its slice's next. -/
def State.atomicTurn (s : State) (r : Req) (id lane : Nat) : State :=
  if s.nextCore r.slice ≠ some r then s
  else if s.reqPromotes r then s.askDrain r
  else (s.takeReq r).serveAtomic r id lane

/-- The request that an operation's atomic of an address has at its home slice. -/
def State.atomicReq? (s : State) (o : MemOp) (as : List LaneAcc) : Option Req :=
  s.reqs.find? fun r => match r.kind with | .atomic i l => i == o.id && as.any fun a => a.lane == l | _ => false

/-- The atomic of a lane's address goes on its way: performed by the scratchpad unit, or sent to its home slice, where it
stands in its core's queue and is served in its turn (R40, R204). -/
def State.sendAtomic (s : State) (id lane : Nat) : State :=
  match s.op? id with
  | none => s
  | some o =>
    match o.sameAddress lane with
    | none => s
    | some (addr, as) =>
      match s.atomicReq? o as with
      | some r => if r.promoted then s else s.atomicTurn r id lane
      | none =>
        if !s.atomicReady o addr then s
        else if o.seg = 1 then s.scratchAtomic o as addr
        else
          s.atomicTo o as addr fun s pa =>
            let (i, s1) := s.takeId
            let r : Req :=
              { id := i, slice := paModule pa * Config.slices + homeSlice pa, core := coreOf o.origin.tid, tid := o.origin.tid
                va := dw addr, pa, kind := .atomic id lane, acquire := if o.isAcquire then some o.scope else none }
            { s1 with reqs := s1.reqs ++ [r] }.atomicTurn r id lane

/-- ATOMIC_PERFORM (R40, R204): the request of lane arg.b's address of operation arg.a arrives, if it is not there yet, and
is performed if it is its home slice's turn. arg.hostErr says that the host or a peer ends it with an error. Log entry 80. -/
def execAtomicPerform (s : State) : Host.Outcome State Fault Refusal :=
  .next (match s.op? s.arg.a with
  | none => s
  | some o =>
    match o.kind with
    | .atomic | .red | .amaxswap => s.sendAtomic o.id s.arg.b
    | _ => s)

/-- A promoted acquire is answered once the tagged cores have drained (R308): the load is sampled at its home slices. -/
def State.answerOp (s : State) (o : MemOp) : State :=
  let core := coreOf o.origin.tid
  let waits := o.lanes.any fun a => a.open_ && a.pieces.any fun p =>
    !p.done && s.mustPromote core o.scope o.isAcquire (s.pieceAt o a p)
  if !o.promoted || waits then s
  else (s.modOp o.id fun q => { q with promoted := false }).samplePieces o.id false o.allPieces

end Sys2Proof.Machine
end

