-- ==== Sys2Proof/Machine/Copies.lean ====
section
/-! DEFINITION. The copy engine (R199, R200), and what every engine shares: its reads and writes, its faults (R385) and its consumption of poison (R393). -/

namespace Sys2Proof.Machine

/-! ## Engines -/

/-- What an engine's access comes to. -/
inductive EngRes (α : Type) where
  | ok (x : α)
  | fault (f : LaneFault)
  | poison (pa : Nat)

/-- An engine reads bytes within one sector, at their home or in the scratchpad; arg.hostErr says that the host, or a peer,
ends a read of its memory with an error (R391, R405). -/
def State.engRead (s : State) (o : Origin) (seg addr n : Nat) : EngRes (List Byte) :=
  if seg = 1 then
    if s.scratchPoisoned o.plot addr n then .poison 0 else .ok (s.readScratch o.plot addr n)
  else
    match s.translate o.port o.ctx addr .read with
    | .fault f => .fault { f with addr }
    | .ok pa _ =>
      match s.outsideFault s.arg.hostErr o.port o.ctx addr pa with
      | some f => .fault f
      | none => if s.poisoned pa then .poison (pa / 32 * 32) else .ok (memRead s.mem pa n)

/-- What an engine's read leaves in the caches of translations and in the device cache (R285, R295). -/
def State.engSeen (s : State) (o : Origin) (seg addr n : Nat) : State := if seg = 1 then s else s.seen o.port o.ctx addr n

/-- How an engine's writes go: the command that they are a part of, and whether they are written through into the issuing
core's load cache, as a copy's and the gleaner's are (R283). -/
structure EngVia where
  writer : Nat := 0
  through : Bool := false
  deriving DecidableEq, Repr

/-- An engine writes bytes within one sector. -/
def State.engWrite (s : State) (o : Origin) (via : EngVia) (seg addr : Nat) (bs : List Byte) : EngRes State :=
  if seg = 1 then .ok (s.writeScratch via.writer o.plot addr bs)
  else
    match s.translate o.port o.ctx addr .write with
    | .fault f => .fault { f with addr }
    | .ok pa nc =>
      match (if s.isHost pa then none else s.outsideFault s.arg.hostErr o.port o.ctx addr pa) with
      | some f => .fault f
      | none =>
        let s1 := (s.fillTlb o.port o.ctx addr).homeWriteBy via.writer nc pa bs
        .ok (if via.through then s1.writeThrough o.core pa bs else s1)

/-- An engine reads a run of bytes, sector by sector: the first fault or poison ends it. -/
def State.engReads (s : State) (o : Origin) (seg addr n : Nat) : EngRes (List Byte) :=
  (sectors addr n).foldr (fun p acc =>
    match s.engRead o seg p.1 p.2 with
    | .ok bs => (match acc with | .ok r => .ok (bs ++ r) | e => e)
    | e => e) (.ok [])

/-- An engine writes a run of bytes sector by sector, and stops at the first fault with what came before
written. -/
def engWritesGo (o : Origin) (via : EngVia) (seg : Nat) : List (Nat × List Byte) → State → State × Option LaneFault
  | [], s => (s, none)
  | (a, bs) :: r, s =>
    match s.engWrite o via seg a bs with
    | .ok s1 => engWritesGo o via seg r s1
    | .fault f => (s, some f)
    | .poison _ => (s, none)

/-- An engine writes a run of bytes. -/
def State.engWrites (s : State) (o : Origin) (via : EngVia) (seg addr : Nat) (bs : List Byte) : State × Option LaneFault :=
  engWritesGo o via seg ((sectors addr bs.length).map fun p => (p.1, (bs.drop (p.1 - addr)).take p.2)) s

/-- An engine command's fault waits to be written as a retry-ring entry charged to its team (R325, R385). -/
def State.engineFault (s : State) (o : Origin) (id code : Nat) (f : LaneFault) : State :=
  s.modCtx o.ctx fun c =>
    { c with held := c.held ++
        [{ store := false, originCode := code, origin := o, opId := id, lanes := [], cause := f.cause, page := f.page
           engAddr := f.addr }] }

/-- An engine command of a team read poison: the team is contained; the notice of a team that has exited has EXITED
set (R393). -/
def State.containEngine (s : State) (o : Origin) (pa : Nat) : State :=
  match s.team? o.tid with
  | some t => s.contain t 8 pa 0 0
  | none =>
    s.post o.ctx
      { cause := 0x41, detail := 8, tid := o.tid, lid := o.lid, pc := 0, issue := 0, info := dw pa, mask := 0, exited := true }

/-- An engine command may act: its team's earlier accesses have been performed, and nothing stands in the core's
release buffer (R200). Log entry 36. -/
def State.engineReady (s : State) (o : Origin) (id : Nat) : Bool :=
  (s.core o.core).buffer.isEmpty &&
    !(s.ops.any fun q => q.origin.tid == o.tid && decide (q.id < id) && q.lanes.any q.lanePending)

/-- The atomic addition of 1 to a dword at a virtual address (R200, R253, R264). -/
def State.addOne (s : State) (o : Origin) (va : Nat) : EngRes State :=
  match s.translate o.port o.ctx va (.atomic true) with
  | .fault f => .fault { f with addr := va }
  | .ok pa _ =>
    match s.outsideFault s.arg.hostErr o.port o.ctx va pa with
    | some f => .fault f
    | none =>
    if s.poisoned pa then .poison (pa / 32 * 32)
    else .ok (((s.fillTlb o.port o.ctx va).homeWrite pa (toBytes 8 (s.physDword pa + 1))).dropLine o.core (lineOf pa))

/-! ## CPY and CPYW -/

/-- Source elements of a copy: bytes when it is raw. -/
def Copy.count (k : Copy) (size : Nat) : Nat := k.rows * k.rowLen / size

/-- Formats of a converting copy: source and destination. -/
def Copy.formats (k : Copy) : Fmt × Fmt := (fmtOf (match k.sfmt with | 1 => 8 | 2 => 9 | _ => 10) 0, fmtOf k.fmt 0)

/-- Bytes of a source element and of a destination element. -/
def Copy.sizes (k : Copy) : Nat × Nat :=
  if k.sfmt = 0 then (1, 1) else (k.formats.1.width / 8, k.formats.2.width / 8)

/-- The segment code of SSEG (R199). -/
def copySeg (n : Nat) : Nat := match n with | 0 => 0 | 1 => 1 | _ => 2

/-- Addresses of element i: source and destination. -/
def Copy.place (k : Copy) (i : Nat) : Nat × Nat :=
  if k.sfmt = 0 then
    (k.src.toNat + i / k.rowLen * k.srcPitch + i % k.rowLen, k.dst.toNat + i / k.rowLen * k.dstPitch + i % k.rowLen)
  else (k.src.toNat + i * k.sizes.1, k.dst.toNat + i * k.sizes.2)

/-- The copy leaves the engine: by flag, by the wake of its team, or by its completion word (R200). Observing it is
an acquire at SCOPE. -/
def State.finishCopy (s : State) (k : Copy) : State :=
  let s0 := s.acquireAt k.origin.core k.scope
  let gone := fun (s : State) => { s with copies := s.copies.filter fun x => !(x.id == k.id) }.freePlot k.origin.plot
  match k.done with
  | .flag f => (gone s0).modTeam k.origin.tid fun t => t.lowerCount f
  | .yield_ =>
    (gone s0).notify k.origin.tid (fun p => match p with | .copy id _ => id == k.id | _ => false) .done
  | .word va =>
    match s0.addOne k.origin va.toNat with
    | .ok s1 => gone s1
    | .poison pa => (gone s0).containEngine k.origin pa
    | .fault f =>
      { s0 with copies := updFirst (fun x => x.id == k.id) (fun x => { x with stopped := true, wordLeft := true }) s0.copies }.engineFault
        k.origin k.id 4 f

/-- Source elements of the unit that a copy writes next, from element i on: a raw copy writes each naturally aligned
8-byte piece of its destination that it covers whole, and every other byte alone; a converting copy writes elements
(R312). -/
def Copy.unit (k : Copy) (i : Nat) : Nat :=
  let d := (k.place i).2
  if k.sfmt = 0 && d % 8 == 0 && decide (i + 8 ≤ k.count k.sizes.1) && (List.range 8).all fun j => (k.place (i + j)).2 == d + j
  then 8 else 1

/-- The bytes of n source elements from i on. -/
def State.copyRead (s : State) (k : Copy) : Nat → Nat → EngRes (List Byte)
  | 0, _ => .ok []
  | n + 1, i =>
    match s.engReads k.origin k.sseg (k.place i).1 k.sizes.1 with
    | .ok bs =>
      match s.copyRead k n (i + 1) with
      | .ok r => .ok (bs ++ r)
      | e => e
    | e => e

/-- What a unit's read leaves in the caches. -/
def State.copySeen (s : State) (k : Copy) (i n : Nat) : State :=
  (List.range n).foldl (fun s j => s.engSeen k.origin k.sseg (k.place (i + j)).1 k.sizes.1) s

/-- Copy units from element i on, at most n of them, in ascending order (R200, R312): how far it came, and what stopped
it. -/
def copyElems (k : Copy) : Nat → Nat → State → State × Nat × Option (LaneFault ⊕ Nat)
  | 0, i, s => (s, i, none)
  | n + 1, i, s =>
    if k.count k.sizes.1 ≤ i then (s, i, none)
    else
      let u := k.unit i
      let s1 := s.copySeen k i u
      match s.copyRead k u i with
      | .fault f => (s1, i, some (.inl f))
      | .poison pa => (s1, i, some (.inr pa))
      | .ok bs =>
        let r : List Byte × BitVec 8 :=
          if k.sfmt = 0 then (bs, 0)
          else let c := convert k.formats.2 k.formats.1 .rne false (ofBytes bs); (toBytes k.sizes.2 c.1, c.2)
        match s1.engWrites k.origin { writer := k.id, through := true } k.dseg (k.place i).2 r.1 with
        | (s2, some f) => (s2, i, some (.inl f))
        | (s2, none) => copyElems k n (i + u) (s2.attribute k.origin.tid k.origin.ctx k.origin.lid r.2)

/-- Change a copy in the engine. -/
def State.modCopy (s : State) (id : Nat) (f : Copy → Copy) : State :=
  { s with copies := updFirst (fun x => x.id == id) f s.copies }

/-- The copy engine runs a copy on by at most n units: to its end, or to a fault that stops it. Log entry 35. -/
def State.runCopy (s : State) (k : Copy) (n : Nat) : State :=
  if k.stopped || !s.engineReady k.origin k.id then s
  else if k.wordLeft then s.finishCopy k
  else
    match copyElems k n k.progress s with
    | (s1, i, none) =>
      if k.count k.sizes.1 ≤ i then s1.finishCopy k else s1.modCopy k.id fun x => { x with progress := i }
    | (s1, i, some (.inl f)) =>
      (s1.modCopy k.id fun x => { x with stopped := true, progress := i }).engineFault k.origin k.id 4 f
    | (s1, _, some (.inr pa)) =>
      ({ s1 with copies := s1.copies.filter fun x => !(x.id == k.id) }.containEngine k.origin pa).freePlot k.origin.plot

/-- COPY_COMPLETE (R200): the copy arg.a runs to its end, or, under arg.flag, on by arg.b units (R312). -/
def execCopyComplete (s : State) : Host.Outcome State Fault Refusal :=
  .next (match s.copies.find? fun k => k.id == s.arg.a with
  | none => s
  | some k => s.runCopy k (if s.arg.flag then s.arg.b else k.count k.sizes.1))

/-- Bytes that a copy's range spans, from its first byte. -/
def rangeSpan (rows rowLen pitch : Nat) : Nat := if rows = 0 ∨ rowLen = 0 then 0 else (rows - 1) * pitch + rowLen

/-- The trap of a range that passes its segment's limit (R114, R200). -/
def rangeTrap (t : Team) (seg span : Nat) (off : Dword) : Option TrapInfo :=
  if span = 0 then none else limitTrap t seg span [(0, off)]

/-- The continuation of a `.yield` copy: VC as a signed number of parcels (R199). -/
def copyCont (f : VFields) (t : Team) : Dword := t.insnPc + sext 9 f.vc.toNat * 4

/-- A copy is handed to the engine, the shape of its rows given. -/
def copyInsn (op : Nat) (shape : Team → Nat × Nat × Nat × Nat) (f : VFields) (s : State) :
    Host.Outcome State Fault Refusal :=
  issueV op f s fun s t v =>
    if t.acquireFault.isSome then s.park t .retry none
    else
      let (rows, rowLen, sp, dp) := shape v
      let src := v.getS f.va.toNat
      let dst := v.getS f.vd.toNat
      let k : Copy :=
        { id := 0, origin := t.origin, sseg := copySeg (cSseg f), dseg := cDseg f, src := segAddr t (copySeg (cSseg f)) src
          dst := segAddr t (cDseg f) dst, rowLen, rows, srcPitch := sp, dstPitch := dp, fmt := f.fmt.toNat
          sfmt := cSfmt f, scope := cScope f
          done := match cDone f with
            | 0 => .flag t.flagB
            | 1 => .yield_
            | _ => .word (segAddr t 0 (v.getS f.vc.toNat)) }
      let elems := rows * rowLen / k.sizes.1
      let word := v.getS f.vc.toNat
      let trap := (rangeTrap t k.sseg (rangeSpan rows rowLen sp) src).or
        ((rangeTrap t k.dseg (if k.sfmt = 0 then rangeSpan rows rowLen dp else elems * k.sizes.2) dst).or
          (if cDone f = 2 then (limitTrap t 0 8 [(0, word)]).or (alignTrap t 0 8 [(0, word)]) else none))
      match trap with
      | some x => s.takeTrap t x
      | none =>
        if rows * rowLen % k.sizes.1 ≠ 0 then s.illegal t
        else
          let (id, s1) := s.takeId
          let k := { k with id }
          let s2 := { s1 with copies := s1.copies ++ [k] }
          match k.done with
          | .flag fl =>
            let s3 := s2.retire (t.raiseCount fl)
            if elems = 0 then s3.finishCopy k else s3
          | .yield_ =>
            if elems = 0 then (s2.finishCopy k).retireAt t (copyCont f t) else s2.park t (.copy id (copyCont f t)) none
          | .word _ =>
            let s3 := s2.retire t
            if elems = 0 then (s3.modCopy id fun x => { x with wordLeft := true }).runCopy { k with wordLeft := true } 0 else s3

/-- CPY: one run of bytes, its length in a register or in LIT (R199). -/
def execCpy (f : VFields) (s : State) : Host.Outcome State Fault Refusal :=
  copyInsn 0x110 (fun v => (1, if f.vb = 448 then litNat f else (v.getS f.vb.toNat).toNat, 0, 0)) f s

/-- CPYW: rows of LIT bytes, with pitches and row count in s[VB] and s[VB + 1] (R199). -/
def execCpyw (f : VFields) (s : State) : Host.Outcome State Fault Refusal :=
  copyInsn 0x111 (fun v =>
    (dbits (v.getS (f.vb.toNat + 1)) 31 0, litNat f, dbits (v.getS f.vb.toNat) 63 32, dbits (v.getS f.vb.toNat) 31 0)) f s

end Sys2Proof.Machine
end

