-- ==== Sys2Proof/Machine/Objects.lean ====
section
/-! DEFINITION. Estates and the objects that the home slices keep: entries (R340 to R342), locks, promises and permit pools (R343 to R346), their waiters, receivers (R348) and what a conveyance does (R350); barrier words (R209, R211); the synchronisation table (R286). -/

namespace Sys2Proof.Machine

/-! ## Estate entries (R340, R341) -/

/-- KIND code of an entry (R340). -/
def EKind.code : EKind → Nat
  | .lock => 1 | .promise => 2 | .permit => 3

/-- The four dwords of an entry in segment E (R340). -/
def Estate.dwords (e : Estate) : List Nat :=
  [e.obj.toNat / 8 * 8 + e.kind.code, e.count * 2 ^ 32 + (if e.inherited then 2 ^ 8 else 0) + e.heir.toNat,
   e.handle.toNat * 2 ^ 32, e.sender.toNat * 2 ^ 32]

/-- Write the places of an estate array that differ between two estates; a place past the end reads as zeros
(R340, R341); its lines leave the core's load cache, so that the team's loads through E see it. Log entry 38. -/
def State.writeEstate (s : State) (t : Team) (old new : List Estate) : State :=
  (List.range (max old.length new.length)).foldl (fun s i =>
    if old[i]? = new[i]? then s
    else
      let ds := match new[i]? with | some e => e.dwords | none => [0, 0, 0, 0]
      let va := (t.seg 3).base.toNat + 32 * i
      match s.vWrite (portOf t.tid) t.ctx va (dwordBytes ds) with
      | .inl s1 =>
        (sectors va 32).foldl (fun s2 p =>
          match s.translate (portOf t.tid) t.ctx p.1 .write with
          | .ok pa _ => s2.dropLine (coreOf t.tid) (lineOf pa)
          | .fault _ => s2) s1
      | .inr _ => s) s

/-- Change a team's estate, in its registers of standing and in its array in E (R341, R342). -/
def State.setEstate (s : State) (h : Handle) (f : List Estate → List Estate) : State :=
  match s.team? h with
  | none => s
  | some t => (s.writeEstate t t.estate (f t.estate)).modTeam h fun u => { u with estate := f t.estate }

/-- A team's entry of a kind for an object. -/
def Team.entry? (t : Team) (k : EKind) (obj : Dword) : Option Estate :=
  t.estate.find? fun e => e.kind == k && e.obj == obj

/-- An estate without its entry of a kind for an object. -/
def dropEntry (k : EKind) (obj : Dword) (es : List Estate) : List Estate :=
  es.filter fun e => !(e.kind == k && e.obj == obj)

/-- The estate has no free entry (R212, R264). Log entry 39. -/
def State.estateFull (s : State) (t : Team) : Bool :=
  decide (hEstate (s.header t) ≤ t.estate.length + t.reservedEntries)

/-- Add a conveyed or granted entry: permits are added to the receiver's entry for the pool, if it has one
(R217, R350). -/
def addEntry (e : Estate) (es : List Estate) : List Estate :=
  match e.kind with
  | .permit =>
    if es.any fun x => x.kind == .permit && x.obj == e.obj then
      updFirst (fun x => x.kind == .permit && x.obj == e.obj) (fun x => { x with count := x.count + e.count }) es
    else es ++ [e]
  | _ => es ++ [e]

/-! ## Words (R343 to R345) -/

/-- BEREAVED of a lock word. -/
def lockBereaved : Nat := 2 ^ 31
/-- ORPHAN of a lock word. -/
def lockOrphan : Nat := 2 ^ 30

/-- The lock word with a holder, SEQ advanced, BEREAVED kept or set, ORPHAN clear (R346). -/
def lockTo (w : Nat) (h : Handle) (bereaved : Bool) : Nat :=
  h.toNat * 2 ^ 32 + (if bereaved || bit w 31 then lockBereaved else 0) + (w + 1) % 2 ^ 16

/-- STATE of a promise. -/
def promiseState (w : Nat) : Nat := bits w 31 28

/-- Word 0 of a promise. -/
def promiseWord (h : Handle) (state : Nat) (bereaved : Bool) : Nat :=
  h.toNat * 2 ^ 32 + state * 2 ^ 28 + (if bereaved then 2 ^ 27 else 0)

/-- A pool word with AVAIL and BRET. -/
def poolWord (avail bret : Nat) : Nat := min bret (2 ^ 32 - 1) * 2 ^ 32 + avail % 2 ^ 32

/-- Write a dword of an object at its home slice. -/
def State.setWord (s : State) (pa w : Nat) : State := s.homeWrite pa (toBytes 8 w)

/-! ## The synchronisation table (R286) -/

/-- The slice that serves an address: its module's, and the home slice there. -/
def sliceOf (pa : Nat) : Nat := paModule pa * Config.slices + homeSlice pa

/-- The grid barrier at which a team is parked, if any. -/
def Team.gridWait (t : Team) : Option Nat :=
  match t.run with
  | .parked (.barrier (.grid pa) _ _ _) _ => some pa
  | _ => none

/-- The heap that a request asks for, if any. -/
def Req.heap? (r : Req) : Option Nat :=
  match r.kind with
  | .heapoffer _ _ | .heapseal _ | .heapread _ _ => some r.pa
  | _ => none

/-- Objects with an entry in a slice's table: locks, pools, promises and barrier words with waiters, monitor lines with
arms, and heaps with requests to serve. Log entry 95. -/
def State.tableKeys (s : State) (slice : Nat) : List (Nat × Nat) :=
  let locks := s.lockQ.map fun w => ((0, w.pa) : Nat × Nat)
  let pools := s.permitQ.map fun w => ((1, w.pa) : Nat × Nat)
  let promises := s.promiseQ.map fun w => ((2, w.pa) : Nat × Nat)
  let bars := (s.teams.filterMap Team.gridWait).map fun pa => ((3, pa) : Nat × Nat)
  let lines := s.arms.map fun a => ((4, a.line * 64) : Nat × Nat)
  let heaps := (s.reqs.filterMap Req.heap?).map fun pa => ((5, pa) : Nat × Nat)
  distinct ((locks ++ pools ++ promises ++ bars ++ lines ++ heaps).filter fun k => sliceOf k.2 == slice)

/-- Entries of a slice's table (R286). -/
def tableSize : Nat := 4096

/-- A slice's entries in the backing store: a spilled entry returns when space frees, the first spilled first. -/
def State.awayKeys (s : State) (slice : Nat) : List (Nat × Nat) :=
  let keys := s.tableKeys slice
  let away := s.spilled.filter keys.contains
  away.drop (tableSize - (keys.length - away.length))

/-- A slice's table has space for one more entry. -/
def State.tableRoom (s : State) (slice : Nat) : Bool :=
  decide ((s.tableKeys slice).length - (s.awayKeys slice).length < tableSize)

/-- An entry is used: it is the most recently used of its slice. -/
def State.useEntry (s : State) (k : Nat × Nat) : State :=
  let keys := s.tableKeys (sliceOf k.2)
  { s with syncOrder := (s.syncOrder.filter fun x => x != k && (sliceOf x.2 != sliceOf k.2 || keys.contains x)) ++ [k] }

/-- While a full table has monitor arms, the oldest goes, and its team gets status 3 (R208, R286). -/
def evictArms (slice : Nat) : Nat → State → State
  | 0, s => s
  | n + 1, s =>
    if s.tableRoom slice then s
    else
      match s.arms.find? fun a => sliceOf (a.line * 64) == slice with
      | none => s
      | some a => evictArms slice n ({ s with arms := s.arms.erase a }.modTeam a.tid fun t => t.endArm 3)

/-- A full table without a monitor arm gives its least recently used entry to the backing store (R286). -/
def State.spillEntry (s : State) (slice : Nat) : State :=
  let away := s.awayKeys slice
  let here := (s.tableKeys slice).filter fun k => !away.contains k
  match (s.syncOrder.find? here.contains).or here.head? with
  | some k => { s with spilled := (s.spilled.filter fun x => sliceOf x.2 != slice || away.contains x) ++ [k] }
  | none => s

/-- An entry for an object, made where it has none, and used (R286). -/
def State.needEntry (s : State) (kind pa : Nat) : State :=
  let slice := sliceOf pa
  let s1 := if (s.tableKeys slice).contains (kind, pa) then s else evictArms slice s.arms.length s
  let s2 := if (s.tableKeys slice).contains (kind, pa) || s1.tableRoom slice then s1 else s1.spillEntry slice
  s2.useEntry (kind, pa)

/-- An object at an address is served: the entries it has are used. -/
def State.useEntries (s : State) (pa : Nat) : State :=
  (List.range 6).foldl (fun s k => if (s.tableKeys (sliceOf pa)).contains (k, pa) then s.useEntry (k, pa) else s) s

/-! ## Grants -/

/-- What a wait that is over writes: scalar registers, an entry, and an acquire at a scope; then the notice
(R39). -/
def State.grant (s : State) (h : Handle) (ws : List (BitVec 7 × Dword)) (scope : Nat) (for_ : Park → Bool) : State :=
  let s0 := s.noteWrites h true (ws.map fun w => (w.1.toNat, 0))
  let s1 := s0.modTeam h fun t => ws.foldl (fun t w => t.setS w.1.toNat w.2) t
  (s1.acquireAt (coreOf h) scope).notify h for_ .done

/-- The park is a wait for a lock. -/
def Park.isLock (pa : Nat) : Park → Bool
  | .lock p => p == pa
  | _ => false
/-- The park is a wait for permits. -/
def Park.isPermit (pa : Nat) : Park → Bool
  | .permit p => p == pa
  | _ => false
/-- The park is a wait for a promise. -/
def Park.isPromise (pa : Nat) : Park → Bool
  | .promise p => p == pa
  | _ => false

/-- A waiter leaves its reservation of an estate entry. -/
def State.unreserve (s : State) (h : Handle) : State :=
  s.modTeam h fun t => { t with reservedEntries := t.reservedEntries - 1 }

/-- A waiter of a lock takes it: the entry with its heir, the word, and the wake (R213). extra holds bits that its
register alone reports. -/
def State.giveLock (s : State) (w : LockWaiter) (word extra : Nat) : State :=
  let s1 := ({ s with lockQ := s.lockQ.filter fun x => !(x.tid == w.tid) }.setWord w.pa word).unreserve w.tid
  let s2 := s1.setEstate w.tid fun es => es ++ [{ obj := w.va, pa := w.pa, kind := .lock, heir := w.heir, handle := w.handle }]
  s2.grant w.tid [(w.sd, dw (word ||| extra))] w.scope (Park.isLock w.pa)

/-- A lock is released: to the first waiter with SEQ + 1, or free (R214, R346). -/
def State.releaseLock (s : State) (pa : Nat) : State :=
  let w := s.physDword pa
  match s.lockQ.find? fun x => x.pa == pa with
  | some x => s.giveLock x (lockTo w x.tid false) 0
  | none => s.setWord pa (w % 2 ^ 32)

/-- A lock has become ORPHAN: the first `.claim` waiter takes it (R213). -/
def State.claimOrphan (s : State) (pa : Nat) : State :=
  match s.lockQ.find? fun x => x.pa == pa && x.claim with
  | some x => s.giveLock x (lockTo (s.physDword pa) x.tid false) lockOrphan
  | none => s

/-- Wake every waiter of a promise with its value and word 0 (R216). -/
def State.wakePromise (s : State) (pa : Nat) : State :=
  let ws := s.promiseQ.filter fun x => x.pa == pa
  ws.foldl (fun s x =>
    (s.modTeam x.tid fun t => t.lowerCount x.flag).grant x.tid
      [(x.sd, dw (s.physDword (pa + 8))), (x.sd + 1, dw (s.physDword pa))] x.scope (Park.isPromise pa))
    { s with promiseQ := s.promiseQ.filter fun x => !(x.pa == pa) }

/-- The team's death has been accepted: its place in a pool's queue is as good as left (R353). -/
def State.isDying (s : State) (h : Handle) : Bool := match s.team? h with | some t => t.dying.isSome | none => true

/-- Grant a pool's requests in order while the head of the queue fits (R217). -/
def grantPermits : Nat → Nat → State → State
  | 0, _, s => s
  | fuel + 1, pa, s =>
    match s.permitQ.find? fun x => x.pa == pa && !s.isDying x.tid with
    | none => s
    | some x =>
      let w := s.physDword pa
      if w % 2 ^ 32 < x.n then s
      else
        let w' := w - x.n
        let s1 := { s with permitQ := s.permitQ.filter fun y => !(y.tid == x.tid) }.setWord pa w'
        let s2 := (s1.modTeam x.tid fun t => { t with reservedEntries := 0 }).setEstate x.tid
          (addEntry { obj := x.va, pa, kind := .permit, count := x.n, heir := x.heir, handle := x.handle })
        let s3 := s2.modTeam x.tid fun t => t.lowerCount x.flag
        grantPermits fuel pa (s3.grant x.tid [(x.sd, dw w')] x.scope (Park.isPermit pa))

/-- Grant what a pool can grant now. -/
def State.grantPool (s : State) (pa : Nat) : State := grantPermits (s.permitQ.length + 1) pa s

/-! ## Receivers (R347, R348) -/

/-- Living: resident or PREEMPTED, and not dying (R347). -/
def Team.living (t : Team) : Bool := t.dying.isNone

/-- The launch's default heir for a kind (R264). -/
def defaultHeir (h : List Dword) : EKind → Nat
  | .lock => hHlock h
  | .promise => hHprom h
  | .permit => hHpermit h

/-- The next living team of a plot after an index, wrapping, leaving out those tried (R348). -/
def State.successor (s : State) (plot index : Nat) (tried : List Handle) : Option Team :=
  let cands := s.teams.filter fun t => t.plot == plot && t.living && !tried.contains t.tid
  match minBy Team.index (cands.filter fun t => decide (index < t.index)) with
  | some t => some t
  | none => minBy Team.index (cands.filter fun t => decide (t.index < index))

/-- The estate of a candidate has a free entry for e, or the permits fit an entry it has; a team that waits in the
object's own queue has its reserved entry free. -/
def State.roomFor (s : State) (t : Team) (e : Estate) : Bool :=
  let waits := (s.lockQ.any fun x => x.tid == t.tid && x.pa == e.pa) || (s.permitQ.any fun x => x.tid == t.tid && x.pa == e.pa)
  decide (t.estate.length + t.reservedEntries < hEstate (s.header t) + (if waits && decide (0 < t.reservedEntries) then 1 else 0))
    || (e.kind == .permit && (t.entry? .permit e.obj).isSome)

/-- Who receives an entry. -/
inductive Receiver where
  | team (h : Handle)
  | pool
  | nobody
  deriving DecidableEq, Repr

/-- A candidate as the chain goes on from it (R348): where it stands in its plot, and its launch. A team that has exited
goes by what it was; a handle that names no team of the launch has no place, and the launch's own defaults. -/
def State.standing (s : State) (d : Team) (h : Handle) : Option (Nat × Nat) × List Dword :=
  let hdr := fun (ctx lid : Nat) => match s.launch? ctx lid with | some l => l.header | none => s.header d
  match s.team? h, s.exited.find? fun x => x.tid == h with
  | some t, _ => (some (t.plot, t.index), s.header t)
  | none, some x => if x.ctx = d.ctx then (some (x.plot, x.index), hdr x.ctx x.lid) else (none, s.header d)
  | none, none => (none, s.header d)

/-- Receiver of R348, from a depth on: code, origin (plot and index), teams tried. -/
def receiverGo (s : State) (d : Team) (e : Estate) : Nat → Nat → Nat → Option (Nat × Nat) → List Handle → Receiver × Nat
  | 0, depth, _, _, _ => (.nobody, depth - 1)
  | fuel + 1, depth, c, org, tried =>
    let next := fun (h : Handle) (at_ : Option (Nat × Nat) × List Dword) =>
      receiverGo s d e fuel (depth + 1) (defaultHeir at_.2 e.kind) at_.1 (h :: tried)
    let try_ := fun (h : Handle) =>
      match s.team? h with
      | some t => if t.living && s.roomFor t e then (Receiver.team h, depth) else next h (s.standing d h)
      | none => next h (s.standing d h)
    match c with
    | 1 =>
      match org.bind fun o => s.successor o.1 o.2 tried with
      | some t => try_ t.tid
      | none => (.nobody, depth)
    | 2 =>
      match s.ctx? d.ctx with
      | some x => if tried.contains x.supervisor then (.nobody, depth) else try_ x.supervisor
      | none => (.nobody, depth)
    | 3 => (.pool, depth)
    | 5 =>
      if tried.contains e.handle then (.nobody, depth)
      else
        match s.team? e.handle with
        | some t => if t.ctx == d.ctx && t.lid == d.lid then try_ e.handle else next e.handle (none, s.header d)
        | none => try_ e.handle
    | _ => (.nobody, depth)

/-- Receiver of an entry of a team, and the depth reached (R348). -/
def State.receiver (s : State) (d : Team) (e : Estate) : Receiver × Nat :=
  let hdr := s.header d
  let c := if e.heir = 0 then defaultHeir hdr e.kind else e.heir.toNat
  receiverGo s d e 4 1 c (some (d.plot, d.index)) [d.tid]

/-! ## Conveyance of one entry (R346, R350, R219) -/

/-- The entry as its receiver gets it. -/
def Estate.passed (e : Estate) (sender : Handle) : Estate :=
  { e with inherited := true, heir := 0, handle := 0, sender, spoiled := false }

/-- A lock passes to a team, which wakes holding it if it waited for it (R213, R350). -/
def State.lockToTeam (s : State) (h : Handle) (e : Estate) (sender : Handle) (death : Bool) : State :=
  let word := lockTo (s.physDword e.pa) h death
  let wait := s.lockQ.find? fun x => x.tid == h && x.pa == e.pa
  let s1 := (s.setWord e.pa word).setEstate h (addEntry (e.passed sender))
  let s2 := if death then s1.modTeam h fun t => { t with bereaved := if t.bereaved = 255 then 255 else t.bereaved + 1 } else s1
  let s3 := s2.acquireAt (coreOf h) 4
  match wait with
  | none => s3
  | some x =>
    ({ s3 with lockQ := s3.lockQ.filter fun y => !(y.tid == h) }.unreserve h).grant h [(x.sd, dw word)] 4 (Park.isLock e.pa)

/-- An entry passes to its receiver: death says that its holder dies, which sets BEREAVED, ORPHAN and BRET
(R346); a living team's CONVEY leaves them. -/
def State.passSound (s : State) (e : Estate) (r : Receiver) (sender : Handle) (death : Bool) : State :=
  let w := s.physDword e.pa
  match e.kind, r with
  | .lock, .team h => s.lockToTeam h e sender death
  | .lock, _ => (s.setWord e.pa (w ||| lockOrphan ||| lockBereaved)).claimOrphan e.pa
  | .promise, .team h =>
    ((s.setWord e.pa (promiseWord h 1 (death || bit w 27))).setEstate h (addEntry (e.passed sender))).acquireAt (coreOf h) 4
  | .promise, _ => (s.setWord e.pa (promiseWord 0 3 true)).wakePromise e.pa
  | .permit, .team h => (s.setEstate h (addEntry (e.passed sender))).acquireAt (coreOf h) 4
  | .permit, _ =>
    (s.setWord e.pa (poolWord (w + e.count) (w / 2 ^ 32 + (if death then e.count else 0)))).grantPool e.pa

/-- An entry passes to its receiver. Of one that the supervisor has stored over, the object's fields are then undefined
(R341). -/
def State.passEntry (s : State) (e : Estate) (r : Receiver) (sender : Handle) (death : Bool) : State :=
  let s1 := s.passSound e r sender death
  if e.spoiled then
    (List.range (match e.kind with | .promise => 2 | _ => 1)).foldl (fun s i =>
      let d := s.drawFree
      d.2.setWord (e.pa + 8 * i) d.1.toNat) s1
  else s1

/-! ## Barrier words (R209, R211) -/

/-- The value of a barrier word. -/
def State.barrierWord (s : State) : BarLoc → Nat
  | .scratch p off =>
    match s.plot? p with
    | some q => ofBytes ((List.range 8).map fun i => spRead 0 q.scratch (off + i))
    | none => 0
  | .grid pa => s.physDword pa

/-- Write a barrier word. -/
def State.setBarrier (s : State) (l : BarLoc) (w : Nat) : State :=
  match l with
  | .scratch p off =>
    s.modPlot p fun q => q.writeScratch 0 (Config.granuleBytes * q.scratchSlot + off) (toBytes 8 w)
  | .grid pa => s.setWord pa w

/-- Parties of a barrier that have not exited: a plot's teams, or a gang's (R209). -/
def State.parties (s : State) (b : Barrier) : Nat :=
  match b.loc with
  | .scratch p _ => (match s.plot? p with | some q => q.teams - q.exited.length | none => 0)
  | .grid _ => (match s.launch? b.ctx b.lid with | some l => l.living | none => 0)

/-- Complete(w) of R211: with every party arrived, the phase advances and every waiter wakes. -/
def State.completeBarrier (s : State) (b : Barrier) : State :=
  let w := s.barrierWord b.loc
  let n := if bits w 47 32 = 0 then s.parties b else bits w 47 32
  if n = 0 || decide (bits w 31 16 < n) then s
  else
    let s1 := s.setBarrier b.loc (setBits (setBits w 31 16 0) 15 0 (w + 1))
    let s2 := { s1 with barriers := s1.barriers.filter fun x => !(x.loc == b.loc) }
    (s2.teams.map Team.tid).foldl (fun s h =>
      s.notify h (fun p => match p with | .barrier l _ _ _ => l == b.loc | _ => false) (.barrier false)) s2

/-- Arrive(w) of R211, its checks and release made: the record, the count, and the phase if it completes. -/
def State.arriveBarrier (s : State) (t : Team) (l : BarLoc) (va : Dword) : State :=
  let w := s.barrierWord l
  let b : Barrier := { loc := l, ctx := t.ctx, lid := t.lid, plot := t.plot }
  let s1 := s.modTeam t.tid fun u => { u with arrivals := u.arrivals ++ [{ loc := l, va, phase := w % 2 ^ 16 }] }
  let s2 := s1.setBarrier l (setBits w 31 16 (bits w 31 16 + 1))
  ({ s2 with barriers := b :: s2.barriers.filter fun x => !(x.loc == l) }).completeBarrier b

/-- A party has exited: Complete runs at every barrier word it was a party of (R211). -/
def State.partyExit (s : State) (plot ctx lid : Nat) : State :=
  (s.barriers.filter fun b => match b.loc with | .scratch p _ => p == plot | .grid _ => b.ctx == ctx && b.lid == lid).foldl
    (fun s b => s.completeBarrier b) s

/-- The parties of a barrier word are abandoned (R211). -/
def State.partiesAbandoned (s : State) (t : Team) : BarLoc → Bool
  | .scratch p _ => (match s.plot? p with | some q => q.abandoned | none => false)
  | .grid _ => (match s.launch? t.ctx t.lid with | some l => l.abandoned | none => false)

/-- The record of a team for a barrier word. -/
def Team.arrival? (t : Team) (l : BarLoc) : Option Arrival := t.arrivals.find? fun a => a.loc == l

/-- The wait of a team at a barrier word is over: the record goes, the acquire is made, and the status is written or
an abandoned wait traps (R211). -/
def State.endWait (s : State) (t : Team) (l : BarLoc) (va : Dword) (sd : Option (BitVec 7)) (scope : Nat) (abandoned : Bool) :
    State :=
  let u := { t with arrivals := t.arrivals.filter fun a => !(a.loc == l) }
  let s1 := s.acquireAt (coreOf t.tid) scope
  match sd with
  | some d => s1.retireS u [(d, if abandoned then 1 else 0)]
  | none => if abandoned then s1.trap u 0x18 0 va 0 else s1.retire u

/-- Wait(w) of R211 once the team has its record: the end of the wait, or a park. -/
def State.waitBarrier (s : State) (h : Handle) (l : BarLoc) (va : Dword) (sd : Option (BitVec 7)) (scope : Nat) : State :=
  match s.team? h with
  | none => s
  | some t =>
    let moved := match t.arrival? l with
      | some a => decide (a.phase ≠ s.barrierWord l % 2 ^ 16)
      | none => true
    if moved then s.endWait t l va sd scope (s.partiesAbandoned t l)
    else if s.partiesAbandoned t l then s.endWait t l va sd scope true
    else
      let s1 := match l with | .grid pa => s.needEntry 3 pa | .scratch _ _ => s
      s1.park (s1.catchUp t) (.barrier l va sd scope) none

end Sys2Proof.Machine
end

