-- ==== Sys2Proof/Machine/Sync.lean ====
section
/-! DEFINITION. Synchronisation and estate instructions (R207 to R219), expert heaps (R261 to R263), the service of requests at the home slices (R40), and wakes (R39). -/

namespace Sys2Proof.Machine

/-! ## Expert heaps (R261 to R263) -/

/-- CAP. -/
def heapCap (w : Nat) : Nat := bits w 47 32
/-- ACCEPTED. -/
def heapAccepted (w : Nat) : Nat := bits w 31 16
/-- STATE. -/
def heapState (w : Nat) : Nat := bits w 1 0

/-- Offer a ranks before offer b: the higher score first, −0 equal to +0, and the lower token among equals. -/
def ranksBefore (a b : Nat) : Bool :=
  let x := floatVal .f32 (a / 2 ^ 32)
  let y := floatVal .f32 (b / 2 ^ 32)
  ltVal y x || (eqVal x y && decide (a % 2 ^ 32 < b % 2 ^ 32))

/-- Insert an offer in rank order. Log entry 37. -/
def rankInsert (v : Nat) : List Nat → List Nat
  | [] => [v]
  | a :: r => if ranksBefore v a then v :: a :: r else a :: rankInsert v r

/-- The entries of a heap, read from its array; and the first poisoned sector among them, if any (R291, R393). -/
def State.heapEntries (s : State) (port ctx va n : Nat) : List Nat :=
  (List.range n).map fun i =>
    match s.vRead port ctx (va + 64 + 8 * i) 8 with | .inl bs => ofBytes bs | .inr _ => 0

/-- The first poisoned sector of a run of a context's memory, if any. -/
def State.poisonIn (s : State) (port ctx va n : Nat) : Option Nat :=
  (sectors va n).findSome? fun p =>
    match s.translate port ctx p.1 .read with
    | .ok pa _ => if s.poisoned pa then some (pa / 32 * 32) else none
    | .fault _ => none

/-- Write a heap's array and its first three dwords. -/
def State.writeHeap (s : State) (port ctx va pa : Nat) (entries : List Nat) (d0 d1 d2 : Nat) : State :=
  let s1 := match s.vWrite port ctx (va + 64) (dwordBytes entries) with | .inl x => x | .inr _ => s
  s1.homeWrite pa (dwordBytes [d0, d1, d2])

/-- What an offer makes of a heap: entries, ACCEPTED's and REJECTED's increments, and the status (R262). -/
def offerTo (cap v : Nat) (es : List Nat) : List Nat × Nat × Nat × Nat :=
  let x := floatVal .f32 (v / 2 ^ 32)
  if x.isAbsent || x.isNan then (es, 0, 1, 1)
  else if es.length < cap then (rankInsert v es, 1, 0, 0)
  else
    match es.getLast? with
    | some l => if ranksBefore v l then (rankInsert v es.dropLast, 0, 1, 0) else (es, 0, 1, 1)
    | none => (es, 0, 1, 1)

/-! ## Requests as they issue (R212) -/

/-- How a synchronisation instruction goes to its home slice: object size, acquire and release, and whether its
delivery counts on FLAGA. -/
structure SyncShape where
  op : Nat
  size : Nat
  acquire : Bool := false
  release : Bool := false
  flagged : Bool := false
  /-- Its object is an expert heap, whose array follows the header (R261). -/
  heap : Bool := false
  deriving DecidableEq, Repr

/-- The scope of an instruction whose ORD 0 stands for a default (R210, R212). -/
def syncScope (dflt : Nat) (f : VFields) : Nat := if mOrd f = 0 then dflt else mScope f

/-- The scope of a barrier instruction: no narrower than its default (R210). -/
def barScope (dflt : Nat) (f : VFields) : Nat := max dflt (syncScope dflt f)

/-- The heir and handle that an instruction names (R212). Log entry 18. -/
def heirOf (f : VFields) (v : Team) : BitVec 4 × Handle :=
  (BitVec.ofNat 4 (mHeir f), if mHeir f = 5 then (v.getS f.va.toNat).setWidth 32 else 0)

/-- The handle names a team of another launch (R212). -/
def State.foreignHeir (s : State) (t : Team) (f : VFields) (v : Team) : Bool :=
  mHeir f == 5 && (match s.team? (heirOf f v).2 with
    | some u => !(u.ctx == t.ctx && u.lid == t.lid)
    | none => false)

/-- An object that cannot be translated: an entry of the retry ring, origin 1, lane 0, and the team parks at the
instruction, which issues again after RDONE. DEDUCED; log entry 40. -/
def State.syncFault (s : State) (t : Team) (va : Dword) (f : LaneFault) (dest : Nat) : State :=
  if s.isSup t then s.supFault t f.cause va.toNat
  else
    let (id, s) := s.takeId
    let e : Held :=
      { store := false, originCode := 1, origin := t.origin, opId := id, lanes := [0], cause := f.cause, page := f.page
        offs := [(0, wrap 32 ((va.toNat : Int) - f.page))], opnds := [(0, 0, 0)], dest }
    (s.modCtx t.ctx fun c => { c with held := c.held ++ [e] }).park t .retry none

/-- A request that holds its team until the home slice replies. -/
def Req.holds (r : Req) : Bool := match r.kind with | .marm | .atomic _ _ => false | _ => true

/-- Queue a request at its home slice, the team held (R40, R212). -/
def State.request (s : State) (t : Team) (va : Dword) (pa : Nat) (sh : SyncShape) (scope : Nat) (k : ReqKind) : State :=
  let (id, s) := s.takeId
  let r : Req :=
    { id, slice := paModule pa * Config.slices + homeSlice pa, core := coreOf t.tid, tid := t.tid, va, pa, kind := k
      acquire := if sh.acquire then some scope else none, mark := s.releaseMark t sh.release scope }
  { s with reqs := s.reqs ++ [r] }.holdAt { t with lastMark := max t.lastMark r.mark } (.request id)

/-- The weir event of an instruction with one address: KIND 0, scalar (R358). -/
def addrEvent (va : Dword) : Events :=
  { scalar := true, addrs := [{ lane := 1023, value := va.toNat, addr := va.toNat }] }

/-- Bytes of an object at an address that an instruction acts on (R212, R261). -/
def State.objectSpan (s : State) (sh : SyncShape) (t : Team) (va n : Nat) : Nat :=
  if sh.heap then
    match s.translate (portOf t.tid) t.ctx va .read with
    | .ok pa _ => 64 + 8 * heapCap (s.physDword pa)
    | .fault _ => n
  else n

/-- Operations of a team that an instruction of its own on an object must follow: acquires, and accesses to the object's
bytes (R191, R303, R304, R306, R316). -/
def State.objectAfter (s : State) (t : Team) (va n : Nat) : List MemOp :=
  let x : Run_ := { scratch := false, addr := va, place := s.placeOf (portOf t.tid) t.ctx 0 va, len := n }
  s.ops.filter fun q => q.origin.tid == t.tid && ((q.lanes.any q.lanePending && q.isAcquire) || s.opMeets q 1024 x)

/-- A write to an object's bytes stands in the core's release buffer. -/
def State.objectBuffered (s : State) (t : Team) (va n : Nat) : Bool :=
  (sectors va n).any fun p =>
    match s.placeOf (portOf t.tid) t.ctx 0 p.1 with
    | some (false, pa) => s.bufMeets (coreOf t.tid) pa p.2
    | _ => false

/-- An entry of the retry ring stands behind one of some operations. -/
def State.anyInRing (s : State) (ctx : Nat) (os : List MemOp) : Bool :=
  match s.ctx? ctx with
  | some c => os.any fun o => c.opInRing o.id
  | none => false

/-- An instruction on one object of G: held behind a faulted acquire, for its release, or for the team's own accesses that
come before it; then weirs, what the team's own estate refuses, limit, alignment, what its operands refuse, and the
translation. That an entry which is not there traps before the limit is checked is the model's choice: R215 puts it before
alignment. Log entry 93. go acts with the physical address. -/
def objectInsn (sh : SyncShape) (scope : Nat) (f : VFields) (needRelease : Team → Team → Bool)
    (size : Team → Dword → Option Nat) (refused : State → Team → Team → Bool)
    (go : State → Team → Team → Dword → Nat → State) (s : State) : Host.Outcome State Fault Refusal :=
  issueV sh.op f s fun s t v =>
    match s.reqs.find? fun r => r.tid == t.tid && r.holds with
    | some r => s.holdAt t (.request r.id)
    | none =>
      let off := scalarOff v f
      let va := segAddr t 0 off
      if t.acquireFault.isSome then s.park t .retry none
      else if sh.release && needRelease t v && !s.releaseReady t scope then s.holdAt t (.release scope)
      else if !(s.objectAfter t va.toNat (s.objectSpan sh t va.toNat sh.size)).isEmpty then
        s.holdOrRetry t .accesses (s.anyInRing t.ctx (s.objectAfter t va.toNat (s.objectSpan sh t va.toNat sh.size)))
      else if s.objectBuffered t va.toNat (s.objectSpan sh t va.toNat sh.size) then s.holdAt t .accesses
      else
        underWeirs s t [0] [0] (fun _ => addrEvent va) fun _ s t =>
          match size t va with
          | none => s.trap t cOperand 0 va 0
          | some n =>
            match (limitTrap t 0 n [(0, off)]).or (alignTrap t 0 n [(0, off)]) with
            | some x => s.takeTrap t x
            | none =>
              if refused s t v then s.trap t cOperand 0 va 0
              else
                match s.translate (portOf t.tid) t.ctx va.toNat (.atomic false) with
                | .fault x => s.syncFault t va x f.vd.toNat
                | .ok pa _ => go (s.fillTlb (portOf t.tid) t.ctx va.toNat) t v va pa

/-- An instruction that sends one request to its object's home slice. -/
def requestInsn (sh : SyncShape) (f : VFields) (size : Team → Dword → Option Nat) (refused : State → Team → Team → Bool)
    (kind : Team → ReqKind) (s : State) : Host.Outcome State Fault Refusal :=
  objectInsn sh (syncScope 4 f) f (fun _ _ => true) size refused
    (fun s t v va pa => s.request (if sh.flagged then t.raiseCount t.flagA else t) va pa sh (syncScope 4 f) (kind v)) s

/-- A scalar destination. -/
def sdOf (f : VFields) : BitVec 7 := f.vd.setWidth 7

/-- HOLD (R213). -/
def execHold (f : VFields) (s : State) : Host.Outcome State Fault Refusal :=
  requestInsn { op := 0x188, size := 8, acquire := true } f (fun _ _ => some 8) (fun s t v => s.foreignHeir t f v)
    (fun v => .hold (sdOf f) (f.fn.toNat / 16 % 2 == 1) (heirOf f v).1 (heirOf f v).2) s

/-- HREL (R214). -/
def execHrel (f : VFields) (s : State) : Host.Outcome State Fault Refusal :=
  requestInsn { op := 0x189, size := 8, release := true } f (fun _ _ => some 8) (fun _ _ _ => false) (fun _ => .hrel) s

/-- HCLRB on the object of the team's own entry, which gives its size (R215). -/
def execHclrb (f : VFields) (s : State) : Host.Outcome State Fault Refusal :=
  requestInsn { op := 0x18B, size := 8 } f
    (fun t va => if (t.entry? .lock va).isSome then some 8 else if (t.entry? .promise va).isSome then some 16 else none)
    (fun _ _ _ => false) (fun _ => .hclrb) s

/-- HCLRB.pool (R215). -/
def execHclrbPool (f : VFields) (s : State) : Host.Outcome State Fault Refusal :=
  requestInsn { op := 0x18B, size := 8 } f (fun _ _ => some 8) (fun _ _ _ => false) (fun _ => .hclrbPool) s

/-- PMAKE (R216). -/
def execPmake (f : VFields) (s : State) : Host.Outcome State Fault Refusal :=
  requestInsn { op := 0x18C, size := 16 } f (fun _ _ => some 16) (fun s t v => s.foreignHeir t f v)
    (fun v => .pmake (heirOf f v).1 (heirOf f v).2) s

/-- PFULFIL (R216). -/
def execPfulfil (f : VFields) (s : State) : Host.Outcome State Fault Refusal :=
  requestInsn { op := 0x18D, size := 16, release := true } f (fun _ _ => some 16) (fun _ _ _ => false)
    (fun v => .pfulfil (v.getS f.va.toNat)) s

/-- PWAIT (R216). -/
def execPwait (f : VFields) (s : State) : Host.Outcome State Fault Refusal :=
  requestInsn { op := 0x18E, size := 16, acquire := true, flagged := true } f (fun _ _ => some 16) (fun _ _ _ => false)
    (fun v => .pwait (sdOf f) v.flagA) s

/-- PERMGET (R217). -/
def execPermget (f : VFields) (s : State) : Host.Outcome State Fault Refusal :=
  requestInsn { op := 0x18F, size := 8, acquire := true, flagged := true } f (fun _ _ => some 8)
    (fun s t v => s.foreignHeir t f v ||
      !(decide (1 ≤ (v.getS f.va.toNat).toNat) && decide ((v.getS f.va.toNat).toNat < 2 ^ 31)))
    (fun v => .permget (sdOf f) (v.getS f.va.toNat).toNat (heirOf f v).1 (heirOf f v).2 v.flagA) s

/-- PERMPUT (R217). -/
def execPermput (f : VFields) (s : State) : Host.Outcome State Fault Refusal :=
  requestInsn { op := 0x190, size := 8, release := true } f (fun _ _ => some 8) (fun _ _ _ => false)
    (fun v => .permput (v.getS f.va.toNat).toNat) s

/-- CONVEY: the object's size comes from the team's entry (R215, R219). -/
def execConvey (f : VFields) (s : State) : Host.Outcome State Fault Refusal :=
  requestInsn { op := 0x192, size := 8, release := true } f
    (fun t va => (t.estate.find? fun e => e.obj == va).map fun e => match e.kind with | .promise => 16 | _ => 8)
    (fun _ _ _ => false) (fun _ => .convey (sdOf f)) s

/-- HEAPOFFER (R262). -/
def execHeapoffer (f : VFields) (s : State) : Host.Outcome State Fault Refusal :=
  requestInsn { op := 0x12A, size := 64, heap := true } f (fun _ _ => some 64) (fun _ _ _ => false)
    (fun v => .heapoffer (sdOf f) (v.getS f.va.toNat)) s

/-- HEAPSEAL (R263). -/
def execHeapseal (f : VFields) (s : State) : Host.Outcome State Fault Refusal :=
  requestInsn { op := 0x12B, size := 64, acquire := true, release := true, heap := true } f (fun _ _ => some 64) (fun _ _ _ => false)
    (fun _ => .heapseal (sdOf f)) s

/-- HEAPREAD (R263). -/
def execHeapread (f : VFields) (s : State) : Host.Outcome State Fault Refusal :=
  requestInsn { op := 0x12C, size := 64, acquire := true, heap := true } f (fun _ _ => some 64) (fun _ _ _ => false)
    (fun v => .heapread (sdOf f) (v.getS f.va.toNat)) s

/-- HEIR: the heir of the team's entry is rewritten; `.pool` is for a permit entry alone (R212, R215). -/
def execHeir (f : VFields) (s : State) : Host.Outcome State Fault Refusal :=
  objectInsn { op := 0x18A, size := 8 } 4 f (fun _ _ => false)
    (fun t va => (t.estate.find? fun e => e.obj == va).map fun e => match e.kind with | .promise => 16 | _ => 8)
    (fun s t v => s.foreignHeir t f v ||
      (mHeir f == 3 && !(t.entry? .permit (segAddr t 0 (scalarOff v f))).isSome))
    (fun s t v va _ =>
      let r := heirOf f v
      let s1 := s.setEstate t.tid (updFirst (fun e => e.obj == va) fun e => { e with heir := r.1, handle := r.2 })
      match s1.team? t.tid with
      | some u => s1.retire { s1.catchUp t with estate := u.estate }
      | none => s1) s

/-- ESTATE: entry s[X] of the team's own estate, in three registers (R218). -/
def execEstate (f : VFields) (s : State) : Host.Outcome State Fault Refusal :=
  issueV 0x191 f s fun s t v =>
    let d := sdOf f
    let (x, y, z) : Nat × Nat × Nat := match t.estate[(v.getS f.va.toNat).toNat]? with
      | some e => (e.obj.toNat / 8 * 8 + e.kind.code, e.count * 2 ^ 32 + e.heir.toNat, if e.heir = 5 then e.handle.toNat else 0)
      | none => (0, 0, 0)
    s.retireS t [(d, dw x), (d + 1, dw y), (d + 2, dw z)]

/-! ## Monitors (R207, R208) -/

/-- Disarm a team's monitor, entered at its slice or still on the way (R207). -/
def State.disarm (s : State) (h : Handle) : State :=
  { s with
    arms := s.arms.filter fun a => !(a.tid == h)
    reqs := s.reqs.filter fun r => !(r.tid == h && (match r.kind with | .marm => true | _ => false)) }.modTeam h fun t => { t with monitor := .none_ }

/-- MARM: the arm goes to the line's home slice, and the team does not wait for it. It arms nothing where the line
cannot be translated or read, or is not in the domain's module memory (R207, R290). -/
def execMarm (f : VFields) (s : State) : Host.Outcome State Fault Refusal :=
  issueV 0x180 f s fun s t v =>
    let off := scalarOff v f
    let va := segAddr t 0 off
    if t.acquireFault.isSome then s.park t .retry none
    else
      underWeirs s t [0] [0] (fun _ => addrEvent va) fun _ s t =>
        match limitTrap t 0 1 [(0, off)] with
        | some x => s.takeTrap t x
        | none =>
          let s1 := s.disarm t.tid
          let t1 := { t with monitor := .none_ }
          match s1.leafOf (portOf t.tid) t.ctx va.toNat, s1.translate (portOf t.tid) t.ctx va.toNat .read with
          | .leaf e, .ok pa _ =>
            if localHost (paLocal (e.pa + (va.toNat - e.va))) then s1.retire t1
            else
              let (id, s2) := s1.takeId
              let r : Req :=
                { id, slice := paModule pa * Config.slices + homeSlice pa, core := coreOf t.tid, tid := t.tid, va, pa
                  kind := .marm }
              { s2 with reqs := s2.reqs ++ [r] }.retire { t1 with monitor := .armed (lineOf pa) }
          | _, _ => s1.retire t1

/-- MWAIT: parks until the monitor's event, unless it has occurred or no monitor is armed (R208). -/
def execMwait (f : VFields) (s : State) : Host.Outcome State Fault Refusal :=
  issueV 0x181 f s fun s t v =>
    match t.monitor with
    | .none_ => s.retireS t [(sdOf f, 4)]
    | .ended n => s.retireS { t with monitor := .none_ } [(sdOf f, dw n)]
    | .armed _ =>
      let b := (v.getS f.va.toNat).toNat
      s.park t (.monitor (sdOf f) (if b = 0 then none else some (s.now t + b))) none

/-- MWAIT_BUDGET_EXPIRY (R208): the budget of team arg.tid has run out, and it gets status 1. -/
def execMwaitBudgetExpiry (s : State) : Host.Outcome State Fault Refusal :=
  .next (match s.team? s.arg.tid with
  | none => s
  | some t =>
    match t.run, t.monitor with
    | .parked (.monitor _ (some d)) none, .armed _ =>
      if d ≤ s.now t then
        (s.disarm t.tid).modTeam t.tid fun u => ({ u with monitor := t.monitor }).endArm 1
      else s
    | _, _ => s)

/-! ## Barriers (R209 to R211) -/

/-- The register of a wait's status, if FUNC[5] asks for it (R210). Log entry 42. -/
def barStatus (f : VFields) : Option (BitVec 7) := if f.fn.toNat / 32 % 2 = 1 then some (sdOf f) else none

/-- The place is in a scratchpad. -/
def BarLoc.isScratch : BarLoc → Bool
  | .scratch _ _ => true
  | .grid _ => false

/-- The team has a record for a barrier address, in P or in G. -/
def Team.arrivedAt (t : Team) (scratch : Bool) (va : Dword) : Bool :=
  t.arrivals.any fun a => a.va == va && a.loc.isScratch == scratch

/-- A scratchpad barrier: an arrival, or a wait that arrives first if the team has no record (R211). -/
def scratchBarrier (op : Nat) (wait : Bool) (f : VFields) (s : State) : Host.Outcome State Fault Refusal :=
  issueV op f s fun s t v =>
    let off := scalarOff v f
    let va := segAddr t 1 off
    let scope := barScope 1 f
    let arrives := !wait || !t.arrivedAt true va
    if t.acquireFault.isSome then s.park t .retry none
    else if arrives && !s.releaseReady t scope then s.holdAt t (.release scope)
    else
      underWeirs s t [0] [0] (fun _ => addrEvent va) fun _ s t =>
        match (limitTrap t 1 8 [(0, off)]).or (alignTrap t 1 8 [(0, off)]) with
        | some x => s.takeTrap t x
        | none =>
          if s.scratchPoisoned t.plot va.toNat 8 then s.containPool t
          else
            let base := match s.plot? t.plot with | some p => Config.granuleBytes * p.scratchSlot | none => 0
            let l := BarLoc.scratch t.plot (va.toNat - base)
            if arrives && (t.arrivedAt true va || decide (4 ≤ t.arrivals.length)) then s.illegal t
            else
              let s1 := s.setTeam t
              let s2 := if arrives then s1.arriveBarrier t l va else s1
              if wait then s2.waitBarrier t.tid l va (barStatus f) scope
              else
                match s2.team? t.tid with
                | some u => s2.retire u
                | none => s2

/-- BARV (R211). -/
def execBarv (f : VFields) (s : State) : Host.Outcome State Fault Refusal := scratchBarrier 0x184 false f s
/-- BARW (R211). -/
def execBarw (f : VFields) (s : State) : Host.Outcome State Fault Refusal := scratchBarrier 0x185 true f s

/-- A grid barrier: its request goes to the word's home slice (R211). -/
def gridBarrier (op : Nat) (wait : Bool) (f : VFields) (s : State) : Host.Outcome State Fault Refusal :=
  objectInsn { op, size := 8, acquire := wait, release := true } (barScope 4 f) f
    (fun t v => !wait || !t.arrivedAt false (segAddr t 0 (scalarOff v f))) (fun _ _ => some 8) (fun _ _ _ => false)
    (fun s t _ va pa =>
      if (!wait || !t.arrivedAt false va) && (t.arrivedAt false va || decide (4 ≤ t.arrivals.length)) then s.illegal t
      else
        s.request t va pa { op, size := 8, acquire := wait, release := true } (barScope 4 f)
          (.arrive wait (barStatus f) (barScope 4 f))) s

/-- GBARV (R211). -/
def execGbarv (f : VFields) (s : State) : Host.Outcome State Fault Refusal := gridBarrier 0x186 false f s
/-- GBARW (R211). -/
def execGbarw (f : VFields) (s : State) : Host.Outcome State Fault Refusal := gridBarrier 0x187 true f s

/-! ## Service at a home slice (R40, R213 to R219, R262, R263) -/

/-- The reply of a request: the team's instruction retires with registers written. Log entry 75. -/
def State.replyWith (s : State) (h : Handle) (ws : List (BitVec 7 × Dword)) : State :=
  match s.team? h with
  | some t => s.retireS t ws
  | none => s

/-- The reply is a trap, reported with the object's address (R212). -/
def State.replyTrap (s : State) (r : Req) (cause : Nat) : State :=
  match s.team? r.tid with
  | some t => s.trap t cause 0 r.va 0
  | none => s

/-- ESTATE_FULL. -/
def cEstateFull : Nat := 0x15

/-- The team of a request waits in a queue, parked (R213, R216, R217). A dying team waits for nothing (R353). -/
def State.parkReq (s : State) (r : Req) (t : Team) (kind : Nat) (p : Park) (reserve : Bool) (enqueue : State → State) : State :=
  if t.dying.isSome then s
  else
    let s1 := enqueue (s.needEntry kind r.pa)
    s1.park { s1.catchUp t with reservedEntries := t.reservedEntries + (if reserve then 1 else 0) } p none

/-- HOLD at the home slice (R213). Log entry 41. -/
def serveHold (s : State) (r : Req) (t : Team) (sd : BitVec 7) (claim : Bool) (heir : BitVec 4) (handle : Handle) : State :=
  let w := s.physDword r.pa
  let scope := r.acquire.getD 4
  if w / 2 ^ 32 = t.tid.toNat || (t.entry? .lock r.va).isSome then s.replyTrap r cOperand
  else if s.estateFull t then s.replyTrap r cEstateFull
  else if w / 2 ^ 32 = 0 || (bit w 30 && claim) then
    let word := lockTo w t.tid false
    let s1 := (s.setWord r.pa word).setEstate t.tid fun es =>
      es ++ [{ obj := r.va, pa := r.pa, kind := .lock, heir, handle }]
    (s1.acquireAt r.core scope).replyWith t.tid [(sd, dw (if w / 2 ^ 32 = 0 then word else word ||| lockOrphan))]
  else
    s.parkReq r t 0 (.lock r.pa) true fun s =>
      { s with lockQ := s.lockQ ++ [{ pa := r.pa, tid := t.tid, va := r.va, sd, claim, heir, handle, scope }] }

/-- HREL at the home slice (R214). -/
def serveHrel (s : State) (r : Req) (t : Team) : State :=
  if s.physDword r.pa / 2 ^ 32 ≠ t.tid.toNat then s.replyTrap r cOperand
  else ((s.setEstate t.tid (dropEntry .lock r.va)).releaseLock r.pa).replyWith t.tid []

/-- HCLRB at the home slice (R215, R120). -/
def serveHclrb (s : State) (r : Req) (t : Team) : State :=
  let w := s.physDword r.pa
  match t.entry? .lock r.va with
  | some e =>
    let s1 := s.setWord r.pa (if bit w 31 then w - lockBereaved else w)
    let s2 := if bit w 31 && e.inherited then
        s1.modTeam t.tid fun u => { u with bereaved := if u.bereaved = 0 then 0 else u.bereaved - 1 }
      else s1
    s2.replyWith t.tid []
  | none => (s.setWord r.pa (if bit w 27 then w - 2 ^ 27 else w)).replyWith t.tid []

/-- PMAKE at the home slice (R216). -/
def servePmake (s : State) (r : Req) (t : Team) (heir : BitVec 4) (handle : Handle) : State :=
  let st := promiseState (s.physDword r.pa)
  if st = 1 || 4 ≤ st then s.replyTrap r cOperand
  else if s.estateFull t then s.replyTrap r cEstateFull
  else
    ((s.setWord r.pa (promiseWord t.tid 1 false)).setEstate t.tid fun es =>
      es ++ [{ obj := r.va, pa := r.pa, kind := .promise, heir, handle }]).replyWith t.tid []

/-- PFULFIL at the home slice (R216). -/
def servePfulfil (s : State) (r : Req) (t : Team) (v : Dword) : State :=
  let w := s.physDword r.pa
  if promiseState w ≠ 1 || w / 2 ^ 32 ≠ t.tid.toNat then s.replyTrap r cOperand
  else
    let s1 := s.homeWrite r.pa (dwordBytes [promiseWord 0 2 (bit w 27), v.toNat])
    ((s1.setEstate t.tid (dropEntry .promise r.va)).wakePromise r.pa).replyWith t.tid []

/-- PWAIT at the home slice (R216). -/
def servePwait (s : State) (r : Req) (t : Team) (sd : BitVec 7) (flag : Option Nat) : State :=
  let w := s.physDword r.pa
  let scope := r.acquire.getD 4
  let lower := fun (s : State) => s.modTeam t.tid fun u => u.lowerCount flag
  if 4 ≤ promiseState w then (lower s).replyTrap r cOperand
  else if 2 ≤ promiseState w then
    ((lower s).acquireAt r.core scope).replyWith t.tid [(sd, dw (s.physDword (r.pa + 8))), (sd + 1, dw w)]
  else
    s.parkReq r t 2 (.promise r.pa) false fun s =>
      { s with promiseQ := s.promiseQ ++ [{ pa := r.pa, tid := t.tid, sd, flag, scope }] }

/-- PERMGET at the home slice (R217). -/
def servePermget (s : State) (r : Req) (t : Team) (sd : BitVec 7) (n : Nat) (heir : BitVec 4) (handle : Handle)
    (flag : Option Nat) : State :=
  let w := s.physDword r.pa
  let scope := r.acquire.getD 4
  let lower := fun (s : State) => s.modTeam t.tid fun u => u.lowerCount flag
  let has := (t.entry? .permit r.va).isSome
  if !has && s.estateFull t then (lower s).replyTrap r cEstateFull
  else if decide (n ≤ w % 2 ^ 32) && !(s.permitQ.any fun x => x.pa == r.pa && !s.isDying x.tid) then
    let s1 := ((lower s).setWord r.pa (w - n)).setEstate t.tid
      (addEntry { obj := r.va, pa := r.pa, kind := .permit, count := n, heir, handle })
    (s1.acquireAt r.core scope).replyWith t.tid [(sd, dw (w - n))]
  else
    s.parkReq r t 1 (.permit r.pa) (!has) fun s =>
      { s with permitQ := s.permitQ ++ [{ pa := r.pa, tid := t.tid, va := r.va, sd, n, heir, handle, flag, scope }] }

/-- PERMPUT at the home slice (R217). -/
def servePermput (s : State) (r : Req) (t : Team) (n : Nat) : State :=
  let have_ := match t.entry? .permit r.va with | some e => e.count | none => 0
  if n = 0 || have_ < n then s.replyTrap r cOperand
  else
    let w := s.physDword r.pa
    let s1 := s.setEstate t.tid fun es =>
      if n = have_ then dropEntry .permit r.va es
      else updFirst (fun e => e.kind == .permit && e.obj == r.va) (fun e => { e with count := e.count - n }) es
    ((s1.setWord r.pa (poolWord (w + n) (w / 2 ^ 32))).grantPool r.pa).replyWith t.tid []

/-- CONVEY at the home slice (R219). -/
def serveConvey (s : State) (r : Req) (t : Team) (sd : BitVec 7) : State :=
  match t.estate.find? fun e => e.obj == r.va with
  | none => s.replyTrap r cOperand
  | some e =>
    match (s.receiver t e).1 with
    | .nobody => s.replyWith t.tid [(sd, 0xFFFFFFFFFFFFFFFF)]
    | rcv =>
      let s1 := (s.setEstate t.tid (dropEntry e.kind r.va)).passEntry e rcv t.tid false
      s1.replyWith t.tid [(sd, match rcv with | .team h => h.setWidth 64 | _ => 0)]

/-- The heap instructions at the home slice (R262, R263). An entry array that cannot be translated is treated as the
object itself is. Log entry 40. -/
def serveHeap (s : State) (r : Req) (t : Team) (k : ReqKind) : State :=
  let w := s.physDword r.pa
  let va := r.va.toNat
  let n := heapAccepted w
  let es := s.heapEntries (portOf r.tid) t.ctx va n
  let illegal := s.illegal t
  let reads := match k with
    | .heapoffer _ v => heapState w == 1 && !(floatVal .f32 (v.toNat / 2 ^ 32)).isAbsent && !(floatVal .f32 (v.toNat / 2 ^ 32)).isNan
    | .heapseal _ => heapState w == 1
    | _ => false
  let bad := match k with
    | .heapread _ i => if heapState w = 2 && decide (i.toNat < n) then s.poisonIn (portOf r.tid) t.ctx (va + 64 + 8 * i.toNat) 8 else none
    | _ => if reads then s.poisonIn (portOf r.tid) t.ctx (va + 64) (8 * n) else none
  match bad with
  | some pa => s.contain t 8 pa t.insnPc t.issueNo
  | none =>
  match k with
  | .heapoffer sd v =>
    if heapState w = 2 then s.replyWith t.tid [(sd, 2)]
    else if heapState w ≠ 1 then illegal
    else
      match s.firstFault (portOf r.tid) t.ctx (va + 64) (8 * min (n + 1) (heapCap w)) .write with
      | some f => s.syncFault t r.va f sd.toNat
      | none =>
        let o := offerTo (heapCap w) v.toNat es
        let s1 := s.writeHeap (portOf r.tid) t.ctx va r.pa o.1 (setBits w 31 16 (n + o.2.1)) (s.physDword (r.pa + 8) + 1)
          (s.physDword (r.pa + 16) + o.2.2.1)
        let nan := (floatVal .f32 (v.toNat / 2 ^ 32)).isNan
        (s1.modTeam t.tid fun u => if nan then u.raise fIV else u).replyWith t.tid [(sd, dw o.2.2.2)]
  | .heapseal sd =>
    if heapState w = 2 then (s.acquireAt r.core 4).replyWith t.tid [(sd, dw n)]
    else if heapState w ≠ 1 then illegal
    else
      match s.firstFault (portOf r.tid) t.ctx (va + 64) (8 * n) .write with
      | some f => s.syncFault t r.va f sd.toNat
      | none =>
        ((s.writeHeap (portOf r.tid) t.ctx va r.pa es (setBits w 1 0 2) (s.physDword (r.pa + 8)) (s.physDword (r.pa + 16))).acquireAt
          r.core 4).replyWith t.tid [(sd, dw n)]
  | .heapread sd i =>
    if heapState w ≠ 2 then illegal
    else if n ≤ i.toNat then (s.acquireAt r.core 4).replyWith t.tid [(sd, 0xFFFFFFFFFFFFFFFF)]
    else
      match s.firstFault (portOf r.tid) t.ctx (va + 64 + 8 * i.toNat) 8 .read with
      | some f => s.syncFault t r.va f sd.toNat
      | none => (s.acquireAt r.core 4).replyWith t.tid [(sd, dw (es.getD i.toNat 0))]
  | _ => s

/-- A grid barrier at the home slice (R211). -/
def serveArrive (s : State) (r : Req) (t : Team) (wait : Bool) (sd : Option (BitVec 7)) (scope : Nat) : State :=
  let l := BarLoc.grid r.pa
  let s1 := if (t.arrival? l).isSome then s else s.arriveBarrier t l r.va
  if wait then s1.waitBarrier t.tid l r.va sd scope else s1.replyWith t.tid []

/-- A request is served (R40): one indivisible step at its object. -/
def State.serveReq (s : State) (r : Req) : State :=
  let s1 := s.takeReq r
  match r.kind, s1.team? r.tid with
  | .atomic id lane, _ => s1.serveAtomic r id lane
  | _, none => s1
  | k, some t =>
    match k with
    | .marm =>
      match t.monitor with
      | .armed _ =>
        let s2 := s1.needEntry 4 (lineOf r.pa * 64)
        { s2 with arms := s2.arms ++ [{ line := lineOf r.pa, tid := r.tid }] }
      | _ => s1
    | k =>
      let s1 := match r.heap? with | some pa => s1.needEntry 5 pa | none => s1.useEntries r.pa
      let t := s1.catchUp t
      if s1.poisoned r.pa then s1.contain t 8 (r.pa / 32 * 32) t.insnPc t.issueNo
      else
        let s2 := match k with
          | .hold sd claim heir h => serveHold s1 r t sd claim heir h
          | .hrel => serveHrel s1 r t
          | .hclrb => serveHclrb s1 r t
          | .hclrbPool => (s1.setWord r.pa (s1.physDword r.pa % 2 ^ 32)).replyWith t.tid []
          | .pmake heir h => servePmake s1 r t heir h
          | .pfulfil v => servePfulfil s1 r t v
          | .pwait sd fl => servePwait s1 r t sd fl
          | .permget sd n heir h fl => servePermget s1 r t sd n heir h fl
          | .permput n => servePermput s1 r t n
          | .convey sd => serveConvey s1 r t sd
          | .arrive w sd sc => serveArrive s1 r t w sd sc
          | k => serveHeap s1 r t k
        (s2.tagLine (lineOf r.pa) r.core r.mark).noteRead r.tid r.pa

/-- A request must wait for drains (R308): an acquire at `.dev` or wider that finds its line tagged by another core,
or a core-local release that would hand its object to a waiter elsewhere. -/
def State.reqWaits (s : State) (r : Req) : Bool :=
  s.reqPromotes r ||
    (s.bufOpen r.core r.mark &&
      ((s.lockQ.any fun w => w.pa == r.pa && coreOf w.tid != r.core) ||
        (s.permitQ.any fun w => w.pa == r.pa && coreOf w.tid != r.core) ||
        s.promiseQ.any fun w => w.pa == r.pa && coreOf w.tid != r.core))

/-- HOME_SLICE_SERVE (R40): slice arg.a serves its next request; one that must wait for drains asks for them. Log entry 80. -/
def execHomeSliceServe (s : State) : Host.Outcome State Fault Refusal :=
  .next (match s.nextCore s.arg.a with
  | none => s
  | some r =>
    if s.reqWaits r then s.askDrain r else s.serveReq r)

/-- PROMOTED_ACQUIRE_REPLY (R308): once the tagged cores have drained, the acquire arg.a, an operation or a request,
is answered. -/
def execPromotedAcquireReply (s : State) : Host.Outcome State Fault Refusal :=
  .next (match s.op? s.arg.a with
  | some o =>
    let s1 := s.answerOp o
    if o.promoted && !(match s1.op? o.id with | some q => q.promoted | none => false) then
      s1.countPerf o.origin.core o.origin.ctx 10 1
    else s1
  | none =>
    match s.reqs.find? fun r => r.id == s.arg.a && r.promoted with
    | some r =>
      if s.reqWaits r then s
      else (s.serveReq r).countPerf r.core (match s.team? r.tid with | some t => t.ctx | none => 0) 10 1
    | none => s)

/-! ## Wakes (R36, R39) -/

/-- The wake condition of a park has occurred (R36). -/
def Team.woken (t : Team) : Bool :=
  match t.run with
  | .parked (.monitor _ _) none => (match t.monitor with | .armed _ => false | _ => true)
  | .parked _ w => w.isSome
  | _ => false

/-- A team that leaves PARKED for the state that place gives it, and what its instruction then does: the wait that has
ended retires it (a wake of MWAIT drops the load cache, R283), or it issues again after a service of the retry ring. -/
def State.wakeTo (s : State) (place : State → Team → State) (t : Team) (p : Park) (w : Option Wake) : State :=
  let s1 := place s t
  match s1.team? t.tid with
  | none => s
  | some u =>
    match p, w with
    | .monitor d _, some (.status n) => (s1.dropCache (coreOf t.tid)).retireS { u with monitor := .none_ } [(d, dw n)]
    | .monitor d _, none =>
      match t.monitor with
      | .ended n => (s1.dropCache (coreOf t.tid)).retireS { u with monitor := .none_ } [(d, dw n)]
      | .none_ => (s1.dropCache (coreOf t.tid)).retireS u [(d, 4)]
      | .armed _ => s
    | .lock _, some .done => s1.retire u
    | .permit _, some .done => s1.retire u
    | .promise _, some .done => s1.retire u
    | .barrier l va sd scope, some (.barrier ab) => s1.endWait u l va sd scope (ab || s1.partiesAbandoned u l)
    | .copy _ cont, some .done => s1.retireAt u cont
    | .retry, some .done => s1.acquireAt (coreOf t.tid) 4
    | _, _ => s

/-- A team leaves PARKED for ACTIVE or PENDING (R36). -/
def State.wakeFrom (s : State) (t : Team) (p : Park) (w : Option Wake) : State := s.wakeTo State.unpark t p w

/-- A team that comes back from HALTED or PREEMPTED goes on as PENDING where the wake condition of its park has occurred
(R36). -/
def State.wakeBack (s : State) (h : Handle) : State :=
  match s.team? h with
  | none => s
  | some t =>
    match t.run with
    | .parked p w => if t.woken then s.wakeTo (fun s t => s.setTeam (t.toPending (s.now t))) t p w else s
    | _ => s

/-- Before its next instruction a team takes the trap DEFERRED for the oldest failure that a save kept for it (R390); one that
is HALTED takes it when it resumes (R380). -/
def State.takeDeferred (s : State) (h : Handle) : State :=
  match s.team? h with
  | none => s
  | some t =>
    match t.deferred with
    | [] => s
    | d :: rest =>
      if t.stop == some .halted || t.dying.isSome then s
      else s.trap { t with deferred := rest } 0x30 d.cause d.pc d.mask

/-- TEAM_WAKE (R39): the notice for team arg.tid acts, and it leaves PARKED for ACTIVE or PENDING. -/
def execTeamWake (s : State) : Host.Outcome State Fault Refusal :=
  .next (match s.team? s.arg.tid with
  | none => s
  | some t =>
    match t.run with
    | .parked p w => if t.running && t.dying.isNone && !s.launchSaving t then s.wakeFrom t p w else s
    | _ => s)

end Sys2Proof.Machine
end

