-- ==== Sys2Proof/Machine/Deaths.lean ====
section
/-! DEFINITION. EXIT and KILL (R155, R274), the stop of a dying team (R315), conveyance entry by entry (R347 to R353), what a team's exit leaves (R32, R129, R227, R264), and SEGSET (R116). -/

namespace Sys2Proof.Machine

/-! ## Completions outside the team -/

/-- A mailbox's command completes (R398): status and tag, the result, then BUSY clears. -/
def State.mailboxDone (s : State) (fn : Nat) (status : Nat) (result : Dword) : State :=
  let m : Mailbox := spRead {} s.mailboxes fn
  let m1 : Mailbox := { m with busy := false, status := BitVec.ofNat 8 status, doneTag := m.cmdTag, result }
  { s with mailboxes := spWrite {} s.mailboxes fn m1 }

/-- The outcome of a step goes to the stepping team, which retires its HSTEP, or to the host's command (R270, R399). -/
def State.stepReply (s : State) (st : Stepping) (n : Nat) : State :=
  match st.by_ with
  | some h =>
    match s.team? h with
    | some u => s.retireS u [(st.sd, dw n)]
    | none => s
  | none => s.mailboxDone st.mailbox 0 (dw n)

/-! ## EXITED -/

/-- A team's crew is broken for good (R227). -/
def State.breakCrew (s : State) (t : Team) : State :=
  match s.crewOf t with
  | some c => s.modCrew c.id fun c => { c with broken := true }
  | none => s

/-- What is left of a gleaner command after its team's exit, if anything (R155): queue entries are discarded, and a command
that a queue feeds runs to the end of the entry it has taken. -/
def Glean.orphan (g : Glean) : Option Glean :=
  if g.indexQueue.isNone && !(g.scatter && g.queue.isSome) then some g
  else if g.pending.isSome then some { g with ends := true }
  else none

/-- Failures that a team deferred and has not taken: poison among them is notified, the others are discarded (R396). -/
def State.deferredEnd (s : State) (t : Team) : State :=
  (t.deferred.filter fun d => d.cause == 8).foldl (fun s d =>
    s.post t.ctx { cause := 0x41, detail := 8, tid := t.tid, lid := t.lid, pc := d.pc, issue := 0, info := dw d.addr, mask := 0 }) s

/-- A team becomes EXITED (R36): its registers and queues end, its crew is broken, barriers lose a party, its plot
and its launch count it, and a step of it ends with outcome 2. -/
def State.exitTeam (s : State) (t : Team) : State :=
  let s1 := ((s.disarm t.tid).breakCrew t).deferredEnd t
  let gone : Exited :=
    { tid := t.tid, ctx := t.ctx, lid := t.lid, plot := t.plot, index := t.index
      killed := match t.dying with | some d => d.killed | none => false }
  let s2 := { s1 with
    teams := s1.teams.filter fun u => !(u.tid == t.tid)
    exited := s1.exited ++ [gone]
    rputs := s1.rputs.filter fun r => !(r.tid == t.tid)
    orphans := s1.orphans ++ t.gleans.filterMap Glean.orphan }
  let s3 := s2.modPlot t.plot fun p => { p with exited := addTo t.index p.exited }
  let s4 := s3.modLaunch t.ctx t.lid fun l =>
    { l with living := l.living - 1 }.dropImage fun x => match x with | .team h => h == t.tid | _ => false
  let s5 := ((s4.partyExit t.plot t.ctx t.lid).freePlot t.plot).finishLaunch t.ctx t.lid
  match t.stepping with
  | some st => s5.stepReply st (st.outcome.getD 2)
  | none => s5

/-- A load or a value-returning atomic of a team has neither delivered nor entered the retry ring (R155). -/
def State.returnsOpen (s : State) (h : Handle) : Bool :=
  s.ops.any fun o => o.origin.tid == h && o.returns && (!o.delivered || decide (0 < o.unwritten))

/-- A TIMING 1 stop on EXIT itself: the instruction has completed, and the stop acts on the other teams (R361, R362). -/
def State.exitLate (s : State) (t : Team) : State :=
  match t.late with
  | some g => s.stopOthers t g
  | none => s

/-- EXIT (R155). -/
def execExit (s : State) : Host.Outcome State Fault Refusal :=
  issue s fun s t _ =>
    if s.isSup t then s.illegal t
    else if s.returnsOpen t.tid then s.holdAt t .exit
    else if s.hasEntry t [0, 1] then s.park t .retry none
    else if t.estate.isEmpty then (s.exitLate t).exitTeam t
    else if s.draining t.tid then s.holdOrRetry t .exit (s.hasEntry t [2])
    else
      let (g, s) := s.takeId
      (((s.exitLate t).acceptDeath t.tid false g)).modTeam t.tid fun u => { u with drained := true }

/-- KILL (R274): the supervisor kills a team of its context; a handle that names none has no effect. -/
def execKill (a : BitVec 7) (s : State) : Host.Outcome State Fault Refusal :=
  issue s fun s t v =>
    if !s.isSup t then s.trap t cPrivilege 0 0 0
    else
      let h : Handle := (v.reg a).setWidth 32
      if h = t.tid then s.illegal t
      else
        let s1 := s.retire t
        match s1.team? h with
        | some u => if u.ctx = t.ctx then let (g, s2) := s1.takeId; s2.kill h g else s1
        | none => s1

/-! ## The stop of a dying team (R315, R353) -/

/-- A pool's queue as a team leaves it: what now stands first may be granted. -/
def State.leavePools (s : State) (h : Handle) : State :=
  let pools := (s.permitQ.filter fun w => w.tid == h).map PermitWaiter.pa
  pools.foldl (fun s pa => s.grantPool pa) { s with permitQ := s.permitQ.filter fun w => !(w.tid == h) }

/-- The entry of an operation was dropped (R384): nothing will resolve it. -/
def State.entryDropped (s : State) (o : MemOp) : Bool :=
  match s.ctx? o.origin.ctx with
  | none => false
  | some c => c.retry.any fun e => e.opId == o.id && !e.poppable

/-- Every access and request of a dying team is over (R315 steps 2 and 3, R353): a kill during a save takes effect
after it (R338); to a team that was dying already the pre-emption is not applied (R353). An operation whose entry was dropped is waited for no longer (R384). -/
def State.deadQuiet (s : State) (t : Team) : Bool :=
  !(s.ops.any fun o => o.origin.tid == t.tid && !s.entryDropped o) && !s.draining t.tid
    && !(s.reqs.any fun r => r.tid == t.tid && r.holds)
    && !((match t.dying with | some d => d.inSave | none => false) && s.launchSaving t)

/-- DYING_TEAM_STOP (R315): team arg.tid, dying, has stopped, its loads and atomics are resolved and its stores
drained. Without holdings it is EXITED. -/
def execDyingTeamStop (s : State) : Host.Outcome State Fault Refusal :=
  .next (match s.team? s.arg.tid with
  | none => s
  | some t =>
    if t.dying.isSome && !t.drained && s.deadQuiet t then
      let s1 := (s.leavePools t.tid).modTeam t.tid fun u => { u with drained := true }
      match s1.team? t.tid with
      | some u => if u.estate.isEmpty then s1.exitTeam u else s1
      | none => s1
    else s)

/-! ## Conveyance (R349, R350, R352) -/

/-- A HEIRLESS notice, or, with the supervisor dying, a report record of kind 2 (R349, R381, R402). Log entry 43. -/
def State.heirless (s : State) (d : Team) (depth : Nat) (obj : Dword) (kind count : Nat) : State :=
  let supDies := match s.ctx? d.ctx with | some c => s.isDying c.supervisor | none => true
  if supDies then s.report d.ctx 2 0 d.tid obj.toNat count
  else
    s.post d.ctx
      { cause := 0x40, detail := depth, tid := d.tid, lid := d.lid, pc := 0, issue := 0, info := obj, mask := 0
        extra := dw (count * 2 ^ 32 + kind) }

/-- A team of the same plot whose death the same event caused comes first (R352). -/
def State.groupBefore (s : State) (t : Team) : Bool :=
  match t.dying with
  | none => false
  | some d => s.teams.any fun u => u.plot == t.plot && decide (u.index < t.index) &&
      (match u.dying with | some e => e.group == d.group | none => false)

/-- The sector of an estate entry is poisoned (R353). -/
def State.entryPoisoned (s : State) (t : Team) (i : Nat) : Bool :=
  match s.translate (portOf t.tid) t.ctx ((t.seg 3).base.toNat + 32 * i) .read with
  | .ok pa _ => s.poisoned pa
  | .fault _ => false

/-- One entry of a dying team goes to its receiver; an entry that cannot be read becomes a HEIRLESS record with the
object address 0 and the entry's E offset in the place of the permit count. -/
def State.conveyEntry (s : State) (t : Team) (i : Nat) (e : Estate) : State :=
  let drop := fun (s : State) => s.setEstate t.tid fun es => es.take i
  if s.entryPoisoned t i then (drop s).heirless t 1 0 0 (32 * i)
  else
    let r := s.receiver t e
    let rcv := match e.kind, r.1 with
      | .permit, x => x
      | _, .pool => .nobody
      | _, x => x
    let s1 := (drop s).passEntry e rcv t.tid true
    match rcv with
    | .nobody => s1.heirless t r.2 e.obj e.kind.code e.count
    | _ => s1

/-- CONVEYANCE_ENTRY (R350): the newest entry of dying team arg.tid is conveyed, as a release at `.dev`, which its
core's release buffer precedes; after the last the team is EXITED. -/
def execConveyanceEntry (s : State) : Host.Outcome State Fault Refusal :=
  .next (match s.team? s.arg.tid with
  | none => s
  | some t =>
    if t.dying.isSome && t.drained && !s.groupBefore t && (s.core (coreOf t.tid)).buffer.isEmpty then
      let s1 := match t.estate.getLast? with
        | none => s
        | some e => s.conveyEntry t (t.estate.length - 1) e
      match s1.team? t.tid with
      | some u => if u.estate.isEmpty then s1.exitTeam u else s1
      | none => s1
    else s)

/-! ## SEGSET (R116) -/

/-- The region that the headgate has assigned to a team's segment, if it assigns one: base and size. -/
def State.region (s : State) (t : Team) (seg : Nat) : Option (Nat × Nat) :=
  match seg with
  | 1 => some (match s.plot? t.plot with
    | some p => (Config.granuleBytes * p.scratchSlot, Config.granuleBytes * p.scratchGranules)
    | none => (0, 0))
  | 3 => some ((Config.estateBase t.ctx t.tid).toNat, 32 * hEstate (s.header t))
  | 4 => some ((Config.stackBase t.ctx t.tid).toNat, hTsize (s.header t))
  | _ => none

/-- The checks of R116 on a new base and limit. -/
def State.segmentOk (s : State) (t : Team) (seg : Nat) (b n : Dword) : Bool :=
  let inside := match s.region t seg with
    | some r => n == 0 || (decide (r.1 ≤ b.toNat) && decide (b.toNat + n.toNat ≤ r.1 + r.2))
    | none => true
  decide (b.toNat + n.toNat < 2 ^ 64) && inside && (seg == 1 || decide (b.toNat + n.toNat ≤ 2 ^ 56))

/-- SEGSET: the supervisor writes one of its own segment registers. -/
def execSegset (sg : BitVec 3) (a b : BitVec 7) (s : State) : Host.Outcome State Fault Refusal :=
  issue s fun s t v =>
    if !s.isSup t then s.trap t cPrivilege 0 0 0
    else if s.segmentOk t sg.toNat (v.reg a) (v.reg b) then
      s.retire { t with segs := spWrite {} t.segs sg.toNat { base := v.reg a, limit := v.reg b } }
    else s.illegal t

end Sys2Proof.Machine
end

