-- ==== Sys2Proof/Machine/VecPass.lean ====
section
/-! DEFINITION. The ends of vector instructions: DATAPATH_LAST_PASS (R158, R333), MHAD and the transform stage (R240). -/

namespace Sys2Proof.Machine

/-- The results of a datapath entry are written: vector slices, scalar registers and pushes to queues; a delivery
still due into one of them leaves either value (R84). -/
def State.writePass (s : State) (t : Team) (d : Datapath) : State :=
  let s1 := s.noteWrites t.tid false (d.writes.map fun w => (w.reg, w.lane))
  let s2 := (s1.noteWrites t.tid true (d.scalars.map fun w => (w.1, 0))).putLanes t.tid d.writes
  s2.modTeam t.tid fun u => d.pushes.foldl Team.pushQueue (d.scalars.foldl (fun u w => u.setS w.1 w.2) u)

/-- DATAPATH_LAST_PASS (R158): the last pass of the instruction in the datapath entry of team arg.tid ends, and the
entry empties. -/
def execDatapathLastPass (s : State) : Host.Outcome State Fault Refusal :=
  .next (match s.team? s.arg.tid with
  | none => s
  | some t =>
    match t.datapath with
    | none => s
    | some d =>
      if d.readyAt ≤ s.now t then (s.writePass t d).modTeam t.tid fun u => { u with datapath := none } else s)

/-- The results of everything that a team has issued are in its registers: the datapath entry, the transform stage and
the partition's divider. A halted team's registers are read and written so, since every older instruction has retired
(R368, R379). -/
def State.settle (s : State) (h : Handle) : State :=
  let pass := fun (s : State) (get : Team → Option Datapath) (clear : Team → Team) =>
    match s.team? h with
    | none => s
    | some t => match get t with | some d => (s.writePass t d).modTeam h clear | none => s
  let s1 := pass (pass s Team.datapath fun u => { u with datapath := none }) Team.hadamard fun u => { u with hadamard := none }
  s1.endDivide h (coreOf h) (partOf h)

/-! ## MHAD (R240) -/

/-- Block size of MHAD. -/
def hadSize (f : VFields) : Nat := 16 * 2 ^ (f.fn.toNat % 4)

/-- ⌊log₂(n)/2⌋. -/
def hadShift (n : Nat) : Nat := Nat.log2 n / 2

/-- A value scaled by a power of two. -/
def scaleRes (k : Int) : Res → Res
  | .val (.fin n m e) => .val (.fin n m (e + k))
  | r => r

/-- Element p of a block's transform: the signed sum of the block, scaled. -/
def hadElem (F : Fmt) (x : List Val) (p : Nat) : Nat × BitVec 8 :=
  if x.any Val.isAbsent then (F.absent, 0)
  else
    let terms := x.zipIdx.map fun q => if popcount 6 (p &&& q.2) % 2 = 1 then negVal q.1 else q.1
    roundRes F .rne false (scaleRes (-(hadShift x.length : Int)) (sumVals false terms))

/-- The elements of a source over all lanes of a team, in element order (R45). -/
def allElems (s : State) (v : Team) (x : Src) (lit : Nat) (F : Fmt) : List Nat :=
  (List.range v.width).flatMap fun l => (List.range F.perLane).map fun j => x.elem s v lit F l j

/-- MHAD of the active lanes. -/
def hadOut (f : VFields) (s : State) (v : Team) (srcs : List Src) (lanes : List Nat) : VOut :=
  let F := fmtF f
  let E := F.perLane
  let n := hadSize f
  let xs := match srcs with | x :: _ => (allElems s v x (litNat f) F).map (floatVal F) | [] => []
  joinOut (lanes.map fun l =>
    packOut F f.vd.toNat l 0 ((List.range E).map fun j =>
      let e := l * E + j
      hadElem F ((xs.drop (e / n * n)).take n) (e % n)))

/-- MHAD: it goes into the transform stage, 2 cycles per pass and 8 after. -/
def execMhad (f : VFields) (s : State) : Host.Outcome State Fault Refusal :=
  issueV 0x1C5 f s (runV
    { sources := [f.va.toNat], reads := if f.va.toNat < 384 then [f.va.toNat] else [], anyLane := true, perPass := 2
      tail := 8, stage := true }
    [f.vd.toNat] (hadOut f))

/-- MHAD_COMPLETE (R240): the transform stage of team arg.tid writes vD. -/
def execMhadComplete (s : State) : Host.Outcome State Fault Refusal :=
  .next (match s.team? s.arg.tid with
  | none => s
  | some t =>
    match t.hadamard with
    | none => s
    | some d =>
      if d.readyAt ≤ s.now t then (s.writePass t d).modTeam t.tid fun u => { u with hadamard := none } else s)

end Sys2Proof.Machine
end

