-- ==== Sys2Proof/Machine/Debug.lean ====
section
/-! DEFINITION. The debug instructions (R267 to R271, R357, R366 to R369): weir registers, inspection and change of a halted team, steps, resuming, killing and releasing lanes; and the stops of other teams (R362). -/

namespace Sys2Proof.Machine

/-! ## Who asks, and about whom (R267) -/

/-- Who issues a debug instruction: a team, or the host through a mailbox (R399). -/
structure Asker where
  ctx : Nat
  /-- Issuing core; the host has none. -/
  core : Option Nat
  sup : Bool
  team : Option Handle := none
  mailbox : Nat := 0
  deriving DecidableEq, Repr

/-- The team that a handle names for a context; a stale handle and another context's team name none. -/
def State.target (s : State) (a : Asker) (x : Dword) : Option Team :=
  match s.team? (x.setWidth 32) with
  | some t => if t.ctx = a.ctx then some t else none
  | none => none

/-- The target is HALTED, and no conveyance has begun. -/
def Team.haltedTarget (t : Team) : Bool := t.isHalted && t.dying.isNone

/-- A state with s[D] and s[D + 1]. -/
structure Answer where
  state : State
  d : Dword
  e : Dword := 0

/-! ## WSET and WGET (R268, R357) -/

/-- The weir register that a selector names: core, register and weir; none for status 18. -/
def weirSel (a : Asker) (x : Dword) : Option (Nat × Nat × Nat) :=
  let n := x.toNat
  let core := bits n 15 8
  if 2 ^ 16 ≤ n ∨ bits n 7 6 ≠ 0 then none
  else if core = 255 then a.core.map fun c => (c, bits n 5 4, n % 16)
  else if core < Config.cores then some (core, bits n 5 4, n % 16)
  else none

/-- Another context has claimed the weir. -/
def Weir.foreign (w : Weir) (ctx : Nat) : Bool := match w.owner with | some o => o != ctx | none => false

/-- WSET: the status, with the register written. -/
def State.wset (s : State) (a : Asker) (sel x : Dword) : Answer :=
  match weirSel a sel with
  | none => { state := s, d := 18 }
  | some (core, r, n) =>
    let w := s.weir core n
    let put := fun (w : Weir) => s.modCore core fun c => { c with weirs := spWrite {} c.weirs n w }
    if w.foreign a.ctx then { state := s, d := 20 }
    else if r = 0 then
      if !wctlOk x then { state := s, d := 18 }
      else if bit x.toNat 63 then { state := put { w with ctl := x, owner := some a.ctx }, d := 0 }
      else { state := put { ctl := x }, d := 0 }
    else if w.owner.isNone then { state := s, d := 19 }
    else
      { state := put (match r with | 1 => { w with lo := x } | 2 => { w with hi := x } | _ => { w with hit := x }), d := 0 }

/-- WGET: the register's value and the status. -/
def State.wget (s : State) (a : Asker) (sel : Dword) : Answer :=
  match weirSel a sel with
  | none => { state := s, d := 0, e := 18 }
  | some (core, r, n) =>
    let w := s.weir core n
    if w.foreign a.ctx then { state := s, d := 0, e := 20 }
    else { state := s, d := match r with | 0 => w.ctl | 1 => w.lo | 2 => w.hi | _ => w.hit }

/-! ## HINSP and HPOKE (R269) -/

/-- ITEM. -/
def itemNo (x : Dword) : Nat := dbits x 7 0
/-- SUB. -/
def itemSub (x : Dword) : Nat := dbits x 23 8
/-- LANE. -/
def itemLane (x : Dword) : Nat := dbits x 41 32

/-- Set and clear of every flag, and software bits (R113, R269). -/
def Team.flagWord (t : Team) : Dword :=
  dw ((List.range 12).foldl (fun a n =>
    a + (if (t.flag n).isSet then 2 ^ n else 0) + (if (t.flag n).soft then 2 ^ (n + 12) else 0)) 0)

/-- The value of an item of a team, read as its registers stand; none for status 18. -/
def State.inspect (s : State) (t : Team) (x : Dword) : Option Dword :=
  let sub := itemSub x
  let lane := itemLane x
  match itemNo x with
  | 0 => if sub < t.regs ∧ lane < t.width then some ((t.getV sub lane).setWidth 64) else none
  | 1 => if sub < 128 then some (t.getS sub) else none
  | 2 => s.sysReg t sub
  | 3 => if sub < 16 then some (dw (t.hold.toNat / 2 ^ (64 * sub))) else none
  | 4 => some t.flagWord
  | 5 => some (match t.clause with | some c => c.addr | none => t.pc)
  | 6 => some (dw (t.idxNo + 256 * t.issueNo))
  | 7 => if sub < 8 then some (t.seg sub).base else none
  | 8 => if sub < 8 then some (t.seg sub).limit else none
  | 9 => if lane < t.width then some (t.getCtr lane) else none
  | 10 => some t.haltRec
  | _ => none

/-- HINSP: the value and the status. A register that a delivery is still to write gives a free value (R84). -/
def State.hinsp (s : State) (a : Asker) (h x : Dword) : Answer :=
  match s.target a h with
  | none => { state := s, d := 0, e := 16 }
  | some t =>
    if !t.haltedTarget then { state := s, d := 0, e := 17 }
    else
      let s := s.settle t.tid
      let v := s.view ((s.team? t.tid).getD t)
      match s.inspect v.1 x with
      | none => { state := s, d := 0, e := 18 }
      | some w => { state := { s with fresh := s.fresh + v.2 }, d := w }

/-- Write the software bits of the flags (R269). -/
def Team.pokeFlags (t : Team) (x : Dword) : Team :=
  (List.range 12).foldl (fun u n => u.modFlag n fun f => { f with soft := bit x.toNat (n + 12) }) t

/-- Write a word of HOLD; lanes at or beyond the width stay 0 (R124). -/
def Team.pokeHold (t : Team) (n : Nat) (x : Dword) : Team :=
  let m := setBits t.hold.toNat (64 * n + 63) (64 * n) x.toNat % 2 ^ t.width
  { t with hold := BitVec.ofNat 1024 m }

/-- A base or a limit written, under the checks of R116. -/
def State.pokeSeg (s : State) (t : Team) (n : Nat) (g : Segment) : State × Nat :=
  if s.segmentOk t n g.base g.limit then (s.setTeam { t with segs := spWrite {} t.segs n g }, 0) else (s, 18)

/-- Write an item of a halted team: the state and the status. -/
def State.poke (s : State) (t : Team) (sup : Bool) (x v : Dword) : State × Nat :=
  let sub := itemSub x
  let lane := itemLane x
  match itemNo x with
  | 0 =>
    if sub < t.regs ∧ lane < t.width then
      ((s.noteWrites t.tid false [(sub, lane)]).putLanes t.tid [{ reg := sub, lane, val := v.setWidth 32 }], 0)
    else (s, 18)
  | 1 =>
    if sub < 128 then ((s.noteWrites t.tid true [(sub, 0)]).modTeam t.tid fun u => u.setS sub v, 0) else (s, 18)
  | 2 =>
    if sub = 3 ∨ sub = 4 ∨ sub = 5 ∨ sub = 6 then (s, 19)
    else
      match t.sysWrite sub v with
      | some u => (s.setTeam u, 0)
      | none => (s, 18)
  | 3 => if sub < 16 then (s.setTeam (t.pokeHold sub v), 0) else (s, 18)
  | 4 => (s.setTeam (t.pokeFlags v), 0)
  | 5 => (s.setTeam { t with pc := v, clause := none, arrived := none, pcSeen := false }, 0)
  | 6 => (s, 19)
  | 7 =>
    if !sup then (s, 19) else if sub < 8 then s.pokeSeg t sub { t.seg sub with base := v } else (s, 18)
  | 8 =>
    if !sup then (s, 19) else if sub < 8 then s.pokeSeg t sub { t.seg sub with limit := v } else (s, 18)
  | 9 => if lane < t.width then (s.setTeam { t with ctr := spWrite 0 t.ctr lane v }, 0) else (s, 18)
  | 10 => (s, 19)
  | _ => (s, 18)

/-- HPOKE: the status. -/
def State.hpoke (s : State) (a : Asker) (h x v : Dword) : Answer :=
  match s.target a h with
  | none => { state := s, d := 16 }
  | some t =>
    if !t.haltedTarget then { state := s, d := 17 }
    else
      let s := s.settle t.tid
      let r := s.poke ((s.team? t.tid).getD t) a.sup x v
      { state := r.1, d := dw r.2 }

/-! ## HRESUME, HKILL and LRELEASE (R271, R369) -/

/-- A halted team goes on (R36): it keeps its park, and is PENDING otherwise; its next issue has the exemption of R363. -/
def Team.resumed (t : Team) (now : Nat) : Team :=
  { t with stop := none, exempt := true, since := now }

/-- Halted teams go on (R36): PARKED where a park's wake condition has not occurred, else PENDING. -/
def State.resumeAll (s : State) (mine : Team → Bool) : State :=
  let s1 := { s with teams := s.teams.map fun u => if mine u then u.resumed (s.now u) else u }
  ((s.teams.filter mine).map Team.tid).foldl (fun s h => (s.wakeBack h).takeDeferred h) s1

/-- HRESUME: the count of teams resumed, or an error code. -/
def State.hresume (s : State) (a : Asker) (scope : Nat) (h : Dword) : Answer :=
  match s.target a h with
  | none => { state := s, d := 16 }
  | some t =>
    if scope = 0 && !t.haltedTarget then { state := s, d := 17 }
    else
      let mine := fun (u : Team) => u.haltedTarget &&
        (match scope with
         | 0 => u.tid == t.tid
         | 1 => u.plot == t.plot
         | _ => u.ctx == t.ctx && u.lid == t.lid)
      let n := (s.teams.filter mine).length
      let s1 := s.resumeAll mine
      { state := if 2 ≤ scope then s1.modLaunch t.ctx t.lid fun l => { l with haltMark := false } else s1, d := dw n }

/-- HKILL: the status. -/
def State.hkill (s : State) (a : Asker) (h : Dword) : Answer :=
  match s.target a h with
  | none => { state := s, d := 16 }
  | some t =>
    if !t.haltedTarget then { state := s, d := 17 }
    else
      let (g, s1) := s.takeId
      { state := s1.kill t.tid g, d := 0 }

/-- LRELEASE: the status. -/
def State.lrelease (s : State) (a : Asker) (h x : Dword) : Answer :=
  let lane := dbits x 9 0
  match s.target a h with
  | none => { state := s, d := 16 }
  | some t =>
    if t.preempted then { state := s, d := 17 }
    else if t.width ≤ lane then { state := s, d := 18 }
    else { state := s.setTeam { t with hold := t.hold &&& ~~~(maskOf [lane]) }, d := 0 }

/-! ## HSTEP (R270, R368) -/

/-- A step begins, or the status that says why it does not. A target that is PARKED, and whose wake has not come, stops
again at once. Log entry 60. -/
def State.hstep (s : State) (a : Asker) (sd : BitVec 7) (h x : Dword) : State ⊕ Nat :=
  let focus := dbits x 9 0
  let n := dbits x 47 32
  match s.target a h with
  | none => .inr 16
  | some t =>
    if !t.haltedTarget then .inr 17
    else if n = 0 ∨ t.width ≤ focus then .inr 18
    else
      let parked := (match t.run with | .parked _ _ => true | _ => false) && !t.woken
      let st : Stepping :=
        { by_ := a.team, mailbox := a.mailbox, sd, focus, left := n, outcome := if parked then some 4 else none }
      .inl (((s.setTeam { t.resumed (s.now t) with stepping := some st }).wakeBack t.tid).takeDeferred t.tid)

/-- HSTEP_END (R270): the step of team arg.tid has its outcome; the team is HALTED again, with cause 5 or 6 in its halt
record when the count or the limit ended it, and the outcome is written. It waits until what the team has issued has
completed (R368). -/
def execHstepEnd (s : State) : Host.Outcome State Fault Refusal :=
  .next (match s.team? s.arg.tid with
  | none => s
  | some t =>
    match t.stepping with
    | none => s
    | some st =>
      match st.outcome with
      | none => s
      | some n =>
        if t.datapath.isSome || t.hadamard.isSome || s.dividing t then s
        else
        let rec_ := match n with
          | 0 => plainRecord 5 st.focus t.tid
          | 1 => plainRecord 6 st.focus t.tid
          | _ => t.haltRec
        (s.setTeam { t.haltWith rec_ with stepping := none, stepHalt := t.stepHalt || decide (n ≤ 1) }).stepReply st n)

/-- STEP_LIMIT (R270): 4,096 instructions in a row without the focus lane active end the step of team arg.tid. -/
def execStepLimit (s : State) : Host.Outcome State Fault Refusal :=
  .next (match s.team? s.arg.tid with
  | none => s
  | some t =>
    match t.stepping with
    | none => s
    | some st => if 4096 ≤ st.idle then s.setTeam (t.endStep 1) else s)

/-- TEAM_HALT_STOP (R362): team arg.tid, told to stop by another team's weir, stops between two instructions. -/
def execTeamHaltStop (s : State) : Host.Outcome State Fault Refusal :=
  .next (match s.team? s.arg.tid with
  | none => s
  | some t =>
    match t.stop with
    | some (.stopping rec_ _ _) =>
      let begun := match t.held with
        | some (.collective, _) => false
        | some (h, _) => h.begun
        | none => false
      if begun || s.dividing t then s else s.setTeam (({ t with stop := none }.haltWith rec_).endStep 3)
    | _ => s)

/-! ## The instructions -/

/-- The issuing team as an asker. -/
def State.askerOf (s : State) (t : Team) : Asker :=
  { ctx := t.ctx, core := some (coreOf t.tid), sup := s.isSup t, team := some t.tid }

/-- A debug instruction that acts at once: s[D], and s[D + 1] where it has one, are written. -/
def debugInsn (op : Nat) (two : Bool) (f : VFields) (act : State → Asker → Team → Answer) (s : State) :
    Host.Outcome State Fault Refusal :=
  issueV op f s fun s t v =>
    let r := act s (s.askerOf t) v
    let d := BitVec.ofNat 7 f.vd.toNat
    match r.state.team? t.tid with
    | some u => r.state.retireS u ((d, r.d) :: if two then [(d + 1, r.e)] else [])
    | none => r.state

/-- WSET (R268). -/
def execWset (f : VFields) (s : State) : Host.Outcome State Fault Refusal :=
  debugInsn 0x288 false f (fun s a v => s.wset a (v.getS f.va.toNat) (v.getS f.vb.toNat)) s
/-- WGET (R268). -/
def execWget (f : VFields) (s : State) : Host.Outcome State Fault Refusal :=
  debugInsn 0x289 true f (fun s a v => s.wget a (v.getS f.va.toNat)) s
/-- HINSP (R269). -/
def execHinsp (f : VFields) (s : State) : Host.Outcome State Fault Refusal :=
  debugInsn 0x28A true f (fun s a v => s.hinsp a (v.getS f.va.toNat) (v.getS f.vb.toNat)) s
/-- HPOKE (R269). -/
def execHpoke (f : VFields) (s : State) : Host.Outcome State Fault Refusal :=
  debugInsn 0x28B false f (fun s a v => s.hpoke a (v.getS f.va.toNat) (v.getS f.vb.toNat) (v.getS f.vc.toNat)) s
/-- HRESUME (R271). -/
def execHresume (f : VFields) (s : State) : Host.Outcome State Fault Refusal :=
  debugInsn 0x28D false f (fun s a v => s.hresume a (f.fn.toNat % 4) (v.getS f.va.toNat)) s
/-- HKILL (R271). -/
def execHkill (f : VFields) (s : State) : Host.Outcome State Fault Refusal :=
  debugInsn 0x28E false f (fun s a v => s.hkill a (v.getS f.va.toNat)) s
/-- LRELEASE (R271). -/
def execLrelease (f : VFields) (s : State) : Host.Outcome State Fault Refusal :=
  debugInsn 0x28F false f (fun s a v => s.lrelease a (v.getS f.va.toNat) (v.getS f.vb.toNat)) s

/-- HSTEP (R270): the team is held until the step that it has begun ends. -/
def execHstep (f : VFields) (s : State) : Host.Outcome State Fault Refusal :=
  issueV 0x28C f s fun s t v =>
    let d := BitVec.ofNat 7 f.vd.toNat
    let busy := s.teams.any fun u => match u.stepping with | some st => st.by_ == some t.tid | none => false
    if busy then s.holdAt t .debug
    else
      match s.hstep (s.askerOf t) d (v.getS f.va.toNat) (v.getS f.vb.toNat) with
      | .inr n => s.retireS t [(d, dw n)]
      | .inl s1 => s1.holdAt t .debug

end Sys2Proof.Machine
end

