-- ==== Sys2Proof/Machine/VecMove.lean ====
section
/-! DEFINITION. Moves, lanes, random numbers and permutations (R165, R170, R171, R183, R184), and MKMASK (R144). -/

namespace Sys2Proof.Machine

/-- The n-th source of an instruction. -/
def nthSrc (srcs : List Src) (n : Nat) : Src := srcs.getD n (.const 448)

/-- VMOV (R165): each active lane's slice of vA, or the constant, into vD. -/
def execVmov (f : VFields) (s : State) : Host.Outcome State Fault Refusal :=
  mapSlices 0x000 f (fun s v srcs _ l => (nthSrc srcs 0).slice s v (litNat f) (fmtF f) l) s

/-- VBCAST (R165): the low bits of s[VA] into every element, or the format's absent code where VA is %absent. -/
def execVbcast (f : VFields) (s : State) : Host.Outcome State Fault Refusal :=
  let F := fmtF f
  mapSlices 0x001 f (fun _ v _ _ _ =>
    let e := if f.va = 453 then F.absent else (v.getS f.va.toNat).toNat % 2 ^ F.width
    packElems F (List.replicate F.perLane e)) s

/-- A source lane's slice, or zeros where no such lane exists (R165, R171). Log entry 14. -/
def laneSlice (s : State) (v : Team) (f : VFields) (x : Src) (l : Nat) : List Word :=
  if l < v.width then x.slice s v (litNat f) (fmtF f) l else List.replicate (fmtF f).regs 0

/-- VLANE (R165): vA's slice in the lane that vB names, whatever that lane's activity; 0 beyond the width. -/
def execVlane (f : VFields) (s : State) : Host.Outcome State Fault Refusal :=
  mapSlices 0x002 f (fun s v srcs _ l =>
    laneSlice s v f (nthSrc srcs 0) ((nthSrc srcs 1).word s v (litNat f) (fmtF f) l)) s

/-- VSETL (R165): elements with index below s[VB] are kept, the others become absent. -/
def execVsetl (f : VFields) (s : State) : Host.Outcome State Fault Refusal :=
  let F := fmtF f
  mapSlices 0x003 f (fun s v srcs _ l =>
    packElems F ((List.range F.perLane).map fun j =>
      if l * F.perLane + j < (v.getS f.vb.toNat).toNat then (nthSrc srcs 0).elem s v (litNat f) F l j
      else F.absent)) s

/-- VIOTA (R165): the number of lower active lanes whose truth is true. -/
def execViota (f : VFields) (s : State) : Host.Outcome State Fault Refusal :=
  mapSlices 0x004 f (fun s v srcs lanes l =>
    [BitVec.ofNat 32 (lanes.filter fun m =>
      decide (m < l) && (nthSrc srcs 0).truth s v (litNat f) m == .true_).length]) s

/-- VWID (R165): field k of each lane's work identifier. -/
def execVwid (f : VFields) (s : State) : Host.Outcome State Fault Refusal :=
  mapSlices 0x005 f (fun s v _ _ l =>
    let h := s.header v
    let k := f.fn.toNat % 8
    [BitVec.ofNat 32 (s.workId v l / 2 ^ widOffset h k % 2 ^ hW h k)]) s

/-- One result byte of VPERMB under a 5-bit selector, from vA:vB as eight bytes (R170). -/
def permByte (x sel : Nat) : Nat :=
  let b := x / 2 ^ (8 * (sel % 8)) % 256
  match sel / 8 with
  | 0 => b
  | 1 => 0
  | 2 => if 128 ≤ b then 0xFF else 0
  | _ => 0xFF

/-- The four result bytes under a selector word (R170). -/
def permWord (a b sel : Nat) : Word :=
  let x := a * 2 ^ 32 + b
  BitVec.ofNat 32 ((List.range 4).foldl (fun r i => r + permByte x (sel / 2 ^ (5 * i) % 32) * 2 ^ (8 * i)) 0)

/-- VPERMB with a selector literal (R170). -/
def execVpermbLit (f : VFields) (s : State) : Host.Outcome State Fault Refusal :=
  mapSlices 0x030 f (fun s v srcs _ l =>
    [permWord ((nthSrc srcs 0).word s v (litNat f) .b32 l) ((nthSrc srcs 1).word s v (litNat f) .b32 l)
      (litNat f)]) s

/-- VPERMB with a selector in each lane of vC (R170). -/
def execVpermbReg (f : VFields) (s : State) : Host.Outcome State Fault Refusal :=
  mapSlices 0x030 f (fun s v srcs _ l =>
    [permWord ((nthSrc srcs 0).word s v 0 .b32 l) ((nthSrc srcs 1).word s v 0 .b32 l)
      ((nthSrc srcs 2).word s v 0 .b32 l)]) s

/-- VSHUF (R171): a lane of the same pass. -/
def execVshuf (f : VFields) (s : State) : Host.Outcome State Fault Refusal :=
  mapSlices 0x031 f (fun s v srcs _ l =>
    laneSlice s v f (nthSrc srcs 0) (32 * (l / 32) + (nthSrc srcs 1).word s v (litNat f) (fmtF f) l % 32)) s

/-- VROT by a literal (R171). -/
def execVrotImm (f : VFields) (s : State) : Host.Outcome State Fault Refusal :=
  mapSlices 0x032 f (fun s v srcs _ l =>
    laneSlice s v f (nthSrc srcs 0) (((l : Int) + signed 32 (litNat f)) % (v.width : Int)).toNat) s

/-- VROT by a scalar register (R171). -/
def execVrotReg (f : VFields) (s : State) : Host.Outcome State Fault Refusal :=
  mapSlices 0x032 f (fun s v srcs _ l =>
    laneSlice s v f (nthSrc srcs 0)
      (((l : Int) + signed 64 (v.getS f.vb.toNat).toNat) % (v.width : Int)).toNat) s

/-- Random results: n draws per lane, each element from its draw (R72, R183, R184). -/
def randElems (op : Nat) (f : VFields) (g : Nat → Nat) (s : State) : Host.Outcome State Fault Refusal :=
  let F := fmtF f
  issueV op f s (runV (elemShape op f F.wide) [f.vd.toNat] fun s v _ lanes =>
    joinOut (lanes.map fun l =>
      packOut F f.vd.toNat l F.perLane ((List.range F.perLane).map fun j => (g (drawAt s v l j), 0))))

/-- VRAND (R183). -/
def execVrand (f : VFields) (s : State) : Host.Outcome State Fault Refusal :=
  randElems 0x058 f (fun m => m % 2 ^ (fmtF f).width) s

/-- The uniform value of VRANDF from a draw (R184). -/
def uniform (F : Fmt) (m : Nat) : Nat :=
  let n : Nat := match F with | .f32 => 24 | .f16 => 11 | .bf16 => 8 | _ => 53
  let top : Nat := if F == .f64 then 64 else 32
  (roundFloat F .rne false { neg := false, m := m / 2 ^ (top - n) % 2 ^ n, e := -(n : Int) }).1

/-- VRANDF (R184). -/
def execVrandf (f : VFields) (s : State) : Host.Outcome State Fault Refusal :=
  randElems 0x059 f (uniform (fmtF f)) s

/-- MKMASK (R144): the mask of the active lanes whose truth is the selected one, into s[VD] and on. -/
def execMkmask (f : VFields) (s : State) : Host.Outcome State Fault Refusal :=
  let want := match f.fn.toNat % 4 with | 0 => Truth.true_ | 1 => Truth.false_ | _ => Truth.unknown
  let sh := { elemShape 0x060 f false with weirs := false }
  issueV 0x060 f s (runV sh [] fun s v srcs lanes =>
    let hit := lanes.filter fun l => (nthSrc srcs 0).truth s v (litNat f) l == want
    { scalars := (List.range (max 1 (v.width / 64))).map fun i =>
        (f.vd.toNat + i, dw ((hit.filter fun l => l / 64 == i).foldl (fun m l => m + 2 ^ (l % 64)) 0)) })

end Sys2Proof.Machine
end

