-- ==== Sys2Proof/Machine/VecReduce.lean ====
section
/-! DEFINITION. Reductions and running sums (R67 to R69, R177 to R180). -/

namespace Sys2Proof.Machine

/-- A partial sum with the flags of its additions; none is empty (R68). -/
structure Partial where
  value : Option Nat := none
  flags : BitVec 8 := 0
  deriving DecidableEq, Repr

/-- Add of R68 in a float accumulation format. -/
def addPartial (F : Fmt) (m : Mode) (a b : Partial) : Partial :=
  let fl := a.flags ||| b.flags
  match a.value, b.value with
  | none, y => { value := y, flags := fl }
  | x, none => { value := x, flags := fl }
  | some x, some y =>
    let r := roundRes F m false (sumVals m.down [floatVal F x, floatVal F y])
    { value := some r.1, flags := fl ||| r.2 }

/-- One level of the pairwise tree. -/
def treeLevel (F : Fmt) (m : Mode) : List Partial → List Partial
  | a :: b :: r => addPartial F m a b :: treeLevel F m r
  | r => r

/-- The pairwise tree over so many levels. -/
def treeSum (F : Fmt) (m : Mode) : Nat → List Partial → Partial
  | 0, xs => xs.headD {}
  | n + 1, xs => treeSum F m n (treeLevel F m xs)

/-- The elements of a source in a lane. -/
def laneElems (s : State) (v : Team) (x : Src) (F : Fmt) (l : Nat) : List Nat :=
  (List.range F.perLane).map fun j => x.elem s v 0 F l j

/-- The leaves of a pass: kept elements, widened to the accumulation format (R67, R68). -/
def passLeaves (s : State) (v : Team) (x : Src) (F A : Fmt) (lanes : List Nat) (p : Nat) : List Partial :=
  (List.range 32).flatMap fun i =>
    let l := 32 * p + i
    if lanes.contains l then
      (laneElems s v x F l).map fun e => if F.isAbsent e then {} else { value := some (convert A F .rne false e).1 }
    else List.replicate F.perLane {}

/-- VRADD's float sum under a version of NBV (R68, R69). -/
def floatSum (s : State) (v : Team) (x : Src) (F A : Fmt) (m : Mode) (lanes : List Nat) : Partial :=
  let np := max 1 (v.width / 32)
  if v.nbv = 1 then
    ((List.range np).flatMap (passLeaves s v x F A lanes)).foldl (addPartial A m) {}
  else
    (List.range np).foldl (fun acc p =>
      addPartial A m acc (treeSum A m 8 (passLeaves s v x F A lanes p))) {}

/-- Kept elements of the lanes, in element order (R177). -/
def keptElems (s : State) (v : Team) (x : Src) (F : Fmt) (lanes : List Nat) : List Nat :=
  (lanes.flatMap fun l => laneElems s v x F l).filter fun e => !F.isAbsent e

/-- Where a reduction's result and count go (R178). -/
def reduceOut (f : VFields) (G : Fmt) (result count : Nat) (withResult : Bool) (fl : BitVec 8) (lanes : List Nat) :
    VOut :=
  let cnt := if withResult then f.vc else f.vd
  let scal := f.fn.toNat / 32 % 2 == 1
  let flags := match lanes with | l :: _ => [(l, [fl])] | [] => []
  if scal then
    { scalars := (if withResult then [(f.vd.toNat, dw (result % 2 ^ G.width))] else [])
        ++ (if cnt = 448 then [] else [(cnt.toNat, dw count)])
      flags }
  else
    { writes := lanes.flatMap fun l =>
        (if withResult then wordsAt f.vd.toNat l (packElems G (List.replicate G.perLane result)) else [])
      counts := if cnt = 448 then [] else lanes.map fun l => { reg := cnt.toNat, lane := l, val := BitVec.ofNat 32 count }
      flags }

/-- The shape of a reduction (R158). -/
def reduceShape (f : VFields) (pair : Bool) : VShape where
  sources := [f.va.toNat]
  reads := if f.va.toNat < 384 then (List.range (fmtF f).regs).map fun i => f.va.toNat + i else []
  perPass := if (fmtF f).width = 64 then 4 else 1
  tail := 6
  pair := pair

/-- The vector destinations of a reduction: the scalar form has none, and VC = 448 is none (R178). -/
def reduceDsts (f : VFields) : List Nat :=
  if f.fn.toNat / 32 % 2 = 1 then [] else f.vd.toNat :: optDst f.vc

/-- VRADD (R177): sum and kept count. -/
def execVradd (f : VFields) (s : State) : Host.Outcome State Fault Refusal :=
  let F := fmtF f
  let A := reduceFmt 0x050 F
  issueV 0x050 f s (runV (reduceShape f A.wide) (reduceDsts f) fun s v srcs lanes =>
    let x := nthSrc srcs 0
    let kept := keptElems s v x F lanes
    if F.isIN then
      let sum := wrap 64 (kept.foldl (fun (a : Int) e => a + F.int e) 0)
      let none_ := kept.isEmpty
      let r := if none_ then A.absent else sum
      reduceOut f A r kept.length true (if !none_ && A.isAbsent sum then fAM else 0) lanes
    else
      let p := floatSum s v x F A (modeOf (roundCode v f) 0) lanes
      reduceOut f A (p.value.getD A.absent) kept.length true p.flags lanes)

/-- The least or greatest kept element (R67): any NaN makes the canonical NaN; −0 lies below +0. -/
def extreme (F : Fmt) (least : Bool) (kept : List Nat) : Nat :=
  match kept with
  | [] => F.absent
  | e :: r =>
    if kept.any fun x => (valOf F x).isNan then F.nan
    else
      r.foldl (fun a b =>
        let lower := belowVal (valOf F b) (valOf F a)
        let higher := belowVal (valOf F a) (valOf F b)
        if (if least then lower else higher) then b else a) e

/-- VRMIN and VRMAX (R177). -/
def reduceExtreme (op : Nat) (least : Bool) (f : VFields) (s : State) : Host.Outcome State Fault Refusal :=
  let F := fmtF f
  issueV op f s (runV (reduceShape f F.wide) (reduceDsts f) fun s v srcs lanes =>
    let kept := keptElems s v (nthSrc srcs 0) F lanes
    reduceOut f F (extreme F least kept) kept.length true 0 lanes)

/-- VRMIN (R177). -/
def execVrmin (f : VFields) (s : State) : Host.Outcome State Fault Refusal := reduceExtreme 0x051 true f s

/-- VRMAX (R177). -/
def execVrmax (f : VFields) (s : State) : Host.Outcome State Fault Refusal := reduceExtreme 0x052 false f s

/-- VRCOUNT (R177): the kept count alone. -/
def execVrcount (f : VFields) (s : State) : Host.Outcome State Fault Refusal :=
  let F := fmtF f
  issueV 0x053 f s (runV (reduceShape f false) [f.vd.toNat] fun s v srcs lanes =>
    reduceOut f F 0 (keptElems s v (nthSrc srcs 0) F lanes).length false 0 lanes)

/-- The state of a running sum (R179): the accumulated pattern, or the number under an integer format; the count;
and the results so far. -/
structure Scan where
  acc : Option Nat := none
  cnt : Nat := 0
  outs : List (Nat × Nat × Nat × BitVec 8) := []
  deriving DecidableEq, Repr

/-- Add of a running sum: a rounded float sum, or an integer sum, wrapped or saturated (R57, R179). -/
def scanAdd (F : Fmt) (m : Mode) (sat : Bool) (acc : Option Nat) (x : Nat) : Nat × BitVec 8 :=
  match acc with
  | none => (x, 0)
  | some a =>
    if F.isFloat then roundRes F m false (sumVals m.down [floatVal F a, floatVal F x])
    else
      let z := F.int a + F.int x
      if sat then narrowInt F true z else (wrap F.width z, 0)

/-- One step of VSCAN at an element of a lane (R179). Only outputs are tested against the absent code: the last sum of
an exclusive scan raises no AM. Log entry 92. -/
def scanStep (F : Fmt) (m : Mode) (sat excl : Bool) (lane : Nat) (x : Nat) (st : Scan) : Scan :=
  if F.isAbsent x then { st with outs := (lane, F.absent, st.cnt, 0) :: st.outs }
  else
    let r := scanAdd F m sat st.acc x
    let out := if excl then st.acc.getD 0 else r.1
    let oc := if excl then st.cnt else st.cnt + 1
    -- an integer output that equals the absent code raises AM; a float chain carries it as it is
    let am := if F.isIN && F.isAbsent out then fAM else 0
    { acc := some r.1, cnt := st.cnt + 1, outs := (lane, out, oc, r.2 ||| am) :: st.outs }

/-- VSCAN (R179). -/
def execVscan (f : VFields) (s : State) : Host.Outcome State Fault Refusal :=
  let F := fmtF f
  issueV 0x054 f s (runV (reduceShape f F.wide) (f.vd.toNat :: optDst f.vc) fun s v srcs lanes =>
    let m := if F.isFloat then modeOf (roundCode v f) 0 else .rne
    let st := lanes.foldl (fun st l =>
      scanStep F m (modSat f) (f.fn.toNat % 2 == 1) l ((nthSrc srcs 0).elem s v 0 F l 0) st) ({} : Scan)
    joinOut (st.outs.reverse.map fun o =>
      { writes := wordsAt f.vd.toNat o.1 (packElems F [o.2.1])
        counts := if f.vc = 448 then [] else wordsAt f.vc.toNat o.1 [BitVec.ofNat 32 o.2.2.1]
        flags := [(o.1, [o.2.2.2])] }))

end Sys2Proof.Machine
end

