-- ==== Sys2Proof/Machine/Engines.lean ====
section
/-! DEFINITION. The baler (R251 to R254), the confluence engine (R256, R257), and the routing counters (R258 to R260). -/

namespace Sys2Proof.Machine

/-! ## Command blocks (R246) -/

/-- What stops an engine: a fault, or poison at a physical address. -/
abbrev EngStop := LaneFault ⊕ Nat

/-- A dword of a block. -/
def fieldD (d : List Dword) (n : Nat) : Nat := (d.getD n 0).toNat

/-- A command with a 64-byte block at s[VA] in G: the limit and the alignment of the block, then its fields. The block
is read once the team's earlier accesses have been performed; a block that cannot be translated becomes an entry
of the engine's origin, and the team parks at the instruction, which issues again. Log entry 40. -/
def blockInsn (op code : Nat) (f : VFields) (ok : List Dword → Bool) (start : State → Team → Nat → List Dword → State)
    (s : State) : Host.Outcome State Fault Refusal :=
  issueV op f s fun s t v =>
    let off := v.getS f.va.toNat
    let va := (segAddr t 0 off).toNat
    if t.acquireFault.isSome then s.park t .retry none
    else if !s.releaseReady t 3 then s.holdAt t (.release 3)
    else
      match (limitTrap t 0 64 [(0, off)]).or (alignTrap t 0 64 [(0, off)]) with
      | some x => s.takeTrap t x
      | none =>
        let s := s.engSeen t.origin 0 va 64
        match s.engReads t.origin 0 va 64 with
        | .poison pa => s.contain t 8 pa t.insnPc t.issueNo
        | .fault x =>
          if s.isSup t then s.supFault t x.cause x.addr
          else
            let (id, s1) := s.takeId
            (s1.engineFault t.origin id code x).park t .retry none
        | .ok bs =>
          let ds := (List.range 8).map fun i => dw (ofBytes ((bs.drop (8 * i)).take 8))
          if ok ds then start s t va ds else s.illegal t

/-! ## BALE and UNBALE at issue (R251) -/

/-- Unit bytes of a format (R251). -/
def unitBytes (F : Fmt) : Nat := if F == .e2m1 then 18 else F.width / 8

/-- The fields of a baler block are in order, its reserved bits zero (R251, R276). Log entry 53. -/
def baleOk (F : Fmt) (d : List Dword) : Bool :=
  let rows := bits (fieldD d 4) 63 32
  let cols := bits (fieldD d 4) 31 0
  let pitch := bits (fieldD d 5) 63 32
  let rowBytes := cols * F.width / 8
  let phase := bits (fieldD d 7) 31 30
  (phase == 0 || phase == 3) && ((List.range 4).all fun i => fieldD d i % 8 == 0) && fieldD d 6 % 8 == 0
    && decide (1 ≤ rows) && decide (1 ≤ cols) && decide (cols ≤ 65536) && !(F == .e2m1 && cols % 32 != 0)
    && decide (rowBytes ≤ pitch) && pitch % max 1 (F.width / 8) == 0 && bits (fieldD d 7) 2 0 != 7
    && bits (fieldD d 7) 29 28 == 0 && bits (fieldD d 7) 23 3 == 0

/-- A command is handed to the baler. -/
def baleInsn (op : Nat) (unbale : Bool) (f : VFields) (s : State) : Host.Outcome State Fault Refusal :=
  blockInsn op 5 f (baleOk (fmtF f)) (fun s t va ds =>
    let (id, s1) := s.takeId
    let k : Bale :=
      { id, origin := t.origin, unbale, fresh := f.fn.toNat % 2 == 1, fmt := f.fmt.toNat + 16 * mW64 f, block := va
        fields := ds }
    ({ s1 with bales := s1.bales ++ [k] }).retire t) s

/-- BALE (R251, R253). -/
def execBale (f : VFields) (s : State) : Host.Outcome State Fault Refusal := baleInsn 0x124 false f s
/-- UNBALE (R251, R254). -/
def execUnbale (f : VFields) (s : State) : Host.Outcome State Fault Refusal := baleInsn 0x125 true f s

/-! ## The baler at work (R252 to R254) -/

/-- Format of the units. -/
def Bale.format (k : Bale) : Fmt := fmtOf (k.fmt % 16) (k.fmt / 16)
/-- ROWS. -/
def Bale.rows (k : Bale) : Nat := bits (fieldD k.fields 4) 63 32
/-- COLS. -/
def Bale.cols (k : Bale) : Nat := bits (fieldD k.fields 4) 31 0
/-- Units of a row. -/
def Bale.units (k : Bale) : Nat := if k.format == .e2m1 then k.cols / 32 else k.cols
/-- Address of the commit word. -/
def Bale.commitAt (k : Bale) : Nat := fieldD k.fields 3 + 8 * k.rows
/-- Where a BALE's values begin, in units. -/
def Bale.start (k : Bale) : Nat := if k.fresh then 0 else bits k.old 47 0
/-- Bytes of a unit. -/
def Bale.unit (k : Bale) : Nat := unitBytes k.format
/-- Address of a value. -/
def Bale.valueAt (k : Bale) (i : Nat) : Nat := fieldD k.fields 1 + k.unit * i
/-- Bytes of a row's bitmap. -/
def Bale.mapBytes (k : Bale) : Nat := 8 * ceilDiv k.units 64

/-- The dense places of a unit: addresses and lengths. -/
def Bale.parts (k : Bale) (r u : Nat) : List (Nat × Nat) :=
  let dense := fieldD k.fields 0
  let pitch := bits (fieldD k.fields 5) 63 32
  if k.format == .e2m1 then
    [(dense + r * pitch + 16 * u, 16), (dense + k.rows * pitch + r * (k.cols / 16) + 2 * u, 2)]
  else [(dense + r * pitch + u * k.unit, k.unit)]

/-- A unit is absent (R251). -/
def Bale.absentUnit (k : Bale) (bs : List Byte) : Bool :=
  if k.format == .e2m1 then bs.getD 16 0 == 0xFF#8 else k.format.isAbsent (ofBytes bs)

/-- The bytes of an absent unit (R254). -/
def Bale.absentBytes (k : Bale) : List Byte :=
  if k.format == .e2m1 then List.replicate 16 0x88#8 ++ [0xFF#8, 0x80#8] else toBytes k.unit k.format.absent

/-- PHASE of a stage. -/
def Bale.phase (k : Bale) : Nat :=
  match k.stage with
  | 0 => 0 | 1 | 2 => 1 | 3 => 2 | 4 => if k.unbale then 1 else 2 | _ => 3

/-- Dword 7 of the block: PROGRESS, PHASE, STATUS and SCOPE. -/
def Bale.word (k : Bale) : Nat :=
  k.progress * 2 ^ 32 + k.phase * 2 ^ 30 + k.status * 2 ^ 24 + bits (fieldD k.fields 7) 2 0

/-- Read runs of bytes one after another. -/
def State.engParts (s : State) (o : Origin) : List (Nat × Nat) → EngRes (List Byte)
  | [] => .ok []
  | p :: r =>
    match s.engReads o 0 p.1 p.2 with
    | .ok bs => (match s.engParts o r with | .ok x => .ok (bs ++ x) | e => e)
    | e => e

/-- What reads of some runs leave in the caches. -/
def State.partsSeen (s : State) (o : Origin) (ps : List (Nat × Nat)) : State :=
  ps.foldl (fun s p => s.engSeen o 0 p.1 p.2) s

/-- Write runs of bytes one after another as parts of a command: the first fault ends it, with what came before
written. -/
def engPuts (o : Origin) (id : Nat) : List (Nat × List Byte) → State → State × Option EngStop
  | [], s => (s, none)
  | p :: r, s =>
    match s.engWrites o { writer := id } 0 p.1 p.2 with
    | (s1, none) => engPuts o id r s1
    | (s1, some f) => (s1, some (.inl f))

/-- The dense units of a row, or what stops the reading. -/
def State.denseRow (s : State) (k : Bale) (r : Nat) : List (List Byte) ⊕ EngStop :=
  (List.range k.units).foldr (fun u acc =>
    match s.engParts k.origin (k.parts r u) with
    | .ok bs => (match acc with | .inl x => .inl (bs :: x) | e => e)
    | .fault f => .inr (.inl f)
    | .poison pa => .inr (.inr pa)) (.inl [])

/-- A dword at a virtual address, or what stops the reading. -/
def State.engDword (s : State) (o : Origin) (va : Nat) : Nat ⊕ EngStop :=
  match s.engReads o 0 va 8 with
  | .ok bs => .inl (ofBytes bs)
  | .fault f => .inr (.inl f)
  | .poison pa => .inr (.inr pa)

/-- Bytes of a bitmap whose kept units are given. -/
def mapOf (n : Nat) (kept : List Bool) : List Byte :=
  toBytes n (kept.zipIdx.foldl (fun a x => if x.1 then a + 2 ^ x.2 else a) 0)

/-- What reading the dense units of a row leaves in the caches. -/
def State.rowSeen (s : State) (k : Bale) (r : Nat) : State := s.partsSeen k.origin ((List.range k.units).flatMap (k.parts r))

/-- One row of BALE's values phase (R253): it overflows at the unit that would stand at VCAP. -/
def baleValues (s : State) (k : Bale) : State × Bale × Option EngStop :=
  let s := s.rowSeen k k.progress
  match s.denseRow k k.progress with
  | .inr e => (s, k, some e)
  | .inl us =>
    let kept := us.filter fun bs => !k.absentUnit bs
    let vcap := bits (fieldD k.fields 5) 31 0
    let room := if k.start + k.kept ≤ vcap then vcap - (k.start + k.kept) else kept.length
    let puts := (kept.take room).zipIdx.map fun x => (k.valueAt (k.start + k.kept + x.2), x.1)
    match engPuts k.origin k.id puts s with
    | (s1, some e) => (s1, k, some e)
    | (s1, none) =>
      if room < kept.length then (s1, { k with status := 2, stage := 5 }, none)
      else (s1, { k with progress := k.progress + 1, kept := k.kept + kept.length }, none)

/-- One row of BALE's pointer phase (R253). -/
def balePointers (s : State) (k : Bale) : State × Bale × Option EngStop :=
  let s := s.rowSeen k k.progress
  match s.denseRow k k.progress with
  | .inr e => (s, k, some e)
  | .inl us =>
    let kept := us.map fun bs => !k.absentUnit bs
    let puts :=
      [(fieldD k.fields 2 + k.mapBytes * k.progress, mapOf k.mapBytes kept),
       (fieldD k.fields 3 + 8 * k.progress, toBytes 8 (k.start + k.kept))]
    match engPuts k.origin k.id puts s with
    | (s1, some e) => (s1, k, some e)
    | (s1, none) =>
      (s1, { k with progress := k.progress + 1, kept := k.kept + (kept.filter fun b => b).length }, none)

/-- The dense bytes of a row's units from a pointer on: kept units take the next values (R254). -/
def unbaleUnits (s : State) (k : Bale) (r map : Nat) : List Nat → Nat → List (Nat × List Byte) ⊕ EngStop
  | [], _ => .inl []
  | u :: us, p =>
    let one : (List Byte × Nat) ⊕ EngStop :=
      if bit map u then
        match s.engReads k.origin 0 (k.valueAt p) k.unit with
        | .ok bs => .inl (bs, p + 1)
        | .fault f => .inr (.inl f)
        | .poison pa => .inr (.inr pa)
      else .inl (k.absentBytes, p)
    match one with
    | .inr e => .inr e
    | .inl (bs, q) =>
      match unbaleUnits s k r map us q with
      | .inr e => .inr e
      | .inl rest =>
        .inl ((match k.parts r u with
          | [a] => [(a.1, bs)]
          | [a, b] => [(a.1, bs.take 16), (b.1, bs.drop 16)]
          | _ => []) ++ rest)

/-- One row of UNBALE (R254). -/
def unbaleRow (s : State) (k : Bale) : State × Bale × Option EngStop :=
  match s.engDword k.origin (fieldD k.fields 3 + 8 * k.progress) with
  | .inr e => (s, k, some e)
  | .inl p =>
    match s.engReads k.origin 0 (fieldD k.fields 2 + k.mapBytes * k.progress) k.mapBytes with
    | .fault f => (s, k, some (.inl f))
    | .poison pa => (s, k, some (.inr pa))
    | .ok map =>
      match unbaleUnits s k k.progress (ofBytes map) (List.range k.units) p with
      | .inr e => (s, k, some e)
      | .inl puts =>
        let values := (List.range ((List.range k.units).filter (bit (ofBytes map))).length).map fun i => (k.valueAt (p + i), k.unit)
        let s := s.partsSeen k.origin
          ([(fieldD k.fields 3 + 8 * k.progress, 8), (fieldD k.fields 2 + k.mapBytes * k.progress, k.mapBytes)] ++ values)
        match engPuts k.origin k.id puts s with
        | (s1, some e) => (s1, k, some e)
        | (s1, none) => (s1, { k with progress := k.progress + 1 }, none)

/-- INCOMPLETE. -/
def incomplete : Nat := 2 ^ 63

/-- Write the commit word, and go on. -/
def baleCommit (s : State) (k : Bale) (w : Nat) (next : Bale) : State × Bale × Option EngStop :=
  match engPuts k.origin k.id [(k.commitAt, toBytes 8 w)] s with
  | (s1, some e) => (s1, k, some e)
  | (s1, none) => (s1, next, none)

/-- SCOPE of the command's block. -/
def Bale.scope (k : Bale) : Nat := bits (fieldD k.fields 7) 2 0

/-- The command's acquire of its commit word, at its SCOPE, meets a line that other cores have tagged: it waits until they
have drained (R301, R308). -/
def State.baleWaits (s : State) (k : Bale) : Bool :=
  k.stage == 0 && s.mustPromote k.origin.core k.scope true (s.placeOf k.origin.port k.origin.ctx 0 k.commitAt)

/-- One piece of a baler command's work: a commit word, a row of a phase, or the completion word (R253, R254). -/
def baleWork (s : State) (k : Bale) : State × Bale × Option EngStop :=
  match k.stage with
  | 0 =>
    let s := s.engSeen k.origin 0 k.commitAt 8
    match s.engDword k.origin k.commitAt with
    | .inr e => (s, k, some e)
    | .inl old =>
      let k1 := { k with old, stage := 1, progress := 0, kept := 0, status := 0 }
      if k.unbale then (s, if bit old 63 then { k1 with status := 1, stage := 5 } else k1, none)
      else if k.fresh then baleCommit s k (old ||| incomplete) k1
      else (s, k1, none)
  | 1 =>
    if k.progress < k.rows then (if k.unbale then unbaleRow s k else baleValues s k)
    else if k.unbale then (s, { k with stage := 4 }, none)
    else
      let k1 := { k with total := k.kept }
      (s, if k.fresh then { k1 with stage := 3, kept := 0, progress := 0 } else { k1 with stage := 2 }, none)
  | 2 => baleCommit s k (k.old ||| incomplete) { k with stage := 3, kept := 0, progress := 0 }
  | 3 => if k.progress < k.rows then balePointers s k else (s, { k with stage := 4 }, none)
  | 4 =>
    if k.unbale then
      match s.engDword k.origin k.commitAt with
      | .inr e => (s, k, some e)
      | .inl w => (s, { k with stage := 5, status := if bits w 62 48 = bits k.old 62 48 then 0 else 3 }, none)
    else
      baleCommit s k ((bits k.old 62 48 + 1) % 2 ^ 15 * 2 ^ 48 + (k.start + k.total) % 2 ^ 48) { k with stage := 5 }
  | _ =>
    let done := fieldD k.fields 6
    if done = 0 then (s, { k with stage := 6 }, none)
    else
      match s.addOne k.origin done with
      | .ok s1 => (s1, { k with stage := 6 }, none)
      | .fault f => (s, k, some (.inl f))
      | .poison pa => (s, k, some (.inr pa))

/-- The baler goes on for so many pieces of work, and shows its progress in the block; each piece can be done over. -/
def runBale : Nat → State → Bale → State × Bale × Option EngStop
  | 0, s, k => (s, k, none)
  | n + 1, s, k =>
    if k.stage = 6 then (s, k, none)
    else
      match baleWork s k with
      | (s1, _, some e) => (s1, k, some e)
      | (s1, k1, none) =>
        if k1.stage = 6 || (k1.word == k.word && k.stage != 0) then runBale n s1 k1
        else
          match engPuts k.origin k.id [(k.block + 56, toBytes 8 k1.word)] s1 with
          | (s2, some e) => (s2, k, some e)
          | (s2, none) => runBale n s2 k1

/-- Change a baler command. -/
def State.modBale (s : State) (id : Nat) (f : Bale → Bale) : State :=
  { s with bales := updFirst (fun x => x.id == id) f s.bales }

/-- A baler command is finished. -/
def State.finishBale (s : State) (id : Nat) : State := { s with bales := s.bales.filter fun x => !(x.id == id) }

/-- The baler works on command arg.a, to its end, or for arg.b pieces of work when that is not 0. -/
def baleEvent (unbale : Bool) (s : State) : State :=
  match s.bales.find? fun k => k.id == s.arg.a with
  | none => s
  | some k =>
    if k.unbale != unbale || k.stopped || !s.engineReady k.origin k.id then s
    else if s.baleWaits k then s.modBale k.id fun x => { x with asked := true }
    else
      let (s, k) := if k.asked then (s.countPerf k.origin.core k.origin.ctx 10 1, { k with asked := false }) else (s, k)
      match runBale (if s.arg.b = 0 then 2 * k.rows + 8 else s.arg.b) s k with
      | (s1, k1, none) => if k1.stage = 6 then s1.finishBale k.id else s1.modBale k.id fun _ => k1
      | (s1, k1, some (.inl f)) => (s1.modBale k.id fun _ => { k1 with stopped := true }).engineFault k.origin k.id 5 f
      | (s1, _, some (.inr pa)) => (s1.finishBale k.id).containEngine k.origin pa

/-- BALER_COMPLETE (R253). -/
def execBalerComplete (s : State) : Host.Outcome State Fault Refusal := .next (baleEvent false s)

/-- UNBALE_COMPLETE (R254). -/
def execUnbaleComplete (s : State) : Host.Outcome State Fault Refusal := .next (baleEvent true s)

/-! ## COLL at issue (R256) -/

/-- NRANK. -/
def Coll.nrank (k : Coll) : Nat := bits (fieldD k.fields 0) 55 48
/-- RANK. -/
def Coll.rank (k : Coll) : Nat := bits (fieldD k.fields 0) 47 40
/-- WIRE, as a format. -/
def Coll.wire (k : Coll) : Fmt := fmtOf (bits (fieldD k.fields 0) 23 16) 0
/-- SRCF, as a format. -/
def Coll.srcf (k : Coll) : Fmt := fmtOf (bits (fieldD k.fields 0) 15 8) 0
/-- RED. -/
def Coll.red (k : Coll) : Nat := bits (fieldD k.fields 0) 7 4
/-- OP. -/
def Coll.op (k : Coll) : Nat := bits (fieldD k.fields 0) 3 0
/-- COUNT. -/
def Coll.count (k : Coll) : Nat := fieldD k.fields 1
/-- TAG. -/
def Coll.tag (k : Coll) : Nat := bits (fieldD k.fields 7) 31 0
/-- Bytes of an element. -/
def Coll.size (k : Coll) : Nat := k.srcf.width / 8
/-- The die of the engine. -/
def Coll.die (k : Coll) : Nat := k.origin.core / Config.coresPerDie

/-- The fields of a collective's block are in order, its reserved bits zero (R256, R276). -/
def collOk (d : List Dword) : Bool :=
  let x := fieldD d 0
  let nrank := bits x 55 48
  let srcf := bits x 15 8
  let wire := bits x 23 16
  let op := bits x 3 0
  let red := bits x 7 4
  decide (2 ≤ nrank) && decide (nrank ≤ 64) && decide (bits x 47 40 < nrank) && bits x 26 24 != 7
    && (srcf == 8 || srcf == 9 || srcf == 10 || srcf == 15 || srcf == 3 || srcf == 6)
    && (wire == srcf || (srcf == 8 && decide (9 ≤ wire) && decide (wire ≤ 12)))
    && decide (op ≤ 2) && decide (red ≤ 2) && !(op == 2 && red != 0) && !(op == 1 && fieldD d 1 % nrank != 0)
    && !(wire != srcf && fieldD d 4 == 0)
    && bits x 63 56 == 0 && bits x 39 27 == 0 && bits (fieldD d 7) 55 32 == 0

/-- COLL (R256): a command is handed to the confluence engine, and counts on FLAGB. -/
def execColl (f : VFields) (s : State) : Host.Outcome State Fault Refusal :=
  blockInsn 0x126 6 f collOk (fun s t va ds =>
    let (id, s1) := s.takeId
    let k : Coll := { id, origin := t.origin, block := va, fields := ds, flag := t.flagB }
    ({ s1 with colls := s1.colls ++ [k] }).retire (t.raiseCount t.flagB)) s

/-! ## The confluence engine at work (R257) -/

/-- Change a collective. -/
def State.modColl (s : State) (id : Nat) (f : Coll → Coll) : State :=
  { s with colls := updFirst (fun x => x.id == id) f s.colls }

/-- The local member that a collective has met at a rank (R256). -/
def State.member (s : State) (k : Coll) (j : Nat) : Option Coll :=
  match k.partners.find? fun x => x.1 == j with
  | some x => s.colls.find? fun p => p.id == x.2
  | none => none

/-- A local command that a collective can meet at a rank: the oldest of its context, tag, die and rank that has met no
other at this one's rank (R256). Log entry 54. -/
def State.candidate (s : State) (k : Coll) (j : Nat) : Option Coll :=
  let e := (k.group.getD []).getD j 0
  if e % 64 != s.moduleNumber.toNat then none
  else s.colls.find? fun p =>
    p.id != k.id && p.origin.ctx == k.origin.ctx && p.tag == k.tag && p.die == e / 256 % 4 && p.rank == j
      && p.partners.all fun x => x.1 != k.rank

/-- A collective meets the local members that it has not met: each of the two names the other. -/
def State.meetLocal (s : State) (k : Coll) : State × Coll :=
  (List.range k.nrank).foldl (fun x j =>
    let (s, k) := x
    if j = k.rank || (k.partners.any fun y => y.1 == j) then (s, k)
    else
      match s.candidate k j with
      | none => (s, k)
      | some p =>
        (s.modColl p.id fun q => { q with partners := q.partners ++ [(k.rank, k.id)] }, { k with partners := k.partners ++ [(j, p.id)] }))
    (s, k)

/-- Two members' blocks agree (R256); a group that a member has not read yet does not disagree. -/
def Coll.agrees (k p : Coll) : Bool :=
  k.nrank == p.nrank && k.op == p.op && k.red == p.red && k.srcf == p.srcf && k.wire == p.wire && k.count == p.count
    && (match k.group, p.group with | some g, some h => g == h | _, _ => true)

/-- What rank j contributes, once it is known: this member's own elements, what a local member has sent, or what the
peers' modules send (arg.peers). -/
def State.contribution (s : State) (k : Coll) (j : Nat) : Option (List Nat) :=
  let whole := fun (xs : List Nat) => if xs.length = k.count then some xs else none
  if j = k.rank then whole k.sent
  else
    match k.got.find? fun g => g.1 == j with
    | some g => some g.2
    | none =>
      match s.member k j with
      | some p => if p.group.isSome then whole p.sent else none
      | none =>
        if (k.group.getD []).getD j 0 % 64 = s.moduleNumber.toNat then none
        else
          match s.arg.peers.find? fun g => g.1 == j with
          | some g => whole (g.2.map BitVec.toNat)
          | none => none

/-- Every rank's contribution, if all are known. -/
def State.contributions (s : State) (k : Coll) : Option (List (List Nat)) :=
  (List.range k.nrank).foldr (fun j acc =>
    match s.contribution k j, acc with
    | some x, some r => some (x :: r)
    | _, _ => none) (some [])

/-- A rank sends element i (R257): its pattern on the wire, with the residual written; or what stops it. -/
def sendElem (s : State) (k : Coll) (i : Nat) : State × (Nat ⊕ EngStop) :=
  let o := k.origin
  let s := s.partsSeen o ((fieldD k.fields 2 + i * k.size, k.size) ::
    if k.wire == k.srcf then [] else [(fieldD k.fields 4 + 4 * i, 4)])
  match s.engReads o 0 (fieldD k.fields 2 + i * k.size) k.size with
  | .fault f => (s, .inr (.inl f))
  | .poison pa => (s, .inr (.inr pa))
  | .ok bs =>
    let x := ofBytes bs
    if k.wire == k.srcf then (s, .inl x)
    else if Fmt.f32.isAbsent x then (s, .inl k.wire.absent)
    else
      match s.engReads o 0 (fieldD k.fields 4 + 4 * i) 4 with
      | .fault f => (s, .inr (.inl f))
      | .poison pa => (s, .inr (.inr pa))
      | .ok rs =>
        let r := if Fmt.f32.isAbsent (ofBytes rs) then 0 else ofBytes rs
        let y := roundRes .f32 .rne false (sumVals false [floatVal .f32 x, floatVal .f32 r])
        let q := convert k.wire .f32 .rne false y.1
        let e := residual .f32 .rne false (valOf .f32 y.1) (valOf k.wire q.1)
        match engPuts o k.id [(fieldD k.fields 4 + 4 * i, toBytes 4 e)] s with
        | (s1, some st) => (s1, .inr st)
        | (s1, none) => (s1.attribute o.tid o.ctx o.lid (y.2 ||| q.2), .inl q.1)

/-- A rank sends the elements it has not sent yet. -/
def sendAll : Nat → State → Coll → State × Coll × Option EngStop
  | 0, s, k => (s, k, none)
  | n + 1, s, k =>
    match sendElem s k k.sent.length with
    | (s1, .inr e) => (s1, k, some e)
    | (s1, .inl q) => sendAll n s1 { k with sent := k.sent ++ [q] }

/-- The accumulation format of a collective (R257). -/
def Coll.accFmt (k : Coll) : Fmt :=
  if k.srcf == .f64 then .f64 else if k.srcf == .s32 then .s64 else if k.srcf == .z32 then .z64 else .f32

/-- Add of R68 over ranks, left to right, in the accumulation format: empty contributions drop out. -/
def chainSum (A : Fmt) (xs : List Nat) : Partial :=
  if A.isIN then
    match xs with
    | [] => {}
    | _ =>
      let r := wrap 64 (xs.foldl (fun (a : Int) e => a + A.int e) 0)
      { value := some r, flags := if A.isAbsent r then fAM else 0 }
  else xs.foldl (fun p x => addPartial A .rne p { value := some x }) {}

/-- One element of the result: its pattern in SRCF, the number of kept contributions, and the flags (R257). An all-gather
writes the rank's element as it was sent, unchanged where WIRE is SRCF. -/
def Coll.reduce (k : Coll) (ws : List Nat) : Nat × Nat × BitVec 8 :=
  if k.op = 2 && k.wire == k.srcf then
    let w := ws.headD k.srcf.absent
    (w, if k.wire.isAbsent w then 0 else 1, 0)
  else
  let A := k.accFmt
  let kept := (ws.filter fun w => !k.wire.isAbsent w).map fun w => (convert A k.wire .rne false w).1
  let p : Partial :=
    if kept.isEmpty then {}
    else if k.red = 0 then chainSum A kept
    else { value := some (extreme A (k.red == 2) kept) }
  match p.value with
  | none => (k.srcf.absent, 0, 0)
  | some x =>
    let r := convert k.srcf A .rne A.isIN x
    (r.1, kept.length, p.flags ||| r.2)

/-- Result elements of a member (R257). -/
def Coll.results (k : Coll) : Nat :=
  match k.op with | 0 => k.count | 1 => k.count / k.nrank | _ => k.nrank * k.count

/-- The contributions to result element q. -/
def Coll.inputs (k : Coll) (cs : List (List Nat)) (q : Nat) : List Nat :=
  match k.op with
  | 0 => cs.map fun c => c.getD q 0
  | 1 => cs.map fun c => c.getD (k.rank * (k.count / k.nrank) + q) 0
  | _ => [(cs.getD (q / k.count) []).getD (q % k.count) 0]

/-- Results written from where the engine stands; n are left. -/
def writeResults (cs : List (List Nat)) : Nat → State → Coll → State × Coll × Option EngStop
  | 0, s, k => (s, k, none)
  | n + 1, s, k =>
    let q := k.progress
    let r := k.reduce (k.inputs cs q)
    let kept := fieldD k.fields 5
    let puts := (fieldD k.fields 3 + q * k.size, toBytes k.size r.1)
      :: (if kept = 0 then [] else [(kept + 4 * q, toBytes 4 r.2.1)])
    match engPuts k.origin k.id puts s with
    | (s1, some e) => (s1, k, some e)
    | (s1, none) =>
      writeResults cs n (s1.attribute k.origin.tid k.origin.ctx k.origin.lid r.2.2) { k with progress := q + 1 }

/-- SCOPE of the command's block. -/
def Coll.scope (k : Coll) : Nat := bits (fieldD k.fields 0) 26 24

/-- The collective is finished: what this rank sent stays with the members that it has met and that have still to use it,
and its count ends; the issuer's seeing the flag clear is an acquire at the block's SCOPE (R301, R303). -/
def State.finishColl (s : State) (k : Coll) : State :=
  let keep := fun (p : Coll) =>
    if p.partners.contains (k.rank, k.id) && k.sent.length = k.count then { p with got := p.got ++ [(k.rank, k.sent)] } else p
  let rest := (s.colls.filter fun (x : Coll) => !(x.id == k.id)).map keep
  ({ s with colls := rest }.acquireAt k.origin.core k.scope).modTeam k.origin.tid fun t => t.lowerCount k.flag

/-- The engine is stopped in a collective. -/
def State.stopColl (s : State) (k : Coll) (e : EngStop) : State :=
  match e with
  | .inl f => (s.modColl k.id fun _ => { k with stopped := true }).engineFault k.origin k.id 6 f
  | .inr pa => (s.finishColl k).containEngine k.origin pa

/-- STATUS is written, and the collective is finished. -/
def State.endColl (s : State) (k : Coll) (status : Nat) : State :=
  let k1 := { k with status := some status }
  match engPuts k.origin k.id [(k.block + 56, toBytes 8 (status * 2 ^ 56 + k.tag))] s with
  | (s1, some e) => s1.stopColl k1 e
  | (s1, none) => s1.finishColl k1

/-- The group's dwords. -/
def State.readGroup (s : State) (k : Coll) : List Nat ⊕ EngStop :=
  match s.engReads k.origin 0 (fieldD k.fields 6) (8 * k.nrank) with
  | .ok bs => .inl ((List.range k.nrank).map fun i => ofBytes ((bs.drop (8 * i)).take 8))
  | .fault f => .inr (.inl f)
  | .poison pa => .inr (.inr pa)

/-- The members meet (R256, R257): a member whose block disagrees ends this one and itself with STATUS 1; when every
contribution is known the results are written. -/
def State.meetColl (s : State) (k : Coll) : State :=
  let (s, k) := s.meetLocal k
  let s := s.modColl k.id fun _ => k
  let odd := ((List.range k.nrank).filterMap fun j => s.member k j).filter fun p => !k.agrees p
  if s.arg.flag || !odd.isEmpty then
    (odd.foldl (fun s p => s.modColl p.id fun x => { x with status := some 1 }) s).endColl k 1
  else
    match s.contributions k with
    | none => s
    | some cs =>
      match writeResults cs (k.results - k.progress) s k with
      | (s1, k1, some e) => s1.stopColl k1 e
      | (s1, k1, none) => s1.endColl k1 0

/-- The confluence engine works on a collective. -/
def State.runColl (s : State) (k : Coll) : State :=
  match k.status with
  | some n => s.endColl k n
  | none =>
    let s := if k.group.isSome then s else s.engSeen k.origin 0 (fieldD k.fields 6) (8 * k.nrank)
    match (match k.group with | some g => .inl g | none => s.readGroup k : List Nat ⊕ EngStop) with
    | .inr e => s.stopColl k e
    | .inl g =>
      let k := { k with group := some g }
      if (distinct (g.map fun e => (e % 64, e / 256 % 4))).length < g.length then s.endColl k 2
      else
        match sendAll (k.count - k.sent.length) s k with
        | (s1, k1, some e) => s1.stopColl k1 e
        | (s1, k1, none) => s1.meetColl k1

/-- COLL_COMPLETE (R257): the confluence engine works on collective arg.a. arg.peers holds what the ranks of other
modules have sent; arg.flag says that one of them disagrees. -/
def execCollComplete (s : State) : Host.Outcome State Fault Refusal :=
  .next (match s.colls.find? fun k => k.id == s.arg.a with
  | none => s
  | some k => if k.stopped || !s.engineReady k.origin k.id then s else s.runColl k)

/-! ## Routing counters (R258 to R260) -/

/-- ROUTING_BANK_EXCHANGE (R258): core arg.a's bank goes to the save area of the context it belongs to, and the bank
of context arg.b, for which a team of it waits, comes in. Log entry 55. -/
def execRoutingBankExchange (s : State) : Host.Outcome State Fault Refusal :=
  .next (
    let core := s.arg.a
    let k := s.core core
    let due := s.teams.any fun t => coreOf t.tid == core && t.ctx == s.arg.b &&
      (match t.held with | some (.routing, _) => true | _ => false)
    match s.ctx? s.arg.b with
    | none => s
    | some c =>
      if !due || k.routingCtx == some s.arg.b then s
      else
        let put := fun (m : Sparse Word) (i : Nat) => spWrite 0 m (256 * core + i) (spRead 0 k.routing i)
        let s1 := match k.routingCtx with
          | some o => s.modCtx o fun x => { x with routing := (List.range 256).foldl put x.routing }
          | none => s
        let bank := (List.range 256).foldl (fun m i => spWrite 0 m i (spRead 0 c.routing (256 * core + i))) []
        s1.modCore core fun k => { k with routingCtx := some s.arg.b, routing := bank })

/-- Add one to a counter for each of some lanes' slices: the bank, and whether an addition met the largest value. -/
def countRouting (bank : Sparse Word) (xs : List Nat) : Sparse Word × Bool :=
  xs.foldl (fun b x =>
    let i := x % 256
    let w : Word := spRead 0 b.1 i
    if w = 0xFFFFFFFE#32 then (b.1, true) else (spWrite 0 b.1 i (w + 1), b.2)) (bank, false)

/-- RCNT (R259). -/
def execRcnt (f : VFields) (s : State) : Host.Outcome State Fault Refusal :=
  issueV 0x128 f s fun s t v =>
    let lanes := v.lanes
    let xs := (lanes.map fun l => (v.getV f.va.toNat l).toNat).filter fun x => x != 0xFFFFFFFF
    if lanes.isEmpty then s.retire t
    else if s.readsPoison t [f.va.toNat] lanes then s.containPool t
    else if xs.any fun x => decide (256 ≤ x) then s.illegal t
    else if (s.core (coreOf t.tid)).routingCtx != some t.ctx then s.holdAt t .routing
    else
      let r := countRouting (s.core (coreOf t.tid)).routing xs
      (s.modCore (coreOf t.tid) fun k => { k with routing := r.1 }).retire (if r.2 then t.raise fSAT else t)

/-- Write a snapshot's words from where it stands: what is written, and the fault that stopped it. -/
def State.writeSnap (s : State) (o : Origin) (va done : Nat) (values : List Word) : State × Nat × Option LaneFault :=
  let at_ := va + 4 * done
  match s.engWrites o {} 0 at_ ((values.drop done).flatMap fun w => toBytes 4 w.toNat) with
  | (s1, none) => (s1, values.length, none)
  | (s1, some f) => (s1, done + (f.addr - at_) / 4, some f)

/-- A snapshot's fault waits to become an entry of origin 7 that holds the snapshot (R260, R385). -/
def State.snapFault (s : State) (k : Snap) (f : LaneFault) : State :=
  s.modCtx k.origin.ctx fun c =>
    { c with held := c.held ++
        [{ store := false, originCode := 7, origin := k.origin, opId := k.id, lanes := [], cause := f.cause, page := f.page
           engAddr := f.addr, snapshot := k.values.zipIdx.map fun x => (x.2, x.1) }] }

/-- RSNAP (R260): counters are read and cleared as one step, and written as a release; a fault of a write leaves the
snapshot with an entry, and the instruction retires once RDONE has resolved it. The release side also waits for the
core's release buffer, whatever the scope. -/
def execRsnap (f : VFields) (s : State) : Host.Outcome State Fault Refusal :=
  issueV 0x129 f s fun s t v =>
    match s.snaps.find? fun k => k.origin.tid == t.tid with
    | some k =>
      if k.resolved then
        let rest := s.snaps.filter fun (x : Snap) => !(x.id == k.id)
        { s with snaps := rest }.retire t
      else s.park t .retry none
    | none =>
      let off := v.getS f.va.toNat + disp f
      let b := (v.getS f.vb.toNat).toNat
      let first := b % 256
      let n := bits b 15 8 + 1
      if t.acquireFault.isSome then s.park t .retry none
      else if 256 < first + n then s.illegal t
      else
        match (limitTrap t 0 (4 * n) [(0, off)]).or (alignTrap t 0 4 [(0, off)]) with
        | some x => s.takeTrap t x
        | none =>
          let core := coreOf t.tid
          if !s.releaseReady t 3 then s.holdAt t (.release 3)
          else if (s.core core).routingCtx != some t.ctx then s.holdAt t .routing
          else
            let values := (List.range n).map fun i => spRead (0 : Word) (s.core core).routing (first + i)
            let s1 := s.modCore core fun k =>
              { k with routing := (List.range n).foldl (fun m i => spErase m (first + i)) k.routing }
            let va := segAddr t 0 off
            match s1.writeSnap t.origin va.toNat 0 values with
            | (s2, _, none) => s2.retire (s2.catchUp t)
            | (s2, k, some x) =>
              if s.isSup t then s2.supFault t x.cause x.addr
              else
                let (id, s3) := s2.takeId
                let snap : Snap := { id, origin := t.origin, va, first, values, done := k }
                (({ s3 with snaps := s3.snaps ++ [snap] }).snapFault snap x).park (s3.catchUp t) .retry none

end Sys2Proof.Machine
end

