-- ==== Sys2Proof/Machine/Gleaner.lean ====
section
/-! DEFINITION. The gleaner: GATHER, SCATTER and GLCFG (R246 to R250), the queues they bind (R117, R321, R322), and its deliveries. -/

namespace Sys2Proof.Machine

/-! ## Binding (R321) -/

/-- A data queue can take the direction that a command gives it: it is unbound, or bound so already. -/
def Team.canBind (t : Team) (code : Nat) (gleaner : Bool) : Bool :=
  match t.queue? code with
  | none => decide (t.queues.length < 4)
  | some q => q.producerGleaner == gleaner

/-- Bind a queue register, or add to its binding. -/
def Team.bindQueue (t : Team) (code : Nat) (gleaner : Bool) : Team :=
  match t.queue? code with
  | some _ => t
  | none => { t with queues := t.queues ++ [{ code, producerGleaner := gleaner, entries := [] }] }

/-- A queue that can give a command its indices: bound to the gleaner as producer (R247). -/
def Team.indexable (t : Team) (code : Nat) : Bool :=
  match t.queue? code with
  | some q => q.producerGleaner
  | none => false

/-! ## Issue -/

/-- How a command must wait or be refused for its queues: ILLEGAL_OPERAND, a hold for its slot or for room, or
nothing (R321, R322). -/
def State.queueStop (s : State) (t : Team) (queue indexQueue : Option Nat) (gleaner : Bool) : Option SrcStop :=
  let bad := (match queue with | some q => !t.canBind q gleaner | none => false) ||
    (match indexQueue with | some q => !t.indexable q | none => false)
  if bad then some .illegal
  else if 16 ≤ t.gleans.length then some (.hold .gleanerSlot false)
  else
    match queue with
    | some q => if (t.queue? q).isNone && s.roomLacks t then some (.hold .gleanerRoom false) else none
    | none => none

/-- Hand a command to the gleaner: its queue is bound, it takes its place, and counts on FLAGB unless no lane is
active (R247). -/
def State.startGlean (s : State) (t : Team) (g : Glean) : State :=
  let (id, s) := s.takeId
  let g := { g with id, flag := if g.lanes.isEmpty then none else t.flagB }
  let t1 := match g.queue with | some q => t.bindQueue q (!g.scatter) | none => t
  s.retire { (t1.raiseCount g.flag) with gleans := t1.gleans ++ [g] }

/-- A queue register's code, where a field names one. -/
def queueCode (c : BitVec 9) : Option Nat := if 384 ≤ c.toNat ∧ c.toNat < 448 then some c.toNat else none

/-- The command of GATHER or SCATTER, over some lanes. -/
def gleanOf (scatter : Bool) (f : VFields) (t v : Team) (lanes : List Nat) : Glean :=
  let seg := mSeg f
  let all := List.range v.width
  let queueX := queueCode f.va
  { id := 0, origin := t.origin, width := t.width, scatter, queue := queueCode f.vd
    data := if scatter && (queueCode f.vd).isNone then all.map fun l => v.getV f.vd.toNat l else []
    seg, segBase := (t.seg seg).base, segLimit := (t.seg seg).limit, base := memBase v f + disp f, scale := mScale f
    index := if f.va = 448 then some (all.map fun _ => 0)
      else if queueX.isSome then none
      else some (all.map fun l => v.getV f.va.toNat l)
    indexQueue := queueX, lanes }

/-- The index slices of lanes, all ones where a lane has none. -/
def indexAt (ix : List Word) (l : Nat) : Word := ix.getD l 0xFFFFFFFF#32

/-- The offset of a lane of an entry (R186, R249). -/
def Glean.offset (g : Glean) (ix : List Word) (l : Nat) : Dword :=
  if g.affine then g.base + BitVec.ofInt 64 (g.next * g.stride) + dw (4 * l)
  else g.base + sext 32 (indexAt ix l).toNat * dw (2 ^ g.scale)

/-- Lanes that an entry acts for: those captured, less those whose index is all ones (R247). -/
def Glean.acting (g : Glean) (ix : List Word) : List Nat :=
  if g.affine then g.lanes else g.lanes.filter fun l => indexAt ix l != 0xFFFFFFFF#32

/-- GATHER and SCATTER at issue: weirs and limits on the lanes whose addresses are known (R246, R247, R358). -/
def gleanInsn (op : Nat) (scatter : Bool) (f : VFields) (s : State) : Host.Outcome State Fault Refusal :=
  issueV op f s fun s t v =>
    let regs := (if f.va.toNat < 384 then [f.va.toNat] else []) ++ (if f.vd.toNat < 384 then [f.vd.toNat] else [])
    if t.acquireFault.isSome then s.park t .retry none
    else if scatter && (queueCode f.vd).isNone && v.lanes.isEmpty then
      match s.queueStop t none (queueCode f.va) false with
      | some .illegal => s.illegal t
      | _ => s.retire t
    else if s.readsPoison t regs v.lanes then s.containPool t
    else
      match s.queueStop t (queueCode f.vd) (queueCode f.va) (!scatter) with
      | some e => s.operandStop t e
      | none =>
        let known := fun (ls : List Nat) =>
          let g := gleanOf scatter f t v ls
          match g.index with
          | some ix => (g.acting ix).map fun l => (l, g.offset ix l)
          | none => []
        let at_ := fun (p : Nat × Dword) => (segAddr t (mSeg f) p.2).toNat
        let events := fun (ls : List Nat) =>
          ({ addrs := (known ls).map fun p => { lane := p.1, value := at_ p, addr := at_ p }
             stored := if scatter && (queueCode f.vd).isNone then
                 (known ls).map fun p => { lane := p.1, value := (v.getV f.vd.toNat p.1).toNat, bits := 32, addr := at_ p }
               else [] } : Events)
        underWeirs s t (if scatter then [0, 1] else [0]) v.lanes events fun ls s t =>
          match memTrap s t (mSeg f) 4 false scatter (known ls) with
          | some x => s.takeTrap t x
          | none => s.startGlean t (gleanOf scatter f t v ls)

/-- GATHER (R247). -/
def execGather (f : VFields) (s : State) : Host.Outcome State Fault Refusal := gleanInsn 0x120 false f s
/-- SCATTER (R248). -/
def execScatter (f : VFields) (s : State) : Host.Outcome State Fault Refusal := gleanInsn 0x121 true f s

/-- The first entry of a lane of an affine stream that passes the limit, with its offset; the offsets are whole
numbers, so that one below zero passes too (R114, R249). -/
def affineBad (limit : Nat) (base stride : Int) (n l : Nat) : Option Dword :=
  let o := base + 4 * l
  let off := fun (e : Int) => BitVec.ofInt 64 (o + e * stride)
  let last := o + (n - 1 : Nat) * stride
  if o < 0 || (limit : Int) < o + 4 then some (off 0)
  else if (limit : Int) < last + 4 then some (off (((limit : Int) - 4 - o) / stride + 1))
  else if last < 0 then some (off (o / (-stride) + 1))
  else none

/-- GLCFG (R249): a stream of n entries in one command. -/
def execGlcfg (f : VFields) (s : State) : Host.Outcome State Fault Refusal :=
  issueV 0x122 f s fun s t v =>
    let seg := f.fn.toNat % 8
    let scatter := decide (8 ≤ f.fn.toNat % 16)
    let vb := (v.getS f.vb.toNat).toNat
    let n := vb % 2 ^ 32
    let stride := signed 32 (vb / 2 ^ 32)
    let base := v.getS f.va.toNat + disp f
    let affine := f.vc == 448
    let g : Glean :=
      { id := 0, origin := t.origin, width := t.width, scatter, queue := some f.vd.toNat, seg
        segBase := (t.seg seg).base, segLimit := (t.seg seg).limit, base, scale := 2, indexQueue := queueCode f.vc
        affine, stride, entries := n, lanes := v.lanes }
    let bad := if affine then
        v.lanes.filterMap fun l =>
          (affineBad (t.seg seg).limit.toNat (base.toInt : Int) stride n l).map fun o => (l, o)
      else []
    if t.acquireFault.isSome then s.park t .retry none
    else if n = 0 then s.illegal t
    else
      match bad with
      | p :: r =>
        s.takeTrap t (if seg = 1 then { cause := cScratch, detail := 1, info := p.2, mask := maskOf ((p :: r).map Prod.fst) }
          else { cause := cSegLimit, detail := seg, info := p.2 })
      | [] =>
        match s.queueStop t (some f.vd.toNat) (queueCode f.vc) (!scatter) with
        | some e => s.operandStop t e
        | none => s.startGlean t g

/-! ## The gleaner at work (R247 to R250) -/

/-- The oldest command of a team, or of a team that has exited. -/
def State.gleanHead (s : State) (h : Handle) : Option Glean :=
  match s.team? h with
  | some t => t.gleans.head?
  | none => s.orphans.find? fun g => g.origin.tid == h

/-- Change a command. -/
def State.modGlean (s : State) (h : Handle) (id : Nat) (f : Glean → Glean) : State :=
  let s1 := s.modTeam h fun t => { t with gleans := updFirst (fun g => g.id == id) f t.gleans }
  { s1 with orphans := updFirst (fun g => g.id == id) f s1.orphans }

/-- A command is finished: its count ends, and a queue that nothing needs any more is unbound (R322). -/
def State.finishGlean (s : State) (g : Glean) : State :=
  let s1 := s.modTeam g.origin.tid fun t =>
    ({ t with gleans := t.gleans.filter fun x => !(x.id == g.id) }.lowerCount g.flag).unbindIdle
  { s1 with orphans := s1.orphans.filter fun x => !(x.id == g.id) }.freePlot g.origin.plot

/-- The oldest entry of a queue of a team, and the team without it. -/
def Team.popQueue (t : Team) (code : Nat) : Option (List Word × Team) :=
  match t.queue? code with
  | some { entries := e :: rest, .. } =>
    some (e, { t with queues := updFirst (fun x => x.code == code) (fun x => { x with entries := rest }) t.queues })
  | _ => none

/-- Pop a command's queue, if it has one: its slices by lane; nothing where the queue is empty. -/
def State.popFor (s : State) (h : Handle) (q : Option Nat) (dflt : List Word) : Option (List Word × State) :=
  match q with
  | none => some (dflt, s)
  | some c =>
    match s.team? h with
    | none => none
    | some t =>
      match t.popQueue c with
      | some (e, u) => some (e, s.setTeam u)
      | none => none

/-- The command's next entry begins: index and data entries are popped (R247 to R249). -/
def State.beginEntry (s : State) (g : Glean) : Option (State × Glean × GleanEntry) :=
  match s.popFor g.origin.tid g.indexQueue (g.index.getD []) with
  | none => none
  | some (ix, s1) =>
    match s1.popFor g.origin.tid (if g.scatter then g.queue else none) g.data with
    | none => none
    | some (data, s2) =>
      let ls := g.acting ix
      let e : GleanEntry :=
        { words := if g.scatter then ls.map fun l => (l, data.getD l 0) else []
          todo := ls.map fun l => (l, g.offset ix l) }
      let g1 := { g with pending := some e }
      some (s2.modGlean g.origin.tid g.id fun _ => g1, g1, e)

/-- A lane's slice in an entry: all ones where none was fetched or put there. -/
def slice (ws : List (Nat × Word)) (l : Nat) : Word :=
  match ws.find? fun w => w.1 == l with
  | some w => w.2
  | none => 0xFFFFFFFF#32

/-- Put a lane's slice in its place. -/
def putSlice (ws : List (Nat × Word)) (l : Nat) (x : Word) : List (Nat × Word) :=
  (ws.filter fun w => !(w.1 == l)) ++ [(l, x)]

/-- What working through an entry leaves: state, slices, lanes that faulted with the first fault, or poison. -/
structure GleanOut where
  state : State
  words : List (Nat × Word)
  left : List (Nat × Dword) := []
  fault : Option LaneFault := none
  limit : Bool := false
  poison : Option Nat := none

/-- One lane's access of an entry: 4 bytes (R247, R248). -/
def gleanLane (g : Glean) (o : GleanOut) (p : Nat × Dword) : GleanOut :=
  let addr := (g.segBase + p.2).toNat
  if o.poison.isSome then o
  else if g.segLimit.toNat < p.2.toNat + 4 then
    { o with left := o.left ++ [p], limit := true
             fault := o.fault.or (some { cause := 0x10, page := addr / 4096 * 4096, pageSize := 4096, addr }) }
  else if g.scatter then
    match o.state.engWrites g.origin { writer := g.id, through := true } g.seg addr (toBytes 4 (slice o.words p.1).toNat) with
    | (s, none) => { o with state := s }
    | (s, some f) => { o with state := s, left := o.left ++ [p], fault := o.fault.or (some f) }
  else
    let o := { o with state := o.state.engSeen g.origin g.seg addr 4 }
    match o.state.engReads g.origin g.seg addr 4 with
    | .ok bs => { o with words := putSlice o.words p.1 (BitVec.ofNat 32 (ofBytes bs)) }
    | .fault f => { o with left := o.left ++ [p], fault := o.fault.or (some f) }
    | .poison pa => { o with poison := some pa }

/-- A data queue of the command has room for an entry, or no team is left to read it. -/
def State.roomToPush (s : State) (g : Glean) : Bool :=
  match s.team? g.origin.tid, g.queue with
  | some t, some q => (match t.queue? q with | some x => decide (x.entries.length < 2) | none => false)
  | _, _ => true

/-- An entry is whole: a gather pushes it, and the command goes on or is finished (R247, R249). -/
def State.completeEntry (s : State) (g : Glean) (e : GleanEntry) : State :=
  let s1 := match g.scatter, g.queue with
    | false, some q => s.modTeam g.origin.tid fun t => t.pushQueue (q, (List.range g.width).map (slice e.words))
    | _, _ => s
  if g.ends || decide (g.entries ≤ g.next + 1) then s1.finishGlean g
  else s1.modGlean g.origin.tid g.id fun x => { x with next := x.next + 1, pending := none }

/-- Work on the pending entry of a command. A first fault stops the command (R250). -/
def State.workEntry (s : State) (g : Glean) (e : GleanEntry) : State :=
  let o := e.todo.foldl (gleanLane g) { state := s, words := e.words }
  match o.poison with
  | some pa => (o.state.finishGlean g).containEngine g.origin pa
  | none =>
    let e1 : GleanEntry := { words := o.words, todo := o.left }
    match o.fault with
    | some f =>
      (o.state.modGlean g.origin.tid g.id fun x => { x with pending := some e1, stopped := true, ends := x.ends || o.limit }).engineFault
        g.origin g.id 3 f
    | none =>
      if g.scatter || o.state.roomToPush g then o.state.completeEntry g e1
      else o.state.modGlean g.origin.tid g.id fun x => { x with pending := some e1 }

/-- The oldest command of team arg.tid goes on by one entry, if it is of the kind asked for and may act. Log entry 46. -/
def gleanStep (scatter : Bool) (s : State) : State :=
  match s.gleanHead s.arg.tid with
  | none => s
  | some g =>
    if g.scatter != scatter || g.stopped || !s.engineReady g.origin g.id then s
    else
      match g.pending with
      | some e => s.workEntry g e
      | none =>
        match s.beginEntry g with
        | none => s
        | some (s1, g1, e) => s1.workEntry g1 e

/-- GLEANER_DELIVERY (R247): an entry of the oldest command of team arg.tid is fetched and pushed. -/
def execGleanerDelivery (s : State) : Host.Outcome State Fault Refusal := .next (gleanStep false s)

/-- GLEANER_SCATTER_WRITE (R248): an entry of the oldest command of team arg.tid is written. -/
def execGleanerScatterWrite (s : State) : Host.Outcome State Fault Refusal := .next (gleanStep true s)

end Sys2Proof.Machine
end

