-- ==== Sys2Proof/Machine/Launch.lean ====
section
/-! DEFINITION. Launches: the resources of cores (R25, R278, R326 to R328), validation (R264, R265), LAUNCH and LAUNCHD (R265, R266), the order of service (R320), placement (R106, R328) and gangs (R329, R330). -/

namespace Sys2Proof.Machine

/-! ## What a header asks for (R264) -/

/-- Lanes of a team. -/
def hLanes (h : List Dword) : Nat := 2 ^ hLogw h

/-- Plots of a grid. -/
def hPlots (h : List Dword) : Nat := hExt h 2 * hExt h 3 * hExt h 4 * hExt h 5

/-- Crews of a plot. -/
def hCrews (h : List Dword) : Nat := if hCrew h = 0 then 0 else hTeams h / hCrew h

/-- Granules of a plot. -/
def hGranules (h : List Dword) : Nat :=
  hTeams h * ceilDiv (hRegs h * hLanes h * 4) Config.granuleBytes + hScratch h + hAcc h * hCrews h

/-- Coordinates of a plot: coordinate 2 varies fastest (R328). -/
def plotCoords (h : List Dword) (i : Nat) : List Nat :=
  [i % hExt h 2, i / hExt h 2 % hExt h 3, i / (hExt h 2 * hExt h 3) % hExt h 4, i / (hExt h 2 * hExt h 3 * hExt h 4)]

/-- Cores that a plot on a core takes: both of the twin under `.twin` (R20). Log entry 56. -/
def hCores (h : List Dword) (core : Nat) : List Nat := if hTwin h then [core, core + 1] else [core]

/-! ## Resources of a core -/

/-- The header of a launch. -/
def State.headerOf (s : State) (ctx lid : Nat) : List Dword :=
  match s.launch? ctx lid with | some l => l.header | none => []

/-- Cores that a plot takes. -/
def State.plotCores (s : State) (p : Plot) : List Nat := hCores (s.headerOf p.ctx p.lid) p.core

/-- Places that a gang's reservation in progress holds (R329): core, slots and granules of each plot. -/
def State.reserved (s : State) : List (Nat × List (Nat × Nat) × Nat) :=
  match s.gang with
  | none => []
  | some g =>
    match s.launch? g.1 g.2 with
    | none => []
    | some l =>
      match l.phase with
      | .reserving ps =>
        ps.flatMap fun (p : Nat × List (Nat × Nat)) => (hCores l.header p.1).map fun c => (c, p.2, hGranules l.header)
      | _ => []

/-- Granules in use on a core: a saved plot has none (R279). -/
def State.usedGranules (s : State) (core : Nat) : Nat :=
  let plots := s.plots.filter fun p => !p.saved && (s.plotCores p).contains core
  let held := s.reserved.filter fun r => r.1 == core
  (plots.map Plot.granules).sum + (held.map fun r => r.2.2).sum

/-- The team's slot is taken on a core: its own, and its twin's under `.twin`. -/
def State.slotOn (s : State) (t : Team) (core : Nat) : Bool := (hCores (s.header t) (coreOf t.tid)).contains core

/-- Slots in use on a core: those of teams, saved teams included (R128), of a reservation, and of supervisors (R33). -/
def State.usedSlots (s : State) (core : Nat) : List (Nat × Nat) :=
  let teams := (s.teams.filter fun t => s.slotOn t core).map fun t => (partOf t.tid, slotOf t.tid)
  let held := (s.reserved.filter fun r => r.1 == core).flatMap fun r => r.2.1
  let sups := (s.ctxs.filter fun c => c.live && coreOf c.supervisor == core).map fun c =>
    (partOf c.supervisor, slotOf c.supervisor)
  distinct (teams ++ held ++ sups)

/-- The partition with the most free slots, ties to the lower number, and in it the lowest free slot (R25). -/
def nextSlot (used : List (Nat × Nat)) : Option (Nat × Nat) :=
  let taken := fun (p : Nat) => (used.filter fun x => x.1 == p).length
  match minBy taken (List.range Config.partitions) with
  | none => none
  | some p => ((List.range Config.slots).find? fun k => !used.contains (p, k)).map fun k => (p, k)

/-- Slots for so many teams, in order of the team index (R25); none if they do not all obtain one. -/
def takeSlots : Nat → List (Nat × Nat) → Option (List (Nat × Nat))
  | 0, _ => some []
  | n + 1, used =>
    match nextSlot used with
    | none => none
    | some x => (takeSlots n (x :: used)).map fun r => x :: r

/-- Slots in use on any of some cores. -/
def State.usedOn (s : State) (cores : List Nat) : List (Nat × Nat) := distinct (cores.flatMap s.usedSlots)

/-- The lowest run of free scratchpad slots of the pool offset space that is free on every core a plot takes (R278). Log entry 81. -/
def State.scratchRun (s : State) (cores : List Nat) (n : Nat) : Nat :=
  let taken := (s.plots.filter fun p => (s.plotCores p).any fun c => cores.contains c).map fun p =>
    (p.scratchSlot, p.scratchGranules)
  ((List.range 4096).find? fun k => taken.all fun r => decide (k + n ≤ r.1) || decide (r.1 + r.2 ≤ k)).getD 0

/-! ## Where a plot may go (R326 to R328) -/

/-- The core's matrix engine works (R326, R404). -/
def State.engineWorks (s : State) (core : Nat) : Bool := s.feature 0 && !(s.core core).engineFailed

/-- A core of the context's set that takes new plots (R326, R395). -/
def State.assigned (s : State) (ctx core : Nat) : Bool :=
  (spRead (0 : BitVec 192) s.coresets ctx).getLsbD core && !(s.core core).noPlots

/-- The core is the leader of a twin whose two engines work (R20, R326, R404). -/
def State.twinWorks (s : State) (core : Nat) : Bool :=
  s.feature 3 && core % 2 == 0 && s.engineWorks core && s.engineWorks (core + 1)

/-- Conditions 1 to 3 of R326: a core that could hold a plot of a launch if it were empty. -/
def State.couldHold (s : State) (ctx : Nat) (h : List Dword) (core : Nat) : Bool :=
  ((hCores h core).all fun c => s.assigned ctx c) && (hNomatrix h || s.engineWorks core) && (!hTwin h || s.twinWorks core)

/-- Conditions 4 and 5 of R326, with granules given back by a pre-emption. -/
def State.fitsWith (s : State) (h : List Dword) (core : Nat) (back : Nat → Nat) : Bool :=
  let cores := hCores h core
  (takeSlots (hTeams h) (s.usedOn cores)).isSome &&
    cores.all fun c => decide (s.usedGranules c - back c + hGranules h ≤ Config.granules)

/-- A plot of a launch meets R326 on a core. -/
def State.fits (s : State) (ctx : Nat) (h : List Dword) (core : Nat) : Bool :=
  s.couldHold ctx h core && s.fitsWith h core fun _ => 0

/-- The key of R328, least first: hot, temperature band, droops, granules in use, core. -/
def State.placeKey (s : State) (h : List Dword) (core : Nat) : Nat :=
  let k := s.core core
  let hot := (hCores h core).any fun c => (s.core c).hot
  let band := (k.temp / 4 + 2 ^ 16).toNat
  ((((if hot then 1 else 0) * 2 ^ 32 + band) * 2 ^ 32 + k.lastDroops) * 2 ^ 32 + s.usedGranules core) * 2 ^ 8 + core

/-- The core that R328 chooses among some. -/
def State.bestCore (s : State) (h : List Dword) (cores : List Nat) : Option Nat := minBy (s.placeKey h) cores

/-! ## Validation (R29, R264, R265) -/

/-- ⌈log₂⌉ of a positive number. -/
def clog2 (n : Nat) : Nat := if n ≤ 1 then 0 else Nat.log2 (n - 1) + 1

/-- The extents are in order (R29, R264). -/
def extentsOk (h : List Dword) : Bool :=
  [2, 3, 4, 5].all fun k => decide (1 ≤ hExt h k) && decide (hExt h k ≤ 2 ^ hW h k)

/-- LOGW, TEAMS, CREW and the widths are in order (R29, R264). -/
def shapeOk (h : List Dword) : Bool :=
  decide (5 ≤ hLogw h) && decide (hLogw h ≤ 10) && decide (1 ≤ hTeams h) && decide (hTeams h ≤ 32)
    && (hCrew h == 0 || ((hCrew h == 2 || hCrew h == 4 || hCrew h == 8) && hTeams h % hCrew h == 0))
    && ((List.range 6).all fun k => decide (hW h k ≤ 32)) && decide (clog2 (hTeams h) ≤ hW h 1)
    && decide (((List.range 6).map (hW h)).sum ≤ 64)

/-- Every core that a context could use for a launch. -/
def State.holders (s : State) (ctx : Nat) (h : List Dword) : List Nat :=
  (List.range Config.cores).filter fun c => s.couldHold ctx h c

/-- Plots that the context's supervisor leaves room for on an otherwise empty core (R27). -/
def State.roomEmpty (s : State) (ctx : Nat) (h : List Dword) (core : Nat) : Nat :=
  let sup := match s.ctx? ctx with | some c => c.supervisor | none => 0
  let on := fun (c : Nat) => coreOf sup == c
  let g := match s.team? sup with
    | some t => (match s.plot? t.plot with | some p => p.granules | none => 0)
    | none => 0
  let one := fun (c : Nat) =>
    min ((Config.granules - (if on c then g else 0)) / max 1 (hGranules h))
      ((Config.partitions * Config.slots - (if on c then 1 else 0)) / max 1 (hTeams h))
  (hCores h core).foldl (fun n c => min n (one c)) (one core)

/-- A gang could be resident at once if no other launch ran (R27). -/
def State.gangRoom (s : State) (ctx : Nat) (h : List Dword) : Bool :=
  decide (hPlots h ≤ ((s.holders ctx h).map (s.roomEmpty ctx h)).sum)

/-- Rejections that R265 lists, lowest code first; grid says that the extents are to be checked now. A nonzero reserved
field of a header (R264), as of a dependence block (R266), is ignored: R9 says that it must be zero and states no
consequence, and R265 lists none; that is the model's choice. Log entry 89. -/
def State.rejections (s : State) (ctx : Nat) (h : List Dword) (grid : Bool) : List (Nat × Bool) :=
  let misaligned := fun (d n : Nat) => hdrD h d % n != 0
  let past := fun (d n : Nat) => decide (2 ^ 56 < hdrD h d + n)
  let heir := fun (x : Nat) => x == 1 || x == 2 || x == 4
  [(2, bits (hdrD h 0) 63 56 != 2 || !(hNbv h == 2 || (hNbv h == 1 && s.feature 8))),
   (3, !shapeOk h || (grid && !extentsOk h)),
   (4, decide (Config.granules < hGranules h) || hRegs h == 0 || decide (384 < hRegs h) || decide (16 < hAcc h)
      || (hCrew h == 0 && hAcc h != 0)),
   (5, grid && hGang h && !s.gangRoom ctx h),
   (6, hTwin h && (hCrew h == 0 || !((List.range Config.cores).any fun c =>
      ((hCores h c).all fun k => s.assigned ctx k) && s.twinWorks c))),
   (8, !heir (hHlock h) || !heir (hHprom h) || !(heir (hHpermit h) || hHpermit h == 3) || hEstate h == 0
      || decide (256 < hEstate h)),
   (9, misaligned 7 4 || misaligned 8 8 || misaligned 10 8 || misaligned 12 8 || misaligned 13 8 || misaligned 14 8
      || past 8 (hKsize h) || past 10 (hLsize h) || past 12 (hWsize h)),
   (10, (s.holders ctx h).isEmpty)]

/-- The rejection code of a header, if any: the lowest that applies (R265). -/
def State.rejects (s : State) (ctx : Nat) (h : List Dword) (grid : Bool) : Option Nat :=
  ((s.rejections ctx h grid).find? fun r => r.2).map Prod.fst

/-- What s[D] reports for a rejection. -/
def rejectWord (code : Nat) : Dword := dw (0xFFFFFFFF00000000 + code)

/-- Launches that stand in a launch queue (R319). -/
def State.queued (s : State) (ctx q : Nat) : List Launch :=
  s.launches.filter fun l => l.ctx == ctx && l.queue == q &&
    (match l.phase with | .waitingFence _ _ | .queued => true | _ => false)

/-- Dwords at a virtual address in a team's context, aligned; none where they cannot be read. -/
def State.readDwords (s : State) (t : Team) (va align n : Nat) : Option (List Dword) :=
  if va % align ≠ 0 then none
  else
    match s.vRead (portOf t.tid) t.ctx va (8 * n) with
    | .inl bs => some ((List.range n).map fun i => dw (ofBytes ((bs.drop (8 * i)).take 8)))
    | .inr _ => none

/-- Enqueue a validated launch: its identifier, and the state (R121, R265). -/
def State.enqueue (s : State) (c : Context) (h : List Dword) (q : Nat) (phase : LaunchPhase) : Nat × State :=
  let l : Launch :=
    { ctx := c.id, lid := c.nextLid, header := h, queue := q, seq := c.nextSeq, phase, since := (s.core 0).cyc }
  (c.nextLid,
    ({ s with launches := s.launches ++ [l] }).modCtx c.id fun x =>
      { x with nextLid := if x.nextLid = 2 ^ 32 - 1 then 1 else x.nextLid + 1, nextSeq := x.nextSeq + 1 })

/-- A launch of a team's context, its header read: s[D] gets the identifier or the rejection (R265). -/
def State.launch (s : State) (t : Team) (sd : BitVec 7) (h : Option (List Dword)) (q : Nat) (grid : Bool)
    (phase : LaunchPhase) : State :=
  match h, s.ctx? t.ctx with
  | some hd, some c =>
    let code := match s.rejects t.ctx hd grid with
      | some 10 => if (match phase with | .waitingFence _ _ => true | _ => false) then none else some 10
      | x => x
    match code with
    | some k => s.retireS t [(sd, rejectWord k)]
    | none =>
      if 32 ≤ (s.queued t.ctx q).length then s.retireS t [(sd, rejectWord 7)]
      else
        let (lid, s1) := s.enqueue c hd q phase
        s1.retireS t [(sd, dw lid)]
  | _, _ => s.retireS t [(sd, rejectWord 1)]

/-- LAUNCH (R265): a release at `.dev`, then the header is read and validated. -/
def execLaunch (f : VFields) (s : State) : Host.Outcome State Fault Refusal :=
  issueV 0x280 f s fun s t v =>
    if t.acquireFault.isSome then s.park t .retry none
    else if !s.releaseReady t 4 then s.holdAt t (.release 4)
    else
      s.launch t (BitVec.ofNat 7 f.vd.toNat) (s.readDwords t (v.getS f.va.toNat).toNat 128 16)
        ((v.getS f.vb.toNat).toNat % 64) true .queued

/-- LAUNCHD (R266): as LAUNCH, with a dependence block, which is read now; one that is not aligned or cannot be read is
treated as such a header. Log entry 57. -/
def execLaunchd (f : VFields) (s : State) : Host.Outcome State Fault Refusal :=
  issueV 0x281 f s fun s t v =>
    if t.acquireFault.isSome then s.park t .retry none
    else if !s.releaseReady t 4 then s.holdAt t (.release 4)
    else
      let sd := BitVec.ofNat 7 f.vd.toNat
      let block := v.getS f.vc.toNat
      match s.readDwords t block.toNat 8 5 with
      | none => s.retireS t [(sd, rejectWord 1)]
      | some dep =>
        s.launch t sd (s.readDwords t (v.getS f.va.toNat).toNat 128 16) ((v.getS f.vb.toNat).toNat % 64) false
          (.waitingFence block dep)

/-! ## The order of service (R320) -/

/-- A launch has plots waiting to be placed or restored, and its turn may come: the oldest eligible entry of its
queue, or one that the headgate has begun. -/
def State.isHead (s : State) (l : Launch) : Bool :=
  match l.phase with
  | .queued => l.front || !(s.launches.any fun m => m.ctx == l.ctx && m.queue == l.queue && decide (m.seq < l.seq) &&
      (match m.phase with | .queued => !m.front | _ => false))
  | .placing | .reserving _ | .preempted => true
  | _ => false

/-- The head launches. -/
def State.heads (s : State) : List Launch := s.launches.filter s.isHead

/-- Place in the order of R320, least first: priority, launches already begun, restores, new launches; then contexts
and queues in rotation. -/
def State.serviceKey (s : State) (l : Launch) : Nat :=
  let cls := match l.phase with
    | .preempted => 1
    | .queued => if l.front then 0 else 2
    | _ => 0
  let lastQ := match s.ctx? l.ctx with | some c => c.lastQueue | none => 0
  (((7 - hPrio l.header) * 4 + cls) * 64 + (l.ctx + 63 - s.lastCtx % 64) % 64) * 64 + (l.queue + 63 - lastQ % 64) % 64

/-- Head launches that come before a launch. -/
def State.before (s : State) (l : Launch) : List Launch :=
  s.heads.filter fun m => !(m.ctx == l.ctx && m.lid == l.lid) && decide (s.serviceKey m < s.serviceKey l)

/-- Whether the next plot that a waiting launch has to place fits a core. -/
def State.wants (s : State) (m : Launch) (core : Nat) : Bool :=
  match m.phase with
  | .preempted => s.plots.any fun p => p.ctx == m.ctx && p.lid == m.lid && p.saved && (s.plotCores p).contains core &&
      decide (s.usedGranules core + p.granules ≤ Config.granules)
  | _ => (List.range Config.cores).any fun c => (hCores m.header c).contains core && s.fits m.ctx m.header c

/-- The launch's turn has come (R320): nothing of its own priority comes before it. Log entry 58. -/
def State.hasTurn (s : State) (l : Launch) : Bool :=
  s.isHead l && (s.before l).all fun m => decide (hPrio l.header < hPrio m.header)

/-- A core that the launch may take while higher priorities wait: backfill (R320). -/
def State.leaves (s : State) (l : Launch) (core : Nat) : Bool :=
  (s.before l).all fun m => (hCores l.header core).all fun c => !s.wants m c

/-- Head launches of strictly higher priority than a launch. -/
def State.higher (s : State) (l : Launch) : List Launch := s.heads.filter fun m => decide (hPrio l.header < hPrio m.header)

/-- A launch had a higher priority and waited when the reservation in progress began. -/
def State.waitedBefore (s : State) (m : Launch) : Bool := s.gangHeads.contains (m.ctx, m.lid)

/-- Launches that abort the reservation in progress: those of higher priority that have become head launches since it
began, unless it is sticky (R330). -/
def State.aborters (s : State) : List Launch :=
  match s.gang with
  | none => []
  | some g =>
    match s.launch? g.1 g.2 with
    | none => []
    | some l => if l.aborts < 4 then (s.higher l).filter fun m => !s.waitedBefore m else []

/-! ## Placing (R25, R106, R115, R278, R328) -/

/-- Arm a slot: its generation advances, and the handle (R32). -/
def State.armSlot (s : State) (core part slot : Nat) : Handle × State :=
  let k := 32 * part + slot
  let g := spRead 0 (s.core core).gens k
  let g1 := if 65535 ≤ g then 1 else g + 1
  (mkHandle core part slot g1, s.modCore core fun x => { x with gens := spWrite 0 x.gens k g1 })

/-- Segments at team start (R115). -/
def startSegs (h : List Dword) (c : Context) (p : Plot) (tid : Handle) : Sparse Segment :=
  let seg := fun (m : Sparse Segment) (x : Nat × Nat × Nat) => spWrite {} m x.1 { base := dw x.2.1, limit := dw x.2.2 }
  [(0, 0, 2 ^ 56), (1, Config.granuleBytes * p.scratchSlot, Config.granuleBytes * p.scratchGranules),
   (2, hdrD h 8, hKsize h), (3, (Config.estateBase c.id tid).toNat, 32 * hEstate h),
   (4, (Config.stackBase c.id tid).toNat, hTsize h), (5, hdrD h 12, hWsize h), (6, hdrD h 10, hLsize h),
   (7, c.qBase.toNat, c.qLimit.toNat)].foldl seg []

/-- A team at its start (R106). -/
def newTeam (h : List Dword) (c : Context) (l : Nat) (p : Plot) (index : Nat) (tid : Handle) (now : Nat) : Team :=
  { tid, ctx := c.id, lid := l, plot := p.id, index, width := hLanes h, regs := hRegs h, run := .pending
    pc := dw (hdrD h 7), s := (List.range 16).map fun i => (i, 0xFFFFFFFFFFFFFFFF#64), segs := startSegs h c p tid
    nbv := BitVec.ofNat 8 (hNbv h), key := dw (hdrD h 6), dbgp := Config.debugPrivileged h, since := now }

/-- One team of a plot takes its slot, its estate array cleared; under the launch halt mark it is HALTED with cause 7
(R362, R366). -/
def State.startTeam (s : State) (l : Launch) (c : Context) (p : Plot) (x : (Nat × Nat) × Nat) : State :=
  let (tid, s1) := s.armSlot p.core x.1.1 x.1.2
  let t := newTeam l.header c l.lid p x.2 tid (s.core p.core).cyc
  let t := if l.haltMark then t.haltWith (plainRecord 7 0 tid) else t
  let zeros := List.replicate (32 * hEstate l.header) (0 : Byte)
  let s2 := { s1 with teams := s1.teams ++ [t] }
  match s2.vWrite (corePort p.core) c.id (Config.estateBase c.id tid).toNat zeros with
  | .inl s3 => s3
  | .inr _ => s2

/-- The crews of a plot (R26). -/
def State.startCrews (s : State) (h : List Dword) (p : Plot) : State :=
  (List.range (hCrews h)).foldl (fun s k =>
    let (id, s1) := s.takeId
    { s1 with crews := s1.crews ++
        [{ id, plot := p.id, first := k * hCrew h, size := hCrew h, tileCount := hAcc h }] }) s

/-- Place the next plot of a launch on a core in some slots: granules cleared and mapped, teams PENDING (R25, R106,
R278). -/
def State.placePlot (s : State) (l : Launch) (core : Nat) (slots : List (Nat × Nat)) : State :=
  match s.ctx? l.ctx with
  | none => s
  | some c =>
    let h := l.header
    let (pid, s1) := s.takeId
    let p : Plot :=
      { id := pid, ctx := l.ctx, lid := l.lid, core, index := l.placed, coords := plotCoords h l.placed, teams := hTeams h
        scratchSlot := s.scratchRun (hCores h core) (hScratch h), scratchGranules := hScratch h, granules := hGranules h
        abandoned := l.abandoned }
    let s2 := ({ s1 with plots := s1.plots ++ [p] }).startCrews h p
    let s3 := slots.zipIdx.foldl (fun s x => s.startTeam l c p x) s2
    s3.modLaunch l.ctx l.lid fun m => { m with placed := m.placed + 1, living := m.living + hTeams h }

/-- A launch begins: the rotations move on (R320), and it leaves its queue (R319). -/
def State.beginLaunch (s : State) (l : Launch) (phase : LaunchPhase) : State :=
  let s1 := match l.phase with
    | .queued => if l.front then s else { s with lastCtx := l.ctx }.modCtx l.ctx fun c => { c with lastQueue := l.queue }
    | _ => s
  s1.modLaunch l.ctx l.lid fun m => { m with phase, front := false }

/-- A launch with every plot placed runs (R328). -/
def State.placedAll (s : State) (ctx lid : Nat) : State :=
  s.modLaunch ctx lid fun m => if hPlots m.header ≤ m.placed then { m with phase := .running } else m

/-- PLOT_PLACEMENT (R326 to R328): the next plot of launch arg.b of context arg.a, whose turn it is or which is placed
by backfill (R320), goes to the core that R328 chooses. -/
def execPlotPlacement (s : State) : Host.Outcome State Fault Refusal :=
  .next (match s.launch? s.arg.a s.arg.b with
  | none => s
  | some l =>
    let begun := match l.phase with | .placing => true | _ => false
    let ready := match l.phase with | .queued | .placing => true | _ => false
    if !ready || (hGang l.header && !begun) || l.killed || !s.hasTurn l
        || (s.aborters.any fun m => m.ctx == l.ctx && m.lid == l.lid) then s
    else
      let cores := (List.range Config.cores).filter fun c => s.fits l.ctx l.header c && s.leaves l c
      match s.bestCore l.header cores with
      | none => s
      | some core =>
        match takeSlots (hTeams l.header) (s.usedOn (hCores l.header core)) with
        | none => s
        | some slots => ((s.beginLaunch l .placing).placePlot l core slots).placedAll l.ctx l.lid)

/-! ## Gangs (R329, R330) -/

/-- Commit a gang whose plots are all reserved (R329). -/
def State.commitGang (s : State) (l : Launch) (ps : List (Nat × List (Nat × Nat))) : State :=
  let s1 := { s with gang := none }.modLaunch l.ctx l.lid fun m => { m with phase := .running }
  ps.foldl (fun s p =>
    match s.launch? l.ctx l.lid with
    | some m => s.placePlot m p.1 p.2
    | none => s) s1

/-- A core that a gang's reservation may take by backfill: no launch of higher priority that waited before it wants the core
(R320). -/
def State.gangLeaves (s : State) (l : Launch) (core : Nat) : Bool :=
  (s.before l).all fun m => !s.waitedBefore m || (hCores l.header core).all fun c => !s.wants m c

/-- GANG_RESERVE (R320, R329): the reservation of gang arg.b of context arg.a begins, or goes on by a plot; with the last
plot the gang is committed. One that a higher priority would abort does not go on. -/
def execGangReserve (s : State) : Host.Outcome State Fault Refusal :=
  .next (match s.launch? s.arg.a s.arg.b with
  | none => s
  | some l =>
    let heads := match l.phase with
      | .queued => (s.higher l).map fun m => (m.ctx, m.lid)
      | _ => s.gangHeads
    let ps : Option (List (Nat × List (Nat × Nat))) := match l.phase with
      | .queued => if hGang l.header && s.gang.isNone && s.hasTurn l then some [] else none
      | .reserving ps => if s.gang == some (l.ctx, l.lid) && s.aborters.isEmpty then some ps else none
      | _ => none
    match ps with
    | none => s
    | some ps =>
      if l.killed then s
      else
        let s1 := { s.beginLaunch l (.reserving ps) with gang := some (l.ctx, l.lid), gangHeads := heads }
        match s1.bestCore l.header ((List.range Config.cores).filter fun c => s1.fits l.ctx l.header c && s1.gangLeaves l c) with
        | none => s1
        | some core =>
          match takeSlots (hTeams l.header) (s1.usedOn (hCores l.header core)) with
          | none => s1
          | some slots =>
            let qs := ps ++ [(core, slots)]
            if hPlots l.header ≤ qs.length then s1.commitGang l qs
            else s1.modLaunch l.ctx l.lid fun m => { m with phase := .reserving qs })

/-- A reservation is released: the gang returns to the head of its priority level (R330, R335). -/
def State.releaseGang (s : State) (ctx lid aborts : Nat) : State :=
  { s with gang := none }.modLaunch ctx lid fun m => { m with phase := .queued, front := true, aborts := m.aborts + aborts }

/-- GANG_ABORT (R330): a head launch of strictly higher priority aborts a reservation that is not sticky. -/
def execGangAbort (s : State) : Host.Outcome State Fault Refusal :=
  .next (match s.gang with
  | none => s
  | some g => if s.aborters.isEmpty then s else s.releaseGang g.1 g.2 1)

/-! ## LAUNCHD's fence (R266) -/

/-- Dwords at a virtual address, read by the headgate in a context; none where they cannot be read. -/
def State.gateRead (s : State) (c : Context) (va n : Nat) : Option (List Dword) :=
  match s.vRead (portOf c.supervisor) c.id va (8 * n) with
  | .inl bs => some ((List.range n).map fun i => dw (ofBytes ((bs.drop (8 * i)).take 8)))
  | .inr _ => none

/-- Write RESULT of a dependence block; a write that fails is dropped. -/
def State.writeResult (s : State) (c : Context) (block w : Dword) : State :=
  match s.vWrite (portOf c.supervisor) c.id (block.toNat + 32) (toBytes 8 w.toNat) with
  | .inl s1 => s1
  | .inr _ => s

/-- The fence of a launch has been acquired: its extents are read and checked, and it is eligible, has no plots, or is
discarded. -/
def State.fenceMet (s : State) (c : Context) (l : Launch) (block : Dword) (dep : List Dword) : State :=
  let discard := fun (k : Nat) =>
    (s.writeResult c block (rejectWord k)).modLaunch l.ctx l.lid fun m => { m with phase := .ended }
  let hd := if hdrD dep 2 = 0 then some l.header
    else (s.gateRead c (hdrD dep 2) 2).map fun g => l.header.take 2 ++ g ++ l.header.drop 4
  match hd with
  | none => discard 3
  | some h =>
    let s1 := s.modLaunch l.ctx l.lid fun m => { m with header := h, since := (s.core 0).cyc }
    let none_ := [2, 3, 4, 5].any fun k => hExt h k == 0
    let wide := [2, 3, 4, 5].any fun k => decide (2 ^ hW h k < hExt h k)
    if wide || (none_ && hdrD dep 2 == 0) then discard 3
    else if none_ then
      ((s1.modLaunch l.ctx l.lid fun m => { m with phase := .running }).finishLaunch l.ctx l.lid).writeResult c block
        (dw l.lid)
    else if hGang h && !s.gangRoom l.ctx h then discard 5
    else if (s.holders l.ctx h).isEmpty then discard 10
    else (s1.modLaunch l.ctx l.lid fun m => { m with phase := .queued }).writeResult c block (dw l.lid)

/-- The headgate's acquire of a fence word at a scope finds its line tagged: it is answered once the tagged cores have
drained (R266, R308). -/
def State.fenceTagged (s : State) (c : Context) (va scope : Nat) : Bool :=
  match s.translate (portOf c.supervisor) c.id va .read with
  | .ok pa _ => s.mustPromote Config.cores scope true (some (false, pa))
  | .fault _ => false

/-- LAUNCHD_FENCE_MET (R266): the headgate finds that the fence of launch arg.b of context arg.a has been reached, at the
scope that the dependence block names. -/
def execLaunchdFenceMet (s : State) : Host.Outcome State Fault Refusal :=
  .next (match s.launch? s.arg.a s.arg.b, s.ctx? s.arg.a with
  | some l, some c =>
    match l.phase with
    | .waitingFence block dep =>
      if s.fenceTagged c (hdrD dep 0) (hdrD dep 3 % 8) then s else
      match s.gateRead c (hdrD dep 0) 1 with
      | some w => if hdrD dep 1 ≤ hdrD w 0 then s.fenceMet c l block dep else s
      | none => s
    | _ => s
  | _, _ => s)

end Sys2Proof.Machine
end

