-- ==== Sys2Proof/Machine/Matrix.lean ====
section
/-! DEFINITION. The matrix engine (R222 to R244): arrivals and acceptance, operand images, the effect of an operation on a tile, the engine's steps, drain ports. -/

namespace Sys2Proof.Machine

/-! ## Operand images (R222 to R225, R235) -/

/-- A list cut into runs of n. -/
def chunks {α : Type} (n : Nat) : Nat → List α → List (List α)
  | 0, _ => []
  | k + 1, xs => xs.take n :: chunks n k (xs.drop n)

/-- Every second nibble first: the codes of a run of bytes, low nibble first (R51). -/
def nibbles (bs : List Byte) : List Nat := bs.flatMap fun b => [b.toNat % 16, b.toNat / 16]

/-- Values of a run of bytes in a format of 8 bits or more. -/
def valsOf (F : Fmt) (bs : List Byte) : List Val :=
  let n := F.width / 8
  (chunks n (bs.length / n) bs).map fun x => floatVal F (ofBytes x)

/-- The rows of the A image (R223): 256 bytes each, and under e2m1 the scale and special bytes of the row's 16
blocks. -/
def rowsA (F : Fmt) (img : List Byte) : List (List Val) :=
  let rows := chunks 256 64 img
  if F == .e2m1 then
    (rows.zip (chunks 32 64 (img.drop 16384))).map fun x =>
      ((nibbles x.1).zipIdx).map fun c =>
        let b := c.2 / 32
        e2m1Val c.1 (x.2.getD (2 * b) 0).toNat (x.2.getD (2 * b + 1) 0).toNat
  else rows.map (valsOf F)

/-- Column values of 16 words of a quarter (R224, R225). -/
def wordVals (F : Fmt) (ws : List (Word × Word)) : List Val :=
  if F == .e2m1 then
    ws.flatMap fun w => (List.range 8).map fun i =>
      e2m1Val (w.1.toNat / 16 ^ i % 16) (w.2.toNat % 256) (w.2.toNat / 256 % 256)
  else valsOf F (ws.flatMap fun w => toBytes 4 w.1.toNat)

/-- The columns of a B image of 4,096 words: quarter-major, each column contiguous within a quarter (R224). -/
def colsB (F : Fmt) (img : List (Word × Word)) : List (List Val) :=
  let quarters := (chunks 1024 4 img).map fun q => (chunks 16 64 q).map (wordVals F)
  match quarters with
  | [a, b, c, d] => (List.range 64).map fun j => a.getD j [] ++ b.getD j [] ++ c.getD j [] ++ d.getD j []
  | _ => []

/-- The words of a member's share of 64 columns, from its run (R224, R225). -/
def Team.shareOf (t : Team) (va n : Nat) (e2 : Bool) : List (Word × Word) :=
  (List.range (4096 / n)).map fun b =>
    let r := va + (if e2 then 2 else 1) * (b / t.width)
    (t.getV r (b % t.width), if e2 then t.getV (r + 1) (b % t.width) else 0)

/-- Bits of a run of bytes, lowest first. -/
def bitsOf (bs : List Byte) : List Bool := bs.flatMap fun b => (List.range 8).map fun i => b.getLsbD i

/-- Rows of bitA: K bits each (R235). -/
def mapRows (K : Nat) (bm : List Byte) : List (List Bool) := chunks K 64 (bitsOf (bm.take (8 * K)))

/-- Rows of bitB: 64 bits for each k (R235). -/
def mapCols (K : Nat) (bm : List Byte) : List (List Bool) := chunks 64 K (bitsOf (bm.drop (8 * K)))

/-- The live indices of MMASP, ascending (R235). -/
def liveList (K : Nat) (bm : List Byte) : List Nat :=
  let ra := mapRows K bm
  let rb := mapCols K bm
  (rb.zipIdx.filter fun x => x.1.any (fun b => b) && ra.any (fun r => r.getD x.2 false)).map Prod.snd

/-- The elements of a list at rising places. -/
def pickAt {α : Type} : Nat → List Nat → List α → List α
  | _, [], _ => []
  | _, _, [] => []
  | i, k :: ks, x :: xs => if i = k then x :: pickAt (i + 1) ks xs else pickAt (i + 1) (k :: ks) xs

/-! ## The effect on an element (R71, R232, R233) -/

/-- An element of an accumulator tile. -/
structure TileElem where
  acc : Nat
  kept : Bool
  cnt : Nat
  deriving DecidableEq, Repr

/-- The products of kept terms, a term being a pair of operands and whether it is a term at all. -/
def products (ts : List (Val × Val × Bool)) : List Res :=
  (ts.filter fun t => t.2.2 && !t.1.isAbsent && !t.2.1.isAbsent).map fun t => mulVal t.1 t.2.1

/-- Accumulate under NBV 1: for each run of 16 entries, its products rounded, then the sum rounded. -/
def accChain : Nat → List (Val × Val × Bool) → Nat → BitVec 8 → Nat × BitVec 8
  | 0, _, acc, fl => (acc, fl)
  | n + 1, ts, acc, fl =>
    let g := roundRes .f32 .rne false (sumRes false (products (ts.take 16)))
    let r := roundRes .f32 .rne false (sumVals false [floatVal .f32 acc, floatVal .f32 g.1])
    accChain n (ts.drop 16) r.1 (fl ||| g.2 ||| r.2)

/-- The effect of a run of entries on one element, and the flags raised. -/
def accElem (mode nbv : Nat) (ts : List (Val × Val × Bool)) (e : TileElem) : TileElem × BitVec 8 :=
  if e.acc = 0xFFFFFFFF then (e, 0)
  else if mode = 1 && ts.any (fun t => t.2.2 && (t.1.isAbsent || t.2.1.isAbsent)) then ({ e with acc := 0xFFFFFFFF }, 0)
  else
    let ps := products ts
    let sum := if mode = 2 then e.cnt + ps.length else e.cnt
    let r := if nbv = 1 then accChain (ceilDiv ts.length 16) ts e.acc 0
      else roundRes .f32 .rne false (sumRes false (.val (floatVal .f32 e.acc) :: ps))
    ({ acc := r.1, kept := e.kept || !ps.isEmpty, cnt := min sum (max e.cnt 0xFFFE) },
      r.2 ||| (if mode = 2 && decide (0xFFFE < sum) then fSAT else 0))

/-! ## Tiles -/

/-- Element x of a tile, x = 64·i + j. -/
def Tile.elem (t : Tile) (x : Nat) : TileElem :=
  { acc := (spRead 0 t.values x).toNat, kept := t.kept.contains x, cnt := (spRead 0 t.counts x).toNat }

/-- A tile from its elements in order. -/
def tileOf (es : List TileElem) : Tile :=
  let xs := es.zipIdx
  { values := xs.filterMap fun x => if x.1.acc % 2 ^ 32 = 0 then none else some (x.2, BitVec.ofNat 32 x.1.acc)
    kept := xs.filterMap fun x => if x.1.kept then some x.2 else none
    counts := xs.filterMap fun x => if x.1.cnt % 2 ^ 16 = 0 then none else some (x.2, BitVec.ofNat 16 x.1.cnt) }

/-- A tile of a crew. -/
def Crew.tile (c : Crew) (k : Nat) : Tile := spRead {} c.tiles k

/-- The physical tile that a name is bound to. -/
def Crew.bound (c : Crew) (name : Nat) : Option Nat := spRead none c.names name

/-- A stream that has rows to produce reads the tile. -/
def Crew.drains (c : Crew) (k : Nat) : Bool := c.ports.any fun p => p.2.any fun st => st.tile == some k && decide (st.row < 64)

/-- A tile that no name holds, no operation needs and no stream reads. -/
def Crew.freeTile (c : Crew) : Option Nat :=
  (List.range c.tileCount).find? fun k =>
    !(c.names.any fun n => n.2 == some k) && !(c.ops.any fun o => o.tiles.contains k) && !c.drains k

/-- A free tile may come: one is being drained, or one that no name holds is still in use (R112). -/
def Crew.tileMayFree (c : Crew) : Bool :=
  (List.range c.tileCount).any fun k => c.drains k || !(c.names.any fun n => n.2 == some k)

/-! ## Operations -/

/-- Steps of the term list (R232, R235). -/
def MatrixOp.entries (o : MatrixOp) : Nat :=
  match o.kind with
  | .mmasp => (liveList (matrixK o.fmtA o.fmtB) o.bitmaps).length
  | _ => matrixK o.fmtA o.fmtB

/-- Steps of an operation. -/
def MatrixOp.steps (o : MatrixOp) : Nat := ceilDiv o.entries 32

/-- Cycles per step (R236). -/
def MatrixOp.stepCycles (o : MatrixOp) : Nat :=
  (match o.fmtA with | 8 => 64 | 9 => 8 | 10 => 8 | 13 => 2 | _ => 4) * (if o.mode = 2 then 2 else 1)

/-- The terms of element (i, j) over entries lo to hi − 1 of the term list. -/
def MatrixOp.terms (o : MatrixOp) (half lo hi : Nat) : List (List (List (Val × Val × Bool))) :=
  let K := matrixK o.fmtA o.fmtB
  let list := (match o.kind with | .mmasp => liveList K o.bitmaps | _ => List.range K)
  let ks := (list.take hi).drop lo
  let rows := (rowsA (fmtOf o.fmtA 0) o.imgA).map (pickAt 0 ks)
  let cols := (colsB (fmtOf o.fmtB 0) ((o.imgB.drop (4096 * half)).take 4096)).map (pickAt 0 ks)
  let on : List (List (List Bool)) :=
    match o.kind with
    | .mmasp =>
      let ra := (mapRows K o.bitmaps).map (pickAt 0 ks)
      let rb := pickAt 0 ks (mapCols K o.bitmaps)
      ra.map fun r => (List.range 64).map fun j => (r.zip rb).map fun x => x.1 && x.2.getD j false
    | _ => rows.map fun _ => (List.range 64).map fun _ => ks.map fun _ => true
  (rows.zip on).map fun r => (cols.zip r.2).map fun c => (r.1.zip (c.1.zip c.2))

/-- The effect of entries lo to hi − 1 on the tile of 64 columns (R232), and the flags. -/
def MatrixOp.apply (o : MatrixOp) (half lo hi : Nat) (t : Tile) : Tile × BitVec 8 :=
  let rs := ((o.terms half lo hi).flatMap fun r => r).zipIdx.map fun x => accElem o.mode o.nbv x.1 (t.elem x.2)
  (tileOf (rs.map Prod.fst), orFlags (rs.map Prod.snd))

/-- The effect of an operation whose operands are undefined: every element that is not absent takes a free value,
and, where the rule says so, a free kept bit and count (R231, R238). -/
def wildTile (bitsToo : Bool) (n : Nat) (t : Tile) : Tile :=
  tileOf ((List.range 4096).map fun x =>
    let e := t.elem x
    let v := (Config.freeValue (n + x)).toNat
    if e.acc = 0xFFFFFFFF then e
    else
      { acc := v % 2 ^ 32, kept := if bitsToo then Config.freeBool (n + x) else e.kept
        cnt := if bitsToo then v / 2 ^ 32 % 2 ^ 16 else e.cnt })

/-- The kept bits and counts of one tile on the values of another. -/
def Tile.withValues (bits_ vals : Tile) : Tile := { bits_ with values := vals.values }

/-- Flags that a matrix operation raises go to every member (R232, R392). -/
def State.crewFlags (s : State) (c : Crew) (hs : List Handle) (fl : BitVec 8) : State :=
  match s.plot? c.plot with
  | none => s
  | some p => hs.foldl (fun s h => s.attribute h p.ctx p.lid fl) s

/-- A member of a crew has consumed poison through an operation of the crew (R393): it is contained, or, where it has
exited, the notice names it. -/
def State.containMember (s : State) (c : Crew) (h : Handle) : State :=
  match s.team? h, s.plot? c.plot with
  | some t, _ => s.containPool t
  | none, some p =>
    let d := s.drawFree
    d.2.post p.ctx
      { cause := 0x41, detail := 8, tid := h, lid := p.lid, pc := 0, issue := 0, info := dw (d.1.toNat % 2 ^ 52), mask := 0
        exited := true }
  | none, none => s

/-- An operation that accumulates into a tile with a poisoned word consumes it (R291, R393). Log entry 50. -/
def State.tilePoisoned (s : State) (c : Crew) (o : MatrixOp) : Bool :=
  match s.crew? c.id with
  | some d => o.tiles.any fun k => !(d.tile k).poison.isEmpty
  | none => false

/-- Round the products of steps so far into an operation's tiles (R232, R243). An operation with undefined operands
leaves free values and raises no flag (R11). -/
def State.applySteps (s : State) (c : Crew) (o : MatrixOp) (upto : Nat) : State :=
  if o.entries = 0 then s
  else if s.tilePoisoned c o then (o.runs.map Prod.fst).foldl (fun s h => s.containMember c h) s
  else (List.range o.tiles.length).foldl (fun s half =>
    let k := o.tiles.getD half 0
    match s.crew? c.id with
    | none => s
    | some c =>
      let r := o.apply half (32 * o.baseStep) (32 * upto) (c.tile k)
      let t := if o.wild || o.wildBits then
          (if o.wildBits then wildTile true s.fresh (c.tile k) else r.1.withValues (wildTile false s.fresh (c.tile k)))
        else r.1
      let fl := if o.wild || o.wildBits then 0 else r.2
      let s1 := s.modCrew c.id fun c => { c with tiles := spWrite {} c.tiles k t }
      ({ s1 with fresh := if o.wild || o.wildBits then s.fresh + 4096 else s.fresh }).crewFlags c (o.runs.map Prod.fst) fl) s

/-! ## Engine order (R228, R237, R239) -/

/-- What a stream delivers once its place is reached: rows of the tile, absent where a kept bit is clear, or its
counts (R239). -/
def streamVals (c : Crew) (st : Stream) : List Word :=
  match st.tile with
  | none => List.replicate 4096 (if st.counts then 0 else 0xFFFFFFFF#32)
  | some k =>
    let t := c.tile k
    (List.range 4096).map fun x =>
      let e := t.elem x
      BitVec.ofNat 32 (if st.counts then e.cnt else if e.kept then e.acc else 0xFFFFFFFF)

/-- A stream takes its tile's values when nothing placed before it on the tile is outstanding. -/
def Crew.place (c : Crew) (st : Stream) : Stream :=
  let waits := match st.tile with
    | none => false
    | some k => c.ops.any fun o => decide (o.id < st.id) && o.tiles.contains k
  if st.vals.isSome || waits then st else { st with vals := some (streamVals c st) }

/-- Streams take their values, and clearings at the head of the engine order act. -/
def settleGo : Nat → Crew → Crew
  | 0, c => c
  | n + 1, c =>
    let c1 := { c with ports := c.ports.map fun (p : Nat × List Stream) => (p.1, p.2.map c.place) }
    match c1.ops with
    | o :: rest =>
      match o.kind with
      | .zero => settleGo n { c1 with ops := rest, tiles := o.tiles.foldl (fun m k => spWrite {} m k {}) c1.tiles }
      | _ => c1
    | [] => c1

/-- What engine order lets happen at once. -/
def Crew.settle (c : Crew) : Crew := settleGo (c.ops.length + 1) c

/-- Multiply operations accepted and not retired. -/
def Crew.multiplies (c : Crew) : Nat := (c.ops.filter fun o => match o.kind with | .zero => false | _ => true).length

/-! ## Arrivals and acceptance (R226, R227, R112) -/

/-- CREW_MISMATCH. -/
def cMismatch : Nat := 0x19
/-- CREW_BROKEN. -/
def cBroken : Nat := 0x1A

/-- The members of a crew, by index. -/
def State.members (s : State) (c : Crew) : List Team :=
  (List.range c.size).filterMap fun i => s.teams.find? fun t => t.plot == c.plot && t.index == c.first + i

/-- Matched arrivals agree (R227): everything but VA. -/
def agree (a b : CrewArrival) : Bool :=
  a.pc == b.pc && a.op == b.op && { a.f with va := 0 } == { b.f with va := 0 } && a.aOffset == b.aOffset
    && a.bitmap == b.bitmap && a.nbv == b.nbv

/-- A trap of every member at its collective instruction. -/
def State.trapAll (s : State) (ms : List Team) (x : TrapInfo) : State :=
  ms.foldl (fun s m => match s.team? m.tid with | some t => s.takeTrap t x | none => s) s

/-- Every member retires the collective instruction. -/
def State.retireAll (s : State) (ms : List Team) : State :=
  ms.foldl (fun s m => match s.team? m.tid with | some t => s.retire { t with fenced := false } | none => s) s

/-- Names that a collective opcode binds: T, and T + 1 under MMAT (R112, R234). -/
def collNames (op : Nat) (f : VFields) : List Nat :=
  let n := f.vd.toNat % 16
  if op = 0x1C3 then [n, n + 1] else [n]

/-- Bind unbound names to free tiles, which are cleared (R112): none where there is no free tile. -/
def bindNames (fresh : Bool) : List Nat → Crew → Option Crew
  | [], c => some c
  | n :: r, c =>
    if (c.bound n).isSome && !fresh then bindNames fresh r c
    else
      match c.freeTile with
      | none => none
      | some k => bindNames fresh r { c with names := spWrite none c.names n (some k), tiles := spWrite {} c.tiles k {} }

/-- Bytes of the A image (R222, R223). -/
def sizeA (fmtA : Nat) : Nat := if fmtA = 13 then 18432 else 16384

/-- The trap that a multiply operation's extents give every member (R230, R235). -/
def multiplyTrap (t : Team) (a : CrewArrival) : Option TrapInfo :=
  let fA := a.f.fmt.toNat
  let lim := (t.seg 1).limit.toNat
  let K := matrixK fA (srcFmt a.f)
  if lim < a.aOffset + sizeA fA then some { cause := cScratch, detail := 1, info := dw a.aOffset }
  else if a.op ≠ 0x1C4 then none
  else if a.bitmap % 64 ≠ 0 then
    some { cause := cMisaligned, detail := 1, info := segAddr t 1 (dw a.bitmap) }
  else if lim < a.bitmap + 16 * K then some { cause := cScratch, detail := 1, info := dw a.bitmap }
  else none

/-- The operation that members' arrivals make, its operands read (R223 to R225, R241). -/
def matrixOpOf (s : State) (c : Crew) (id : Nat) (ms : List (Team × CrewArrival)) (t : Team) (a : CrewArrival) : MatrixOp :=
  let fA := a.f.fmt.toNat
  let K := matrixK fA (srcFmt a.f)
  let twin := a.op == 0x1C3
  let e2 := fA == 13
  let len := runLength c.size t.width e2 twin
  let aAt := (segAddr t 1 (dw a.aOffset)).toNat
  let mapAt := (segAddr t 1 (dw a.bitmap)).toNat
  let sparse := a.op == 0x1C4
  let share : Nat → List (Word × Word) := fun half => ms.flatMap fun m =>
    m.1.shareOf (m.2.f.va.toNat + half * (len / 2)) c.size e2
  { id
    kind := if sparse then .mmasp else if twin then .mmat else .mma
    tiles := (collNames a.op a.f).map fun n => (c.bound n).getD 0
    names := collNames a.op a.f, fmtA := fA, fmtB := srcFmt a.f, mode := a.f.md.toNat % 4, nbv := a.nbv.toNat
    runs := ms.map fun m => (m.1.tid, m.2.f.va.toNat)
    runLen := len, aAt, aLen := sizeA fA, mapAt, mapLen := if sparse then 16 * K else 0
    imgA := s.readScratch c.plot aAt (sizeA fA)
    imgB := if twin then share 0 ++ share 1 else share 0
    bitmaps := if sparse then s.readScratch c.plot mapAt (16 * K) else []
    wild := ms.any fun m => !m.2.fenced
    wildBits := ms.any fun m => !m.2.fenced }

/-- Members whose part of the operands is poisoned: the owner of a poisoned run, or every member for the A image and
the bitmaps (R393). Log entry 50. -/
def State.poisonedMembers (s : State) (o : MatrixOp) (plot : Nat) (ms : List Team) : List Team :=
  let all := s.scratchPoisoned plot o.aAt o.aLen || (decide (0 < o.mapLen) && s.scratchPoisoned plot o.mapAt o.mapLen)
  ms.filter fun t => all || (o.runs.any fun r => r.1 == t.tid &&
    s.readsPoison t ((List.range o.runLen).map fun i => r.2 + i) (List.range t.width))

/-- Acceptance of a multiply operation with its tiles bound (R228, R393). Log entry 47. -/
def State.acceptMultiply (s : State) (c : Crew) (ms : List (Team × CrewArrival)) (t : Team) (a : CrewArrival) : State :=
  let (id, s) := s.takeId
  let o := matrixOpOf s c id ms t a
  let teams := ms.map Prod.fst
  match s.poisonedMembers o c.plot teams with
  | [] => (s.modCrew c.id fun _ => { c with ops := c.ops ++ [o] }).retireAll teams
  | bad => bad.foldl (fun s m => match s.team? m.tid with | some u => s.containPool u | none => s) s

/-- Acceptance of MZERO or MNEW with its name bound (R112, R237): a clearing takes its place in engine order. -/
def State.acceptClear (s : State) (c : Crew) (ms : List Team) (name : Nat) : State :=
  let (id, s) := s.takeId
  let o : MatrixOp := { id, kind := .zero, tiles := [(c.bound name).getD 0] }
  (s.modCrew c.id fun _ => ({ c with ops := c.ops ++ [o] }).settle).retireAll ms

/-- Every member has arrived: the operation is accepted, or every member traps, or all wait (R226 to R228, R112). -/
def State.acceptAll (s : State) (c : Crew) (ms : List (Team × CrewArrival)) : State :=
  let teams := ms.map Prod.fst
  match ms with
  | [] => s
  | (t, a) :: rest =>
    if rest.any fun m => !agree a m.2 then s.trapAll teams { cause := cMismatch }
    else
      let multiply := a.op == 0x1C2 || a.op == 0x1C3 || a.op == 0x1C4
      match if multiply then multiplyTrap t a else none with
      | some x => s.trapAll teams x
      | none =>
        if multiply && decide (4 ≤ c.multiplies) then s
        else
          match bindNames (a.op == 0x1C7) (collNames a.op a.f) c with
          | none => if c.tileMayFree then s else s.trapAll teams { cause := cOperand }
          | some c1 =>
            if multiply then s.acceptMultiply c1 ms t a else s.acceptClear c1 teams (a.f.vd.toNat % 16)

/-- The arrivals of a crew, if every member has arrived and can retire. -/
def State.arrivedAll (s : State) (c : Crew) : Option (List (Team × CrewArrival)) :=
  let ms := s.members c
  let xs := ms.filterMap fun m =>
    if m.running && m.dying.isNone then m.arrived.map fun a => (m, a) else none
  if xs.length = c.size then some xs else none

/-- A collective instruction (R226): the member arrives and is held; the last arrival lets the engine accept. A step
that meets the hold ends with outcome 4 (R270). -/
def collective (op : Nat) (f : VFields) (s : State) : Host.Outcome State Fault Refusal :=
  issueV op f s fun s t v =>
    match s.crewOf t with
    | none => s.illegal t
    | some c =>
      if c.broken then s.trap t cBroken 0 0 0
      else
        let a : CrewArrival :=
          { pc := t.insnPc, op, f, aOffset := t.aOffset
            bitmap := if op = 0x1C4 then (v.getS f.vb.toNat).toNat else 0, nbv := t.nbv, fenced := t.fenced }
        let s1 := s.holdAt { t with arrived := some a } .collective
        match s1.arrivedAll c with
        | none => s1.modTeam t.tid fun u => u.endStep 4
        | some ms =>
          let s2 := s1.acceptAll c ms
          match s2.team? t.tid with
          | some u => if u.arrived.isSome then s2.modTeam t.tid fun u => u.endStep 4 else s2
          | none => s2

/-- MMA (R232). -/
def execMma (f : VFields) (s : State) : Host.Outcome State Fault Refusal := collective 0x1C2 f s
/-- MMAT (R234). -/
def execMmat (f : VFields) (s : State) : Host.Outcome State Fault Refusal := collective 0x1C3 f s
/-- MMASP (R235). -/
def execMmasp (f : VFields) (s : State) : Host.Outcome State Fault Refusal := collective 0x1C4 f s
/-- MZERO (R237). -/
def execMzero (f : VFields) (s : State) : Host.Outcome State Fault Refusal := collective 0x1C6 f s
/-- MNEW (R237). -/
def execMnew (f : VFields) (s : State) : Host.Outcome State Fault Refusal := collective 0x1C7 f s

/-! ## Instructions of one team -/

/-- MLDT (R230): the offset goes into the A offset latch. -/
def execMldt (f : VFields) (s : State) : Host.Outcome State Fault Refusal :=
  issueV 0x1C0 f s fun s t v =>
    let off := scalarOff v f
    if off.toNat % 256 ≠ 0 then s.trap t cMisaligned 1 (segAddr t 1 off) 0
    else s.retire { t with aOffset := off.toNat }

/-- MFENCE (R231). Log entry 48. -/
def execMfence (f : VFields) (s : State) : Host.Outcome State Fault Refusal :=
  issueV 0x1C1 f s fun s t _ =>
    if s.mfenceOpen t then s.holdOrRetry t .mfence (s.hasEntry t [0, 1]) else s.retire { t with fenced := true }

/-- Multiply operations of a crew on a name. -/
def Crew.onName (c : Crew) (name : Nat) : List Nat := (c.ops.filter fun o => o.names.contains name).map MatrixOp.id

/-- MWAITA (R238): held until the operations on the name that were accepted before it issued have retired. -/
def execMwaita (f : VFields) (s : State) : Host.Outcome State Fault Refusal :=
  issueV 0x1C9 f s fun s t _ =>
    match s.crewOf t with
    | none => s.illegal t
    | some c =>
      let ids := match t.held with
        | some (.mwaita l, _) => l
        | _ => c.onName (f.vd.toNat % 16)
      if ids.any s.matrixLive then s.holdAt t (.mwaita ids) else s.retire t

/-- MDRAIN and MCNT (R239): a stream takes its place in its port and in engine order; a fifth holds the team. -/
def drainInsn (op : Nat) (counts : Bool) (f : VFields) (s : State) : Host.Outcome State Fault Refusal :=
  issueV op f s fun s t _ =>
    match s.crewOf t with
    | none => s.illegal t
    | some c =>
      let p := f.vd.toNat - 480
      let ss := spRead [] c.ports p
      if 4 ≤ ss.length then s.holdAt t (.portFull p)
      else
        let (id, s1) := s.takeId
        let st : Stream := { id, tile := c.bound (f.va.toNat % 16), counts, origin := some t.origin }
        (s1.modCrew c.id fun c => ({ c with ports := spWrite [] c.ports p (ss ++ [st]) }).settle).retire t

/-- MDRAIN (R239). -/
def execMdrain (f : VFields) (s : State) : Host.Outcome State Fault Refusal := drainInsn 0x1C8 false f s
/-- MCNT (R239). -/
def execMcnt (f : VFields) (s : State) : Host.Outcome State Fault Refusal := drainInsn 0x1CA true f s

/-! ## The engine at work (R228, R234 to R236, R243, R374) -/

/-- The core of a crew. -/
def State.crewCore (s : State) (c : Crew) : Nat := match s.plot? c.plot with | some p => p.core | none => 0

/-- The crew's plot is being saved or stands saved: its operations wait for the restore (R243). -/
def State.crewSaved (s : State) (c : Crew) : Bool :=
  match s.plot? c.plot with
  | some p => p.saved || (match s.launch? p.ctx p.lid with | some l => (match l.phase with | .saving => true | _ => false) | none => false)
  | none => true

/-- A core's engine does nothing now, and is slaved to no MMAT of the twin (R234). -/
def State.engineIdle (s : State) (core : Nat) : Bool := (s.core core).running.isNone && (s.core core).slaved.isNone

/-- Crews of a core whose oldest operation can start (R228). -/
def State.startable (s : State) (core : Nat) : List Crew :=
  s.crews.filter fun c => s.crewCore c == core && !s.crewSaved c &&
    (match c.ops with
     | o :: _ => (match o.kind with | .zero => false | _ => true)
     | [] => false)

/-- The next crew in rotation after the one served last. -/
def nextCrew (last : Nat) (cs : List Crew) : Option Crew :=
  match minBy Crew.id (cs.filter fun c => decide (last < c.id)) with
  | some c => some c
  | none => minBy Crew.id cs

/-- Cores whose engines an operation uses. -/
def MatrixOp.engines (o : MatrixOp) (core : Nat) : List Nat := match o.kind with | .mmat => [core, core + 1] | _ => [core]

/-- An engine takes an operation: at once as the leader, and as a follower when it has finished its own (R234). -/
def Core.take (leads : Bool) (op : Nat × Nat) (k : Core) : Core :=
  if leads then { k with running := some op, lastCrew := op.1 }
  else if k.running.isNone then { k with running := some op } else { k with slaved := some op }

/-- An engine gives up an operation; one that is slaved then takes up the twin's MMAT. -/
def Core.give (id : Nat) (k : Core) : Core :=
  let its := fun (x : Option (Nat × Nat)) => match x with | some p => p.2 == id | none => false
  let k1 := { k with running := if its k.running then none else k.running, slaved := if its k.slaved then none else k.slaved }
  if k1.running.isNone then { k1 with running := k1.slaved, slaved := none } else k1

/-- MATRIX_OP_START (R228): the idle engine of core arg.a starts, or takes up again (R243), the oldest operation of the
next crew. -/
def execMatrixOpStart (s : State) : Host.Outcome State Fault Refusal :=
  let core := s.arg.a
  .next (if !s.engineIdle core then s
  else
    match nextCrew (s.core core).lastCrew (s.startable core) with
    | none => s
    | some c =>
      match c.ops with
      | [] => s
      | o :: rest =>
        let now := (s.core core).cyc
        let o1 := { o with
          started := true, readyAt := now + (if o.step < o.steps then o.stepCycles else if o.entries = 0 then 0 else 16) }
        let s1 := s.modCrew c.id fun c =>
          { c with ops := o1 :: rest, stepCounter := if o.started then c.stepCounter else 0 }
        (o.engines core).foldl (fun s k => s.modCore k (Core.take (k == core) (c.id, o.id))) s1)

/-- The operation that a core's engine leads, with its crew: it is the crew's oldest. -/
def State.runningOp (s : State) (core : Nat) : Option (Crew × MatrixOp) :=
  match (s.core core).running with
  | none => none
  | some (ci, oi) =>
    match s.crew? ci with
    | none => none
    | some c =>
      if s.crewCore c = core then
        match c.ops with
        | o :: _ => if o.id = oi then some (c, o) else none
        | [] => none
      else none

/-- Every engine of an operation works on it: an MMAT's steps run on both at once (R234). -/
def State.inStep (s : State) (o : MatrixOp) (core : Nat) : Bool :=
  (o.engines core).all fun k => match (s.core k).running with | some p => p.2 == o.id | none => false

/-- MATRIX_STEP (R234, R236, R374): a step of core arg.a's operation completes. -/
def execMatrixStep (s : State) : Host.Outcome State Fault Refusal :=
  .next (match s.runningOp s.arg.a with
  | none => s
  | some (c, o) =>
    let now := (s.core s.arg.a).cyc
    if decide (o.step < o.steps) && decide (o.readyAt ≤ now) && s.inStep o s.arg.a then
      let o1 := { o with step := o.step + 1, readyAt := now + (if o.step + 1 < o.steps then o.stepCycles else 16) }
      let ctx := match s.plot? c.plot with | some p => p.ctx | none => 0
      (s.countPerf s.arg.a ctx 5 1).modCrew c.id fun c =>
        { c with ops := o1 :: c.ops.drop 1, stepCounter := c.stepCounter + 1 }
    else s)

/-- An operation leaves its engines. -/
def State.leaveEngine (s : State) (o : MatrixOp) (core : Nat) : State :=
  (o.engines core).foldl (fun s k => s.modCore k (Core.give o.id)) s

/-- MATRIX_OP_RETIRE (R236): the operation of core arg.a, its steps done, leaves the engine with its results in the
tile. -/
def execMatrixOpRetire (s : State) : Host.Outcome State Fault Refusal :=
  .next (match s.runningOp s.arg.a with
  | none => s
  | some (c, o) =>
    if decide (o.steps ≤ o.step) && decide (o.readyAt ≤ (s.core s.arg.a).cyc) && s.inStep o s.arg.a then
      let s1 := ((s.applySteps c o o.steps).leaveEngine o s.arg.a).modCrew c.id fun c =>
        ({ c with ops := c.ops.drop 1, stepCounter := 0 }).settle
      s1.freePlot c.plot
    else s)

/-- A row of a stream of values reads a poisoned word of its tile (R291). -/
def Crew.rowPoisoned (c : Crew) (st : Stream) : Bool :=
  !st.counts && (match st.tile with | some k => (c.tile k).poison.any fun e => e / 64 == st.row | none => false)

/-- MDRAIN_ROW (R239): the engine of crew arg.a produces the next row of port arg.b's streams, in issue order; one that
reads poison ends its stream and contains the team that issued it (R393). -/
def execMdrainRow (s : State) : Host.Outcome State Fault Refusal :=
  .next (match s.crew? s.arg.a with
  | none => s
  | some c =>
    let now := (s.core (s.crewCore c)).cyc
    let due := fun (st : Stream) => decide (st.row < 64)
    let ss := spRead [] c.ports s.arg.b
    match ss.find? due with
    | none => s
    | some st =>
      if !(st.vals.isSome && decide (st.readyAt ≤ now) && !s.crewSaved c) then s
      else if c.rowPoisoned st then
        let d := s.drawFree
        let s1 := d.2.modCrew c.id fun c => { c with ports := spWrite [] c.ports s.arg.b (ss.filter fun x => x.id != st.id) }
        match st.origin with
        | some o => s1.containEngine o (d.1.toNat % 2 ^ 52)
        | none => s1
      else
        s.modCrew c.id fun c =>
          { c with ports := spWrite [] c.ports s.arg.b (updFirst due (fun x => { x with row := x.row + 1, readyAt := now + 1 }) ss) })

end Sys2Proof.Machine
end

