-- ==== Sys2Proof/Machine/Preempt.lean ====
section
/-! DEFINITION. Pre-emption and restore (R128, R243, R299, R317, R335 to R338, R389, R390). -/

namespace Sys2Proof.Machine

/-! ## Images (R299, R389) -/

/-- Bytes of a plot's record. -/
def plotBytes (h : List Dword) : Nat := 256 + hScratch h * 16384
/-- Bytes of a crew's record. -/
def crewBytes (h : List Dword) : Nat := 1024 + hAcc h * 25088
/-- Bytes of a team's record. -/
def teamBytes (h : List Dword) : Nat := 4096 + hRegs h * hLanes h * 4 + hLanes h * 8 + 8 * hLanes h * 4

/-- Bytes of the image of one plot of a launch (R389). -/
def imageBytes (h : List Dword) : Nat := plotBytes h + hCrews h * crewBytes h + hTeams h * teamBytes h

/-- Plots of a launch that are in the machine. -/
def State.plotsOf (s : State) (ctx lid : Nat) : List Plot := s.plots.filter fun p => p.ctx == ctx && p.lid == lid

/-- A pre-emption applies to the team: not where its death was accepted before the request (R353). -/
def Team.toSave (t : Team) : Bool := match t.dying with | some d => d.inSave | none => true

/-- Teams of a plot that a pre-emption saves. -/
def State.savedTeams (s : State) (p : Plot) : List Team := s.teams.filter fun t => t.plot == p.id && t.toSave

/-- The records that the image of a launch has, and their sizes: none of a plot whose teams are all dying. -/
def State.imageRecords (s : State) (l : Launch) : List (ImageOf × Nat) :=
  (s.plotsOf l.ctx l.lid).flatMap fun p =>
    match s.savedTeams p with
    | [] => []
    | ts => (.plot p.id, plotBytes l.header) ::
        (((s.crews.filter fun c => c.plot == p.id).map fun c => (.crew c.id, crewBytes l.header)) ++
          ts.map fun t => (.team t.tid, teamBytes l.header))

/-- Bytes of the whole image of a launch. -/
def State.launchImage (s : State) (l : Launch) : Nat := ((s.imageRecords l).map Prod.snd).sum

/-- A run of bytes without those of another. -/
def cutRun (used free : Nat × Nat) : List (Nat × Nat) :=
  [(free.1, min free.2 (used.1 - free.1)),
   (max free.1 (used.1 + used.2), free.1 + free.2 - max free.1 (used.1 + used.2))].filter fun r => decide (0 < r.2)

/-- Runs of a context's save area that neither the report ring nor an image takes (R299, R402). -/
def State.freeRuns (s : State) (c : Context) : List (Nat × Nat) :=
  let used := (s.launches.filter fun l => l.ctx == c.id).flatMap fun l => l.image.flatMap ImagePart.runs
  used.foldl (fun free u => free.flatMap (cutRun u)) [(c.saveAddr + 32768, c.saveSize - 32768)]

/-- The first bytes of some runs, and what is left of them. -/
def takeRuns : Nat → List (Nat × Nat) → List (Nat × Nat) × List (Nat × Nat)
  | _, [] => ([], [])
  | n, r :: rest =>
    if n = 0 then ([], r :: rest)
    else if r.2 ≤ n then let x := takeRuns (n - r.2) rest; (r :: x.1, x.2)
    else ([(r.1, n)], (r.1 + n, r.2 - n) :: rest)

/-- Places for records, in order, in free runs. Log entry 96. -/
def placeImage : List (Nat × Nat) → List (ImageOf × Nat) → List ImagePart
  | _, [] => []
  | free, r :: rest => let x := takeRuns r.2 free; { of_ := r.1, runs := x.1 } :: placeImage x.2 rest

/-- The image fits beside those already in the save area, and the report ring (R299). -/
def State.imageFits (s : State) (l : Launch) : Bool :=
  match s.ctx? l.ctx with
  | none => false
  | some c => decide (s.launchImage l ≤ ((s.freeRuns c).map Prod.snd).sum)

/-- Write what an image record holds: its layout is the implementation's, so its bytes are free values. Log entry 59. -/
def State.writeRecord (s : State) (p : ImagePart) : State :=
  p.runs.foldl (fun s r =>
    let d := s.drawBytes r.2
    d.2.homeWriteBy 0 true r.1 d.1) s

/-- Sectors of an image record that are poisoned: place in the record, in sectors, and physical address. -/
def State.poisonedParts (s : State) (p : ImagePart) : List (Nat × Nat) :=
  let sectors := p.runs.flatMap fun r => (List.range (r.2 / 32)).map fun k => r.1 + 32 * k
  (sectors.zipIdx.filter fun x => s.poisoned x.1).map fun x => (x.2, x.1)

/-! ## Requests (R335) -/

/-- The launch of a context's supervisor. -/
def State.isSupLaunch (s : State) (ctx lid : Nat) : Bool :=
  match s.ctx? ctx with
  | none => false
  | some c => (match s.team? c.supervisor with | some t => t.ctx == ctx && t.lid == lid | none => false)

/-- The request reaches the teams of a launch: they stop issuing, every monitor ends with status 2, and the image has its
places (R208, R299, R336 step 1). -/
def State.startSave (s : State) (l : Launch) : State :=
  let mine := fun (t : Team) => t.ctx == l.ctx && t.lid == l.lid
  let hs := (s.teams.filter mine).map Team.tid
  let s1 := { s with
    arms := s.arms.filter fun a => !hs.contains a.tid
    teams := s.teams.map fun t => if mine t then t.endArm 2 else t }
  let image := match s.ctx? l.ctx with | some c => placeImage (s.freeRuns c) (s.imageRecords l) | none => []
  s1.modLaunch l.ctx l.lid fun m =>
    { m with phase := .saving, midPlacement := decide (m.placed < hPlots m.header), image }

/-- A request to pre-empt a launch (R335): a launch whose image does not fit runs on, and the driver is told
(R299). -/
def State.requestPreempt (s : State) (ctx lid : Nat) : State :=
  match s.launch? ctx lid with
  | none => s
  | some l =>
    if s.isSupLaunch ctx lid then s
    else
      match l.phase with
      | .running | .placing =>
        if (s.plotsOf ctx lid).isEmpty then s
        else if s.imageFits l then s.startSave l
        else s.report ctx 4 0 0 0 lid
      | .reserving _ => s.releaseGang ctx lid 0
      | _ => s

/-- Granules that a launch's plots hold on a core. -/
def State.launchGranules (s : State) (l : Launch) (core : Nat) : Nat :=
  (((s.plotsOf l.ctx l.lid).filter fun p => !p.saved && (s.plotCores p).contains core).map Plot.granules).sum

/-- Launches that a head launch may displace (R335): running ones of its context, two priorities below, whose granules
would let its next plot fit. -/
def State.victims (s : State) (l : Launch) : List Launch :=
  s.launches.filter fun v =>
    v.ctx == l.ctx && (match v.phase with | .running | .placing => true | _ => false)
      && !(s.plotsOf v.ctx v.lid).isEmpty && !s.isSupLaunch v.ctx v.lid && decide (hPrio v.header + 2 ≤ hPrio l.header)
      && (List.range Config.cores).any fun c =>
        s.couldHold l.ctx l.header c && s.fitsWith l.header c fun k => s.launchGranules v k

/-- HEADGATE_PREEMPTION (R335): head launch arg.b of context arg.a has waited 20 µs, 32,000 cycles, unplaced; the
youngest launch that would make room and whose image fits is pre-empted; younger ones whose image does not fit are reported
(R299). Log entry 29. -/
def execHeadgatePreemption (s : State) : Host.Outcome State Fault Refusal :=
  .next (match s.launch? s.arg.a s.arg.b with
  | none => s
  | some l =>
    let waits := match l.phase with | .queued | .placing | .reserving _ => true | _ => false
    if waits && s.isHead l && decide (l.since + 32000 ≤ (s.core 0).cyc) then
      let vs := s.victims l
      let best := minBy (fun (v : Launch) => l.seq + 2 ^ 64 - v.seq) (vs.filter s.imageFits)
      let younger := fun (v : Launch) => match best with | some b => decide (b.seq < v.seq) | none => true
      let s1 := (vs.filter fun v => !s.imageFits v && younger v).foldl (fun (s : State) v => s.report v.ctx 4 0 0 0 v.lid) s
      match best with
      | some v => s1.requestPreempt v.ctx v.lid
      | none => s1
    else s)

/-! ## The save (R336) -/

/-- Nothing of a team is under way that the save waits for: accesses, requests, records, instructions in the datapath, the
transform stage and the divider, and what the release buffer held at the team's last release (R317, R336, R390). -/
def State.savable (s : State) (t : Team) : Bool :=
  !(s.ops.any fun o => o.origin.tid == t.tid &&
      (o.lanes.any LaneAcc.open_ || (o.returns && !o.delivered) || (!o.returns && decide (0 < o.unwritten))))
    && !((s.core (coreOf t.tid)).buffer.any fun w => w.tid == t.tid) && !s.bufOpen (coreOf t.tid) (max t.lastMark t.fenceMark)
    && !(s.reqs.any fun r => r.tid == t.tid && r.holds)
    && t.datapath.isNone && t.hadamard.isNone && !s.dividing t

/-- A crew's operation that runs: under `.nosplit` the save waits for it (R244). -/
def State.crewRuns (s : State) (c : Crew) : Option MatrixOp :=
  match s.runningOp (s.crewCore c) with
  | some (d, o) => if d.id = c.id then some o else none
  | none => none

/-- The operation that a crew runs stops at its step boundary, what it has summed rounded into the tiles (R243). -/
def State.splitOp (s : State) (c : Crew) : State :=
  match s.crewRuns c with
  | none => s
  | some o =>
    let s1 := (s.applySteps c o o.step).leaveEngine o (s.crewCore c)
    s1.modCrew c.id fun d =>
      { d with ops := updFirst (fun x => x.id == o.id) (fun x => { x with baseStep := o.step }) d.ops }

/-- A team as it is saved: one that was told to stop is saved as HALTED (R128, R336, R338). Log entry 59. -/
def Team.saved (t : Team) : Team :=
  let u := match t.stop with | some (.stopping _ _ _) => t.haltWith 0 | _ => t
  { u with
    preempted := true, preempts := t.preempts + 1, arrived := none, leaveAtEnd := false
    held := match u.held with | some (.collective, _) => none | h => h }

/-- Plots of a launch that the save has still to take. -/
def State.unsaved (s : State) (ctx lid : Nat) : List Plot :=
  (s.plotsOf ctx lid).filter fun p => !p.saved && !(s.savedTeams p).isEmpty

/-- PREEMPTION_SAVE (R336): with everything of launch arg.b of context arg.a on core arg.c resolved, its state there is saved,
its granules are freed, and its teams are PREEMPTED; with the last core the launch is. -/
def execPreemptionSave (s : State) : Host.Outcome State Fault Refusal :=
  let ctx := s.arg.a
  let lid := s.arg.b
  .next (match s.launch? ctx lid with
  | none => s
  | some l =>
    let saving := match l.phase with | .saving => true | _ => false
    let ids := ((s.unsaved ctx lid).filter fun p => p.core == s.arg.c).map Plot.id
    let mine := fun (t : Team) => ids.contains t.plot && t.toSave
    let crews := s.crews.filter fun c => ids.contains c.plot
    if saving && (s.teams.filter mine).all s.savable
        && !(hNosplit l.header && crews.any fun c => (s.crewRuns c).isSome) then
      let s1 := crews.foldl (fun s c => s.splitOp c) s
      let here := fun (x : ImageOf) => match x with
        | .plot i => ids.contains i
        | .crew i => crews.any fun c => c.id == i
        | .team h => (s.teams.filter mine).any fun t => t.tid == h
      let s2 := (l.image.filter fun p => here p.of_).foldl State.writeRecord s1
      let s3 : State := { s2 with
        teams := s2.teams.map fun (t : Team) => if mine t then t.saved else t
        plots := s2.plots.map fun (p : Plot) => if ids.contains p.id then { p with saved := true } else p }
      if (s3.unsaved ctx lid).isEmpty then s3.modLaunch ctx lid fun m => { m with phase := .preempted } else s3
    else s)

/-! ## The restore (R337, R390) -/

/-- The granules of every plot of a saved launch are free at once on their own cores (R337). -/
def State.restorable (s : State) (l : Launch) : Bool :=
  let ps := (s.plotsOf l.ctx l.lid).filter fun p => p.saved
  (distinct (ps.flatMap s.plotCores)).all fun c =>
    decide (s.usedGranules c + ((ps.filter fun p => (s.plotCores p).contains c).map Plot.granules).sum ≤ Config.granules)

/-- A team comes back in the state it was saved in: ACTIVE if it was and a place is free, PENDING where its park's wake has
occurred (R36), with an acquire at `.dev` (R317); and it takes the trap DEFERRED for what failed during the save (R390). -/
def State.restoreTeam (s : State) (h : Handle) : State :=
  match s.team? h with
  | none => s
  | some t =>
    let back := { t with preempted := false, since := s.now t }
    let room := s.placeFree (coreOf h) (partOf h)
    let back := match back.run with | .active => if room then back else { back with run := .pending } | _ => back
    let s1 := (s.setTeam back).dropCache (coreOf h)
    if back.stop.isSome || back.dying.isSome then s1 else (s1.wakeBack h).takeDeferred h

/-- Some teams consume poison at a physical address in their image (R393). -/
def State.containTeams (s : State) (mine : Team → Bool) (pa : Nat) : State :=
  (s.teams.filter mine).foldl (fun s t => s.contain t 8 pa 0 0) s

/-- What poison in a record of an image does at the restore (R393): a team's, or its crew's, contains it; a plot's poisons
the words of the scratchpad that it holds after its first 256 bytes. Log entry 96. -/
def State.restorePoison (s : State) (p : ImagePart) : State :=
  match s.poisonedParts p with
  | [] => s
  | x :: xs =>
    match p.of_ with
    | .team h => s.containTeams (fun t => t.tid == h) x.2
    | .crew i => s.containTeams (fun t => match s.crewOf t with | some c => c.id == i | none => false) x.2
    | .plot i =>
      let s1 := (x :: xs).foldl (fun (s : State) y =>
        if y.1 < 8 then s else (List.range 8).foldl (fun (s : State) k => s.poisonWord i (.scratch i (32 * (y.1 - 8) + 4 * k))) s) s
      if x.1 < 8 then s1.containTeams (fun t => t.plot == i) x.2 else s1

/-- RESTORE (R337): launch arg.b of context arg.a is restored whole, in its turn, which moves the rotation (R320). -/
def execRestore (s : State) : Host.Outcome State Fault Refusal :=
  let ctx := s.arg.a
  let lid := s.arg.b
  .next (match s.launch? ctx lid with
  | none => s
  | some l =>
    let due := match l.phase with | .preempted => true | _ => false
    let ps := s.plotsOf ctx lid
    if due && s.hasTurn l && s.restorable l && (ps.flatMap s.plotCores).all fun c => (s.before l).all fun m => !s.wants m c then
      let ids := ps.map Plot.id
      let plots := s.plots.map fun (p : Plot) => if ids.contains p.id then { p with saved := false } else p
      let s1 := { s with plots, lastCtx := ctx }.modCtx ctx fun c => { c with lastQueue := l.queue }
      let s2 := s1.modLaunch ctx lid fun m =>
        { m with phase := if m.midPlacement then .placing else .running, midPlacement := false, image := [] }
      let hs := (s2.teams.filter fun (t : Team) => t.ctx == ctx && t.lid == lid && t.preempted).map Team.tid
      let s3 := l.image.foldl State.restorePoison s2
      (hs.foldl (fun (s : State) h => s.restoreTeam h) s3).finishLaunch ctx lid
    else s)

end Sys2Proof.Machine
end

