-- ==== Sys2Proof/Machine/Lms.lean ====
section
/-! DEFINITION. How a die accepts firmware (R406): SHA-256 (FIPS 180-4), and the check of an LMS signature of type LMS_SHA256_M32_H20 with LMOTS_SHA256_N32_W8 (RFC 8554). -/

namespace Sys2Proof.Machine

/-! ## SHA-256 -/

/-- The round constants. -/
def shaK : List Word :=
  [0x428a2f98, 0x71374491, 0xb5c0fbcf, 0xe9b5dba5, 0x3956c25b, 0x59f111f1, 0x923f82a4, 0xab1c5ed5,
   0xd807aa98, 0x12835b01, 0x243185be, 0x550c7dc3, 0x72be5d74, 0x80deb1fe, 0x9bdc06a7, 0xc19bf174] ++
  [0xe49b69c1, 0xefbe4786, 0x0fc19dc6, 0x240ca1cc, 0x2de92c6f, 0x4a7484aa, 0x5cb0a9dc, 0x76f988da,
   0x983e5152, 0xa831c66d, 0xb00327c8, 0xbf597fc7, 0xc6e00bf3, 0xd5a79147, 0x06ca6351, 0x14292967] ++
  [0x27b70a85, 0x2e1b2138, 0x4d2c6dfc, 0x53380d13, 0x650a7354, 0x766a0abb, 0x81c2c92e, 0x92722c85,
   0xa2bfe8a1, 0xa81a664b, 0xc24b8b70, 0xc76c51a3, 0xd192e819, 0xd6990624, 0xf40e3585, 0x106aa070] ++
  [0x19a4c116, 0x1e376c08, 0x2748774c, 0x34b0bcb5, 0x391c0cb3, 0x4ed8aa4a, 0x5b9cca4f, 0x682e6ff3,
   0x748f82ee, 0x78a5636f, 0x84c87814, 0x8cc70208, 0x90befffa, 0xa4506ceb, 0xbef9a3f7, 0xc67178f2]

/-- The initial hash value. -/
def shaInit : List Word :=
  [0x6a09e667, 0xbb67ae85, 0x3c6ef372, 0xa54ff53a, 0x510e527f, 0x9b05688c, 0x1f83d9ab, 0x5be0cd19]

/-- Bytes as one number, the first byte highest. -/
def bigEndian (bs : List Byte) : Nat := bs.foldl (fun n b => n * 256 + b.toNat) 0

/-- The n bytes of a number, the highest first. -/
def bigBytes (n x : Nat) : List Byte := (toBytes n x).reverse

/-- A message padded to blocks of 64 bytes. -/
def shaPad (m : List Byte) : List Byte :=
  m ++ [0x80] ++ List.replicate ((119 - m.length % 64) % 64) 0 ++ bigBytes 8 (8 * m.length)

/-- One more word of the message schedule, which stands youngest first. -/
def shaExtend (w : List Word) : List Word :=
  let x := w.getD 14 0
  let y := w.getD 1 0
  let s0 := x.rotateRight 7 ^^^ x.rotateRight 18 ^^^ (x >>> 3)
  let s1 := y.rotateRight 17 ^^^ y.rotateRight 19 ^^^ (y >>> 10)
  (w.getD 15 0 + s0 + w.getD 6 0 + s1) :: w

/-- One round on the working variables a to h, with its constant and its word of the schedule. -/
def shaRound (v : List Word) (k : Word × Word) : List Word :=
  match v with
  | [a, b, c, d, e, f, g, h] =>
    let s1 := e.rotateRight 6 ^^^ e.rotateRight 11 ^^^ e.rotateRight 25
    let t1 := h + s1 + ((e &&& f) ^^^ (~~~e &&& g)) + k.1 + k.2
    let s0 := a.rotateRight 2 ^^^ a.rotateRight 13 ^^^ a.rotateRight 22
    let t2 := s0 + ((a &&& b) ^^^ (a &&& c) ^^^ (b &&& c))
    [t1 + t2, a, b, c, d + t1, e, f, g]
  | _ => v

/-- The hash value after one block of 64 bytes. -/
def shaBlock (h : List Word) (block : List Byte) : List Word :=
  let w0 := (List.range 16).map fun i => BitVec.ofNat 32 (bigEndian ((block.drop (4 * i)).take 4))
  let w := ((List.range 48).foldl (fun w _ => shaExtend w) w0.reverse).reverse
  (h.zip ((shaK.zip w).foldl shaRound h)).map fun x => x.1 + x.2

/-- The SHA-256 digest of a message, 32 bytes. -/
def sha256 (m : List Byte) : List Byte :=
  let p := shaPad m
  ((List.range (p.length / 64)).foldl (fun h i => shaBlock h ((p.drop (64 * i)).take 64)) shaInit).flatMap
    fun x => bigBytes 4 x.toNat

/-! ## LMS (RFC 8554) -/

/-- Chains of a one-time signature under W8: 32 of the digest, 2 of its checksum. -/
def otsChains : Nat := 34

/-- Levels of the tree under H20. -/
def lmsHeight : Nat := 20

/-- The digits that a one-time signature signs: the message's digest, and the checksum of its bytes. -/
def otsDigits (q : List Byte) : List Nat :=
  (q ++ bigBytes 2 ((q.map fun b => 255 - b.toNat).sum)).map BitVec.toNat

/-- A chain of a one-time signature, carried from step a to its end. -/
def otsChain (id q : List Byte) (i a : Nat) (y : List Byte) : List Byte :=
  (List.range (255 - a)).foldl (fun x k => sha256 (id ++ q ++ bigBytes 2 i ++ bigBytes 1 (a + k) ++ x)) y

/-- The candidate for the one-time public key: id the key identifier, q the leaf in its four bytes, c the randomizer. -/
def otsCandidate (id q c : List Byte) (y : List Byte) (m : List Byte) : List Byte :=
  let d := sha256 (id ++ q ++ [0x81, 0x81] ++ c ++ m)
  let zs := (otsDigits d).zipIdx.flatMap fun x => otsChain id q x.2 x.1 ((y.drop (32 * x.2)).take 32)
  sha256 (id ++ q ++ [0x80, 0x80] ++ zs)

/-- From a leaf's node up to the root: the candidate for the tree's root. -/
def lmsRoot (id path : List Byte) : Nat → Nat → Nat → List Byte → List Byte
  | 0, _, _, x => x
  | n + 1, node, i, x =>
    let p := (path.drop (32 * i)).take 32
    let up := id ++ bigBytes 4 (node / 2) ++ [0x83, 0x83]
    lmsRoot id path n (node / 2) (i + 1) (sha256 (if node % 2 = 1 then up ++ p ++ x else up ++ x ++ p))

/-- A signature of 1,772 bytes over a message verifies against a public key of 56: both type codes on either side, a leaf
within the tree, and the root. -/
def lmsVerifies (key sig m : List Byte) : Bool :=
  let at_ := fun (bs : List Byte) (o n : Nat) => (bs.drop o).take n
  let id := at_ key 8 16
  let q := at_ sig 0 4
  let leaf := bigEndian q
  let path := 4 + 4 + 32 + 32 * otsChains + 4
  let y := at_ sig 40 (32 * otsChains)
  let k := otsCandidate id q (at_ sig 8 32) y m
  let node := 2 ^ lmsHeight + leaf
  decide (key.length = 56) && decide (sig.length = 1772) && bigEndian (at_ key 0 4) == 8 && bigEndian (at_ key 4 4) == 4
    && bigEndian (at_ sig 4 4) == 4 && bigEndian (at_ sig (path - 4) 4) == 8 && decide (leaf < 2 ^ lmsHeight)
    && lmsRoot id (sig.drop path) lmsHeight node 0 (sha256 (id ++ bigBytes 4 node ++ [0x82, 0x82] ++ k)) == at_ key 24 32

/-- A die's ROM accepts an image's signature: it verifies against the public key beside it, and that key against the hash
fused in the die (R406). Log entry 69. -/
def firmwareVerifies (die : Nat) (x : FirmwareImage) : Bool :=
  sha256 x.publicKey == toBytes 32 (Config.fusedKeyHash die).toNat && lmsVerifies x.publicKey x.signature x.bytes

end Sys2Proof.Machine
end

