-- ==== Sys2Proof/Machine/Ras.lean ====
section
/-! DEFINITION. Errors of memory arrays (R291, R377, R395), the rating of cores (R327), timing replays (R371), power and temperature (R410), bring-up (R411), links (R405) and peers' requests (R314, R405). -/

namespace Sys2Proof.Machine

/-! ## Error counters and marks of arrays (R377, R395) -/

/-- The entry of an array, zero where nothing has happened to it. -/
def State.arrayErr (s : State) (a : ArrayId) : ArrayErr :=
  (s.arrayErrs.find? fun (e : ArrayErr) => e.array == a).getD { array := a }

/-- Change the entry of an array. -/
def State.modArray (s : State) (a : ArrayId) (f : ArrayErr → ArrayErr) : State :=
  if s.arrayErrs.any fun (e : ArrayErr) => e.array == a then
    { s with arrayErrs := updFirst (fun (e : ArrayErr) => e.array == a) f s.arrayErrs }
  else { s with arrayErrs := s.arrayErrs ++ [f { array := a }] }

/-- Corrected errors in a window that an array may have, and the accesses of a window (R395). -/
def errorThreshold : Nat × Nat := (64, 2 ^ 20)

/-- An error of an array is corrected (R395). Above the threshold an undervolted array's domain goes back to nominal
margin, and the array is voltage-suspect and watched. -/
def ArrayErr.correct (e : ArrayErr) : ArrayErr :=
  let e1 := { e with corrected := satAdd e.corrected 1, recent := e.recent + 1 }
  if e.undervolted && decide (errorThreshold.1 < e1.recent) then
    { e1 with undervolted := false, suspect := true, watch := true, nominal := 0 }
  else e1

/-- An array is accessed so many times, up to the end of its window (R395): a watched array that ends a window at the
threshold or below is watched no more. -/
def ArrayErr.access (e : ArrayErr) (n : Nat) : ArrayErr :=
  let k := min n (errorThreshold.2 - e.accesses)
  let e1 := { e with accesses := e.accesses + k, nominal := if e.watch then e.nominal + k else e.nominal }
  if e1.accesses < errorThreshold.2 then e1
  else { e1 with accesses := 0, recent := 0, watch := e.watch && decide (errorThreshold.1 < e.recent) }

/-- The power function may lower the domain of an array that is not voltage-suspect (R395). -/
def ArrayErr.lower (e : ArrayErr) : ArrayErr := if e.suspect then e else { e with undervolted := true }

/-- ECC_CORRECTED (R291, R395): an error of array arg.array is corrected in place and counted. -/
def execEccCorrected (s : State) : Host.Outcome State Fault Refusal :=
  .next (s.modArray s.arg.array ArrayErr.correct)

/-- The cores of an array in predictive failure (R395): those of a pool or a slice take no new plots, that of a matrix
engine only launches without one. Slice n is taken to stand with twin n, which lies on its die (R20, R22); log entry
49. -/
def State.failArray (s : State) (a : ArrayId) : State :=
  match a with
  | .pool c => s.modCore c fun k => { k with noPlots := true }
  | .engine c => s.modCore c fun k => { k with engineFailed := true }
  | .slice n =>
    (s.modCore (2 * n) fun k => { k with noPlots := true }).modCore (2 * n + 1) fun k => { k with noPlots := true }
  | .hbm _ _ => s

/-- A report record of each live context (R402): the driver finds it from any of them. -/
def State.reportAll (s : State) (kind addr : Nat) : State :=
  (s.ctxs.filter Context.live).foldl (fun (s : State) c => s.report c.id kind 0 0 addr 0) s

/-- PREDICTIVE_FAILURE (R395): array arg.array has stayed above its threshold at nominal voltage for 2²⁴ accesses. Log
entry 64. -/
def execPredictiveFailure (s : State) : Host.Outcome State Fault Refusal :=
  .next (
    let e := s.arrayErr s.arg.array
    if e.watch && decide (2 ^ 24 ≤ e.nominal) && !e.failed then
      let d := s.drawFree
      ((d.2.modArray s.arg.array fun e => { e with failed := true }).failArray s.arg.array).reportAll 5 d.1.toNat
    else s)

/-- The physical address of a team's record in its launch's saved image (R389). -/
def State.imageAt (s : State) (h : Handle) : Option Nat :=
  (s.launches.flatMap fun l => (l.image.filter fun p => p.of_ == .team h).flatMap ImagePart.runs).head?.map Prod.fst

/-- A unit of storage is poisoned (R291, R393). -/
def State.poisonUnit (s : State) (u : Unit32) : State :=
  match u with
  | .sector pa =>
    if paModule pa == s.moduleNumber.toNat && localHbm (paLocal pa) then { s with poison := addTo (pa / 32) s.poison } else s
  | .reg h r l =>
    match s.team? h with
    | some t => if decide (r < t.regs) && decide (l < t.width) then s.poisonWord t.plot u else s
    | none => s
  | .scratch p o =>
    match s.plot? p with
    | some q =>
      if o < Config.granuleBytes * q.scratchGranules then s.poisonWord p (.scratch p (o / 4 * 4)) else s
    | none => s
  | .image h => match s.imageAt h with | some pa => { s with poison := addTo (pa / 32) s.poison } | none => s
  | .tile c t e =>
    match s.crew? c with
    | some k =>
      if decide (t < k.tileCount) && decide (e < 4096) then
        s.modCrew c fun k => { k with tiles := spWrite {} k.tiles t { spRead {} k.tiles t with poison := addTo e (spRead {} k.tiles t).poison } }
      else s
    | none => s

/-- The stack and the sub-channel of a local address (R288). -/
def subChannel (a : Nat) : Nat × Nat :=
  let d := a / 0x3000000000
  let o := a % 0x3000000000
  let g := o / 256
  (3 * d + g % 3, ((g / 3) ^^^ (o / 65536)) % 64)

/-- The array holds the unit (R277, R288, R291): a sector stands in its sub-channel of HBM4, and in its home slice while that
holds it; words of registers, scratchpads and tiles stand in their core's pool. -/
def State.arrayHolds (s : State) (a : ArrayId) (u : Unit32) : Bool :=
  let inPool := fun (core : Nat) => a == .pool core
  match u with
  | .sector pa => a == .hbm (subChannel (paLocal pa)).1 (subChannel (paLocal pa)).2 || (a == .slice (homeSlice pa) && s.sliceHit pa)
  | .reg h _ _ => inPool (coreOf h)
  | .scratch p _ => match s.plot? p with | some q => inPool q.core | none => false
  | .image h => match s.imageAt h with
    | some pa => a == .hbm (subChannel (paLocal pa)).1 (subChannel (paLocal pa)).2
    | none => false
  | .tile c _ _ =>
    match s.crew? c with
    | some k => match s.plot? k.plot with | some q => inPool q.core | none => false
    | none => false

/-- UNCORRECTABLE_ERROR (R288, R291): unit arg.unit_, which stands in array arg.array, is poisoned, and counted. -/
def execUncorrectableError (s : State) : Host.Outcome State Fault Refusal :=
  .next (if s.arrayHolds s.arg.array s.arg.unit_ then
    (s.modArray s.arg.array fun e => { e with uncorrected := satAdd e.uncorrected 1 }).poisonUnit s.arg.unit_
  else s)

/-! ## Replays, droops and the hot rating (R327, R371) -/

/-- Counters of code 12 count a replay if they take every context's events: it belongs to no context (R376). -/
def State.countReplay (s : State) (core : Nat) : State :=
  s.modCore core fun c =>
    { c with perf := c.perf.map fun p =>
        (p.1, if p.2.code == 12 && p.2.filter.isNone then { p.2 with count := satAdd p.2.count 1 } else p.2) }

/-- TIMING_REPLAY (R371): a cycle of core arg.a lasts two periods; CYC advances by one. -/
def execTimingReplay (s : State) : Host.Outcome State Fault Refusal :=
  .next ((s.modCore s.arg.a fun c =>
    { c with cyc := c.cyc + 1, replays := min (c.replays + 1) (2 ^ 64 - 1) }).countReplay s.arg.a)

/-- DROOP_EVENT (R327, R377): core arg.a counts a voltage droop. -/
def execDroopEvent (s : State) : Host.Outcome State Fault Refusal :=
  .next (s.modCore s.arg.a fun c =>
    { c with droops := BitVec.ofNat 16 (min (c.droops.toNat + 1) 65535), droopTotal := min (c.droopTotal + 1) (2 ^ 64 - 1) })

/-- A window of 65,536 cycles ends (R327): the core becomes hot at 95 degrees or 8 droops; one at 89 degrees or less with
fewer than 2 droops is quiet. -/
def Core.endWindow (c : Core) : Core :=
  let d := c.droops.toNat
  let quiet := decide (c.temp ≤ 89) && decide (d < 2)
  { c with
    hot := c.hot || decide (95 ≤ c.temp) || decide (8 ≤ d)
    quietWindows := if quiet then c.quietWindows + 1 else 0
    lastDroops := d, droops := 0, windowStart := c.windowStart + 65536 }

/-- DROOP_WINDOW_END (R327) of core arg.a. -/
def execDroopWindowEnd (s : State) : Host.Outcome State Fault Refusal :=
  .next (if (s.core s.arg.a).windowStart + 65536 ≤ (s.core s.arg.a).cyc then s.modCore s.arg.a Core.endWindow else s)

/-- Windows that 5 ms hold at the least: at 800 MHz, with every cycle replayed (R327, R371, R410). Log entry 52. -/
def quietNeeded : Nat := 30

/-- HOT_CLEAR_WINDOW (R327): 5 ms of the die controller have passed for core arg.a, with every window in them quiet. -/
def execHotClearWindow (s : State) : Host.Outcome State Fault Refusal :=
  .next (if quietNeeded ≤ (s.core s.arg.a).quietWindows then s.modCore s.arg.a fun c => { c with hot := false } else s)

/-! ## Power and temperature (R410) -/

/-- Dies of the module (R19). -/
def dies : Nat := 4

/-- Degrees of a die's hottest core. -/
def State.hottest (s : State) (die : Nat) : Int :=
  ((List.range Config.coresPerDie).map fun i => (s.core (die * Config.coresPerDie + i)).temp).foldl max
    (s.core (die * Config.coresPerDie)).temp

/-- A die's clock in MHz: 1,600 where nothing has lowered it. -/
def State.clockOf (s : State) (die : Nat) : Nat := spRead 1600 s.clock die

/-- Set a die's clock between 800 and 1,600 MHz. -/
def State.setClock (s : State) (die mhz : Nat) : State :=
  { s with clock := spWrite 1600 s.clock die (max 800 (min 1600 mhz)) }

/-- POWER_CAP_CONTROL (R410): the power averaged over 1 ms is arg.a watts; above the limit every die's clock goes down
by 100 MHz, and at or below it up, but for a die past 105 degrees, when arg.flag says so. -/
def execPowerCapControl (s : State) : Host.Outcome State Fault Refusal :=
  .next (
    if s.powerCap < s.arg.a then
      (List.range dies).foldl (fun (s : State) d => s.setClock d (s.clockOf d - 100)) s
    else if s.arg.flag then
      (List.range dies).foldl (fun (s : State) d =>
        if 105 < s.hottest d then s else s.setClock d (s.clockOf d + 100)) s
    else s)

/-- THERMAL_THROTTLE (R410): die arg.a's hottest core is past 105 degrees. -/
def execThermalThrottle (s : State) : Host.Outcome State Fault Refusal :=
  .next (if 105 < s.hottest s.arg.a then s.setClock s.arg.a (s.clockOf s.arg.a - 100) else s)

/-! ## Power and bring-up (R406, R411) -/

/-- A domain physical address under an exchange of two module numbers. -/
def swapModule (a b pa : Nat) : Nat :=
  if paModule pa = a then b * 2 ^ 46 + paLocal pa else if paModule pa = b then a * 2 ^ 46 + paLocal pa else pa

/-- The module gets a number (R405): its own memory and its host window stand under the new number. Log entry 66. -/
def State.renumber (s : State) (n : BitVec 6) : State :=
  if n = s.moduleNumber then s
  else
    let sw := swapModule s.moduleNumber.toNat n.toNat
    { s with
      moduleNumber := n
      mem := s.mem.foldl (fun m c => memPut m (sw c.1) c.2) []
      poison := s.poison.foldl (fun l k => addTo (sw (32 * k) / 32) l) []
      dcache := s.dcache.map fun l => { l with line := sw (64 * l.line) / 64 }
      covered := s.covered.map fun c => { c with at_ := sw c.at_ }
      posted := s.posted.map fun p => { p with pa := sw p.pa } }

/-- A byte of memory that is not the module's own HBM4. -/
def State.outsideCell (s : State) (c : Host.Cell) : Bool :=
  paModule c.1 != s.moduleNumber.toNat || localHost (paLocal c.1)

/-- What is left of the module with its power gone: outside memory, the monotonic leaf index (R407) and the thermal-trip
status (R410); the rest is as at reset. Log entry 65. -/
def State.powerOff (s : State) : State :=
  let s := s.renumber 0
  { State.reset with
    agenda := s.agenda, cur := s.cur, arg := s.arg, fresh := s.fresh, nextId := s.nextId
    mem := s.mem.filter s.outsideCell, nextLeaf := s.nextLeaf, thermalTrip := s.thermalTrip }

/-- THERMAL_TRIP (R410): a core of die arg.a has reached 115 degrees: the module turns off. -/
def execThermalTrip (s : State) : Host.Outcome State Fault Refusal :=
  .next (if 115 ≤ s.hottest s.arg.a then { s.powerOff with thermalTrip := true } else s)

/-- Every die accepts its firmware image (R406). -/
def firmwareOk (xs : List FirmwareImage) : Bool :=
  xs.length == dies && xs.zipIdx.all fun x =>
    firmwareVerifies x.2 x.1 && decide (Config.fusedMinimum x.2 ≤ x.1.securityVersion)

/-- POWER_GOOD (R406, R411 step 1): power has come back; the die controllers read and verify the images in
arg.images. -/
def execPowerGood (s : State) : Host.Outcome State Fault Refusal :=
  .next { s.powerOff with bringup := .firmware, firmware := if firmwareOk s.arg.images then s.arg.images else [] }

/-- HBM_TRAINING_DONE (R411 step 2): memory is cleared to zero with correct ECC. -/
def execHbmTrainingDone (s : State) : Host.Outcome State Fault Refusal :=
  .next (match s.bringup with
  | .firmware => { s with bringup := .memory, mem := s.mem.filter s.outsideCell, poison := [] }
  | _ => s)

/-- PCIE_LINK_TRAINED (R122, R406, R411 step 3): with every image accepted the link trains, and CYC starts on every
core. -/
def execPcieLinkTrained (s : State) : Host.Outcome State Fault Refusal :=
  .next (match s.bringup with
  | .memory =>
    if s.firmware.length = dies then
      let zero := fun (s : State) (c : Nat) => s.modCore c fun k => { k with cyc := 0, windowStart := 0 }
      { (List.range Config.cores).foldl zero s with bringup := .ready }
    else s
  | _ => s)

/-! ## Luador links (R405, R411) -/

/-- The module has come up to its PCI Express link. -/
def State.ready (s : State) : Bool := match s.bringup with | .ready => true | _ => false

/-- A link that some module's mask names. -/
def State.linkWanted (s : State) (l : Nat) : Bool :=
  decide (l < Config.links) && s.ready && s.feature 11 && s.routes.any fun r => r.2.getLsbD l

/-- Change a link. -/
def State.modLink (s : State) (l : Nat) (f : Link → Link) : State :=
  { s with links := spWrite {} s.links l (f (spRead {} s.links l)) }

/-- LUADOR_LINK_TRAINED (R411 step 5): link arg.a completes its training. -/
def execLuadorLinkTrained (s : State) : Host.Outcome State Fault Refusal :=
  .next (if s.linkWanted s.arg.a then s.modLink s.arg.a fun l => { l with trained := true, failed := false } else s)

/-- LINK_TRAIN_RETRY (R411): untrained link arg.a tries again; arg.flag says that it succeeds. -/
def execLinkTrainRetry (s : State) : Host.Outcome State Fault Refusal :=
  .next (if s.linkWanted s.arg.a then
    s.modLink s.arg.a fun l =>
      if l.trained then l else { l with trained := s.arg.flag, failed := l.failed && !s.arg.flag }
  else s)

/-- LINK_FAILURE (R405): link arg.a fails; what it carried moves to other links and is performed once. -/
def execLinkFailure (s : State) : Host.Outcome State Fault Refusal :=
  .next (if s.arg.a < Config.links then s.modLink s.arg.a fun l => { l with trained := false, failed := true } else s)

/-- LINK_CRC_ERROR (R377, R405): a flit of trained link arg.a is retransmitted and counted. -/
def execLinkCrcError (s : State) : Host.Outcome State Fault Refusal :=
  .next (if s.arg.a < Config.links then
    s.modLink s.arg.a fun l => if l.trained then { l with retries := satAdd l.retries 1 } else l
  else s)

/-- Every sector of a run of local addresses is backed. -/
def localRun (a n : Nat) : Bool := (sectors a n).all fun p => localHbm p.1 || localHost p.1

/-- A piece of an outside write may be performed: one that keeps its place comes after every such piece of an earlier write
(R314). -/
def State.postedReady (s : State) (n : Nat) (p : Posted) : Bool :=
  !p.ordered || (s.posted.take n).all fun q => !q.ordered || q.write == p.write

/-- An outside write's piece is performed at its home slice, if it may be (R312, R314). -/
def State.performPosted (s : State) (n : Nat) : State :=
  match s.posted[n]? with
  | none => s
  | some p =>
    if s.postedReady n p then { s with posted := eraseAt s.posted n }.homeWriteBy p.write p.nc p.pa p.bytes else s

/-- A write from outside is accepted in pieces (R312): the first left of them stay to be performed, the others are
performed now as far as they may be. -/
def State.acceptPieces (s : State) (ordered : Bool) (left : Nat) (ps : List (Nat × List Byte × Bool)) : State :=
  let (w, s1) := s.takeId
  let s2 := { s1 with posted := s1.posted ++ ps.map fun p => { write := w, ordered, pa := p.1, bytes := p.2.1, nc := p.2.2 } }
  (List.range (ps.length - left)).foldl (fun s k => s.performPosted (s1.posted.length + ps.length - 1 - k)) s2

/-- A peer's acquire at `.dom` finds a line that core-local releases have tagged: it waits for the promotion (R308). -/
def State.peerWaits (s : State) (acquire : Bool) (pa n : Nat) : Bool :=
  acquire && (linesOf pa n).any fun l => !(s.tagsOn l Config.cores).isEmpty

/-- A peer's request performed: the reply, none where it is refused (R291, R312, R314, R405). -/
def State.servePeer (s : State) (q : PeerOp) : Option (List Byte) × State :=
  let at_ := fun (a : Nat) => s.moduleNumber.toNat * 2 ^ 46 + a
  match q with
  | .read a n =>
    if localRun a n && !((sectors (at_ a) n).any fun p => s.poisoned p.1) then
      (some (memRead s.mem (at_ a) n), s.touchSlice (at_ a) n false)
    else (none, s)
  | .write a bs =>
    if localRun a bs.length then
      (some [], s.acceptPieces false s.arg.c ((sectors (at_ a) bs.length).map fun p => (p.1, (bs.drop (p.1 - at_ a)).take p.2, false)))
    else (none, s)
  | .atomic aop fmt w64 a x y =>
    let F := fmtOf fmt.toNat w64.toNat
    let n := F.width / 8
    if localHbm a && a % max 1 n == 0 && decide (4 ≤ n) && decide (aop.toNat ≤ 7) && !s.poisoned (at_ a) then
      let old := ofBytes (memRead s.mem (at_ a) n)
      let r := applyAtomic aop.toNat F old (x.toNat % 2 ^ F.width) (y.toNat % 2 ^ F.width)
      (some (toBytes n old ++ [r.2]), s.homeWrite (at_ a) (toBytes n r.1))
    else (none, s)

/-- The bytes that a peer's request reads: none of a write. -/
def peerReads : PeerOp → Nat × Nat
  | .read a n => (a, n)
  | .write _ _ => (0, 0)
  | .atomic _ fmt w64 a _ _ => (a, (fmtOf fmt.toNat w64.toNat).width / 8)

/-- PEER_REQUEST (R308, R314, R405): request arg.peer from module arg.a is performed at its home slice, or refused: the mask
of that module on this one must not be empty. arg.flag says that it is an acquire, which may have to wait; arg.c says how
many pieces of a write are still to be performed. Log entry 72. -/
def execPeerRequest (s : State) : Host.Outcome State Fault Refusal :=
  .next (
    let at_ := peerReads s.arg.peer
    if s.peerWaits s.arg.flag (s.moduleNumber.toNat * 2 ^ 46 + at_.1) at_.2 then s else
    let ok := s.ready && s.feature 11 && s.arg.a != s.moduleNumber.toNat && decide (s.arg.a < 64)
      && spRead (0 : BitVec 18) s.routes s.arg.a != 0
    let r := if ok then s.servePeer s.arg.peer else (none, s)
    { r.2 with peerReply := r.1 })

end Sys2Proof.Machine
end

