-- ==== Sys2Proof/Machine/Service.lean ====
section
/-! DEFINITION. The retry ring and the store-fault ring (R324, R325, R385 to R388), their service by the supervisor (R275, R316), and the invalidation ring (R297). -/

namespace Sys2Proof.Machine

/-! ## Headers and places (R324, R384) -/

/-- Q offset of retry-ring entry i. -/
def retryOff (i : Nat) : Nat := 64 + 24576 * i

/-- Q offset of the store-fault header. -/
def sfHeader : Nat := 0x1800040

/-- Q offset of store-fault record k. -/
def sfOff (k : Nat) : Nat := sfHeader + 64 + 64 * (k % 4096)

/-- Write a context's retry-ring header. Log entry 61. -/
def State.retryHeader (s : State) (ctx : Nat) : State :=
  match s.ctx? ctx with
  | none => s
  | some c =>
    s.qWrite ctx 0 (dwordBytes [c.written, c.popped, c.resolved, sfHeader * 2 ^ 32 + 1024, c.heldCount, 0, 0, 0])

/-- Write a context's store-fault header. -/
def State.storeHeader (s : State) (ctx : Nat) : State :=
  match s.ctx? ctx with
  | none => s
  | some c => s.qWrite ctx sfHeader (dwordBytes [c.sfWritten, c.sfPopped, c.sfResolved, 4096, c.sfHeld, 0, 0, 0])

/-- The ring that a fault goes to is full (R325). -/
def Context.ringFull (c : Context) (store : Bool) : Bool :=
  if store then decide (4096 ≤ c.sfWritten - c.sfResolved) else decide (1024 ≤ c.written - c.resolved)

/-- The lowest-indexed free slot at or after WRITTEN mod 1,024, wrapping round (R325). -/
def Context.freeSlot (c : Context) : Option Nat :=
  ((List.range 1024).map fun i => (c.written + i) % 1024).find? fun i =>
    !(c.retry.any fun e => e.poppable && e.slot == i)

/-! ## Entries (R385) and records (R387) -/

/-- The first 256 bytes of an entry: its table and MASK. -/
def Held.head (e : Held) : List Byte :=
  let eng := decide (3 ≤ e.originCode)
  let o := e.origin
  dwordBytes (
    [o.tid.toNat * 2 ^ 32 + o.lid, o.pc.toNat, o.iword.toNat,
     o.lit.toNat * 2 ^ 32 + e.cause * 2 ^ 24 + e.originCode * 2 ^ 20 + o.issue * 2 ^ 14
       + (if eng then 0 else e.lanes.length),
     e.page, if eng then 0 else e.dest, if eng then e.engAddr else 0, 0]
    ++ maskDwords (if eng then 0 else maskOf e.lanes) ++ List.replicate 8 0)

/-- What is written of an entry: offsets in it, and bytes. Lane data stands only for lanes of MASK. -/
def Held.parts (e : Held) : List (Nat × List Byte) :=
  (0, e.head) :: (20736, List.replicate 3840 0) ::
    (e.offs.map fun x => (256 + 4 * x.1, toBytes 4 x.2)) ++
    (e.opnds.map fun x => (4352 + 16 * x.1, toBytes 8 x.2.1.toNat ++ toBytes 8 x.2.2.toNat)) ++
    (e.snapshot.map fun x => (4352 + 4 * x.1, toBytes 4 x.2.toNat))

/-- The bytes of a store-fault record: the team may be gone, or killed, by now (R387). -/
def Held.record (s : State) (e : Held) : List Byte :=
  let o := e.origin
  let killed := match s.team? o.tid with
    | some t => (match t.dying with | some d => d.killed | none => false)
    | none => s.exited.any fun x => x.tid == o.tid && x.killed
  let gone := (s.team? o.tid).isNone
  dwordBytes
    [o.tid.toNat * 2 ^ 32 + o.lid, o.pc.toNat, e.engAddr,
     e.cause * 2 ^ 56 + e.lane * 2 ^ 46 + o.issue * 2 ^ 40 + (if killed then 2 ^ 33 else 0)
       + (if gone then 2 ^ 32 else 0) + e.lanes.length,
     o.iword.toNat, 0, 0, 0]

/-- One fault of an operation has been written: an operation without another one left, and without an entry, ends. -/
def State.faultWritten (s : State) (e : Held) : State :=
  let s1 := s.modOp e.opId fun o => { o with unwritten := o.unwritten - 1 }
  match s1.op? e.opId with
  | some o => if e.store && o.unwritten = 0 then s1.endOp o else s1
  | none => s1

/-- A fault finds its ring full: HELD counts it once (R325). -/
def State.countHeld (s : State) (ctx i : Nat) (e : Held) : State :=
  if e.counted then s
  else
    let s1 := s.modCtx ctx fun c =>
      let c1 := { c with held := updAt (fun (x : Held) => { x with counted := true }) c.held i }
      if e.store then { c1 with sfHeld := c.sfHeld + 1 } else { c1 with heldCount := c.heldCount + 1 }
    if e.store then s1.storeHeader ctx else s1.retryHeader ctx

/-- A record's turn among those of its team's stores has come: an earlier store of the team is not on its way
(R388). -/
def State.recordDue (s : State) (e : Held) : Bool :=
  !e.store || !(s.ops.any fun o => o.origin.tid == e.origin.tid && decide (o.id < e.opId) &&
    (match o.kind with | .store => true | _ => false))

/-- A fault that arose before one and waits for room in the same ring goes first (R325). -/
def State.heldBefore (s : State) (c : Context) (i : Nat) (store : Bool) : Bool :=
  (c.held.take i).any fun x => x.store == store && x.counted && s.recordDue x

/-- Fault arg.b of context arg.a is written to its ring, or found to have no room there. -/
def writeFault (store : Bool) (put : State → Context → Nat → Held → State) (s : State) : State :=
  match s.ctx? s.arg.a with
  | none => s
  | some c =>
    match c.held[s.arg.b]? with
    | none => s
    | some e =>
      if e.store != store || !s.recordDue e then s
      else if c.ringFull store then s.countHeld c.id s.arg.b e
      else if s.heldBefore c s.arg.b store then s
      else
        let s1 := s.modCtx c.id fun c => { c with held := eraseAt c.held s.arg.b }
        (put s1 c s.arg.b e).faultWritten e

/-- Put an entry into a slot: the lane data and the entry first, then WRITTEN with a release at `.dev` (R324, R386).
An entry that cannot be written is dropped and reported, and its team stays as it is (R384). -/
def putEntry (s : State) (c : Context) (_ : Nat) (e : Held) : State :=
  match c.freeSlot with
  | none => s
  | some i =>
    let r : RetryEntry := { slot := i, origin := e.originCode, tid := e.origin.tid, opId := e.opId, lanes := e.lanes }
    match s.qFault c.id (retryOff i) 24576 with
    | some f =>
      (s.modCtx c.id fun c => { c with retry := c.retry ++ [{ r with poppable := false }] }).report c.id 9 f.cause 0
        (retryOff i) 0
    | none =>
      let s1 := e.parts.foldl (fun (s : State) p => s.qWrite c.id (retryOff i + p.1) p.2) s
      (s1.modCtx c.id fun c =>
        { c with retry := c.retry ++ [r], retryOrder := c.retryOrder ++ [i], written := c.written + 1 }).retryHeader
        c.id |>.countPerf e.origin.core c.id 9 1

/-- RETRY_ENTRY_WRITE (R190, R325, R385): fault arg.b of those that wait in context arg.a is written as an entry. -/
def execRetryEntryWrite (s : State) : Host.Outcome State Fault Refusal := .next (writeFault false putEntry s)

/-- Put a record at the index that WRITTEN gives. -/
def putRecord (s : State) (c : Context) (_ : Nat) (e : Held) : State :=
  let at_ := sfOff c.sfWritten
  match s.qFault c.id at_ 64 with
  | some f => s.report c.id 9 f.cause 0 at_ 0
  | none =>
    ((s.qWrite c.id at_ (e.record s)).modCtx c.id fun c => { c with sfWritten := c.sfWritten + 1 }).storeHeader c.id

/-- STORE_FAULT_RECORD_WRITE (R196, R325, R387): fault arg.b of those that wait in context arg.a is written as a
record. -/
def execStoreFaultRecordWrite (s : State) : Host.Outcome State Fault Refusal := .next (writeFault true putRecord s)

/-! ## RRPOP and SFPOP (R275) -/

/-- All ones: there is none. -/
def noEntry : Dword := 0xFFFFFFFFFFFFFFFF#64

/-- RRPOP: the oldest entry not yet popped; an acquire (R324). -/
def execRrpop (f : VFields) (s : State) : Host.Outcome State Fault Refusal :=
  issueV 0x290 f s fun s t _ =>
    let d := BitVec.ofNat 7 f.vd.toNat
    let s0 := s.acquireAt (coreOf t.tid) 4
    match s.ctx? t.ctx with
    | none => s0.retireS t [(d, noEntry)]
    | some c =>
      match c.retryOrder with
      | [] => s0.retireS t [(d, noEntry)]
      | i :: rest =>
        let s1 := (s0.modCtx c.id fun c => { c with retryOrder := rest, popped := c.popped + 1 }).retryHeader c.id
        s1.retireS (s1.catchUp t) [(d, dw (retryOff i))]

/-- SFPOP: the record that the previous one returned is freed, and the oldest one left is returned; an acquire. -/
def execSfpop (f : VFields) (s : State) : Host.Outcome State Fault Refusal :=
  issueV 0x293 f s fun s t _ =>
    let d := BitVec.ofNat 7 f.vd.toNat
    let s0 := s.acquireAt (coreOf t.tid) 4
    match s.ctx? t.ctx with
    | none => s0.retireS t [(d, noEntry)]
    | some c =>
      let more := decide (c.sfPopped < c.sfWritten)
      let s1 := (s0.modCtx c.id fun c =>
        { c with sfResolved := c.sfPopped, sfPopped := if more then c.sfPopped + 1 else c.sfPopped }).storeHeader c.id
      s1.retireS (s1.catchUp t) [(d, if more then dw (sfOff c.sfPopped) else noEntry)]

/-! ## RPUT (R250, R275) -/

/-- The entry that a Q offset names, unless it is resolved. -/
def Context.entryAt (c : Context) (off : Dword) : Option RetryEntry :=
  c.retry.find? fun e => e.poppable && retryOff e.slot == off.toNat

/-- Write a value into a lane of an operation's destination: a scalar register whole, one word of a 32-bit lane, two
words of a wider one; KIND 2 weirs see the delivery (R358). A RED has no destination. -/
def State.putValue (s : State) (o : MemOp) (a : LaneAcc) (x : Dword) : State :=
  match o.kind with
  | .red => s
  | _ =>
    let b := { a with bytes := toBytes (if o.scalar || decide (8 ≤ o.size) then 8 else 4) x.toNat }
    if o.scalar then
      let r := if o.overwritten.isEmpty then (true, s) else s.drawBool
      (if r.1 then r.2.modTeam o.origin.tid fun t => t.setS o.dest x else r.2).deliveryWeirs o
        [{ b with bytes := b.bytes.take o.size }]
    else (s.writeDest o [b]).deliveryWeirs o [b]

/-- Until its team has waited on the operation's flag, what RPUT wrote reads as an undefined value (R109). -/
def State.noteRput (s : State) (o : MemOp) (l : Nat) : State :=
  match o.kind with
  | .red => s
  | _ =>
    { s with rputs := s.rputs ++ o.destRegs.map fun r =>
        { tid := o.origin.tid, flag := o.flag, opId := o.id, scalar := o.scalar, reg := r, lane := if o.scalar then 0 else l } }

/-- The pending entry of a gleaner command has a lane still to be fetched or written. -/
def State.pendingLane (s : State) (e : RetryEntry) (l : Nat) : Option Glean :=
  match s.gleanHead e.tid with
  | none => none
  | some g =>
    if g.id == e.opId && (match g.pending with | some p => p.todo.any fun x => x.1 == l | none => false) then some g
    else none

/-- RPUT: a lane of an entry's operation, or of the pending gleaner entry. Log entry 62. -/
def execRput (f : VFields) (s : State) : Host.Outcome State Fault Refusal :=
  issueV 0x291 f s fun s t v =>
    let l := (v.getS f.vb.toNat).toNat
    let x := v.getS f.vc.toNat
    match s.ctx? t.ctx with
    | none => s.illegal t
    | some c =>
      match c.entryAt (v.getS f.va.toNat) with
      | none => s.illegal t
      | some e =>
        if e.origin = 3 then
          match s.pendingLane e l with
          | none => s.illegal t
          | some g =>
            let put := fun (p : GleanEntry) =>
              { p with words := putSlice p.words l (x.setWidth 32), todo := p.todo.filter fun y => !(y.1 == l) }
            (s.modGlean e.tid g.id fun (y : Glean) => { y with pending := y.pending.map put }).retire t
        else if e.lanes.contains l then
          match s.op? e.opId with
          | none => s.retire t
          | some o =>
            match o.lanes.find? fun a => a.lane == l with
            | none => s.retire t
            | some a =>
              let s1 := (s.putValue o a x).modOp o.id fun q => q.modLane l fun b => { b with resolved := true }
              (s1.noteRput o l).retire t
        else s.illegal t

/-! ## RDONE (R275, R316, R386) -/

/-- An operation has nothing left to be resolved: it ends, and a faulted acquire no longer holds its team. -/
def State.endIfResolved (s : State) (id : Nat) : State :=
  match s.op? id with
  | none => s
  | some o =>
    let left := match s.ctx? o.origin.ctx with
      | some c => (c.retry.any fun e => e.opId == id) || c.held.any fun e => e.opId == id
      | none => false
    if left then s
    else
      ((s.modTeam o.origin.tid fun t =>
        if t.acquireFault = some id then { t with acquireFault := none } else t).endOp o).rputsSeen fun r =>
          r.opId == id && r.flag.isNone

/-- The operation with some lanes to be performed again. -/
def MemOp.reopen (o : MemOp) (ls : List Nat) : MemOp :=
  { o with lanes := o.lanes.map fun a =>
      if ls.contains a.lane then
        { a with fault := none, resolved := false, pieces := a.pieces.map fun p => { p with done := false } }
      else a }

/-- The lanes of an entry can be performed now: what precedes them in program order has been performed, and nothing
stands in a release buffer that they must find (R191, R308, R316). -/
def State.replayReady (s : State) (o : MemOp) (ls : List Nat) : Bool :=
  let q := o.reopen ls
  let atomic := match o.kind with | .load | .probe => false | _ => true
  (q.lanes.filter fun a => ls.contains a.lane).all fun a => a.pieces.all fun p =>
    s.pieceReady q a p && !s.mustPromote (coreOf o.origin.tid) o.scope o.isAcquire (s.pieceAt o a p) &&
      !(atomic && (match s.pieceAt o a p with
        | some (false, pa) => s.bufMeets (coreOf o.origin.tid) pa p.len
        | _ => false))

/-- `.replay` of an entry of loads or atomics: each lane is performed once; lanes that fault again make new faults,
and the others deliver. -/
def State.replayOp (s : State) (o : MemOp) (ls : List Nat) : State :=
  let s1 := s.modOp o.id fun q => q.reopen ls
  let s2 : State := match o.kind with
    | .load | .probe =>
      (o.allPieces.filter fun (x : Nat × Nat) => ls.contains x.1).foldl (fun (s : State) x => s.samplePiece o.id s.arg.flag x) s1
    | _ => ls.foldl (fun (s : State) l => s.atomicLane o.id l) s1
  match s2.op? o.id with
  | none => s2
  | some q =>
    let mine := q.lanes.filter fun a => ls.contains a.lane
    let good := mine.filter fun a => a.fault.isNone
    let s3 := if q.returns && !good.isEmpty then (s2.writeDest q good).deliveryWeirs q good else s2
    let s4 := if q.isAcquire then s3.acquireAt (coreOf q.origin.tid) q.scope else s3
    let again := (faultPages mine).map q.heldFor
    (s4.modCtx q.origin.ctx fun c => { c with held := c.held ++ again }).modOp q.id fun r =>
      { r with unwritten := r.unwritten + again.length }

/-- An entry of loads or atomics is resolved: `.done` 0, `.replay` 1, `.abandon` 2, whose lanes receive all ones. -/
def State.resolveOp (s : State) (mode : Nat) (e : RetryEntry) : State :=
  match s.op? e.opId with
  | none => s
  | some o =>
    let mine := o.lanes.filter fun a => e.lanes.contains a.lane
    let mark := fun (s : State) => mine.foldl (fun (s : State) (a : LaneAcc) =>
      s.modOp o.id fun q => q.modLane a.lane fun (b : LaneAcc) => { b with resolved := true }) s
    let s1 := match mode with
      | 0 => mark s
      | 1 => s.replayOp o e.lanes
      | _ =>
        let full := mine.map fun (a : LaneAcc) => { a with bytes := List.replicate o.size 0xFF#8 }
        mark (if o.returns then s.writeDest o full else s)
    s1.endIfResolved e.opId

/-- A snapshot's entry is resolved: the hardware writes what remained, or nothing further is written (R260). -/
def State.resolveSnap (s : State) (mode : Nat) (k : Snap) : State :=
  let mod := fun (s : State) (f : Snap → Snap) => { s with snaps := updFirst (fun x => x.id == k.id) f s.snaps }
  if mode = 1 then
    match s.writeSnap k.origin k.va.toNat k.done k.values with
    | (s1, n, none) => mod s1 fun x => { x with done := n, resolved := true }
    | (s1, n, some f) => (mod s1 fun x => { x with done := n }).snapFault { k with done := n } f
  else mod s fun x => { x with resolved := true }

/-- An entry of the copy engine, the baler, the confluence engine or RSNAP is resolved. -/
def State.resolveOther (s : State) (mode : Nat) (e : RetryEntry) : State :=
  match s.copies.find? fun k => k.id == e.opId with
  | some k =>
    if mode = 1 then
      { s with copies := updFirst (fun (x : Copy) => x.id == k.id) (fun x => { x with stopped := false }) s.copies }
    else s.finishCopy (match k.done with | .word _ => { k with done := .flag none } | _ => k)
  | none =>
    match s.bales.find? fun k => k.id == e.opId with
    | some k => if mode = 1 then s.modBale k.id fun x => { x with stopped := false } else s.finishBale k.id
    | none =>
      match s.colls.find? fun k => k.id == e.opId with
      | some k => if mode = 1 then s.modColl k.id fun x => { x with stopped := false } else s.finishColl k
      | none =>
        match s.snaps.find? fun k => k.id == e.opId with
        | some k => s.resolveSnap mode k
        | none => s

/-- An engine's entry is resolved: the command goes on, or ends as finished with nothing further written; after
`.done` nothing remains to be written. A gleaner command goes on with its next entry after `.done`. -/
def State.resolveEngine (s : State) (mode : Nat) (e : RetryEntry) : State :=
  match s.gleanHead e.tid with
  | some g =>
    if g.id == e.opId then
      if mode = 2 then s.finishGlean g
      else
        s.modGlean e.tid g.id fun (x : Glean) =>
          { x with
            stopped := false
            pending := if mode = 0 then x.pending.map fun p => { p with todo := [] } else x.pending }
    else s.resolveOther mode e
  | none => s.resolveOther mode e

/-- The entry is freed, and RESOLVED counts it (R324). -/
def State.freeEntry (s : State) (ctx : Nat) (e : RetryEntry) : State :=
  (s.modCtx ctx fun c =>
    { c with
      retry := c.retry.filter fun x => !(x.poppable && x.slot == e.slot)
      retryOrder := c.retryOrder.filter fun i => i != e.slot
      resolved := c.resolved + 1 }).retryHeader ctx

/-- The team leaves PARKED once no entry for the instruction or command remains; its next instruction is an acquire at
`.dev`, so that its core's load cache is dropped (R316). -/
def State.wakeResolved (s : State) (ctx : Nat) (e : RetryEntry) : State :=
  let left := match s.ctx? ctx with
    | some c => (c.retry.any fun x => x.opId == e.opId) || c.held.any fun x => x.opId == e.opId
    | none => false
  if left then s
  else (s.dropCache (coreOf e.tid)).notify e.tid (fun p => match p with | .retry => true | _ => false) .done

/-- RDONE: a release at `.dev` (R316); then the entry is freed and its operation goes on or ends. -/
def rdone (mode : Nat) (f : VFields) (s : State) : Host.Outcome State Fault Refusal :=
  issueV 0x292 f s fun s t v =>
    match s.ctx? t.ctx with
    | none => s.illegal t
    | some c =>
      match c.entryAt (v.getS f.va.toNat) with
      | none => s.illegal t
      | some e =>
        let ready := match s.op? e.opId with | some o => s.replayReady o e.lanes | none => true
        if !s.releaseReady t 4 then s.holdAt t (.release 4)
        else if mode == 1 && !ready then s.holdAt t (.replay e.opId e.lanes)
        else
          let s1 := s.freeEntry c.id e
          let s2 := if e.origin < 3 then s1.resolveOp mode e else s1.resolveEngine mode e
          let s3 := s2.wakeResolved c.id e
          match s3.team? t.tid with
          | some u => s3.retire u
          | none => s3

/-- RDONE.done. -/
def execRdoneDone (f : VFields) (s : State) : Host.Outcome State Fault Refusal := rdone 0 f s
/-- RDONE.replay. -/
def execRdoneReplay (f : VFields) (s : State) : Host.Outcome State Fault Refusal := rdone 1 f s
/-- RDONE.abandon. -/
def execRdoneAbandon (f : VFields) (s : State) : Host.Outcome State Fault Refusal := rdone 2 f s

/-! ## The invalidation ring (R297) -/

/-- Q offset of the invalidation ring of a context. -/
def Context.invRing (c : Context) : Nat := c.qLimit.toNat - 65536

/-- Some access that uses a translation of the context is under way: a request at a home slice, or a write in a
release buffer. Log entry 63. -/
def State.translating (s : State) (ctx : Nat) : Bool :=
  (s.reqs.any fun r => match s.team? r.tid with | some t => t.ctx == ctx | none => false) ||
    s.cores.any fun c => c.2.buffer.any fun w => w.ctx == ctx

/-- Drop a context's translations that overlap a range of addresses in every core's cache, and every line of every
core's load cache. -/
def State.invalidate (s : State) (ctx lo n : Nat) : State :=
  let keep := fun (e : TlbEntry) => !(e.ctx == ctx && decide (e.va < lo + n) && decide (lo < e.va + e.size))
  { s with cores := (s.cores.map fun (p : Nat × Core) =>
      (p.1, { p.2 with
        tlb := p.2.tlb.filter keep, cache := []
        first := (p.2.first.map fun (q : Nat × List TlbEntry) => (q.1, q.2.filter keep)).filter fun q => !q.2.isEmpty
        })).filter fun p => decide (p.2 ≠ {}) }

/-- An entry of the ring has been dealt with: STATUS, HEAD, DONE. -/
def State.invDoneWith (s : State) (c : Context) (entry status : Nat) : State :=
  let head := (c.invHead + 1) % 2046
  let s1 := s.qWrite c.id (entry + 24) (toBytes 8 status)
  let s2 := s1.modCtx c.id fun c => { c with invHead := head, invDone := c.invDone + 1 }
  (s2.qWrite c.id (c.invRing + 8) (toBytes 8 head)).qWrite c.id (c.invRing + 16) (toBytes 8 (c.invDone + 1))

/-- INVALIDATION_ENTRY: the entry at HEAD of context arg.a's ring is processed. VA and LEN keep their rules under OP 2 too. Log
entry 63. -/
def execInvalidationEntry (s : State) : Host.Outcome State Fault Refusal :=
  .next (match s.ctx? s.arg.a with
  | none => s
  | some c =>
    if s.qDword c.id c.invRing % 2 ^ 32 = c.invHead then s
    else
      let entry := c.invRing + 64 + 32 * c.invHead
      let op := s.qDword c.id entry % 16
      let va := s.qDword c.id (entry + 8)
      let len := s.qDword c.id (entry + 16)
      let bad := (op != 1 && op != 2) || va % 4096 != 0 || len % 4096 != 0 || len == 0
      if bad then s.invDoneWith c entry 1
      else if s.translating c.id then s
      else (if op = 2 then s.invalidate c.id 0 (2 ^ 64) else s.invalidate c.id va len).invDoneWith c entry 0)

end Sys2Proof.Machine
end

