-- ==== Sys2Proof/Machine/HostCmd.lean ====
section
/-! DEFINITION. The host's side (R397 to R404, R408, R410): mailboxes and their commands, contexts as they are built and destroyed, counters, attestation, and accesses through BAR2. -/

namespace Sys2Proof.Machine

/-! ## Mailboxes (R398) -/

/-- A function's mailbox. -/
def State.mailbox (s : State) (fn : Nat) : Mailbox := spRead {} s.mailboxes fn

/-- Put a function's mailbox. -/
def State.setMailbox (s : State) (fn : Nat) (m : Mailbox) : State := { s with mailboxes := spWrite {} s.mailboxes fn m }

/-- An argument of a command. -/
def Mailbox.arg (m : Mailbox) (n : Nat) : Dword := spRead 0 m.args n

/-- What a command comes to: its status, and its result where it has one; or it goes on. -/
structure Reply where
  state : State
  status : Nat := 0
  result : Option Dword := none
  pending : Bool := false

/-- A command is refused. -/
def refuse (s : State) (status : Nat) : Reply := { state := s, status }

/-- The host submits a command on function arg.a with TAG arg.tag; its arguments stand in the mailbox. GO while BUSY is
ignored. A command of the physical function is refused with status 2 on another. RESULT is a free value where the
manual gives none. Log entry 7. -/
def hostCommand (op : Nat) (pf : Bool) (act : State → Mailbox → Reply) (s : State) : Host.Outcome State Fault Refusal :=
  .next (
    let fn := s.arg.a
    let m := s.mailbox fn
    if !s.ready || decide (64 < fn) || m.busy then s
    else
      let m1 := { m with op := BitVec.ofNat 8 op, tag := s.arg.tag, cmdTag := s.arg.tag, busy := true }
      let s1 := s.setMailbox fn m1
      let r := if pf && fn != 0 then refuse s1 2 else act s1 m1
      if r.pending then r.state
      else
        match r.result with
        | some x => r.state.mailboxDone fn r.status x
        | none => let d := r.state.drawFree; d.2.mailboxDone fn r.status d.1)

/-- A context in use. -/
def State.live? (s : State) (c : Nat) : Option Context :=
  match s.ctx? c with
  | some x => if x.live then some x else none
  | none => none

/-- The context that a command acts on: ARG4's on the physical function, else the function's own (R397, R399). -/
def State.cmdCtx (s : State) (m : Mailbox) : Option Context :=
  if s.arg.a = 0 then (if (m.arg 4).toNat < 64 then s.live? (m.arg 4).toNat else none) else s.live? (s.arg.a - 1)

/-- A command on a context: status 3 where there is none. Log entry 67. -/
def onContext (act : State → Mailbox → Context → Reply) (s : State) (m : Mailbox) : Reply :=
  match s.cmdCtx m with
  | none => refuse s 3
  | some c => act s m c

/-- The command codes of R399. -/
def knownOps : List Nat :=
  [0x01, 0x02, 0x03, 0x0F, 0x10, 0x11, 0x12, 0x20, 0x21, 0x30, 0x40, 0x41, 0x50, 0x60]

/-- MAILBOX_REGISTER_WRITE (R398): the host writes arg.value to dword arg.b of function arg.a's mailbox. An unknown OP
with GO ends with status 1; a known one is its command's own event. -/
def execMailboxRegisterWrite (s : State) : Host.Outcome State Fault Refusal :=
  .next (
    let fn := s.arg.a
    let m := s.mailbox fn
    let v := s.arg.value
    let op := dbits v 63 56
    let tag := BitVec.ofNat 16 (dbits v 47 32)
    if !s.ready || decide (64 < fn) then s
    else if s.arg.b = 0 then
      if !bit v.toNat 0 then s.setMailbox fn { m with op := BitVec.ofNat 8 op, tag }
      else if m.busy || knownOps.contains op then s
      else
        let d := (s.setMailbox fn { m with op := BitVec.ofNat 8 op, tag, cmdTag := tag }).drawFree
        d.2.mailboxDone fn 1 d.1
    else if s.arg.b ≤ 6 then s.setMailbox fn { m with args := spWrite 0 m.args (s.arg.b - 1) v }
    else s)

/-! ## Features, domain, core sets -/

/-- FEAT_READ (R399, R403). -/
def execFeatRead (s : State) : Host.Outcome State Fault Refusal :=
  hostCommand 0x01 false (fun s m =>
    if 3 < (m.arg 0).toNat then refuse s 3
    else { state := s, result := some (dw (Config.offered.toNat / 2 ^ (64 * (m.arg 0).toNat))) }) s

/-- FEAT_ACCEPT (R403): once, and before any context exists. -/
def execFeatAccept (s : State) : Host.Outcome State Fault Refusal :=
  hostCommand 0x02 true (fun s m =>
    if s.accepted.isSome || s.ctxs.any Context.live then refuse s 2
    else
      let v := (List.range 4).foldl (fun a i => a + (m.arg i).toNat * 2 ^ (64 * i)) 0
      { state := { s with accepted := some (BitVec.ofNat 256 v &&& Config.offered) } }) s

/-- DOMAIN_SET (R405). -/
def execDomainSet (s : State) : Host.Outcome State Fault Refusal :=
  hostCommand 0x03 true (fun s m =>
    if 64 ≤ (m.arg 0).toNat ∨ 64 ≤ (m.arg 1).toNat ∨ 2 ^ Config.links ≤ (m.arg 2).toNat then refuse s 3
    else
      let s1 := s.renumber ((m.arg 0).setWidth 6)
      { state := { s1 with routes := spWrite 0 s1.routes (m.arg 1).toNat ((m.arg 2).setWidth 18) } }) s

/-- CORESET (R326, R399). -/
def execCoreset (s : State) : Host.Outcome State Fault Refusal :=
  hostCommand 0x12 true (fun s m =>
    if 64 ≤ (m.arg 0).toNat then refuse s 3
    else
      let mask := (m.arg 1).toNat + (m.arg 2).toNat * 2 ^ 64 + (m.arg 3).toNat * 2 ^ 128
      { state := { s with coresets := spWrite 0 s.coresets (m.arg 0).toNat (BitVec.ofNat 192 mask) } }) s

/-- POWER_CAP (R410). -/
def execPowerCap (s : State) : Host.Outcome State Fault Refusal :=
  hostCommand 0x60 true (fun s m =>
    let w := (m.arg 0).toNat
    if 1500 ≤ w ∧ w ≤ 3600 then { state := { s with powerCap := w } } else refuse s 3) s

/-! ## Contexts (R399, R400) -/

/-- Put a context in the place of one with its number. -/
def State.putCtx (s : State) (c : Context) : State :=
  { s with ctxs := s.ctxs.filter (fun (x : Context) => !(x.id == c.id)) ++ [c] }

/-- CTX_SETUP (R399). -/
def execCtxSetup (s : State) : Host.Outcome State Fault Refusal :=
  hostCommand 0x0F true (fun s m =>
    let id := (m.arg 0).toNat
    if 64 ≤ id ∨ (m.arg 1).toNat % 4096 ≠ 0 ∨ (s.live? id).isSome then refuse s 3
    else { state := s.putCtx { id, apBase := m.arg 1, saveSize := (m.arg 2).toNat } }) s

/-- The least Q size (R384). -/
def qMinimum : Nat := 0x1850180

/-- The largest image of one plot that a valid launch header asks for (R264, R389): 32 teams of 1,024 lanes with 4
registers, in 16 crews with 10 tiles each, which take 192 granules. -/
def maxPlotImage : Nat :=
  256 + 16 * (1024 + 10 * 25088) + 32 * (4096 + 4 * 1024 * 4 + 1024 * 8 + 8 * 1024 * 4)

/-- The lowest core of a context's core set. -/
def State.lowestCore (s : State) (ctx : Nat) : Option Nat :=
  (List.range Config.cores).find? fun c => (spRead (0 : BitVec 192) s.coresets ctx).getLsbD c

/-- The slot of partition 0 that a core reserves for one more supervisor (R33, R400): log entry 21. -/
def State.supSlot (s : State) (core : Nat) : Option Nat :=
  let used := s.usedSlots core
  ((List.range Config.slots).map fun i => Config.supervisorSlot - i).find? fun k => !used.contains (0, k)

/-- The headers of Q are cleared, and VECTOR is 0 (R400). -/
def State.clearRings (s : State) (c : Context) : State :=
  let s1 := (s.retryHeader c.id).storeHeader c.id
  (s1.qWrite c.id c.invRing (List.replicate 64 0)).qWrite c.id deliveryBlock (List.replicate 8 0)

/-- The supervisor team is placed from its launch header (R121, R400): its launch takes identifier 1; one plot of one
team, on a core, in a slot. -/
def State.startSupervisor (s : State) (c : Context) (h : List Dword) (core slot : Nat) : State :=
  let l : Launch := { ctx := c.id, lid := 1, header := h, queue := 0, seq := 0, phase := .running }
  { s with launches := s.launches ++ [l] }.placePlot l core [(0, slot)]

/-- CTX_CREATE's effect, its arguments in order. Log entry 68. -/
def State.createCtx (s : State) (c : Context) : Reply :=
  match s.lowestCore c.id with
  | none => refuse s 4
  | some core =>
    match s.supSlot core with
    | none => refuse s 4
    | some slot =>
      let c1 := { c with supervisor := (s.armSlot core 0 slot).1 }
      let s1 := s.putCtx c1
      match s1.gateRead c1 (c.ring.toNat + 0x4080) 16 with
      | none => refuse s 3
      | some h =>
        if (s1.rejects c.id h false).isSome || hTeams h != 1 || hPlots h != 1 || hTwin h then refuse s 3
        else if Config.granules < s1.usedGranules core + hGranules h then refuse s 4
        else { state := (s1.clearRings c1).startSupervisor c1 h core slot }

/-- CTX_CREATE (R400): status 4 before FEAT_ACCEPT (R403), 3 for arguments that R400 refuses or a supervisor header that
cannot be read or launched, 4 where the core set has no room. -/
def execCtxCreate (s : State) : Host.Outcome State Fault Refusal :=
  hostCommand 0x10 true (fun s m =>
    let id := (m.arg 0).toNat
    let root := (m.arg 1).toNat
    let q := (m.arg 3).toNat
    let limit := bits q 63 56 * 2 ^ 20
    if s.accepted.isNone then refuse s 4
    else
      match s.ctx? id with
      | none => refuse s 3
      | some c =>
        if c.live || !(s.tableOk root && decide (root < 2 ^ 52) && root % 4096 == 0) || decide (limit < qMinimum)
            || decide (c.saveSize < 32768 + maxPlotImage) then refuse s 3
        else
          s.createCtx
            { id, apBase := c.apBase, saveSize := c.saveSize, live := true, root, saveAddr := (m.arg 2).toNat
              qBase := dw (bits q 55 0), qLimit := dw limit, ring := m.arg 5, nextLid := 2 }) s

/-- Kill some teams by one event (R352). -/
def State.killTeams (s : State) (p : Team → Bool) : State :=
  let hs := (s.teams.filter p).map Team.tid
  let (g, s1) := s.takeId
  hs.foldl (fun (s : State) h => s.kill h g) s1

/-- A launch is killed: no plot of it is placed any more, and it has ended if none was placed. -/
def State.endPlacement (s : State) (l : Launch) : State :=
  let s0 := match l.phase with
    | .reserving _ => s.releaseGang l.ctx l.lid 0
    | _ => s
  let left : Launch → Launch := fun m =>
    { m with
      killed := true
      phase := if m.placed = 0 then .ended
        else match m.phase with
        | .placing => .running
        | p => p
      midPlacement := false }
  s0.modLaunch l.ctx l.lid left

/-- A launch is killed (R399): no plot of it is placed any more, and its teams die by one event. -/
def State.killLaunch (s : State) (l : Launch) : State :=
  (s.endPlacement l).killTeams fun t => t.ctx == l.ctx && t.lid == l.lid

/-- KILL_LAUNCH (R352, R399): a launch that the context has never had gives status 3, one that has ended no effect. -/
def execKillLaunch (s : State) : Host.Outcome State Fault Refusal :=
  hostCommand 0x21 false (onContext fun s m c =>
    match s.launch? c.id (m.arg 0).toNat with
    | none => refuse s 3
    | some l => (match l.phase with | .ended => { state := s } | _ => { state := s.killLaunch l })) s

/-- PREEMPT (R335, R399): ARG0 0 names every launch of the context. -/
def execPreempt (s : State) : Host.Outcome State Fault Refusal :=
  hostCommand 0x20 false (onContext fun s m c =>
    let lid := (m.arg 0).toNat
    if lid = 0 then
      let ls := s.launches.filter fun (l : Launch) => l.ctx == c.id
      { state := ls.foldl (fun (s : State) l => s.requestPreempt c.id l.lid) s }
    else
      match s.launch? c.id lid with
      | none => refuse s 3
      | some _ => { state := s.requestPreempt c.id lid }) s

/-- What is left of a context goes with it (R357, R375, R388, R400): launches, records, weirs, routing bank,
translations, and what its engine commands had still to do. -/
def State.dropCtx (s : State) (ctx : Nat) : State :=
  let weirs := fun (ws : Sparse Weir) => ws.filter fun w => w.2.owner != some ctx
  let clean := fun (k : Core) =>
    { k with
      weirs := weirs k.weirs
      tlb := k.tlb.filter fun e => e.ctx != ctx
      first := (k.first.map fun (p : Nat × List TlbEntry) => (p.1, p.2.filter fun e => e.ctx != ctx)).filter fun p => !p.2.isEmpty
      routing := if k.routingCtx == some ctx then [] else k.routing
      routingCtx := if k.routingCtx == some ctx then none else k.routingCtx }
  let s1 := (List.range Config.cores).foldl (fun (s : State) c => s.modCore c clean) s
  { s1 with
    ctxs := s1.ctxs.filter fun (c : Context) => c.id != ctx
    launches := s1.launches.filter fun (l : Launch) => l.ctx != ctx
    plots := s1.plots.filter fun (p : Plot) => p.ctx != ctx
    ops := s1.ops.filter fun (o : MemOp) => o.origin.ctx != ctx
    exited := s1.exited.filter fun (x : Exited) => x.ctx != ctx
    rputs := s1.rputs.filter fun (r : Rput) => match s1.team? r.tid with | some t => t.ctx != ctx | none => true
    copies := s1.copies.filter fun (k : Copy) => k.origin.ctx != ctx
    bales := s1.bales.filter fun (k : Bale) => k.origin.ctx != ctx
    colls := s1.colls.filter fun (k : Coll) => k.origin.ctx != ctx
    snaps := s1.snaps.filter fun (k : Snap) => k.origin.ctx != ctx
    orphans := s1.orphans.filter fun (g : Glean) => g.origin.ctx != ctx
    barriers := s1.barriers.filter fun (b : Barrier) => b.ctx != ctx
    gang := match s1.gang with | some g => if g.1 = ctx then none else some g | none => none }

/-- Every launch of a context is killed, by one event (R352, R400). -/
def State.beginDestroy (s : State) (ctx : Nat) : State :=
  let s0 := s.modCtx ctx fun c => { c with destroying := true }
  ((s0.launches.filter fun (l : Launch) => l.ctx == ctx).foldl State.endPlacement s0).killTeams fun t => t.ctx == ctx

/-- CTX_DESTROY (R400): it begins, and when it comes again with the command running and no team of the context left, it
completes. -/
def execCtxDestroy (s : State) : Host.Outcome State Fault Refusal :=
  match (if s.arg.a = 0 then s.ctxs.find? Context.destroying else none) with
  | some c =>
    .next (if s.teams.any fun t => t.ctx == c.id then s
      else let d := (s.dropCtx c.id).drawFree; d.2.mailboxDone 0 0 d.1)
  | none =>
    hostCommand 0x11 true (fun s m =>
      match s.live? (m.arg 0).toNat with
      | none => refuse s 3
      | some c => if c.destroying then refuse s 3 else { state := s.beginDestroy c.id, pending := true }) s

/-! ## DEBUG, REPORT, COUNTERS, ATTEST -/

/-- Give a debug answer to the host: RESULT, and ARG5 where there is a second word. -/
def debugReply (fn : Nat) (two : Bool) (r : Answer) : Reply :=
  let m := r.state.mailbox fn
  { state := if two then r.state.setMailbox fn { m with args := spWrite 0 m.args 5 r.e } else r.state
    result := some r.d }

/-- DEBUG (R399): one debug instruction on the host's behalf. -/
def execDebug (s : State) : Host.Outcome State Fault Refusal :=
  hostCommand 0x30 false (onContext fun s m c =>
    let x := (m.arg 0).toNat
    let op := bits x 9 0
    let scope := bits x 17 16
    let fn := s.arg.a
    let a : Asker := { ctx := c.id, core := none, sup := false, mailbox := fn }
    let bad := decide (2 ^ 18 ≤ x) || bits x 15 10 != 0 || decide (op < 0x288) || decide (0x28F < op)
      || (scope != 0 && op != 0x28D) || scope == 3 || featureGone s op
    if bad then refuse s 3
    else
      match op with
      | 0x288 => debugReply fn false (s.wset a (m.arg 1) (m.arg 2))
      | 0x289 => debugReply fn true (s.wget a (m.arg 1))
      | 0x28A => debugReply fn true (s.hinsp a (m.arg 1) (m.arg 2))
      | 0x28B => debugReply fn false (s.hpoke a (m.arg 1) (m.arg 2) (m.arg 3))
      | 0x28C =>
        match s.hstep a 0 (m.arg 1) (m.arg 2) with
        | .inr n => { state := s, result := some (dw n) }
        | .inl s1 => { state := s1, pending := true }
      | 0x28D => debugReply fn false (s.hresume a scope (m.arg 1))
      | 0x28E => debugReply fn false (s.hkill a (m.arg 1))
      | _ => debugReply fn false (s.lrelease a (m.arg 1) (m.arg 2))) s

/-- REPORT (R402): the oldest unread record; the record that the previous command returned is freed. -/
def execReport (s : State) : Host.Outcome State Fault Refusal :=
  hostCommand 0x40 false (onContext fun s _ c =>
    if c.repRead < c.repWritten then
      { state := s.modCtx c.id fun x => { x with repFreed := x.repRead, repRead := x.repRead + 1 }
        result := some (dw (c.saveAddr + 32 * (c.repRead % 1024))) }
    else { state := s.modCtx c.id fun x => { x with repFreed := x.repRead }, result := some noEntry }) s

/-- The counter exists (R370, R376, R377). -/
def counterOk : Config.CounterSel → Bool
  | .perf c n => decide (c < Config.cores) && decide (n < 8)
  | .corrected a | .uncorrected a =>
    (match a with
     | .pool c => decide (c < Config.cores)
     | .slice n => decide (n < Config.slices)
     | .hbm _ k => decide (k < 64)
     | .engine _ => false)
  | .replays c | .droopTotal c | .droopLast c => decide (c < Config.cores)
  | .linkRetries l => decide (l < Config.links)

/-- The value of a counter. -/
def State.counter (s : State) : Config.CounterSel → Dword
  | .perf c n => (spRead ({} : Perf) (s.core c).perf n).count
  | .corrected a => (s.arrayErr a).corrected
  | .uncorrected a => (s.arrayErr a).uncorrected
  | .replays c => dw (s.core c).replays
  | .droopTotal c => dw (s.core c).droopTotal
  | .droopLast c => dw (s.core c).lastDroops
  | .linkRetries l => (spRead ({} : Link) s.links l).retries

/-- Change a core's performance counter. -/
def State.modPerf (s : State) (core n : Nat) (f : Perf → Perf) : State :=
  s.modCore core fun c => { c with perf := spWrite {} c.perf n (f (spRead {} c.perf n)) }

/-- A counter is cleared. -/
def State.clearCounter (s : State) : Config.CounterSel → State
  | .perf c n => s.modPerf c n fun p => { p with count := 0 }
  | .corrected a => s.modArray a fun e => { e with corrected := 0 }
  | .uncorrected a => s.modArray a fun e => { e with uncorrected := 0 }
  | .replays c => s.modCore c fun k => { k with replays := 0 }
  | .droopTotal c => s.modCore c fun k => { k with droopTotal := 0 }
  | .droopLast c => s.modCore c fun k => { k with lastDroops := 0 }
  | .linkRetries l => s.modLink l fun k => { k with retries := 0 }

/-- A COUNTERS command on an existing counter; ARG1 says what it does. -/
def countersCommand (code : Nat) (act : State → Mailbox → Config.CounterSel → Reply) (s : State) :
    Host.Outcome State Fault Refusal :=
  let x := ((s.mailbox s.arg.a).arg 1).toNat
  if x = code ∨ (code = 0 ∧ 2 < x) then
    hostCommand 0x41 true (fun s m =>
      if 2 < (m.arg 1).toNat then refuse s 3
      else
        match Config.counterSel (m.arg 0) with
        | none => refuse s 3
        | some c => if counterOk c then act s m c else refuse s 3) s
  else .next s

/-- COUNTERS, ARG1 0 (R376, R377). -/
def execCountersRead (s : State) : Host.Outcome State Fault Refusal :=
  countersCommand 0 (fun s _ c => { state := s, result := some (s.counter c) }) s

/-- COUNTERS, ARG1 1. -/
def execCountersClear (s : State) : Host.Outcome State Fault Refusal :=
  countersCommand 1 (fun s _ c => { state := s.clearCounter c }) s

/-- COUNTERS, ARG1 2: the event code and the filter of a performance counter, as ARG2 holds them. -/
def execCountersProgram (s : State) : Host.Outcome State Fault Refusal :=
  countersCommand 2 (fun s m c =>
    match c with
    | .perf k n =>
      let p := Config.counterProgram (m.arg 2)
      { state := s.modPerf k n fun x => { x with code := p.1, filter := p.2 } }
    | .corrected _ | .uncorrected _ | .replays _ | .droopTotal _ | .droopLast _ | .linkRetries _ => refuse s 3) s

/-- A report's bytes before its signature (R408): nonce, digests, accepted vector, serial number, module number. -/
def State.attestBody (s : State) (m : Mailbox) : List Byte :=
  dwordBytes ((List.range 4).map fun i => (m.arg i).toNat)
    ++ s.firmware.flatMap (fun f => sha256 f.bytes)
    ++ toBytes 32 (match s.accepted with | some v => v.toNat | none => 0)
    ++ toBytes 8 Config.serialNumber.toNat ++ toBytes 8 s.moduleNumber.toNat

/-- Bytes of an identity signature (R407). -/
def signatureBytes : Nat := 1932

/-- ATTEST (R407, R408): the leaf index advances before it signs; once all leaves are spent, status 4. -/
def execAttest (s : State) : Host.Outcome State Fault Refusal :=
  hostCommand 0x50 false (fun s m =>
    let body := s.attestBody m
    let n := body.length + signatureBytes
    let dest := (m.arg 4).toNat
    if 2 ^ 25 ≤ s.nextLeaf then refuse s 4
    else if 2 ^ 45 < dest + n then refuse s 3
    else
      let sig := (List.range signatureBytes).map fun i => Config.identitySignature s.nextLeaf body i
      let s1 := { s with nextLeaf := s.nextLeaf + 1 }
      { state := s1.homeWrite (s.moduleNumber.toNat * 2 ^ 46 + 2 ^ 45 + dest) (body ++ sig), result := some (dw n) }) s

/-! ## BAR2 (R314, R397) -/

/-- Bytes of a function's BAR2. -/
def bar2Bytes : Nat := 2 ^ 36

/-- No core: an access that no core's translation cache serves. -/
def noCore : Nat := Config.cores

/-- The context that an access through arg.a's BAR2 reaches. -/
def State.bar2Ctx (s : State) : Option Context :=
  if 1 ≤ s.arg.a ∧ s.arg.a ≤ 64 then s.live? (s.arg.a - 1) else none

/-- BAR2_READ (R314, R397): arg.c bytes at offset arg.b of function arg.a; Completer Abort and a report record of kind 3
where they cannot be translated. Log entry 71. -/
def execBar2Read (s : State) : Host.Outcome State Fault Refusal :=
  .next (
    if !s.ready || decide (bar2Bytes < s.arg.b + s.arg.c) then s
    else
      match s.bar2Ctx with
      | none => { s with hostReply := none }
      | some c =>
        let va := c.apBase.toNat + s.arg.b
        match s.vRead (corePort noCore) c.id va s.arg.c with
        | .inl bs => { s.seen (corePort noCore) c.id va s.arg.c with hostReply := some bs }
        | .inr f => { s with hostReply := none }.report c.id 3 f.cause 0 va 0)

/-- The naturally aligned 8-byte pieces of a run of bytes (R312). -/
def eights (a n : Nat) : List (Nat × Nat) :=
  (List.range ((a + n + 7) / 8 - a / 8)).map fun k =>
    let lo := max a (8 * (a / 8 + k))
    (lo, min (a + n) (8 * (a / 8 + k + 1)) - lo)

/-- BAR2_WRITE (R312, R314, R397): the host's write, performed piece by piece at its home slices; without the Relaxed
Ordering attribute (arg.flag) after every earlier such write. arg.c pieces are still to be performed. A write that cannot be
translated is dropped with a report record of kind 3. Log entry 71. -/
def execBar2Write (s : State) : Host.Outcome State Fault Refusal :=
  .next (
    if !s.ready || decide (bar2Bytes < s.arg.b + s.arg.bytes.length) then s
    else
      match s.bar2Ctx with
      | none => s
      | some c =>
        let va := c.apBase.toNat + s.arg.b
        match s.firstFault (corePort noCore) c.id va s.arg.bytes.length .write with
        | some f => s.report c.id 3 f.cause 0 va 0
        | none =>
          s.acceptPieces (!s.arg.flag) s.arg.c ((eights va s.arg.bytes.length).filterMap fun p =>
            match s.translate (corePort noCore) c.id p.1 .write with
            | .ok pa nc => some (pa, (s.arg.bytes.drop (p.1 - va)).take p.2, nc)
            | .fault _ => none))

end Sys2Proof.Machine
end

