-- ==== Sys2Proof/Machine/Promote.lean ====
section
/-! DEFINITION. The active set (R38, R331, R332): promotion, swaps of held teams, and places made for teams that have waited too long. -/

namespace Sys2Proof.Machine

/-- A pending team has waited so many cycles. -/
def State.waited (s : State) (t : Team) (n : Nat) : Bool := decide (t.since + n ≤ s.now t)

/-- The pending teams of a partition that a freed place may go to: the eligible ones, and those that have waited 2,048
cycles (R331). -/
def State.promotable (s : State) (core part : Nat) : List Team :=
  s.teams.filter fun t => t.inPart core part && t.isPending && t.dying.isNone && !s.launchSaving t &&
    (s.eligible t || s.waited t 2048)

/-- The team has waited longest among those. -/
def State.waitsLongest (s : State) (t : Team) : Bool :=
  let ts := s.promotable (coreOf t.tid) (partOf t.tid)
  (ts.any fun u => u.tid == t.tid) && ts.all fun u => decide (t.since ≤ u.since)

/-- A pending team becomes ACTIVE (R36). -/
def State.promote (s : State) (t : Team) : State :=
  s.modTeam t.tid fun u =>
    { u with
      run := .active, since := s.now t, forced := false, leaveAtEnd := false
      held := u.held.map fun h => (h.1, s.now t) }

/-- A freed place goes to a team that has waited longest. -/
def promoteEvent (ok : State → Team → Bool) (s : State) : State :=
  match s.team? s.arg.tid with
  | none => s
  | some t =>
    if s.placeFree (coreOf t.tid) (partOf t.tid) && s.waitsLongest t && ok s t then s.promote t else s

/-- TEAM_PROMOTE (R38, R331): a free place goes to pending team arg.tid, eligible and longest waiting. -/
def execTeamPromote (s : State) : Host.Outcome State Fault Refusal :=
  .next (promoteEvent (fun s t => s.eligible t) s)

/-- FORCED_PROMOTION (R331): a free place goes to pending team arg.tid, which has waited 2,048 cycles, eligible or
not. -/
def execForcedPromotion (s : State) : Host.Outcome State Fault Refusal :=
  .next (promoteEvent (fun s t => s.waited t 2048) s)

/-- Streams of a drain port of a team's crew. -/
def State.drainStreams (s : State) (t : Team) (p : Nat) : List Stream :=
  match s.crewOf t with
  | some c => spRead [] c.ports p
  | none => []

/-- What a team waits on has not come yet (R332): the wait of each hold, as the instruction would find it. -/
def State.waitStands (s : State) (t : Team) : Hold → Bool
  | .clauseWait m | .flags m => t.flagsSet m
  | .queueRead q => (match t.queue? q with | some x => x.entries.isEmpty | none => false)
  | .queueWrite q => (match t.queue? q with | some x => decide (2 ≤ x.entries.length + t.pushesDue q) | none => false)
  | .portRead p => decide ((portReady (s.drainStreams t p)).length < t.width)
  | .portFull p => decide (4 ≤ (s.drainStreams t p).length)
  | .sdrain => s.draining t.tid
  | .request i => s.reqs.any fun r => r.id == i
  | .collective => t.arrived.isSome
  | .mfence => s.mfenceOpen t
  | .mwaita ids => ids.any s.matrixLive
  | .gleanerSlot => decide (16 ≤ t.gleans.length)
  | .gleanerRoom => s.roomLacks t
  | .register | .datapath => t.datapath.isSome || t.hadamard.isSome
  | .divider => (spRead none (s.core (coreOf t.tid)).divides (partOf t.tid)).isSome
  | .release scope => !s.releaseReady t scope
  | .accesses => (s.ops.any fun o => o.origin.tid == t.tid && o.lanes.any LaneAcc.open_) || s.readTagsOpen t ||
      (s.core (coreOf t.tid)).buffer.any fun w => w.tid == t.tid
  | .replay i lanes => (match s.op? i with | some o => !s.replayReady o lanes | none => false)
  | .buffer => decide (bufferSize ≤ (s.core (coreOf t.tid)).buffer.length)
  | .exit => s.returnsOpen t.tid || s.draining t.tid
  | .routing => (s.core (coreOf t.tid)).routingCtx != some t.ctx
  | .debug => s.teams.any fun u => (match u.stepping with | some st => st.by_ == some t.tid | none => false)

/-- The team is held: it waits, and what it waits on has not come. -/
def State.isHeld (s : State) (t : Team) : Bool := match t.held with | some (h, _) => s.waitStands t h | none => false

/-- HOLD_SWAP (R332): team arg.tid, held for 96 cycles, is swapped with the pending team that has waited longest. -/
def execHoldSwap (s : State) : Host.Outcome State Fault Refusal :=
  .next (match s.team? s.arg.tid with
  | none => s
  | some t =>
    let due := match t.held with | some (h, n) => h.swaps && s.waitStands t h && decide (n + 96 ≤ s.now t) | none => false
    match minBy Team.since (s.promotable (coreOf t.tid) (partOf t.tid)) with
    | none => s
    | some u => if t.isActive && due then
        ((s.setTeam (t.toPending (s.now t))).promote u).countPerf (coreOf t.tid) t.ctx 4 1
      else s)

/-- FORCED_ACTIVE_PLACE (R331): pending team arg.tid has waited 2,048 and then 1,024 cycles and no place has freed; the
team that has been ACTIVE longest leaves, at once if it is held, else at the end of its clause. -/
def execForcedActivePlace (s : State) : Host.Outcome State Fault Refusal :=
  .next (match s.team? s.arg.tid with
  | none => s
  | some t =>
    let core := coreOf t.tid
    let part := partOf t.tid
    if t.isPending && t.dying.isNone && s.waited t 3072 && !s.placeFree core part && !t.forced then
      match minBy Team.since (s.actives core part) with
      | none => s
      | some a =>
        let s1 := s.modTeam t.tid fun u => { u with forced := true }
        s1.modTeam a.tid fun u => if s.isHeld a then u.toPending (s.now a) else { u with leaveAtEnd := true }
    else s)

end Sys2Proof.Machine
end

