-- ==== Sys2Proof/Machine/VecArith.lean ====
section
/-! DEFINITION. Float, integer and bit instructions of each element (R166 to R169), and the special functions (R181, R182). -/

namespace Sys2Proof.Machine

/-- An element of the list of operands. -/
def opnd (xs : List Nat) (n : Nat) : Nat := xs.getD n 0

/-! ## Float instructions (R166, R167) -/

/-- Absent dominates (R53); else the exact result, rounded (R167). -/
def floatOp (F : Fmt) (sat : Bool) (g : Mode → List Val → Res) (m : Mode) (xs : List Nat) : Nat × BitVec 8 :=
  let vs := xs.map (floatVal F)
  if vs.any Val.isAbsent then (F.absent, 0) else roundRes F m sat (g m vs)

/-- The n-th value of a list of operands. -/
def valAt (vs : List Val) (n : Nat) : Val := vs.getD n .nan

/-- VADD (R166). -/
def execVadd (f : VFields) (s : State) : Host.Outcome State Fault Refusal :=
  mapElems 0x010 f true (floatOp (fmtF f) (modSat f) fun m v => sumVals m.down [valAt v 0, valAt v 1]) s

/-- VSUB (R166). -/
def execVsub (f : VFields) (s : State) : Host.Outcome State Fault Refusal :=
  mapElems 0x011 f true (floatOp (fmtF f) (modSat f) fun m v => sumVals m.down [valAt v 0, negVal (valAt v 1)]) s

/-- VMUL (R166). -/
def execVmul (f : VFields) (s : State) : Host.Outcome State Fault Refusal :=
  mapElems 0x012 f true (floatOp (fmtF f) (modSat f) fun _ v => mulVal (valAt v 0) (valAt v 1)) s

/-- Negate a result's value. -/
def negRes : Res → Res
  | .val v => .val (negVal v)
  | .invalid => .invalid

/-- A fused product and sum: one rounding under NBV 2; under NBV 1 the product is rounded first (R69, R167). Log entry 11. -/
def fused (F : Fmt) (sat : Bool) (nbv : Nat) (negP negC : Bool) (m : Mode) (xs : List Nat) : Nat × BitVec 8 :=
  let vs := xs.map (floatVal F)
  if vs.any Val.isAbsent then (F.absent, 0)
  else
    let p := mulVal (valAt vs 0) (valAt vs 1)
    let c := if negC then negVal (valAt vs 2) else valAt vs 2
    let sgn := fun r => if negP then negRes r else r
    if nbv = 1 then
      let (x, fl) := roundRes F m sat p
      let (y, fl') := roundRes F m sat (sumRes m.down [sgn (.val (floatVal F x)), .val c])
      (y, fl ||| fl')
    else roundRes F m sat (sumRes m.down [sgn p, .val c])

/-- The NBV of the team that issues (R70). -/
def State.curNbv (s : State) : Nat := match s.team? s.cur with | some t => t.nbv.toNat | none => 2

/-- VFMA (R166). -/
def execVfma (f : VFields) (s : State) : Host.Outcome State Fault Refusal :=
  mapElems 0x013 f true (fused (fmtF f) (modSat f) s.curNbv false false) s

/-- VFMS (R166). -/
def execVfms (f : VFields) (s : State) : Host.Outcome State Fault Refusal :=
  mapElems 0x014 f true (fused (fmtF f) (modSat f) s.curNbv false true) s

/-- VFNMA (R166). -/
def execVfnma (f : VFields) (s : State) : Host.Outcome State Fault Refusal :=
  mapElems 0x015 f true (fused (fmtF f) (modSat f) s.curNbv true false) s

/-- The exact operations of R167: absent dominates, a NaN gives the canonical NaN, no flag. -/
def exactFloat (F : Fmt) (g : List Nat → Nat) (_ : Mode) (xs : List Nat) : Nat × BitVec 8 :=
  let vs := xs.map (floatVal F)
  if vs.any Val.isAbsent then (F.absent, 0) else if vs.any Val.isNan then (F.nan, 0) else (g xs, 0)

/-- The smaller pattern, −0 below +0 (R167). -/
def minPat (F : Fmt) (a b : Nat) : Nat := if belowVal (floatVal F b) (floatVal F a) then b else a
/-- The larger pattern, −0 below +0 (R167). -/
def maxPatOf (F : Fmt) (a b : Nat) : Nat := if belowVal (floatVal F a) (floatVal F b) then b else a

/-- VMIN (R167). -/
def execVmin (f : VFields) (s : State) : Host.Outcome State Fault Refusal :=
  mapElems 0x016 f false (exactFloat (fmtF f) fun x => minPat (fmtF f) (opnd x 0) (opnd x 1)) s

/-- VMAX (R167). -/
def execVmax (f : VFields) (s : State) : Host.Outcome State Fault Refusal :=
  mapElems 0x017 f false (exactFloat (fmtF f) fun x => maxPatOf (fmtF f) (opnd x 0) (opnd x 1)) s

/-- VABS (R167). -/
def execVabs (f : VFields) (s : State) : Host.Outcome State Fault Refusal :=
  mapElems 0x018 f false (exactFloat (fmtF f) fun x => opnd x 0 % (fmtF f).signBit) s

/-- VNEG (R167). -/
def execVneg (f : VFields) (s : State) : Host.Outcome State Fault Refusal :=
  mapElems 0x019 f false (exactFloat (fmtF f) fun x => opnd x 0 ^^^ (fmtF f).signBit) s

/-- VCLAMP (R166): min(max(a, b), c). -/
def execVclamp (f : VFields) (s : State) : Host.Outcome State Fault Refusal :=
  mapElems 0x01A f false (exactFloat (fmtF f) fun x =>
    minPat (fmtF f) (maxPatOf (fmtF f) (opnd x 0) (opnd x 1)) (opnd x 2)) s

/-! ## Integer arithmetic (R168, R169) -/

/-- Absent dominates; else the exact integer, narrowed (R57, R169). -/
def intOp (F : Fmt) (sat : Bool) (g : List Int → Int) (_ : Mode) (xs : List Nat) : Nat × BitVec 8 :=
  if xs.any F.isAbsent then (F.absent, 0) else narrowInt F sat (g (xs.map F.int))

/-- The n-th integer of a list of operands. -/
def intAt (zs : List Int) (n : Nat) : Int := zs.getD n 0

/-- VIADD (R168). -/
def execViadd (f : VFields) (s : State) : Host.Outcome State Fault Refusal :=
  mapElems 0x020 f false (intOp (fmtF f) (modSat f) fun z => intAt z 0 + intAt z 1) s

/-- VISUB (R168). -/
def execVisub (f : VFields) (s : State) : Host.Outcome State Fault Refusal :=
  mapElems 0x021 f false (intOp (fmtF f) (modSat f) fun z => intAt z 0 - intAt z 1) s

/-- VIMUL (R168). -/
def execVimul (f : VFields) (s : State) : Host.Outcome State Fault Refusal :=
  mapElems 0x022 f false (intOp (fmtF f) (modSat f) fun z => intAt z 0 * intAt z 1) s

/-- VIMULH (R168): the upper half of the exact product. -/
def execVimulh (f : VFields) (s : State) : Host.Outcome State Fault Refusal :=
  mapElems 0x023 f false (intOp (fmtF f) false fun z => intAt z 0 * intAt z 1 / 2 ^ (fmtF f).width) s

/-- VIMAD (R168). -/
def execVimad (f : VFields) (s : State) : Host.Outcome State Fault Refusal :=
  mapElems 0x024 f false (intOp (fmtF f) (modSat f) fun z => intAt z 0 * intAt z 1 + intAt z 2) s

/-! ## Patterns of bits (R168, R169) -/

/-- A pattern operation of n-bit elements: no absent meaning, no flag (R53). -/
def bitOp (F : Fmt) (g : Nat → List Nat → Nat) (_ : Mode) (xs : List Nat) : Nat × BitVec 8 :=
  (g F.width xs % 2 ^ F.width, 0)

/-- An arithmetic shift right of an n-bit pattern: all copies of the top bit from n on (R168). -/
def sarPat (n a b : Nat) : Nat := wrap n (signed n a / 2 ^ min b n)

/-- VSHL (R168): 0 from the width on. -/
def execVshl (f : VFields) (s : State) : Host.Outcome State Fault Refusal :=
  mapElems 0x025 f false (bitOp (fmtF f) fun n x => if n ≤ opnd x 1 then 0 else opnd x 0 <<< opnd x 1) s

/-- VSHR (R168). -/
def execVshr (f : VFields) (s : State) : Host.Outcome State Fault Refusal :=
  mapElems 0x026 f false (bitOp (fmtF f) fun n x => if n ≤ opnd x 1 then 0 else opnd x 0 >>> opnd x 1) s

/-- VSAR (R168). -/
def execVsar (f : VFields) (s : State) : Host.Outcome State Fault Refusal :=
  mapElems 0x027 f false (bitOp (fmtF f) fun n x => sarPat n (opnd x 0) (opnd x 1)) s

/-- VAND (R168). -/
def execVand (f : VFields) (s : State) : Host.Outcome State Fault Refusal :=
  mapElems 0x028 f false (bitOp (fmtF f) fun _ x => opnd x 0 &&& opnd x 1) s

/-- VOR (R168). -/
def execVor (f : VFields) (s : State) : Host.Outcome State Fault Refusal :=
  mapElems 0x029 f false (bitOp (fmtF f) fun _ x => opnd x 0 ||| opnd x 1) s

/-- VXOR (R168). -/
def execVxor (f : VFields) (s : State) : Host.Outcome State Fault Refusal :=
  mapElems 0x02A f false (bitOp (fmtF f) fun _ x => opnd x 0 ^^^ opnd x 1) s

/-- VNOT (R168). -/
def execVnot (f : VFields) (s : State) : Host.Outcome State Fault Refusal :=
  mapElems 0x02B f false (bitOp (fmtF f) fun n x => ones n - opnd x 0) s

/-- VCLZ (R168). -/
def execVclz (f : VFields) (s : State) : Host.Outcome State Fault Refusal :=
  mapElems 0x02C f false (bitOp (fmtF f) fun n x => clz n (opnd x 0)) s

/-- VPOP (R168). -/
def execVpop (f : VFields) (s : State) : Host.Outcome State Fault Refusal :=
  mapElems 0x02D f false (bitOp (fmtF f) fun n x => popcount n (opnd x 0)) s

/-- The length of a field at position p and wanted length c in n bits (R169). -/
def fieldLen (n p c : Nat) : Nat := if n ≤ p then 0 else min c (n - p)

/-- A field extracted, sign-extended under s formats (R168). -/
def extractField (sgn : Bool) (n a p c : Nat) : Nat :=
  let k := fieldLen n p c
  let x := a / 2 ^ min p n % 2 ^ k
  if sgn then wrap n (signed k x) else x

/-- A field replaced by the low bits of a (R168). -/
def insertField (n d a p c : Nat) : Nat :=
  let k := fieldLen n p c
  if k = 0 then d else d - d / 2 ^ p % 2 ^ k * 2 ^ p + a % 2 ^ k * 2 ^ p

/-- VBFX (R168). -/
def execVbfx (f : VFields) (s : State) : Host.Outcome State Fault Refusal :=
  mapElems 0x02E f false (bitOp (fmtF f) fun n x => extractField (fmtF f).isS n (opnd x 0) (opnd x 1) (opnd x 2)) s

/-- VBFI (R168): the destination's element is read. -/
def execVbfi (f : VFields) (s : State) : Host.Outcome State Fault Refusal :=
  let F := fmtF f
  issueV 0x02F f s (runV (elemShape 0x02F f F.wide) [f.vd.toNat] fun s v srcs lanes =>
    joinOut (lanes.map fun l =>
      packOut F f.vd.toNat l 0 ((List.range F.perLane).map fun j =>
        let at_ := fun n => (srcs.getD n (.const 448)).elem s v (litNat f) F l j
        (insertField F.width (v.elem F f.vd.toNat l j) (at_ 0) (at_ 1) (at_ 2), 0))))

/-! ## Special functions (R181, R182) -/

/-- A special function of each element; only VRCP and VSQRT round in a mode, and so draw under RSR. -/
def special (fn : SpecialFn) (f : VFields) (s : State) : Host.Outcome State Fault Refusal :=
  mapElems (0x200 + fn.num) f fn.correct
    (fun m xs => specialElem f.fmt.toNat (fmtF f) fn m (modSat f) (opnd xs 0)) s

/-- VRCP (R181). -/
def execVrcp (f : VFields) (s : State) : Host.Outcome State Fault Refusal := special .rcp f s
/-- VRSQ (R181). -/
def execVrsq (f : VFields) (s : State) : Host.Outcome State Fault Refusal := special .rsq f s
/-- VSQRT (R181). -/
def execVsqrt (f : VFields) (s : State) : Host.Outcome State Fault Refusal := special .sqrt f s
/-- VEXP2 (R181). -/
def execVexp2 (f : VFields) (s : State) : Host.Outcome State Fault Refusal := special .exp2 f s
/-- VLOG2 (R181). -/
def execVlog2 (f : VFields) (s : State) : Host.Outcome State Fault Refusal := special .log2 f s
/-- VSIN (R181). -/
def execVsin (f : VFields) (s : State) : Host.Outcome State Fault Refusal := special .sin f s
/-- VCOS (R181). -/
def execVcos (f : VFields) (s : State) : Host.Outcome State Fault Refusal := special .cos f s
/-- VTANH (R181). -/
def execVtanh (f : VFields) (s : State) : Host.Outcome State Fault Refusal := special .tanh f s
/-- VLOGI (R181). -/
def execVlogi (f : VFields) (s : State) : Host.Outcome State Fault Refusal := special .logi f s

end Sys2Proof.Machine
end

