-- ==== Sys2Proof/Machine/VecConvert.lean ====
section
/-! DEFINITION. Conversions and block quantisation (R173 to R176) over the lane groups of R160. -/

namespace Sys2Proof.Machine

/-- Registers of a source group, when the code names registers (R160). -/
def groupRead (f : Fmt) (e code : Nat) : List Nat :=
  if code < 384 then (List.range (groupRegs f e)).map fun i => code + i else []

/-- Cycles per pass of a conversion (R158). -/
def cvtCycles (d a : Fmt) (e : Nat) : Nat :=
  if d.width = 64 || a.width = 64 then 4 else max (groupRegs d e) (groupRegs a e)

/-- VCVT (R173). -/
def execVcvt (f : VFields) (s : State) : Host.Outcome State Fault Refusal :=
  let d := fmtF f
  let a := srcF f
  let e := cvtCount d a
  let sh : VShape :=
    { sources := [f.va.toNat], reads := groupRead a e f.va.toNat, perPass := cvtCycles d a e, pair := d.wide }
  issueV 0x048 f s (runV sh [f.vd.toNat] fun s v srcs lanes =>
    joinOut (lanes.map fun l =>
      packOut d f.vd.toNat l (rsrDraws v f e) ((List.range e).map fun i =>
        convert d a (elemMode s v f l i) (modSat f) ((nthSrc srcs 0).elem s v 0 a l i))))

/-- The lanes of a block that are active, for each block that has one (R174): n lanes to a block. -/
def blocksOf (n : Nat) (lanes : List Nat) : List (List Nat) :=
  (distinct (lanes.map fun l => l / n)).map fun b => lanes.filter fun l => l / n == b

/-- One lane of a quantised block: its codes, and where the scale and the residuals go (R174). The block's QO counts as
raised by its first active element; under e2m1, which always rounds to nearest (R52), no draw is taken. Log entry 91. -/
def quantLane (f : VFields) (d a : Fmt) (e : Nat) (s : State) (v : Team) (B : QBlock) (xs : List Val) (k l : Nat) :
    VOut :=
  let qs := (B.codes.drop (k * e)).take e
  let fl := (B.flags.drop (k * e)).take e
  let fl := if k = 0 then (match fl with | x :: r => (x ||| B.block) :: r | [] => []) else fl
  let mine := (xs.drop (k * e)).take e
  let scale : List LaneWrite :=
    if d == .e2m1 then [{ reg := f.vd.toNat + 1, lane := l, val := BitVec.ofNat 32 (B.scale + B.special * 256) }]
    else if f.vb = 448 then []
    else [{ reg := f.vb.toNat, lane := l, val := BitVec.ofNat 32 B.scale }]
  let rmode := match elemMode s v f l 0 with | .rsr _ => Mode.rne | m => m
  let res : List LaneWrite :=
    if f.vc = 448 then []
    else wordsAt f.vc.toNat l (packElems a ((mine.zip qs).map fun p =>
      residual a rmode (modSat f) p.1 (decodeElem d B.scale B.special p.2)))
  let draws := if d == .e2m1 then 0 else rsrDraws v f e
  { writes := wordsAt f.vd.toNat l (packElems d qs) ++ scale ++ res, flags := [(l, fl)], draws := [(l, draws)] }

/-- One block of VQUANT (R174). -/
def quantBlock (f : VFields) (d a : Fmt) (e : Nat) (s : State) (v : Team) (x : Src) (ls : List Nat) : VOut :=
  let xs := ls.flatMap fun l => (List.range e).map fun i => floatVal a (x.elem s v 0 a l i)
  let B : QBlock :=
    if d == .e2m1 then quantE2M1 xs
    else
      let (S, qo) := blockScale (quantEmax d) xs
      let rs := ls.zipIdx.flatMap fun p => (List.range e).map fun i =>
        if S = 0xFF then (d.absent, (0 : BitVec 8))
        else quantElem d (elemMode s v f p.1 i) (modSat f) S (xs.getD (p.2 * e + i) .absent)
      { scale := S, codes := rs.map Prod.fst, flags := rs.map Prod.snd, block := qo }
  joinOut (ls.zipIdx.map fun p => quantLane f d a e s v B xs p.2 p.1)

/-- VQUANT (R174). -/
def execVquant (f : VFields) (s : State) : Host.Outcome State Fault Refusal :=
  let d := fmtF f
  let a := srcF f
  let e := cvtCount d a
  let sh : VShape :=
    { sources := [f.va.toNat], reads := groupRead a e f.va.toNat, perPass := cvtCycles d a e }
  issueV 0x049 f s (runV sh (f.vd.toNat :: (optDst f.vb ++ optDst f.vc)) fun s v srcs lanes =>
    joinOut ((blocksOf (32 / e) lanes).map fun ls => quantBlock f d a e s v (nthSrc srcs 0) ls))

/-- The scale and special bytes that an element of VDEQ is decoded with (R175). -/
def deqScale (f : VFields) (a : Fmt) (s : State) (v : Team) (srcs : List Src) (l : Nat) : Nat × Nat :=
  if a == .e2m1 then
    let w := (match nthSrc srcs 0 with | .reg r => v.getV (r + 1) l | _ => 0).toNat
    (w % 256, w / 256 % 256)
  else if f.vb = 448 then (127, 0)
  else ((nthSrc srcs 1).word s v 0 .b32 l % 256, 0)

/-- VDEQ (R175). -/
def execVdeq (f : VFields) (s : State) : Host.Outcome State Fault Refusal :=
  let d := fmtF f
  let a := srcF f
  let e := cvtCount d a
  let withB := !(a == .e2m1) && !(f.vb == 448)
  let sh : VShape :=
    { sources := f.va.toNat :: (if withB then [f.vb.toNat] else [])
      reads := groupRead a e f.va.toNat ++ (if withB && decide (f.vb.toNat < 384) then [f.vb.toNat] else [])
      perPass := cvtCycles d a e }
  issueV 0x04A f s (runV sh [f.vd.toNat] fun s v srcs lanes =>
    joinOut (lanes.map fun l =>
      let (S, P) := deqScale f a s v srcs l
      packOut d f.vd.toNat l (rsrDraws v f e) ((List.range e).map fun i =>
        roundVal d (elemMode s v f l i) (modSat f) (decodeElem a S P ((nthSrc srcs 0).elem s v 0 a l i)))))

/-- The larger of two magnitudes, none among NaN and absent values (R176). -/
def amax (x y : Option Val) : Option Val :=
  match x, y with
  | none, y => y
  | x, none => x
  | some a, some b => if ltVal a b then some b else some a

/-- The magnitude of a value that VAMAX takes part of; none for absent and NaN (R176). -/
def magOf : Val → Option Val
  | .inf _ => some (.inf false)
  | .fin _ m e => some (.fin false m e)
  | _ => none

/-- VAMAX (R176): the largest magnitude, as f32, in every active lane. -/
def execVamax (f : VFields) (s : State) : Host.Outcome State Fault Refusal :=
  let F := fmtF f
  issueV 0x04B f s (runV (elemShape 0x04B f false) [f.vd.toNat] fun s v srcs lanes =>
    let xs := lanes.flatMap fun l => (List.range F.perLane).map fun j =>
      magOf (floatVal F ((nthSrc srcs 0).elem s v 0 F l j))
    let r := match xs.foldl amax none with
      | none => Fmt.absent .f32
      | some x => (roundVal .f32 .rne false x).1
    joinOut (lanes.map fun l => { writes := wordsAt f.vd.toNat l [BitVec.ofNat 32 r] }))

end Sys2Proof.Machine
end

