-- ==== Sys2Proof/Machine/VecTruth.lean ====
section
/-! DEFINITION. Truth and absence (R172, R54 to R56). -/

namespace Sys2Proof.Machine

/-- One truth in each lane. -/
def truthWord (t : Truth) : List Word := [BitVec.ofNat 32 t.code]

/-- VSEL (R172, R56). -/
def execVsel (f : VFields) (s : State) : Host.Outcome State Fault Refusal :=
  let F := fmtF f
  mapSlices 0x038 f (fun s v srcs _ l =>
    match (nthSrc srcs 0).truth s v (litNat f) l with
    | .true_ => (nthSrc srcs 1).slice s v (litNat f) F l
    | .false_ => (nthSrc srcs 2).slice s v (litNat f) F l
    | .unknown => packElems F (List.replicate F.perLane F.absent)) s

/-- The truth of a p b (R54): p is one of eq, ne, lt, le, gt, ge. -/
def compare (p : Nat) (a b : Val) : Truth :=
  if a.isAbsent || b.isAbsent then .unknown
  else
    let r :=
      if a.isNan || b.isNan then p == 1
      else match p with
        | 0 => eqVal a b
        | 1 => !eqVal a b
        | 2 => ltVal a b
        | 3 => !ltVal b a
        | 4 => ltVal b a
        | _ => !ltVal a b
    if r then .true_ else .false_

/-- VCMP (R172). -/
def execVcmp (f : VFields) (s : State) : Host.Outcome State Fault Refusal :=
  let F := fmtF f
  issueV 0x039 f s (runV (elemShape 0x039 f false) [f.vd.toNat] fun s v srcs lanes =>
    joinOut (lanes.map fun l =>
      let x := fun n => valOf F ((nthSrc srcs n).elem s v (litNat f) F l 0)
      { writes := wordsAt f.vd.toNat l (truthWord (compare (f.fn.toNat % 8) (x 0) (x 1))) }))

/-- VISABS (R172). -/
def execVisabs (f : VFields) (s : State) : Host.Outcome State Fault Refusal :=
  let F := fmtF f
  issueV 0x03A f s (runV (elemShape 0x03A f false) [f.vd.toNat] fun s v srcs lanes =>
    joinOut (lanes.map fun l =>
      let a := F.isAbsent ((nthSrc srcs 0).elem s v (litNat f) F l 0)
      { writes := wordsAt f.vd.toNat l (truthWord (if a then .true_ else .false_)) }))

/-- VCOALESCE (R172). -/
def execVcoalesce (f : VFields) (s : State) : Host.Outcome State Fault Refusal :=
  mapElems 0x03B f false (fun _ x =>
    (if (fmtF f).isAbsent (x.getD 0 0) then x.getD 1 0 else x.getD 0 0, 0)) s

/-- VNULLIF (R172). -/
def execVnullif (f : VFields) (s : State) : Host.Outcome State Fault Refusal :=
  let F := fmtF f
  mapElems 0x03C f false (fun _ x =>
    let r := compare 0 (valOf F (x.getD 0 0)) (valOf F (x.getD 1 0))
    ((match r with | .false_ => x.getD 0 0 | _ => F.absent), 0)) s

/-- VMKABS (R172): the truth is one per lane. -/
def execVmkabs (f : VFields) (s : State) : Host.Outcome State Fault Refusal :=
  let F := fmtF f
  mapSlices 0x03D f (fun s v srcs _ l =>
    match (nthSrc srcs 1).truth s v (litNat f) l with
    | .true_ => (nthSrc srcs 0).slice s v (litNat f) F l
    | _ => packElems F (List.replicate F.perLane F.absent)) s

/-- VTAND (R55). -/
def execVtand (f : VFields) (s : State) : Host.Outcome State Fault Refusal :=
  mapSlices 0x03E f (fun s v srcs _ l =>
    truthWord (((nthSrc srcs 0).truth s v (litNat f) l).and ((nthSrc srcs 1).truth s v (litNat f) l))) s

/-- VTOR (R55). -/
def execVtor (f : VFields) (s : State) : Host.Outcome State Fault Refusal :=
  mapSlices 0x03F f (fun s v srcs _ l =>
    truthWord (((nthSrc srcs 0).truth s v (litNat f) l).or ((nthSrc srcs 1).truth s v (litNat f) l))) s

/-- VTNOT (R55). -/
def execVtnot (f : VFields) (s : State) : Host.Outcome State Fault Refusal :=
  mapSlices 0x040 f (fun s v srcs _ l => truthWord ((nthSrc srcs 0).truth s v (litNat f) l).not) s

end Sys2Proof.Machine
end

