-- ==== Sys2Proof/Machine/Dispatch.lean ====
section
/-! DEFINITION. The dispatch of every step of the machine to its meaning, one arm per constructor. -/

namespace Sys2Proof.Machine

/-- Run one step of the machine: an instruction for the team that issues, or an event. -/
def exec (i : Instr) (s : State) : Host.Outcome State Fault Refusal :=
  match i with
  | .nop => Sys2Proof.Machine.execNop s
  | .saddReg d a b => Sys2Proof.Machine.execSaddReg d a b s
  | .saddImm d a imm => Sys2Proof.Machine.execSaddImm d a imm s
  | .ssubReg d a b => Sys2Proof.Machine.execSsubReg d a b s
  | .ssubImm d a imm => Sys2Proof.Machine.execSsubImm d a imm s
  | .smulReg d a b => Sys2Proof.Machine.execSmulReg d a b s
  | .smulImm d a imm => Sys2Proof.Machine.execSmulImm d a imm s
  | .smulhReg d a b => Sys2Proof.Machine.execSmulhReg d a b s
  | .smulhImm d a imm => Sys2Proof.Machine.execSmulhImm d a imm s
  | .sdivReg d a b => Sys2Proof.Machine.execSdivReg d a b s
  | .sdivImm d a imm => Sys2Proof.Machine.execSdivImm d a imm s
  | .sremReg d a b => Sys2Proof.Machine.execSremReg d a b s
  | .sremImm d a imm => Sys2Proof.Machine.execSremImm d a imm s
  | .sandReg d a b => Sys2Proof.Machine.execSandReg d a b s
  | .sandImm d a imm => Sys2Proof.Machine.execSandImm d a imm s
  | .sorReg d a b => Sys2Proof.Machine.execSorReg d a b s
  | .sorImm d a imm => Sys2Proof.Machine.execSorImm d a imm s
  | .sxorReg d a b => Sys2Proof.Machine.execSxorReg d a b s
  | .sxorImm d a imm => Sys2Proof.Machine.execSxorImm d a imm s
  | .sandnReg d a b => Sys2Proof.Machine.execSandnReg d a b s
  | .sandnImm d a imm => Sys2Proof.Machine.execSandnImm d a imm s
  | .sshlReg d a b => Sys2Proof.Machine.execSshlReg d a b s
  | .sshlImm d a n => Sys2Proof.Machine.execSshlImm d a n s
  | .sshrReg d a b => Sys2Proof.Machine.execSshrReg d a b s
  | .sshrImm d a n => Sys2Proof.Machine.execSshrImm d a n s
  | .ssarReg d a b => Sys2Proof.Machine.execSsarReg d a b s
  | .ssarImm d a n => Sys2Proof.Machine.execSsarImm d a n s
  | .srolReg d a b => Sys2Proof.Machine.execSrolReg d a b s
  | .srolImm d a n => Sys2Proof.Machine.execSrolImm d a n s
  | .sminReg d a b => Sys2Proof.Machine.execSminReg d a b s
  | .sminImm d a imm => Sys2Proof.Machine.execSminImm d a imm s
  | .smaxReg d a b => Sys2Proof.Machine.execSmaxReg d a b s
  | .smaxImm d a imm => Sys2Proof.Machine.execSmaxImm d a imm s
  | .scmpReg d a b => Sys2Proof.Machine.execScmpReg d a b s
  | .scmpImm d a imm => Sys2Proof.Machine.execScmpImm d a imm s
  | .scmpUReg d a b => Sys2Proof.Machine.execScmpUReg d a b s
  | .scmpUImm d a imm => Sys2Proof.Machine.execScmpUImm d a imm s
  | .sselReg d a b => Sys2Proof.Machine.execSselReg d a b s
  | .sselImm d a imm => Sys2Proof.Machine.execSselImm d a imm s
  | .slea1 d a b => Sys2Proof.Machine.execSlea1 d a b s
  | .slea2 d a b => Sys2Proof.Machine.execSlea2 d a b s
  | .slea4 d a b => Sys2Proof.Machine.execSlea4 d a b s
  | .slea8 d a b => Sys2Proof.Machine.execSlea8 d a b s
  | .slea16 d a b => Sys2Proof.Machine.execSlea16 d a b s
  | .sclz d a => Sys2Proof.Machine.execSclz d a s
  | .sctz d a => Sys2Proof.Machine.execSctz d a s
  | .spop d a => Sys2Proof.Machine.execSpop d a s
  | .sbfx d a b => Sys2Proof.Machine.execSbfx d a b s
  | .sbfi d a b => Sys2Proof.Machine.execSbfi d a b s
  | .smov d a => Sys2Proof.Machine.execSmov d a s
  | .sli d imm => Sys2Proof.Machine.execSli d imm s
  | .sliLong f => Sys2Proof.Machine.execSliLong f s
  | .sliZ f => Sys2Proof.Machine.execSliZ f s
  | .sliHi f => Sys2Proof.Machine.execSliHi f s
  | .swid d k => Sys2Proof.Machine.execSwid d k s
  | .sget d c => Sys2Proof.Machine.execSget d c s
  | .sset a c => Sys2Proof.Machine.execSset a c s
  | .mpop d => Sys2Proof.Machine.execMpop d s
  | .mfirst d => Sys2Proof.Machine.execMfirst d s
  | .melect => Sys2Proof.Machine.execMelect s
  | .bccZ t o => Sys2Proof.Machine.execBccZ t o s
  | .bccNz t o => Sys2Proof.Machine.execBccNz t o s
  | .bccLt t o => Sys2Proof.Machine.execBccLt t o s
  | .bccGe t o => Sys2Proof.Machine.execBccGe t o s
  | .bccGt t o => Sys2Proof.Machine.execBccGt t o s
  | .bccLe t o => Sys2Proof.Machine.execBccLe t o s
  | .bccLong f => Sys2Proof.Machine.execBccLong f s
  | .bra o => Sys2Proof.Machine.execBra o s
  | .braLong f => Sys2Proof.Machine.execBraLong f s
  | .bmz o => Sys2Proof.Machine.execBmz o s
  | .bmzLong f => Sys2Proof.Machine.execBmzLong f s
  | .bmnz o => Sys2Proof.Machine.execBmnz o s
  | .bmnzLong f => Sys2Proof.Machine.execBmnzLong f s
  | .bmall o => Sys2Proof.Machine.execBmall o s
  | .bmallLong f => Sys2Proof.Machine.execBmallLong f s
  | .call k o => Sys2Proof.Machine.execCall k o s
  | .callLong f => Sys2Proof.Machine.execCallLong f s
  | .ret a => Sys2Proof.Machine.execRet a s
  | .jmpi a => Sys2Proof.Machine.execJmpi a s
  | .exit => Sys2Proof.Machine.execExit s
  | .yield => Sys2Proof.Machine.execYield s
  | .fwait m => Sys2Proof.Machine.execFwait m s
  | .fset m => Sys2Proof.Machine.execFset m s
  | .fclr m => Sys2Proof.Machine.execFclr m s
  | .rep n d a b => Sys2Proof.Machine.execRep n d a b s
  | .trap c => Sys2Proof.Machine.execTrap c s
  | .rft => Sys2Proof.Machine.execRft s
  | .segset g a b => Sys2Proof.Machine.execSegset g a b s
  | .kill a => Sys2Proof.Machine.execKill a s
  | .vmov f => Sys2Proof.Machine.execVmov f s
  | .vbcast f => Sys2Proof.Machine.execVbcast f s
  | .vlane f => Sys2Proof.Machine.execVlane f s
  | .vsetl f => Sys2Proof.Machine.execVsetl f s
  | .viota f => Sys2Proof.Machine.execViota f s
  | .vwid f => Sys2Proof.Machine.execVwid f s
  | .vadd f => Sys2Proof.Machine.execVadd f s
  | .vsub f => Sys2Proof.Machine.execVsub f s
  | .vmul f => Sys2Proof.Machine.execVmul f s
  | .vfma f => Sys2Proof.Machine.execVfma f s
  | .vfms f => Sys2Proof.Machine.execVfms f s
  | .vfnma f => Sys2Proof.Machine.execVfnma f s
  | .vmin f => Sys2Proof.Machine.execVmin f s
  | .vmax f => Sys2Proof.Machine.execVmax f s
  | .vabs f => Sys2Proof.Machine.execVabs f s
  | .vneg f => Sys2Proof.Machine.execVneg f s
  | .vclamp f => Sys2Proof.Machine.execVclamp f s
  | .viadd f => Sys2Proof.Machine.execViadd f s
  | .visub f => Sys2Proof.Machine.execVisub f s
  | .vimul f => Sys2Proof.Machine.execVimul f s
  | .vimulh f => Sys2Proof.Machine.execVimulh f s
  | .vimad f => Sys2Proof.Machine.execVimad f s
  | .vshl f => Sys2Proof.Machine.execVshl f s
  | .vshr f => Sys2Proof.Machine.execVshr f s
  | .vsar f => Sys2Proof.Machine.execVsar f s
  | .vand f => Sys2Proof.Machine.execVand f s
  | .vor f => Sys2Proof.Machine.execVor f s
  | .vxor f => Sys2Proof.Machine.execVxor f s
  | .vnot f => Sys2Proof.Machine.execVnot f s
  | .vclz f => Sys2Proof.Machine.execVclz f s
  | .vpop f => Sys2Proof.Machine.execVpop f s
  | .vbfx f => Sys2Proof.Machine.execVbfx f s
  | .vbfi f => Sys2Proof.Machine.execVbfi f s
  | .vpermbLit f => Sys2Proof.Machine.execVpermbLit f s
  | .vpermbReg f => Sys2Proof.Machine.execVpermbReg f s
  | .vshuf f => Sys2Proof.Machine.execVshuf f s
  | .vrotImm f => Sys2Proof.Machine.execVrotImm f s
  | .vrotReg f => Sys2Proof.Machine.execVrotReg f s
  | .vsel f => Sys2Proof.Machine.execVsel f s
  | .vcmp f => Sys2Proof.Machine.execVcmp f s
  | .visabs f => Sys2Proof.Machine.execVisabs f s
  | .vcoalesce f => Sys2Proof.Machine.execVcoalesce f s
  | .vnullif f => Sys2Proof.Machine.execVnullif f s
  | .vmkabs f => Sys2Proof.Machine.execVmkabs f s
  | .vtand f => Sys2Proof.Machine.execVtand f s
  | .vtor f => Sys2Proof.Machine.execVtor f s
  | .vtnot f => Sys2Proof.Machine.execVtnot f s
  | .vcvt f => Sys2Proof.Machine.execVcvt f s
  | .vquant f => Sys2Proof.Machine.execVquant f s
  | .vdeq f => Sys2Proof.Machine.execVdeq f s
  | .vamax f => Sys2Proof.Machine.execVamax f s
  | .vradd f => Sys2Proof.Machine.execVradd f s
  | .vrmin f => Sys2Proof.Machine.execVrmin f s
  | .vrmax f => Sys2Proof.Machine.execVrmax f s
  | .vrcount f => Sys2Proof.Machine.execVrcount f s
  | .vscan f => Sys2Proof.Machine.execVscan f s
  | .vrand f => Sys2Proof.Machine.execVrand f s
  | .vrandf f => Sys2Proof.Machine.execVrandf f s
  | .mkmask f => Sys2Proof.Machine.execMkmask f s
  | .vrcp f => Sys2Proof.Machine.execVrcp f s
  | .vrsq f => Sys2Proof.Machine.execVrsq f s
  | .vsqrt f => Sys2Proof.Machine.execVsqrt f s
  | .vexp2 f => Sys2Proof.Machine.execVexp2 f s
  | .vlog2 f => Sys2Proof.Machine.execVlog2 f s
  | .vsin f => Sys2Proof.Machine.execVsin f s
  | .vcos f => Sys2Proof.Machine.execVcos f s
  | .vtanh f => Sys2Proof.Machine.execVtanh f s
  | .vlogi f => Sys2Proof.Machine.execVlogi f s
  | .vld f => Sys2Proof.Machine.execVld f s
  | .vst f => Sys2Proof.Machine.execVst f s
  | .sld f => Sys2Proof.Machine.execSld f s
  | .sst f => Sys2Proof.Machine.execSst f s
  | .vlds f => Sys2Proof.Machine.execVlds f s
  | .vsts f => Sys2Proof.Machine.execVsts f s
  | .pld f => Sys2Proof.Machine.execPld f s
  | .pst f => Sys2Proof.Machine.execPst f s
  | .probe f => Sys2Proof.Machine.execProbe f s
  | .sdrain f => Sys2Proof.Machine.execSdrain f s
  | .cpy f => Sys2Proof.Machine.execCpy f s
  | .cpyw f => Sys2Proof.Machine.execCpyw f s
  | .fence f => Sys2Proof.Machine.execFence f s
  | .atom f => Sys2Proof.Machine.execAtom f s
  | .atoms f => Sys2Proof.Machine.execAtoms f s
  | .red f => Sys2Proof.Machine.execRed f s
  | .amaxswap f => Sys2Proof.Machine.execAmaxswap f s
  | .marm f => Sys2Proof.Machine.execMarm f s
  | .mwait f => Sys2Proof.Machine.execMwait f s
  | .barv f => Sys2Proof.Machine.execBarv f s
  | .barw f => Sys2Proof.Machine.execBarw f s
  | .gbarv f => Sys2Proof.Machine.execGbarv f s
  | .gbarw f => Sys2Proof.Machine.execGbarw f s
  | .hold f => Sys2Proof.Machine.execHold f s
  | .hrel f => Sys2Proof.Machine.execHrel f s
  | .heir f => Sys2Proof.Machine.execHeir f s
  | .hclrb f => Sys2Proof.Machine.execHclrb f s
  | .hclrbPool f => Sys2Proof.Machine.execHclrbPool f s
  | .pmake f => Sys2Proof.Machine.execPmake f s
  | .pfulfil f => Sys2Proof.Machine.execPfulfil f s
  | .pwait f => Sys2Proof.Machine.execPwait f s
  | .permget f => Sys2Proof.Machine.execPermget f s
  | .permput f => Sys2Proof.Machine.execPermput f s
  | .estate f => Sys2Proof.Machine.execEstate f s
  | .convey f => Sys2Proof.Machine.execConvey f s
  | .mldt f => Sys2Proof.Machine.execMldt f s
  | .mfence f => Sys2Proof.Machine.execMfence f s
  | .mma f => Sys2Proof.Machine.execMma f s
  | .mmat f => Sys2Proof.Machine.execMmat f s
  | .mmasp f => Sys2Proof.Machine.execMmasp f s
  | .mzero f => Sys2Proof.Machine.execMzero f s
  | .mnew f => Sys2Proof.Machine.execMnew f s
  | .mhad f => Sys2Proof.Machine.execMhad f s
  | .mdrain f => Sys2Proof.Machine.execMdrain f s
  | .mcnt f => Sys2Proof.Machine.execMcnt f s
  | .mwaita f => Sys2Proof.Machine.execMwaita f s
  | .gather f => Sys2Proof.Machine.execGather f s
  | .scatter f => Sys2Proof.Machine.execScatter f s
  | .glcfg f => Sys2Proof.Machine.execGlcfg f s
  | .bale f => Sys2Proof.Machine.execBale f s
  | .unbale f => Sys2Proof.Machine.execUnbale f s
  | .coll f => Sys2Proof.Machine.execColl f s
  | .rcnt f => Sys2Proof.Machine.execRcnt f s
  | .rsnap f => Sys2Proof.Machine.execRsnap f s
  | .heapoffer f => Sys2Proof.Machine.execHeapoffer f s
  | .heapseal f => Sys2Proof.Machine.execHeapseal f s
  | .heapread f => Sys2Proof.Machine.execHeapread f s
  | .launch f => Sys2Proof.Machine.execLaunch f s
  | .launchd f => Sys2Proof.Machine.execLaunchd f s
  | .wset f => Sys2Proof.Machine.execWset f s
  | .wget f => Sys2Proof.Machine.execWget f s
  | .hinsp f => Sys2Proof.Machine.execHinsp f s
  | .hpoke f => Sys2Proof.Machine.execHpoke f s
  | .hstep f => Sys2Proof.Machine.execHstep f s
  | .hresume f => Sys2Proof.Machine.execHresume f s
  | .hkill f => Sys2Proof.Machine.execHkill f s
  | .lrelease f => Sys2Proof.Machine.execLrelease f s
  | .rrpop f => Sys2Proof.Machine.execRrpop f s
  | .rput f => Sys2Proof.Machine.execRput f s
  | .rdoneDone f => Sys2Proof.Machine.execRdoneDone f s
  | .rdoneReplay f => Sys2Proof.Machine.execRdoneReplay f s
  | .rdoneAbandon f => Sys2Proof.Machine.execRdoneAbandon f s
  | .sfpop f => Sys2Proof.Machine.execSfpop f s
  | .clauseStart => Sys2Proof.Machine.execClauseStart s
  | .dividerResult => Sys2Proof.Machine.execDividerResult s
  | .dyingTeamStop => Sys2Proof.Machine.execDyingTeamStop s
  | .conveyanceEntry => Sys2Proof.Machine.execConveyanceEntry s
  | .datapathLastPass => Sys2Proof.Machine.execDatapathLastPass s
  | .copyComplete => Sys2Proof.Machine.execCopyComplete s
  | .loadDelivery => Sys2Proof.Machine.execLoadDelivery s
  | .storePerform => Sys2Proof.Machine.execStorePerform s
  | .atomicPerform => Sys2Proof.Machine.execAtomicPerform s
  | .homeSliceServe => Sys2Proof.Machine.execHomeSliceServe s
  | .releaseBufferDrain => Sys2Proof.Machine.execReleaseBufferDrain s
  | .promotedAcquireReply => Sys2Proof.Machine.execPromotedAcquireReply s
  | .retryEntryWrite => Sys2Proof.Machine.execRetryEntryWrite s
  | .storeFaultRecordWrite => Sys2Proof.Machine.execStoreFaultRecordWrite s
  | .mwaitBudgetExpiry => Sys2Proof.Machine.execMwaitBudgetExpiry s
  | .matrixOpStart => Sys2Proof.Machine.execMatrixOpStart s
  | .matrixStep => Sys2Proof.Machine.execMatrixStep s
  | .matrixOpRetire => Sys2Proof.Machine.execMatrixOpRetire s
  | .mhadComplete => Sys2Proof.Machine.execMhadComplete s
  | .mdrainRow => Sys2Proof.Machine.execMdrainRow s
  | .gleanerDelivery => Sys2Proof.Machine.execGleanerDelivery s
  | .gleanerScatterWrite => Sys2Proof.Machine.execGleanerScatterWrite s
  | .balerComplete => Sys2Proof.Machine.execBalerComplete s
  | .unbaleComplete => Sys2Proof.Machine.execUnbaleComplete s
  | .collComplete => Sys2Proof.Machine.execCollComplete s
  | .routingBankExchange => Sys2Proof.Machine.execRoutingBankExchange s
  | .launchdFenceMet => Sys2Proof.Machine.execLaunchdFenceMet s
  | .hstepEnd => Sys2Proof.Machine.execHstepEnd s
  | .stepLimit => Sys2Proof.Machine.execStepLimit s
  | .teamHaltStop => Sys2Proof.Machine.execTeamHaltStop s
  | .deliveryTake => Sys2Proof.Machine.execDeliveryTake s
  | .teamWake => Sys2Proof.Machine.execTeamWake s
  | .teamPromote => Sys2Proof.Machine.execTeamPromote s
  | .holdSwap => Sys2Proof.Machine.execHoldSwap s
  | .forcedPromotion => Sys2Proof.Machine.execForcedPromotion s
  | .forcedActivePlace => Sys2Proof.Machine.execForcedActivePlace s
  | .plotPlacement => Sys2Proof.Machine.execPlotPlacement s
  | .gangReserve => Sys2Proof.Machine.execGangReserve s
  | .gangAbort => Sys2Proof.Machine.execGangAbort s
  | .headgatePreemption => Sys2Proof.Machine.execHeadgatePreemption s
  | .preemptionSave => Sys2Proof.Machine.execPreemptionSave s
  | .restore => Sys2Proof.Machine.execRestore s
  | .invalidationEntry => Sys2Proof.Machine.execInvalidationEntry s
  | .eccCorrected => Sys2Proof.Machine.execEccCorrected s
  | .predictiveFailure => Sys2Proof.Machine.execPredictiveFailure s
  | .uncorrectableError => Sys2Proof.Machine.execUncorrectableError s
  | .timingReplay => Sys2Proof.Machine.execTimingReplay s
  | .droopEvent => Sys2Proof.Machine.execDroopEvent s
  | .droopWindowEnd => Sys2Proof.Machine.execDroopWindowEnd s
  | .hotClearWindow => Sys2Proof.Machine.execHotClearWindow s
  | .powerCapControl => Sys2Proof.Machine.execPowerCapControl s
  | .thermalThrottle => Sys2Proof.Machine.execThermalThrottle s
  | .thermalTrip => Sys2Proof.Machine.execThermalTrip s
  | .mailboxRegisterWrite => Sys2Proof.Machine.execMailboxRegisterWrite s
  | .featRead => Sys2Proof.Machine.execFeatRead s
  | .featAccept => Sys2Proof.Machine.execFeatAccept s
  | .domainSet => Sys2Proof.Machine.execDomainSet s
  | .ctxSetup => Sys2Proof.Machine.execCtxSetup s
  | .ctxCreate => Sys2Proof.Machine.execCtxCreate s
  | .ctxDestroy => Sys2Proof.Machine.execCtxDestroy s
  | .coreset => Sys2Proof.Machine.execCoreset s
  | .preempt => Sys2Proof.Machine.execPreempt s
  | .killLaunch => Sys2Proof.Machine.execKillLaunch s
  | .debug => Sys2Proof.Machine.execDebug s
  | .report => Sys2Proof.Machine.execReport s
  | .countersRead => Sys2Proof.Machine.execCountersRead s
  | .countersClear => Sys2Proof.Machine.execCountersClear s
  | .countersProgram => Sys2Proof.Machine.execCountersProgram s
  | .attest => Sys2Proof.Machine.execAttest s
  | .powerCap => Sys2Proof.Machine.execPowerCap s
  | .bar2Read => Sys2Proof.Machine.execBar2Read s
  | .bar2Write => Sys2Proof.Machine.execBar2Write s
  | .peerRequest => Sys2Proof.Machine.execPeerRequest s
  | .linkCrcError => Sys2Proof.Machine.execLinkCrcError s
  | .linkFailure => Sys2Proof.Machine.execLinkFailure s
  | .linkTrainRetry => Sys2Proof.Machine.execLinkTrainRetry s
  | .powerGood => Sys2Proof.Machine.execPowerGood s
  | .hbmTrainingDone => Sys2Proof.Machine.execHbmTrainingDone s
  | .pcieLinkTrained => Sys2Proof.Machine.execPcieLinkTrained s
  | .luadorLinkTrained => Sys2Proof.Machine.execLuadorLinkTrained s

end Sys2Proof.Machine
end

