-- ==== Sys2Proof/Machine/Issue.lean ====
section
/-! DEFINITION. What stands around exec when a team issues: the KIND 5 weirs before the checks (R358, R396), the word at the team's position, and the issues of a REP (R102, R152); and what a turn of the agenda does. -/

namespace Sys2Proof.Machine

/-! ## REP (R102, R151, R152) -/

/-- A field of the repeated instruction: its code, the step, and whether it is a vector operand. -/
structure Stepped where
  code : Nat
  step : Int
  vector : Bool
  deriving DecidableEq, Repr

/-- A role of a vector operand. -/
def Role.isVector : Role → Bool
  | .src | .word | .truth | .dst | .dstWord | .dstOpt => true
  | _ => false

/-- Which of VD, VA and VB a repeatable opcode uses as vector operands (R151). -/
def vectorFields (op : Nat) (f : VFields) : Bool × Bool × Bool :=
  if op = 0x048 then (true, true, false)
  else if op = 0x049 ∨ op = 0x04A then (true, true, true)
  else if 0x050 ≤ op ∧ op ≤ 0x054 then (true, true, false)
  else if op = 0x106 ∨ op = 0x107 then (true, false, false)
  else if 0x100 ≤ op ∧ op ≤ 0x121 then (true, true, false)
  else
    let r := elemRoles op f
    (r.1.isVector, r.2.1.isVector, r.2.2.1.isVector)

/-- The code of a field at issue m; none where the step is refused (R102, R152). -/
def Stepped.at (x : Stepped) (m : Nat) : Option (BitVec 9) :=
  if x.step = 0 then some (BitVec.ofNat 9 x.code)
  else
    let c := (x.code : Int) + m * x.step
    if x.vector && decide (x.code ≤ 383) && decide (0 ≤ c) && decide (c ≤ 383) then some (BitVec.ofNat 9 c.toNat)
    else none

/-- The fields of issue m of a REP (R152). -/
def steppedFields (op : Nat) (f : VFields) (r : Rep) : Option VFields :=
  let (vd, va, vb) := vectorFields op f
  match Stepped.at ⟨f.vd.toNat, r.stepD, vd⟩ r.m, Stepped.at ⟨f.va.toNat, r.stepA, va⟩ r.m,
      Stepped.at ⟨f.vb.toNat, r.stepB, vb⟩ r.m with
  | some d, some a, some b => some { f with vd := d, va := a, vb := b }
  | _, _, _ => none

/-- Run issue m of a REP: the repeated instruction with its stepped codes, or the trap ILLEGAL_OPERAND in the
order of R103. -/
def runRepeat (s : State) (i : Instr) (r : Rep) : Host.Outcome State Fault Refusal :=
  match vOf i with
  | none =>
    if r.stepD = 0 ∧ r.stepA = 0 ∧ r.stepB = 0 then exec i s
    else issue s fun s t _ => s.trap t cOperand 0 0 0
  | some (op, f, _) =>
    match steppedFields op f r with
    | some g =>
      match ofV op g with
      | some j => exec j s
      | none => exec i s
    | none =>
      issue s fun s t _ =>
        let c := ((chkV s t op f).and { operand := true }).cause t.regs
        s.trap t (if featureGone s op then cOpcode else c.getD cOperand) 0 0 0

/-! ## The instruction at a team's position -/

/-- The parcels of a clause from the team's position on. -/
def Team.parcelsAt (t : Team) : List Word :=
  match t.clause with
  | some c => c.body.drop c.pos
  | none => []

/-- Evaluate the KIND 5 weirs of a timing for the instruction at a team's position (R358). -/
def pcEval (s : State) (t : Team) (timing : Nat) : WeirOut :=
  evalWeirs s t t.insnPc timing [5] { scalar := true, pcs := [{ lane := 1023, value := t.insnPc.toNat }] }

/-- The KIND 5 weirs of TIMING 0, once for an instruction, before the checks of R103 (R358, R396): the state, and the stop
that they find. -/
def pcBefore (s : State) (t : Team) : State × Option Trigger :=
  if t.pcSeen then (s, none)
  else
    let o := if t.exempt then { state := s } else pcEval s t 0
    (o.state.setTeam (o.state.catchUp { t with pcSeen := true }), o.stop)

/-- The KIND 5 weirs of TIMING 1, for an instruction that no TIMING 0 weir has stopped (R361, R363). -/
def pcAfter (s : State) (h : Handle) : State :=
  match s.team? h with
  | none => s
  | some t =>
    let o := pcEval s t 1
    o.state.setTeam ((o.state.catchUp t).addLate o.stop)

/-- Some weir of a core is enabled. -/
def State.weirsLive (s : State) (core : Nat) : Bool := (List.range 16).any fun n => (s.weir core n).en

/-- The instruction at the position of the team that issues, run. -/
def runAt (s : State) (t : Team) (rep : Option Rep) : Host.Outcome State Fault Refusal :=
  match decode t.parcelsAt with
  | .refused _ => issue s fun s t _ => s.trap t cOpcode 0 0 0
  | .ok i _ =>
    match rep with
    | none => exec i s
    | some r => runRepeat s i r

/-- The instruction at a team's position has issued, seen from what stands of the team after it: it has gone on or
exited, has parked in its instruction, or waits for an answer to it. -/
def Team.hasIssued (t : Team) : Option Team → Bool
  | none => true
  | some u =>
    decide (u.clause ≠ t.clause) ||
      (match u.run with | .parked .retry _ => false | .parked _ _ => true | _ => false) ||
      (match u.held with
       | some (h, _) => h.begun && (match t.held with | some (k, _) => !k.begun | none => true)
       | none => false)

/-- Passes of a vector instruction (R22): those with an active lane, and those without. -/
def Team.passes (t v : Team) : Nat × Nat :=
  let (k, op) := t.atWord
  if (k == 1 || k == 2) && (decide (op < 0x0F0) || (decide (0x200 ≤ op) && decide (op < 0x240))) then
    let ps := List.range (t.width / 32)
    let on := (ps.filter fun p => v.lanes.any fun l => l / 32 == p).length
    (on, ps.length - on)
  else (0, 0)

/-- The performance counters of the team's core see an instruction issue (R376). -/
def State.countIssue (s : State) (t v : Team) (s' : State) : State :=
  if (s.core (coreOf t.tid)).perf.isEmpty || !t.hasIssued (s'.team? t.tid) then s'
  else
    let core := coreOf t.tid
    let p := t.passes v
    ((s'.countPerf core t.ctx 1 1).countPerf core t.ctx 2 p.1).countPerf core t.ctx 3 p.2

/-- An instruction's outcome, with what the performance counters see. -/
def counted (s : State) (t : Team) (o : Host.Outcome State Fault Refusal) : Host.Outcome State Fault Refusal :=
  match o with
  | .next s' => .next (s.countIssue t (s.view t).1 s')
  | x => x

/-- Issue 0 of a REP takes the mask for all its issues, as the team reads it now (R84, R111, R152). -/
def State.takeMask (s : State) (t : Team) : State × Team :=
  match t.clause with
  | some c =>
    match c.rep with
    | some r =>
      if r.m = 0 then
        let v := s.view t
        let u := { t with clause := some { c with rep := some { r with mask := some v.1.window } } }
        ({ s with fresh := s.fresh + v.2 }.setTeam u, u)
      else (s, t)
    | none => (s, t)
  | none => (s, t)

/-- The instruction at a team's position under live weirs. It is tried first: KIND 5 weirs of TIMING 0 come before its
checks, and the weirs of the other kinds, where it meets them, act with them (R363, R396); an instruction that is only
held has met no TIMING 1 weir yet. One that none of them stops then runs under the KIND 5 weirs of TIMING 1. Log entry 24. -/
def weirIssue (s : State) (t : Team) (rep : Option Rep) : Host.Outcome State Fault Refusal :=
  let (s0, g) := pcBefore s t
  let mark := fun (s : State) (m : Option (Option Trigger)) => s.modTeam t.tid fun u => { u with weirMark := m }
  let start := mark s0 (some g)
  match runAt start (start.catchUp { t with pcSeen := true, weirMark := some g }) rep with
  | .next s1 =>
    let stoppedByWeir := match s1.team? t.tid with | some u => u.weirMark.isNone | none => false
    let settled := t.hasIssued (s1.team? t.tid) || t.trappedAt (s1.team? t.tid)
    if stoppedByWeir then .next s1
    else match g with
      | some g => .next (s0.weirStop t.tid g)
      | none =>
        if !settled then .next (mark s1 none)
        else
          let s2 := pcAfter s0 t.tid
          match s2.team? t.tid with
          | some u => counted s2 u (runAt s2 u rep)
          | none => .next s2
  | x => x

/-- What a team holds of the mask with which its instruction comes to issue: whether the focus lane of a step is active
(R270), and at issue 0 of a REP the mask for all its issues (R152). -/
def State.comesToIssue (s : State) (t : Team) : State × Team :=
  let (s1, t1) := s.takeMask t
  match t1.stepping with
  | some st =>
    let u := { t1 with stepping := some { st with on := (s1.view t1).1.active st.focus } }
    (s1.setTeam u, u)
  | none => (s1, t1)

/-- The team cur comes to issue: a clause start, or the instruction at its position. -/
def issueStep (s : State) : Host.Outcome State Fault Refusal :=
  match s.team? s.cur with
  | none => .next s
  | some t =>
    match t.clause with
    | none => exec .clauseStart s
    | some c =>
      if !s.canIssue t then .next s
      else
        let (s1, t1) := s.comesToIssue t
        if s1.dividing t1 || t1.awaitsScalars then runAt s1 t1 c.rep
        else if s1.weirsLive (coreOf t.tid) && !(t1.atMasked && (s1.view t1).1.lanes.isEmpty) then weirIssue s1 t1 c.rep
        else counted s1 t1 (runAt s1 t1 c.rep)

/-! ## Turns of the agenda. Log entry 1 -/

/-- The clock of a core advances (R122). -/
def State.tick (s : State) (core n : Nat) : State := s.modCore core fun c => { c with cyc := c.cyc + n }

/-- The name of an event of the machine: no word of code holds it. -/
def isEvent (i : Instr) : Bool := (vOf i).isNone && !i.isScalarFormat

/-- What one turn does. Log entry 4. -/
def takeTurn (s : State) : Turn → Host.Outcome State Fault Refusal
  | .issue h n => issueStep { s.tick (coreOf h) n with cur := h }
  | .event i a => if isEvent i then exec i { s with arg := a } else .next s
  | .tick c n => .next (s.tick c n)
  | .tlbDrop p n => .next (s.modCore (p / 8) fun k =>
      if p % 8 < Config.partitions then { k with first := spWrite [] k.first (p % 8) (eraseAt (spRead [] k.first (p % 8)) n) }
      else { k with tlb := eraseAt k.tlb n })
  | .lineDrop c n => .next (s.modCore c fun k => { k with cache := eraseAt k.cache n })
  | .sliceDrop n => .next { s with dcache := eraseAt s.dcache n }
  | .posted n => .next (s.performPosted n)
  | .accesses a n => .next (s.modArray a fun e => e.access n)
  | .undervolt a => .next (s.modArray a ArrayErr.lower)
  | .clearMark a => .next (s.modArray a fun e => { e with suspect := false })
  | .temperature c d => .next (s.modCore c fun k => { k with temp := d })
  | .outside pa bs =>
    if s.isHost pa || paModule pa != s.moduleNumber.toNat then
      .next ((linesOf pa bs.length).foldl (fun st l => st.fireLine l 0) { s with mem := memWrite s.mem pa bs })
    else .next s

/-! ## Running one instruction: what withFetchWord sets up. Log entry 6 -/

/-- The handle of the team that runs it: the supervisor's slot of core 0 (R31, R400). -/
def fetchHandle : Handle := mkHandle 0 0 Config.supervisorSlot 1

/-- The header of its clause: mixed class, sixteen instructions, thirty-two parcels, no flags (R88). -/
def fetchHeader : Dword :=
  dw (3 * 2 ^ 62 + 6 * 2 ^ 58 + 15 * 2 ^ 54 + 15 * 2 ^ 33 + 15 * 2 ^ 29)

/-- The clause, fetched, at its first instruction: the instruction's parcels, then NOPs. -/
def fetchClause (w : Nat) : Clause where
  addr := 0x10000
  hdr := fetchHeader
  body := [BitVec.ofNat 32 w, BitVec.ofNat 32 (w / 2 ^ 32), BitVec.ofNat 32 (w / 2 ^ 64)] ++ List.replicate 29 0

/-- A team ACTIVE in that clause, as a context's supervisor stands (R106, R400). -/
def fetchTeam (w : Nat) : Team where
  tid := fetchHandle
  ctx := 0
  lid := 1
  plot := 0
  index := 0
  width := 32
  regs := 384
  run := .active
  pc := 0x10000
  clause := some (fetchClause w)
  s := (List.range 16).map fun n => (n, 0xFFFFFFFFFFFFFFFF#64)

/-- The context whose supervisor it is. -/
def fetchContext : Context where
  id := 0
  apBase := 0
  saveSize := 0
  live := true
  nextLid := 2
  supervisor := fetchHandle

/-- The state with an instruction fetched into a team's clause buffer, that team issuing next. -/
def State.fetched (s : State) (w : Nat) : State :=
  { s with
    agenda := []
    cur := fetchHandle
    teams := fetchTeam w :: s.teams.filter (fun t => !(t.tid == fetchHandle))
    ctxs := fetchContext :: s.ctxs.filter (fun c => !(c.id == 0)) }

end Sys2Proof.Machine
end

