-- ==== Sys2Proof/Machine/Step.lean ====
section
/-! DEFINITION. One step of the machine: the next turn of the agenda, or, when nothing stands on it, the team cur issues (log entry 1). -/

namespace Sys2Proof.Machine

/-- One step. -/
def step (s : State) : Host.Outcome State Fault Refusal :=
  match s.agenda with
  | [] => issueStep s
  | t :: rest => takeTurn { s with agenda := rest } t

/-- The state in which the next step fetches and runs the instruction whose bits are w, numbered as the opcode
table numbers them: it stands in the clause buffer of an ACTIVE team (R91), which issues next. Log entry 6. -/
def State.withFetchWord (s : State) (nbits w : Nat) : State := s.fetched (w % 2 ^ nbits)

end Sys2Proof.Machine
end

