-- ==== Sys2Proof/Safety.lean ====
section
/-! DEFINITION. The terms that claims about the machine use: memory in its canonical form, a team that nothing keeps from its instruction, and what an instruction leaves of its team. -/

namespace Sys2Proof.Machine

/-- Memory keeps its canonical form: equal memories are equal data. -/
def State.MemCanonical (s : State) : Prop := Memory.wf s.mem = true

/-- A step goes on: neither a fault nor a refusal. -/
def State.Goes (s : State) : Prop := ∃ s', step s = .next s'

/-- The weirs of a team's core are off (EN is 0 in each, R355). -/
def State.weirsOff (s : State) (t : Team) : Bool := (List.range 16).all fun n => !(s.weir (coreOf t.tid) n).en

/-- Team t stands at an instruction that it may issue, and nothing else takes part: it is the team that issues, it
stands in a clause without YIELD, the divider and both vector stages are empty of its work, no load or value-returning
atomic and no matrix operation is to write or to read its registers, no RPUT waits for its flag (R109), the weirs of its
core are off, and no debug step is in progress. -/
def State.poised (s : State) (t : Team) : Bool :=
  s.team? s.cur == some t && t.clause.isSome && s.canIssue t && !s.dividing t && t.datapath.isNone
    && t.hadamard.isNone && !s.loadsPending t.tid && (s.runRegs t).isEmpty && s.weirsOff t && t.late.isNone
    && t.stepping.isNone && !t.leaveAtEnd && !t.clauseYield && !(s.rputs.any fun r => r.tid == t.tid)
    && t.weirMark.isNone

/-- The team past its instruction: at the next word, or at the next header (R87), its issue bookkeeping cleared. -/
def Team.gone (t : Team) : Team := t.advance.retired1

/-- The instruction completes, and of the whole machine only team t changes, into u. -/
def CompletesAs (i : Instr) (s : State) (u : Team) : Prop := exec i s = .next (s.setTeam u)

/-- Only scalar registers differ from the team gone on: what s[n] holds after is ws n, or what it held before. -/
def Team.writesS (t u : Team) (ws : Nat → Option Dword) : Prop :=
  u = { t.gone with s := u.s } ∧ ∀ n, u.getS n = (ws n).getD (t.getS n)

/-- The instruction completes with one scalar register written and nothing else changed but the team's place. -/
def SetsScalar (i : Instr) (s : State) (t : Team) (d : BitVec 7) (x : Dword) : Prop :=
  ∃ u, CompletesAs i s u ∧ t.writesS u fun n => if n = d.toNat then some x else none

end Sys2Proof.Machine
end

