-- ==== Sys2Proof/Certificates/Slice0/Obligations.lean ====
section
/-! DEFINITION. The statements for the provers, and the terms of the manual's rules that they are written in. -/

namespace Sys2Proof.Claims

open Sys2Proof Sys2Proof.Machine

/-! ## Scalar rules: the register written and its value -/

/-- R133 but for division: the two-operand arithmetic and logic instructions. -/
def arithRule (t : Team) : Instr → Option (BitVec 7 × Dword)
  | .saddReg d a b => some (d, t.getS a.toNat + t.getS b.toNat)
  | .saddImm d a i => some (d, t.getS a.toNat + i.signExtend 64)
  | .ssubReg d a b => some (d, t.getS a.toNat - t.getS b.toNat)
  | .ssubImm d a i => some (d, t.getS a.toNat - i.signExtend 64)
  | .smulReg d a b => some (d, t.getS a.toNat * t.getS b.toNat)
  | .smulImm d a i => some (d, t.getS a.toNat * i.signExtend 64)
  | .smulhReg d a b => some (d, BitVec.ofInt 64 ((t.getS a.toNat).toInt * (t.getS b.toNat).toInt / 2 ^ 64))
  | .smulhImm d a i => some (d, BitVec.ofInt 64 ((t.getS a.toNat).toInt * i.toInt / 2 ^ 64))
  | .sandReg d a b => some (d, t.getS a.toNat &&& t.getS b.toNat)
  | .sandImm d a i => some (d, t.getS a.toNat &&& i.signExtend 64)
  | .sorReg d a b => some (d, t.getS a.toNat ||| t.getS b.toNat)
  | .sorImm d a i => some (d, t.getS a.toNat ||| i.signExtend 64)
  | .sxorReg d a b => some (d, t.getS a.toNat ^^^ t.getS b.toNat)
  | .sxorImm d a i => some (d, t.getS a.toNat ^^^ i.signExtend 64)
  | .sandnReg d a b => some (d, t.getS a.toNat &&& ~~~(t.getS b.toNat))
  | .sandnImm d a i => some (d, t.getS a.toNat &&& ~~~(i.signExtend 64))
  | .sminReg d a b =>
    some (d, if (t.getS a.toNat).toInt ≤ (t.getS b.toNat).toInt then t.getS a.toNat else t.getS b.toNat)
  | .sminImm d a i => some (d, if (t.getS a.toNat).toInt ≤ i.toInt then t.getS a.toNat else i.signExtend 64)
  | .smaxReg d a b =>
    some (d, if (t.getS b.toNat).toInt ≤ (t.getS a.toNat).toInt then t.getS a.toNat else t.getS b.toNat)
  | .smaxImm d a i => some (d, if i.toInt ≤ (t.getS a.toNat).toInt then t.getS a.toNat else i.signExtend 64)
  | _ => none

/-- R136: shifts and rotates, the amount from bits [5:0]. -/
def shiftRule (t : Team) : Instr → Option (BitVec 7 × Dword)
  | .sshlReg d a b => some (d, t.getS a.toNat <<< ((t.getS b.toNat).toNat % 64))
  | .sshlImm d a n => some (d, t.getS a.toNat <<< n.toNat)
  | .sshrReg d a b => some (d, t.getS a.toNat >>> ((t.getS b.toNat).toNat % 64))
  | .sshrImm d a n => some (d, t.getS a.toNat >>> n.toNat)
  | .ssarReg d a b => some (d, (t.getS a.toNat).sshiftRight ((t.getS b.toNat).toNat % 64))
  | .ssarImm d a n => some (d, (t.getS a.toNat).sshiftRight n.toNat)
  | .srolReg d a b => some (d, (t.getS a.toNat).rotateLeft ((t.getS b.toNat).toNat % 64))
  | .srolImm d a n => some (d, (t.getS a.toNat).rotateLeft n.toNat)
  | _ => none

/-- The value of a three-way compare: all ones, 0 or 1 (R139). -/
def threeWay (lt gt : Prop) [Decidable lt] [Decidable gt] : Dword :=
  if lt then BitVec.allOnes 64 else if gt then 1 else 0

/-- R135, R139, R140: SLEA, SCMP, SCMP.u and SSEL. -/
def selectRule (t : Team) : Instr → Option (BitVec 7 × Dword)
  | .slea1 d a b => some (d, t.getS a.toNat + t.getS b.toNat)
  | .slea2 d a b => some (d, t.getS a.toNat + t.getS b.toNat * 2)
  | .slea4 d a b => some (d, t.getS a.toNat + t.getS b.toNat * 4)
  | .slea8 d a b => some (d, t.getS a.toNat + t.getS b.toNat * 8)
  | .slea16 d a b => some (d, t.getS a.toNat + t.getS b.toNat * 16)
  | .scmpReg d a b =>
    some (d, threeWay ((t.getS a.toNat).toInt < (t.getS b.toNat).toInt) ((t.getS b.toNat).toInt < (t.getS a.toNat).toInt))
  | .scmpImm d a i => some (d, threeWay ((t.getS a.toNat).toInt < i.toInt) (i.toInt < (t.getS a.toNat).toInt))
  | .scmpUReg d a b => some (d, threeWay (t.getS a.toNat < t.getS b.toNat) (t.getS b.toNat < t.getS a.toNat))
  | .scmpUImm d a i => some (d, threeWay (t.getS a.toNat < i.signExtend 64) (i.signExtend 64 < t.getS a.toNat))
  | .sselReg d a b => some (d, if t.getS d.toNat = 0 then t.getS b.toNat else t.getS a.toNat)
  | .sselImm d a i => some (d, if t.getS d.toNat = 0 then i.signExtend 64 else t.getS a.toNat)
  | _ => none

/-- Bits [hi:lo] of a dword as a number (R5). -/
def field (x : Dword) (hi lo : Nat) : Nat := (x.extractLsb hi lo).toNat

/-- R138: the field of s[SA] that s[SB] describes, extended or not. -/
def extractRule (a b : Dword) : Dword :=
  let n := min (field b 14 8) (64 - field b 5 0)
  let m : Dword := BitVec.ofNat 64 (2 ^ n - 1)
  let f := (a >>> field b 5 0) &&& m
  if b.getLsbD 15 ∧ 0 < n ∧ f.getLsbD (n - 1) then f ||| ~~~m else f

/-- R138: s[SD] with the low bits of s[SA] put into the field that s[SB] describes. -/
def insertRule (d a b : Dword) : Dword :=
  let n := min (field b 14 8) (64 - field b 5 0)
  let m : Dword := BitVec.ofNat 64 (2 ^ n - 1) <<< field b 5 0
  (d &&& ~~~m) ||| ((a <<< field b 5 0) &&& m)

/-- x has exactly n zero bits above its highest set bit; 64 for zero. -/
def zerosAbove (x : Dword) (n : Nat) : Prop :=
  n ≤ 64 ∧ (∀ i, 64 - n ≤ i → x.getLsbD i = false) ∧ (n < 64 → x.getLsbD (63 - n) = true)

/-- x has exactly n zero bits below its lowest set bit; 64 for zero. -/
def zerosBelow (x : Dword) (n : Nat) : Prop :=
  n ≤ 64 ∧ (∀ i < n, x.getLsbD i = false) ∧ (n < 64 → x.getLsbD n = true)

/-- R138, R141 short forms, R145: bit fields, moves, and the counts of active lanes. -/
def moveRule (t : Team) : Instr → Option (BitVec 7 × Dword)
  | .sbfx d a b => some (d, extractRule (t.getS a.toNat) (t.getS b.toNat))
  | .sbfi d a b => some (d, insertRule (t.getS d.toNat) (t.getS a.toNat) (t.getS b.toNat))
  | .smov d a => some (d, t.getS a.toNat)
  | .sli d i => some (d, i.signExtend 64)
  | .mpop d => some (d, BitVec.ofNat 64 t.lanes.length)
  | .mfirst d => some (d, match t.lanes with | [] => BitVec.allOnes 64 | l :: _ => BitVec.ofNat 64 l)
  | _ => none

/-- R141: the value that a long SLI loads beside what the register held. -/
def longLoadRule (old : Dword) (f : VFields) : Instr → Option Dword
  | .sliLong _ => some ((f.lit.getD 0).signExtend 64)
  | .sliZ _ => some ((f.lit.getD 0).setWidth 64)
  | .sliHi _ => some ((f.lit.getD 0) ++ old.setWidth 32)
  | _ => none

end Sys2Proof.Claims

open Sys2Proof Sys2Proof.Machine Sys2Proof.Claims

/-! ## Scalar instructions -/

/-- R133 (SADD, SSUB, SMUL, SMULH, SAND, SOR, SXOR, SANDN, SMIN, SMAX, both forms): s[SD] gets the value of the
table, the team goes on to its next instruction, and nothing else in the machine changes. -/
def Sys2Proof.Claims.ScalarArithmeticWritesItsResult : Prop :=
  ∀ (s : State) (t : Team) (i : Instr) (d : BitVec 7) (x : Dword), s.poised t = true →
    arithRule t i = some (d, x) → SetsScalar i s t d x

/-- R136 (SSHL, SSHR, SSAR, SROL, both forms). -/
def Sys2Proof.Claims.ScalarShiftWritesItsResult : Prop :=
  ∀ (s : State) (t : Team) (i : Instr) (d : BitVec 7) (x : Dword), s.poised t = true →
    shiftRule t i = some (d, x) → SetsScalar i s t d x

/-- R135, R139, R140 (SLEA, SCMP, SCMP.u, SSEL). -/
def Sys2Proof.Claims.ScalarCompareAndSelectWriteTheirResult : Prop :=
  ∀ (s : State) (t : Team) (i : Instr) (d : BitVec 7) (x : Dword), s.poised t = true →
    selectRule t i = some (d, x) → SetsScalar i s t d x

/-- R137 (SCLZ, SCTZ, SPOP): counts of zero bits above and below, and of set bits. -/
def Sys2Proof.Claims.ScalarCountsWriteTheirCount : Prop :=
  ∀ (s : State) (t : Team) (d a : BitVec 7), s.poised t = true →
    (∃ n, zerosAbove (t.getS a.toNat) n ∧ SetsScalar (.sclz d a) s t d (BitVec.ofNat 64 n)) ∧
    (∃ n, zerosBelow (t.getS a.toNat) n ∧ SetsScalar (.sctz d a) s t d (BitVec.ofNat 64 n)) ∧
    SetsScalar (.spop d a) s t d
      (BitVec.ofNat 64 ((List.range 64).filter fun i => (t.getS a.toNat).getLsbD i).length)

/-- R138, R141 (short SLI, SMOV), R145 (MPOP, MFIRST): fields, moves and counts of active lanes. -/
def Sys2Proof.Claims.ScalarFieldsAndMovesWriteTheirResult : Prop :=
  ∀ (s : State) (t : Team) (i : Instr) (d : BitVec 7) (x : Dword), s.poised t = true →
    moveRule t i = some (d, x) → SetsScalar i s t d x

/-- Scalar arithmetic, shifts, compares, selects, counts and fields write their result and nothing else. -/
def Obligations.ScalarInstructionWritesItsResult : Prop :=
  Claims.ScalarArithmeticWritesItsResult ∧
  Claims.ScalarShiftWritesItsResult ∧
  Claims.ScalarCompareAndSelectWriteTheirResult ∧
  Claims.ScalarCountsWriteTheirCount ∧
  Claims.ScalarFieldsAndMovesWriteTheirResult

/-- R141 (the long SLI, SLI.z, SLI.hi): s[VD] gets LIT as the form says; a VD above 127 traps ILLEGAL_OPERAND (R96). -/
def Sys2Proof.Claims.LongLoadImmediateWritesItsForm : Prop :=
  ∀ (s : State) (t : Team) (f : VFields) (i : Instr) (x : Dword), s.poised t = true →
    (i = .sliLong f ∨ i = .sliZ f ∨ i = .sliHi f) → longLoadRule (t.getS f.vd.toNat) f i = some x →
    (f.vd.toNat < 128 → SetsScalar i s t (f.vd.setWidth 7) x) ∧
    (128 ≤ f.vd.toNat → exec i s = .next (s.trap t 0x03 0 0 0))

/-! ## System registers, masks and the divider -/

namespace Sys2Proof.Claims

open Sys2Proof Sys2Proof.Machine

/-- TSTAT as R120 lays it out, from the top bit down. -/
def standing (s : State) (t : Team) : Dword :=
  (0 : BitVec 23) ++ BitVec.ofNat 9 t.estate.length ++ t.bereaved ++ (0 : BitVec 4) ++ t.preempts ++ (0 : BitVec 11)
    ++ BitVec.ofBool (hTwin (s.header t)) ++ BitVec.ofBool (hGang (s.header t)) ++ BitVec.ofBool (hPstore (s.header t))
    ++ BitVec.ofBool t.dbgp ++ BitVec.ofBool (s.isSup t)

/-- R119: what SGET reads under each code but HOLD's. -/
def sgetRule (s : State) (t : Team) : Nat → Option Dword
  | 0 => some (t.fsr.setWidth 64)
  | 1 => some (t.rmode.setWidth 64)
  | 2 => some (t.nbv.setWidth 64)
  | 3 => some (standing s t)
  | 4 => some (t.tid.setWidth 64)
  | 5 => some (BitVec.ofNat 32 t.ctx ++ BitVec.ofNat 32 t.lid)
  | 6 => some (BitVec.ofNat 64 (s.core (coreOf t.tid)).cyc)
  | 7 => some t.key
  | 9 => some (t.dbg.setWidth 64)
  | _ => none

/-- R60, R70, R119: the team as a permitted SSET of a value leaves its registers. -/
def ssetRule (t : Team) (x : Dword) : Nat → Option Team
  | 0 => some { t with fsr := x.setWidth 8 }
  | 1 => if 1 ≤ field x 2 0 ∧ field x 2 0 ≤ 5 then some { t with rmode := x.setWidth 3 } else none
  | 2 => if t.retired = false ∧ (field x 7 0 = 1 ∨ field x 7 0 = 2) then some { t with nbv := x.setWidth 8 } else none
  | 7 => some { t with key := x }
  | 9 => some { t with dbg := x.setWidth 2 }
  | _ => none

/-- R133, R134: destination and result of the divider. -/
def divideRule (t : Team) : Instr → Option (BitVec 7 × Int)
  | .sdivReg d a b => some (d, Int.tdiv (t.getS a.toNat).toInt (t.getS b.toNat).toInt)
  | .sdivImm d a i => some (d, Int.tdiv (t.getS a.toNat).toInt i.toInt)
  | .sremReg d a b => some (d, Int.tmod (t.getS a.toNat).toInt (t.getS b.toNat).toInt)
  | .sremImm d a i => some (d, Int.tmod (t.getS a.toNat).toInt i.toInt)
  | _ => none

end Sys2Proof.Claims

/-- R142 (SWID): field k of the identifier of any lane of the team, with k from 1 to 5; another k traps
ILLEGAL_OPERAND. -/
def Sys2Proof.Claims.WorkIdentifierFieldIsRead : Prop :=
  ∀ (s : State) (t : Team) (d : BitVec 7) (k : BitVec 8), s.poised t = true →
    (1 ≤ k.toNat ∧ k.toNat ≤ 5 →
      SetsScalar (.swid d k) s t d
        (BitVec.ofNat 64 (s.workId t 0 / 2 ^ ((List.range k.toNat).map (hW (s.header t))).sum
          % 2 ^ hW (s.header t) k.toNat))) ∧
    (k.toNat = 0 ∨ 5 < k.toNat → exec (.swid d k) s = .next (s.trap t 0x03 0 0 0))

/-- R100, R119, R120, R124, R143 (SGET): each code's register is read; HOLD goes to sixteen registers that start at a
multiple of 16; another code, or another place for HOLD, traps ILLEGAL_OPERAND. -/
def Sys2Proof.Claims.SystemRegisterIsRead : Prop :=
  ∀ (s : State) (t : Team) (d : BitVec 7) (c : BitVec 8), s.poised t = true →
    (∀ x, sgetRule s t c.toNat = some x → SetsScalar (.sget d c) s t d x) ∧
    (c.toNat = 8 ∧ d.toNat % 16 = 0 ∧ d.toNat ≤ 112 →
      ∃ u, CompletesAs (.sget d c) s u ∧ t.writesS u fun n =>
        if d.toNat ≤ n ∧ n < d.toNat + 16 then some (t.hold.extractLsb' (64 * (n - d.toNat)) 64) else none) ∧
    (9 < c.toNat ∨ (c.toNat = 8 ∧ ¬(d.toNat % 16 = 0 ∧ d.toNat ≤ 112)) →
      exec (.sget d c) s = .next (s.trap t 0x03 0 0 0))

/-- R60, R70, R100, R119 (SSET): a permitted write changes that register alone; DBG by a team that is neither
supervisor nor debug-privileged traps PRIVILEGE, and any other forbidden write ILLEGAL_OPERAND, with nothing written. -/
def Sys2Proof.Claims.SystemRegisterIsWrittenAsPermitted : Prop :=
  ∀ (s : State) (t : Team) (a : BitVec 7) (c : BitVec 8), s.poised t = true →
    (c.toNat = 9 ∧ s.isDbg t = false → exec (.sset a c) s = .next (s.trap t 0x06 0 0 0)) ∧
    (¬(c.toNat = 9 ∧ s.isDbg t = false) →
      (∀ u, ssetRule t (t.getS a.toNat) c.toNat = some u → CompletesAs (.sset a c) s u.gone) ∧
      (ssetRule t (t.getS a.toNat) c.toNat = none → exec (.sset a c) s = .next (s.trap t 0x03 0 0 0)))

/-- R145 (MELECT): of the registers of the width, the bit of the lowest active lane alone is set; with no lane active
they are zero; the registers above stay. -/
def Sys2Proof.Claims.ElectKeepsLowestActiveLane : Prop :=
  ∀ (s : State) (t : Team), s.poised t = true →
    ∃ u, CompletesAs .melect s u ∧ t.writesS u fun n =>
      if n < min 16 (max 1 (t.width / 64)) then
        some (match t.lanes with
          | [] => 0
          | l :: _ => if l / 64 = n then BitVec.twoPow 64 (l % 64) else 0)
      else none

/-- SLI long forms, SWID, SGET and MELECT write what their rules give. -/
def Obligations.RegisterReadsAndLoadsWriteTheirValue : Prop :=
  Claims.LongLoadImmediateWritesItsForm ∧
  Claims.WorkIdentifierFieldIsRead ∧
  Claims.SystemRegisterIsRead ∧
  Claims.ElectKeepsLowestActiveLane

/-- R131, R133, R134 (SDIV, SREM, both forms; DIVIDER_RESULT): a free divider of the partition takes the operation for
24 cycles; the team issues nothing until its end; then the result stands in s[SD] and the divider is free. Division by
zero gives 0 and leaves A as the remainder. -/
def Obligations.DivisionTakesTheDivider : Prop :=
  (∀ (s : State) (t : Team) (i : Instr) (d : BitVec 7) (x : Int), s.poised t = true →
    spRead none (s.core (coreOf t.tid)).divides (partOf t.tid) = none → divideRule t i = some (d, x) →
    ∃ s', exec i s = .next s' ∧ s'.team? t.tid = some t.gone ∧ s'.dividing t.gone = true ∧
      s' = { s.setTeam t.gone with cores := s'.cores } ∧
      (∀ c, s'.core c = if c = coreOf t.tid then { s.core c with divides := (s'.core c).divides } else s.core c) ∧
      ∀ p, spRead none (s'.core (coreOf t.tid)).divides p =
        if p = partOf t.tid then
          some { tid := t.tid, d, result := BitVec.ofInt 64 x, readyAt := (s.core (coreOf t.tid)).cyc + 24 }
        else spRead none (s.core (coreOf t.tid)).divides p) ∧
  (∀ (s : State) (t : Team) (v : Divide), spRead none (s.core s.arg.a).divides s.arg.b = some v →
    v.readyAt ≤ (s.core s.arg.a).cyc → s.team? v.tid = some t → s.loadsPending v.tid = false →
    ∃ s', exec .dividerResult s = .next s' ∧ s' = { s with teams := s'.teams, cores := s'.cores } ∧
      s'.team? v.tid = some { t.setS v.d.toNat v.result with held := none } ∧
      (∀ h, h ≠ v.tid → s'.team? h = s.team? h) ∧
      spRead none (s'.core s.arg.a).divides s.arg.b = none)

/-! ## Control transfers, flags, REP, traps and segments -/

namespace Sys2Proof.Claims

open Sys2Proof Sys2Proof.Machine

/-- A condition of BCC by its code, in the order of R147. -/
def conditionHolds (c : Nat) (x : Dword) : Option Bool :=
  match c with
  | 0 => some (decide (x.toInt = 0))
  | 1 => some (decide (x.toInt ≠ 0))
  | 2 => some (decide (x.toInt < 0))
  | 3 => some (decide (0 ≤ x.toInt))
  | 4 => some (decide (0 < x.toInt))
  | 5 => some (decide (x.toInt ≤ 0))
  | _ => none

/-- A long branch's offset (R146). -/
def longOffset (f : VFields) : Dword := (f.lit.getD 0).signExtend 64

/-- R147, R148: the offset in parcels of a branch, and whether it is taken; of a long branch, under the condition of
R96 on its register field. -/
def branchRule (t : Team) : Instr → Option (Dword × Bool)
  | .bccZ r o => (conditionHolds 0 (t.getS r.toNat)).map fun c => (o.signExtend 64, c)
  | .bccNz r o => (conditionHolds 1 (t.getS r.toNat)).map fun c => (o.signExtend 64, c)
  | .bccLt r o => (conditionHolds 2 (t.getS r.toNat)).map fun c => (o.signExtend 64, c)
  | .bccGe r o => (conditionHolds 3 (t.getS r.toNat)).map fun c => (o.signExtend 64, c)
  | .bccGt r o => (conditionHolds 4 (t.getS r.toNat)).map fun c => (o.signExtend 64, c)
  | .bccLe r o => (conditionHolds 5 (t.getS r.toNat)).map fun c => (o.signExtend 64, c)
  | .bccLong f =>
    if f.vd.toNat < 128 then (conditionHolds f.fn.toNat (t.getS f.vd.toNat)).map fun c => (longOffset f, c) else none
  | .bra o => some (o.signExtend 64, true)
  | .braLong f => some (longOffset f, true)
  | .bmz o => some (o.signExtend 64, decide (∀ l < t.width, t.active l = false))
  | .bmzLong f => some (longOffset f, decide (∀ l < t.width, t.active l = false))
  | .bmnz o => some (o.signExtend 64, decide (∃ l < t.width, t.active l = true))
  | .bmnzLong f => some (longOffset f, decide (∃ l < t.width, t.active l = true))
  | .bmall o => some (o.signExtend 64, decide (∀ l < t.width, t.active l = true))
  | .bmallLong f => some (longOffset f, decide (∀ l < t.width, t.active l = true))
  | _ => none

/-- A team that has jumped: between clauses, at the header named. -/
def jumped (t : Team) (a : Dword) : Team := { t.retired1 with clause := none, pc := a }

/-- The registers of R115 that the headgate assigns as a region: the base and size that a new base and limit must stay
within; none for the other segments. -/
def insideRegion (s : State) (t : Team) (g : Nat) (b n : Dword) : Prop :=
  match s.region t g with
  | none => True
  | some r => n = 0 ∨ (r.1 ≤ b.toNat ∧ b.toNat + n.toNat ≤ r.1 + r.2)

/-- R116: what SEGSET accepts. -/
def segmentAccepted (s : State) (t : Team) (g : Nat) (b n : Dword) : Prop :=
  b.toNat + n.toNat < 2 ^ 64 ∧ insideRegion s t g b n ∧ (g ≠ 1 → b.toNat + n.toNat ≤ 2 ^ 56)

end Sys2Proof.Claims

/-- R146 to R148 (BCC, BRA, BMZ, BMNZ, BMALL, short and long): taken, the team goes to the branch's address plus four
times the offset; not taken, to what follows. Nothing else changes. A long BCC that names a register above 127 traps
ILLEGAL_OPERAND. -/
def Sys2Proof.Claims.BranchGoesWhereItsConditionSays : Prop :=
  ∀ (s : State) (t : Team) (i : Instr), s.poised t = true →
    (∀ (off : Dword) (taken : Bool), branchRule t i = some (off, taken) →
      CompletesAs i s (if taken then jumped t (t.insnPc + off * 4) else t.gone)) ∧
    (∀ f, i = .bccLong f → 128 ≤ f.vd.toNat → exec i s = .next (s.trap t 0x03 0 0 0))

/-- R149 (CALL, RET, JMPI): CALL links the parcel after it, 4 bytes on in the short form and 12 in the long form, and
jumps; RET and JMPI jump to s[SA], and trap ILLEGAL_OPERAND unless it is a multiple of 4. -/
def Sys2Proof.Claims.CallLinksAndJumpsReturn : Prop :=
  ∀ (s : State) (t : Team), s.poised t = true →
    (∀ (k : BitVec 7) (o : BitVec 15),
      CompletesAs (.call k o) s (jumped (t.setS k.toNat (t.insnPc + 4)) (t.insnPc + o.signExtend 64 * 4))) ∧
    (∀ f : VFields, f.vd.toNat < 128 →
      CompletesAs (.callLong f) s (jumped (t.setS f.vd.toNat (t.insnPc + 12)) (t.insnPc + longOffset f * 4))) ∧
    (∀ f : VFields, 128 ≤ f.vd.toNat → exec (.callLong f) s = .next (s.trap t 0x03 0 0 0)) ∧
    (∀ (i : Instr) (a : BitVec 7), i = .ret a ∨ i = .jmpi a →
      ((t.getS a.toNat).toNat % 4 = 0 → CompletesAs i s (jumped t (t.getS a.toNat))) ∧
      ((t.getS a.toNat).toNat % 4 ≠ 0 → exec i s = .next (s.trap t 0x03 0 0 0)))

/-- Branches, CALL, RET and JMPI go where their rules say. -/
def Obligations.BranchesCallsAndJumpsGoToTheirTarget : Prop :=
  Claims.BranchGoesWhereItsConditionSays ∧
  Claims.CallLinksAndJumpsReturn

/-- R36, R88, R113, R150, R153, R154 (NOP, YIELD, FSET, FCLR, FWAIT): NOP only goes on; FSET and FCLR change the
software bits of the named flags alone; FWAIT goes on once every named flag is clear, and before that the team stays
at it, held; YIELD at its clause's end makes the team PENDING if an eligible team waits. -/
def Sys2Proof.Claims.FlagsAndYieldAct : Prop :=
  ∀ (s : State) (t : Team) (m : BitVec 12), s.poised t = true →
    CompletesAs .nop s t.gone ∧
    (∀ (i : Instr) (b : Bool), (i = .fset m ∧ b = true) ∨ (i = .fclr m ∧ b = false) →
      ∃ u, CompletesAs i s u ∧ u = { t.gone with flags := u.flags } ∧
        ∀ n, u.flag n = if m.getLsbD n then { t.flag n with soft := b } else t.flag n) ∧
    ((∀ n, m.getLsbD n = true → (t.flag n).count = 0 ∧ (t.flag n).soft = false) → CompletesAs (.fwait m) s t.gone) ∧
    ((∃ n, m.getLsbD n = true ∧ ((t.flag n).count ≠ 0 ∨ (t.flag n).soft = true)) → s.flagInRing t m.toNat = false →
      ∃ n, CompletesAs (.fwait m) s { t with held := some (.flags m.toNat, n) }) ∧
    exec .yield s = .next (
      if t.gone.clause.isNone && (s.setTeam t.gone).eligibleWaits (coreOf t.tid) (partOf t.tid) then
        s.setTeam (t.gone.toPending (s.core (coreOf t.tid)).cyc)
      else s.setTeam t.gone)

/-- R102, R151, R152 (REP): before an instruction of R151's list, the team goes on to it with the count and the steps
in force from issue 0; before any other it traps ILLEGAL_REPEAT. Each issue but the last leaves the team at the next
issue of the same instruction. -/
def Sys2Proof.Claims.RepeatRunsTheNextInstruction : Prop :=
  ∀ (s : State) (t : Team) (c : Clause) (n : BitVec 6) (d a b : BitVec 4), s.poised t = true → t.clause = some c →
    (repeatable (c.body.drop (c.pos + 1)) = true →
      CompletesAs (.rep n d a b) s { t.gone with
        clause := t.gone.clause.map fun k =>
          { k with rep := some { n := n.toNat, stepD := d.toInt, stepA := a.toInt, stepB := b.toInt, m := 0 } } }) ∧
    (repeatable (c.body.drop (c.pos + 1)) = false → exec (.rep n d a b) s = .next (s.trap t 0x07 0 0 0)) ∧
    (∀ r, c.rep = some r → r.m < r.n → t.gone = { t.retired1 with clause := some { c with rep := some { r with m := r.m + 1 } } })

/-- NOP, YIELD, FSET, FCLR, FWAIT and REP act on flags, place and repetition alone. -/
def Obligations.FlagsYieldAndRepeatAct : Prop :=
  Claims.FlagsAndYieldAct ∧
  Claims.RepeatRunsTheNextInstruction

/-- R116 (SEGSET): in the supervisor, with a base and limit that R116 accepts, the segment register is written and
nothing else changes; otherwise ILLEGAL_OPERAND. In another team PRIVILEGE. -/
def Sys2Proof.Claims.SegmentIsSetByTheSupervisor : Prop :=
  ∀ (s : State) (t : Team) (g : BitVec 3) (a b : BitVec 7), s.poised t = true →
    (s.isSup t = true → segmentAccepted s t g.toNat (t.getS a.toNat) (t.getS b.toNat) →
      ∃ u, CompletesAs (.segset g a b) s u ∧ u = { t.gone with segs := u.segs } ∧
        ∀ k, u.seg k = if k = g.toNat then { base := t.getS a.toNat, limit := t.getS b.toNat } else t.seg k) ∧
    (s.isSup t = true → ¬segmentAccepted s t g.toNat (t.getS a.toNat) (t.getS b.toNat) →
      exec (.segset g a b) s = .next (s.trap t 0x03 0 0 0)) ∧
    (s.isSup t = false → exec (.segset g a b) s = .next (s.trap t 0x06 0 0 0))

/-- SSET and SEGSET write one register where they are permitted, and trap elsewhere. -/
def Obligations.SystemAndSegmentRegistersAreWritten : Prop :=
  Claims.SystemRegisterIsWrittenAsPermitted ∧
  Claims.SegmentIsSetByTheSupervisor

/-! ## Traps, deliveries and their return -/

namespace Sys2Proof.Claims

open Sys2Proof Sys2Proof.Machine

/-- A team that a trap has halted: it keeps its registers, its place and its halt record, and leaves the active set. -/
def trapped (t : Team) : Team :=
  { t with
    stop := some .halted, run := if t.run = .active then .pending else t.run, held := none, late := none
    pcSeen := false, arrived := none, stepHalt := false, leaveAtEnd := false }

/-- Team u has taken a trap of a cause and detail 0: it is halted, and its delivery, with the address or 0 that the trap
reports, is its context's newest (R378, R379, R380). -/
def trapsAs (s s' : State) (u : Team) (cause : Nat) (info : Dword) : Prop :=
  s'.team? u.tid = some (trapped u) ∧ ∀ c, s.ctx? u.ctx = some c → ∃ c', s'.ctx? u.ctx = some c' ∧
    c'.pending = c.pending ++ [
      { cause, detail := 0, tid := u.tid, lid := u.lid, pc := u.insnPc, issue := u.issueNo, info, mask := 0 }]

/-- The bytes of a report record (R402). -/
def reportBytes (kind cause : Nat) (team : Handle) (addr data : Nat) : List Byte :=
  toBytes 8 (kind * 2 ^ 56 + cause * 2 ^ 48 + team.toNat) ++ toBytes 8 addr ++ toBytes 8 data ++ toBytes 8 0

/-- R381: dwords 1 to 31 of the delivery block, where the supervisor t stands at a place and d is delivered. -/
def blockRule (t : Team) (left : Nat) (exited : Bool) (d : Delivery) : List Nat :=
  [(match t.clause with | some c => c.addr | none => t.pc).toNat,
   (match t.run with | .parked _ _ => 2 ^ 16 | _ => 0) + t.issueNo * 2 ^ 8 + t.idxNo,
   left,
   d.cause * 2 ^ 56 + d.detail * 2 ^ 48 + (if exited then 2 ^ 33 else 0) + d.tid.toNat,
   d.pc.toNat, d.info.toNat, d.lid * 2 ^ 32 + (if d.pc = 0 then 0 else d.issue)]
  ++ (List.range 16).map (fun i => (d.mask.extractLsb' (64 * i) 64).toNat)
  ++ [d.extra.toNat, 0, 0, 0, 0, 0, 0, 0]

end Sys2Proof.Claims

/-- R272, R379, R380 (taking a trap; TRAP): a trap of a team that is not its context's supervisor halts the team at its
place, changes no register, flag, memory, queue or counter, and makes one delivery pending that names cause, detail,
clause position and REP issue. TRAP takes the trap SOFTWARE, 0x21, with its code, at the next instruction. -/
def Sys2Proof.Claims.TrapHaltsTheTeamAndMakesADelivery : Prop :=
  (∀ (s : State) (t : Team) (c : Context) (cause detail : Nat) (info : Dword) (mask : LaneMask),
    s.team? t.tid = some t → t.stepping = none → s.ctx? t.ctx = some c → c.supervisor ≠ t.tid →
    ∃ s', s.trap t cause detail info mask = s' ∧ s' = { s with teams := s'.teams, ctxs := s'.ctxs } ∧
      s'.team? t.tid = some (trapped t) ∧ (∀ h, h ≠ t.tid → s'.team? h = s.team? h) ∧
      s'.ctx? t.ctx = some { c with pending := c.pending ++ [
        { cause, detail, tid := t.tid, lid := t.lid, pc := t.insnPc, issue := t.issueNo, info, mask }] } ∧
      ∀ n, n ≠ t.ctx → s'.ctx? n = s.ctx? n) ∧
  (∀ (s : State) (t : Team) (n : BitVec 8), s.poised t = true →
    exec (.trap n) s = .next ((s.setTeam t.gone).trap t.gone 0x21 n.toNat 0 0))

/-- R383, R402 (a trap of the supervisor): no delivery; the supervisor becomes HALTED, and a report record of kind 1
with the cause stands in the next free place of the report ring. -/
def Sys2Proof.Claims.SupervisorTrapIsReported : Prop :=
  ∀ (s : State) (t : Team) (c : Context) (cause detail : Nat) (info : Dword) (mask : LaneMask),
    s.team? t.tid = some t → t.stepping = none → t.monitor = .none_ → s.ctx? t.ctx = some c → c.supervisor = t.tid →
    c.repWritten - c.repFreed < 1024 →
    ∃ s', s.trap t cause detail info mask = s' ∧ s'.team? t.tid = some (trapped t) ∧
      s'.ctx? t.ctx = some { c with repWritten := c.repWritten + 1 } ∧
      ∀ a, memByte s'.mem a =
        (if c.saveAddr + 32 * (c.repWritten % 1024) ≤ a ∧ a < c.saveAddr + 32 * (c.repWritten % 1024) + 32 then
          (reportBytes 1 cause t.tid info.toNat t.lid).getD (a - (c.saveAddr + 32 * (c.repWritten % 1024))) 0
        else memByte s.mem a)

/-- A trap halts its team and makes one delivery; a trap of the supervisor is reported. -/
def Obligations.TrapsHaltAndAreDelivered : Prop :=
  Claims.TrapHaltsTheTeamAndMakesADelivery ∧
  Claims.SupervisorTrapIsReported

/-- R381, R382 (DELIVERY_TAKE): with VECTOR nonzero, no delivery in progress and the supervisor between two
instructions or PARKED, the oldest pending delivery is written to the block, the supervisor's position and park are
kept, a delivery is in progress, and the supervisor stands at VECTOR with its acquire made. With VECTOR zero, with a
delivery in progress, or with the supervisor halted nothing happens. -/
def Sys2Proof.Claims.DeliveryEntersTheHandler : Prop :=
  (∀ (s : State) (c : Context) (t : Team) (d : Delivery) (rest : List Delivery),
    s.ctx? s.arg.a = some c → c.pending = d :: rest → s.team? c.supervisor = some t →
    s.qDword s.arg.a 0x1840080 ≠ 0 → c.inDelivery = false → t.stop = none → t.held = none → t.monitor = .none_ →
    s.qFault s.arg.a 0x1840088 248 = none →
    ∃ s', exec .deliveryTake s = .next s' ∧
      s'.mem = (s.qWrite s.arg.a 0x1840088
        (dwordBytes (blockRule t rest.length (d.exited || (s.team? d.tid).isNone) d))).mem ∧
      s'.team? c.supervisor = some { t with
        clause := none, pc := BitVec.ofNat 64 (s.qDword s.arg.a 0x1840080), late := none, pcSeen := false
        run := match t.run with | .parked _ _ => .pending | r => r } ∧
      s'.ctx? s.arg.a = some { c with
        pending := rest, inDelivery := true, saved := some { pc := t.pc, clause := t.clause }
        suspended := match t.run with | .parked p w => some (p, w) | _ => none } ∧
      (s'.core (coreOf c.supervisor)).cache = []) ∧
  (∀ (s : State) (c : Context) (t : Team), s.ctx? s.arg.a = some c → s.team? c.supervisor = some t →
    s.qDword s.arg.a 0x1840080 = 0 ∨ c.inDelivery = true ∨ t.stop ≠ none →
    exec .deliveryTake s = .next s)

/-- R273, R382 (RFT): in the supervisor, with a delivery in progress, it returns to the position saved when the delivery
began, deliveries are enabled again, and a suspended park resumes; without a delivery it traps ILLEGAL_OPERAND, and in
another team PRIVILEGE. -/
def Sys2Proof.Claims.ReturnFromDeliveryRestoresThePosition : Prop :=
  ∀ (s : State) (t : Team) (c : Context), s.poised t = true → s.ctx? t.ctx = some c → c.id = t.ctx →
    (c.supervisor = t.tid → c.inDelivery = true → ∀ p, c.saved = some p →
      ∃ s', exec .rft s = .next s' ∧ s' = { s with teams := s'.teams, ctxs := s'.ctxs } ∧
        s'.team? t.tid = some { t.retired1 with
          pc := p.pc, clause := p.clause
          run := match c.suspended with | some (k, w) => .parked k w | none => t.run } ∧
        s'.ctx? t.ctx = some { c with inDelivery := false, saved := none, suspended := none }) ∧
    (c.supervisor = t.tid → c.inDelivery = false → exec .rft s = .next (s.trap t 0x03 0 0 0)) ∧
    (c.supervisor ≠ t.tid → exec .rft s = .next (s.trap t 0x06 0 0 0))

/-- A delivery enters the handler at VECTOR, and RFT returns from it. -/
def Obligations.DeliveryIsEnteredAndReturnedFrom : Prop :=
  Claims.DeliveryEntersTheHandler ∧
  Claims.ReturnFromDeliveryRestoresThePosition

/-! ## Deaths -/

/-- R274 (KILL): in the supervisor, a living team of its context is dying, as killed, and waits in no lock's or
promise's queue, and the supervisor goes on; a handle that names no team, or one of another context, changes nothing but
the supervisor's place; its own handle traps ILLEGAL_OPERAND; in another team PRIVILEGE. -/
def Sys2Proof.Claims.KillAcceptsADeath : Prop :=
  ∀ (s : State) (t : Team) (a : BitVec 7), s.poised t = true →
    (s.isSup t = false → exec (.kill a) s = .next (s.trap t 0x06 0 0 0)) ∧
    (s.isSup t = true → (t.getS a.toNat).setWidth 32 = t.tid → exec (.kill a) s = .next (s.trap t 0x03 0 0 0)) ∧
    (s.isSup t = true → (t.getS a.toNat).setWidth 32 ≠ t.tid →
      (∀ u, s.team? ((t.getS a.toNat).setWidth 32) = some u → u.ctx = t.ctx → u.dying = none →
        ∃ s' w, exec (.kill a) s = .next s' ∧ s'.team? t.tid = some t.gone ∧ s'.team? u.tid = some w ∧
          w.dying = some { killed := true, group := s.nextId, inSave := s.launchSaving u } ∧ w.s = u.s ∧ w.v = u.v ∧ w.estate = u.estate ∧
          (∀ x ∈ s'.lockQ, x.tid ≠ u.tid) ∧ (∀ x ∈ s'.promiseQ, x.tid ≠ u.tid) ∧ s'.mem = s.mem) ∧
      (∀ u, s.team? ((t.getS a.toNat).setWidth 32) = some u → u.ctx ≠ t.ctx → CompletesAs (.kill a) s t.gone) ∧
      (s.team? ((t.getS a.toNat).setWidth 32) = none → CompletesAs (.kill a) s t.gone))

/-- R36, R155 (EXIT): in the supervisor it traps ILLEGAL_OPERAND. In another team, once no load or atomic of it is
outstanding: with an entry of origin 0 or 1 in the retry ring it parks; with no holdings it is EXITED, its registers
gone; with holdings, once its stores are drained, it is dying, and its estate stands to be conveyed. -/
def Sys2Proof.Claims.ExitEndsTheTeam : Prop :=
  ∀ (s : State) (t : Team), s.poised t = true →
    (s.isSup t = true → exec .exit s = .next (s.trap t 0x03 0 0 0)) ∧
    (s.isSup t = false → s.hasEntry t [0, 1] = true →
      exec .exit s = .next (s.setTeam { t with run := .parked .retry none, held := none })) ∧
    (s.isSup t = false → s.hasEntry t [0, 1] = false → t.estate = [] →
      ∃ s', exec .exit s = .next s' ∧ s'.team? t.tid = none) ∧
    (s.isSup t = false → s.hasEntry t [0, 1] = false → t.estate ≠ [] → s.draining t.tid = false →
      ∃ s' u, exec .exit s = .next s' ∧ s'.team? t.tid = some u ∧ u.dying = some { killed := false, group := s.nextId } ∧
        u.drained = true ∧ u.estate = t.estate ∧ s'.mem = s.mem)

/-- KILL accepts a death; EXIT ends the team or lets its estate be conveyed. -/
def Obligations.KillAndExitEndTeams : Prop :=
  Claims.KillAcceptsADeath ∧
  Claims.ExitEndsTheTeam

/-- R315, R347, R350 (DYING_TEAM_STOP, CONVEYANCE_ENTRY): a dying team whose accesses and requests are over is drained,
and EXITED if it holds nothing; then its newest entry passes to the receiver of R348, marked inherited and with the
sender's handle, a lock adding one to BEREAVED (up to 255); after its last entry the team is EXITED. -/
def Obligations.DyingTeamConveysItsEstate : Prop :=
  (∀ (s : State) (t : Team) (d : Dying), s.team? s.arg.tid = some t → t.dying = some d → t.drained = false →
    s.deadQuiet t = true → (∀ w ∈ s.permitQ, w.tid ≠ t.tid) →
    (t.estate ≠ [] → exec .dyingTeamStop s = .next (s.setTeam { t with drained := true })) ∧
    (t.estate = [] → ∃ s', exec .dyingTeamStop s = .next s' ∧ s'.team? t.tid = none)) ∧
  (∀ (s : State) (t r : Team) (d : Dying) (es : List Estate) (e : Estate) (depth : Nat),
    s.team? s.arg.tid = some t → t.dying = some d → t.drained = true → s.groupBefore t = false →
    (s.core (coreOf t.tid)).buffer = [] → t.estate = es ++ [e] → s.entryPoisoned t es.length = false →
    (s.setEstate t.tid fun l => l.take es.length).team? r.tid = some r → r.tid ≠ t.tid →
    s.receiver t e = (.team r.tid, depth) →
    ∃ s' w, exec .conveyanceEntry s = .next s' ∧ s'.team? r.tid = some w ∧
      (e.kind ≠ .permit →
        w.estate = r.estate ++ [{ e with inherited := true, heir := 0, handle := 0, sender := t.tid, spoiled := false }]) ∧
      (e.kind = .lock → w.bereaved.toNat = min 255 (r.bereaved.toNat + 1)) ∧
      (e.kind ≠ .lock → w.bereaved = r.bereaved) ∧
      (es = [] → s'.team? t.tid = none) ∧
      (es ≠ [] → ∃ u, s'.team? t.tid = some u ∧ u.estate = es))

/-! ## Clauses -/

namespace Sys2Proof.Claims

open Sys2Proof Sys2Proof.Machine

/-- A clause header from its eight bytes: the first parcel is the high half (R6, R7, R88). -/
def headerOf (bs : List Byte) : Dword := BitVec.ofNat 64 (ofBytes (bs.take 4) * 2 ^ 32 + ofBytes (bs.drop 4))

/-- A team at a header, which it may issue, with no RPUT waiting for its flags (R109). -/
def atHeader (s : State) (t : Team) : Prop :=
  s.team? s.cur = some t ∧ t.clause = none ∧ s.canIssue t = true ∧ s.dividing t = false ∧ t.datapath = none ∧
    ∀ r ∈ s.rputs, r.tid ≠ t.tid

/-- Two states differ at most in what the caches of translations, the load caches and the device cache hold (R283, R285,
R295), in what the cores count, and in the number of free values drawn. -/
def sameButCaches (s s' : State) : Prop :=
  s' = { s with cores := s'.cores, dcache := s'.dcache, plru := s'.plru, fresh := s'.fresh } ∧
  ∀ c, s'.core c =
    { s.core c with tlb := (s'.core c).tlb, first := (s'.core c).first, cache := (s'.core c).cache, perf := (s'.core c).perf }

end Sys2Proof.Claims

/-- R88 to R91, R303 (CLAUSE_START): the header and then the body are fetched at the team's address. A fetch that fails takes
FETCH_FAULT; a header or body that fails a check of R90 takes ILLEGAL_CLAUSE with the check's number, the wrong KIND
being number 1; a set flag of WAIT holds the team; otherwise the whole clause, as fetched, starts at its first
instruction, and the first clause of a team that a launch has started drops its core's load cache. The fetch changes what the
caches hold and nothing else. -/
def Obligations.ClauseStartsAsAWhole : Prop :=
  ∀ (s : State) (t : Team), atHeader s t → ∃ n,
    (∀ e, s.fetchBytes t t.pc.toNat 8 = .inr e →
      ∃ s1, sameButCaches s s1 ∧ exec .clauseStart s = .next (s1.trap t 0x14 e.1 (BitVec.ofNat 64 e.2) 0)) ∧
    (∀ hb, s.fetchBytes t t.pc.toNat 8 = .inl hb →
      (field (headerOf hb) 63 62 ≠ 3 → exec .clauseStart s = .next ({ s with fresh := n }.trap t 0x01 1 t.pc 0)) ∧
      (∀ d, headerFault (headerOf hb) = some d → exec .clauseStart s = .next ({ s with fresh := n }.trap t 0x01 d t.pc 0)) ∧
      (headerFault (headerOf hb) = none →
        ∃ s1, s1 = { s with fresh := n }.fetchSeen t t.pc.toNat (8 + 4 * hdrLen (headerOf hb)) ∧ sameButCaches s s1 ∧
        (∀ e, s1.fetchBytes t (t.pc.toNat + 8) (4 * hdrLen (headerOf hb)) = .inr e →
          exec .clauseStart s = .next (s1.trap t 0x14 e.1 (BitVec.ofNat 64 e.2) 0)) ∧
        (∀ bb, s1.fetchBytes t (t.pc.toNat + 8) (4 * hdrLen (headerOf hb)) = .inl bb →
          (∀ d, bodyFault s (headerOf hb) (wordsOf bb) = some d →
            exec .clauseStart s = .next (s1.trap t 0x01 d t.pc 0)) ∧
          (bodyFault s (headerOf hb) (wordsOf bb) = none → t.stepHalts (headerOf hb) = false →
            ((∀ k < 12, (headerOf hb).getLsbD (37 + k) = true → (t.flag k).count = 0 ∧ (t.flag k).soft = false) →
              ∃ x, exec .clauseStart s = .next ((if t.retired = true ∨ s.isSup t = true then s1 else s1.dropCache (coreOf t.tid)).setTeam
                { t with
                  clause := some { addr := t.pc, hdr := headerOf hb, body := wordsOf bb, idx := 0, pos := 0, rep := none }
                  held := none, exempt := x })) ∧
            ((∃ k < 12, (headerOf hb).getLsbD (37 + k) = true ∧ ((t.flag k).count ≠ 0 ∨ (t.flag k).soft = true)) →
              s.flagInRing t (field (headerOf hb) 48 37) = false →
              ∃ k, exec .clauseStart s = .next (s1.setTeam
                { t with held := some (.clauseWait (field (headerOf hb) 48 37), k) }))))))

/-! ## Vector instructions -/

namespace Sys2Proof.Claims

open Sys2Proof Sys2Proof.Machine

/-- What a vector instruction does: its opcode and fields, its source codes in field order, the registers that those
sources read in a lane (any lane of the team, or the active lanes), its cycles, the destination codes in field order, which may
name queues, the slices that it writes, the flags of its elements, the draws in a lane, and the scalar registers it writes. -/
structure VRule where
  op : Nat
  f : VFields
  sources : List Nat
  reads : List Nat
  anyLane : Bool := false
  perPass : Nat
  tail : Nat := 0
  dsts : List Nat
  /-- The results go through the transform stage (R240). -/
  stage : Bool := false
  results : State → Team → List Src → List LaneWrite
  flags : State → Team → List Src → List (BitVec 8) := fun _ _ _ => []
  draws : Team → Nat → Nat := fun _ _ => 0
  scalars : State → Team → List Src → List (Nat × Dword) := fun _ _ _ => []

/-- The instruction may issue now: its checks pass (R103), its sources can be read (which pops queues and reads ports)
and its destination takes a result (R117, R118), and no active lane reads poison (R393). -/
structure VRule.Ready (r : VRule) (s : State) (t : Team) (srcs : List Src) (s1 : State) (t1 : Team) : Prop where
  poised : s.poised t = true
  checks : checkV s t r.op r.f = none
  sources : readAll s t r.sources = .inl (srcs, s1, t1)
  dest : dstsStop t r.dsts = none
  clean : s.readsPoison t r.reads (if r.anyLane then List.range t.width else t.lanes) = false

/-- The results in the datapath entry: slices into registers, or one queue entry for each destination that names a queue,
in field order, with all ones in the lanes that are not active, and scalar registers (R157, R161, R178). -/
def VRule.Entry (r : VRule) (s : State) (t : Team) (srcs : List Src) (d : Datapath) : Prop :=
  d.scalars = r.scalars s t srcs ∧ d.reads = r.reads ∧ d.dests = distinct (d.writes.map LaneWrite.reg) ∧
    d.readyAt = (s.core (coreOf t.tid)).cyc + r.perPass * passes t.lanes + r.tail ∧
    d.writes = (r.results s t srcs).filter (fun w => decide (w.reg < 384)) ∧
    d.pushes = (r.dsts.zipIdx.filter fun q => decide (384 ≤ q.1)).map fun q =>
      (q.1, (List.range t.width).map fun l =>
        if l ∈ t.lanes then
          ((((r.results s t srcs).filter fun w => w.reg == q.1 && w.lane == l)[(r.dsts.take q.2).count q.1]?).map
            LaneWrite.val).getD 0
        else 0xFFFFFFFF#32)

/-- The instruction completes: some lane is active, and its results stand in the datapath entry, its flags in FSR and
its draws in the lanes' counters; or no lane is active, and only a queue named as destination takes an entry of all
ones, and scalar registers are written (R65, R72, R126, R157, R161, R162, R180). Registers, flags and memory are else as
they were. -/
def VRule.Completes (r : VRule) (i : Instr) (s : State) (t : Team) (srcs : List Src) (s1 : State) (t1 : Team) : Prop :=
  (t.lanes ≠ [] → ∃ u d, exec i s = .next (s1.setTeam u) ∧ r.Entry s t srcs d ∧
    u = { t1.gone with
      datapath := if r.stage then none else some d, hadamard := if r.stage then some d else none, ctr := u.ctr
      fsr := (r.flags s t srcs).foldl (fun a x => a ||| x) t.fsr } ∧
    ∀ l, u.getCtr l = t.getCtr l + BitVec.ofNat 64 (if l ∈ t.lanes then r.draws t l else 0)) ∧
  (t.lanes = [] → ∃ u, exec i s = .next (s1.setTeam u) ∧ u = { t1.gone with queues := u.queues, s := u.s } ∧
    u.queues = ((r.dsts.filter fun q => decide (384 ≤ q)).foldl
      (fun w q => w.pushQueue (q, List.replicate t.width 0xFFFFFFFF#32)) t1).queues ∧
    u.s = (r.scalars s t srcs).foldl (fun m w => spWrite 0 m (w.1 % 128) w.2) t1.s)

/-- A rule that computes each element from the elements of its sources at the same place, in the format of the
instruction (R45, R160). -/
def elementRule (op : Nat) (f : VFields) (rounds : Bool) (g : Mode → List Nat → Nat × BitVec 8) : VRule :=
  let F := fmtF f
  let el := fun (s : State) (t : Team) (srcs : List Src) (l j : Nat) =>
    g (if rounds then elemMode s t f l j else .rne) (srcs.map fun x => x.elem s t (litNat f) F l j)
  { op, f, sources := sourceCodes op f, reads := sourceRegs op f, perPass := passCycles op f, dsts := [f.vd.toNat]
    results := fun s t srcs => t.lanes.flatMap fun l =>
      wordsAt f.vd.toNat l (packElems F ((List.range F.perLane).map fun j => (el s t srcs l j).1))
    flags := fun s t srcs => t.lanes.flatMap fun l => (List.range F.perLane).map fun j => (el s t srcs l j).2
    draws := fun t _ => if rounds && roundCode t f == 5 then F.perLane else 0 }

/-- A rule that writes whole slices in each lane, without flags (R165). -/
def sliceRule (op : Nat) (f : VFields) (anyLane : Bool) (tail : Nat)
    (ws : State → Team → List Src → Nat → List Word) : VRule :=
  { op, f, sources := sourceCodes op f, reads := sourceRegs op f, anyLane, perPass := passCycles op f, tail
    dsts := [f.vd.toNat]
    results := fun s t srcs => t.lanes.flatMap fun l => wordsAt f.vd.toNat l (ws s t srcs l) }

/-- A float result (R53, R63, R167): absent if a source is absent; else the exact result of the values, rounded, which a
NaN source makes the canonical NaN. -/
def floatResult (f : VFields) (g : Mode → Val → Val → Val → Res) (m : Mode) (xs : List Nat) : Nat × BitVec 8 :=
  let v := fun n => floatVal (fmtF f) (xs.getD n 0)
  if xs.any fun x => (floatVal (fmtF f) x).isAbsent then ((fmtF f).absent, 0)
  else roundRes (fmtF f) m (modSat f) (g m (v 0) (v 1) (v 2))

/-- A product and a sum with one rounding under NBV 2, and with the product rounded first under NBV 1 (R69, R70). -/
def fusedResult (f : VFields) (t : Team) (negProduct negAddend : Bool) (m : Mode) (xs : List Nat) : Nat × BitVec 8 :=
  let F := fmtF f
  let v := fun n => floatVal F (xs.getD n 0)
  let c := if negAddend then negVal (v 2) else v 2
  let signed := fun (r : Res) => match r with
    | .val x => if negProduct then .val (negVal x) else .val x
    | .invalid => .invalid
  if xs.any fun x => (floatVal F x).isAbsent then (F.absent, 0)
  else if t.nbv = 1 then
    let p := roundRes F m (modSat f) (mulVal (v 0) (v 1))
    let q := roundRes F m (modSat f) (sumRes m.down [signed (.val (floatVal F p.1)), .val c])
    (q.1, p.2 ||| q.2)
  else roundRes F m (modSat f) (sumRes m.down [signed (mulVal (v 0) (v 1)), .val c])

/-- A result without rounding (R167): absent dominates, then a NaN; no flag. -/
def exactResult (f : VFields) (g : Nat → Nat → Nat → Nat) (_ : Mode) (xs : List Nat) : Nat × BitVec 8 :=
  if xs.any fun x => (floatVal (fmtF f) x).isAbsent then ((fmtF f).absent, 0)
  else if xs.any fun x => (floatVal (fmtF f) x).isNan then ((fmtF f).nan, 0)
  else (g (xs.getD 0 0) (xs.getD 1 0) (xs.getD 2 0), 0)

/-- The lesser and the greater of two patterns, −0 below +0 (R167). -/
def lesser (F : Fmt) (a b : Nat) : Nat := if belowVal (floatVal F b) (floatVal F a) then b else a
/-- The greater (R167). -/
def greater (F : Fmt) (a b : Nat) : Nat := if belowVal (floatVal F a) (floatVal F b) then b else a

/-- R166, R167: the float instructions. -/
def floatRule (t : Team) : Instr → Option VRule
  | .vadd f => some (elementRule 0x010 f true (floatResult f fun m a b _ => sumVals m.down [a, b]))
  | .vsub f => some (elementRule 0x011 f true (floatResult f fun m a b _ => sumVals m.down [a, negVal b]))
  | .vmul f => some (elementRule 0x012 f true (floatResult f fun _ a b _ => mulVal a b))
  | .vfma f => some (elementRule 0x013 f true (fusedResult f t false false))
  | .vfms f => some (elementRule 0x014 f true (fusedResult f t false true))
  | .vfnma f => some (elementRule 0x015 f true (fusedResult f t true false))
  | .vmin f => some (elementRule 0x016 f false (exactResult f fun a b _ => lesser (fmtF f) a b))
  | .vmax f => some (elementRule 0x017 f false (exactResult f fun a b _ => greater (fmtF f) a b))
  | .vabs f => some (elementRule 0x018 f false (exactResult f fun a _ _ => a % 2 ^ ((fmtF f).width - 1)))
  | .vneg f => some (elementRule 0x019 f false (exactResult f fun a _ _ => a ^^^ 2 ^ ((fmtF f).width - 1)))
  | .vclamp f =>
    some (elementRule 0x01A f false (exactResult f fun a b c => lesser (fmtF f) (greater (fmtF f) a b) c))
  | _ => none

/-- An integer result (R57, R169): absent if a source is absent; else the exact integer, wrapped with AM where it meets
the absent code, or clamped with SAT. -/
def integerResult (F : Fmt) (sat : Bool) (g : Int → Int → Int → Int) (_ : Mode) (xs : List Nat) : Nat × BitVec 8 :=
  if xs.any F.isAbsent then (F.absent, 0)
  else narrowInt F sat (g (F.int (xs.getD 0 0)) (F.int (xs.getD 1 0)) (F.int (xs.getD 2 0)))

/-- A pattern result of n bits, without flags (R53, R168). -/
def patternResult (f : VFields) (g : Nat → Nat → Nat → Nat → Nat) (_ : Mode) (xs : List Nat) : Nat × BitVec 8 :=
  let n := (fmtF f).width
  (g n (xs.getD 0 0) (xs.getD 1 0) (xs.getD 2 0) % 2 ^ n, 0)

/-- Length of a field of wanted length c at place p of n bits (R169). -/
def partLength (n p c : Nat) : Nat := if n ≤ p then 0 else min c (n - p)

/-- R168, R169: the integer and bit instructions but VBFI. -/
def integerRule : Instr → Option VRule
  | .viadd f => some (elementRule 0x020 f false (integerResult (fmtF f) (modSat f) fun a b _ => a + b))
  | .visub f => some (elementRule 0x021 f false (integerResult (fmtF f) (modSat f) fun a b _ => a - b))
  | .vimul f => some (elementRule 0x022 f false (integerResult (fmtF f) (modSat f) fun a b _ => a * b))
  | .vimulh f =>
    some (elementRule 0x023 f false (integerResult (fmtF f) false fun a b _ => a * b / 2 ^ (fmtF f).width))
  | .vimad f => some (elementRule 0x024 f false (integerResult (fmtF f) (modSat f) fun a b c => a * b + c))
  | .vshl f => some (elementRule 0x025 f false (patternResult f fun n a b _ => if n ≤ b then 0 else a * 2 ^ b))
  | .vshr f => some (elementRule 0x026 f false (patternResult f fun n a b _ => if n ≤ b then 0 else a / 2 ^ b))
  | .vsar f => some (elementRule 0x027 f false (patternResult f fun n a b _ => wrap n (signed n a / 2 ^ min b n)))
  | .vand f => some (elementRule 0x028 f false (patternResult f fun _ a b _ => a &&& b))
  | .vor f => some (elementRule 0x029 f false (patternResult f fun _ a b _ => a ||| b))
  | .vxor f => some (elementRule 0x02A f false (patternResult f fun _ a b _ => a ^^^ b))
  | .vnot f => some (elementRule 0x02B f false (patternResult f fun n a _ _ => 2 ^ n - 1 - a))
  | .vclz f => some (elementRule 0x02C f false (patternResult f fun n a _ _ => clz n a))
  | .vpop f => some (elementRule 0x02D f false (patternResult f fun n a _ _ => popcount n a))
  | .vbfx f =>
    some (elementRule 0x02E f false (patternResult f fun n a p c =>
      let k := partLength n p c
      let x := a / 2 ^ min p n % 2 ^ k
      if (fmtF f).isS then wrap n (signed k x) else x))
  | _ => none

/-- R168: VBFI, which reads its destination. -/
def insertFieldRule (f : VFields) : VRule :=
  let F := fmtF f
  sliceRule 0x02F f false 0 fun s t srcs l => packElems F ((List.range F.perLane).map fun j =>
    let at_ := fun n => (srcs.getD n (.const 448)).elem s t (litNat f) F l j
    let d := t.elem F f.vd.toNat l j
    let k := partLength F.width (at_ 1) (at_ 2)
    if k = 0 then d
    else d - d / 2 ^ at_ 1 % 2 ^ k * 2 ^ at_ 1 + at_ 0 % 2 ^ k * 2 ^ at_ 1)

end Sys2Proof.Claims

/-- R157, R162, R166, R167 (VADD, VSUB, VMUL, VFMA, VFMS, VFNMA, VMIN, VMAX, VABS, VNEG, VCLAMP). -/
def Sys2Proof.Claims.FloatInstructionGivesItsResults : Prop :=
  ∀ (s s1 : State) (t t1 : Team) (i : Instr) (r : VRule) (srcs : List Src), floatRule t i = some r →
    r.Ready s t srcs s1 t1 → r.Completes i s t srcs s1 t1

/-- R157, R162, R168, R169 (VIADD, VISUB, VIMUL, VIMULH, VIMAD, VSHL, VSHR, VSAR, VAND, VOR, VXOR, VNOT, VCLZ, VPOP,
VBFX, VBFI). -/
def Sys2Proof.Claims.IntegerAndBitInstructionGivesItsResults : Prop :=
  (∀ (s s1 : State) (t t1 : Team) (i : Instr) (r : VRule) (srcs : List Src), integerRule i = some r →
    r.Ready s t srcs s1 t1 → r.Completes i s t srcs s1 t1) ∧
  (∀ (s s1 : State) (t t1 : Team) (f : VFields) (srcs : List Src), (insertFieldRule f).Ready s t srcs s1 t1 →
    (insertFieldRule f).Completes (.vbfi f) s t srcs s1 t1)

namespace Sys2Proof.Claims

open Sys2Proof Sys2Proof.Machine

/-- The n-th source. -/
def source (srcs : List Src) (n : Nat) : Src := srcs.getD n (.const 448)

/-- The slice of a source in a lane of the team, whatever its activity; zeros beyond the width (R165, R171). -/
def sliceOf (f : VFields) (s : State) (t : Team) (x : Src) (l : Nat) : List Word :=
  if l < t.width then x.slice s t (litNat f) (fmtF f) l else List.replicate (fmtF f).regs 0

/-- A slice with every element absent. -/
def absentSlice (f : VFields) : List Word := packElems (fmtF f) (List.replicate (fmtF f).perLane (fmtF f).absent)

/-- R170: byte i of a VPERMB result: of the eight bytes vA:vB, the one that the selector's low three bits name, as it is,
or zeros, its sign, or ones. -/
def permutedByte (a b sel i : Nat) : Nat :=
  let k := sel / 2 ^ (5 * i) % 32
  let x := (a * 2 ^ 32 + b) / 2 ^ (8 * (k % 8)) % 256
  if k / 8 = 0 then x else if k / 8 = 1 then 0 else if k / 8 = 2 then (if 128 ≤ x then 255 else 0) else 255

/-- R170: the four bytes of a VPERMB result. -/
def permuted (a b sel : Nat) : List Word :=
  [BitVec.ofNat 32 (permutedByte a b sel 0 + permutedByte a b sel 1 * 2 ^ 8 + permutedByte a b sel 2 * 2 ^ 16
    + permutedByte a b sel 3 * 2 ^ 24)]

/-- R165, R170, R171: moves and permutations. -/
def moveLaneRule : Instr → Option VRule
  | .vmov f => some (sliceRule 0x000 f false 0 fun s t x l => (source x 0).slice s t (litNat f) (fmtF f) l)
  | .vbcast f =>
    some (sliceRule 0x001 f false 0 fun _ t _ _ =>
      packElems (fmtF f) (List.replicate (fmtF f).perLane
        (if f.va = 453 then (fmtF f).absent else (t.getS f.va.toNat).toNat % 2 ^ (fmtF f).width)))
  | .vlane f =>
    some (sliceRule 0x002 f true 0 fun s t x l =>
      sliceOf f s t (source x 0) ((source x 1).word s t (litNat f) (fmtF f) l))
  | .vsetl f =>
    some (sliceRule 0x003 f false 0 fun s t x l =>
      packElems (fmtF f) ((List.range (fmtF f).perLane).map fun j =>
        if l * (fmtF f).perLane + j < (t.getS f.vb.toNat).toNat then (source x 0).elem s t (litNat f) (fmtF f) l j
        else (fmtF f).absent))
  | .viota f =>
    some (sliceRule 0x004 f false 6 fun s t x l =>
      [BitVec.ofNat 32 (t.lanes.filter fun m =>
        decide (m < l) && (source x 0).truth s t (litNat f) m == .true_).length])
  | .vwid f =>
    some (sliceRule 0x005 f false 0 fun s t _ l =>
      [BitVec.ofNat 32 (s.workId t l / 2 ^ ((List.range (f.fn.toNat % 8)).map (hW (s.header t))).sum
        % 2 ^ hW (s.header t) (f.fn.toNat % 8))])
  | .vpermbLit f =>
    some (sliceRule 0x030 f false 0 fun s t x l =>
      permuted ((source x 0).word s t (litNat f) .b32 l) ((source x 1).word s t (litNat f) .b32 l) (litNat f))
  | .vpermbReg f =>
    some (sliceRule 0x030 f false 0 fun s t x l =>
      permuted ((source x 0).word s t 0 .b32 l) ((source x 1).word s t 0 .b32 l) ((source x 2).word s t 0 .b32 l))
  | .vshuf f =>
    some (sliceRule 0x031 f true 0 fun s t x l =>
      sliceOf f s t (source x 0) (l - l % 32 + (source x 1).word s t (litNat f) (fmtF f) l % 32))
  | .vrotImm f =>
    some (sliceRule 0x032 f true 0 fun s t x l =>
      sliceOf f s t (source x 0) (((l : Int) + (f.lit.getD 0).toInt) % (t.width : Int)).toNat)
  | .vrotReg f =>
    some (sliceRule 0x032 f true 0 fun s t x l =>
      sliceOf f s t (source x 0) (((l : Int) + (t.getS f.vb.toNat).toInt) % (t.width : Int)).toNat)
  | _ => none

/-- One truth as R49 writes it. -/
def truthSlice (t : Truth) : List Word := [match t with | .false_ => 0 | .true_ => 1 | .unknown => 0xFFFFFFFF]

/-- R54: a predicate on two values: unknown with an absent operand; with a NaN only "ne" holds. -/
def comparison (p : Nat) (a b : Val) : Truth :=
  if a.isAbsent || b.isAbsent then .unknown
  else
    let holds : Bool :=
      if a.isNan || b.isNan then decide (p = 1)
      else if p = 0 then eqVal a b
      else if p = 1 then !eqVal a b
      else if p = 2 then ltVal a b
      else if p = 3 then ltVal a b || eqVal a b
      else if p = 4 then ltVal b a
      else ltVal b a || eqVal a b
    if holds then .true_ else .false_

/-- R54 to R56, R172: truth and absence. -/
def truthRule : Instr → Option VRule
  | .vsel f =>
    some (sliceRule 0x038 f false 0 fun s t x l =>
      match (source x 0).truth s t (litNat f) l with
      | .true_ => (source x 1).slice s t (litNat f) (fmtF f) l
      | .false_ => (source x 2).slice s t (litNat f) (fmtF f) l
      | .unknown => absentSlice f)
  | .vcmp f =>
    some (sliceRule 0x039 f false 0 fun s t x l =>
      truthSlice (comparison (f.fn.toNat % 8) (valOf (fmtF f) ((source x 0).elem s t (litNat f) (fmtF f) l 0))
        (valOf (fmtF f) ((source x 1).elem s t (litNat f) (fmtF f) l 0))))
  | .visabs f =>
    some (sliceRule 0x03A f false 0 fun s t x l =>
      truthSlice (if (fmtF f).isAbsent ((source x 0).elem s t (litNat f) (fmtF f) l 0) then .true_ else .false_))
  | .vcoalesce f =>
    some (elementRule 0x03B f false fun _ x =>
      (if (fmtF f).isAbsent (x.getD 0 0) then x.getD 1 0 else x.getD 0 0, 0))
  | .vnullif f =>
    some (elementRule 0x03C f false fun _ x =>
      (if comparison 0 (valOf (fmtF f) (x.getD 0 0)) (valOf (fmtF f) (x.getD 1 0)) = .false_ then x.getD 0 0
        else (fmtF f).absent, 0))
  | .vmkabs f =>
    some (sliceRule 0x03D f false 0 fun s t x l =>
      if (source x 1).truth s t (litNat f) l = .true_ then (source x 0).slice s t (litNat f) (fmtF f) l
      else absentSlice f)
  | .vtand f =>
    some (sliceRule 0x03E f false 0 fun s t x l =>
      truthSlice (((source x 0).truth s t (litNat f) l).and ((source x 1).truth s t (litNat f) l)))
  | .vtor f =>
    some (sliceRule 0x03F f false 0 fun s t x l =>
      truthSlice (((source x 0).truth s t (litNat f) l).or ((source x 1).truth s t (litNat f) l)))
  | .vtnot f => some (sliceRule 0x040 f false 0 fun s t x l => truthSlice ((source x 0).truth s t (litNat f) l).not)
  | _ => none

/-- R72, R74: the draw number i, from now, of a lane: Mix of the key, the lane's identifier and its counter. -/
def draw (s : State) (t : Team) (l i : Nat) : Nat :=
  mix t.key.toNat (s.workId t l % 2 ^ 64) (((t.getCtr l).toNat + i) % 2 ^ 64)

/-- R184: the leading n bits of a draw as a fraction. -/
def fraction (F : Fmt) (m : Nat) : Nat :=
  let n : Nat := match F with | .f32 => 24 | .f16 => 11 | .bf16 => 8 | _ => 53
  (roundFloat F .rne false
    { neg := false, m := m % (if F = .f64 then 2 ^ 64 else 2 ^ 32) / 2 ^ ((if F = .f64 then 64 else 32) - n), e := -(n : Int) }).1

/-- R181 to R184: random numbers, and the special functions with VRCP and VSQRT correctly rounded and the others one of
the two neighbouring values. -/
def randomAndSpecialRule : Instr → Option VRule
  | .vrand f =>
    some { sliceRule 0x058 f false 0 fun s t _ l =>
        packElems (fmtF f) ((List.range (fmtF f).perLane).map fun j => draw s t l j % 2 ^ (fmtF f).width) with
      draws := fun _ _ => (fmtF f).perLane }
  | .vrandf f =>
    some { sliceRule 0x059 f false 0 fun s t _ l =>
        packElems (fmtF f) ((List.range (fmtF f).perLane).map fun j => fraction (fmtF f) (draw s t l j)) with
      draws := fun _ _ => (fmtF f).perLane }
  | .vrcp f => some (elementRule 0x200 f true fun m x => specialElem f.fmt.toNat (fmtF f) .rcp m (modSat f) (x.getD 0 0))
  | .vrsq f => some (elementRule 0x201 f false fun m x => specialElem f.fmt.toNat (fmtF f) .rsq m (modSat f) (x.getD 0 0))
  | .vsqrt f => some (elementRule 0x202 f true fun m x => specialElem f.fmt.toNat (fmtF f) .sqrt m (modSat f) (x.getD 0 0))
  | .vexp2 f => some (elementRule 0x203 f false fun m x => specialElem f.fmt.toNat (fmtF f) .exp2 m (modSat f) (x.getD 0 0))
  | .vlog2 f => some (elementRule 0x204 f false fun m x => specialElem f.fmt.toNat (fmtF f) .log2 m (modSat f) (x.getD 0 0))
  | .vsin f => some (elementRule 0x205 f false fun m x => specialElem f.fmt.toNat (fmtF f) .sin m (modSat f) (x.getD 0 0))
  | .vcos f => some (elementRule 0x206 f false fun m x => specialElem f.fmt.toNat (fmtF f) .cos m (modSat f) (x.getD 0 0))
  | .vtanh f => some (elementRule 0x207 f false fun m x => specialElem f.fmt.toNat (fmtF f) .tanh m (modSat f) (x.getD 0 0))
  | .vlogi f => some (elementRule 0x208 f false fun m x => specialElem f.fmt.toNat (fmtF f) .logi m (modSat f) (x.getD 0 0))
  | _ => none

end Sys2Proof.Claims

/-- R165, R170, R171 (VMOV, VBCAST, VLANE, VSETL, VIOTA, VWID, VPERMB, VSHUF, VROT). -/
def Sys2Proof.Claims.MoveAndPermutationGivesItsSlices : Prop :=
  ∀ (s s1 : State) (t t1 : Team) (i : Instr) (r : VRule) (srcs : List Src), moveLaneRule i = some r →
    r.Ready s t srcs s1 t1 → r.Completes i s t srcs s1 t1

/-- R49, R54 to R56, R172 (VSEL, VCMP, VISABS, VCOALESCE, VNULLIF, VMKABS, VTAND, VTOR, VTNOT). -/
def Sys2Proof.Claims.TruthAndAbsenceInstructionGivesItsSlices : Prop :=
  ∀ (s s1 : State) (t t1 : Team) (i : Instr) (r : VRule) (srcs : List Src), truthRule i = some r →
    r.Ready s t srcs s1 t1 → r.Completes i s t srcs s1 t1

/-- R72, R74, R181 to R184 (VRAND, VRANDF, VRCP, VRSQ, VSQRT, VEXP2, VLOG2, VSIN, VCOS, VTANH, VLOGI). Which of the two
neighbouring values a faithful function gives is a free choice of the implementation (log entry 9). -/
def Sys2Proof.Claims.RandomAndSpecialInstructionGivesItsResults : Prop :=
  ∀ (s s1 : State) (t t1 : Team) (i : Instr) (r : VRule) (srcs : List Src), randomAndSpecialRule i = some r →
    r.Ready s t srcs s1 t1 → r.Completes i s t srcs s1 t1

/-- Float, integer, bit, random and special-function instructions give the results of their rules. -/
def Obligations.ArithmeticInstructionGivesItsResults : Prop :=
  Claims.FloatInstructionGivesItsResults ∧
  Claims.IntegerAndBitInstructionGivesItsResults ∧
  Claims.RandomAndSpecialInstructionGivesItsResults

namespace Sys2Proof.Claims

open Sys2Proof Sys2Proof.Machine

/-- Registers of a lane group of e elements (R160); an e2m1 register comes with its companion (R51). -/
def groupOf (F : Fmt) (e code : Nat) : List Nat :=
  if code < 384 then (List.range (groupRegs F e)).map fun i => code + i else []

/-- The shape of a conversion: E elements in a lane, E the larger count of the two formats, and its cycles (R158,
R160). -/
def conversionRule (op : Nat) (f : VFields) (sources : List Nat) (reads : List Nat)
    (el : State → Team → List Src → Nat → Nat → Nat × BitVec 8) : VRule :=
  let d := fmtF f
  let a := srcF f
  let e := max d.perLane a.perLane
  { op, f, sources, reads, dsts := [f.vd.toNat]
    perPass := if d.width = 64 ∨ a.width = 64 then 4 else max (groupRegs d e) (groupRegs a e)
    results := fun s t x => t.lanes.flatMap fun l =>
      wordsAt f.vd.toNat l (packElems d ((List.range e).map fun i => (el s t x l i).1))
    flags := fun s t x => t.lanes.flatMap fun l => (List.range e).map fun i => (el s t x l i).2
    draws := fun t _ => if roundCode t f = 5 then e else 0 }

/-- R175: the scale and special bytes of a lane of VDEQ's source. -/
def scaleBytes (f : VFields) (a : Fmt) (s : State) (t : Team) (srcs : List Src) (l : Nat) : Nat × Nat :=
  if a = .e2m1 then
    (match source srcs 0 with
     | .reg r => ((t.getV (r + 1) l).toNat % 256, (t.getV (r + 1) l).toNat / 256 % 256)
     | _ => (0, 0))
  else if f.vb = 448 then (127, 0)
  else ((source srcs 1).word s t 0 .b32 l % 256, 0)

/-- R66, R173 to R176: VCVT, VDEQ, VQUANT and VAMAX. VQUANT works on blocks of 32 elements of active lanes and writes
codes, and where they are asked for the scale and the residuals; VAMAX gives every active lane the largest magnitude
among all of them. -/
def convertRule : Instr → Option VRule
  | .vcvt f =>
    let e := max (fmtF f).perLane (srcF f).perLane
    some (conversionRule 0x048 f [f.va.toNat] (groupOf (srcF f) e f.va.toNat) fun s t x l i =>
      convert (fmtF f) (srcF f) (elemMode s t f l i) (modSat f) ((source x 0).elem s t 0 (srcF f) l i))
  | .vdeq f =>
    let a := srcF f
    let e := max (fmtF f).perLane a.perLane
    let scaled : Bool := decide (a ≠ .e2m1) && decide (f.vb ≠ 448)
    some (conversionRule 0x04A f (if scaled then [f.va.toNat, f.vb.toNat] else [f.va.toNat])
      (groupOf a e f.va.toNat ++ if scaled && decide (f.vb.toNat < 384) then [f.vb.toNat] else []) fun s t x l i =>
        roundVal (fmtF f) (elemMode s t f l i) (modSat f)
          (decodeElem a (scaleBytes f a s t x l).1 (scaleBytes f a s t x l).2 ((source x 0).elem s t 0 a l i)))
  | .vquant f =>
    let d := fmtF f
    let a := srcF f
    let e := max d.perLane a.perLane
    let outs := fun (s : State) (t : Team) (x : List Src) =>
      (blocksOf (32 / e) t.lanes).map fun ls => quantBlock f d a e s t (source x 0) ls
    some
      { op := 0x049, f, sources := [f.va.toNat], reads := groupOf a e f.va.toNat
        dsts := f.vd.toNat :: (optDst f.vb ++ optDst f.vc)
        perPass := if d.width = 64 ∨ a.width = 64 then 4 else max (groupRegs d e) (groupRegs a e)
        results := fun s t x => (outs s t x).flatMap VOut.writes
        flags := fun s t x => ((outs s t x).flatMap VOut.flags).flatMap Prod.snd
        draws := fun t _ => if d ≠ .e2m1 ∧ roundCode t f = 5 then e else 0 }
  | .vamax f =>
    let F := fmtF f
    some (sliceRule 0x04B f false 6 fun s t x _ =>
      let ms := (t.lanes.flatMap fun l => (List.range F.perLane).map fun j =>
        magOf (floatVal F ((source x 0).elem s t 0 F l j))).filterMap id
      [BitVec.ofNat 32 (match ms with
        | [] => Fmt.absent .f32
        | m :: r => (roundVal .f32 .rne false (r.foldl (fun a b => if ltVal a b then b else a) m)).1)])
  | _ => none

/-- Where a reduction's result, in a format, and its kept count go (R178): into VD and VC of every active lane, or into
scalar registers. -/
def reductionRule (op : Nat) (f : VFields) (G : Fmt) (withResult : Bool)
    (out : State → Team → Src → Nat × Nat × BitVec 8) : VRule :=
  let scal : Bool := f.fn.getLsbD 5
  let cnt := if withResult then f.vc else f.vd
  let F := fmtF f
  { op, f, sources := [f.va.toNat], dsts := if scal then [] else if withResult then f.vd.toNat :: optDst f.vc else [f.vd.toNat]
    reads := if f.va.toNat < 384 then (List.range F.regs).map fun i => f.va.toNat + i else []
    perPass := if F.width = 64 then 4 else 1
    tail := 6
    results := fun s t x =>
      let o := out s t (source x 0)
      if scal then []
      else (if withResult then t.lanes.flatMap fun l =>
          wordsAt f.vd.toNat l (packElems G (List.replicate G.perLane o.1)) else [])
        ++ (if cnt = 448 then [] else t.lanes.map fun l => { reg := cnt.toNat, lane := l, val := BitVec.ofNat 32 o.2.1 })
    flags := fun s t x => if t.lanes = [] then [] else [(out s t (source x 0)).2.2]
    scalars := fun s t x =>
      let o := out s t (source x 0)
      if scal then
        (if withResult then [(f.vd.toNat, BitVec.ofNat 64 (o.1 % 2 ^ G.width))] else [])
          ++ (if cnt = 448 then [] else [(cnt.toNat, BitVec.ofNat 64 o.2.1)])
      else [] }

/-- The elements that a reduction keeps: those of active lanes that are not absent, in element order (R177). -/
def kept (F : Fmt) (s : State) (t : Team) (x : Src) : List Nat :=
  (t.lanes.flatMap fun l => (List.range F.perLane).map fun j => x.elem s t 0 F l j).filter fun e => !F.isAbsent e

/-- The least or the greatest of elements (R67, R177): absent of none; the canonical NaN with a NaN among them; −0 below
+0. -/
def extremeOf (F : Fmt) (least : Bool) (es : List Nat) : Nat :=
  if es.any fun x => (valOf F x).isNan then F.nan
  else match es with
    | [] => F.absent
    | e :: r => r.foldl (fun a b =>
        if (if least then belowVal (valOf F b) (valOf F a) else belowVal (valOf F a) (valOf F b)) then b else a) e

/-- R67 to R69, R177 to R180: VRADD, VRMIN, VRMAX, VRCOUNT and VSCAN. The order of a float sum is floatSum's: the
pairwise tree of R68 under NBV 2, and element order under NBV 1. -/
def reduceRule : Instr → Option VRule
  | .vradd f =>
    let F := fmtF f
    let A := reduceFmt 0x050 F
    some (reductionRule 0x050 f A true fun s t x =>
      let es := kept F s t x
      let sum := wrap 64 ((es.map F.int).sum)
      if F.isIN then
        if es = [] then (A.absent, 0, 0) else (sum, es.length, if A.isAbsent sum then fAM else 0)
      else
        let p := floatSum s t x F A (modeOf (roundCode t f) 0) t.lanes
        (p.value.getD A.absent, es.length, p.flags))
  | .vrmin f =>
    some (reductionRule 0x051 f (fmtF f) true fun s t x =>
      (extremeOf (fmtF f) true (kept (fmtF f) s t x), (kept (fmtF f) s t x).length, 0))
  | .vrmax f =>
    some (reductionRule 0x052 f (fmtF f) true fun s t x =>
      (extremeOf (fmtF f) false (kept (fmtF f) s t x), (kept (fmtF f) s t x).length, 0))
  | .vrcount f =>
    some (reductionRule 0x053 f (fmtF f) false fun s t x => (0, (kept (fmtF f) s t x).length, 0))
  | .vscan f =>
    let F := fmtF f
    let st := fun (s : State) (t : Team) (x : List Src) =>
      t.lanes.foldl (fun st l => scanStep F (if F.isFloat then modeOf (roundCode t f) 0 else .rne) (modSat f)
        (f.fn.getLsbD 0) l ((source x 0).elem s t 0 F l 0) st) ({} : Scan)
    some
      { op := 0x054, f, sources := [f.va.toNat], dsts := f.vd.toNat :: optDst f.vc
        reads := if f.va.toNat < 384 then (List.range F.regs).map fun i => f.va.toNat + i else []
        perPass := if F.width = 64 then 4 else 1
        tail := 6
        results := fun s t x =>
          ((st s t x).outs.reverse.flatMap fun o => wordsAt f.vd.toNat o.1 (packElems F [o.2.1]))
            ++ (if f.vc = 448 then [] else (st s t x).outs.reverse.map fun o =>
              { reg := f.vc.toNat, lane := o.1, val := BitVec.ofNat 32 o.2.2.1 })
        flags := fun s t x => (st s t x).outs.reverse.map fun o => o.2.2.2 }
  | _ => none

/-- R144: word i of MKMASK's mask. -/
def maskWord (f : VFields) (s : State) (t : Team) (x : Src) (i : Nat) : Dword :=
  let want := if f.fn.toNat % 4 = 0 then Truth.true_ else if f.fn.toNat % 4 = 1 then Truth.false_ else Truth.unknown
  BitVec.ofNat 64 ((t.lanes.filter fun l => decide (l / 64 = i) && x.truth s t (litNat f) l == want).map
    fun l => 2 ^ (l % 64)).sum

/-- R144: MKMASK. -/
def makeMaskRule (f : VFields) : VRule :=
  { op := 0x060, f, sources := sourceCodes 0x060 f, reads := sourceRegs 0x060 f, dsts := [], perPass := passCycles 0x060 f
    results := fun _ _ _ => []
    scalars := fun s t x => (List.range (max 1 (t.width / 64))).map fun i => (f.vd.toNat + i, maskWord f s t (source x 0) i) }

/-- The Walsh–Hadamard sum for place p of a block (R240): signs by the parity of p and q. -/
def hadamardAt (F : Fmt) (xs : List Val) (p : Nat) : Nat × BitVec 8 :=
  if xs.any Val.isAbsent then (F.absent, 0)
  else
    let r := sumVals false (xs.zipIdx.map fun q => if popcount 6 (p &&& q.2) % 2 = 1 then negVal q.1 else q.1)
    roundRes F .rne false (match r with
      | .val (.fin n m e) => .val (.fin n m (e - (Nat.log2 xs.length / 2 : Nat)))
      | r => r)

/-- R240: MHAD, through the transform stage. -/
def hadamardRule (f : VFields) : VRule :=
  let F := fmtF f
  let n := 16 * 2 ^ (f.fn.toNat % 4)
  let xs := fun (s : State) (t : Team) (x : List Src) =>
    (List.range t.width).flatMap fun l => (List.range F.perLane).map fun j =>
      floatVal F ((source x 0).elem s t (litNat f) F l j)
  let at_ := fun (s : State) (t : Team) (x : List Src) (e : Nat) =>
    hadamardAt F (((xs s t x).drop (e / n * n)).take n) (e % n)
  { op := 0x1C5, f, sources := [f.va.toNat], reads := if f.va.toNat < 384 then [f.va.toNat] else []
    anyLane := true, perPass := 2, tail := 8, dsts := [f.vd.toNat], stage := true
    results := fun s t x => t.lanes.flatMap fun l =>
      wordsAt f.vd.toNat l (packElems F ((List.range F.perLane).map fun j => (at_ s t x (l * F.perLane + j)).1))
    flags := fun s t x => t.lanes.flatMap fun l =>
      (List.range F.perLane).map fun j => (at_ s t x (l * F.perLane + j)).2 }

/-- The results of an entry have been written by team t, now u (R107, R109, R117, R157): the last write of a place
stands; every other register, and every other team, is as it was. -/
def PassWritten (s : State) (t : Team) (d : Datapath) (s' : State) (u : Team) : Prop :=
  s' = { s with teams := s'.teams, ops := s'.ops, rputs := s'.rputs, plots := s'.plots, crews := s'.crews } ∧
  u = { t with
    v := u.v, s := u.s, queues := (d.pushes.foldl Team.pushQueue t).queues, datapath := u.datapath, hadamard := u.hadamard } ∧
  (∀ r l, u.getV r l =
    ((d.writes.reverse.find? fun w => w.reg == r && w.lane == l).map LaneWrite.val).getD (t.getV r l)) ∧
  (∀ n, u.getS n = ((d.scalars.reverse.find? fun w => w.1 == n).map Prod.snd).getD (t.getS n)) ∧
  ∀ h, h ≠ t.tid → s'.team? h = s.team? h

end Sys2Proof.Claims

/-- R66, R157, R162, R173 to R176 (VCVT, VDEQ, VQUANT, VAMAX). -/
def Sys2Proof.Claims.ConversionGivesItsResults : Prop :=
  ∀ (s s1 : State) (t t1 : Team) (i : Instr) (r : VRule) (srcs : List Src), convertRule i = some r →
    r.Ready s t srcs s1 t1 → r.Completes i s t srcs s1 t1

/-- R67 to R69, R157, R162, R177 to R180 (VRADD, VRMIN, VRMAX, VRCOUNT, VSCAN). -/
def Sys2Proof.Claims.ReductionGivesItsResults : Prop :=
  ∀ (s s1 : State) (t t1 : Team) (i : Instr) (r : VRule) (srcs : List Src), reduceRule i = some r →
    r.Ready s t srcs s1 t1 → r.Completes i s t srcs s1 t1

/-- Conversions, quantisation, reductions and scans give the results of their rules. -/
def Obligations.ConversionAndReductionGiveTheirResults : Prop :=
  Claims.ConversionGivesItsResults ∧
  Claims.ReductionGivesItsResults

/-- R111, R144, R162 (MKMASK): the mask of the active lanes whose truth is the selected one. -/
def Sys2Proof.Claims.MakeMaskGivesItsWords : Prop :=
  ∀ (s s1 : State) (t t1 : Team) (f : VFields) (srcs : List Src), (makeMaskRule f).Ready s t srcs s1 t1 →
    (makeMaskRule f).Completes (.mkmask f) s t srcs s1 t1

/-- Moves, permutations, truth and absence instructions and MKMASK give the values of their rules. -/
def Obligations.MoveTruthAndMaskGiveTheirSlices : Prop :=
  Claims.MoveAndPermutationGivesItsSlices ∧
  Claims.TruthAndAbsenceInstructionGivesItsSlices ∧
  Claims.MakeMaskGivesItsWords

/-- R240 (MHAD, MHAD_COMPLETE): the transform of each block of the team's elements goes into the transform stage, for
2 cycles a pass and 8 more, in the active lanes; once they are over, vD is written and the stage is empty. -/
def Sys2Proof.Claims.HadamardTransformGoesThroughItsStage : Prop :=
  (∀ (s s1 : State) (t t1 : Team) (f : VFields) (srcs : List Src), (hadamardRule f).Ready s t srcs s1 t1 →
    (hadamardRule f).Completes (.mhad f) s t srcs s1 t1) ∧
  (∀ (s : State) (t : Team) (d : Datapath), s.team? s.arg.tid = some t → t.hadamard = some d →
    ((s.core (coreOf t.tid)).cyc < d.readyAt → exec .mhadComplete s = .next s) ∧
    (d.readyAt ≤ (s.core (coreOf t.tid)).cyc → ∃ s' u, exec .mhadComplete s = .next s' ∧ s'.team? t.tid = some u ∧
      PassWritten s t d s' u ∧ u.hadamard = none ∧ u.datapath = t.datapath))

/-- R157, R158, R333 (DATAPATH_LAST_PASS): once its last pass is over, the results in the datapath entry stand in the
vector and scalar registers and in the queue, no other register has changed, and the entry is empty; before that nothing
happens. -/
def Sys2Proof.Claims.LastPassWritesTheResults : Prop :=
  ∀ (s : State) (t : Team) (d : Datapath), s.team? s.arg.tid = some t → t.datapath = some d →
    ((s.core (coreOf t.tid)).cyc < d.readyAt → exec .datapathLastPass s = .next s) ∧
    (d.readyAt ≤ (s.core (coreOf t.tid)).cyc → ∃ s' u, exec .datapathLastPass s = .next s' ∧ s'.team? t.tid = some u ∧
      PassWritten s t d s' u ∧ u.datapath = none ∧ u.hadamard = t.hadamard)

/-- The datapath and the transform stage write their results when they are over. -/
def Obligations.StagesWriteTheirResults : Prop :=
  Claims.HadamardTransformGoesThroughItsStage ∧
  Claims.LastPassWritesTheResults

/-! ## Memory instructions -/

namespace Sys2Proof.Claims

open Sys2Proof Sys2Proof.Machine

/-- A memory instruction: its opcode, kind of operation, whether it acts once for the team, whether X is a stride, and
its access size in bytes (R187, R192, R202). -/
structure MRule where
  op : Nat
  f : VFields
  kind : OpKind
  scalar : Bool
  strided : Bool
  size : Nat

/-- Bytes of a vector access (R187). -/
def vectorSize (f : VFields) : Nat := if mWidth f = 1 then 16 else if f.fmt = 15 then 8 else 4

/-- R187, R192, R202, R206: the loads, stores and atomics. -/
def memoryRule : Instr → Option MRule
  | .vld f => some { op := 0x100, f, kind := .load, scalar := false, strided := false, size := vectorSize f }
  | .vst f => some { op := 0x101, f, kind := .store, scalar := false, strided := false, size := vectorSize f }
  | .sld f => some { op := 0x104, f, kind := .load, scalar := true, strided := false, size := (fmtF f).width / 8 }
  | .sst f => some { op := 0x105, f, kind := .store, scalar := true, strided := false, size := (fmtF f).width / 8 }
  | .vlds f => some { op := 0x106, f, kind := .load, scalar := false, strided := true, size := vectorSize f }
  | .vsts f => some { op := 0x107, f, kind := .store, scalar := false, strided := true, size := vectorSize f }
  | .atom f => some { op := 0x118, f, kind := .atomic, scalar := false, strided := false, size := vectorSize f }
  | .atoms f => some { op := 0x119, f, kind := .atomic, scalar := true, strided := false, size := vectorSize f }
  | .red f => some { op := 0x11A, f, kind := .red, scalar := false, strided := false, size := vectorSize f }
  | .amaxswap f => some { op := 0x11B, f, kind := .amaxswap, scalar := true, strided := false, size := vectorSize f }
  | _ => none

/-- off(L) of R186. -/
def offsetOf (f : VFields) (t : Team) (scalar strided : Bool) (l : Nat) : Dword :=
  (if mNoBase f then 0 else t.getS (mBase f))
    + (if scalar then 0
       else if strided then BitVec.ofNat 64 l * t.getS (f.va.toNat % 128)
       else if f.va = 448 then 0
       else (t.getV f.va.toNat l).signExtend 64) * BitVec.ofNat 64 (if scalar then 1 else 2 ^ mScale f)
    + (f.lit.getD 0).signExtend 64

/-- addr(L) of R186. -/
def addressOf (f : VFields) (t : Team) (scalar strided : Bool) (l : Nat) : Nat :=
  ((t.seg (mSeg f)).base + offsetOf f t scalar strided l).toNat

/-- The lanes in which a memory instruction acts: lane 0 stands for a scalar access (R186). -/
def MRule.lanes (r : MRule) (t : Team) : List Nat := if r.scalar then [0] else t.lanes

/-- Bytes of n registers of a lane, lowest register first (R6, R107). -/
def laneBytes (t : Team) (r l n : Nat) : List Byte :=
  (List.range (n / 4)).flatMap fun i => toBytes 4 (t.getV (r + i) l).toNat

/-- The bytes that a store sends, and zeros where bytes are still to come (R192). -/
def MRule.bytes (r : MRule) (t : Team) (l : Nat) : List Byte :=
  match r.kind with
  | .store => if r.scalar then toBytes r.size (t.getS r.f.vd.toNat).toNat else laneBytes t r.f.vd.toNat l r.size
  | _ => List.replicate r.size 0

/-- The operands that an atomic sends: x, and y of a compare-and-swap from what follows it (R202). -/
def MRule.operand (r : MRule) (t : Team) (l k : Nat) : Dword :=
  match r.kind with
  | .atomic | .red =>
    if r.scalar then BitVec.ofNat 64 ((t.getS (r.f.vd.toNat + k)).toNat % 2 ^ (8 * r.size))
    else BitVec.ofNat 64 (ofBytes (laneBytes t (r.f.vd.toNat + k * (r.size / 4)) l r.size))
  | _ => 0

/-- It writes memory. -/
def MRule.writes (r : MRule) : Bool := match r.kind with | .load => false | _ => true
/-- It is an atomic. -/
def MRule.isAtomic (r : MRule) : Bool := match r.kind with | .atomic | .red | .amaxswap => true | _ => false
/-- It returns a value (R190). -/
def MRule.returns (r : MRule) : Bool := match r.kind with | .store | .red => false | _ => true

/-- The instruction may start its operation: checks of R103, no earlier acquire faulted (R316), no poisoned operand, a
release's and the release buffer's conditions (R196, R309). -/
structure MRule.Ready (r : MRule) (s : State) (t : Team) : Prop where
  poised : s.poised t = true
  checks : checkV s t r.op r.f = none
  noFault : t.acquireFault = none
  clean : s.readsPoison t
    ((if r.scalar ∨ r.strided ∨ r.f.va = 448 then [] else [r.f.va.toNat]) ++
      (if r.scalar ∨ r.kind = .load ∨ r.kind = .amaxswap then []
       else (List.range (r.size / 4)).map fun i => r.f.vd.toNat + i)) (r.lanes t) = false
  release : 2 ≤ mOrd r.f → s.releaseReady t (mScope r.f) = true
  room : r.writes = true → mSeg r.f ≠ 1 → (s.core (coreOf t.tid)).buffer.length < 64

/-- Some lane's access passes its segment's limit (R114). -/
def MRule.passes (r : MRule) (t : Team) (l : Nat) : Bool :=
  decide ((t.seg (mSeg r.f)).limit.toNat < (offsetOf r.f t r.scalar r.strided l).toNat + r.size)

/-- The address of a lane is misaligned. -/
def MRule.misaligned (r : MRule) (t : Team) (l : Nat) : Bool :=
  decide (addressOf r.f t r.scalar r.strided l % r.size ≠ 0)

end Sys2Proof.Claims

/-- R83, R113, R186, R187, R189, R190, R192, R196, R202 (VLD, VST, SLD, SST, VLDS, VSTS, ATOM, ATOMS, RED, AMAXSWAP as
they issue): with every lane within the limit, an atomic's lanes aligned, and no store into E by another team than the
supervisor, an operation starts on the bytes at addr(L) of each active lane, split at the sectors, with the data that the
lane sends; a load or an atomic that returns a value counts on FLAGA; the team goes on, and no register and no memory has
changed. With no lane active nothing starts. -/
def Sys2Proof.Claims.MemoryInstructionStartsItsOperation : Prop :=
  ∀ (s : State) (t : Team) (i : Instr) (r : MRule), memoryRule i = some r → r.Ready s t →
    (r.lanes t = [] → CompletesAs i s t.gone) ∧
    (r.lanes t ≠ [] → (∀ l ∈ r.lanes t, r.passes t l = false) →
      (r.isAtomic = true → ∀ l ∈ r.lanes t, r.misaligned t l = false) →
      (r.writes = true → mSeg r.f = 3 → s.isSup t = true) →
      (r.kind = .store → mSeg r.f ≠ 1 → hPstore (s.header t) = false) →
      ∃ s' o, exec i s = .next s' ∧ s' = { s with
          teams := s'.teams, ops := s.ops ++ [o], nextId := s.nextId + 1, cores := s'.cores } ∧
        (∀ c, s'.core c = { s.core c with perf := (s'.core c).perf }) ∧
        s'.team? t.tid = some { t.gone.raiseCount (if r.returns then t.flagA else none) with
          lastMark := max t.lastMark o.mark } ∧
        o.mark = (if r.isAtomic ∨ 2 ≤ mOrd r.f then s.releaseMark t (decide (2 ≤ mOrd r.f)) (mScope r.f) else 0) ∧
        (∀ h, h ≠ t.tid → s'.team? h = s.team? h) ∧
        o.id = s.nextId ∧ o.kind = r.kind ∧ o.origin.tid = t.tid ∧ o.seg = mSeg r.f ∧ o.dest = r.f.vd.toNat ∧
        o.scalar = r.scalar ∧ o.size = r.size ∧ o.ord = mOrd r.f ∧ o.scope = mScope r.f ∧ o.aop = mAop r.f ∧
        o.flag = (if r.returns then t.flagA else none) ∧ o.delivered = false ∧
        o.lanes = (r.lanes t).map fun l =>
          { lane := l, addr := addressOf r.f t r.scalar r.strided l, x := r.operand t l 0, y := r.operand t l 1
            bytes := r.bytes t l
            pieces := (sectors (addressOf r.f t r.scalar r.strided l) r.size).map fun p =>
              { off := p.1 - addressOf r.f t r.scalar r.strided l, len := p.2 } })

/-- R114, R188, R378 (the checks of memory instructions, in their order): a lane past the limit traps SEG_LIMIT with the
segment and the first lane's offset, or SCRATCH_BOUND through P with the mask of such lanes; then a misaligned atomic
traps MISALIGNED with the mask of such lanes and the lowest such address; then a write into E by another team than the
supervisor traps SEG_LIMIT. No lane has any effect. -/
def Sys2Proof.Claims.MemoryInstructionTrapsBeforeAnyEffect : Prop :=
  ∀ (s : State) (t : Team) (i : Instr) (r : MRule), memoryRule i = some r → r.Ready s t →
    (∀ l ls, (r.lanes t).filter (r.passes t) = l :: ls →
      (mSeg r.f = 1 →
        exec i s = .next (s.trap t 0x11 1 (offsetOf r.f t r.scalar r.strided l) (maskOf (l :: ls)))) ∧
      (mSeg r.f ≠ 1 → exec i s = .next (s.trap t 0x10 (mSeg r.f) (offsetOf r.f t r.scalar r.strided l) 0))) ∧
    ((r.lanes t).filter (r.passes t) = [] → r.isAtomic = true → ∀ l ls,
      (r.lanes t).filter (r.misaligned t) = l :: ls →
      ∃ a ∈ (l :: ls).map (addressOf r.f t r.scalar r.strided),
        (∀ b ∈ (l :: ls).map (addressOf r.f t r.scalar r.strided), a ≤ b) ∧
        exec i s = .next (s.trap t 0x12 (mSeg r.f) (BitVec.ofNat 64 a) (maskOf (l :: ls)))) ∧
    ((r.lanes t).filter (r.passes t) = [] → (r.isAtomic = true → (r.lanes t).filter (r.misaligned t) = []) →
      r.writes = true → mSeg r.f = 3 → s.isSup t = false → ∀ l ls, r.lanes t = l :: ls →
      exec i s = .next (s.trap t 0x10 3 (offsetOf r.f t r.scalar r.strided l) 0))

/-- A memory instruction starts its operation, or traps before any effect. -/
def Obligations.MemoryInstructionIssuesOrTraps : Prop :=
  Claims.MemoryInstructionStartsItsOperation ∧
  Claims.MemoryInstructionTrapsBeforeAnyEffect

/-- R189, R194, R195, R197 (PROBE, PLD, PST, SDRAIN): PROBE starts an operation that answers a word for each active
lane, with INLIM taken at issue, and counts on FLAGA; the hints change no register and no memory; SDRAIN goes on once
no posted store of the team is outstanding, and holds the team until then. -/
def Sys2Proof.Claims.ProbeHintsAndDrainAct : Prop :=
  ∀ (s : State) (t : Team) (f : VFields), s.poised t = true →
    (checkV s t 0x113 f = none → t.acquireFault = none →
      s.readsPoison t (if f.va = 448 then [] else [f.va.toNat]) t.lanes = false →
      (t.lanes = [] → CompletesAs (.probe f) s t.gone) ∧
      (t.lanes ≠ [] → ∃ s' o, exec (.probe f) s = .next s' ∧
        s'.team? t.tid = some (t.gone.raiseCount t.flagA) ∧ s'.ops = s.ops ++ [o] ∧ s'.mem = s.mem ∧
        o.kind = .probe ∧ o.flag = t.flagA ∧ o.size = 4 ∧
        o.lanes.map (fun a => (a.lane, a.addr, a.x)) = t.lanes.map fun l =>
          (l, addressOf f t false false l,
            if (offsetOf f t false false l).toNat < (t.seg (mSeg f)).limit.toNat then 8 else 0))) ∧
    (∀ i : Instr, (i = .pld f ∧ checkV s t 0x108 f = none) ∨ (i = .pst f ∧ checkV s t 0x109 f = none) →
      ∃ s', exec i s = .next s' ∧ s' = { (s.setTeam t.gone) with
        fresh := s'.fresh, cores := s'.cores, dcache := s'.dcache, plru := s'.plru }) ∧
    (checkV s t 0x112 f = none → s.draining t.tid = false → CompletesAs (.sdrain f) s t.gone) ∧
    (checkV s t 0x112 f = none → s.draining t.tid = true → s.hasEntry t [2] = false →
      ∃ n, CompletesAs (.sdrain f) s { t with held := some (.sdrain, n) })

/-- R196, R201, R283, R304, R316 (FENCE): a fence with a release waits until the team's earlier accesses are over and,
at `.die` or wider, until its core's release buffer is empty; then an acquire at `.die` or wider has dropped the core's
load cache and the team goes on; an acquire holds the team while a RED of it is open; behind a faulted acquire the team
parks. -/
def Sys2Proof.Claims.FenceOrdersAndDrops : Prop :=
  ∀ (s : State) (t : Team) (f : VFields), s.poised t = true → checkV s t 0x114 f = none →
    (t.acquireFault ≠ none →
      exec (.fence f) s = .next (s.setTeam { t with run := .parked .retry none, held := none })) ∧
    (t.acquireFault = none → 2 ≤ mOrd f → s.releaseReady t (mScope f) = false →
      ∃ n, CompletesAs (.fence f) s { t with held := some (.release (mScope f), n) }) ∧
    (t.acquireFault = none → (2 ≤ mOrd f → s.releaseReady t (mScope f) = true) → mOrd f ≠ 2 →
      (∃ o ∈ s.ops, o.origin.tid = t.tid ∧ o.kind = .red ∧ o.lanes.any LaneAcc.open_ = true) →
      ∃ n, CompletesAs (.fence f) s { t with held := some (.accesses, n) }) ∧
    (t.acquireFault = none → (2 ≤ mOrd f → s.releaseReady t (mScope f) = true) →
      (mOrd f ≠ 2 → ∀ o ∈ s.ops, o.origin.tid = t.tid → o.isStrongRead = true → o.lanes.any LaneAcc.open_ = false) →
      (mOrd f ≠ 2 → 4 ≤ mScope f → s.readTagsOpen t = false) →
      ∃ s' u, exec (.fence f) s = .next s' ∧ s'.team? t.tid = some u ∧
        s' = { s with teams := s'.teams, cores := s'.cores } ∧
        u = { t.gone with fenceMark := u.fenceMark, readTags := u.readTags } ∧
        (∀ c, s'.core c = if c = coreOf t.tid ∧ mOrd f ≠ 2 ∧ 3 ≤ mScope f then { s.core c with cache := [] } else s.core c) ∧
        u.fenceMark = if 2 ≤ mOrd f ∧ mScope f < 3 then s.bufMark (coreOf t.tid) else t.fenceMark)

/-- PROBE, the hints, SDRAIN and FENCE. -/
def Obligations.ProbeHintsDrainAndFenceAct : Prop :=
  Claims.ProbeHintsAndDrainAct ∧
  Claims.FenceOrdersAndDrops

/-! ## Memory operations as they are performed -/

namespace Sys2Proof.Claims

open Sys2Proof Sys2Proof.Machine

/-- The launch has a living team, so that its completion word stands as it is (R264). -/
def launchLives (s : State) (ctx lid : Nat) : Prop := ∀ x, s.launch? ctx lid = some x → x.living ≠ 0

/-- Some lane of the operation but lane l is still open. -/
def othersOpen (o : MemOp) (l : Nat) : Prop := ∃ b ∈ o.lanes, b.lane ≠ l ∧ b.open_ = true

/-- Piece k of lane a, read as bs. -/
def readAs (a : LaneAcc) (p : Piece) (k : Nat) (bs : List Byte) : LaneAcc :=
  { a with pieces := updAt (fun q => { q with done := true }) a.pieces k, bytes := patch a.bytes p.off bs }

/-- Memory with a run of bytes at an address written, and every other byte as it was. -/
def memAs (s s' : State) (pa : Nat) (bs : List Byte) : Prop :=
  ∀ x, memByte s'.mem x = if pa ≤ x ∧ x < pa + bs.length then bs.getD (x - pa) 0 else memByte s.mem x

/-- The event samples one piece, k of lane a, of a load o that is still to be delivered; a lane beside it stays open. -/
structure Samples (s : State) (o : MemOp) (a : LaneAcc) (k : Nat) (p : Piece) : Prop where
  op : s.op? s.arg.a = some o
  kind : o.kind = .load
  waits : o.delivered = false ∧ o.promoted = false
  piece : s.arg.pairs = [(a.lane, k)]
  lane : (o.lanes.find? fun b => b.lane == a.lane && b.open_) = some a
  first : (o.lanes.find? fun b => b.lane == a.lane) = some a
  part : a.pieces[k]? = some p ∧ p.done = false
  ready : s.pieceReady o a p = true
  ordinary : o.ord = 0
  others : othersOpen o a.lane
  alone : ∀ q ∈ s.ops, q.origin.tid = o.origin.tid → q.kind ≠ .store
  noRace : s.racing o (s.pieceAt o a p) p.len = false

/-- Every lane has been sampled or performed, and none has failed. -/
def whole (o : MemOp) : Prop := ∀ a ∈ o.lanes, a.fault = none ∧ ∀ p ∈ a.pieces, p.done = true

/-- The team has frozen a lane since the operation issued (R108, R364). -/
def frozenLane (o : MemOp) (t : Team) (l : Nat) : Prop := t.hold.getLsbD l = true ∧ l ∉ o.thawed

/-- The event finds nothing of an operation that returns values open: it is delivered to team t, in whose core the weirs
are off. -/
structure Delivers (s : State) (o : MemOp) (t : Team) : Prop where
  op : s.op? s.arg.a = some o
  pieces : s.arg.pairs = []
  returns : o.returns = true
  waits : o.delivered = false
  closed : ∀ a ∈ o.lanes, a.open_ = false
  team : s.team? o.origin.tid = some t
  weirs : s.weirsOff t = true
  kept : o.overwritten = []
  lives : launchLives s o.origin.ctx o.origin.lid
  lanes : (o.lanes.map LaneAcc.lane).Nodup
  faults : ∀ a ∈ o.lanes, ∀ p ∈ a.pieces, p.fault = none

/-- Word i of a lane's bytes (R6). -/
def wordOf (bs : List Byte) (i : Nat) : Word := BitVec.ofNat 32 (ofBytes ((bs.drop (4 * i)).take 4))

/-- The page of a lane's fault. -/
def faultPage (a : LaneAcc) : Option Nat := a.fault.map LaneFault.page

end Sys2Proof.Claims

/-- R191, R283, R308, R311 (LOAD_DELIVERY, one piece): a piece of a load through P takes the bytes of its plot's
scratchpad; a piece through another segment takes those of its line in the core's load cache where the page lets one
stand there, else those at its physical address; a translation that fails, or a read that the host or a peer ends with an
error (R391), leaves the fault in the lane. Nothing is delivered while a lane is open, and no team and no memory changes:
only what the caches hold. A data race is left out: its outcome is undefined (R12, R305). -/
def Sys2Proof.Claims.LoadPieceTakesItsBytes : Prop :=
  ∀ (s : State) (o : MemOp) (a : LaneAcc) (k : Nat) (p : Piece), Samples s o a k p →
    (∀ t, o.seg = 1 → s.team? o.origin.tid = some t → s.scratchPoisoned t.plot (a.addr + p.off) p.len = false →
      exec .loadDelivery s = .next (s.modOp o.id fun q =>
        q.modLane a.lane fun _ => readAs a p k (s.readScratch t.plot (a.addr + p.off) p.len))) ∧
    (∀ pa nc, o.seg ≠ 1 → s.translate (portOf o.origin.tid) o.origin.ctx (a.addr + p.off) .read = .ok pa nc →
      (s.core (coreOf o.origin.tid)).buffer = [] →
      (∀ c, nc = false → localHost (paLocal pa) = false → s.cached (coreOf o.origin.tid) (lineOf pa) = some c →
        ∃ s', exec .loadDelivery s = .next s' ∧ sameButCaches (s.modOp o.id fun q =>
          q.modLane a.lane fun _ => readAs a p k ((c.bytes.drop (pa % 64)).take p.len)) s') ∧
      (nc = true ∨ localHost (paLocal pa) = true ∨ s.cached (coreOf o.origin.tid) (lineOf pa) = none →
        (s.arg.flag = false ∨ s.outsideCause pa = none → s.poisoned pa = false →
          ∃ s', exec .loadDelivery s = .next s' ∧ sameButCaches (s.modOp o.id fun q =>
            q.modLane a.lane fun _ => readAs a p k ((List.range p.len).map fun i => memByte s.mem (pa + i))) s') ∧
        (∀ c, s.arg.flag = true → s.outsideCause pa = some c →
          ∃ s' e, exec .loadDelivery s = .next s' ∧ e.cause = c ∧ e.addr = a.addr + p.off ∧ sameButCaches (s.modOp o.id fun q =>
            q.modLane a.lane fun _ => { a with fault := some e }) s'))) ∧
    (∀ f, o.seg ≠ 1 → s.translate (portOf o.origin.tid) o.origin.ctx (a.addr + p.off) .read = .fault f →
      ∃ s', exec .loadDelivery s = .next s' ∧ sameButCaches (s.modOp o.id fun q =>
        q.modLane a.lane fun _ => { a with fault := some { f with addr := a.addr + p.off } }) s')

/-- R113, R187, R190, R206 (LOAD_DELIVERY, the delivery): with nothing open the lanes that passed are written, a scalar
sign-extended for a load in an s format, else zero-extended; every other register stays, and so does a lane that has been
frozen since the operation issued (R108). Without a fault the operation
ends and its flag's count with it. With faults there is one entry for each page that faulted, in ascending order, holding
the lanes of that page, and the count stays. An acquire drops the core's load cache. -/
def Sys2Proof.Claims.LoadDeliversItsLanes : Prop :=
  ∀ (s : State) (o : MemOp) (t : Team), Delivers s o t →
    (whole o → ∃ s' u, exec .loadDelivery s = .next s' ∧ s'.team? t.tid = some u ∧ s'.op? o.id = none ∧ s'.mem = s.mem ∧
      u = { t with v := u.v, s := u.s, flags := u.flags } ∧
      (∀ n, u.flag n = if o.flag = some n then { t.flag n with count := (t.flag n).count - 1 } else t.flag n) ∧
      (o.isAcquire = true → 3 ≤ o.scope → (s'.core (coreOf t.tid)).cache = []) ∧
      (∀ a, o.scalar = true → o.lanes = [a] → u.v = t.v ∧ ∀ n, u.getS n = if n = o.dest then
          (if o.kind = .load ∧ o.format.isS = true then sext (8 * o.size) (ofBytes a.bytes)
           else BitVec.ofNat 64 (ofBytes a.bytes))
        else t.getS n) ∧
      (o.scalar = false → (∀ a ∈ o.lanes, a.bytes.length = o.size) → o.size % 4 = 0 → u.s = t.s ∧
        (∀ a ∈ o.lanes, ¬frozenLane o t a.lane → ∀ i, i < o.size / 4 → u.getV (o.dest + i) a.lane = wordOf a.bytes i) ∧
        ∀ r l, (r < o.dest ∨ o.dest + o.size / 4 ≤ r ∨ frozenLane o t l ∨ ∀ a ∈ o.lanes, a.lane ≠ l) →
          u.getV r l = t.getV r l)) ∧
    (∀ c, s.isSup t = false → s.saving o = false → s.ctx? o.origin.ctx = some c → (∃ a ∈ o.lanes, a.fault ≠ none) →
      (∀ a ∈ o.lanes, a.resolved = false) → o.scalar = false → o.isAcquire = false →
      ∃ s' u es, exec .loadDelivery s = .next s' ∧ s'.team? t.tid = some u ∧ s'.mem = s.mem ∧ u.flags = t.flags ∧
        s'.op? o.id = some { o with delivered := true, unwritten := es.length } ∧
        s'.ctx? o.origin.ctx = some { c with held := c.held ++ es } ∧
        (es.map Held.page).Pairwise (· < ·) ∧
        (∀ a ∈ o.lanes, ∀ g, faultPage a = some g → ∃ e ∈ es, e.page = g) ∧
        (∀ e ∈ es, e.store = false ∧ e.opId = o.id ∧ e.lanes ≠ [] ∧
          e.lanes = (o.lanes.filter fun a => faultPage a == some e.page).map LaneAcc.lane) ∧
        ((∀ a ∈ o.lanes, a.bytes.length = o.size) → o.size % 4 = 0 →
          (∀ a ∈ o.lanes, a.fault = none → ¬frozenLane o t a.lane →
            ∀ i, i < o.size / 4 → u.getV (o.dest + i) a.lane = wordOf a.bytes i) ∧
          ∀ a ∈ o.lanes, a.fault ≠ none ∨ frozenLane o t a.lane → ∀ r, u.getV r a.lane = t.getV r a.lane))

/-- A load samples its pieces and delivers its lanes. -/
def Obligations.LoadTakesAndDeliversItsBytes : Prop :=
  Claims.LoadPieceTakesItsBytes ∧
  Claims.LoadDeliversItsLanes

namespace Sys2Proof.Claims

open Sys2Proof Sys2Proof.Machine

/-- The event performs piece k of lane a of a posted store; the rest of the lane has not begun, or is done as well. -/
structure Performs (s : State) (o : MemOp) (a : LaneAcc) (k : Nat) (p : Piece) : Prop where
  op : s.op? s.arg.a = some o
  kind : o.kind = .store
  lane : s.arg.b = a.lane ∧ (o.lanes.find? fun b => b.lane == a.lane && b.open_) = some a
  first : (o.lanes.find? fun b => b.lane == a.lane) = some a
  part : s.arg.c = k ∧ a.pieces[k]? = some p ∧ p.done = false
  ready : s.pieceReady o a p = true
  size : p.off + p.len ≤ a.bytes.length
  waits : o.delivered = false
  posted : o.flag = none ∧ o.isAcquire = false
  lives : launchLives s o.origin.ctx o.origin.lid
  noRace : s.racing o (s.pieceAt o a p) p.len = false

/-- The bytes of a piece. -/
def pieceBytes (a : LaneAcc) (p : Piece) : List Byte := (a.bytes.drop p.off).take p.len

/-- The lane with its piece over: performed, or with the fault that it met. -/
def performed (a : LaneAcc) (k : Nat) (f : Option LaneFault := none) : LaneAcc :=
  { a with pieces := updAt (fun q => { q with done := true, fault := f }) a.pieces k }

/-- The operation stands with one lane changed if another lane is open; if everything is performed, it is over. -/
def standsWith (s' : State) (o : MemOp) (a b : LaneAcc) : Prop :=
  (othersOpen o a.lane → s'.op? o.id = some (o.modLane a.lane fun _ => b)) ∧
  (o.lanes = [a] → b.open_ = false → b.faults = [] → s'.op? o.id = none)

end Sys2Proof.Claims

/-- R192, R196, R308, R311, R314, R391 (STORE_PERFORM): a piece writes its bytes at its physical address and nothing else in
memory, or enters its core's release buffer, youngest last, where the event, an earlier write to one of its bytes, or an
earlier write of its team to the host window that stands there says so, and waits while 64 writes stand there; through P it
writes the plot's scratchpad; a piece whose translation fails, or which a peer refuses, leaves its fault, and no byte
changes: the other pieces of its lane are performed or fail on their own. A store with nothing left to perform is over. A
data race is left out: what it writes is undefined (R12, R305). -/
def Sys2Proof.Claims.StorePieceIsPerformedAtItsPlace : Prop :=
  ∀ (s : State) (o : MemOp) (a : LaneAcc) (k : Nat) (p : Piece), Performs s o a k p →
    (∀ pa nc, o.seg ≠ 1 → s.arg.hostErr = false ∨ s.isHost pa = true ∨ s.outsideCause pa = none →
      s.translate (portOf o.origin.tid) o.origin.ctx (a.addr + p.off) .write = .ok pa nc →
      (s.arg.flag = false → s.bufMeets (coreOf o.origin.tid) pa p.len = false →
        ¬(s.isHost pa = true ∧ s.hostBuffered (coreOf o.origin.tid) o.origin.tid = true) →
        ∃ s', exec .storePerform s = .next s' ∧ memAs s s' pa (pieceBytes a p) ∧ standsWith s' o a (performed a k) ∧
          ∀ h t, s.team? h = some t → t.monitor = .none_ → o.seg ≠ 3 ∨ h ≠ o.origin.tid → s'.team? h = some t) ∧
      (s.arg.flag = true ∨ s.bufMeets (coreOf o.origin.tid) pa p.len = true ∨
          (s.isHost pa = true ∧ s.hostBuffered (coreOf o.origin.tid) o.origin.tid = true) →
        ((s.core (coreOf o.origin.tid)).buffer.length < 64 →
          ∃ s', exec .storePerform s = .next s' ∧ s'.mem = s.mem ∧ standsWith s' o a (performed a k) ∧
            (s'.core (coreOf o.origin.tid)).buffer = (s.core (coreOf o.origin.tid)).buffer ++
              [{ seq := s.nextId, pa, bytes := pieceBytes a p, opId := o.id, tid := o.origin.tid, ctx := o.origin.ctx
                 lid := o.origin.lid, nc }]) ∧
        (64 ≤ (s.core (coreOf o.origin.tid)).buffer.length → exec .storePerform s = .next s))) ∧
    (∀ f, o.seg ≠ 1 → s.translate (portOf o.origin.tid) o.origin.ctx (a.addr + p.off) .write = .fault f →
      ∃ s', exec .storePerform s = .next s' ∧ s'.mem = s.mem ∧ s'.teams = s.teams ∧
        standsWith s' o a (performed a k (some { f with addr := a.addr + p.off }))) ∧
    (∀ pa nc, o.seg ≠ 1 → o.seg ≠ 3 → s.translate (portOf o.origin.tid) o.origin.ctx (a.addr + p.off) .write = .ok pa nc →
      s.arg.hostErr = true → s.outsideCause pa = some 9 →
      ∃ s' e, exec .storePerform s = .next s' ∧ s'.mem = s.mem ∧ s'.teams = s.teams ∧ e.cause = 9 ∧ e.addr = a.addr + p.off ∧
        standsWith s' o a (performed a k (some e))) ∧
    (∀ w off, o.seg = 1 → s.plot? o.origin.plot = some w → w.exited.length < w.teams →
      w.scratchOff (a.addr + p.off) = some off →
      ∃ s' w', exec .storePerform s = .next s' ∧ s'.mem = s.mem ∧ s'.teams = s.teams ∧ standsWith s' o a (performed a k) ∧
        s'.plot? o.origin.plot = some w' ∧
        ∀ y, spRead 0 w'.scratch y =
          if off ≤ y ∧ y < off + p.len then (pieceBytes a p).getD (y - off) 0 else spRead 0 w.scratch y)

namespace Sys2Proof.Claims

open Sys2Proof Sys2Proof.Machine

/-- R204: what an atomic makes of a location, and the flags it raises. -/
def atomicRule (F : Fmt) (aop m x y : Nat) : Nat × BitVec 8 :=
  let less := fun (a b : Nat) => belowVal (floatOrInt a) (floatOrInt b)
  match aop with
  | 0 =>
    if F.isAbsent x then (m, 0) else if F.isAbsent m then (x, 0)
    else if F.isFloat then roundRes F .rne false (sumVals false [floatVal F m, floatVal F x])
    else ((m + x) % 2 ^ F.width, if (m + x) % 2 ^ F.width = F.absent then 0x20 else 0)
  | 1 => extreme less m x
  | 2 => extreme (fun a b => less b a) m x
  | 3 => (m &&& x, 0)
  | 4 => (m ||| x, 0)
  | 5 => (m ^^^ x, 0)
  | 6 => (x, 0)
  | _ => (if m = x then y else m, 0)
where
  /-- The value of a pattern. -/
  floatOrInt (a : Nat) : Val := valOf F a
  /-- min and max: absent is nothing, a NaN operand raises IV, a NaN location takes the operand. -/
  extreme (before : Nat → Nat → Bool) (m x : Nat) : Nat × BitVec 8 :=
    if F.isAbsent x then (m, 0) else if F.isAbsent m then (x, 0)
    else if (valOf F x).isNan then (m, 0x01) else if (valOf F m).isNan then (x, 0)
    else (if before x m then x else m, 0)

/-- What one lane makes of the location: AMAXSWAP leaves the format's absent code (R206). -/
def laneRule (o : MemOp) (m : Nat) (a : LaneAcc) : Nat × BitVec 8 :=
  if o.kind = .amaxswap then (o.format.absent, 0) else atomicRule o.format o.aop m a.x.toNat a.y.toNat

/-- The location and the flags after some lanes, one after another (R205). -/
def afterLanes (o : MemOp) (m : Nat) (as : List LaneAcc) : Nat × BitVec 8 :=
  as.foldl (fun x a => ((laneRule o x.1 a).1, x.2 ||| (laneRule o x.1 a).2)) (m, 0)

/-- The slice that a physical address is home to, among the slices of all modules (R23, R40). -/
def sliceAt (pa : Nat) : Nat := paModule pa * Config.slices + homeSlice pa

/-- The request of an atomic, for its lanes at one address, is performed now at a physical address (R40): it arrives at a
home slice where no other request stands and its line is not tagged (R308), or at a host window; or it stands at its slice
and is the next that the slice serves. -/
def ServedAt (s : State) (o : MemOp) (a : LaneAcc) (same : List LaneAcc) (pa : Nat) : Prop :=
  (s.atomicReq? o same = none ∧ s.atomicReady o a.addr = true ∧
    (∃ nc, s.translate (portOf o.origin.tid) o.origin.ctx a.addr (.atomic o.hostAble) = .ok pa nc) ∧
    s.bufMeets (coreOf o.origin.tid) pa o.size = false ∧ (s.arg.hostErr = false ∨ s.outsideCause pa = none) ∧
    (localHost (paLocal pa) = true ∨ (coreOf o.origin.tid < 192 ∧ (∀ r ∈ s.reqs, r.slice ≠ sliceAt pa) ∧
      s.mustPromote (coreOf o.origin.tid) o.scope o.isAcquire (some (false, pa)) = false))) ∨
  ∃ r, s.atomicReq? o same = some r ∧ r.pa = pa ∧ r.promoted = false ∧ s.nextCore r.slice = some r ∧ s.reqPromotes r = false

/-- The event performs the atomic of the lanes at one address; a lane at another address stays open. -/
structure Atomic (s : State) (o : MemOp) (a : LaneAcc) (same : List LaneAcc) (t : Team) : Prop where
  op : s.op? s.arg.a = some o
  kind : (o.kind = .atomic ∨ o.kind = .red ∨ o.kind = .amaxswap) ∧ o.aop ≤ 7
  lane : s.arg.b = a.lane ∧ (o.lanes.find? fun b => b.lane == a.lane && b.open_) = some a
  same : same = o.lanes.filter fun b => b.addr == a.addr && b.open_
  ascending : (o.lanes.map LaneAcc.lane).Pairwise (· < ·)
  others : ∃ b ∈ o.lanes, b.addr ≠ a.addr ∧ b.open_ = true
  waits : o.delivered = false ∧ o.promoted = false
  team : s.team? o.origin.tid = some t ∧ t.dying = none ∧ t.monitor = .none_

/-- A lane performed, with the value it gets back. -/
def answered (o : MemOp) (b : LaneAcc) (old : Nat) : LaneAcc :=
  { b with pieces := b.pieces.map fun p => { p with done := true }, bytes := toBytes o.size old }

/-- Each lane at the address has what stood there before it, and the other lanes are as they were (R205). -/
def answeredInOrder (o o' : MemOp) (same : List LaneAcc) (m : Nat) : Prop :=
  o' = { o with lanes := o'.lanes } ∧ o'.lanes.length = o.lanes.length ∧
  (∀ b ∈ o.lanes, b ∉ same → b ∈ o'.lanes) ∧
  ∀ pre b post, same = pre ++ b :: post → answered o b (afterLanes o m pre).1 ∈ o'.lanes

end Sys2Proof.Claims

/-- R203, R204, R205, R206, R392 (ATOMIC_PERFORM): in one step the lanes of one address act on the location one after
another in ascending order; the location then holds the last result, each lane gets what stood before it, and the flags
go to the team's FSR. The location is the physical address of G, at whose home slice the request is served in its turn
(R40), or a place of the plot's scratchpad for P; no other byte changes. A failed translation, or an error from the host or a
peer (R391), leaves the fault in each of the lanes and changes no byte. -/
def Obligations.AtomicActsOnItsLocation : Prop :=
  ∀ (s : State) (o : MemOp) (a : LaneAcc) (same : List LaneAcc) (t : Team), Atomic s o a same t →
    (∀ pa, o.seg ≠ 1 → ServedAt s o a same pa → s.poisoned pa = false →
      ∃ s' o' u, exec .atomicPerform s = .next s' ∧ s'.op? o.id = some o' ∧
        answeredInOrder o o' same (ofBytes (memRead s.mem pa o.size)) ∧
        memAs s s' pa (toBytes o.size (afterLanes o (ofBytes (memRead s.mem pa o.size)) same).1) ∧
        s'.team? t.tid = some u ∧ u = { t with fsr := u.fsr, readTags := u.readTags } ∧
        u.fsr = t.fsr ||| (afterLanes o (ofBytes (memRead s.mem pa o.size)) same).2) ∧
    (∀ w off, o.seg = 1 → s.atomicReq? o same = none → s.atomicReady o a.addr = true →
      s.plot? o.origin.plot = some w → w.scratchOff a.addr = some off → s.scratchPoisoned o.origin.plot a.addr o.size = false →
      ∃ s' o' w', exec .atomicPerform s = .next s' ∧ s'.op? o.id = some o' ∧ s'.mem = s.mem ∧
        answeredInOrder o o' same (ofBytes (s.readScratch o.origin.plot a.addr o.size)) ∧
        s'.team? t.tid = some { t with
          fsr := t.fsr ||| (afterLanes o (ofBytes (s.readScratch o.origin.plot a.addr o.size)) same).2 } ∧
        s'.plot? o.origin.plot = some w' ∧
        ∀ y, spRead 0 w'.scratch y =
          if off ≤ y ∧ y < off + o.size then
            (toBytes o.size (afterLanes o (ofBytes (s.readScratch o.origin.plot a.addr o.size)) same).1).getD (y - off) 0
          else spRead 0 w.scratch y) ∧
    (∀ f, o.seg ≠ 1 → s.atomicReq? o same = none → s.atomicReady o a.addr = true →
      s.translate (portOf o.origin.tid) o.origin.ctx a.addr (.atomic o.hostAble) = .fault f →
      ∃ s' o', exec .atomicPerform s = .next s' ∧ s'.op? o.id = some o' ∧ s'.mem = s.mem ∧ s'.teams = s.teams ∧
        ∀ b ∈ o.lanes, (b ∉ same → b ∈ o'.lanes) ∧
          (b ∈ same → { b with fault := some { f with addr := a.addr } } ∈ o'.lanes)) ∧
    (∀ pa nc c, o.seg ≠ 1 → s.atomicReq? o same = none → s.atomicReady o a.addr = true →
      s.translate (portOf o.origin.tid) o.origin.ctx a.addr (.atomic o.hostAble) = .ok pa nc →
      s.bufMeets (coreOf o.origin.tid) pa o.size = false → s.arg.hostErr = true → s.outsideCause pa = some c →
      ∃ s' o' e, exec .atomicPerform s = .next s' ∧ s'.op? o.id = some o' ∧ s'.mem = s.mem ∧ s'.teams = s.teams ∧
        e.cause = c ∧ e.addr = a.addr ∧ ∀ b ∈ o.lanes, (b ∉ same → b ∈ o'.lanes) ∧ (b ∈ same → { b with fault := some e } ∈ o'.lanes))

/-- R308, R309 (RELEASE_BUFFER_DRAIN, PROMOTED_ACQUIRE_REPLY): the oldest write of a core's release buffer is performed
at its home, and leaves the buffer. An acquire that found its line tagged is answered once no other core's tagged write
stands in its buffer, then as a load that is sampled and delivered; until then nothing happens. -/
def Sys2Proof.Claims.ReleaseBufferDrainsInOrder : Prop :=
  (∀ (s : State) (w : BufWrite) (rest : List BufWrite), (s.core s.arg.a).buffer = w :: rest →
    launchLives s w.ctx w.lid →
    ∃ s', exec .releaseBufferDrain s = .next s' ∧ memAs s s' w.pa w.bytes ∧ (s'.core s.arg.a).buffer = rest ∧
      s'.ops = s.ops ∧ ∀ h t, s.team? h = some t → t.monitor = .none_ → s'.team? h = some t) ∧
  (∀ (s : State) (o : MemOp), s.op? s.arg.a = some o → o.kind = .load → o.promoted = true → o.delivered = false →
    s.arg.pairs = [] → s.arg.flag = false →
    ((∀ a ∈ o.lanes, ∀ p ∈ a.pieces,
        s.mustPromote (coreOf o.origin.tid) o.scope o.isAcquire (s.pieceAt o a p) = false) →
      ∃ r s', exec .loadDelivery (s.modOp o.id fun q => { q with promoted := false }) = .next r ∧
        exec .promotedAcquireReply s = .next s' ∧ s' = { r with cores := s'.cores } ∧
        ∀ c, s'.core c = { r.core c with perf := (s'.core c).perf }) ∧
    ((∃ a ∈ o.lanes, a.open_ = true ∧ ∃ p ∈ a.pieces, p.done = false ∧
        s.mustPromote (coreOf o.origin.tid) o.scope o.isAcquire (s.pieceAt o a p) = true) →
      exec .promotedAcquireReply s = .next s))

/-- A store is performed at its place, and the release buffer drains in order. -/
def Obligations.StoresArePerformedAndBuffersDrain : Prop :=
  Claims.StorePieceIsPerformedAtItsPlace ∧
  Claims.ReleaseBufferDrainsInOrder

/-! ## Copies -/

namespace Sys2Proof.Claims

open Sys2Proof Sys2Proof.Machine

/-- A copy instruction: opcode, fields, rows, row length and pitches in bytes (R199, R200). -/
structure CRule where
  op : Nat
  f : VFields
  rows : Nat
  rowLen : Nat
  srcPitch : Nat
  dstPitch : Nat

/-- R199: CPY takes its length from a register or from LIT; CPYW its row length from LIT, and destination pitch, source
pitch and row count from s[VB] and s[VB + 1]. -/
def copyRule (t : Team) : Instr → Option CRule
  | .cpy f =>
    some { op := 0x110, f, rows := 1, rowLen := if f.vb = 448 then litNat f else (t.getS f.vb.toNat).toNat
           srcPitch := 0, dstPitch := 0 }
  | .cpyw f =>
    some { op := 0x111, f, rows := field (t.getS (f.vb.toNat + 1)) 31 0, rowLen := litNat f
           srcPitch := field (t.getS f.vb.toNat) 63 32, dstPitch := field (t.getS f.vb.toNat) 31 0 }
  | _ => none

/-- Segment of a copy's source: G, P or K (R199). -/
def CRule.srcSeg (c : CRule) : Nat := if cSseg c.f = 0 then 0 else if cSseg c.f = 1 then 1 else 2
/-- Bytes of the source range and of the destination range (R200). -/
def CRule.span (c : CRule) (pitch : Nat) : Nat := (c.rows - 1) * pitch + c.rowLen
/-- Bytes of a source element: 1 when raw, else those of the format that SFMT names (R199). -/
def CRule.elemSize (c : CRule) : Nat := if cSfmt c.f = 0 then 1 else (fmtOf (7 + cSfmt c.f) 0).width / 8
/-- Bytes that it writes. -/
def CRule.dstSpan (c : CRule) : Nat :=
  if cSfmt c.f = 0 then c.span c.dstPitch else c.rows * c.rowLen / c.elemSize * ((fmtOf c.f.fmt.toNat 0).width / 8)

/-- The copy may be handed over: its ranges and its completion word lie within their limits (R114, R200). -/
structure CRule.Ready (c : CRule) (s : State) (t : Team) : Prop where
  poised : s.poised t = true
  checks : checkV s t c.op c.f = none
  noFault : t.acquireFault = none
  some : 0 < c.rows * c.rowLen ∧ c.rows * c.rowLen % c.elemSize = 0
  source : (t.getS c.f.va.toNat).toNat + c.span c.srcPitch ≤ (t.seg c.srcSeg).limit.toNat
  target : (t.getS c.f.vd.toNat).toNat + c.dstSpan ≤ (t.seg (cDseg c.f)).limit.toNat
  word : cDone c.f = 2 → (t.getS c.f.vc.toNat).toNat + 8 ≤ (t.seg 0).limit.toNat ∧
    ((t.seg 0).base + t.getS c.f.vc.toNat).toNat % 8 = 0

/-- What a copy's bytes are read from and written to: the scratchpad of its plot, or physical memory. -/
abbrev Place := Bool × Nat

/-- The byte at a place. -/
def byteAt (s : State) (plot : Nat) (x : Place) : Byte :=
  if x.1 then (match s.plot? plot with | some p => p.scratchByte x.2 | none => 0) else memByte s.mem x.2

/-- An element of n bytes at an address of a segment, within one sector, stands at a place: in the plot's scratchpad, or
where a translation that the team's partition holds puts it; a read finds no poison there. -/
def standsAt (s : State) (o : Origin) (seg addr n : Nat) (acc : Acc) (x : Place) : Prop :=
  0 < n ∧ addr % 32 + n ≤ 32 ∧
  (seg = 1 → x = (true, addr) ∧ (∃ p, s.plot? o.plot = some p ∧ ∀ j < n, (p.scratchOff (addr + j)).isSome = true) ∧
    (acc = .read → s.scratchPoisoned o.plot addr n = false)) ∧
  (seg ≠ 1 → x.1 = false ∧ (acc = .read → s.poisoned x.2 = false) ∧
    ∃ e nc, tlbFind (s.firstTlb o.port) o.ctx addr = some e ∧ leafCheck s e addr acc = .ok x.2 nc)

/-- Two runs of bytes at places share none. -/
def apart (x : Place) (n : Nat) (y : Place) (m : Nat) : Prop := x.1 ≠ y.1 ∨ x.2 + n ≤ y.2 ∨ y.2 + m ≤ x.2

/-- R199, R200: the value of a copied element, and its flags. -/
def copied (k : Copy) (bs : List Byte) : Nat × BitVec 8 :=
  if k.sfmt = 0 then (ofBytes bs, 0) else convert k.formats.2 k.formats.1 .rne false (ofBytes bs)

/-- The engine has a copy of n elements to run to its end, nothing of it done; every element stands at a place, the eight
bytes of a piece that a raw copy writes at once side by side (R312); and no element is written over another or over one
still to be read. -/
structure Runs (s : State) (k : Copy) (t : Team) (n : Nat) (src dst : Nat → Place) : Prop where
  found : (s.copies.find? fun x => x.id == s.arg.a) = some k
  toEnd : s.arg.flag = false ∧ s.arg.hostErr = false
  begun : k.stopped = false ∧ k.wordLeft = false ∧ k.progress = 0
  count : n = k.count k.sizes.1
  ready : s.engineReady k.origin k.id = true
  team : s.team? k.origin.tid = some t ∧ t.dying = none ∧ t.monitor = .none_
  plot : ∀ p, s.plot? k.origin.plot = some p → p.exited.length < p.teams
  source : ∀ i < n, standsAt s k.origin k.sseg (k.place i).1 k.sizes.1 .read (src i)
  target : ∀ i < n, standsAt s k.origin k.dseg (k.place i).2 k.sizes.2 .write (dst i)
  together : k.sfmt = 0 → ∀ i j, j < 8 → i + j < n → (k.place i).2 % 8 = 0 → (k.place (i + j)).2 = (k.place i).2 + j →
    dst (i + j) = ((dst i).1, (dst i).2 + j)
  apart : ∀ i < n, ∀ j < n, apart (src i) k.sizes.1 (dst j) k.sizes.2 ∧
    (i ≠ j → apart (dst i) k.sizes.2 (dst j) k.sizes.2)

/-- Bytes of a source element. -/
def elementAt (s : State) (k : Copy) (src : Nat → Place) (i : Nat) : List Byte :=
  (List.range k.sizes.1).map fun j => byteAt s k.origin.plot ((src i).1, (src i).2 + j)

end Sys2Proof.Claims

/-- R83, R199, R200 (CPY, CPYW as they issue): a copy of at least one element whose ranges lie within their limits is
handed to the engine, its addresses and shape captured; no memory changes. With `.flag` it counts on FLAGB and the team
goes on; with `.yield` the team parks, to go on at the label; with `.word` the team goes on. A range past its limit traps
SEG_LIMIT, the source before the destination. -/
def Sys2Proof.Claims.CopyIsHandedToTheEngine : Prop :=
  ∀ (s : State) (t : Team) (i : Instr) (c : CRule), copyRule t i = some c →
    (c.Ready s t → ∃ s' k, exec i s = .next s' ∧
      s' = { s with copies := s.copies ++ [k], nextId := s.nextId + 1, teams := s'.teams } ∧
      k = { id := s.nextId, origin := t.origin, sseg := c.srcSeg, dseg := cDseg c.f
            src := (t.seg c.srcSeg).base + t.getS c.f.va.toNat, dst := (t.seg (cDseg c.f)).base + t.getS c.f.vd.toNat
            rowLen := c.rowLen, rows := c.rows, srcPitch := c.srcPitch, dstPitch := c.dstPitch, fmt := c.f.fmt.toNat
            sfmt := cSfmt c.f, scope := cScope c.f, done := k.done } ∧
      (cDone c.f = 0 → k.done = .flag t.flagB ∧ s'.team? t.tid = some (t.gone.raiseCount t.flagB)) ∧
      (cDone c.f = 1 → k.done = .yield_ ∧ s'.team? t.tid = some { t with
        run := .parked (.copy s.nextId (t.insnPc + (c.f.vc.signExtend 64) * 4)) none, held := none }) ∧
      (2 ≤ cDone c.f → k.done = .word ((t.seg 0).base + t.getS c.f.vc.toNat) ∧ s'.team? t.tid = some t.gone)) ∧
    (s.poised t = true → checkV s t c.op c.f = none → t.acquireFault = none → 0 < c.rows → 0 < c.rowLen → c.srcSeg ≠ 1 →
      (t.seg c.srcSeg).limit.toNat < (t.getS c.f.va.toNat).toNat + c.span c.srcPitch →
      exec i s = .next (s.trap t 0x10 c.srcSeg (t.getS c.f.va.toNat) 0))

/-- R199, R200, R392 (COPY_COMPLETE): each element is read at its source, converted where the copy converts, and written
at its destination; no other byte changes; the flags go to the team's FSR. Then the copy is gone, and its flag's count
ends, or the wake of its team comes; its scope's acquire drops the core's load cache. A fault of the first element leaves
the copy stopped with an engine entry to be written, and nothing copied. -/
def Sys2Proof.Claims.CopyMovesItsElements : Prop :=
  (∀ (s : State) (k : Copy) (t : Team) (n : Nat) (src dst : Nat → Place), Runs s k t n src dst →
    (∀ va, k.done ≠ .word va) →
    ∃ s' u, exec .copyComplete s = .next s' ∧ s'.team? t.tid = some u ∧
      (s'.copies.find? fun x => x.id == k.id) = none ∧
      (∀ i < n, ∀ j < k.sizes.2, byteAt s' k.origin.plot ((dst i).1, (dst i).2 + j) =
        (toBytes k.sizes.2 (copied k (elementAt s k src i)).1).getD j 0) ∧
      (∀ x, (∀ i < n, ∀ j < k.sizes.2, (dst i).1 = false → (dst i).2 + j ≠ x) → memByte s'.mem x = memByte s.mem x) ∧
      u = { t with fsr := u.fsr, flags := u.flags, run := u.run } ∧
      u.fsr = (List.range n).foldl (fun x i => x ||| (copied k (elementAt s k src i)).2) t.fsr ∧
      (∀ f, k.done = .flag f → u.run = t.run ∧
        ∀ m, u.flag m = if f = some m then { t.flag m with count := (t.flag m).count - 1 } else t.flag m) ∧
      (k.done = .yield_ → u.flags = t.flags ∧
        ∀ cont, t.run = .parked (.copy k.id cont) none → u.run = .parked (.copy k.id cont) (some .done)) ∧
      (3 ≤ k.scope → (s'.core k.origin.core).cache = [])) ∧
  (∀ (s : State) (k : Copy) (c : Context) (f : LaneFault),
    (s.copies.find? fun x => x.id == s.arg.a) = some k → k.stopped = false ∧ k.wordLeft = false ∧ k.progress = 0 →
    s.arg.flag = false → k.sfmt = 0 → k.sseg ≠ 1 → 0 < k.rows * k.rowLen → s.engineReady k.origin k.id = true →
    s.ctx? k.origin.ctx = some c → s.translate k.origin.port k.origin.ctx k.src.toNat .read = .fault f →
    ∃ s' e, exec .copyComplete s = .next s' ∧ s'.mem = s.mem ∧ s'.teams = s.teams ∧
      (s'.copies.find? fun x => x.id == k.id) = some { k with stopped := true } ∧
      s'.ctx? k.origin.ctx = some { c with held := c.held ++ [e] } ∧ e.originCode = 4 ∧ e.origin = k.origin ∧
      e.engAddr = k.src.toNat ∧ e.page = f.page ∧ e.cause = f.cause)

/-- A copy is handed to its engine and moves its elements. -/
def Obligations.CopyIsHandedOverAndMoves : Prop :=
  Claims.CopyIsHandedToTheEngine ∧
  Claims.CopyMovesItsElements

/-! ## Monitors, barriers and wakes -/

namespace Sys2Proof.Claims

open Sys2Proof Sys2Proof.Machine

/-- off and addr of a synchronisation operand (R186). -/
def syncOff (f : VFields) (t : Team) : Dword :=
  (if mNoBase f then 0 else t.getS (mBase f)) + (f.lit.getD 0).signExtend 64
/-- addr of a synchronisation operand through a segment. -/
def syncAddr (f : VFields) (t : Team) (seg : Nat) : Dword := (t.seg seg).base + syncOff f t

/-- The scalar destination. -/
def dReg (f : VFields) : Nat := f.vd.toNat % 128

/-- Nothing of the team stands in the way of retiring its instruction (R361, R270, R88). -/
structure Quiet (t : Team) : Prop where
  late : t.late = none
  stepping : t.stepping = none
  stays : t.leaveAtEnd = false
  yields : t.clauseYield = false

/-- EXPECTED, or the parties (R211). -/
def expectedOf (s : State) (b : Barrier) (w : Nat) : Nat := if w / 2 ^ 32 % 2 ^ 16 = 0 then s.parties b else w / 2 ^ 32 % 2 ^ 16

/-- Arrivals after one more. -/
def arrivedOf (w : Nat) : Nat := (w / 2 ^ 16 % 2 ^ 16 + 1) % 2 ^ 16

/-- R211: an arrival completes the phase. -/
def completes (s : State) (b : Barrier) (w : Nat) : Prop := 0 < expectedOf s b w ∧ expectedOf s b w ≤ arrivedOf w

open Classical in
/-- R211: the barrier word after an arrival. -/
noncomputable def arriveWord (s : State) (b : Barrier) (w : Nat) : Nat :=
  w / 2 ^ 32 * 2 ^ 32 + (if completes s b w then (w % 2 ^ 16 + 1) % 2 ^ 16 else arrivedOf w * 2 ^ 16 + w % 2 ^ 16)

/-- A scratchpad barrier instruction acts on the word at an offset of its plot's scratchpad (R209, R210). -/
structure AtBarrier (s : State) (t : Team) (op : Nat) (f : VFields) (p : Plot) (off : Nat) : Prop where
  poised : s.poised t = true
  checks : checkV s t op f = none
  noFault : t.acquireFault = none
  plot : s.plot? t.plot = some p
  place : p.scratchOff (syncAddr f t 1).toNat = some off ∧ (p.scratchOff ((syncAddr f t 1).toNat + 7)).isSome = true
  inside : (syncOff f t).toNat + 8 ≤ (t.seg 1).limit.toNat ∧ (syncAddr f t 1).toNat % 8 = 0
  clean : s.scratchPoisoned t.plot (syncAddr f t 1).toNat 8 = false

/-- Scope of a barrier instruction: its default, or a wider one that it names (R210). -/
def barrierScope (dflt : Nat) (f : VFields) : Nat := if mOrd f = 0 then dflt else max dflt (mScope f)

/-- The team may arrive there: its earlier accesses are over, it has no record for the word, and one is free; a record at
the same address of the other segment is no record for the word. -/
def mayArrive (s : State) (t : Team) (f : VFields) (va : Dword) (l : BarLoc) : Prop :=
  s.releaseReady t (barrierScope 1 f) = true ∧ (∀ a ∈ t.arrivals, (a.va = va → a.loc.isScratch = false) ∧ a.loc ≠ l) ∧
    t.arrivals.length < 4

/-- A wait at an address is over with a status: it is written, or without a register an abandoned wait traps
BARRIER_ABANDONED, with the address (R211). -/
def waitOver (s s' : State) (t u : Team) (va : Dword) (d : Option Nat) (abandoned : Bool) : Prop :=
  match d, abandoned with
  | some n, b => s'.team? t.tid = some (u.gone.setS n (if b then 1 else 0))
  | none, false => s'.team? t.tid = some u.gone
  | none, true => u.tid = t.tid ∧ trapsAs s s' u 0x18 va

/-- D of a wait with FUNC[5]. -/
def waitReg (f : VFields) : Option Nat := if f.fn.getLsbD 5 then some (dReg f) else none

end Sys2Proof.Claims

/-- R207, R208, R39, R310 (MARM, MWAIT, MWAIT_BUDGET_EXPIRY and the event): MARM disarms what was armed and sends an arm
for the line, or arms nothing where the line cannot be read or is the host's; MWAIT parks, or writes the status and disarms at once where
the event has come or nothing is armed; the end of the budget gives status 1, and a write that is performed on the line
status 0. -/
def Obligations.MonitorTellsItsFirstEvent : Prop :=
  (∀ (s : State) (t : Team) (f : VFields), s.poised t = true → checkV s t 0x180 f = none → t.acquireFault = none →
    (syncOff f t).toNat < (t.seg 0).limit.toNat →
    (∀ pa nc, s.translate (portOf t.tid) t.ctx (syncAddr f t 0).toNat .read = .ok pa nc → localHost (paLocal pa) = false →
      ∃ s' r, exec (.marm f) s = .next s' ∧ s'.team? t.tid = some { t.gone with monitor := .armed (lineOf pa) } ∧
        s'.reqs = (s.reqs.filter fun x => !(x.tid == t.tid && decide (x.kind = .marm))) ++ [r] ∧
        s'.arms = (s.arms.filter fun x => !(x.tid == t.tid)) ∧ r.kind = .marm ∧ r.tid = t.tid ∧ r.pa = pa ∧
        r.id = s.nextId ∧ s'.mem = s.mem) ∧
    ((∀ pa nc, s.translate (portOf t.tid) t.ctx (syncAddr f t 0).toNat .read = .ok pa nc → localHost (paLocal pa) = true) →
      ∃ s', exec (.marm f) s = .next s' ∧ s'.team? t.tid = some { t.gone with monitor := .none_ } ∧ s'.mem = s.mem ∧
        s'.arms = (s.arms.filter fun x => !(x.tid == t.tid)))) ∧
  (∀ (s : State) (t : Team) (f : VFields), s.poised t = true → checkV s t 0x181 f = none →
    (t.monitor = .none_ → CompletesAs (.mwait f) s (t.gone.setS (dReg f) 4)) ∧
    (∀ n, t.monitor = .ended n →
      CompletesAs (.mwait f) s { t.gone.setS (dReg f) (BitVec.ofNat 64 n) with monitor := .none_ }) ∧
    (∀ l, t.monitor = .armed l → ∃ b, CompletesAs (.mwait f) s { t with run := .parked (.monitor (f.vd.setWidth 7) b) none, held := none } ∧
      b = if t.getS f.va.toNat = 0 then none else some (s.now t + (t.getS f.va.toNat).toNat))) ∧
  (∀ (s : State) (t : Team) (d : BitVec 7) (n l : Nat), s.team? s.arg.tid = some t →
    t.run = .parked (.monitor d (some n)) none → t.monitor = .armed l → n ≤ s.now t →
    ∃ s', exec .mwaitBudgetExpiry s = .next s' ∧ (∀ x ∈ s'.arms, x.tid ≠ t.tid) ∧
      s'.team? t.tid = some { t with
        monitor := .ended 1, run := .parked (.monitor d (some n)) (some (.status 1)) }) ∧
  (∀ (s : State) (w : BufWrite) (rest : List BufWrite) (t : Team) (l : Nat), (s.core s.arg.a).buffer = w :: rest →
    launchLives s w.ctx w.lid → w.bytes ≠ [] → l = w.pa / 64 → { line := l, tid := t.tid : Arm } ∈ s.arms →
    s.team? t.tid = some t → t.monitor = .armed l →
    ∃ s', exec .releaseBufferDrain s = .next s' ∧ s'.team? t.tid = some { t with
      monitor := .ended 0
      run := match t.run with | .parked (.monitor d b) none => .parked (.monitor d b) (some (.status 0)) | r => r })

/-- R209, R210, R211 (BARV, BARW): an arrival keeps the PHASE it found in a record and counts, and with every party
arrived the count is cleared, the phase advances and every waiter's wake comes. A wait arrives first if it has no record;
then it ends, its record gone, if the phase has moved on or the parties are abandoned, and else the team parks. A fifth
record, or a second for one word, traps ILLEGAL_OPERAND. -/
def Sys2Proof.Claims.PlotBarrierCountsAndReleases : Prop :=
  ∀ (s : State) (t : Team) (f : VFields) (p : Plot) (off : Nat) (l : BarLoc) (w : Nat) (b : Barrier),
    l = .scratch t.plot off → w = s.barrierWord l → b = { loc := l, ctx := t.ctx, lid := t.lid, plot := t.plot } →
    (AtBarrier s t 0x184 f p off →
      (mayArrive s t f (syncAddr f t 1) l →
        ∃ s', exec (.barv f) s = .next s' ∧ s'.mem = s.mem ∧ s'.barrierWord l = arriveWord s b w ∧
          s'.team? t.tid = some { t.gone with
            arrivals := t.arrivals ++ [{ loc := l, va := syncAddr f t 1, phase := w % 2 ^ 16 }] } ∧
          (completes s b w → ∀ u va sd sc, s.team? u.tid = some u → u.tid ≠ t.tid →
            u.run = .parked (.barrier l va sd sc) none →
            s'.team? u.tid = some { u with run := .parked (.barrier l va sd sc) (some (.barrier false)) })) ∧
      (s.releaseReady t (barrierScope 1 f) = true → (t.arrivals.length = 4 ∨ ∃ a ∈ t.arrivals, a.va = syncAddr f t 1 ∧ a.loc.isScratch = true) →
        exec (.barv f) s = .next (s.trap t 0x03 0 0 0))) ∧
    (AtBarrier s t 0x185 f p off → s.isSup t = false →
      (mayArrive s t f (syncAddr f t 1) l → ∃ s', exec (.barw f) s = .next s' ∧ s'.barrierWord l = arriveWord s b w ∧
        ((completes s b w ∨ p.abandoned = true) → waitOver s s' t t (syncAddr f t 1) (waitReg f) p.abandoned) ∧
        (¬ completes s b w → p.abandoned = false → ∃ sc, s'.team? t.tid = some { t with
          arrivals := t.arrivals ++ [{ loc := l, va := syncAddr f t 1, phase := w % 2 ^ 16 }], held := none
          run := .parked (.barrier l (syncAddr f t 1) ((waitReg f).map (BitVec.ofNat 7)) sc) none })) ∧
      (∀ a, t.arrivals.find? (fun x => x.loc == l) = some a → a.va = syncAddr f t 1 →
        ∃ s', exec (.barw f) s = .next s' ∧ s'.barrierWord l = w ∧
          ((a.phase ≠ w % 2 ^ 16 ∨ p.abandoned = true) →
            waitOver s s' t { t with arrivals := t.arrivals.filter fun x => !(x.loc == l) } (syncAddr f t 1) (waitReg f)
              p.abandoned) ∧
          (a.phase = w % 2 ^ 16 → p.abandoned = false → ∃ sc, s'.team? t.tid = some { t with
            held := none
            run := .parked (.barrier l (syncAddr f t 1) ((waitReg f).map (BitVec.ofNat 7)) sc) none })))

/-- R34, R36, R39, R208, R211 (TEAM_WAKE): a parked team whose wait is over becomes ACTIVE where a place of its
partition is free, else PENDING; its instruction then retires with what the wait gives it, the core's load cache dropped after a monitor's; or, after a park for the retry
ring, stands to issue again. -/
def Sys2Proof.Claims.WakeEndsThePark : Prop :=
  ∀ (s : State) (t v : Team) (k : Park) (w : Option Wake), s.team? s.arg.tid = some t → t.run = .parked k w →
    t.running = true → t.dying = none → s.launchSaving t = false → Quiet t → s.isSup t = false →
    v = { t with since := s.now t
                 run := if s.placeFree (coreOf t.tid) (partOf t.tid) = true then .active else .pending } →
    ∃ s', exec .teamWake s = .next s' ∧ s'.mem = s.mem ∧
      (∀ d b n, k = .monitor d b → w = some (.status n) →
        s'.team? t.tid = some { v.gone.setS d.toNat (BitVec.ofNat 64 n) with monitor := .none_ } ∧
        (s'.core (coreOf t.tid)).cache = []) ∧
      (∀ pa, k = .lock pa ∨ k = .permit pa ∨ k = .promise pa → w = some .done → s'.team? t.tid = some v.gone) ∧
      (∀ l va sd sc ab, k = .barrier l va sd sc → w = some (.barrier ab) →
        waitOver s s' t { v with arrivals := t.arrivals.filter fun x => !(x.loc == l) } va (sd.map BitVec.toNat)
          (ab || s.partiesAbandoned t l)) ∧
      (∀ id a, k = .copy id a → w = some .done → s'.team? t.tid = some (v.jumpTo a).retired1) ∧
      (k = .retry → w = some .done → s'.team? t.tid = some v ∧ (s'.core (coreOf t.tid)).cache = [])

/-- Plot barriers count and release; a wake ends its park. -/
def Obligations.BarriersCountAndWaitsEnd : Prop :=
  Claims.PlotBarrierCountsAndReleases ∧
  Claims.WakeEndsThePark

/-! ## Objects: requests, and their service at the home slices -/

namespace Sys2Proof.Claims

open Sys2Proof Sys2Proof.Machine

/-- An instruction on an object of G: opcode, what its request asks, the object's size where the instruction gives it,
and whether it acquires, releases and counts on FLAGA (R212, R216, R217). -/
structure ORule where
  op : Nat
  f : VFields
  kind : ReqKind
  size : Option Nat
  scope : Nat
  acquire : Bool := false
  release : Bool := false
  flagged : Bool := false

/-- The handle of an heir under code 5 (R212). -/
def heirHandle (f : VFields) (t : Team) : Handle := if mHeir f = 5 then (t.getS f.va.toNat).setWidth 32 else 0

/-- The size that the team's own entry of an object gives (R215). -/
def ownSize (t : Team) (va : Dword) : Option Nat :=
  (t.estate.find? fun e => e.obj == va).map fun e => if e.kind = .promise then 16 else 8

/-- The rule of an instruction that neither acquires nor releases nor counts. -/
def plainRule (op : Nat) (f : VFields) (size : Option Nat) (kind : ReqKind) : ORule :=
  { op, f, kind, size, scope := if mOrd f = 0 then 4 else mScope f }

/-- The object size of HCLRB, from the team's own lock or promise entry (R215). -/
def repairSize (t : Team) (va : Dword) : Option Nat :=
  if t.estate.any fun e => decide (e.kind = .lock) && e.obj == va then some 8
  else if t.estate.any fun e => decide (e.kind = .promise) && e.obj == va then some 16
  else none

/-- R212 to R219, R262, R263, R211: the instructions that a home slice serves. -/
def objectRule (t : Team) (i : Instr) : Option ORule :=
  let d := fun (f : VFields) => f.vd.setWidth 7
  let x := fun (f : VFields) => t.getS f.va.toNat
  let heir := fun (f : VFields) => BitVec.ofNat 4 (mHeir f)
  let wr := fun (f : VFields) => (waitReg f).map (BitVec.ofNat 7)
  match i with
  | .hold f =>
    some { plainRule 0x188 f (some 8) (.hold (d f) (f.fn.getLsbD 4) (heir f) (heirHandle f t)) with acquire := true }
  | .hrel f => some { plainRule 0x189 f (some 8) .hrel with release := true }
  | .hclrb f => some (plainRule 0x18B f (repairSize t (syncAddr f t 0)) .hclrb)
  | .hclrbPool f => some (plainRule 0x18B f (some 8) .hclrbPool)
  | .pmake f => some (plainRule 0x18C f (some 16) (.pmake (heir f) (heirHandle f t)))
  | .pfulfil f => some { plainRule 0x18D f (some 16) (.pfulfil (x f)) with release := true }
  | .pwait f => some { plainRule 0x18E f (some 16) (.pwait (d f) t.flagA) with acquire := true, flagged := true }
  | .permget f =>
    some { plainRule 0x18F f (some 8) (.permget (d f) (x f).toNat (heir f) (heirHandle f t) t.flagA) with
      acquire := true, flagged := true }
  | .permput f => some { plainRule 0x190 f (some 8) (.permput (x f).toNat) with release := true }
  | .convey f => some { plainRule 0x192 f (ownSize t (syncAddr f t 0)) (.convey (d f)) with release := true }
  | .heapoffer f => some (plainRule 0x12A f (some 64) (.heapoffer (d f) (x f)))
  | .heapseal f => some { plainRule 0x12B f (some 64) (.heapseal (d f)) with acquire := true, release := true }
  | .heapread f => some { plainRule 0x12C f (some 64) (.heapread (d f) (x f)) with acquire := true }
  | .gbarv f =>
    some { plainRule 0x186 f (some 8) (.arrive false (wr f) (barrierScope 4 f)) with
      scope := barrierScope 4 f, release := true }
  | .gbarw f =>
    some { plainRule 0x187 f (some 8) (.arrive true (wr f) (barrierScope 4 f)) with
      scope := barrierScope 4 f, acquire := true, release := true }
  | _ => none

/-- Bytes of an object that an instruction acts on: of a heap, its header and its array (R261). -/
def ORule.span (r : ORule) (s : State) (pa : Nat) : Nat :=
  match r.kind with
  | .heapoffer .. | .heapseal _ | .heapread .. => 64 + 8 * (s.physDword pa / 2 ^ 32 % 2 ^ 16)
  | .pmake .. | .pfulfil _ | .pwait .. => 16
  | _ => 8

/-- No access of the team stands before an object's bytes: none of its operations is an open acquire or has an access to
one of them to come, and none of its core's writes to them waits in the release buffer (R191, R303, R306). -/
def settled (s : State) (t : Team) (va n : Nat) : Prop :=
  s.objectAfter t va n = [] ∧ s.objectBuffered t va n = false

/-- The instruction may send its request: its release is made, its object lies in G within the limit and is aligned, the
team's accesses to it are over, its operands are good (R211, R212, R217). -/
structure ORule.Ready (r : ORule) (s : State) (t : Team) (n pa : Nat) : Prop where
  poised : s.poised t = true
  checks : checkV s t r.op r.f = none
  noFault : t.acquireFault = none
  free : ∀ q ∈ s.reqs, q.tid = t.tid → q.holds = false
  before : settled s t (syncAddr r.f t 0).toNat (r.span s pa)
  release : r.release = true → s.releaseReady t r.scope = true
  size : r.size = some n
  inside : (syncOff r.f t).toNat + n ≤ (t.seg 0).limit.toNat
  aligned : (syncAddr r.f t 0).toNat % n = 0
  heir : (match r.kind with | .hold .. | .pmake .. | .permget .. => True | _ => False) → mHeir r.f = 5 →
    ∀ u, s.team? (heirHandle r.f t) = some u → u.ctx = t.ctx ∧ u.lid = t.lid
  permits : (match r.kind with | .permget .. => True | _ => False) →
    1 ≤ (t.getS r.f.va.toNat).toNat ∧ (t.getS r.f.va.toNat).toNat < 2 ^ 31
  records : ∀ w d sc, r.kind = .arrive w d sc → (w = false → ∀ a ∈ t.arrivals, a.va = syncAddr r.f t 0 → a.loc.isScratch = true) ∧
    ((∀ a ∈ t.arrivals, a.va = syncAddr r.f t 0 → a.loc.isScratch = true) → t.arrivals.length < 4)
  mapped : ∃ nc, s.translate (portOf t.tid) t.ctx (syncAddr r.f t 0).toNat (.atomic false) = .ok pa nc

/-- The slice that the event names serves request r of team t, and need not wait for drains first (R40, R308). -/
structure Served (s : State) (r : Req) (t : Team) : Prop where
  next : s.nextCore s.arg.a = some r
  ready : s.reqWaits r = false
  core : r.core = coreOf r.tid
  tags : s.tags = []
  clean : s.poisoned r.pa = false
  team : s.team? r.tid = some t
  quiet : Quiet t
  alive : t.dying = none ∧ t.monitor = .none_ ∧ s.isSup t = false

/-- The state in which a request has left its queue, its core served last. -/
def served (s : State) (r : Req) : State :=
  { s with lastServed := spWrite 0 s.lastServed s.arg.a r.core, reqs := s.reqs.filter fun x => !(x.id == r.id) }

/-- A service that ends in a trap of the team, as it then stands. -/
def servesTrap (s : State) (u : Team) (cause : Nat) (info : Dword) : Prop :=
  ∃ s', exec .homeSliceServe s = .next s' ∧ trapsAs s s' u cause info

/-- The estate has room for one more entry (R212, R264). -/
def roomy (s : State) (t : Team) : Prop := t.estate.length + t.reservedEntries < hEstate (s.header t)

/-- The team's entry of a kind for an object. -/
def owns (t : Team) (k : EKind) (va : Dword) : Bool := t.estate.any fun e => e.kind == k && e.obj == va

/-- A lock's word with a holder, BEREAVED and SEQ (R343). -/
def lockWord (h : Handle) (bereaved : Bool) (seq : Nat) : Nat :=
  h.toNat * 2 ^ 32 + (if bereaved then 2 ^ 31 else 0) + seq % 2 ^ 16

/-- The estate without its entry of a kind for an object. -/
def without (t : Team) (k : EKind) (va : Dword) : List Estate := t.estate.filter fun e => !(e.kind == k && e.obj == va)

end Sys2Proof.Claims

/-- R40, R83, R212 (the instructions on objects, as they issue): with its release made and its operands good, an
instruction queues one request at its object's home slice and holds its team; PWAIT and PERMGET count on FLAGA; no memory
changes. Where an instruction takes the object from the team's estate and there is no entry, it traps ILLEGAL_OPERAND with
the object's address (R215, R219). -/
def Obligations.ObjectInstructionSendsItsRequest : Prop :=
  ∀ (s : State) (t : Team) (i : Instr) (r : ORule), objectRule t i = some r →
    (∀ n pa, r.Ready s t n pa → ∃ s' q c, exec i s = .next s' ∧ s'.reqs = s.reqs ++ [q] ∧ s'.mem = s.mem ∧
      q.id = s.nextId ∧ q.kind = r.kind ∧ q.tid = t.tid ∧ q.core = coreOf t.tid ∧ q.pa = pa ∧ q.va = syncAddr r.f t 0 ∧
      s'.team? t.tid = some { t.raiseCount (if r.flagged then t.flagA else none) with
        held := some (.request s.nextId, c), lastMark := max t.lastMark q.mark }) ∧
    (s.poised t = true → checkV s t r.op r.f = none → t.acquireFault = none →
      (∀ q ∈ s.reqs, q.tid = t.tid → q.holds = false) → settled s t (syncAddr r.f t 0).toNat 8 →
      (r.release = true → s.releaseReady t r.scope = true) → r.size = none →
      exec i s = .next (s.trap t 0x03 0 (syncAddr r.f t 0) 0))

/-- R213, R214, R215, R343, R346 (HOLD, HREL, HCLRB at the home slice): HOLD takes a free lock, or with `.claim` an
ORPHAN one: SEQ goes up by one, BEREAVED stays, the team's estate gets the entry, and the register the word, with ORPHAN
set if it was claimed; else the team parks as the last waiter. A team that holds the lock traps ILLEGAL_OPERAND, one
without room ESTATE_FULL, as HREL by another team traps ILLEGAL_OPERAND; each with the object's address. HREL by the holder hands the lock to the first waiter with SEQ one up, or frees it, and the entry
goes. HCLRB clears BEREAVED of the lock or promise that the team holds, and `.pool` clears BRET. -/
def Obligations.LockIsTakenReleasedAndRepaired : Prop :=
  ∀ (s : State) (t : Team) (r : Req) (w : Nat), Served s r t → w = s.physDword r.pa →
    (∀ sd claim heir h, r.kind = .hold sd claim heir h →
      ((w / 2 ^ 32 = t.tid.toNat ∨ owns t .lock r.va = true) → servesTrap s t 0x03 r.va) ∧
      (w / 2 ^ 32 ≠ t.tid.toNat → owns t .lock r.va = false →
        (¬ roomy s t → servesTrap s t 0x15 r.va) ∧
        (roomy s t → (w / 2 ^ 32 = 0 ∨ (w.testBit 30 = true ∧ claim = true)) →
          ∃ s' e, exec .homeSliceServe s = .next s' ∧
            e = { obj := r.va, pa := r.pa, kind := .lock, heir, handle := h } ∧
            s'.mem = (((served s r).setWord r.pa (lockWord t.tid (w.testBit 31) (w + 1))).setEstate t.tid
              fun _ => t.estate ++ [e]).mem ∧
            s'.team? t.tid = some { t.gone.setS sd.toNat (BitVec.ofNat 64
                (lockWord t.tid (w.testBit 31) (w + 1) + if w / 2 ^ 32 = 0 then 0 else 2 ^ 30)) with
              estate := t.estate ++ [e] }) ∧
        (roomy s t → w / 2 ^ 32 ≠ 0 → (w.testBit 30 = false ∨ claim = false) →
          ∃ s' x, exec .homeSliceServe s = .next s' ∧ s'.mem = s.mem ∧ s'.lockQ = s.lockQ ++ [x] ∧ x.tid = t.tid ∧
            x.pa = r.pa ∧ x.claim = claim ∧ x.sd = sd ∧ x.heir = heir ∧ x.handle = h ∧
            s'.team? t.tid = some { t with
              reservedEntries := t.reservedEntries + 1, run := .parked (.lock r.pa) none, held := none }))) ∧
    (r.kind = .hrel →
      (w / 2 ^ 32 ≠ t.tid.toNat → servesTrap s t 0x03 r.va) ∧
      (w / 2 ^ 32 = t.tid.toNat → ∀ m, m = (served s r).setEstate t.tid (fun _ => without t .lock r.va) →
        ((∀ x ∈ s.lockQ, x.pa ≠ r.pa) → ∃ s', exec .homeSliceServe s = .next s' ∧
          memAs m s' r.pa (toBytes 8 (m.physDword r.pa % 2 ^ 32)) ∧
          s'.team? t.tid = some { t.gone with estate := without t .lock r.va }) ∧
        (∀ x y, (s.lockQ.find? fun x => x.pa == r.pa) = some x → s.team? x.tid = some y → x.tid ≠ t.tid →
          y.run = .parked (.lock r.pa) none → y.monitor = .none_ → ∃ s' n,
            n = lockWord x.tid ((m.physDword r.pa).testBit 31) (m.physDword r.pa + 1) ∧
            exec .homeSliceServe s = .next s' ∧ (∀ z ∈ s'.lockQ, z.tid ≠ x.tid) ∧
            s'.team? t.tid = some { t.gone with estate := without t .lock r.va } ∧
            s'.team? x.tid = some { y.setS x.sd.toNat (BitVec.ofNat 64 n) with
              estate := y.estate ++ [{ obj := x.va, pa := x.pa, kind := .lock, heir := x.heir, handle := x.handle }]
              reservedEntries := y.reservedEntries - 1, run := .parked (.lock r.pa) (some .done) }))) ∧
    (r.kind = .hclrb →
      (∀ e, t.entry? .lock r.va = some e → ∃ s', exec .homeSliceServe s = .next s' ∧
        memAs s s' r.pa (toBytes 8 (if w.testBit 31 then w - 2 ^ 31 else w)) ∧
        s'.team? t.tid = some { t.gone with
          bereaved := if w.testBit 31 ∧ e.inherited then BitVec.ofNat 8 (t.bereaved.toNat - 1) else t.bereaved }) ∧
      (t.entry? .lock r.va = none → ∃ s', exec .homeSliceServe s = .next s' ∧
        memAs s s' r.pa (toBytes 8 (if w.testBit 27 then w - 2 ^ 27 else w)) ∧ s'.team? t.tid = some t.gone)) ∧
    (r.kind = .hclrbPool → ∃ s', exec .homeSliceServe s = .next s' ∧ memAs s s' r.pa (toBytes 8 (w % 2 ^ 32)) ∧
      s'.team? t.tid = some t.gone)

/-- R216, R344 (PMAKE, PFULFIL, PWAIT at the home slice): PMAKE makes a promise PENDING under its team, with an entry; one
that is PENDING or reserved traps ILLEGAL_OPERAND, and a team without room ESTATE_FULL. PFULFIL by the holder writes VALUE and FULFILLED, keeps BEREAVED, drops the entry, and
every waiter gets value and word 0 and its wake. PWAIT writes both and acquires where the promise is FULFILLED or
ORPHANED, parks where it is NONE or PENDING, and traps on a reserved STATE; its count on FLAGA ends with the delivery. -/
def Sys2Proof.Claims.PromiseIsMadeFulfilledAndAwaited : Prop :=
  ∀ (s : State) (t : Team) (r : Req) (w : Nat), Served s r t → w = s.physDword r.pa →
    (∀ heir h, r.kind = .pmake heir h →
      ((w / 2 ^ 28 % 16 = 1 ∨ 4 ≤ w / 2 ^ 28 % 16) → servesTrap s t 0x03 r.va) ∧
      (w / 2 ^ 28 % 16 ≠ 1 → w / 2 ^ 28 % 16 < 4 → ¬ roomy s t → servesTrap s t 0x15 r.va) ∧
      (w / 2 ^ 28 % 16 ≠ 1 → w / 2 ^ 28 % 16 < 4 → roomy s t → ∃ s' e, exec .homeSliceServe s = .next s' ∧
        e = { obj := r.va, pa := r.pa, kind := .promise, heir, handle := h } ∧
        s'.mem = (((served s r).homeWrite r.pa (toBytes 8 (t.tid.toNat * 2 ^ 32 + 2 ^ 28))).setEstate t.tid
          fun _ => t.estate ++ [e]).mem ∧
        s'.team? t.tid = some { t.gone with estate := t.estate ++ [e] })) ∧
    (∀ v, r.kind = .pfulfil v →
      ((w / 2 ^ 28 % 16 ≠ 1 ∨ w / 2 ^ 32 ≠ t.tid.toNat) → servesTrap s t 0x03 r.va) ∧
      (w / 2 ^ 28 % 16 = 1 → w / 2 ^ 32 = t.tid.toNat → ∀ m,
        m = ((served s r).homeWrite r.pa (toBytes 8 (2 * 2 ^ 28 + if w.testBit 27 then 2 ^ 27 else 0) ++
          toBytes 8 v.toNat)).setEstate t.tid (fun _ => without t .promise r.va) →
        ∃ s', exec .homeSliceServe s = .next s' ∧ s'.mem = m.mem ∧
          ((∀ x ∈ s.promiseQ, x.tid ≠ t.tid) →
            s'.team? t.tid = some { t.gone with estate := without t .promise r.va }) ∧
          (∀ x ∈ s'.promiseQ, x.pa ≠ r.pa) ∧
          (∀ x y, x ∈ s.promiseQ → x.pa = r.pa → (∀ z ∈ s.promiseQ, z.tid = x.tid → z = x) → s.promiseQ.count x = 1 →
            s.team? x.tid = some y →
            x.tid ≠ t.tid → y.run = .parked (.promise r.pa) none → y.monitor = .none_ → x.sd.toNat < 127 →
            s'.team? x.tid = some { ((y.lowerCount x.flag).setS x.sd.toNat
                (BitVec.ofNat 64 (m.physDword (r.pa + 8)))).setS (x.sd.toNat + 1) (BitVec.ofNat 64 (m.physDword r.pa)) with
              run := .parked (.promise r.pa) (some .done) }))) ∧
    (∀ sd fl, r.kind = .pwait sd fl → sd.toNat < 127 →
      (4 ≤ w / 2 ^ 28 % 16 → servesTrap s (t.lowerCount fl) 0x03 r.va) ∧
      (2 ≤ w / 2 ^ 28 % 16 → w / 2 ^ 28 % 16 < 4 → ∃ s', exec .homeSliceServe s = .next s' ∧ s'.mem = s.mem ∧
        s'.team? t.tid = some (((t.gone.lowerCount fl).setS sd.toNat (BitVec.ofNat 64 (s.physDword (r.pa + 8)))).setS
          (sd.toNat + 1) (BitVec.ofNat 64 w)) ∧
        (3 ≤ r.acquire.getD 4 → (s'.core (coreOf t.tid)).cache = [])) ∧
      (w / 2 ^ 28 % 16 < 2 → ∃ s' x, exec .homeSliceServe s = .next s' ∧ s'.mem = s.mem ∧
        s'.promiseQ = s.promiseQ ++ [x] ∧ x.tid = t.tid ∧ x.pa = r.pa ∧ x.sd = sd ∧ x.flag = fl ∧
        s'.team? t.tid = some { t with run := .parked (.promise r.pa) none, held := none }))

/-- R217, R341, R345 (PERMGET, PERMPUT at the home slice): a request at the head of the pool's queue with AVAIL at least
n takes n, adds them to the team's entry or makes one, and writes the word after the grant; otherwise the team parks as
the last in the queue. PERMPUT of no more than the entry holds gives AVAIL back, lowers the entry, drops it at 0, and
then grants queued requests in order. A team without room for an entry traps ESTATE_FULL; a PERMPUT of nothing, or of
more than the entry holds, ILLEGAL_OPERAND. The grant of a pool's queue: its first request of a team that is not dying is
served if AVAIL is enough, its team's entry, register, flag and wake as for PERMGET; then the next; one that AVAIL is too
little for ends it. -/
def Sys2Proof.Claims.PermitsAreGrantedInOrder : Prop :=
  (∀ (s : State) (pa : Nat), (∀ x ∈ s.permitQ, x.pa = pa → s.isDying x.tid = true) → s.grantPool pa = s) ∧
  (∀ (s : State) (pa : Nat) (x : PermitWaiter), (s.permitQ.find? fun y => y.pa == pa && !s.isDying y.tid) = some x →
    (s.physDword pa % 2 ^ 32 < x.n → s.grantPool pa = s) ∧
    (∀ y, x.n ≤ s.physDword pa % 2 ^ 32 → s.team? x.tid = some y → y.run = .parked (.permit pa) none →
      y.monitor = .none_ → ∃ (m : State) (es : List Estate), s.grantPool pa = m.grantPool pa ∧
        m.permitQ = s.permitQ.filter (fun z => !(z.tid == x.tid)) ∧
        m.mem = ((s.setWord pa (s.physDword pa - x.n)).setEstate x.tid fun _ => es).mem ∧
        (owns y .permit x.va = false → es = y.estate ++
          [{ obj := x.va, pa, kind := .permit, count := x.n, heir := x.heir, handle := x.handle }]) ∧
        (∀ a e b, y.estate = a ++ e :: b → e.kind = .permit → e.obj = x.va →
          (∀ z ∈ a, z.kind = .permit → z.obj ≠ x.va) → es = a ++ { e with count := e.count + x.n } :: b) ∧
        m.team? x.tid = some { (y.lowerCount x.flag).setS x.sd.toNat (BitVec.ofNat 64 (s.physDword pa - x.n)) with
          estate := es, reservedEntries := 0, run := .parked (.permit pa) (some .done) } ∧
        ∀ h u, h ≠ x.tid → s.team? h = some u → u.monitor = .none_ → m.team? h = some u)) ∧
  ∀ (s : State) (t : Team) (r : Req) (w : Nat), Served s r t → w = s.physDword r.pa →
    (∀ sd n heir h fl, r.kind = .permget sd n heir h fl →
      (owns t .permit r.va = false → ¬ roomy s t → servesTrap s (t.lowerCount fl) 0x15 r.va) ∧
      ((owns t .permit r.va = true ∨ roomy s t) →
        (n ≤ w % 2 ^ 32 → (∀ x ∈ s.permitQ, x.pa ≠ r.pa) → ∃ s' es, exec .homeSliceServe s = .next s' ∧
          (owns t .permit r.va = false →
            es = t.estate ++ [{ obj := r.va, pa := r.pa, kind := .permit, count := n, heir, handle := h }]) ∧
          (∀ a e b, t.estate = a ++ e :: b → e.kind = .permit → e.obj = r.va →
            (∀ x ∈ a, x.kind = .permit → x.obj ≠ r.va) → es = a ++ { e with count := e.count + n } :: b) ∧
          s'.mem = ((((served s r).modTeam t.tid fun u => u.lowerCount fl).setWord r.pa (w - n)).setEstate t.tid fun _ => es).mem ∧
          s'.team? t.tid = some { (t.gone.lowerCount fl).setS sd.toNat (BitVec.ofNat 64 (w - n)) with estate := es }) ∧
        ((w % 2 ^ 32 < n ∨ ∃ x ∈ s.permitQ, x.pa = r.pa ∧ s.isDying x.tid = false) → ∃ s' x,
          exec .homeSliceServe s = .next s' ∧ s'.mem = s.mem ∧ s'.permitQ = s.permitQ ++ [x] ∧ x.tid = t.tid ∧
          x.pa = r.pa ∧ x.n = n ∧ x.sd = sd ∧ x.heir = heir ∧ x.handle = h ∧ x.flag = fl ∧
          s'.team? t.tid = some { t with
            run := .parked (.permit r.pa) none, held := none
            reservedEntries := t.reservedEntries + if owns t .permit r.va then 0 else 1 }))) ∧
    (∀ n, r.kind = .permput n →
      (∀ a e b, t.estate = a ++ e :: b → e.kind = .permit → e.obj = r.va → (∀ x ∈ a ++ b, x.kind = .permit → x.obj ≠ r.va) →
        ((n = 0 ∨ e.count < n) → servesTrap s t 0x03 r.va) ∧
        (1 ≤ n → n ≤ e.count → (∀ x ∈ s.permitQ, x.pa = r.pa → x.tid ≠ t.tid) → ∀ m g es,
          es = (if n = e.count then a ++ b else a ++ { e with count := e.count - n } :: b) →
          m = (served s r).setEstate t.tid (fun _ => es) →
          g = (m.setWord r.pa (min (w / 2 ^ 32) (2 ^ 32 - 1) * 2 ^ 32 + (w + n) % 2 ^ 32)).grantPool r.pa →
          ∃ s', exec .homeSliceServe s = .next s' ∧ s'.mem = g.mem ∧ s'.permitQ = g.permitQ ∧
            (∀ h, h ≠ t.tid → s'.team? h = g.team? h) ∧ s'.team? t.tid = some { t.gone with estate := es } ∧
            ((∀ x ∈ s.permitQ, x.pa ≠ r.pa) →
              memAs m s' r.pa (toBytes 8 (min (w / 2 ^ 32) (2 ^ 32 - 1) * 2 ^ 32 + (w + n) % 2 ^ 32))))) ∧
      (owns t .permit r.va = false → servesTrap s t 0x03 r.va))

/-- Promises and permits are served at their home slice. -/
def Obligations.PromisesAndPermitsAreServed : Prop :=
  Claims.PromiseIsMadeFulfilledAndAwaited ∧
  Claims.PermitsAreGrantedInOrder

/-- R212, R215, R218, R219, R340, R346, R350 (ESTATE, HEIR, CONVEY): ESTATE writes the three registers of entry s[X], or
zeros. HEIR gives the team's entry its heir, `.pool` for a permit entry alone; it traps ILLEGAL_OPERAND where the team has no
entry for the object, for `.pool` on another kind, and for the handle of a team of another launch. CONVEY passes the entry
to the team that its heir chain gives, as inherited, writes that team's handle, and drops it from the conveyor: a lock's
word names the receiver with SEQ one up, a promise's names it as PENDING, BEREAVED kept in both, and permits are added to
an entry that the receiver has; with no receiver the register is all ones and the estate stays. -/
def Obligations.EstateIsReadRewrittenAndConveyed : Prop :=
  (∀ (s : State) (t : Team) (f : VFields), s.poised t = true → checkV s t 0x191 f = none → ∃ u, CompletesAs (.estate f) s u ∧
    ∃ x : Nat → Dword, t.writesS u (fun n => if dReg f ≤ n ∧ n ≤ dReg f + 2 then some (x (n - dReg f)) else none) ∧
      (∀ e, t.estate[(t.getS f.va.toNat).toNat]? = some e →
        x 0 = BitVec.ofNat 64 (e.obj.toNat / 8 * 8 + (match e.kind with | .lock => 1 | .promise => 2 | .permit => 3)) ∧
        x 1 = BitVec.ofNat 64 (e.count * 2 ^ 32 + e.heir.toNat) ∧
        x 2 = if e.heir = 5 then e.handle.setWidth 64 else 0) ∧
      (t.estate[(t.getS f.va.toNat).toNat]? = none → ∀ n, n ≤ 2 → x n = 0)) ∧
  (∀ (s : State) (t : Team) (f : VFields) (va : Dword) (pa : Nat) (nc : Bool) (n : Nat) (a b : List Estate) (e : Estate),
    s.poised t = true → checkV s t 0x18A f = none → t.acquireFault = none → t.monitor = .none_ →
    (∀ q ∈ s.reqs, q.tid = t.tid → q.holds = false) → settled s t va.toNat 8 → va = syncAddr f t 0 → t.estate = a ++ e :: b → e.obj = va → (∀ x ∈ a, x.obj ≠ va) →
    n = (if e.kind = .promise then 16 else 8) → va.toNat % n = 0 → (syncOff f t).toNat + n ≤ (t.seg 0).limit.toNat →
    s.translate (portOf t.tid) t.ctx va.toNat (.atomic false) = .ok pa nc →
    ((mHeir f = 5 → ∀ u, s.team? (heirHandle f t) = some u → u.ctx = t.ctx ∧ u.lid = t.lid) →
      (mHeir f = 3 → owns t .permit va = true) →
      ∃ s', exec (.heir f) s = .next s' ∧ s'.team? t.tid = some { t.gone with
        estate := a ++ { e with heir := BitVec.ofNat 4 (mHeir f), handle := heirHandle f t } :: b }) ∧
    (∀ u, mHeir f = 5 → s.team? (heirHandle f t) = some u → (u.ctx ≠ t.ctx ∨ u.lid ≠ t.lid) →
      exec (.heir f) s = .next (s.trap t 0x03 0 va 0)) ∧
    (mHeir f = 3 → owns t .permit va = false → exec (.heir f) s = .next (s.trap t 0x03 0 va 0))) ∧
  (∀ (s : State) (t : Team) (f : VFields) (va : Dword), s.poised t = true → checkV s t 0x18A f = none →
    t.acquireFault = none → (∀ q ∈ s.reqs, q.tid = t.tid → q.holds = false) → settled s t va.toNat 8 → va = syncAddr f t 0 →
    (∀ e ∈ t.estate, e.obj ≠ va) → exec (.heir f) s = .next (s.trap t 0x03 0 va 0)) ∧
  (∀ (s : State) (t : Team) (r : Req) (sd : BitVec 7) (a b : List Estate) (e : Estate), Served s r t →
    r.kind = .convey sd → t.estate = a ++ e :: b → e.obj = r.va → (∀ x ∈ a, x.obj ≠ r.va) →
    (∀ x ∈ b, x.kind = e.kind → x.obj ≠ r.va) →
    ((s.receiver t e).1 = .nobody → ∃ s', exec .homeSliceServe s = .next s' ∧ s'.mem = s.mem ∧
      s'.team? t.tid = some (t.gone.setS sd.toNat 0xFFFFFFFFFFFFFFFF)) ∧
    (∀ y e', s.team? y.tid = some y → y.tid ≠ t.tid → y.monitor = .none_ → (s.receiver t e).1 = .team y.tid →
      (∀ x ∈ s.lockQ, x.tid ≠ y.tid) →
      e' = { e with inherited := true, heir := 0, handle := 0, sender := t.tid, spoiled := false } →
      ∃ s' es, exec .homeSliceServe s = .next s' ∧
        s'.team? t.tid = some { t.gone.setS sd.toNat (y.tid.setWidth 64) with estate := a ++ b } ∧
        s'.team? y.tid = some { y with estate := es } ∧
        (e.kind ≠ .permit ∨ owns y .permit e.obj = false → es = y.estate ++ [e']) ∧
        (∀ c x d, e.kind = .permit → y.estate = c ++ x :: d → x.kind = .permit → x.obj = e.obj →
          (∀ z ∈ c, z.kind = .permit → z.obj ≠ e.obj) → es = c ++ { x with count := x.count + e.count } :: d) ∧
        ∀ m w, m = (served s r).setEstate t.tid (fun _ => a ++ b) → w = m.physDword e.pa → e.spoiled = false →
          s'.mem = ((match e.kind with
            | .lock => m.setWord e.pa (lockWord y.tid (w.testBit 31) (w + 1))
            | .promise => m.setWord e.pa (y.tid.toNat * 2 ^ 32 + 2 ^ 28 + if w.testBit 27 then 2 ^ 27 else 0)
            | .permit => m).setEstate y.tid fun _ => es).mem) ∧
    ((s.receiver t e).1 = .pool → e.kind = .permit → e.spoiled = false → (∀ x ∈ s.permitQ, x.pa ≠ e.pa) → ∀ m,
      m = (served s r).setEstate t.tid (fun _ => a ++ b) → ∃ s', exec .homeSliceServe s = .next s' ∧
        memAs m s' e.pa (toBytes 8 (min (m.physDword e.pa / 2 ^ 32) (2 ^ 32 - 1) * 2 ^ 32 +
          (m.physDword e.pa + e.count) % 2 ^ 32)) ∧
        s'.team? t.tid = some { t.gone.setS sd.toNat 0 with estate := a ++ b }))

namespace Sys2Proof.Claims

open Sys2Proof Sys2Proof.Machine

/-- R262: offer x ranks before offer y: a higher score, −0 equal to +0, or among equal scores the lower token. -/
def ranks (x y : Nat) : Bool :=
  ltVal (floatVal .f32 (y / 2 ^ 32)) (floatVal .f32 (x / 2 ^ 32)) ||
    (eqVal (floatVal .f32 (x / 2 ^ 32)) (floatVal .f32 (y / 2 ^ 32)) && decide (x % 2 ^ 32 < y % 2 ^ 32))

/-- The entries with an offer put in its place: after those that it does not rank before. -/
def ranked (x : Nat) (es : List Nat) : List Nat :=
  es.takeWhile (fun y => !ranks x y) ++ x :: es.dropWhile (fun y => !ranks x y)

/-- R262: an offer that is absent or a NaN. -/
def unfit (v : Dword) : Bool := (floatVal .f32 (v.toNat / 2 ^ 32)).isAbsent || (floatVal .f32 (v.toNat / 2 ^ 32)).isNan

/-- The entries, and what ACCEPTED and REJECTED rise by, and the status, that an offer leaves (R262). -/
def offered (cap : Nat) (v : Dword) (es : List Nat) : List Nat × Nat × Nat × Nat :=
  if unfit v then (es, 0, 1, 1)
  else if es.length < cap then (ranked v.toNat es, 1, 0, 0)
  else match es.getLast? with
    | some l => if ranks v.toNat l then (ranked v.toNat es.dropLast, 0, 1, 0) else (es, 0, 1, 1)
    | none => (es, 0, 1, 1)

/-- A heap's word 0 with ACCEPTED and STATE replaced. -/
def heapWord (w accepted state : Nat) : Nat := w / 2 ^ 32 * 2 ^ 32 + accepted % 2 ^ 16 * 2 ^ 16 + w % 2 ^ 16 / 4 * 4 + state

/-- The entries of a heap in memory. -/
def heapOf (s : State) (r : Req) (t : Team) (n : Nat) : List Nat := s.heapEntries (portOf r.tid) t.ctx r.va.toNat n

/-- The heap with its array and its first three dwords written. -/
def heapAs (s : State) (r : Req) (t : Team) (es : List Nat) (d0 d1 d2 : Nat) : State :=
  ((match s.vWrite (portOf r.tid) t.ctx (r.va.toNat + 64) (dwordBytes es) with | .inl x => x | .inr _ => s)).homeWrite r.pa
    (dwordBytes [d0, d1, d2])

end Sys2Proof.Claims

/-- R261, R262, R263 (HEAPOFFER, HEAPSEAL, HEAPREAD at the home slice): an offer to an OPEN heap is kept in rank order
while there is room, else it displaces the last if it ranks before it; absent and NaN offers are rejected, a NaN raising
IV; OFFERED, ACCEPTED and REJECTED count; the status is 0 kept, 1 rejected, 2 SEALED. HEAPSEAL seals an OPEN heap and gives
ACCEPTED. HEAPREAD of a SEALED heap gives entry i, or all ones past the last. Another state of the heap traps
ILLEGAL_OPERAND. That the array of an OPEN heap stands in rank order in memory is the model's choice (log entry 37). -/
def Obligations.HeapKeepsTheBestOffers : Prop :=
  ∀ (s : State) (t : Team) (r : Req) (w n : Nat) (es : List Nat), Served s r t → w = s.physDword r.pa →
    n = w / 2 ^ 16 % 2 ^ 16 → es = heapOf s r t n → s.poisonIn (portOf r.tid) t.ctx (r.va.toNat + 64) (8 * n) = none →
    (∀ sd v, r.kind = .heapoffer sd v →
      (w % 4 = 2 → ∃ s', exec .homeSliceServe s = .next s' ∧ s'.mem = s.mem ∧
        s'.team? t.tid = some (t.gone.setS sd.toNat 2)) ∧
      (w % 4 ≠ 1 → w % 4 ≠ 2 → servesTrap s t 0x03 0) ∧
      (w % 4 = 1 → s.firstFault (portOf r.tid) t.ctx (r.va.toNat + 64) (8 * min (n + 1) (w / 2 ^ 32 % 2 ^ 16)) .write = none →
        ∃ o s', o = offered (w / 2 ^ 32 % 2 ^ 16) v es ∧ exec .homeSliceServe s = .next s' ∧
          s'.mem = (heapAs (served s r) r t o.1 (heapWord w (n + o.2.1) 1) (s.physDword (r.pa + 8) + 1)
            (s.physDword (r.pa + 16) + o.2.2.1)).mem ∧
          s'.team? t.tid = some { t.gone.setS sd.toNat (BitVec.ofNat 64 o.2.2.2) with
            fsr := t.fsr ||| if (floatVal .f32 (v.toNat / 2 ^ 32)).isNan then 0x01 else 0 })) ∧
    (∀ sd, r.kind = .heapseal sd →
      (w % 4 = 2 → ∃ s', exec .homeSliceServe s = .next s' ∧ s'.mem = s.mem ∧
        s'.team? t.tid = some (t.gone.setS sd.toNat (BitVec.ofNat 64 n))) ∧
      (w % 4 ≠ 1 → w % 4 ≠ 2 → servesTrap s t 0x03 0) ∧
      (w % 4 = 1 → s.firstFault (portOf r.tid) t.ctx (r.va.toNat + 64) (8 * n) .write = none →
        ∃ s', exec .homeSliceServe s = .next s' ∧
          s'.mem = (heapAs (served s r) r t es (heapWord w n 2) (s.physDword (r.pa + 8)) (s.physDword (r.pa + 16))).mem ∧
          s'.team? t.tid = some (t.gone.setS sd.toNat (BitVec.ofNat 64 n)) ∧
          (s'.core r.core).cache = [])) ∧
    (∀ sd i, r.kind = .heapread sd i →
      (w % 4 ≠ 2 → servesTrap s t 0x03 0) ∧
      (w % 4 = 2 → n ≤ i.toNat → ∃ s', exec .homeSliceServe s = .next s' ∧ s'.mem = s.mem ∧
        s'.team? t.tid = some (t.gone.setS sd.toNat 0xFFFFFFFFFFFFFFFF)) ∧
      (w % 4 = 2 → i.toNat < n → s.poisonIn (portOf r.tid) t.ctx (r.va.toNat + 64 + 8 * i.toNat) 8 = none → s.firstFault (portOf r.tid) t.ctx (r.va.toNat + 64 + 8 * i.toNat) 8 .read = none →
        ∃ s', exec .homeSliceServe s = .next s' ∧ s'.mem = s.mem ∧ (s'.core r.core).cache = [] ∧
          s'.team? t.tid = some (t.gone.setS sd.toNat (BitVec.ofNat 64 (es.getD i.toNat 0)))))

/-- R40, R211, R308 (an arrival at a grid barrier is served, and what a slice that must wait does): it counts as at a
plot's barrier; GBARV goes on, and GBARW ends or parks. A request that must wait for drains is marked, and nothing else
happens; the promoted request is served once it need not wait. -/
def Obligations.GridBarrierArrivalIsServed : Prop :=
  (∀ (s : State) (t : Team) (r : Req) (wait : Bool) (sd : Option (BitVec 7)) (sc : Nat) (l : BarLoc) (w : Nat) (b : Barrier),
    Served s r t → r.kind = .arrive wait sd sc → l = .grid r.pa → w = s.barrierWord l →
    b = { loc := l, ctx := t.ctx, lid := t.lid, plot := t.plot } → (∀ a ∈ t.arrivals, a.loc ≠ l) → t.run = .active →
    ∃ s', exec .homeSliceServe s = .next s' ∧ memAs s s' r.pa (toBytes 8 (arriveWord s b w)) ∧
      (wait = false → s'.team? t.tid = some { t.gone with
        arrivals := t.arrivals ++ [{ loc := l, va := r.va, phase := w % 2 ^ 16 }] }) ∧
      (wait = true → (completes s b w ∨ s.partiesAbandoned t l = true) →
        waitOver s s' t t r.va (sd.map BitVec.toNat) (s.partiesAbandoned t l)) ∧
      (wait = true → ¬ completes s b w → s.partiesAbandoned t l = false → s'.team? t.tid = some { t with
        arrivals := t.arrivals ++ [{ loc := l, va := r.va, phase := w % 2 ^ 16 }], held := none
        run := .parked (.barrier l r.va sd sc) none })) ∧
  (∀ (s : State) (r : Req), s.nextCore s.arg.a = some r → s.reqWaits r = true →
    exec .homeSliceServe s = .next { s with
      reqs := updFirst (fun x => x.id == r.id) (fun x => { x with promoted := true }) s.reqs }) ∧
  (∀ (s : State) (r : Req), s.op? s.arg.a = none → (s.reqs.find? fun x => x.id == s.arg.a && x.promoted) = some r →
    (s.reqWaits r = true → exec .promotedAcquireReply s = .next s) ∧
    (s.reqWaits r = false → ∃ s', exec .promotedAcquireReply s = .next s' ∧
      s' = { s.serveReq r with cores := s'.cores } ∧
      ∀ c, s'.core c = { (s.serveReq r).core c with perf := (s'.core c).perf }))

/-! ## The matrix engine -/

namespace Sys2Proof.Claims

open Sys2Proof Sys2Proof.Machine

/-- A team of a crew stands at an instruction whose checks it passes. -/
structure InCrew (s : State) (t : Team) (c : Crew) (op : Nat) (f : VFields) : Prop where
  poised : s.poised t = true
  checks : checkV s t op f = none
  crew : s.crewOf t = some c

/-- What a stream delivers of a tile: absent where a kept bit is clear, or the counts; an unbound name gives absent rows or
zero counts (R239). -/
def streamRule (c : Crew) (tile : Option Nat) (counts : Bool) (x : Nat) : Word :=
  match tile with
  | none => if counts then 0 else 0xFFFFFFFF#32
  | some k =>
    let t : Tile := spRead {} c.tiles k
    if counts then (spRead 0 t.counts x).setWidth 32
    else if x ∈ t.kept then spRead 0 t.values x else 0xFFFFFFFF#32

/-- A collective instruction: its opcode and fields. -/
def collectiveRule : Instr → Option (Nat × VFields)
  | .mma f => some (0x1C2, f)
  | .mmat f => some (0x1C3, f)
  | .mmasp f => some (0x1C4, f)
  | .mzero f => some (0x1C6, f)
  | .mnew f => some (0x1C7, f)
  | _ => none

/-- The arrival of a team (R227). -/
def arrivalOf (t : Team) (op : Nat) (f : VFields) : CrewArrival :=
  { pc := t.insnPc, op, f, aOffset := t.aOffset, bitmap := if op = 0x1C4 then (t.getS f.vb.toNat).toNat else 0
    nbv := t.nbv, fenced := t.fenced }

/-- Two arrivals agree in what R227 lists. -/
def agrees (a b : CrewArrival) : Prop :=
  a.pc = b.pc ∧ a.op = b.op ∧ { a.f with va := 0 } = { b.f with va := 0 } ∧ a.aOffset = b.aOffset ∧
    a.bitmap = b.bitmap ∧ a.nbv = b.nbv

/-- Team t is the last of its crew's members to arrive at a collective instruction. -/
structure LastArrival (s : State) (t : Team) (c : Crew) (op : Nat) (f : VFields) (ms : List (Team × CrewArrival)) :
    Prop where
  member : InCrew s t c op f
  whole : c.broken = false ∧ ms.length = c.size ∧ s.members c = ms.map Prod.fst
  distinct : (ms.map fun m => m.1.tid).Nodup
  self : (t, arrivalOf t op f) ∈ ms
  others : ∀ m ∈ ms, s.team? m.1.tid = some m.1 ∧ m.1.running = true ∧ m.1.dying = none ∧ Quiet m.1 ∧
    (m.1.tid ≠ t.tid → m.1.arrived = some m.2)

/-- B words of a member's share of 64 columns: register va on, its lanes in order, with the companions of e2m1 (R224,
R225). -/
def shareRule (u : Team) (va n : Nat) (e2 : Bool) : List (Word × Word) :=
  (List.range (4096 / n)).map fun b =>
    if e2 then (u.getV (va + 2 * (b / u.width)) (b % u.width), u.getV (va + 2 * (b / u.width) + 1) (b % u.width))
    else (u.getV (va + b / u.width) (b % u.width), 0)

/-- Registers of one image of a member's share (R224, R225). -/
def imageRegs (n width : Nat) (e2 : Bool) : Nat := (16384 + 4 * n * width - 1) / (4 * n * width) * (if e2 then 2 else 1)

/-- Every member has taken a trap of a cause at its own instruction (R227, R378). -/
def allTrap (s s' : State) (ms : List Team) (cause : Nat) : Prop :=
  ∀ m ∈ ms, s'.team? m.tid = some (trapped m) ∧ ∀ x, s.ctx? m.ctx = some x → ∃ x', s'.ctx? m.ctx = some x' ∧
    { cause, detail := 0, tid := m.tid, lid := m.lid, pc := m.insnPc, issue := m.issueNo, info := 0, mask := 0 : Delivery }
      ∈ x'.pending

end Sys2Proof.Claims

/-- R230, R231, R237, R238, R239 (MLDT, MFENCE, MWAITA, MDRAIN, MCNT): MLDT latches a multiple of 256 and traps MISALIGNED
otherwise; MFENCE goes on once loads, stores through P and vector results are done; MWAITA holds until the operations on
the name that were accepted before it have retired; MDRAIN and MCNT add a stream to their port, of the tile that the name
holds, and a fifth stream holds the team. With nothing outstanding the stream has the tile's values at once. -/
def Obligations.MatrixInstructionsOfOneTeamAct : Prop :=
  (∀ (s : State) (t : Team) (f : VFields), s.poised t = true → checkV s t 0x1C0 f = none →
    ((syncOff f t).toNat % 256 = 0 → CompletesAs (.mldt f) s { t.gone with aOffset := (syncOff f t).toNat }) ∧
    ((syncOff f t).toNat % 256 ≠ 0 → exec (.mldt f) s = .next (s.trap t 0x12 1 (syncAddr f t 1) 0))) ∧
  (∀ (s : State) (t : Team) (f : VFields), s.poised t = true → checkV s t 0x1C1 f = none →
    ((∀ o ∈ s.ops, o.origin.tid = t.tid → o.seg = 1 → ∀ a ∈ o.lanes, a.open_ = false) →
      CompletesAs (.mfence f) s { t.gone with fenced := true }) ∧
    (s.mfenceOpen t = true → s.hasEntry t [0, 1] = false →
      ∃ n, CompletesAs (.mfence f) s { t with held := some (.mfence, n) })) ∧
  (∀ (s : State) (t : Team) (c : Crew) (f : VFields) (ids : List Nat), InCrew s t c 0x1C9 f →
    ids = (match t.held with
      | some (.mwaita l, _) => l
      | _ => (c.ops.filter fun o => o.names.contains (f.vd.toNat % 16)).map MatrixOp.id) →
    ((∀ i ∈ ids, ∀ d ∈ s.crews, ∀ o ∈ d.ops, o.id ≠ i) → CompletesAs (.mwaita f) s t.gone) ∧
    ((∃ i ∈ ids, ∃ d ∈ s.crews, ∃ o ∈ d.ops, o.id = i) →
      ∃ n, CompletesAs (.mwaita f) s { t with held := some (.mwaita ids, n) })) ∧
  (∀ (s : State) (t : Team) (c : Crew) (f : VFields) (i : Instr) (op : Nat) (counts : Bool),
    (i = .mdrain f ∧ op = 0x1C8 ∧ counts = false) ∨ (i = .mcnt f ∧ op = 0x1CA ∧ counts = true) → InCrew s t c op f →
    s.crew? c.id = some c → ∀ ss, ss = spRead [] c.ports (f.vd.toNat - 480) →
    (ss.length < 4 → ∃ s' c' rest st, exec i s = .next s' ∧ s'.team? t.tid = some t.gone ∧ s'.crew? c.id = some c' ∧
      c'.names = c.names ∧ spRead [] c'.ports (f.vd.toNat - 480) = rest ++ [st] ∧ rest.length = ss.length ∧
      st.id = s.nextId ∧ st.origin = some t.origin ∧ st.tile = spRead none c.names (f.va.toNat % 16) ∧ st.counts = counts ∧ st.row = 0 ∧ st.read = 0 ∧
      (c.ops = [] → ∃ vs, st.vals = some vs ∧ vs.length = 4096 ∧
        ∀ x, x < 4096 → vs[x]? = some (streamRule c st.tile counts x))) ∧
    (4 ≤ ss.length → ∃ n, CompletesAs i s { t with held := some (.portFull (f.vd.toNat - 480), n) }))

/-- R112, R226, R227, R228, R234, R235, R237 (MMA, MMAT, MMASP, MZERO, MNEW as they issue): a member that arrives is held until every
member has arrived. At the last arrival, if the arrivals agree and a place is free, the engine accepts the operation and
every member retires; a multiply operation, on the bound names, stands last in the crew's engine order with its formats,
mode, NBV and operand images as R223 and R224 place them, MMAT's second image after the first in each member's run (R234)
and MMASP's bitmaps at the offset that its members name (R235); MZERO clears the tile of its name, and MNEW binds a free tile and
clears it. Arrivals that disagree trap CREW_MISMATCH in every member, and a broken crew traps CREW_BROKEN. -/
def Obligations.CollectiveIsAcceptedWithItsCrew : Prop :=
  ∀ (i : Instr) (op : Nat) (f : VFields), collectiveRule i = some (op, f) →
    (∀ (s : State) (t : Team) (c : Crew), InCrew s t c op f →
      (c.broken = true → exec i s = .next (s.trap t 0x1A 0 0 0)) ∧
      (c.broken = false → (∃ k < c.size, ∀ u ∈ s.teams, u.plot = c.plot → u.index = c.first + k → u.tid ≠ t.tid ∧ u.arrived = none) →
        ∃ n, CompletesAs i s { t with arrived := some (arrivalOf t op f), held := some (.collective, n) })) ∧
    (∀ (s : State) (t : Team) (c : Crew) (ms : List (Team × CrewArrival)), LastArrival s t c op f ms →
      s.crew? c.id = some c → (∀ m ∈ ms, s.isSup m.1 = false) →
      ((∃ m ∈ ms, ∃ n ∈ ms, ¬ agrees m.2 n.2) → ∃ s', exec i s = .next s' ∧ allTrap s s' (ms.map Prod.fst) 0x19) ∧
      ((∀ m ∈ ms, ∀ n ∈ ms, agrees m.2 n.2) →
        (op < 0x1C6 → (c.ops.filter fun o => decide (o.kind ≠ .zero)).length < 4 →
          (∀ m ∈ ms, m.2.aOffset + (if f.fmt = 13 then 18432 else 16384) ≤ (m.1.seg 1).limit.toNat ∧
            (op = 0x1C4 → m.2.bitmap % 64 = 0 ∧
              m.2.bitmap + 16 * matrixK f.fmt.toNat (srcFmt f) ≤ (m.1.seg 1).limit.toNat)) →
          (∀ k, k = f.vd.toNat % 16 ∨ (op = 0x1C3 ∧ k = f.vd.toNat % 16 + 1) → (spRead none c.names k).isSome = true) →
          (∀ p, s.plot? c.plot = some p → p.poison = []) → (∀ m ∈ ms, m.1.plot = c.plot) →
          ∃ s' c' o, exec i s = .next s' ∧ (∀ m ∈ ms, s'.team? m.1.tid = some { m.1.gone with fenced := false }) ∧
            s'.crew? c.id = some c' ∧ c' = { c with ops := c.ops ++ [o] } ∧ o.id = s.nextId ∧
            o.kind = (if op = 0x1C2 then .mma else if op = 0x1C3 then .mmat else .mmasp) ∧
            o.fmtA = f.fmt.toNat ∧ o.fmtB = srcFmt f ∧ o.mode = f.md.toNat % 4 ∧ o.nbv = t.nbv.toNat ∧
            o.tiles.map some = (if op = 0x1C3 then
              [spRead none c.names (f.vd.toNat % 16), spRead none c.names (f.vd.toNat % 16 + 1)]
              else [spRead none c.names (f.vd.toNat % 16)]) ∧
            o.wild = ms.any (fun m => !m.2.fenced) ∧
            (∀ m, ms.head? = some m → o.imgA = s.readScratch c.plot ((m.1.seg 1).base + BitVec.ofNat 64 m.2.aOffset).toNat
              (if f.fmt = 13 then 18432 else 16384)) ∧
            (op ≠ 0x1C3 → o.imgB = ms.flatMap fun m => shareRule m.1 m.2.f.va.toNat c.size (decide (f.fmt = 13))) ∧
            (op = 0x1C3 → ∀ h, ms.head? = some h → o.imgB =
              (ms.flatMap fun m => shareRule m.1 m.2.f.va.toNat c.size (decide (f.fmt = 13))) ++
              ms.flatMap fun m => shareRule m.1 (m.2.f.va.toNat + imageRegs c.size h.1.width (decide (f.fmt = 13))) c.size
                (decide (f.fmt = 13))) ∧
            (op ≠ 0x1C4 → o.bitmaps = []) ∧
            (op = 0x1C4 → ∀ m, ms.head? = some m → o.bitmaps =
              s.readScratch c.plot ((m.1.seg 1).base + BitVec.ofNat 64 m.2.bitmap).toNat
                (16 * matrixK f.fmt.toNat (srcFmt f)))) ∧
        (op = 0x1C6 → c.ops = [] → ∀ k, spRead none c.names (f.vd.toNat % 16) = some k →
          ∃ s' c', exec i s = .next s' ∧ (∀ m ∈ ms, s'.team? m.1.tid = some { m.1.gone with fenced := false }) ∧
            s'.crew? c.id = some c' ∧ c'.names = c.names ∧ c'.ops = [] ∧
            ∀ j, spRead {} c'.tiles j = if j = k then {} else spRead {} c.tiles j) ∧
        (op = 0x1C7 → c.ops = [] → (∃ k < c.tileCount, (∀ n ∈ c.names, n.2 ≠ some k) ∧ c.drains k = false) →
          ∃ s' c' k, exec i s = .next s' ∧ (∀ m ∈ ms, s'.team? m.1.tid = some { m.1.gone with fenced := false }) ∧
            s'.crew? c.id = some c' ∧ k < c.tileCount ∧ (∀ n ∈ c.names, n.2 ≠ some k) ∧ c.drains k = false ∧
            (∀ n, spRead none c'.names n = if n = f.vd.toNat % 16 then some k else spRead none c.names n) ∧
            ∀ j, spRead {} c'.tiles j = if j = k then {} else spRead {} c.tiles j)))

namespace Sys2Proof.Claims

open Sys2Proof Sys2Proof.Machine

/-- R223: element A[i,k] of the image. -/
def elementA (o : MatrixOp) (i k : Nat) : Val :=
  let K := matrixK o.fmtA o.fmtB
  let byte := fun (n : Nat) => (o.imgA.getD n 0).toNat
  if o.fmtA = 13 then
    e2m1Val (byte ((i * 512 + k) / 2) / 16 ^ ((i * 512 + k) % 2) % 16) (byte (16384 + 2 * (i * 16 + k / 32)))
      (byte (16384 + 2 * (i * 16 + k / 32) + 1))
  else
    let n := (fmtOf o.fmtA 0).width / 8
    floatVal (fmtOf o.fmtA 0) (ofBytes ((o.imgA.drop (n * (i * K + k))).take n))

/-- R224, R225: element B[k,j], from the words of the image and their companions. -/
def elementB (o : MatrixOp) (k j : Nat) : Val :=
  let K := matrixK o.fmtA o.fmtB
  let q := k / (K / 4)
  let n := j * (K / 4) + k % (K / 4)
  if o.fmtB = 13 then
    let w := o.imgB.getD (1024 * q + n / 8) (0, 0)
    e2m1Val (w.1.toNat / 16 ^ (n % 8) % 16) (w.2.toNat % 256) (w.2.toNat / 256 % 256)
  else
    let b := (fmtOf o.fmtB 0).width
    let w := o.imgB.getD (1024 * q + n * b / 32) (0, 0)
    floatVal (fmtOf o.fmtB 0) (w.1.toNat / 2 ^ (n * b % 32) % 2 ^ b)

/-- Bit n of the bitmaps (R235). -/
def mapBit (o : MatrixOp) (n : Nat) : Bool := (o.bitmaps.getD (n / 8) 0).getLsbD (n % 8)

/-- R235: bitA(i,k) and bitB(k,j). -/
def bitA (o : MatrixOp) (i k : Nat) : Bool := mapBit o (i * matrixK o.fmtA o.fmtB + k)
/-- bitB(k,j). -/
def bitB (o : MatrixOp) (k j : Nat) : Bool := mapBit o (64 * matrixK o.fmtA o.fmtB + 64 * k + j)

/-- R232, R235: the term list. -/
def termList (o : MatrixOp) : List Nat :=
  (List.range (matrixK o.fmtA o.fmtB)).filter fun k =>
    o.kind != .mmasp || ((List.range 64).any fun i => bitA o i k) && (List.range 64).any fun j => bitB o k j

/-- An entry of the term list at an element: the operands, and whether it is a term there. -/
def termAt (o : MatrixOp) (i j k : Nat) : Val × Val × Bool :=
  (elementA o i k, elementB o k j, o.kind != .mmasp || (bitA o i k && bitB o k j))

/-- The exact products of the terms with both operands present (R232). -/
def keptProducts (ts : List (Val × Val × Bool)) : List Res :=
  ts.filterMap fun t => if t.2.2 && !t.1.isAbsent && !t.2.1.isAbsent then some (mulVal t.1 t.2.1) else none

/-- NBV 1: run after run of 16 entries, its products rounded to a sum that is then added and rounded (R232). -/
def addRuns : List (List (Val × Val × Bool)) → Nat × BitVec 8 → Nat × BitVec 8
  | [], x => x
  | r :: rs, x =>
    let g := roundRes .f32 .rne false (sumRes false (keptProducts r))
    let a := roundRes .f32 .rne false (sumVals false [floatVal .f32 x.1, floatVal .f32 g.1])
    addRuns rs (a.1, x.2 ||| g.2 ||| a.2)

/-- Runs of 16 entries. -/
def runs16 (ts : List (Val × Val × Bool)) : List (List (Val × Val × Bool)) :=
  (List.range ((ts.length + 15) / 16)).map fun n => (ts.drop (16 * n)).take 16

/-- R232: the effect of an operation on one element, and its flags. -/
def tileRule (mode nbv : Nat) (ts : List (Val × Val × Bool)) (e : TileElem) : TileElem × BitVec 8 :=
  if e.acc = 0xFFFFFFFF then (e, 0)
  else if mode = 1 ∧ (ts.any fun t => t.2.2 && (t.1.isAbsent || t.2.1.isAbsent)) = true then
    ({ e with acc := 0xFFFFFFFF }, 0)
  else
    let r := if nbv = 1 then addRuns (runs16 ts) (e.acc, 0)
      else roundRes .f32 .rne false (sumRes false (.val (floatVal .f32 e.acc) :: keptProducts ts))
    let n := e.cnt + (keptProducts ts).length
    ({ acc := r.1, kept := e.kept || !(keptProducts ts).isEmpty, cnt := if mode = 2 then max e.cnt (min n 0xFFFE) else e.cnt },
      r.2 ||| if mode = 2 ∧ 0xFFFE < n then 0x40 else 0)

/-- Element n of a tile. -/
def elemAt (c : Crew) (k n : Nat) : TileElem :=
  let t : Tile := spRead {} c.tiles k
  { acc := (spRead 0 t.values n).toNat, kept := decide (n ∈ t.kept), cnt := (spRead 0 t.counts n).toNat }

/-- What an operation does to element n of its tile. -/
def resultAt (o : MatrixOp) (c : Crew) (k n : Nat) : TileElem × BitVec 8 :=
  tileRule o.mode o.nbv ((termList o).map (termAt o (n / 64) (n % 64))) (elemAt c k n)

/-- The engine of the core that the event names has run every step of a crew's only operation, on one tile, its images
whole, its operands fenced and untouched since. -/
structure Retires (s : State) (c : Crew) (o : MatrixOp) (k : Nat) (p : Plot) (hs : List Team) : Prop where
  running : s.runningOp s.arg.a = some (c, o)
  only : c.ops = [o] ∧ o.tiles = [k] ∧ (o.kind = .mma ∨ o.kind = .mmasp)
  crew : s.crew? c.id = some c
  done : o.steps ≤ o.step ∧ o.readyAt ≤ (s.core s.arg.a).cyc
  plain : o.wild = false ∧ o.wildBits = false ∧ o.baseStep = 0
  pair : 0 < matrixK o.fmtA o.fmtB
  clean : (spRead {} c.tiles k).poison = []
  images : o.imgA.length = (if o.fmtA = 13 then 18432 else 16384) ∧ o.imgB.length = 4096 ∧
    (o.kind = .mmasp → o.bitmaps.length = 16 * matrixK o.fmtA o.fmtB)
  plot : s.plot? c.plot = some p ∧ p.exited.length < p.teams
  members : o.runs.map Prod.fst = hs.map Team.tid ∧ (hs.map Team.tid).Nodup
  alive : ∀ t ∈ hs, s.team? t.tid = some t ∧ t.dying = none

end Sys2Proof.Claims

/-- R71, R222 to R225, R232, R233, R235 (MATRIX_OP_RETIRE): when an operation retires, each of the 4,096 elements of its
tile has the value, kept bit and count that R232 gives from the images and the element before, every other tile is as it
was, every member's FSR has the flags, and the operation is gone. -/
def Sys2Proof.Claims.MatrixOperationRetiresWithItsResult : Prop :=
  ∀ (s : State) (c : Crew) (o : MatrixOp) (k : Nat) (p : Plot) (hs : List Team), Retires s c o k p hs →
    ∃ s' c', exec .matrixOpRetire s = .next s' ∧ s'.mem = s.mem ∧ s'.crew? c.id = some c' ∧ c'.ops = [] ∧
      c'.names = c.names ∧
      (termList o = [] → c'.tiles = c.tiles) ∧
      (termList o ≠ [] → ∀ n, n < 4096 → ∀ r, r = resultAt o c k n →
        (elemAt c' k n).acc = r.1.acc % 2 ^ 32 ∧ (elemAt c' k n).kept = r.1.kept ∧ (elemAt c' k n).cnt = r.1.cnt % 2 ^ 16) ∧
      (∀ j, j ≠ k → spRead {} c'.tiles j = spRead {} c.tiles j) ∧
      ∀ t ∈ hs, s'.team? t.tid = some { t with
        fsr := if termList o = [] then t.fsr
          else t.fsr ||| (List.range 4096).foldl (fun x n => x ||| (resultAt o c k n).2) 0 }

/-- R228, R236, R239, R374 (MATRIX_OP_START, MATRIX_STEP, MDRAIN_ROW): an idle engine starts the oldest operation of the
only crew that can start one, where it is slaved to no twin's MMAT (R234), and its step counter is cleared; a step takes the cycles of its format pair, doubled under
`.count`, and counts, an MMAT's once both engines are at it; after the last step the operation may retire 16 cycles later; a port's oldest unfinished stream whose
values stand gets its next row, one a cycle. -/
def Sys2Proof.Claims.MatrixEngineTakesItsSteps : Prop :=
  (∀ (s : State) (c : Crew) (o : MatrixOp) (rest : List MatrixOp), (s.core s.arg.a).running = none →
    (s.core s.arg.a).slaved = none → s.startable s.arg.a = [c] → c.ops = o :: rest → o.kind = .mma ∨ o.kind = .mmasp → s.crew? c.id = some c →
    o.step < o.steps →
    ∃ s' n, exec .matrixOpStart s = .next s' ∧ (s'.core s.arg.a).running = some (c.id, o.id) ∧
      (s'.core s.arg.a).lastCrew = c.id ∧ s'.teams = s.teams ∧ s'.mem = s.mem ∧
      n = (match o.fmtA with | 8 => 64 | 9 => 8 | 10 => 8 | 13 => 2 | _ => 4) * (if o.mode = 2 then 2 else 1) ∧
      s'.crew? c.id = some { c with
        ops := { o with started := true, readyAt := (s.core s.arg.a).cyc + n } :: rest
        stepCounter := if o.started then c.stepCounter else 0 }) ∧
  (∀ (s : State) (c : Crew) (o : MatrixOp) (rest : List MatrixOp), s.runningOp s.arg.a = some (c, o) →
    s.crew? c.id = some c → c.ops = o :: rest → o.step < o.steps → o.readyAt ≤ (s.core s.arg.a).cyc →
    (o.kind = .mmat → ∃ k, (s.core (s.arg.a + 1)).running = some (k, o.id)) →
    ∃ s' n, exec .matrixStep s = .next s' ∧ s'.teams = s.teams ∧ s'.mem = s.mem ∧
      (o.step + 1 = o.steps → n = 16) ∧ (o.step + 1 < o.steps → n = o.stepCycles) ∧
      s'.crew? c.id = some { c with
        ops := { o with step := o.step + 1, readyAt := (s.core s.arg.a).cyc + n } :: rest
        stepCounter := c.stepCounter + 1 }) ∧
  (∀ (s : State) (c : Crew) (a b : List Stream) (st : Stream), s.crew? s.arg.a = some c → s.crewSaved c = false →
    spRead [] c.ports s.arg.b = a ++ st :: b → (∀ x ∈ a, 64 ≤ x.row) → st.row < 64 → st.vals.isSome = true →
    st.readyAt ≤ (s.core (s.crewCore c)).cyc →
    (st.counts = true ∨ ∀ k, st.tile = some k → ∀ e ∈ (spRead {} c.tiles k).poison, e / 64 ≠ st.row) →
    ∃ s' c', exec .mdrainRow s = .next s' ∧ s'.crew? s.arg.a = some c' ∧ c' = { c with ports := c'.ports } ∧
      (∀ p, spRead [] c'.ports p = if p = s.arg.b then
        a ++ { st with row := st.row + 1, readyAt := (s.core (s.crewCore c)).cyc + 1 } :: b else spRead [] c.ports p) ∧
      s' = { s with crews := s'.crews })

/-- Matrix operations start, step and retire with their results. -/
def Obligations.MatrixOperationsStepAndRetire : Prop :=
  Claims.MatrixEngineTakesItsSteps ∧
  Claims.MatrixOperationRetiresWithItsResult

/-! ## The gleaner -/

namespace Sys2Proof.Claims

open Sys2Proof Sys2Proof.Machine

/-- A queue register that a field names (R117). -/
def queueOf (c : BitVec 9) : Option Nat := if 384 ≤ c.toNat ∧ c.toNat < 448 then some c.toNat else none

/-- R247, R248, R249: the opcode, fields and command of a gleaner instruction, the flag aside. -/
def gleanRule (s : State) (t : Team) : Instr → Option (Nat × VFields × Glean)
  | .gather f => some (0x120, f, indexed false f)
  | .scatter f => some (0x121, f, indexed true f)
  | .glcfg f =>
    let b := (t.getS f.vb.toNat)
    let seg := f.fn.toNat % 8
    some (0x122, f,
      { id := s.nextId, origin := t.origin, width := t.width, scatter := f.fn.getLsbD 3, queue := some f.vd.toNat, seg
        segBase := (t.seg seg).base, segLimit := (t.seg seg).limit
        base := t.getS f.va.toNat + (f.lit.getD 0).signExtend 64, scale := 2, indexQueue := queueOf f.vc
        affine := decide (f.vc = 448), stride := (b.extractLsb' 32 32).toInt, entries := field b 31 0, lanes := t.lanes })
  | _ => none
where
  /-- The command of GATHER and SCATTER. -/
  indexed (scatter : Bool) (f : VFields) : Glean :=
    { id := s.nextId, origin := t.origin, width := t.width, scatter, queue := queueOf f.vd
      data := if scatter ∧ queueOf f.vd = none then (List.range t.width).map fun l => t.getV f.vd.toNat l else []
      seg := mSeg f, segBase := (t.seg (mSeg f)).base, segLimit := (t.seg (mSeg f)).limit, base := syncOff f t
      scale := mScale f
      index := if f.va = 448 then some ((List.range t.width).map fun _ => 0)
        else if queueOf f.va ≠ none then none
        else some ((List.range t.width).map fun l => t.getV f.va.toNat l)
      indexQueue := queueOf f.va, lanes := t.lanes }

/-- Lanes that an entry acts for (R247). -/
def actingLanes (g : Glean) (ix : List Word) : List Nat :=
  g.lanes.filter fun l => g.affine || decide (ix.getD l 0xFFFFFFFF#32 ≠ 0xFFFFFFFF#32)

/-- The offset of a lane in entry n (R247, R249). -/
def gleanOff (g : Glean) (ix : List Word) (n l : Nat) : Dword :=
  if g.affine then g.base + BitVec.ofInt 64 (n * g.stride) + BitVec.ofNat 64 (4 * l)
  else g.base + (ix.getD l 0xFFFFFFFF#32).signExtend 64 * BitVec.ofNat 64 (2 ^ g.scale)

/-- The command may be handed over: its queues can take their directions, its slot and rows are there, and what can be
computed of its range lies within the limit (R246, R249, R321). -/
structure GleanReady (s : State) (t : Team) (op : Nat) (f : VFields) (g : Glean) : Prop where
  poised : s.poised t = true
  checks : checkV s t op f = none
  noFault : t.acquireFault = none
  clean : ∀ p, s.plot? t.plot = some p → p.poison = []
  slot : t.gleans.length < 16
  data : ∀ q, g.queue = some q → match t.queue? q with
    | none => t.queues.length < 4 ∧ s.roomLacks t = false
    | some x => x.producerGleaner = !g.scatter
  index : ∀ q, g.indexQueue = some q → ∃ x, t.queue? q = some x ∧ x.producerGleaner = true
  within : ∀ ix, g.index = some ix → ∀ l ∈ actingLanes g ix, (gleanOff g ix 0 l).toNat + 4 ≤ g.segLimit.toNat
  affine : g.affine = true → ∀ n < g.entries, ∀ l ∈ g.lanes,
    0 ≤ g.base.toInt + n * g.stride + 4 * l ∧ g.base.toInt + n * g.stride + 4 * l + 4 ≤ g.segLimit.toNat
  entries : 0 < g.entries
  writes : g.scatter = true → g.seg = 3 → s.isSup t = true
  lanes : g.scatter = true → g.queue = none → t.lanes ≠ []

/-- The oldest command of the event's team may act on its next entry, whose index slices are ix; each of its lanes stands
at a place within the limit. -/
structure Gleans (s : State) (t : Team) (g : Glean) (ix : List Word) (place : Nat → Place) : Prop where
  team : s.team? s.arg.tid = some t ∧ t.monitor = .none_ ∧ g.origin.tid = t.tid
  head : ∃ r, t.gleans = g :: r ∧ ∀ x ∈ r, x.id ≠ g.id
  ready : g.stopped = false ∧ g.ends = false ∧ g.pending = none ∧ s.engineReady g.origin g.id = true
  orphans : s.orphans = []
  plot : s.arg.hostErr = false ∧ ∀ p, s.plot? g.origin.plot = some p → p.exited.length < p.teams
  index : (g.indexQueue = none ∧ ix = g.index.getD []) ∨
    ∃ q x r, g.indexQueue = some q ∧ g.queue ≠ some q ∧ t.queue? q = some x ∧ x.entries = ix :: r
  order : (g.lanes).Pairwise (· < ·)
  within : ∀ l ∈ actingLanes g ix, (gleanOff g ix g.next l).toNat + 4 ≤ g.segLimit.toNat
  places : ∀ l ∈ actingLanes g ix, standsAt s g.origin g.seg (g.segBase + gleanOff g ix g.next l).toNat 4
    (if g.scatter then .write else .read) (place l)

/-- The command is finished after its last entry, else it stands at the next one. -/
def gleanGoesOn (t u : Team) (g : Glean) : Prop :=
  (g.entries ≤ g.next + 1 → u.gleans = t.gleans.drop 1 ∧
    ∀ n, u.flag n = if g.flag = some n then { t.flag n with count := (t.flag n).count - 1 } else t.flag n) ∧
  (g.next + 1 < g.entries → u.gleans = { g with next := g.next + 1 } :: t.gleans.drop 1 ∧ u.flags = t.flags)

/-- The word at a place, lowest byte first. -/
def wordAtPlace (s : State) (plot : Nat) (x : Place) : Word :=
  BitVec.ofNat 32 (ofBytes ((List.range 4).map fun j => byteAt s plot (x.1, x.2 + j)))

end Sys2Proof.Claims

/-- R83, R113, R246 to R249, R321, R322 (GATHER, SCATTER, GLCFG as they issue): the command stands last among its team's,
with what it captures; its data queue is bound, in its direction; it counts on FLAGB unless the mask is empty; the team
goes on, and no memory changes. A queue bound the other way traps ILLEGAL_OPERAND; a seventeenth command holds. -/
def Sys2Proof.Claims.GleanerCommandIsHandedOver : Prop :=
  ∀ (s : State) (t : Team) (i : Instr) (op : Nat) (f : VFields) (g : Glean), gleanRule s t i = some (op, f, g) →
    (GleanReady s t op f g → ∃ s' u fl, exec i s = .next s' ∧ fl = (if t.lanes = [] then none else t.flagB) ∧
      s' = { s with teams := s'.teams, nextId := s.nextId + 1 } ∧ s'.team? t.tid = some u ∧
      u = { t.gone.raiseCount fl with gleans := t.gleans ++ [{ g with flag := fl }], queues := u.queues } ∧
      (∀ q x, g.queue = some q → t.queue? q = some x → u.queues = t.queues) ∧
      (∀ q, g.queue = some q → t.queue? q = none →
        u.queues = t.queues ++ [{ code := q, producerGleaner := !g.scatter, entries := [] }]) ∧
      (g.queue = none → u.queues = t.queues)) ∧
    (s.poised t = true → checkV s t op f = none → t.acquireFault = none → t.lanes ≠ [] → g.affine = false →
      (∀ p, s.plot? t.plot = some p → p.poison = []) → 0 < g.entries →
      ((∃ q x, g.queue = some q ∧ t.queue? q = some x ∧ x.producerGleaner = g.scatter) →
        exec i s = .next (s.trap t 0x03 0 0 0)) ∧
      ((∀ q, g.queue = some q → match t.queue? q with
          | none => t.queues.length < 4 | some x => x.producerGleaner = !g.scatter) →
        (∀ q, g.indexQueue = some q → ∃ x, t.queue? q = some x ∧ x.producerGleaner = true) → 16 ≤ t.gleans.length →
        ∃ n, CompletesAs i s { t with held := some (.gleanerSlot, n) }))

/-- R247, R248, R249 (GLEANER_DELIVERY, GLEANER_SCATTER_WRITE): an entry of a gather is pushed to its queue, the four
bytes at each acting lane's address in that lane and all ones in the others; an entry of a scatter writes each acting
lane's four bytes, the highest lane's standing where lanes overlap, and no other byte. An index queue gives up its entry.
Then the command goes on to its next entry, or is finished and its count ends. -/
def Sys2Proof.Claims.GleanerMovesItsEntries : Prop :=
  ∀ (s : State) (t : Team) (g : Glean) (ix : List Word) (place : Nat → Place), Gleans s t g ix place →
    (∀ q x, g.scatter = false → g.queue = some q → t.queue? q = some x → x.entries.length < 2 →
      ∃ s' u y, exec .gleanerDelivery s = .next s' ∧ s'.team? t.tid = some u ∧ s'.mem = s.mem ∧ u.queue? q = some y ∧
        y.entries = x.entries ++ [(List.range g.width).map fun l =>
          if l ∈ actingLanes g ix then wordAtPlace s g.origin.plot (place l) else 0xFFFFFFFF#32] ∧
        gleanGoesOn t u g ∧ u.s = t.s ∧ u.v = t.v) ∧
    (∀ data, g.scatter = true → (g.queue = none ∧ data = g.data ∨
        ∃ q x r, g.queue = some q ∧ t.queue? q = some x ∧ x.entries = data :: r) →
      ∃ s' u, exec .gleanerScatterWrite s = .next s' ∧ s'.team? t.tid = some u ∧ gleanGoesOn t u g ∧ u.s = t.s ∧
        u.v = t.v ∧
        (∀ l ∈ actingLanes g ix, ∀ j < 4,
          (∀ m ∈ actingLanes g ix, l < m → ∀ k < 4, (place m).1 = (place l).1 → (place m).2 + k ≠ (place l).2 + j) →
          byteAt s' g.origin.plot ((place l).1, (place l).2 + j) = (toBytes 4 (data.getD l 0).toNat).getD j 0) ∧
        ∀ x, (∀ l ∈ actingLanes g ix, (place l).1 = false → ∀ j < 4, (place l).2 + j ≠ x) →
          memByte s'.mem x = memByte s.mem x)

/-- Gleaner commands are handed over and move their entries. -/
def Obligations.GleanerTakesCommandsAndMoves : Prop :=
  Claims.GleanerCommandIsHandedOver ∧
  Claims.GleanerMovesItsEntries

/-! ## The baler, the confluence engine and the routing counters -/

namespace Sys2Proof.Claims

open Sys2Proof Sys2Proof.Machine

/-- The byte at a virtual address stands in memory where a translation that the team's partition holds puts it; one that is read
holds no poison (R294, R295, R393). -/
def byteStands (s : State) (o : Origin) (va : Nat) (acc : Acc) (pa : Nat) : Prop :=
  (∃ e nc, tlbFind (s.firstTlb o.port) o.ctx va = some e ∧ leafCheck s e va acc = .ok pa nc) ∧ (acc = .read → s.poisoned pa = false)

/-- A place for each virtual byte keeps the order of bytes within a sector. -/
def sectorwise (place : Nat → Nat) : Prop := ∀ a b, a / 32 = b / 32 → place a + b = place b + a

/-- The bytes from a virtual address on. -/
def bytesAt (s : State) (place : Nat → Nat) (va n : Nat) : List Byte :=
  (List.range n).map fun j => memByte s.mem (place (va + j))

/-- Memory after the runs of bytes were written at their places in order, a later one over an earlier one, and nothing
else. -/
def memWritten (s s' : State) (place : Nat → Nat) (ws : List (Nat × List Byte)) : Prop :=
  ∀ x, memByte s'.mem x =
    (ws.flatMap fun w => w.2.zipIdx.map fun b => (place (w.1 + b.2), b.1)).foldl
      (fun v p => if p.1 = x then p.2 else v) (memByte s.mem x)

/-- The dwords of a block. -/
def blockOf (s : State) (place : Nat → Nat) (va : Nat) : List Dword :=
  (List.range 8).map fun i => BitVec.ofNat 64 (ofBytes (bytesAt s place (va + 8 * i) 8))

/-- R251: the fields of a baler block are in order. -/
def baleFits (F : Fmt) (d : List Dword) : Prop :=
  let x := fun n => d.getD n 0
  (field (x 7) 31 30 = 0 ∨ field (x 7) 31 30 = 3) ∧ (∀ n < 4, (x n).toNat % 8 = 0) ∧ (x 6).toNat % 8 = 0 ∧
  1 ≤ field (x 4) 63 32 ∧ 1 ≤ field (x 4) 31 0 ∧ field (x 4) 31 0 ≤ 65536 ∧ (F = .e2m1 → field (x 4) 31 0 % 32 = 0) ∧
  field (x 4) 31 0 * F.width / 8 ≤ field (x 5) 63 32 ∧ field (x 5) 63 32 % max 1 (F.width / 8) = 0 ∧
  field (x 7) 2 0 ≠ 7 ∧ field (x 7) 29 28 = 0 ∧ field (x 7) 23 3 = 0

/-- R256: the fields of a collective's block are in order. -/
def collFits (d : List Dword) : Prop :=
  let x := fun n => d.getD n 0
  let nrank := field (x 0) 55 48
  let srcf := field (x 0) 15 8
  let wire := field (x 0) 23 16
  2 ≤ nrank ∧ nrank ≤ 64 ∧ field (x 0) 47 40 < nrank ∧ field (x 0) 26 24 ≠ 7 ∧ srcf ∈ [8, 9, 10, 15, 3, 6] ∧
  (wire = srcf ∨ srcf = 8 ∧ wire ∈ [9, 10, 11, 12]) ∧ field (x 0) 3 0 ≤ 2 ∧ field (x 0) 7 4 ≤ 2 ∧
  (field (x 0) 3 0 = 2 → field (x 0) 7 4 = 0) ∧ (field (x 0) 3 0 = 1 → (x 1).toNat % nrank = 0) ∧
  (wire ≠ srcf → x 4 ≠ 0) ∧ field (x 0) 63 56 = 0 ∧ field (x 0) 39 27 = 0 ∧ field (x 7) 55 32 = 0

/-- The address of a command block, in G. -/
def blockVa (t : Team) (f : VFields) : Nat := ((t.seg 0).base + t.getS f.va.toNat).toNat

/-- An instruction with a command block may read it: within the limit, aligned, its bytes in their places, and the team's
earlier accesses performed (R114, R246, R251, R256). -/
structure BlockReady (s : State) (t : Team) (op : Nat) (f : VFields) (place : Nat → Nat) : Prop where
  poised : s.poised t = true
  checks : checkV s t op f = none
  noFault : t.acquireFault = none ∧ s.arg.hostErr = false
  ready : s.releaseReady t 3 = true
  within : (t.getS f.va.toNat).toNat + 64 ≤ (t.seg 0).limit.toNat
  aligned : blockVa t f % 64 = 0
  order : sectorwise place
  stands : ∀ j < 64, byteStands s t.origin (blockVa t f + j) .read (place (blockVa t f + j))

/-- Addresses that a baler command uses (R251). -/
def baleUses (k : Bale) (va : Nat) : Prop :=
  let in_ := fun a n => a ≤ va ∧ va < a + n
  (∃ r < k.rows, (∃ u < k.units, ∃ p ∈ k.parts r u, in_ p.1 p.2) ∨ in_ (fieldD k.fields 2 + k.mapBytes * r) k.mapBytes) ∨
  (∃ i < max (bits (fieldD k.fields 5) 31 0) (k.start + k.kept + k.units), in_ (k.valueAt i) k.unit) ∨ in_ (fieldD k.fields 3) (8 * k.rows + 8) ∨
  (fieldD k.fields 6 ≠ 0 ∧ in_ (fieldD k.fields 6) 8) ∨ in_ (k.block + 56) 8

/-- The baler has a command to go on with for one piece of its work, each address it uses in its place; its acquire of the
commit word need not wait for drains (R308). -/
structure BaleRuns (s : State) (k : Bale) (place : Nat → Nat) : Prop where
  found : (s.bales.find? fun x => x.id == s.arg.a) = some k
  begun : k.stopped = false ∧ k.stage < 6
  ready : s.engineReady k.origin k.id = true
  piece : s.arg.b = 1 ∧ s.arg.hostErr = false
  untagged : s.baleWaits k = false
  order : sectorwise place
  stands : ∀ va, baleUses k va → byteStands s k.origin va .read (place va) ∧ byteStands s k.origin va .write (place va)
  counts : fieldD k.fields 6 ≠ 0 → fieldD k.fields 6 % 8 = 0 ∧
    byteStands s k.origin (fieldD k.fields 6) (.atomic true) (place (fieldD k.fields 6))
  pointers : k.unbale = true → ∀ r < k.rows,
    ofBytes (bytesAt s place (fieldD k.fields 3 + 8 * r) 8) + k.units ≤ bits (fieldD k.fields 5) 31 0

/-- A unit's bytes at its dense places, in order. -/
def spreadOver : List (Nat × Nat) → List Byte → List (Nat × List Byte)
  | [], _ => []
  | p :: r, bs => (p.1, bs.take p.2) :: spreadOver r (bs.drop p.2)

/-- R253: one piece of BALE's work, with rd the bytes at addresses: the command after it, and the writes. The stages: 0
begin, 1 values, 2 the commit word before the pointers, 3 pointers, 4 the last commit word, 5 the completion word. -/
def packRule (k : Bale) (rd : Nat → Nat → List Byte) : Bale × List (Nat × List Byte) :=
  let row := (List.range k.units).map fun u => (k.parts k.progress u).flatMap fun p => rd p.1 p.2
  let kept := row.filter fun bs => !k.absentUnit bs
  let commit := fun w => [(k.commitAt, toBytes 8 w)]
  match k.stage with
  | 0 =>
    let old := ofBytes (rd k.commitAt 8)
    ({ k with old, stage := 1, progress := 0, kept := 0, status := 0 }, if k.fresh then commit (old ||| 2 ^ 63) else [])
  | 1 =>
    if k.progress < k.rows then
      let vcap := bits (fieldD k.fields 5) 31 0
      let room := if k.start + k.kept ≤ vcap then vcap - (k.start + k.kept) else kept.length
      let ws := (kept.take room).zipIdx.map fun x => (k.valueAt (k.start + k.kept + x.2), x.1)
      (if room < kept.length then { k with status := 2, stage := 5 }
       else { k with progress := k.progress + 1, kept := k.kept + kept.length }, ws)
    else if k.fresh then ({ k with total := k.kept, kept := 0, progress := 0, stage := 3 }, [])
    else ({ k with total := k.kept, stage := 2 }, [])
  | 2 => ({ k with stage := 3, kept := 0, progress := 0 }, commit (k.old ||| 2 ^ 63))
  | 3 =>
    if k.progress < k.rows then
      ({ k with progress := k.progress + 1, kept := k.kept + kept.length },
        [(fieldD k.fields 2 + k.mapBytes * k.progress, mapOf k.mapBytes (row.map fun bs => !k.absentUnit bs)),
         (fieldD k.fields 3 + 8 * k.progress, toBytes 8 (k.start + k.kept))])
    else ({ k with stage := 4 }, [])
  | 4 => ({ k with stage := 5 },
      commit ((bits k.old 62 48 + 1) % 2 ^ 15 * 2 ^ 48 + (k.start + k.total) % 2 ^ 48))
  | _ => finishRule
where
  /-- R253, R254: the completion word counts up, if there is one. -/
  finishRule : Bale × List (Nat × List Byte) :=
    let a := fieldD k.fields 6
    ({ k with stage := 6 }, if a = 0 then [] else [(a, toBytes 8 (ofBytes (rd a 8) + 1))])

/-- R254: one piece of UNBALE's work. -/
def unpackRule (k : Bale) (rd : Nat → Nat → List Byte) : Bale × List (Nat × List Byte) :=
  match k.stage with
  | 0 =>
    let old := ofBytes (rd k.commitAt 8)
    let k1 := { k with old, stage := 1, progress := 0, kept := 0, status := 0 }
    (if old.testBit 63 then { k1 with status := 1, stage := 5 } else k1, [])
  | 1 =>
    if k.progress < k.rows then
      let map := ofBytes (rd (fieldD k.fields 2 + k.mapBytes * k.progress) k.mapBytes)
      let p := ofBytes (rd (fieldD k.fields 3 + 8 * k.progress) 8)
      let below := fun u => ((List.range u).filter fun i => map.testBit i).length
      ({ k with progress := k.progress + 1 }, (List.range k.units).flatMap fun u =>
        spreadOver (k.parts k.progress u)
          (if map.testBit u then rd (k.valueAt (p + below u)) k.unit else k.absentBytes))
    else ({ k with stage := 4 }, [])
  | 4 =>
    ({ k with stage := 5
              status := if bits (ofBytes (rd k.commitAt 8)) 62 48 = bits k.old 62 48 then 0 else 3 }, [])
  | _ => packRule.finishRule k rd

/-- R251: dword 7 of the block is rewritten where PROGRESS, PHASE or STATUS has changed, and at the start. -/
def shown (k k1 : Bale) : List (Nat × List Byte) :=
  if k1.stage = 6 ∨ (k1.word = k.word ∧ k.stage ≠ 0) then [] else [(k.block + 56, toBytes 8 k1.word)]

/-- A collective with its group read, and its team (R256). -/
structure CollRuns (s : State) (k : Coll) (t : Team) (g : List Nat) (place : Nat → Nat) : Prop where
  found : (s.colls.find? fun x => x.id == s.arg.a) = some k
  begun : k.stopped = false ∧ k.status = none ∧ k.group = some g ∧ k.progress = 0
  ready : s.engineReady k.origin k.id = true
  team : s.team? k.origin.tid = some t ∧ t.dying = none ∧ t.monitor = .none_
  outside : s.arg.flag = false ∧ s.arg.hostErr = false
  order : sectorwise place
  word : ∀ j < 8, byteStands s k.origin (k.block + 56 + j) .write (place (k.block + 56 + j))

/-- Two ranks stand on one die. -/
def dieTwice (g : List Nat) : Prop :=
  ∃ i < g.length, ∃ j < g.length, i ≠ j ∧ g.getD i 0 % 64 = g.getD j 0 % 64 ∧ g.getD i 0 / 256 % 4 = g.getD j 0 / 256 % 4

/-- R257: element i as it is sent, its new residual if it has one, and the flags; x is the element, r the residual. -/
def sendRule (k : Coll) (x r : Nat) : Nat × Option Nat × BitVec 8 :=
  if k.wire = k.srcf then (x, none, 0)
  else if Fmt.f32.isAbsent x then (k.wire.absent, none, 0)
  else
    let y := roundRes .f32 .rne false
      (sumVals false [floatVal .f32 x, floatVal .f32 (if Fmt.f32.isAbsent r then 0 else r)])
    let q := convert k.wire .f32 .rne false y.1
    (q.1, some (residual .f32 .rne false (valOf .f32 y.1) (valOf k.wire q.1)), y.2 ||| q.2)

/-- R257: a result element: its pattern, the number of ranks that contributed, and the flags; an all-gather leaves an
element that was sent unconverted as it is. -/
def resultRule (k : Coll) (ws : List Nat) : Nat × Nat × BitVec 8 :=
  if k.op = 2 ∧ k.wire = k.srcf then (ws.headD k.srcf.absent, if k.srcf.isAbsent (ws.headD k.srcf.absent) then 0 else 1, 0) else
  let kept := (ws.filter fun w => !k.wire.isAbsent w).map fun w => (convert k.accFmt k.wire .rne false w).1
  let p := match kept, k.red with
    | [], _ => ({} : Partial)
    | _, 0 => chainSum k.accFmt kept
    | _, n => { value := some (extreme k.accFmt (n == 2) kept) }
  match p.value with
  | none => (k.srcf.absent, 0, 0)
  | some x => ((convert k.srcf k.accFmt .rne k.accFmt.isIN x).1, kept.length,
      p.flags ||| (convert k.srcf k.accFmt .rne k.accFmt.isIN x).2)

/-- R257: what contributes to result element q, and how many results there are. -/
def meets (k : Coll) (cs : List (List Nat)) (q : Nat) : List Nat :=
  match k.op with
  | 0 => cs.map fun c => c.getD q 0
  | 1 => cs.map fun c => c.getD (k.rank * (k.count / k.nrank) + q) 0
  | _ => [(cs.getD (q / k.count) []).getD (q % k.count) 0]

/-- The team after a collective that has ended: its flag's count is one lower. -/
def collOver (t u : Team) (k : Coll) (fl : BitVec 8) : Prop :=
  u = { t with fsr := t.fsr ||| fl, flags := u.flags } ∧
  ∀ m, u.flag m = if k.flag = some m then { t.flag m with count := (t.flag m).count - 1 } else t.flag m

/-- R257: what rank k.rank sent stays with the members that it has met. -/
def leftBehind (s : State) (k : Coll) : List Coll :=
  (s.colls.filter fun x => !(x.id == k.id)).map fun p =>
    if (k.rank, k.id) ∈ p.partners ∧ k.sent.length = k.count then
      { p with got := p.got ++ [(k.rank, k.sent)] }
    else p

end Sys2Proof.Claims

/-- R83, R246, R251, R256 (BALE, UNBALE, COLL as they issue): a command whose block is in order is handed over, its
fields captured; COLL counts on FLAGB; the team goes on, and no memory changes, what the caches hold aside. A block out of order traps
ILLEGAL_OPERAND, and one past the limit SEG_LIMIT. -/
def Sys2Proof.Claims.EngineCommandIsHandedOver : Prop :=
  (∀ (s : State) (t : Team) (f : VFields) (i : Instr) (op : Nat) (place : Nat → Nat),
    (i = .bale f ∧ op = 0x124 ∨ i = .unbale f ∧ op = 0x125) → BlockReady s t op f place →
    ∃ s1, sameButCaches s s1 ∧
    (baleFits (fmtF f) (blockOf s place (blockVa t f)) → exec i s = .next (({ s1 with
        nextId := s.nextId + 1
        bales := s.bales ++ [{ id := s.nextId, origin := t.origin, unbale := op == 0x125, fresh := f.fn.getLsbD 0
                               fmt := f.fmt.toNat + 16 * mW64 f, block := blockVa t f
                               fields := blockOf s place (blockVa t f) : Bale }] }).setTeam t.gone)) ∧
    (¬ baleFits (fmtF f) (blockOf s place (blockVa t f)) → exec i s = .next (s1.trap t 0x03 0 0 0))) ∧
  (∀ (s : State) (t : Team) (f : VFields) (place : Nat → Nat), BlockReady s t 0x126 f place →
    ∃ s1, sameButCaches s s1 ∧
    (collFits (blockOf s place (blockVa t f)) → exec (.coll f) s = .next (({ s1 with
        nextId := s.nextId + 1
        colls := s.colls ++ [{ id := s.nextId, origin := t.origin, block := blockVa t f
                               fields := blockOf s place (blockVa t f), flag := t.flagB : Coll }] }).setTeam
          (t.gone.raiseCount t.flagB))) ∧
    (¬ collFits (blockOf s place (blockVa t f)) → exec (.coll f) s = .next (s1.trap t 0x03 0 0 0))) ∧
  (∀ (s : State) (t : Team) (f : VFields) (i : Instr) (op : Nat),
    (i = .bale f ∧ op = 0x124 ∨ i = .unbale f ∧ op = 0x125 ∨ i = .coll f ∧ op = 0x126) → s.poised t = true →
    checkV s t op f = none → t.acquireFault = none → s.releaseReady t 3 = true →
    (t.seg 0).limit.toNat < (t.getS f.va.toNat).toNat + 64 →
    exec i s = .next (s.trap t 0x10 0 (t.getS f.va.toNat) 0))

/-- R251 to R254 (BALER_COMPLETE, UNBALE_COMPLETE, one piece of work at a time): the piece's writes are made in order,
and no other byte changes; the block shows the progress; after the last piece the command is gone. A fault at the commit
word stops the command where it stood, with an entry of origin 5. -/
def Sys2Proof.Claims.BalerWorksThroughItsPhases : Prop :=
  (∀ (s : State) (k k1 : Bale) (place : Nat → Nat) (ws : List (Nat × List Byte)) (i : Instr), BaleRuns s k place →
    (i = .balerComplete ∧ k.unbale = false ∧ (k1, ws) = packRule { k with asked := false } (bytesAt s place) ∨
      i = .unbaleComplete ∧ k.unbale = true ∧ (k1, ws) = unpackRule { k with asked := false } (bytesAt s place)) →
    ∃ s', exec i s = .next s' ∧ memWritten s s' place (ws ++ shown k k1) ∧ s'.ctxs = s.ctxs ∧
      (s'.bales.find? fun x => x.id == k.id) = if k1.stage = 6 then none else some k1) ∧
  (∀ (s : State) (k : Bale) (i : Instr) (c : Context) (x : LaneFault),
    (s.bales.find? fun y => y.id == s.arg.a) = some k → k.stopped = false → k.stage = 0 →
    (i = .balerComplete ∧ k.unbale = false ∨ i = .unbaleComplete ∧ k.unbale = true) →
    s.engineReady k.origin k.id = true → s.ctx? k.origin.ctx = some c → k.commitAt % 8 = 0 →
    s.translate k.origin.port k.origin.ctx k.commitAt .read = .fault x →
    ∃ s' e, exec i s = .next s' ∧ s'.mem = s.mem ∧ s'.teams = s.teams ∧
      (s'.bales.find? fun y => y.id == k.id) = some { k with stopped := true, asked := false } ∧
      s'.ctx? k.origin.ctx = some { c with held := c.held ++ [e] } ∧ e.originCode = 5 ∧ e.origin = k.origin ∧
      e.engAddr = k.commitAt ∧ e.cause = x.cause)

/-- Engine commands are handed over; the baler works through its phases. -/
def Obligations.BalerTakesCommandsAndWorks : Prop :=
  Claims.EngineCommandIsHandedOver ∧
  Claims.BalerWorksThroughItsPhases

/-- R256, R257 (COLL_COMPLETE): with two ranks on one die the collective ends with STATUS 2 and writes nothing else. A
rank sends its elements, converted where the wire's format is another, with the residuals written. With every
member of its module that is there met and every contribution known, the results and the kept counts are written, then STATUS 0; the flags go to the issuing team; the
collective is gone and its flag's count ends. -/
def Obligations.CollectiveSendsReducesAndEnds : Prop :=
  (∀ (s : State) (k : Coll) (t : Team) (g : List Nat) (place : Nat → Nat), CollRuns s k t g place → dieTwice g →
    ∃ s' u, exec .collComplete s = .next s' ∧ s'.colls = leftBehind s k ∧ s'.team? t.tid = some u ∧ collOver t u k 0 ∧
      memWritten s s' place [(k.block + 56, toBytes 8 (2 * 2 ^ 56 + k.tag))]) ∧
  (∀ (s : State) (k : Coll) (t : Team) (g : List Nat) (place : Nat → Nat), CollRuns s k t g place → ¬ dieTwice g →
    k.sent = [] → s.colls = [k] → k.got = [] → k.partners = [] → s.arg.peers = [] → k.rank < k.nrank → 2 ≤ k.nrank → 0 < k.size →
    let x := fun i => ofBytes (bytesAt s place (fieldD k.fields 2 + i * k.size) k.size)
    let r := fun i => ofBytes (bytesAt s place (fieldD k.fields 4 + 4 * i) 4)
    (∀ i < k.count, ∀ j < k.size,
      byteStands s k.origin (fieldD k.fields 2 + i * k.size + j) .read (place (fieldD k.fields 2 + i * k.size + j))) →
    (k.wire ≠ k.srcf → k.size = 4 ∧ ∀ i < k.count, ∀ j < 4,
      byteStands s k.origin (fieldD k.fields 4 + 4 * i + j) .read (place (fieldD k.fields 4 + 4 * i + j)) ∧
      byteStands s k.origin (fieldD k.fields 4 + 4 * i + j) .write (place (fieldD k.fields 4 + 4 * i + j))) →
    (k.wire ≠ k.srcf → ∀ i < k.count, ∀ m < k.count, ∀ j < 4, ∀ l < 4,
      place (fieldD k.fields 2 + i * 4 + j) ≠ place (fieldD k.fields 4 + 4 * m + l) ∧
      (i ≠ m → place (fieldD k.fields 4 + 4 * i + j) ≠ place (fieldD k.fields 4 + 4 * m + l))) →
    ∃ s' u, exec .collComplete s = .next s' ∧ s'.team? t.tid = some u ∧
      s'.colls = [{ k with sent := (List.range k.count).map fun i => (sendRule k (x i) (r i)).1 }] ∧
      u = { t with fsr := (List.range k.count).foldl (fun a i => a ||| (sendRule k (x i) (r i)).2.2) t.fsr } ∧
      memWritten s s' place ((List.range k.count).filterMap fun i =>
        (sendRule k (x i) (r i)).2.1.map fun e => (fieldD k.fields 4 + 4 * i, toBytes 4 e))) ∧
  (∀ (s m : State) (k l : Coll) (t : Team) (g : List Nat) (place : Nat → Nat) (cs : List (List Nat)),
    CollRuns s k t g place → ¬ dieTwice g → k.sent.length = k.count → cs.length = k.nrank → l = (s.meetLocal k).2 →
    m = (s.meetLocal k).1.modColl k.id (fun _ => l) → (∀ j < k.nrank, ∀ p, m.member l j = some p → l.agrees p = true) →
    (∀ j < k.nrank, m.contribution l j = some (cs.getD j [])) →
    let dst := fun q => fieldD k.fields 3 + q * k.size
    let kept := fun q => fieldD k.fields 5 + 4 * q
    (∀ q < k.results, (∀ j < k.size, byteStands s k.origin (dst q + j) .write (place (dst q + j))) ∧
      (fieldD k.fields 5 ≠ 0 → ∀ j < 4, byteStands s k.origin (kept q + j) .write (place (kept q + j)))) →
    ∃ s' u, exec .collComplete s = .next s' ∧ s'.colls = leftBehind m l ∧ s'.team? t.tid = some u ∧
      collOver t u k ((List.range k.results).foldl (fun a q => a ||| (resultRule k (meets k cs q)).2.2) 0) ∧
      memWritten s s' place (((List.range k.results).flatMap fun q =>
        (dst q, toBytes k.size (resultRule k (meets k cs q)).1) ::
          (if fieldD k.fields 5 = 0 then [] else [(kept q, toBytes 4 (resultRule k (meets k cs q)).2.1)])) ++
        [(k.block + 56, toBytes 8 k.tag)]))

/-- R258, R259, R260 (RCNT, RSNAP, ROUTING_BANK_EXCHANGE): RCNT adds the active lanes that name a counter, up to the
largest value, and raises SAT there; a slice out of range traps before any increment; an empty mask does nothing; both
hold for another context's bank. RSNAP reads and clears its counters and writes them in order. The exchange puts the bank
into its owner's save area and brings in the waiting context's. -/
def Obligations.RoutingCountersCountAndAreTaken : Prop :=
  (∀ (s : State) (t : Team) (f : VFields), s.poised t = true → checkV s t 0x128 f = none →
    (∀ p, s.plot? t.plot = some p → p.poison = []) →
    let core := coreOf t.tid
    let named := (t.lanes.map fun l => t.getV f.va.toNat l).filter fun x => x ≠ 0xFFFFFFFF#32
    let more := fun i => (named.filter fun x => x.toNat = i).length
    let old := fun i => (spRead (0 : Word) (s.core core).routing i).toNat
    (t.lanes = [] → CompletesAs (.rcnt f) s t.gone) ∧
    ((∃ x ∈ named, 256 ≤ x.toNat) → exec (.rcnt f) s = .next (s.trap t 0x03 0 0 0)) ∧
    (t.lanes ≠ [] → (∀ x ∈ named, x.toNat < 256) → (s.core core).routingCtx ≠ some t.ctx →
      ∃ n, CompletesAs (.rcnt f) s { t with held := some (.routing, n) }) ∧
    (t.lanes ≠ [] → (∀ x ∈ named, x.toNat < 256) → (s.core core).routingCtx = some t.ctx →
      (∀ i < 256, old i ≤ 0xFFFFFFFE) → ∃ s' u, exec (.rcnt f) s = .next s' ∧ s'.team? t.tid = some u ∧ s'.mem = s.mem ∧
        (∀ i < 256, (spRead (0 : Word) (s'.core core).routing i).toNat = min (old i + more i) 0xFFFFFFFE) ∧
        u = { t.gone with fsr := u.fsr } ∧
        ((∀ i < 256, old i + more i ≤ 0xFFFFFFFE) → u.fsr = t.fsr) ∧
        ((∃ i < 256, 0xFFFFFFFE < old i + more i) → u.fsr = t.fsr ||| fSAT))) ∧
  (∀ (s : State) (t : Team) (f : VFields) (place : Nat → Nat), s.poised t = true → checkV s t 0x129 f = none →
    (∀ k ∈ s.snaps, k.origin.tid ≠ t.tid) → t.acquireFault = none → s.arg.hostErr = false →
    let core := coreOf t.tid
    let off := t.getS f.va.toNat + (f.lit.getD 0).signExtend 64
    let va := ((t.seg 0).base + off).toNat
    let first := field (t.getS f.vb.toNat) 7 0
    let n := field (t.getS f.vb.toNat) 15 8 + 1
    (256 < first + n → exec (.rsnap f) s = .next (s.trap t 0x03 0 0 0)) ∧
    (first + n ≤ 256 → off.toNat + 4 * n ≤ (t.seg 0).limit.toNat → va % 4 = 0 → s.releaseReady t 3 = true →
      (s.core core).routingCtx = some t.ctx → t.monitor = .none_ → sectorwise place →
      (∀ j < 4 * n, byteStands s t.origin (va + j) .write (place (va + j))) →
      ∃ s', exec (.rsnap f) s = .next s' ∧ s'.team? t.tid = some t.gone ∧
        memWritten s s' place ((List.range n).map fun i =>
          (va + 4 * i, toBytes 4 (spRead (0 : Word) (s.core core).routing (first + i)).toNat)) ∧
        ∀ i, spRead (0 : Word) (s'.core core).routing i =
          if first ≤ i ∧ i < first + n then 0 else spRead 0 (s.core core).routing i)) ∧
  (∀ (s : State) (c : Context) (t : Team), s.ctx? s.arg.b = some c → t ∈ s.teams → coreOf t.tid = s.arg.a →
    t.ctx = s.arg.b → (∃ n, t.held = some (.routing, n)) → (s.core s.arg.a).routingCtx ≠ some s.arg.b →
    ∃ s', exec .routingBankExchange s = .next s' ∧ s'.teams = s.teams ∧ s'.mem = s.mem ∧
      (s'.core s.arg.a).routingCtx = some s.arg.b ∧
      (∀ i < 256, spRead (0 : Word) (s'.core s.arg.a).routing i = spRead 0 c.routing (256 * s.arg.a + i)) ∧
      ∀ o co, (s.core s.arg.a).routingCtx = some o → s.ctx? o = some co →
        ∃ x, s'.ctx? o = some { co with routing := x } ∧ ∀ i, spRead (0 : Word) x i =
          if i / 256 = s.arg.a then spRead 0 (s.core s.arg.a).routing (i % 256) else spRead 0 co.routing i)

/-! ## Launches, pre-emption and the active set -/

namespace Sys2Proof.Claims

open Sys2Proof Sys2Proof.Machine

/-- The dwords from a virtual address on. -/
def dwordsAt (s : State) (place : Nat → Nat) (va n : Nat) : List Dword :=
  (List.range n).map fun i => BitVec.ofNat 64 (ofBytes (bytesAt s place (va + 8 * i) 8))

/-- Granules that a plot of a header needs (R264). -/
def needs (h : List Dword) : Nat :=
  hTeams h * ((hRegs h * 2 ^ hLogw h * 4 + 16383) / 16384) + hScratch h + hAcc h * (hTeams h / hCrew h)

/-- R264, R265: a header breaks the rule of a rejection code; grid says that its extents are known. -/
def breaks (s : State) (ctx : Nat) (h : List Dword) (grid : Prop) : Nat → Prop
  | 2 => bits (hdrD h 0) 63 56 ≠ 2 ∨ ¬ (hNbv h = 2 ∨ hNbv h = 1 ∧ s.feature 8 = true)
  | 3 => ¬ (5 ≤ hLogw h ∧ hLogw h ≤ 10 ∧ 1 ≤ hTeams h ∧ hTeams h ≤ 32 ∧
      (hCrew h = 0 ∨ (hCrew h = 2 ∨ hCrew h = 4 ∨ hCrew h = 8) ∧ hTeams h % hCrew h = 0) ∧
      (∀ k < 6, hW h k ≤ 32) ∧ hTeams h ≤ 2 ^ hW h 1 ∧ hW h 0 + hW h 1 + hW h 2 + hW h 3 + hW h 4 + hW h 5 ≤ 64) ∨
      grid ∧ ∃ k, 2 ≤ k ∧ k ≤ 5 ∧ (hExt h k = 0 ∨ 2 ^ hW h k < hExt h k)
  | 4 => 192 < needs h ∨ hRegs h = 0 ∨ 384 < hRegs h ∨ 16 < hAcc h ∨ hCrew h = 0 ∧ hAcc h ≠ 0
  | 5 => grid ∧ hGang h = true ∧ s.gangRoom ctx h = false
  | 6 => hTwin h = true ∧ (hCrew h = 0 ∨
      ∀ c < Config.cores, ¬ (s.assigned ctx c = true ∧ s.assigned ctx (c + 1) = true ∧ s.twinWorks c = true))
  | 8 => hHlock h ∉ [1, 2, 4] ∨ hHprom h ∉ [1, 2, 4] ∨ hHpermit h ∉ [1, 2, 3, 4] ∨ hEstate h = 0 ∨ 256 < hEstate h
  | 9 => hdrD h 7 % 4 ≠ 0 ∨ hdrD h 8 % 8 ≠ 0 ∨ hdrD h 10 % 8 ≠ 0 ∨ hdrD h 12 % 8 ≠ 0 ∨ hdrD h 13 % 8 ≠ 0 ∨
      hdrD h 14 % 8 ≠ 0 ∨ 2 ^ 56 < hdrD h 8 + hKsize h ∨ 2 ^ 56 < hdrD h 10 + hLsize h ∨ 2 ^ 56 < hdrD h 12 + hWsize h
  | 10 => ∀ c < Config.cores, s.couldHold ctx h c = false
  | _ => False

/-- A launch instruction reads its header (R265). -/
structure LaunchReady (s : State) (t : Team) (op : Nat) (f : VFields) (c : Context) (place : Nat → Nat) : Prop where
  poised : s.poised t = true
  checks : checkV s t op f = none
  noFault : t.acquireFault = none
  ready : s.releaseReady t 4 = true
  context : s.ctx? t.ctx = some c ∧ c.id = t.ctx
  aligned : (t.getS f.va.toNat).toNat % 128 = 0
  order : sectorwise place
  header : ∀ j < 128, byteStands s t.origin ((t.getS f.va.toNat).toNat + j) .read (place ((t.getS f.va.toNat).toNat + j))

/-- The launch is enqueued, and s[D] gets its identifier (R265, R319). -/
def isQueued (i : Instr) (s : State) (t : Team) (f : VFields) (c : Context) (h : List Dword) (phase : LaunchPhase) : Prop :=
  ∃ s' u, exec i s = .next s' ∧ s'.team? t.tid = some u ∧ s'.mem = s.mem ∧
    s'.launches = s.launches ++ [{ ctx := t.ctx, lid := c.nextLid, header := h, queue := (t.getS f.vb.toNat).toNat % 64
                                   seq := c.nextSeq, phase, since := (s.core 0).cyc }] ∧
    s'.ctx? t.ctx = some { c with
      nextLid := if c.nextLid = 2 ^ 32 - 1 then 1 else c.nextLid + 1, nextSeq := c.nextSeq + 1 } ∧
    t.writesS u fun n => if n = (f.vd.setWidth 7).toNat then some (BitVec.ofNat 64 c.nextLid) else none

/-- s[D] gets a rejection, and nothing else happens. -/
def isRejected (i : Instr) (s : State) (t : Team) (f : VFields) (code : Nat) : Prop :=
  SetsScalar i s t (f.vd.setWidth 7) (BitVec.ofNat 64 (0xFFFFFFFF00000000 + code))

/-- R106, R115: a team at its start; its handle is the one of its slot. -/
structure Starts (h : List Dword) (c : Context) (l : Launch) (p : Plot) (i : Nat) (u : Team) : Prop where
  place : u.ctx = c.id ∧ u.lid = l.lid ∧ u.plot = p.id ∧ u.index = i ∧ coreOf u.tid = p.core
  waits : (match u.run with | .pending => True | _ => False) ∧ (u.pc).toNat = hdrD h 7 ∧ u.clause = none ∧
    u.width = 2 ^ hLogw h ∧ u.regs = hRegs h
  scalars : ∀ n, u.getS n = if n < 16 then BitVec.allOnes 64 else 0
  vectors : ∀ r n, u.getV r n = 0
  clear : (∀ n, (u.flag n).count = 0 ∧ (u.flag n).soft = false) ∧ u.fsr = 0 ∧ u.rmode = 1 ∧ u.hold = 0 ∧ u.dbg = 0 ∧
    u.queues = [] ∧ u.estate = [] ∧ u.nbv.toNat = hNbv h ∧ u.key.toNat = hdrD h 6
  segments : (u.seg 0 = { base := 0, limit := 2 ^ 56 }) ∧
    ((u.seg 1).base.toNat = 16384 * p.scratchSlot ∧ (u.seg 1).limit.toNat = 16384 * hScratch h) ∧
    ((u.seg 2).base.toNat = hdrD h 8 ∧ (u.seg 2).limit.toNat = hKsize h) ∧ (u.seg 3).limit.toNat = 32 * hEstate h ∧
    (u.seg 4).limit.toNat = hTsize h ∧ ((u.seg 5).base.toNat = hdrD h 12 ∧ (u.seg 5).limit.toNat = hWsize h) ∧
    ((u.seg 6).base.toNat = hdrD h 10 ∧ (u.seg 6).limit.toNat = hLsize h) ∧
    (u.seg 7).base = c.qBase ∧ (u.seg 7).limit = c.qLimit
  whole : l.haltMark = false → u = newTeam h c l.lid p i u.tid u.since
  halts : l.haltMark = true → (match u.stop with | some .halted => True | _ => False) ∧ field u.haltRec 63 60 = 7

/-- The headgate reads and writes for a context on its supervisor's core. -/
def gateOrigin (c : Context) : Origin :=
  { tid := c.supervisor, ctx := c.id, lid := 0, core := coreOf c.supervisor, plot := 0, pc := 0, iword := 0, lit := 0
    issue := 0 }

/-- The core that R328 chooses among those that fit: none comes before it. -/
def chosen (s : State) (h : List Dword) (ok : Nat → Prop) (core : Nat) : Prop :=
  core < Config.cores ∧ ok core ∧ ∀ d < Config.cores, ok d → s.placeKey h core ≤ s.placeKey h d

/-- Teams of a launch. -/
def ofLaunch (t : Team) (l : Launch) : Bool := t.ctx == l.ctx && t.lid == l.lid

/-- The launch with this context and identifier. -/
def isLaunch (s : State) (l : Launch) : Prop := s.launch? l.ctx l.lid = some l

end Sys2Proof.Claims

/-- R264, R265, R266, R319 (LAUNCH, LAUNCHD): a header that breaks a rule is rejected with the lowest code that applies, a
sound one with code 7 if its queue is full, one that is not aligned with code 1; any other is enqueued and s[D] gets its
identifier. LAUNCHD keeps its dependence block, judges neither the extents nor code 10, which come after the fence, and its
launch waits for its fence. -/
def Sys2Proof.Claims.LaunchIsValidatedAndQueued : Prop :=
  (∀ (s : State) (t : Team) (f : VFields) (c : Context) (place : Nat → Nat), LaunchReady s t 0x280 f c place →
    let h := dwordsAt s place (t.getS f.va.toNat).toNat 16
    let full := 32 ≤ (s.queued t.ctx ((t.getS f.vb.toNat).toNat % 64)).length
    (∀ n, breaks s t.ctx h True n → (∀ m < n, ¬ breaks s t.ctx h True m) → isRejected (.launch f) s t f n) ∧
    ((∀ n, ¬ breaks s t.ctx h True n) → full → isRejected (.launch f) s t f 7) ∧
    ((∀ n, ¬ breaks s t.ctx h True n) → ¬ full → isQueued (.launch f) s t f c h .queued)) ∧
  (∀ (s : State) (t : Team) (f : VFields) (c : Context) (place : Nat → Nat), LaunchReady s t 0x281 f c place →
    let h := dwordsAt s place (t.getS f.va.toNat).toNat 16
    let b := (t.getS f.vc.toNat)
    let dep := dwordsAt s place b.toNat 5
    let full := 32 ≤ (s.queued t.ctx ((t.getS f.vb.toNat).toNat % 64)).length
    (b.toNat % 8 ≠ 0 → isRejected (.launchd f) s t f 1) ∧
    (b.toNat % 8 = 0 → (∀ j < 40, byteStands s t.origin (b.toNat + j) .read (place (b.toNat + j))) →
      (∀ n < 10, breaks s t.ctx h False n → (∀ m < n, ¬ breaks s t.ctx h False m) → isRejected (.launchd f) s t f n) ∧
      ((∀ n < 10, ¬ breaks s t.ctx h False n) → full → isRejected (.launchd f) s t f 7) ∧
      ((∀ n < 10, ¬ breaks s t.ctx h False n) → ¬ full →
        isQueued (.launchd f) s t f c h (.waitingFence b dep)))) ∧
  (∀ (s : State) (t : Team) (f : VFields) (c : Context), s.poised t = true → checkV s t 0x280 f = none →
    t.acquireFault = none → s.releaseReady t 4 = true → s.ctx? t.ctx = some c → (t.getS f.va.toNat).toNat % 128 ≠ 0 →
    isRejected (.launch f) s t f 1)

/-- R264, R266, R308 (LAUNCHD_FENCE_MET): with the fence word at its value the extents are those of the header, or where
GRIDA is not 0 the two dwords there, and RESULT gets what LAUNCH would write: the launch becomes eligible with them; with an
extent read through GRIDA that is 0 it has no plots, and ends with DONEW one up; it is discarded with code 3 where an extent
passes its width, is 0 in the header, or cannot be read, with code 5 where a gang has no room and with 10 where no core could
hold a plot. Below its value, or while the fence word's line waits for drains, nothing happens. -/
def Sys2Proof.Claims.FenceMakesALaunchEligible : Prop :=
  ∀ (s : State) (c : Context) (l : Launch) (block : Dword) (dep : List Dword) (place : Nat → Nat),
    isLaunch s l → s.arg.a = l.ctx → s.arg.b = l.lid → s.ctx? l.ctx = some c → c.id = l.ctx →
    l.phase = .waitingFence block dep → sectorwise place →
    let o := gateOrigin c
    let grida := hdrD dep 2
    (∀ j < 8, byteStands s o (hdrD dep 0 + j) .read (place (hdrD dep 0 + j))) →
    (∀ j < 8, byteStands s o (block.toNat + 32 + j) .write (place (block.toNat + 32 + j))) →
    let fence := ofBytes (bytesAt s place (hdrD dep 0) 8)
    let h := if grida = 0 then l.header else l.header.take 2 ++ dwordsAt s place grida 2 ++ l.header.drop 4
    let readable := grida ≠ 0 → ∀ j < 16, byteStands s o (grida + j) .read (place (grida + j))
    let wide := ∃ k, 2 ≤ k ∧ k ≤ 5 ∧ (2 ^ hW h k < hExt h k ∨ grida = 0 ∧ hExt h k = 0)
    let bare := ∃ k, 2 ≤ k ∧ k ≤ 5 ∧ hExt h k = 0
    let result := fun (w : Nat) => (block.toNat + 32, toBytes 8 w)
    let discarded := fun (code : Nat) => ∃ s' m, exec .launchdFenceMet s = .next s' ∧ s'.launch? l.ctx l.lid = some m ∧
      m.phase = .ended ∧ memWritten s s' place [result (0xFFFFFFFF00000000 + code)]
    ((fence < hdrD dep 1 ∨ s.fenceTagged c (hdrD dep 0) (hdrD dep 3 % 8) = true) → exec .launchdFenceMet s = .next s) ∧
    (hdrD dep 1 ≤ fence → s.fenceTagged c (hdrD dep 0) (hdrD dep 3 % 8) = false →
      (∀ e, grida ≠ 0 → s.translate o.port l.ctx grida .read = .fault e → discarded 3) ∧
      (readable → wide → discarded 3) ∧
      (readable → ¬ wide → bare → l.living = 0 → s.launchOpen l.ctx l.lid = false → hdrD l.header 14 % 8 = 0 →
        (hdrD l.header 14 ≠ 0 → byteStands s o (hdrD l.header 14) (.atomic true) (place (hdrD l.header 14))) →
        ∃ s' m, exec .launchdFenceMet s = .next s' ∧ s'.launch? l.ctx l.lid = some m ∧ m.phase = .ended ∧
          memWritten s s' place ((if hdrD l.header 14 = 0 then [] else
            [(hdrD l.header 14, toBytes 8 (ofBytes (bytesAt s place (hdrD l.header 14) 8) + 1))]) ++ [result l.lid])) ∧
      (readable → ¬ wide → ¬ bare → hGang h = true → s.gangRoom l.ctx h = false → discarded 5) ∧
      (readable → ¬ wide → ¬ bare → (hGang h = true → s.gangRoom l.ctx h = true) →
        (∀ d < Config.cores, s.couldHold l.ctx h d = false) → discarded 10) ∧
      (readable → ¬ wide → ¬ bare → (hGang h = true → s.gangRoom l.ctx h = true) →
        (∃ d < Config.cores, s.couldHold l.ctx h d = true) →
        ∃ s', exec .launchdFenceMet s = .next s' ∧
          s'.launch? l.ctx l.lid = some { l with phase := .queued, header := h, since := (s.core 0).cyc } ∧
          memWritten s s' place [result l.lid]))

/-- LAUNCH and LAUNCHD validate and queue; a fence makes a launch eligible. -/
def Obligations.LaunchesAreQueuedAndMadeEligible : Prop :=
  Claims.LaunchIsValidatedAndQueued ∧
  Claims.FenceMakesALaunchEligible

/-- R25, R106, R115, R278, R326 to R330 (PLOT_PLACEMENT, GANG_RESERVE, GANG_ABORT): the next plot of a launch whose turn
it is goes to the core that R328 puts first, with all its teams PENDING as they start; a gang takes its places one by one
and, with the last, is placed whole; a launch of higher priority that has become a head since the reservation began gives
back one that is not sticky. -/
def Obligations.PlotsArePlacedAndGangsReserved : Prop :=
  (∀ (s : State) (l : Launch) (c : Context) (core : Nat) (slots : List (Nat × Nat)), isLaunch s l → s.arg.a = l.ctx →
    s.arg.b = l.lid → s.ctx? l.ctx = some c → c.id = l.ctx → (l.phase = .queued ∨ l.phase = .placing) →
    (hGang l.header = true → l.phase = .placing) → l.killed = false → s.hasTurn l = true →
    (∀ m ∈ s.aborters, ¬ (m.ctx = l.ctx ∧ m.lid = l.lid)) →
    chosen s l.header (fun d => s.fits l.ctx l.header d = true ∧ s.leaves l d = true) core →
    takeSlots (hTeams l.header) (s.usedOn (hCores l.header core)) = some slots →
    ∃ s' p us ts cs m, exec .plotPlacement s = .next s' ∧ s'.plots = s.plots ++ [p] ∧ s'.teams = us ++ ts ∧
      us.length = s.teams.length ∧ (∀ (i : Nat) (u w : Team), s.teams[i]? = some u → us[i]? = some w →
        w = { u with monitor := w.monitor, run := w.run } ∧ (u.monitor = .none_ → w = u)) ∧
      s'.crews = s.crews ++ cs ∧ cs.length = hCrews l.header ∧
      p = { id := s.nextId, ctx := l.ctx, lid := l.lid, core, index := l.placed, coords := plotCoords l.header l.placed
            teams := hTeams l.header, scratchSlot := s.scratchRun (hCores l.header core) (hScratch l.header), scratchGranules := hScratch l.header
            granules := hGranules l.header, abandoned := l.abandoned } ∧
      ts.length = hTeams l.header ∧ slots.length = hTeams l.header ∧
      (∀ i, ∀ u, ts[i]? = some u → Starts l.header c l p i u ∧ slots[i]? = some (partOf u.tid, slotOf u.tid)) ∧
      s'.launch? l.ctx l.lid = some m ∧ m.placed = l.placed + 1 ∧ m.living = l.living + hTeams l.header ∧
      m.header = l.header ∧ m.phase = if hPlots l.header ≤ l.placed + 1 then .running else .placing) ∧
  (∀ (s : State) (l : Launch) (c : Context) (core : Nat) (slots : List (Nat × Nat))
    (ps : List (Nat × List (Nat × Nat))), isLaunch s l → s.arg.a = l.ctx → s.arg.b = l.lid → s.ctx? l.ctx = some c →
    l.phase = .reserving ps → s.gang = some (l.ctx, l.lid) → l.killed = false →
    s.aborters = [] → chosen s l.header (fun d => s.fits l.ctx l.header d = true ∧ s.gangLeaves l d = true) core →
    takeSlots (hTeams l.header) (s.usedOn (hCores l.header core)) = some slots →
    (ps.length + 1 < hPlots l.header → ∃ s', exec .gangReserve s = .next s' ∧ s'.teams = s.teams ∧ s'.plots = s.plots ∧
      s'.gang = s.gang ∧
      s'.launch? l.ctx l.lid = some { l with phase := .reserving (ps ++ [(core, slots)]), front := false }) ∧
    (hPlots l.header ≤ ps.length + 1 → ∃ s' qs m, exec .gangReserve s = .next s' ∧ s'.gang = none ∧
      s'.plots = s.plots ++ qs ∧ qs.map Plot.core = (ps ++ [(core, slots)]).map Prod.fst ∧
      s'.launch? l.ctx l.lid = some m ∧ m.phase = .running ∧ m.placed = l.placed + qs.length)) ∧
  (∀ (s : State) (l : Launch), isLaunch s l → s.gang = some (l.ctx, l.lid) →
    let newer := fun (m : Launch) => m ∈ s.heads ∧ hPrio l.header < hPrio m.header ∧ (m.ctx, m.lid) ∉ s.gangHeads
    ((∃ m, newer m) → l.aborts < 4 → exec .gangAbort s = .next ({ s with gang := none }.modLaunch l.ctx l.lid fun x =>
      { x with phase := .queued, front := true, aborts := l.aborts + 1 })) ∧
    (4 ≤ l.aborts ∨ (∀ m, ¬ newer m) → exec .gangAbort s = .next s))

namespace Sys2Proof.Claims

open Sys2Proof Sys2Proof.Machine

/-- R389: bytes of a record of a launch's image. -/
def recordBytes (h : List Dword) : ImageOf → Nat
  | .plot _ => 256 + hScratch h * 16384
  | .crew _ => 1024 + hAcc h * 25088
  | .team _ => 4096 + hRegs h * 2 ^ hLogw h * 4 + 2 ^ hLogw h * 8 + 8 * 2 ^ hLogw h * 4

/-- R353: a pre-emption takes a team along unless its death was accepted before the request. -/
def goesAlong (t : Team) : Prop := ∀ d, t.dying = some d → d.inSave = true

/-- A team as it is saved (R128, R336, R338): one that was told to stop is HALTED. -/
def savedAs (t : Team) : Team :=
  let u := match t.stop with | some (.stopping _ _ _) => t.haltWith 0 | _ => t
  { u with
    preempted := true, preempts := t.preempts + 1, arrived := none, leaveAtEnd := false
    held := match u.held with | some (.collective, _) => none | x => x }

end Sys2Proof.Claims

/-- R128, R208, R299, R317, R335 to R337, R389 (HEADGATE_PREEMPTION, PREEMPTION_SAVE, RESTORE): after 32,000 cycles (log
entry 29: 20 µs) a head launch takes the youngest launch that would make room and whose image fits in the save area, whose
teams stop issuing and whose monitors end with status 2, each record of its image having its bytes there; where no such image
fits each is reported. Once nothing of it is under way on a core, its image there is written, its teams are PREEMPTED and its
granules free, and with the last core the launch is; no byte outside the image changes. In its turn it is restored whole, and
its image is given up. -/
def Obligations.LaunchIsPreemptedAndRestored : Prop :=
  (∀ (s : State) (l : Launch), isLaunch s l → s.arg.a = l.ctx → s.arg.b = l.lid →
    (l.phase = .queued ∨ l.phase = .placing) → s.isHead l = true →
    ((s.core 0).cyc < l.since + 32000 → exec .headgatePreemption s = .next s) ∧
    (l.since + 32000 ≤ (s.core 0).cyc →
      (∀ v, isLaunch s v → v ∈ s.victims l → s.imageFits v = true → (∀ w ∈ s.victims l, w = v ∨ w.seq < v.seq) →
        v.seq < 2 ^ 64 → ∃ s' m, exec .headgatePreemption s = .next s' ∧ s'.mem = s.mem ∧
          s'.teams = (s.teams.map fun t => if ofLaunch t v then t.endArm 2 else t) ∧
          s'.launch? v.ctx v.lid = some m ∧
          m = { v with phase := .saving, midPlacement := m.midPlacement, image := m.image } ∧
          (m.midPlacement = true ↔ v.placed < hPlots v.header) ∧
          ∀ p ∈ m.image, (p.runs.map Prod.snd).sum = recordBytes v.header p.of_) ∧
      ((∀ v ∈ s.victims l, s.imageFits v = false) → exec .headgatePreemption s = .next
        ((s.victims l).foldl (fun (x : State) v => x.report v.ctx 4 0 0 0 v.lid) s)))) ∧
  (∀ (s : State) (l : Launch) (taken : Plot → Prop), isLaunch s l → s.arg.a = l.ctx → s.arg.b = l.lid → l.phase = .saving →
    (∀ p, taken p ↔ p.ctx = l.ctx ∧ p.lid = l.lid ∧ p.saved = false ∧ p.core = s.arg.c ∧
      ∃ t ∈ s.teams, t.plot = p.id ∧ goesAlong t) →
    (∀ t ∈ s.teams, (∃ p ∈ s.plots, taken p ∧ t.plot = p.id) → goesAlong t → s.savable t = true) →
    (∀ k ∈ s.crews, s.crewRuns k = none) → s.arms = [] → ∃ s', exec .preemptionSave s = .next s' ∧
      (∀ x, (∀ p ∈ l.image, ∀ r ∈ p.runs, x < r.1 ∨ r.1 + r.2 ≤ x) → memByte s'.mem x = memByte s.mem x) ∧
      s'.teams.length = s.teams.length ∧ s'.plots.length = s.plots.length ∧
      (∀ (n : Nat) (t u : Team), s.teams[n]? = some t → s'.teams[n]? = some u →
        ((∃ p ∈ s.plots, taken p ∧ t.plot = p.id) ∧ goesAlong t → u = savedAs t) ∧
        (¬ ((∃ p ∈ s.plots, taken p ∧ t.plot = p.id) ∧ goesAlong t) → u = t)) ∧
      (∀ (n : Nat) (p q : Plot), s.plots[n]? = some p → s'.plots[n]? = some q → (∀ x ∈ s.plots, x.id = p.id → x = p) →
        (taken p → q = { p with saved := true }) ∧ (¬ taken p → q = p)) ∧
      ((∀ p ∈ s.plots, p.ctx = l.ctx → p.lid = l.lid → p.saved = false → (∃ t ∈ s.teams, t.plot = p.id ∧ goesAlong t) →
          p.core = s.arg.c) → s'.launch? l.ctx l.lid = some { l with phase := .preempted }) ∧
      ((∃ p ∈ s.plots, p.ctx = l.ctx ∧ p.lid = l.lid ∧ p.saved = false ∧ p.core ≠ s.arg.c ∧
          (∀ x ∈ s.plots, x.id = p.id → x = p) ∧ ∃ t ∈ s.teams, t.plot = p.id ∧ goesAlong t) →
        s'.launch? l.ctx l.lid = some l)) ∧
  (∀ (s : State) (l : Launch) (c : Context), isLaunch s l → s.arg.a = l.ctx → s.arg.b = l.lid → l.phase = .preempted →
    s.ctx? l.ctx = some c → s.hasTurn l = true → s.restorable l = true → s.before l = [] → l.living ≠ 0 →
    (s.teams.map Team.tid).Nodup → (∀ p ∈ l.image, s.poisonedParts p = []) →
    (∀ t ∈ s.teams, ofLaunch t l = true → t.preempted = true ∧ t.deferred = [] ∧ t.stop = none ∧ t.dying = none ∧
      (t.woken = true → t.run = .parked .retry (some .done))) →
    ∃ s' m, exec .restore s = .next s' ∧ s'.mem = s.mem ∧ s'.launch? l.ctx l.lid = some m ∧
      m = { l with phase := if l.midPlacement then .placing else .running, midPlacement := false, image := [] } ∧
      s'.lastCtx = l.ctx ∧ s'.ctx? l.ctx = some { c with lastQueue := l.queue } ∧
      s'.plots = (s.plots.map fun p => if p.id ∈ (s.plotsOf l.ctx l.lid).map Plot.id then { p with saved := false } else p) ∧
      ∀ t ∈ s.teams, ∃ u, s'.team? t.tid = some u ∧ (ofLaunch t l = false → u = t) ∧
        (ofLaunch t l = true → (s'.core (coreOf t.tid)).cache = [] ∧
          (t.woken = false → u = { t with preempted := false, since := s.now t, run := u.run } ∧
            (u.run = t.run ∨ t.run = .active ∧ u.run = .pending)) ∧
          (t.woken = true → u = { t with
            preempted := false, since := s.now t, run := .pending, leaveAtEnd := false })))

namespace Sys2Proof.Claims

open Sys2Proof Sys2Proof.Machine

/-- A team that becomes ACTIVE (R36): its time counts from now, as does that of a hold that it stands in. -/
def promoted (s : State) (t : Team) : Team :=
  { t with
    run := .active, since := s.now t, forced := false, leaveAtEnd := false, held := t.held.map fun h => (h.1, s.now t) }

end Sys2Proof.Claims

/-- R36, R38, R331, R332 (TEAM_PROMOTE, FORCED_PROMOTION, HOLD_SWAP, FORCED_ACTIVE_PLACE): a free place goes to the
pending team that has waited longest among those that may take it; a team held for 96 cycles, and still held, is swapped with that team;
for a team that has waited 3,072 cycles the team longest ACTIVE leaves, at once where it is held, else at the end of its
clause. -/
def Obligations.PlacesGoToTheLongestWaiting : Prop :=
  (∀ (s : State) (t : Team) (i : Instr), s.team? s.arg.tid = some t → t ∈ s.promotable (coreOf t.tid) (partOf t.tid) →
    s.placeFree (coreOf t.tid) (partOf t.tid) = true →
    (∀ u ∈ s.promotable (coreOf t.tid) (partOf t.tid), t.since ≤ u.since) →
    (i = .teamPromote ∧ s.eligible t = true ∨ i = .forcedPromotion ∧ t.since + 2048 ≤ s.now t) →
    CompletesAs i s (promoted s t)) ∧
  (∀ (s : State) (t u : Team) (h : Hold) (n : Nat), s.team? s.arg.tid = some t → s.team? u.tid = some u →
    t.isActive = true → t.held = some (h, n) → h.swaps = true → s.waitStands t h = true → n + 96 ≤ s.now t →
    u ∈ s.promotable (coreOf t.tid) (partOf t.tid) →
    (∀ w ∈ s.promotable (coreOf t.tid) (partOf t.tid), w = u ∨ u.since < w.since) →
    ∃ s', exec .holdSwap s = .next s' ∧ s'.mem = s.mem ∧
      s'.team? t.tid = some { t with run := .pending, since := s.now t, leaveAtEnd := false } ∧
      s'.team? u.tid = some (promoted s u)) ∧
  (∀ (s : State) (t a : Team), s.team? s.arg.tid = some t → s.team? a.tid = some a → t.isPending = true → t.dying = none →
    t.since + 3072 ≤ s.now t → s.placeFree (coreOf t.tid) (partOf t.tid) = false → t.forced = false →
    a ∈ s.actives (coreOf t.tid) (partOf t.tid) →
    (∀ w ∈ s.actives (coreOf t.tid) (partOf t.tid), w = a ∨ a.since < w.since) →
    ∃ s', exec .forcedActivePlace s = .next s' ∧ s'.mem = s.mem ∧ s'.team? t.tid = some { t with forced := true } ∧
      (s.isHeld a = true → s'.team? a.tid = some { a with run := .pending, since := s.now a, leaveAtEnd := false }) ∧
      (s.isHeld a = false → s'.team? a.tid = some { a with leaveAtEnd := true }))

/-! ## Debugging -/

namespace Sys2Proof.Claims

open Sys2Proof Sys2Proof.Machine

/-- R267: the register names a team of the asker's context. -/
def names (s : State) (t : Team) (r : BitVec 9) (u : Team) : Prop :=
  s.team? ((t.getS r.toNat).setWidth 32) = some u ∧ u.ctx = t.ctx

/-- R267: it names none: a stale handle, or a team of another context. -/
def namesNone (s : State) (t : Team) (r : BitVec 9) : Prop :=
  ∀ u, s.team? ((t.getS r.toNat).setWidth 32) = some u → u.ctx ≠ t.ctx

/-- A halted team whose death has not been accepted. -/
def halted (u : Team) : Prop := u.preempted = false ∧ u.dying = none ∧ u.stop = some .halted

/-- The destination. -/
def vdReg (f : VFields) : BitVec 7 := f.vd.setWidth 7

/-- The instruction writes s[D] and s[D + 1], and nothing else in the machine changes. -/
def SetsTwo (i : Instr) (s : State) (t : Team) (d : BitVec 7) (x y : Dword) : Prop :=
  ∃ u, CompletesAs i s u ∧ t.writesS u fun n =>
    if n = (d + 1).toNat then some y else if n = d.toNat then some x else none

/-- The issuing team gets x in s[D], team u becomes w, and no other team and no memory changes. -/
def actsOn (i : Instr) (s : State) (t : Team) (d : BitVec 7) (x : Dword) (u w : Team) : Prop :=
  ∃ s', exec i s = .next s' ∧ s'.team? t.tid = some (t.gone.setS d.toNat x) ∧ s'.team? u.tid = some w ∧ s'.mem = s.mem ∧
    ∀ h, h ≠ t.tid → h ≠ u.tid → s'.team? h = s.team? h

/-- R269: the value of an item of a halted team; none for status 18. -/
def itemRule (s : State) (u : Team) (x : Dword) : Option Dword :=
  let sub := field x 23 8
  let lane := field x 41 32
  match field x 7 0 with
  | 0 => if sub < u.regs ∧ lane < u.width then some ((u.getV sub lane).setWidth 64) else none
  | 1 => if sub < 128 then some (u.getS sub) else none
  | 2 => sgetRule s u sub
  | 3 => if sub < 16 then some (u.hold.extractLsb' (64 * sub) 64) else none
  | 4 => some (BitVec.ofNat 64 ((List.range 12).map fun n =>
      (if (u.flag n).soft || decide ((u.flag n).count ≠ 0) then 2 ^ n else 0) +
        if (u.flag n).soft then 2 ^ (n + 12) else 0).sum)
  | 5 => some (match u.clause with | some c => c.addr | none => u.pc)
  | 6 => some (BitVec.ofNat 64 (u.idxNo + 256 * u.issueNo))
  | 7 => if sub < 8 then some (u.seg sub).base else none
  | 8 => if sub < 8 then some (u.seg sub).limit else none
  | 9 => if lane < u.width then some (u.getCtr lane) else none
  | 10 => some u.haltRec
  | _ => none

/-- R269: a halted team with an item written; or the status that says why it is not. -/
def pokeRule (s : State) (sup : Bool) (u : Team) (x v : Dword) : Team ⊕ Nat :=
  let sub := field x 23 8
  let lane := field x 41 32
  match field x 7 0 with
  | 0 => if sub < u.regs ∧ lane < u.width then .inl (u.setV sub lane (v.setWidth 32)) else .inr 18
  | 1 => if sub < 128 then .inl (u.setS sub v) else .inr 18
  | 2 =>
    if 3 ≤ sub ∧ sub ≤ 6 then .inr 19
    else match ssetRule { u with retired := false } v sub with | some w => .inl { w with retired := u.retired } | none => .inr 18
  | 3 =>
    if sub < 16 then
      .inl { u with hold := BitVec.ofNat 1024 (setBits u.hold.toNat (64 * sub + 63) (64 * sub) v.toNat % 2 ^ u.width) }
    else .inr 18
  | 4 => .inl ((List.range 12).foldl (fun w n => w.modFlag n fun g => { g with soft := v.getLsbD (n + 12) }) u)
  | 5 => .inl { u with pc := v, clause := none, arrived := none, pcSeen := false }
  | 7 => segRule { u.seg sub with base := v } sub
  | 8 => segRule { u.seg sub with limit := v } sub
  | 9 => if lane < u.width then .inl { u with ctr := spWrite 0 u.ctr lane v } else .inr 18
  | 6 | 10 => .inr 19
  | _ => .inr 18
where
  /-- A segment, by the supervisor, under the checks of R116. -/
  segRule (g : Segment) (sub : Nat) : Team ⊕ Nat :=
    if sup = false then .inr 19
    else if sub < 8 ∧ s.segmentOk u sub g.base g.limit = true then .inl { u with segs := spWrite {} u.segs sub g }
    else .inr 18

/-- What a halted team has issued stands in its registers already (R368, R379). -/
def atRest (s : State) (u : Team) : Prop := u.datapath = none ∧ u.hadamard = none ∧ s.dividing u = false

/-- A read of a halted team's register gives the register's value: no delivery, no run of a matrix operation and no RPUT
before a wait leaves it undefined (R84, R109, R238). -/
def readsAsIs (s : State) (u : Team) : Prop :=
  s.undelivered u.tid = [] ∧ s.runRegs u = [] ∧ ∀ r ∈ s.rputs, r.tid ≠ u.tid

/-- No deferred failure waits for the team, and if its park has ended it was a park for the retry ring (R36, R390). -/
def resumesPlainly (w : Team) : Prop := w.deferred = [] ∧ (w.woken = true → w.run = .parked .retry (some .done))

/-- A team resumed (R36, R363, R369): PARKED where its park's wake condition has not occurred, else PENDING. -/
def goesOn (s : State) (u : Team) : Team :=
  let v := { u with stop := none, exempt := true, since := (s.core (coreOf u.tid)).cyc }
  if u.woken then { v with run := .pending, leaveAtEnd := false } else v

/-- R271: a team is in the unit of a target that a scope names. -/
def inScope (scope : Nat) (u w : Team) : Prop :=
  (scope = 0 → w.tid = u.tid) ∧ (scope = 1 → w.plot = u.plot) ∧ (scope = 2 → w.ctx = u.ctx ∧ w.lid = u.lid)

/-- R355: a value that WCTL takes. -/
def wctlFits (x : Dword) : Prop :=
  let kind := field x 59 57
  let cmp := field x 55 52
  let fmt := field x 51 48
  field x 62 60 ≤ 6 ∧ kind ≤ 5 ∧ (kind = 2 → field x 56 56 = 1) ∧ (cmp ≤ 7 ∨ cmp = 15) ∧ (kind = 4 → cmp = 0) ∧
  (kind = 0 ∨ kind = 4 ∨ kind = 5 → fmt = 0) ∧ (kind ≠ 4 → field x 47 40 = 0) ∧ (fmt ≠ 15 → field x 39 38 = 0) ∧
  field x 33 32 ≤ 2 ∧ (field x 33 32 = 0 → field x 31 0 = 0) ∧ ¬ (cmp = 7 ∧ fmt = 0)

/-- R268: the selector names weir n of a core and its register r. -/
def selects (t : Team) (x : Dword) (core r n : Nat) : Prop :=
  x.toNat < 2 ^ 16 ∧ field x 7 6 = 0 ∧ r = field x 5 4 ∧ n = field x 3 0 ∧
  (field x 15 8 = 255 ∧ core = coreOf t.tid ∨ field x 15 8 ≠ 255 ∧ core = field x 15 8 ∧ core < Config.cores)

/-- The weir is claimed by another context. -/
def claimedElsewhere (w : Weir) (ctx : Nat) : Prop := ∃ c, w.owner = some c ∧ c ≠ ctx

/-- WSET changes one weir of one core, s[D] gets 0, and no other weir, team or memory changes. -/
def setsWeir (s : State) (t : Team) (f : VFields) (core n : Nat) (w : Weir) : Prop :=
  ∃ s', exec (.wset f) s = .next s' ∧ s'.team? t.tid = some (t.gone.setS (vdReg f).toNat 0) ∧ s'.weir core n = w ∧
    (∀ c m, c ≠ core ∨ m ≠ n → s'.weir c m = s.weir c m) ∧ s'.mem = s.mem ∧
    ∀ h, h ≠ t.tid → s'.team? h = s.team? h

end Sys2Proof.Claims

/-- R268, R355, R356, R357 (WSET, WGET): a selector out of range gives status 18, a weir of another context 20, a value
that WCTL does not take 18, and a register of a free weir 19, with nothing written; WCTL with Enable set claims the weir,
without it frees it; WGET reads the register. -/
def Sys2Proof.Claims.WeirRegistersAreSetAndRead : Prop :=
  (∀ (s : State) (t : Team) (f : VFields), s.poised t = true → checkV s t 0x288 f = none →
    let sel := t.getS f.va.toNat
    let x := t.getS f.vb.toNat
    ((∀ c r n, ¬ selects t sel c r n) → SetsScalar (.wset f) s t (vdReg f) 18) ∧
    (∀ c r n, selects t sel c r n →
      (claimedElsewhere (s.weir c n) t.ctx → SetsScalar (.wset f) s t (vdReg f) 20) ∧
      (¬ claimedElsewhere (s.weir c n) t.ctx →
        (r = 0 → ¬ wctlFits x → SetsScalar (.wset f) s t (vdReg f) 18) ∧
        (r = 0 → wctlFits x → x.getLsbD 63 = true →
          setsWeir s t f c n { s.weir c n with ctl := x, owner := some t.ctx }) ∧
        (r = 0 → wctlFits x → x.getLsbD 63 = false →
          setsWeir s t f c n { ctl := x, lo := 0, hi := 0, hit := 0, owner := none }) ∧
        (r ≠ 0 → (s.weir c n).owner = none → SetsScalar (.wset f) s t (vdReg f) 19) ∧
        (r ≠ 0 → (s.weir c n).owner ≠ none → setsWeir s t f c n
          { s.weir c n with
            lo := if r = 1 then x else (s.weir c n).lo
            hi := if r = 2 then x else (s.weir c n).hi
            hit := if r = 3 then x else (s.weir c n).hit })))) ∧
  (∀ (s : State) (t : Team) (f : VFields), s.poised t = true → checkV s t 0x289 f = none →
    let sel := t.getS f.va.toNat
    ((∀ c r n, ¬ selects t sel c r n) → SetsTwo (.wget f) s t (vdReg f) 0 18) ∧
    (∀ c r n, selects t sel c r n →
      (claimedElsewhere (s.weir c n) t.ctx → SetsTwo (.wget f) s t (vdReg f) 0 20) ∧
      (¬ claimedElsewhere (s.weir c n) t.ctx → SetsTwo (.wget f) s t (vdReg f)
        (if r = 0 then (s.weir c n).ctl else if r = 1 then (s.weir c n).lo
         else if r = 2 then (s.weir c n).hi else (s.weir c n).hit) 0)))

/-- R267, R269 (HINSP, HPOKE): no such team gives status 16, one that is not HALTED 17, an item out of range 18, one that
may not be written 19; HINSP reads the item, and HPOKE writes it and nothing else. -/
def Sys2Proof.Claims.HaltedTeamIsInspectedAndChanged : Prop :=
  (∀ (s : State) (t : Team) (f : VFields), s.poised t = true → checkV s t 0x28A f = none →
    (namesNone s t f.va → SetsTwo (.hinsp f) s t (vdReg f) 0 16) ∧
    (∀ u, names s t f.va u → ¬ halted u → SetsTwo (.hinsp f) s t (vdReg f) 0 17) ∧
    (∀ u, names s t f.va u → halted u → atRest s u → readsAsIs s u →
      SetsTwo (.hinsp f) s t (vdReg f) ((itemRule s u (t.getS f.vb.toNat)).getD 0)
        (if (itemRule s u (t.getS f.vb.toNat)).isSome then 0 else 18))) ∧
  (∀ (s : State) (t : Team) (f : VFields), s.poised t = true → checkV s t 0x28B f = none →
    (namesNone s t f.va → SetsScalar (.hpoke f) s t (vdReg f) 16) ∧
    (∀ u, names s t f.va u → ¬ halted u → SetsScalar (.hpoke f) s t (vdReg f) 17) ∧
    (∀ u n, names s t f.va u → halted u → atRest s u →
      pokeRule s (s.isSup t) u (t.getS f.vb.toNat) (t.getS f.vc.toNat) = .inr n →
      SetsScalar (.hpoke f) s t (vdReg f) (BitVec.ofNat 64 n)) ∧
    (∀ u w, names s t f.va u → halted u → atRest s u →
      pokeRule s (s.isSup t) u (t.getS f.vb.toNat) (t.getS f.vc.toNat) = .inl w →
      actsOn (.hpoke f) s t (vdReg f) 0 u w))

/-- WSET, WGET, HINSP and HPOKE read and write what they name. -/
def Obligations.WeirsAndHaltedTeamsAreReadAndWritten : Prop :=
  Claims.WeirRegistersAreSetAndRead ∧
  Claims.HaltedTeamIsInspectedAndChanged

/-- R124, R267, R271, R363, R369 (HRESUME, HKILL, LRELEASE): HRESUME lets every halted team of the unit go on and tells
their number; HKILL accepts the death of a halted team; LRELEASE clears one HOLD bit; each tells 16 for no such team and
17 for one that does not stand as it must. -/
def Sys2Proof.Claims.HaltedTeamsAreResumedKilledAndReleased : Prop :=
  (∀ (s : State) (t : Team) (f : VFields), s.poised t = true → checkV s t 0x28D f = none →
    (namesNone s t f.va → SetsScalar (.hresume f) s t (vdReg f) 16) ∧
    (∀ u, names s t f.va u → f.fn.toNat % 4 = 0 → ¬ halted u → SetsScalar (.hresume f) s t (vdReg f) 17) ∧
    (∀ (u : Team) (hs : List Handle), names s t f.va u → f.fn.toNat % 4 < 3 → (f.fn.toNat % 4 = 0 → halted u) →
      (s.teams.map Team.tid).Nodup → (∀ w ∈ s.teams, w.tid ∈ hs → resumesPlainly w) → hs.Nodup → (∀ h, h ∈ hs ↔ ∃ w ∈ s.teams, w.tid = h ∧ halted w ∧ inScope (f.fn.toNat % 4) u w) →
      ∃ s', exec (.hresume f) s = .next s' ∧ s'.mem = s.mem ∧
        s'.team? t.tid = some (t.gone.setS (vdReg f).toNat (BitVec.ofNat 64 hs.length)) ∧
        (∀ w ∈ s.teams, w.tid ∈ hs → s'.team? w.tid = some (goesOn s w)) ∧
        (∀ w ∈ s.teams, w.tid ∉ hs → w.tid ≠ t.tid → s'.team? w.tid = some w) ∧
        (f.fn.toNat % 4 = 2 → ∀ l, s'.launch? u.ctx u.lid = some l → l.haltMark = false))) ∧
  (∀ (s : State) (t : Team) (f : VFields), s.poised t = true → checkV s t 0x28E f = none →
    (namesNone s t f.va → SetsScalar (.hkill f) s t (vdReg f) 16) ∧
    (∀ u, names s t f.va u → ¬ halted u → SetsScalar (.hkill f) s t (vdReg f) 17) ∧
    (∀ u, names s t f.va u → halted u → ∃ s' w, exec (.hkill f) s = .next s' ∧
      s'.team? t.tid = some (t.gone.setS (vdReg f).toNat 0) ∧ s'.team? u.tid = some w ∧
      w.dying = some { killed := true, group := s.nextId, inSave := s.launchSaving u } ∧
      w.estate = u.estate ∧ s'.mem = s.mem)) ∧
  (∀ (s : State) (t : Team) (f : VFields), s.poised t = true → checkV s t 0x28F f = none →
    let lane := field (t.getS f.vb.toNat) 9 0
    (namesNone s t f.va → SetsScalar (.lrelease f) s t (vdReg f) 16) ∧
    (∀ u, names s t f.va u → u.preempted = true → SetsScalar (.lrelease f) s t (vdReg f) 17) ∧
    (∀ u, names s t f.va u → u.preempted = false → u.width ≤ lane → SetsScalar (.lrelease f) s t (vdReg f) 18) ∧
    (∀ u, names s t f.va u → u.preempted = false → lane < u.width → u.tid ≠ t.tid → ∃ w,
      actsOn (.lrelease f) s t (vdReg f) 0 u w ∧ w = { u with hold := w.hold } ∧
      ∀ l, w.hold.getLsbD l = if l = lane then false else u.hold.getLsbD l))

/-- R36, R270, R362, R366, R368 (HSTEP, HSTEP_END, STEP_LIMIT, TEAM_HALT_STOP): HSTEP resumes the target alone, holds the
issuing team, and is over at once for a parked target; at the count, or after 4,096 instructions without the focus lane,
the target, once what it has issued has completed, is HALTED with its record and the outcome is written; a team told to stop becomes HALTED with its record. -/
def Sys2Proof.Claims.StepsAndStopsEndInHalts : Prop :=
  (∀ (s : State) (t : Team) (f : VFields), s.poised t = true → checkV s t 0x28C f = none →
    (∀ u ∈ s.teams, ∀ st, u.stepping = some st → st.by_ ≠ some t.tid) →
    let x := t.getS f.vb.toNat
    (namesNone s t f.va → SetsScalar (.hstep f) s t (vdReg f) 16) ∧
    (∀ u, names s t f.va u → ¬ halted u → SetsScalar (.hstep f) s t (vdReg f) 17) ∧
    (∀ u, names s t f.va u → halted u → (field x 47 32 = 0 ∨ u.width ≤ field x 9 0) →
      SetsScalar (.hstep f) s t (vdReg f) 18) ∧
    (∀ u, names s t f.va u → halted u → resumesPlainly u → 0 < field x 47 32 → field x 9 0 < u.width → ∃ s' st n, exec (.hstep f) s = .next s' ∧
      s'.team? t.tid = some { t with held := some (.debug, n) } ∧
      s'.team? u.tid = some { goesOn s u with stepping := some st } ∧
      st = { by_ := some t.tid, mailbox := 0, sd := vdReg f, focus := field x 9 0, left := field x 47 32
             outcome := st.outcome } ∧
      st.outcome = match u.run with | .parked _ _ => if u.woken then none else some 4 | _ => none)) ∧
  (∀ (s : State) (t a : Team) (st : Stepping) (n : Nat), s.team? s.arg.tid = some t → t.stepping = some st →
    st.outcome = some n → st.by_ = some a.tid → s.team? a.tid = some a → a.tid ≠ t.tid → Quiet a →
    t.stop ≠ some .halted →
    (¬ atRest s t → exec .hstepEnd s = .next s) ∧
    (atRest s t → ∃ s' u, exec .hstepEnd s = .next s' ∧ s'.team? a.tid = some (a.gone.setS st.sd.toNat (BitVec.ofNat 64 n)) ∧
      s'.team? t.tid = some u ∧ u.stop = some .halted ∧ u.stepping = none ∧ u.pc = t.pc ∧ u.clause = t.clause ∧
      u.s = t.s ∧ u.v = t.v ∧ s'.mem = s.mem ∧ u.run = (match t.run with | .active => .pending | r => r) ∧
      u.haltRec = (match t.stop with
        | some (.stopping r _ _) => r
        | _ => if n = 0 ∨ n = 1 then BitVec.ofNat 64 ((5 + n) * 2 ^ 60 + st.focus * 2 ^ 38 + t.tid.toNat) else t.haltRec))) ∧
  (∀ (s : State) (t : Team) (st : Stepping), s.team? s.arg.tid = some t → t.stepping = some st → st.outcome = none →
    4096 ≤ st.idle → CompletesAs .stepLimit s { t with stepping := some { st with outcome := some 1 } }) ∧
  (∀ (s : State) (t : Team) (r : Dword) (n : Nat) (b : Bool), s.team? s.arg.tid = some t →
    t.stop = some (.stopping r n b) → t.held = none → s.dividing t = false → t.stepping = none →
    ∃ u, CompletesAs .teamHaltStop s u ∧ u.stop = some .halted ∧ u.haltRec = r ∧ u.pc = t.pc ∧ u.clause = t.clause ∧
      u.s = t.s ∧ u.v = t.v ∧ u.run = match t.run with | .active => .pending | k => k)

/-- HRESUME, HKILL, LRELEASE, HSTEP and the ends of steps. -/
def Obligations.HaltedTeamsGoOnStepAndEnd : Prop :=
  Claims.HaltedTeamsAreResumedKilledAndReleased ∧
  Claims.StepsAndStopsEndInHalts

/-! ## The service of faults -/

namespace Sys2Proof.Claims

open Sys2Proof Sys2Proof.Machine

/-- A run of bytes at a Q offset of a context can be written, each byte at its place (R384). -/
def qStands (s : State) (c : Context) (place : Nat → Nat) (off n : Nat) : Prop :=
  ∀ j < n, byteStands s (gateOrigin c) (c.qBase.toNat + off + j) .write (place (c.qBase.toNat + off + j))

/-- R324: the retry-ring header. -/
def retryBytes (c : Context) : List Byte :=
  dwordBytes [c.written, c.popped, c.resolved, 0x1800040 * 2 ^ 32 + 1024, c.heldCount, 0, 0, 0]

/-- R324: the store-fault header. -/
def storeBytes (c : Context) : List Byte :=
  dwordBytes [c.sfWritten, c.sfPopped, c.sfResolved, 4096, c.sfHeld, 0, 0, 0]

/-- The numbers of a fault fit the fields of R385 and R387. -/
def fieldsFit (e : Held) : Prop :=
  e.origin.lid < 2 ^ 32 ∧ e.origin.issue < 64 ∧ e.cause < 256 ∧ e.originCode < 8 ∧ e.lanes.length ≤ 1024 ∧ e.lane < 1024 ∧
  e.dest < 512 ∧ e.page < 2 ^ 64 ∧ e.engAddr < 2 ^ 64

/-- R385: the first eight dwords of a retry-ring entry. -/
def entryRule (e : Held) : List Dword :=
  let eng := decide (3 ≤ e.originCode)
  [e.origin.tid ++ BitVec.ofNat 32 e.origin.lid, e.origin.pc, e.origin.iword,
   e.origin.lit ++ BitVec.ofNat 8 e.cause ++ BitVec.ofNat 4 e.originCode ++ BitVec.ofNat 6 e.origin.issue ++ (0 : BitVec 3)
     ++ BitVec.ofNat 11 (if eng then 0 else e.lanes.length),
   BitVec.ofNat 64 e.page, BitVec.ofNat 64 (if eng then 0 else e.dest), BitVec.ofNat 64 (if eng then e.engAddr else 0), 0]

/-- R260, R385: what is written of an entry, at offsets in it: the table, MASK, zeros, and lane data for the lanes of MASK,
or a snapshot. -/
def entryWrites (e : Held) : List (Nat × List Byte) :=
  (0, dwordBytes ((entryRule e).map BitVec.toNat ++ maskDwords (if 3 ≤ e.originCode then 0 else maskOf e.lanes) ++
    List.replicate 8 0)) :: (20736, List.replicate 3840 0) ::
    (e.offs.map fun x => (256 + 4 * x.1, toBytes 4 x.2)) ++
    (e.opnds.map fun x => (4352 + 16 * x.1, toBytes 8 x.2.1.toNat ++ toBytes 8 x.2.2.toNat)) ++
    (e.snapshot.map fun x => (4352 + 4 * x.1, toBytes 4 x.2.toNat))

/-- R387: a store-fault record. -/
def recordRule (s : State) (e : Held) : List Dword :=
  let killed := match s.team? e.origin.tid with
    | some t => (match t.dying with | some d => d.killed | none => false)
    | none => s.exited.any fun x => x.tid == e.origin.tid && x.killed
  [e.origin.tid ++ BitVec.ofNat 32 e.origin.lid, e.origin.pc, BitVec.ofNat 64 e.engAddr,
   BitVec.ofNat 8 e.cause ++ BitVec.ofNat 10 e.lane ++ BitVec.ofNat 6 e.origin.issue ++ (0 : BitVec 6) ++ BitVec.ofBool killed
     ++ BitVec.ofBool (s.team? e.origin.tid).isNone ++ (0 : BitVec 21) ++ BitVec.ofNat 11 e.lanes.length,
   e.origin.iword, 0, 0, 0]

/-- Writes at Q offsets. -/
def atQ (c : Context) (off : Nat) (ws : List (Nat × List Byte)) : List (Nat × List Byte) :=
  ws.map fun w => (c.qBase.toNat + off + w.1, w.2)

/-- Fault arg.b of context c waits to be written. -/
structure Waits (s : State) (c : Context) (e : Held) (store : Bool) : Prop where
  context : s.ctx? s.arg.a = some c
  found : c.held[s.arg.b]? = some e ∧ e.store = store
  due : s.recordDue e = true
  first : s.heldBefore c s.arg.b store = false

/-- A service instruction of the supervisor. -/
structure Serves (s : State) (t : Team) (op : Nat) (f : VFields) (c : Context) (place : Nat → Nat) : Prop where
  poised : s.poised t = true
  checks : checkV s t op f = none
  context : s.ctx? t.ctx = some c ∧ c.supervisor = t.tid
  order : sectorwise place

/-- The instruction completes: the supervisor goes on, s[D] with a value where there is one, its context as it is said,
and memory written as it is said. A write of its own may end its monitor (R208). -/
def serviced (i : Instr) (s : State) (t : Team) (d : Option (BitVec 7 × Dword)) (c' : Context) (place : Nat → Nat)
    (ws : List (Nat × List Byte)) : Prop :=
  ∃ s' w, exec i s = .next s' ∧ s'.team? t.tid = some w ∧ s'.ctx? t.ctx = some c' ∧ memWritten s s' place ws ∧
    w = { t.gone with monitor := w.monitor, s := w.s } ∧
    (∀ n, w.getS n = match d with | some (r, x) => if n = r.toNat then x else t.getS n | none => t.getS n) ∧
    (t.monitor = .none_ → w.monitor = .none_) ∧ ∀ k, k = coreOf t.tid → d ≠ none → (s'.core k).cache = []

/-- An entry stands at a Q offset, not resolved (R275). -/
def entryHere (c : Context) (off : Dword) (e : RetryEntry) : Prop :=
  (c.retry.find? fun x => x.poppable && 64 + 24576 * x.slot == off.toNat) = some e

/-- The context with an entry resolved (R324). -/
def resolvedIn (c : Context) (e : RetryEntry) : Context :=
  { c with
    retry := c.retry.filter fun x => !(x.poppable && x.slot == e.slot)
    retryOrder := c.retryOrder.filter fun i => i != e.slot
    resolved := c.resolved + 1 }

/-- RDONE of the only entry of an operation of loads or atomics of team u. -/
structure Resolves (s : State) (t : Team) (f : VFields) (c : Context) (e : RetryEntry) (o : MemOp) (u : Team)
    (place : Nat → Nat) : Prop where
  serves : Serves s t 0x292 f c place
  header : qStands s c place 0 64
  entry : entryHere c (t.getS f.va.toNat) e ∧ e.origin < 3 ∧ e.opId = o.id
  alone : (∀ x ∈ c.retry, x.opId = o.id → x.poppable = true ∧ x.slot = e.slot) ∧ ∀ x ∈ c.held, x.opId ≠ o.id
  op : s.op? o.id = some o ∧ o.origin.ctx = c.id ∧ o.origin.tid = u.tid ∧ e.tid = u.tid
  team : s.team? u.tid = some u ∧ u.tid ≠ t.tid
  ready : s.releaseReady t 4 = true
  lives : launchLives s o.origin.ctx o.origin.lid
  kept : o.overwritten = []
  weirs : s.weirsOff u = true
  rputs : ∀ r ∈ s.rputs, r.opId = o.id → r.flag.isSome = true ∨ r.old = none

/-- What the resolution of a team's last entry leaves of the team, its registers aside: the flag's count ends, an acquire
that had faulted holds it no more, and it leaves a park of the reason retry (R39, R113, R316). -/
def freed (o : MemOp) (u w : Team) : Prop :=
  w = { u with flags := w.flags, acquireFault := w.acquireFault, run := w.run, monitor := w.monitor, v := w.v, s := w.s } ∧
  (∀ n, w.flag n = if o.flag = some n then { u.flag n with count := (u.flag n).count - 1 } else u.flag n) ∧
  (w.acquireFault = if u.acquireFault = some o.id then none else u.acquireFault) ∧
  (u.run = .parked .retry none → w.run = .parked .retry (some .done))

/-- RDONE completes, with team u as w. -/
def resolves (i : Instr) (s : State) (t : Team) (c : Context) (e : RetryEntry) (o : MemOp) (u w : Team) (place : Nat → Nat) :
    Prop :=
  ∃ s' a, exec i s = .next s' ∧ s'.team? t.tid = some a ∧ a = { t.gone with monitor := a.monitor } ∧
    s'.team? u.tid = some w ∧ freed o u w ∧ s'.op? o.id = none ∧ s'.ctx? t.ctx = some (resolvedIn c e) ∧
    memWritten s s' place [(c.qBase.toNat, retryBytes (resolvedIn c e))]

end Sys2Proof.Claims

/-- R190, R196, R324, R325, R385, R387 (RETRY_ENTRY_WRITE, STORE_FAULT_RECORD_WRITE): with room a fault is written whole, a
retry-ring entry to the first free slot from WRITTEN on and a record at WRITTEN modulo 4,096, then WRITTEN counts it; in a
full ring HELD counts it, once. -/
def Sys2Proof.Claims.FaultsAreWrittenToTheirRings : Prop :=
  (∀ (s : State) (c : Context) (e : Held) (i : Nat) (place : Nat → Nat), Waits s c e false → fieldsFit e →
    c.written - c.resolved < 1024 → c.freeSlot = some i → sectorwise place → qStands s c place (64 + 24576 * i) 24576 →
    (∀ w ∈ entryWrites e, w.1 + w.2.length ≤ 24576) → qStands s c place 0 64 →
    ∃ s' c', exec .retryEntryWrite s = .next s' ∧ s'.ctx? c.id = some c' ∧
      c' = { c with held := eraseAt c.held s.arg.b, written := c.written + 1, retryOrder := c.retryOrder ++ [i]
                    retry := c.retry ++ [{ slot := i, origin := e.originCode, tid := e.origin.tid, opId := e.opId
                                           lanes := e.lanes }] } ∧
      memWritten s s' place (atQ c (64 + 24576 * i) (entryWrites e) ++ [(c.qBase.toNat, retryBytes c')])) ∧
  (∀ (s : State) (c : Context) (e : Held) (place : Nat → Nat), Waits s c e true → fieldsFit e →
    c.sfWritten - c.sfResolved < 4096 → sectorwise place → qStands s c place (0x1800080 + 64 * (c.sfWritten % 4096)) 64 →
    qStands s c place 0x1800040 64 →
    (∀ o, s.op? e.opId = some o → launchLives s o.origin.ctx o.origin.lid) →
    ∃ s' c', exec .storeFaultRecordWrite s = .next s' ∧ s'.ctx? c.id = some c' ∧
      c' = { c with held := eraseAt c.held s.arg.b, sfWritten := c.sfWritten + 1 } ∧
      memWritten s s' place (atQ c (0x1800080 + 64 * (c.sfWritten % 4096))
        [(0, dwordBytes ((recordRule s e).map BitVec.toNat))] ++ [(c.qBase.toNat + 0x1800040, storeBytes c')])) ∧
  (∀ (s : State) (c : Context) (e : Held), s.ctx? s.arg.a = some c → c.held[s.arg.b]? = some e → s.recordDue e = true →
    (e.store = false → 1024 ≤ c.written - c.resolved → e.counted = true → exec .retryEntryWrite s = .next s) ∧
    (e.store = true → 4096 ≤ c.sfWritten - c.sfResolved → e.counted = true → exec .storeFaultRecordWrite s = .next s) ∧
    (∀ place, e.store = false → 1024 ≤ c.written - c.resolved → e.counted = false → sectorwise place →
      qStands s c place 0 64 → ∃ s' c', exec .retryEntryWrite s = .next s' ∧ s'.ctx? c.id = some c' ∧
        c' = { c with heldCount := c.heldCount + 1
                      held := updAt (fun (x : Held) => { x with counted := true }) c.held s.arg.b } ∧
        memWritten s s' place [(c.qBase.toNat, retryBytes c')]))

/-- R275, R324, R325 (RRPOP, SFPOP): the Q offset of the oldest entry not yet popped, in the order of writing, or of the
oldest record, whose forerunner is freed; all ones where there is none; the header shows it, and the core's load cache is
dropped, as by an acquire at `.dev`. -/
def Sys2Proof.Claims.RingsArePoppedInOrder : Prop :=
  (∀ (s : State) (t : Team) (f : VFields) (c : Context) (place : Nat → Nat), Serves s t 0x290 f c place →
    (c.retryOrder = [] → serviced (.rrpop f) s t (some (vdReg f, BitVec.allOnes 64)) c place []) ∧
    (∀ i r, c.retryOrder = i :: r → qStands s c place 0 64 →
      serviced (.rrpop f) s t (some (vdReg f, BitVec.ofNat 64 (64 + 24576 * i)))
        { c with retryOrder := r, popped := c.popped + 1 } place
        [(c.qBase.toNat, retryBytes { c with retryOrder := r, popped := c.popped + 1 })])) ∧
  (∀ (s : State) (t : Team) (f : VFields) (c : Context) (place : Nat → Nat), Serves s t 0x293 f c place →
    qStands s c place 0x1800040 64 →
    (c.sfWritten ≤ c.sfPopped → serviced (.sfpop f) s t (some (vdReg f, BitVec.allOnes 64))
      { c with sfResolved := c.sfPopped } place
      [(c.qBase.toNat + 0x1800040, storeBytes { c with sfResolved := c.sfPopped })]) ∧
    (c.sfPopped < c.sfWritten → serviced (.sfpop f) s t
      (some (vdReg f, BitVec.ofNat 64 (0x1800080 + 64 * (c.sfPopped % 4096))))
      { c with sfResolved := c.sfPopped, sfPopped := c.sfPopped + 1 } place
      [(c.qBase.toNat + 0x1800040, storeBytes { c with sfResolved := c.sfPopped, sfPopped := c.sfPopped + 1 })]))

/-- Faults are written to their rings and popped in order. -/
def Obligations.FaultRingsAreWrittenAndPopped : Prop :=
  Claims.FaultsAreWrittenToTheirRings ∧
  Claims.RingsArePoppedInOrder

/-- R108, R109, R250, R275, R316, R386 (RPUT, RDONE): RPUT writes a lane of the entry's destination unless it is frozen, and the
value is undefined until the team has waited; or a lane of a pending gleaner entry;
RDONE frees the entry, the operation ends once it was the last, the flag's count ends and the team leaves its park: with
`.done` registers stand as they are, with `.abandon` the lanes read all ones, with `.replay` the hardware performs them; an
engine's command resumes. An entry that is resolved, or a lane outside its mask, traps ILLEGAL_OPERAND. -/
def Sys2Proof.Claims.EntriesAreFilledAndResolved : Prop :=
  (∀ (s : State) (t u : Team) (f : VFields) (c : Context) (e : RetryEntry) (o : MemOp) (a : LaneAcc) (place : Nat → Nat),
    Serves s t 0x291 f c place → entryHere c (t.getS f.va.toNat) e → e.origin < 3 → a.lane = (t.getS f.vb.toNat).toNat →
    a.lane ∈ e.lanes → s.op? e.opId = some o → (o.lanes.find? fun b => b.lane == a.lane) = some a → o.overwritten = [] →
    o.origin.tid = u.tid → s.team? u.tid = some u → u.tid ≠ t.tid → s.weirsOff u = true →
    (o.scalar = false → ¬ frozenLane o u a.lane) →
    let x := t.getS f.vc.toNat
    ∃ s' w, exec (.rput f) s = .next s' ∧ s'.team? t.tid = some t.gone ∧ s'.team? u.tid = some w ∧ s'.mem = s.mem ∧
      w = { u with s := w.s, v := w.v } ∧ s'.op? o.id = some (o.modLane a.lane fun _ => { a with resolved := true }) ∧
      (o.kind = .red → w = u) ∧
      (o.kind ≠ .red → o.scalar = true → w.v = u.v ∧ ∀ n, w.getS n = if n = o.dest then x else u.getS n) ∧
      (o.kind ≠ .red → o.scalar = false → w.s = u.s ∧ ∀ r l, w.getV r l =
        if l = a.lane ∧ r = o.dest then x.setWidth 32
        else if l = a.lane ∧ 8 ≤ o.size ∧ r = o.dest + 1 then x.extractLsb' 32 32 else u.getV r l) ∧
      (o.kind ≠ .red → ∀ r ∈ o.destRegs, ∃ y ∈ s'.rputs, y.tid = u.tid ∧ y.opId = o.id ∧ y.flag = o.flag ∧ y.reg = r ∧
        y.scalar = o.scalar ∧ y.old = none ∧ (o.scalar = false → y.lane = a.lane))) ∧
  (∀ (s : State) (t : Team) (f : VFields) (c : Context) (e : RetryEntry) (g : Glean) (p : GleanEntry) (place : Nat → Nat),
    Serves s t 0x291 f c place → entryHere c (t.getS f.va.toNat) e → e.origin = 3 → s.gleanHead e.tid = some g →
    g.id = e.opId → g.pending = some p → (∃ y ∈ p.todo, y.1 = (t.getS f.vb.toNat).toNat) → e.tid ≠ t.tid →
    s.orphans = [] →
    ∃ s' q, exec (.rput f) s = .next s' ∧ s'.team? t.tid = some t.gone ∧
      s'.gleanHead e.tid = some { g with pending := some q } ∧
      q.todo = (p.todo.filter fun y => y.1 != (t.getS f.vb.toNat).toNat) ∧
      ((t.getS f.vb.toNat).toNat, (t.getS f.vc.toNat).setWidth 32) ∈ q.words) ∧
  (∀ (s : State) (t : Team) (f : VFields) (c : Context) (i : Instr) (place : Nat → Nat) (op : Nat), Serves s t op f c place →
    (i = .rput f ∧ op = 0x291 ∨ (i = .rdoneDone f ∨ i = .rdoneReplay f ∨ i = .rdoneAbandon f) ∧ op = 0x292) →
    (∀ e, ¬ entryHere c (t.getS f.va.toNat) e) → exec i s = .next (s.trap t 0x03 0 0 0)) ∧
  (∀ (s : State) (t : Team) (f : VFields) (c : Context) (e : RetryEntry) (place : Nat → Nat), Serves s t 0x291 f c place →
    entryHere c (t.getS f.va.toNat) e → e.origin ≠ 3 → (t.getS f.vb.toNat).toNat ∉ e.lanes →
    exec (.rput f) s = .next (s.trap t 0x03 0 0 0)) ∧
  (∀ (s : State) (t u : Team) (f : VFields) (c : Context) (e : RetryEntry) (o : MemOp) (place : Nat → Nat),
    Resolves s t f c e o u place →
    (∃ w, resolves (.rdoneDone f) s t c e o u w place ∧ w.v = u.v ∧ w.s = u.s) ∧
    (o.returns = true → o.scalar = false → o.size % 4 = 0 → ∃ w, resolves (.rdoneAbandon f) s t c e o u w place ∧
      w.s = u.s ∧ ∀ r l, w.getV r l =
        if o.dest ≤ r ∧ r < o.dest + o.size / 4 ∧ l ∈ e.lanes ∧ (∃ a ∈ o.lanes, a.lane = l) ∧
            (u.hold.getLsbD l = false ∨ l ∈ o.thawed) then 0xFFFFFFFF#32
        else u.getV r l) ∧
    (∀ a p pa, o.kind = .load → o.scalar = false → o.size % 4 = 0 → o.ord = 0 → o.promoted = false → o.lanes = [a] →
      e.lanes = [a.lane] → a.pieces = [p] → p.off = 0 → p.len = o.size → a.bytes.length = o.size → 0 < o.size →
      o.seg ≠ 1 → byteStands s o.origin a.addr .read pa → o.origin.core = coreOf o.origin.tid →
      (s.arg.flag = true → s.outsideCause pa = none) → s.racing o (s.pieceAt o a p) p.len = false → ¬ frozenLane o u a.lane →
      (s.core (coreOf o.origin.tid)).buffer = [] → s.cached (coreOf o.origin.tid) (lineOf pa) = none →
      (∀ q ∈ s.ops, q.origin.tid = o.origin.tid → q.id = o.id) →
      (∀ r ∈ s.reqs, r.tid ≠ o.origin.tid) →
      ∃ w s', resolves (.rdoneReplay f) s t c e o u w place ∧ exec (.rdoneReplay f) s = .next s' ∧ w.s = u.s ∧
        ∀ r l, w.getV r l = if o.dest ≤ r ∧ r < o.dest + o.size / 4 ∧ l = a.lane then
          wordOf ((List.range o.size).map fun j => memByte s'.mem (pa + j)) (r - o.dest) else u.getV r l)) ∧
  (∀ (s : State) (t : Team) (f : VFields) (c : Context) (e : RetryEntry) (place : Nat → Nat), Serves s t 0x292 f c place →
    entryHere c (t.getS f.va.toNat) e → qStands s c place 0 64 → s.releaseReady t 4 = true → 3 < e.origin →
    e.tid ≠ t.tid → s.op? e.opId = none → (∀ g, s.gleanHead e.tid = some g → g.id ≠ e.opId) →
    (∀ k, (s.copies.find? fun x => x.id == e.opId) = some k → ∃ s', exec (.rdoneReplay f) s = .next s' ∧
      (s'.copies.find? fun x => x.id == e.opId) = some { k with stopped := false } ∧
      s'.ctx? t.ctx = some (resolvedIn c e)) ∧
    ((s.copies.find? fun x => x.id == e.opId) = none → ∀ k, (s.bales.find? fun x => x.id == e.opId) = some k →
      ∃ s', exec (.rdoneReplay f) s = .next s' ∧ s'.ctx? t.ctx = some (resolvedIn c e) ∧
        (s'.bales.find? fun x => x.id == e.opId) = some { k with stopped := false }))

/-- R297 (INVALIDATION_ENTRY): with HEAD at TAIL nothing happens; a malformed entry gets status 1; a sound one drops the
context's translations of its range, or all, from every partition and core, and every line of every load cache, once no access that uses
one is under way, and gets status 0; HEAD and DONE go on. -/
def Sys2Proof.Claims.InvalidationDropsTranslations : Prop :=
  ∀ (s : State) (c : Context), s.ctx? s.arg.a = some c → (s.cores.map Prod.fst).Nodup →
    (∀ k, ((s.core k).first.map Prod.fst).Nodup) →
    let ring := c.qLimit.toNat - 65536
    let entry := ring + 64 + 32 * c.invHead
    let op := s.qDword c.id entry % 16
    let va := s.qDword c.id (entry + 8)
    let len := s.qDword c.id (entry + 16)
    let lo := if op = 2 then 0 else va
    let n := if op = 2 then 2 ^ 64 else len
    let drops := fun (e : TlbEntry) => decide (e.ctx = c.id ∧ e.va < lo + n ∧ lo < e.va + e.size)
    let dropped := s.invalidate c.id lo n
    let head := (c.invHead + 1) % 2046
    let told := fun (x : State) (status : Nat) => ((x.qWrite c.id (entry + 24) (toBytes 8 status)).qWrite c.id (ring + 8)
      (toBytes 8 head)).qWrite c.id (ring + 16) (toBytes 8 (c.invDone + 1))
    let malformed := op ≠ 1 ∧ op ≠ 2 ∨ va % 4096 ≠ 0 ∨ len % 4096 ≠ 0 ∨ len = 0
    (dropped = { s with cores := dropped.cores } ∧ ∀ k, (dropped.core k).cache = [] ∧
      (dropped.core k).tlb = (s.core k).tlb.filter (fun e => !drops e) ∧
      ∀ p, dropped.firstTlb (8 * k + p % 8) = (s.firstTlb (8 * k + p % 8)).filter fun e => !drops e) ∧
    (s.qDword c.id ring % 2 ^ 32 = c.invHead → exec .invalidationEntry s = .next s) ∧
    (s.qDword c.id ring % 2 ^ 32 ≠ c.invHead →
      (malformed → ∃ s', exec .invalidationEntry s = .next s' ∧ s'.mem = (told s 1).mem ∧
        s'.cores = (told s 1).cores ∧ ∃ c', s'.ctx? c.id = some c' ∧ c'.invHead = head ∧ c'.invDone = c.invDone + 1) ∧
      (¬ malformed → s.translating c.id = true → exec .invalidationEntry s = .next s) ∧
      (¬ malformed → s.translating c.id = false → ∃ s', exec .invalidationEntry s = .next s' ∧
        s'.mem = (told dropped 0).mem ∧ s'.cores = (told dropped 0).cores ∧ ∃ c', s'.ctx? c.id = some c' ∧ c'.invHead = head ∧ c'.invDone = c.invDone + 1))

/-- Retry entries are filled and resolved; invalidation drops translations. -/
def Obligations.InvalidationAndResolutionFreeTranslationsAndEntries : Prop :=
  Claims.EntriesAreFilledAndResolved ∧
  Claims.InvalidationDropsTranslations

/-! ## Errors, power, bring-up and links -/

namespace Sys2Proof.Claims

open Sys2Proof Sys2Proof.Machine

/-- One more, up to the largest value of 64 bits (R377). -/
def oneMore (x : Dword) : Dword := if x = BitVec.allOnes 64 then x else x + 1

/-- Only one core's own state changes. -/
def onlyCore (i : Instr) (s : State) (k : Nat) (c : Core) : Prop :=
  ∃ s', exec i s = .next s' ∧ s' = { s with cores := s'.cores } ∧ s'.core k = c ∧ ∀ n, n ≠ k → s'.core n = s.core n

/-- A byte of the module's own memory, not of the host window. -/
def ownByte (s : State) (pa : Nat) : Prop := paModule pa = s.moduleNumber.toNat ∧ localHost (paLocal pa) = false

/-- The module has lost its power: no team, no context, no feature vector, and its own memory gone; leaf index and
thermal-trip status stand (R407, R410, R411). -/
def lostPower (s s' : State) : Prop :=
  s'.teams = [] ∧ s'.ctxs = [] ∧ s'.plots = [] ∧ s'.launches = [] ∧ s'.cores = [] ∧ s'.accepted = none ∧
  s'.moduleNumber = 0 ∧ s'.nextLeaf = s.nextLeaf ∧ s'.poison = [] ∧ ∀ pa, ownByte s' pa → memByte s'.mem pa = 0

/-- Only one link changes. -/
def onlyLink (i : Instr) (s : State) (n : Nat) (l : Link) : Prop :=
  ∃ s', exec i s = .next s' ∧ s' = { s with links := s'.links } ∧ spRead {} s'.links n = l ∧
    ∀ k, k ≠ n → spRead {} s'.links k = spRead ({} : Link) s.links k

/-- Link n. -/
def linkOf (s : State) (n : Nat) : Link := spRead {} s.links n

/-- The module is up, and some module's mask names the link (R405, R411). -/
def wanted (s : State) (n : Nat) : Prop :=
  n < 18 ∧ s.bringup = .ready ∧ s.feature 11 = true ∧ ∃ r ∈ s.routes, r.2.getLsbD n = true

/-- R288: an array is the sub-channel of HBM4 in which a physical address lies. -/
def inSubChannel (a : ArrayId) (pa : Nat) : Prop :=
  let d := paLocal pa / 0x3000000000
  let o := paLocal pa % 0x3000000000
  a = .hbm (3 * d + o / 256 % 3) ((o / 256 / 3 ^^^ o / 65536) % 64)

/-- An access has to wait for promotions (R308): some core's release is buffered for one of its lines. -/
def tagged (s : State) (pa n : Nat) : Prop := ∃ l ∈ linesOf pa n, s.tagsOn l Config.cores ≠ []

/-- Pieces of an outside write, each in one sector and all together the write's bytes (R312). -/
def piecesOf (ps : List Posted) (pa : Nat) (bs : List Byte) : Prop :=
  (ps.flatMap Posted.bytes) = bs ∧ (∀ p ∈ ps, p.pa % 32 + p.bytes.length ≤ 32) ∧
  ∀ (qs : List Posted) (p : Posted) (rs : List Posted), ps = qs ++ p :: rs → p.pa = pa + (qs.flatMap Posted.bytes).length

/-- The clock of a die in MHz (R410). -/
def mhz (s : State) (die : Nat) : Nat := spRead 1600 s.clock die

end Sys2Proof.Claims

/-- R288, R291, R377, R395 (ECC_CORRECTED, PREDICTIVE_FAILURE, UNCORRECTABLE_ERROR): a corrected error is counted, and above
64 in a window an undervolted array goes back to nominal voltage, is suspect and is watched; one that stays above for 2²⁴
accesses fails, its cores take no new plots, or a matrix engine only launches without one, and each live context's ring gets a
record; an uncorrectable error in the array that holds a unit is counted, and the unit poisoned: a sector lies in its
sub-channel of HBM4. -/
def Obligations.ArrayErrorsAreCountedAndMark : Prop :=
  (∀ (s : State), ∃ s', exec .eccCorrected s = .next s' ∧ s' = { s with arrayErrs := s'.arrayErrs } ∧
    (let e := s.arrayErr s.arg.array
     let c := { e with corrected := oneMore e.corrected, recent := e.recent + 1 }
     (e.undervolted = true ∧ 64 < e.recent + 1 → s'.arrayErr s.arg.array =
       { c with undervolted := false, suspect := true, watch := true, nominal := 0 }) ∧
     (e.undervolted = false ∨ e.recent + 1 ≤ 64 → s'.arrayErr s.arg.array = c)) ∧
    ∀ a, a ≠ s.arg.array → s'.arrayErr a = s.arrayErr a) ∧
  (∀ (s : State), let e := s.arrayErr s.arg.array
    (e.watch = true → 2 ^ 24 ≤ e.nominal → e.failed = false → ∃ s', exec .predictiveFailure s = .next s' ∧
      s'.arrayErr s.arg.array = { e with failed := true } ∧
      (∀ k, s.arg.array = .pool k → s'.core k = { s.core k with noPlots := true }) ∧
      (∀ k, s.arg.array = .engine k → s'.core k = { s.core k with engineFailed := true }) ∧
      (∀ n, s.arg.array = .slice n → s'.core (2 * n) = { s.core (2 * n) with noPlots := true } ∧
        s'.core (2 * n + 1) = { s.core (2 * n + 1) with noPlots := true }) ∧
      ((s.ctxs.map Context.id).Nodup → ∀ c ∈ s.ctxs, c.live = true → c.repWritten - c.repFreed < 1024 →
        ∃ c', s'.ctx? c.id = some c' ∧ c'.repWritten = c.repWritten + 1)) ∧
    (e.watch = false ∨ e.nominal < 2 ^ 24 ∨ e.failed = true → exec .predictiveFailure s = .next s)) ∧
  (∀ (s s' : State), exec .uncorrectableError s = .next s' → s'.mem = s.mem ∧ s'.teams = s.teams) ∧
  (∀ (s : State), let a := s.arg.array
    let counted := fun (s' : State) => exec .uncorrectableError s = .next s' ∧
      s'.arrayErr a = { s.arrayErr a with uncorrected := oneMore (s.arrayErr a).uncorrected }
    (∀ pa, s.arg.unit_ = .sector pa → paModule pa = s.moduleNumber.toNat → localHbm (paLocal pa) = true →
      let here := inSubChannel a pa ∨ a = .slice (homeSlice pa) ∧ s.sliceHit pa = true
      (¬ here → exec .uncorrectableError s = .next s) ∧
      (here → ∃ s', counted s' ∧ s'.poisoned pa = true ∧ ∀ q, q / 32 ≠ pa / 32 → s'.poisoned q = s.poisoned q)) ∧
    (∀ h r l t p, s.arg.unit_ = .reg h r l → a = .pool (coreOf h) → s.team? h = some t → r < t.regs → l < t.width →
      s.plot? t.plot = some p → p.saved = false → ∃ s' q, counted s' ∧ s'.plot? t.plot = some q ∧ .reg h r l ∈ q.poison) ∧
    (∀ id o p, s.arg.unit_ = .scratch id o → s.plot? id = some p → a = .pool p.core → o < 16384 * p.scratchGranules →
      p.saved = false → ∃ s' q, counted s' ∧ s'.plot? id = some q ∧ .scratch id (o / 4 * 4) ∈ q.poison) ∧
    (∀ id t e k p, s.arg.unit_ = .tile id t e → s.crew? id = some k → s.plot? k.plot = some p → a = .pool p.core →
      t < k.tileCount → e < 4096 → ∃ s' q, counted s' ∧ s'.crew? id = some q ∧ e ∈ (spRead {} q.tiles t).poison) ∧
    (∀ h pa, s.arg.unit_ = .image h → s.imageAt h = some pa → inSubChannel a pa →
      ∃ s', counted s' ∧ s'.poisoned pa = true))

/-- R327, R371, R377 (TIMING_REPLAY, DROOP_EVENT, DROOP_WINDOW_END, HOT_CLEAR_WINDOW): a replay takes a cycle and is
counted; a droop is counted; at the end of a window of 65,536 cycles the core is hot at 95 degrees or 8 droops, and the
count starts anew; after quiet windows over 5 ms, 30 of them (log entry 52), it is hot no more. -/
def Obligations.CoreRatingFollowsItsWindows : Prop :=
  ∀ (s : State), let c := s.core s.arg.a
    (∃ x, onlyCore .timingReplay s s.arg.a { c with
      cyc := c.cyc + 1, replays := min (c.replays + 1) (2 ^ 64 - 1), perf := x }) ∧
    onlyCore .droopEvent s s.arg.a { c with
      droops := if c.droops = BitVec.allOnes 16 then c.droops else c.droops + 1
      droopTotal := min (c.droopTotal + 1) (2 ^ 64 - 1) } ∧
    (c.cyc < c.windowStart + 65536 → exec .droopWindowEnd s = .next s) ∧
    (c.windowStart + 65536 ≤ c.cyc → ∃ x, onlyCore .droopWindowEnd s s.arg.a x ∧
      x = { c with hot := x.hot, quietWindows := x.quietWindows, lastDroops := c.droops.toNat, droops := 0
                   windowStart := c.windowStart + 65536 } ∧
      (x.hot = true ↔ c.hot = true ∨ 95 ≤ c.temp ∨ 8 ≤ c.droops.toNat) ∧
      (c.temp ≤ 89 ∧ c.droops.toNat < 2 → x.quietWindows = c.quietWindows + 1) ∧
      (89 < c.temp ∨ 2 ≤ c.droops.toNat → x.quietWindows = 0)) ∧
    (c.quietWindows < 30 → exec .hotClearWindow s = .next s) ∧
    (30 ≤ c.quietWindows → onlyCore .hotClearWindow s s.arg.a { c with hot := false })

/-- R410, R411 (POWER_CAP_CONTROL, THERMAL_THROTTLE, THERMAL_TRIP, POWER_GOOD, HBM_TRAINING_DONE, PCIE_LINK_TRAINED): the
clocks go down by 100 MHz above the limit or past 105 degrees, to 800 MHz at the least, and up below it; at 115 degrees the
module turns off and the trip status stands; after power is good it comes up by verified firmware, cleared memory, and the
PCI Express link, at which CYC starts. -/
def Obligations.PowerAndBringUpGoInOrder : Prop :=
  (∀ (s : State),
    (s.powerCap < s.arg.a → ∃ s', exec .powerCapControl s = .next s' ∧ s' = { s with clock := s'.clock } ∧
      ∀ d < 4, mhz s' d = max 800 (min 1600 (mhz s d - 100))) ∧
    (s.arg.a ≤ s.powerCap → s.arg.flag = true → ∃ s', exec .powerCapControl s = .next s' ∧
      s' = { s with clock := s'.clock } ∧ ∀ d < 4, mhz s' d =
        if 105 < s.hottest d then mhz s d else max 800 (min 1600 (mhz s d + 100))) ∧
    (s.arg.a ≤ s.powerCap → s.arg.flag = false → exec .powerCapControl s = .next s) ∧
    (105 < s.hottest s.arg.a → ∃ s', exec .thermalThrottle s = .next s' ∧ s' = { s with clock := s'.clock } ∧
      mhz s' s.arg.a = max 800 (min 1600 (mhz s s.arg.a - 100)) ∧ ∀ d, d ≠ s.arg.a → mhz s' d = mhz s d) ∧
    (s.hottest s.arg.a ≤ 105 → exec .thermalThrottle s = .next s) ∧
    (115 ≤ s.hottest s.arg.a → ∃ s', exec .thermalTrip s = .next s' ∧ lostPower s s' ∧ s'.thermalTrip = true ∧
      s'.bringup = .off) ∧
    (s.hottest s.arg.a < 115 → exec .thermalTrip s = .next s)) ∧
  (∀ (s : State),
    (∃ s', exec .powerGood s = .next s' ∧ lostPower s s' ∧ s'.thermalTrip = s.thermalTrip ∧ s'.bringup = .firmware ∧
      (s.arg.images.length = 4 ∧ (∀ d x, s.arg.images[d]? = some x → firmwareVerifies d x = true ∧
          Config.fusedMinimum d ≤ x.securityVersion) → s'.firmware = s.arg.images) ∧
      (s.arg.images.length ≠ 4 ∨ (∃ d x, s.arg.images[d]? = some x ∧ (firmwareVerifies d x = false ∨
          x.securityVersion < Config.fusedMinimum d)) → s'.firmware = [])) ∧
    (s.bringup = .firmware → ∃ s', exec .hbmTrainingDone s = .next s' ∧
      s' = { s with bringup := .memory, poison := [], mem := s'.mem } ∧
      ∀ pa, (ownByte s pa → memByte s'.mem pa = 0) ∧ (¬ ownByte s pa → memByte s'.mem pa = memByte s.mem pa)) ∧
    (s.bringup ≠ .firmware → exec .hbmTrainingDone s = .next s) ∧
    (s.bringup = .memory → s.firmware.length = 4 → ∃ s', exec .pcieLinkTrained s = .next s' ∧
      s' = { s with bringup := .ready, cores := s'.cores } ∧
      ∀ k < 192, s'.core k = { s.core k with cyc := 0, windowStart := 0 }) ∧
    (s.bringup ≠ .memory ∨ s.firmware.length ≠ 4 → exec .pcieLinkTrained s = .next s))

/-- R308, R312, R314, R377, R405, R411 (LUADOR_LINK_TRAINED, LINK_TRAIN_RETRY, LINK_FAILURE, LINK_CRC_ERROR, PEER_REQUEST): a link that
a mask names trains, at once or at a retry; it fails; its retransmissions are counted; a peer whose mask is not empty has
its request performed at its home, a write in pieces that each lie in one sector, and any other is refused, with nothing
changed; an acquire waits for the releases that its lines still wait for. -/
def Obligations.LinksTrainFailAndCarry : Prop :=
  (∀ (s : State), let n := s.arg.a
    (wanted s n → onlyLink .luadorLinkTrained s n { linkOf s n with trained := true, failed := false }) ∧
    (wanted s n → (linkOf s n).trained = false →
      onlyLink .linkTrainRetry s n { linkOf s n with
        trained := s.arg.flag, failed := (linkOf s n).failed && !s.arg.flag }) ∧
    (wanted s n → (linkOf s n).trained = true → onlyLink .linkTrainRetry s n (linkOf s n)) ∧
    (¬ wanted s n → exec .luadorLinkTrained s = .next s ∧ exec .linkTrainRetry s = .next s) ∧
    (n < 18 → onlyLink .linkFailure s n { linkOf s n with trained := false, failed := true }) ∧
    (n < 18 → (linkOf s n).trained = true →
      onlyLink .linkCrcError s n { linkOf s n with retries := oneMore (linkOf s n).retries })) ∧
  (∀ (s : State), let base := s.moduleNumber.toNat * 2 ^ 46
    let admitted := s.bringup = .ready ∧ s.feature 11 = true ∧ s.arg.a ≠ s.moduleNumber.toNat ∧ s.arg.a < 64 ∧
      spRead (0 : BitVec 18) s.routes s.arg.a ≠ 0
    let backed := fun (a n : Nat) => ∀ j < n, localHbm (a + j) = true ∨ localHost (a + j) = true
    let at_ := peerReads s.arg.peer
    let waits := s.arg.flag = true ∧ tagged s (base + at_.1) at_.2
    (waits → exec .peerRequest s = .next s) ∧
    (¬ waits → ¬ admitted → exec .peerRequest s = .next { s with peerReply := none }) ∧
    (¬ waits → admitted → ∀ a n, s.arg.peer = .read a n → backed a n → (∀ j < n, s.poisoned (base + a + j) = false) →
      a % 32 + n ≤ 32 →
      exec .peerRequest s = .next { s with peerReply := some ((List.range n).map fun j => memByte s.mem (base + a + j)) }) ∧
    (¬ waits → admitted → ∀ a bs, s.arg.peer = .write a bs → backed a bs.length → ∃ s', exec .peerRequest s = .next s' ∧
      s'.peerReply = some [] ∧ (s.arg.c = 0 → memAs s s' (base + a) bs ∧ s'.posted = s.posted) ∧
      (bs.length ≤ s.arg.c → s'.mem = s.mem ∧ ∃ ps, s'.posted = s.posted ++ ps ∧ piecesOf ps (base + a) bs)) ∧
    (¬ waits → admitted → ∀ aop fmt w a x y, s.arg.peer = .atomic aop fmt w a x y → aop.toNat ≤ 7 → localHbm a = true →
      let F := fmtOf fmt.toNat w.toNat
      4 ≤ F.width / 8 → a % (F.width / 8) = 0 → s.poisoned (base + a) = false →
      let old := ofBytes ((List.range (F.width / 8)).map fun j => memByte s.mem (base + a + j))
      let r := applyAtomic aop.toNat F old (x.toNat % 2 ^ F.width) (y.toNat % 2 ^ F.width)
      ∃ s', exec .peerRequest s = .next s' ∧ s'.peerReply = some (toBytes (F.width / 8) old ++ [r.2]) ∧
        memAs s s' (base + a) (toBytes (F.width / 8) r.1)))

/-! ## The host's side -/

namespace Sys2Proof.Claims

open Sys2Proof Sys2Proof.Machine

/-- The host submits a command on a function of the module, whose mailbox is idle (R398). -/
structure Submits (s : State) : Prop where
  up : s.bringup = .ready
  function : s.arg.a ≤ 64
  idle : (s.mailbox s.arg.a).busy = false

/-- Argument n of the submitted command. -/
def argOf (s : State) (n : Nat) : Dword := spRead 0 (s.mailbox s.arg.a).args n

/-- Mailbox fn becomes m, and no other changes. -/
def mailboxIs (s s' : State) (fn : Nat) (m : Mailbox) : Prop :=
  s'.mailbox fn = m ∧ ∀ k, k ≠ fn → s'.mailbox k = s.mailbox k

/-- R398: the mailbox after its command op ended. -/
def endedBox (s : State) (op status : Nat) (tag : BitVec 16) (r : Dword) : Mailbox :=
  { s.mailbox s.arg.a with
    op := BitVec.ofNat 8 op, tag, cmdTag := tag, busy := false, status := BitVec.ofNat 8 status, doneTag := tag, result := r }

/-- The command ends with a status, with RESULT r where the manual gives it, and the state after is as P says. -/
def ends (i : Instr) (s : State) (op status : Nat) (r : Option Dword) (P : State → Prop) : Prop :=
  ∃ s' x, exec i s = .next s' ∧ s'.mailbox s.arg.a = endedBox s op status s.arg.tag x ∧ (∀ y, r = some y → x = y) ∧ P s'

/-- Beside the mailbox and the draw of free values, the state is t. -/
def leaves (s t s' : State) : Prop :=
  s' = { t with mailboxes := s'.mailboxes, fresh := s'.fresh } ∧ ∀ k, k ≠ s.arg.a → s'.mailbox k = s.mailbox k

/-- The command ends with a status and no other effect. -/
def refused (i : Instr) (s : State) (op status : Nat) : Prop := ends i s op status none (leaves s s)

/-- R399: every command. -/
def commands : List (Instr × Nat) :=
  [(.featRead, 0x01), (.featAccept, 0x02), (.domainSet, 0x03), (.ctxSetup, 0x0F), (.ctxCreate, 0x10), (.ctxDestroy, 0x11),
   (.coreset, 0x12), (.preempt, 0x20), (.killLaunch, 0x21), (.debug, 0x30), (.report, 0x40), (.countersRead, 0x41),
   (.countersClear, 0x41), (.countersProgram, 0x41), (.attest, 0x50), (.powerCap, 0x60)]

/-- R399: the commands of the physical function alone; COUNTERS by its ARG1. -/
def pfCommand (s : State) (i : Instr) (op : Nat) : Prop :=
  (i, op) ∈ [(Instr.featAccept, 0x02), (.domainSet, 0x03), (.ctxSetup, 0x0F), (.ctxCreate, 0x10), (.ctxDestroy, 0x11),
    (.coreset, 0x12), (.powerCap, 0x60)] ∨ i = .countersRead ∧ op = 0x41 ∧ argOf s 1 = 0 ∨
  i = .countersClear ∧ op = 0x41 ∧ argOf s 1 = 1 ∨ i = .countersProgram ∧ op = 0x41 ∧ argOf s 1 = 2

/-- A context that is in use. -/
def inUse (s : State) (id : Nat) (c : Context) : Prop := s.ctx? id = some c ∧ c.live = true

/-- R397, R399: the context that a command acts on. -/
def actsFor (s : State) (c : Context) : Prop :=
  (s.arg.a = 0 ∧ (argOf s 4).toNat < 64 ∧ inUse s (argOf s 4).toNat c) ∨ (s.arg.a ≠ 0 ∧ inUse s (s.arg.a - 1) c)

/-- The address x with module numbers a and b exchanged. -/
def exchanged (a b x : Nat) : Nat :=
  (if x / 2 ^ 46 = a then b else if x / 2 ^ 46 = b then a else x / 2 ^ 46) * 2 ^ 46 + x % 2 ^ 46

/-- R399, R400: the context that CTX_CREATE builds. -/
def builtContext (s : State) (c : Context) (sup : Handle) : Context :=
  { id := c.id, apBase := c.apBase, saveSize := c.saveSize, live := true, root := (argOf s 1).toNat
    saveAddr := (argOf s 2).toNat, qBase := BitVec.ofNat 64 (field (argOf s 3) 55 0)
    qLimit := BitVec.ofNat 64 (field (argOf s 3) 63 56 * 2 ^ 20), ring := argOf s 5, nextLid := 2, supervisor := sup }

/-- R292, R384, R400: the arguments of CTX_CREATE are sound. -/
structure SoundContext (s : State) (c : Context) : Prop where
  setup : s.ctx? (argOf s 0).toNat = some c ∧ c.live = false
  root : paModule (argOf s 1).toNat = s.moduleNumber.toNat ∧ localHbm (paLocal (argOf s 1).toNat) = true ∧
    (argOf s 1).toNat % 4096 = 0 ∧ (argOf s 1).toNat < 2 ^ 52
  queue : 0x1850180 ≤ field (argOf s 3) 63 56 * 2 ^ 20
  save : 32768 + 5996800 ≤ c.saveSize

/-- Core k is the lowest of the context's core set. -/
def lowest (s : State) (ctx k : Nat) : Prop :=
  k < Config.cores ∧ (spRead (0 : BitVec 192) s.coresets ctx).getLsbD k = true ∧
    ∀ j < k, (spRead (0 : BitVec 192) s.coresets ctx).getLsbD j = false

/-- The handle that a slot's next team gets (R32). -/
def nextHandle (s : State) (k part slot : Nat) : Handle :=
  let g := spRead 0 (s.core k).gens (32 * part + slot)
  mkHandle k part slot (if 65535 ≤ g then 1 else g + 1)

/-- The header that stands 0x4080 behind the request ring (R400). -/
def supHeader (s : State) (place : Nat → Nat) : List Dword :=
  (List.range 16).map fun i => BitVec.ofNat 64 (ofBytes (bytesAt s place ((argOf s 5).toNat + 0x4080 + 8 * i) 8))

/-- R33, R121, R264, R400: the supervisor can be placed: the reserved slot 31 of partition 0 is free (log entry 21), and its
header asks for one plot of one team, breaks no rule, and fits; its estate array, cleared, can be written. -/
structure SoundSupervisor (s : State) (c1 : Context) (k : Nat) (place : Nat → Nat) : Prop where
  slot : (0, 31) ∉ s.usedSlots k
  new : s.team? c1.supervisor = none
  order : sectorwise place
  reads : ∀ j < 128, byteStands s (gateOrigin c1) ((argOf s 5).toNat + 0x4080 + j) .read
    (place ((argOf s 5).toNat + 0x4080 + j))
  valid : ∀ n, ¬ breaks (s.putCtx c1) c1.id (supHeader s place) True n
  single : hTeams (supHeader s place) = 1 ∧ hPlots (supHeader s place) = 1 ∧ hTwin (supHeader s place) = false
  estate : ∀ j < 32 * hEstate (supHeader s place),
    byteStands s (gateOrigin c1) ((Config.estateBase c1.id c1.supervisor).toNat + j) .write
      (place ((Config.estateBase c1.id c1.supervisor).toNat + j))
  fits : s.usedGranules k + hGranules (supHeader s place) ≤ Config.granules

/-- R384, R400: the headers of Q and VECTOR, cleared. -/
def clearedQ (c : Context) : List (Nat × List Byte) :=
  let at_ := fun (off : Nat) (ds : List Nat) => (c.qBase.toNat + off, dwordBytes ds)
  [at_ 0 [0, 0, 0, 0x1800040 * 2 ^ 32 + 1024, 0, 0, 0, 0], at_ 0x1800040 [0, 0, 0, 4096, 0, 0, 0, 0],
   at_ (c.qLimit.toNat - 65536) [0, 0, 0, 0, 0, 0, 0, 0], at_ 0x1840080 [0]]

/-- R270, R399: a step that DEBUG begins. -/
def hostStep (s : State) : Stepping :=
  { by_ := none, mailbox := s.arg.a, sd := 0, focus := field (argOf s 2) 9 0, left := field (argOf s 2) 47 32, outcome := none }

/-- What a counter holds (R376, R377). -/
def counterRule (s : State) : Config.CounterSel → Dword
  | .perf k n => (spRead ({} : Perf) (s.core k).perf n).count
  | .corrected a => (s.arrayErr a).corrected
  | .uncorrected a => (s.arrayErr a).uncorrected
  | .replays k => BitVec.ofNat 64 (s.core k).replays
  | .droopTotal k => BitVec.ofNat 64 (s.core k).droopTotal
  | .droopLast k => BitVec.ofNat 64 (s.core k).lastDroops
  | .linkRetries l => (linkOf s l).retries

/-- R408: what a report says before its signature. -/
def reportBody (s : State) : List Byte :=
  dwordBytes [(argOf s 0).toNat, (argOf s 1).toNat, (argOf s 2).toNat, (argOf s 3).toNat] ++
    (s.firmware.flatMap fun f => sha256 f.bytes) ++
    toBytes 32 (match s.accepted with | some v => v.toNat | none => 0) ++
    toBytes 8 Config.serialNumber.toNat ++ toBytes 8 s.moduleNumber.toNat

/-- Each byte of a run from a virtual address has its place for the host (R292 to R296, R397). -/
def hostStands (s : State) (c : Context) (place : Nat → Nat) (va n : Nat) (acc : Acc) : Prop :=
  ∀ j < n, (∃ nc, s.translate (corePort Config.cores) c.id (va + j) acc = .ok (place (va + j)) nc) ∧
    (acc = .read → s.poisoned (place (va + j)) = false)

/-- A team's death as killed is accepted by the event that takes the next identifier (R352). -/
def diesAt (s : State) (u : Team) : Prop := ∃ b, u.dying = some { killed := true, group := s.nextId, inSave := b }

/-- R402: a report record of kind 3 is added. -/
def failsWithReport (s s' : State) (c : Context) (cause va : Nat) : Prop :=
  c.repWritten - c.repFreed < 1024 →
    memAs s s' (c.saveAddr + 32 * (c.repWritten % 1024)) (dwordBytes [3 * 2 ^ 56 + cause * 2 ^ 48, va, 0, 0]) ∧
    s'.ctx? c.id = some { c with repWritten := c.repWritten + 1 }

end Sys2Proof.Claims

/-- R398, R399 (MAILBOX_REGISTER_WRITE): the host writes arguments; GO while BUSY is ignored, an unknown OP ends with
status 1, a command of the physical function on another with status 2. -/
def Sys2Proof.Claims.MailboxTakesArgumentsAndCommands : Prop :=
  (∀ (s : State), s.bringup = .ready → s.arg.a ≤ 64 →
    let m := s.mailbox s.arg.a
    let op := s.arg.value.extractLsb' 56 8
    let tag := s.arg.value.extractLsb' 32 16
    let stores := fun (x : Mailbox) => ∃ s', exec .mailboxRegisterWrite s = .next s' ∧
      s' = { s with mailboxes := s'.mailboxes } ∧ mailboxIs s s' s.arg.a x
    (1 ≤ s.arg.b → s.arg.b ≤ 6 → stores { m with args := spWrite 0 m.args (s.arg.b - 1) s.arg.value }) ∧
    (s.arg.b = 0 → s.arg.value.getLsbD 0 = false → stores { m with op, tag }) ∧
    (s.arg.b = 0 → s.arg.value.getLsbD 0 = true → m.busy = true → exec .mailboxRegisterWrite s = .next s) ∧
    (s.arg.b = 0 → s.arg.value.getLsbD 0 = true → m.busy = false → op.toNat ∉ commands.map Prod.snd →
      ∃ s' x, exec .mailboxRegisterWrite s = .next s' ∧ leaves s s s' ∧
        s'.mailbox s.arg.a = endedBox s op.toNat 1 tag x)) ∧
  (∀ (s : State) (i : Instr) (op : Nat), (i, op) ∈ commands → (s.mailbox s.arg.a).busy = true →
    (i = .ctxDestroy → s.arg.a ≠ 0) → exec i s = .next s) ∧
  (∀ (s : State) (i : Instr) (op : Nat), pfCommand s i op → Submits s → s.arg.a ≠ 0 → refused i s op 2)

/-- R399, R403, R405, R410 (FEAT_READ, FEAT_ACCEPT, DOMAIN_SET, CORESET, POWER_CAP): the offered vector is read; it is
accepted once, and before any context; the module number and one route, a core set and the power limit are set; arguments
out of range give status 3. -/
def Sys2Proof.Claims.ModuleIsSetUp : Prop :=
  ∀ (s : State), Submits s →
    let a := fun n => (argOf s n).toNat
    (a 0 < 4 → ends .featRead s 0x01 0 (some (Config.offered.extractLsb' (64 * a 0) 64)) (leaves s s)) ∧
    (4 ≤ a 0 → refused .featRead s 0x01 3) ∧
    (s.arg.a = 0 →
      (s.accepted = none → (∀ c ∈ s.ctxs, c.live = false) → ends .featAccept s 0x02 0 none (leaves s { s with
        accepted := some ((argOf s 3 ++ argOf s 2 ++ argOf s 1 ++ argOf s 0 : BitVec 256) &&& Config.offered) })) ∧
      (s.accepted ≠ none ∨ (∃ c ∈ s.ctxs, c.live = true) → refused .featAccept s 0x02 2) ∧
      (a 0 < 64 → a 1 < 64 → a 2 < 2 ^ 18 → s.MemCanonical → ends .domainSet s 0x03 0 none fun s' =>
        s'.moduleNumber.toNat = a 0 ∧ s'.teams = s.teams ∧ s'.cores = s.cores ∧ s'.ctxs = s.ctxs ∧
        (∀ k, (spRead (0 : BitVec 18) s'.routes k).toNat = if k = a 1 then a 2 else (spRead (0 : BitVec 18) s.routes k).toNat) ∧
        ∀ x, memByte s'.mem (exchanged s.moduleNumber.toNat (a 0) x) = memByte s.mem x) ∧
      (64 ≤ a 0 ∨ 64 ≤ a 1 ∨ 2 ^ 18 ≤ a 2 → refused .domainSet s 0x03 3) ∧
      (a 0 < 64 → ends .coreset s 0x12 0 none (leaves s { s with
        coresets := spWrite 0 s.coresets (a 0) (argOf s 3 ++ argOf s 2 ++ argOf s 1 : BitVec 192) })) ∧
      (64 ≤ a 0 → refused .coreset s 0x12 3) ∧
      (1500 ≤ a 0 → a 0 ≤ 3600 → ends .powerCap s 0x60 0 none (leaves s { s with powerCap := a 0 })) ∧
      (a 0 < 1500 ∨ 3600 < a 0 → refused .powerCap s 0x60 3))

/-- Mailbox writes, and the commands that set up the module. -/
def Obligations.HostSetsUpTheModule : Prop :=
  Claims.MailboxTakesArgumentsAndCommands ∧
  Claims.ModuleIsSetUp

/-- R33, R121, R357, R399, R400, R403 (CTX_SETUP, CTX_CREATE, CTX_DESTROY): a context is set up, then built: its headers
and VECTOR cleared, its supervisor placed on the lowest core of its set from the header behind its ring; it is destroyed by
the death of all its teams, after which nothing of it is left. -/
def Obligations.ContextsAreBuiltAndDestroyed : Prop :=
  (∀ (s : State), Submits s → s.arg.a = 0 →
    let id := (argOf s 0).toNat
    (id < 64 → (argOf s 1).toNat % 4096 = 0 → (∀ c, ¬ inUse s id c) → ends .ctxSetup s 0x0F 0 none fun s' =>
      leaves s { s with ctxs := s'.ctxs } s' ∧
      s'.ctx? id = some { id, apBase := argOf s 1, saveSize := (argOf s 2).toNat } ∧
      ∀ k, k ≠ id → s'.ctx? k = s.ctx? k) ∧
    (64 ≤ id ∨ (argOf s 1).toNat % 4096 ≠ 0 ∨ (∃ c, inUse s id c) → refused .ctxSetup s 0x0F 3)) ∧
  (∀ (s : State), Submits s → s.arg.a = 0 →
    (s.accepted = none → refused .ctxCreate s 0x10 4) ∧
    (s.accepted ≠ none → (∀ c, ¬ SoundContext s c) → refused .ctxCreate s 0x10 3) ∧
    (∀ (c : Context) (k : Nat) (place : Nat → Nat), s.accepted ≠ none → SoundContext s c → c.id = (argOf s 0).toNat →
      lowest s c.id k →
      let c1 := builtContext s c (nextHandle s k 0 31)
      let h := supHeader s place
      SoundSupervisor s c1 k place → (∀ w ∈ clearedQ c1, ∀ j < w.2.length,
        byteStands s (gateOrigin c1) (w.1 + j) .write (place (w.1 + j))) →
      ends .ctxCreate s 0x10 0 none fun s' => s'.ctx? c.id = some c1 ∧ memWritten s s' place
          (clearedQ c1 ++ [((Config.estateBase c.id c1.supervisor).toNat, List.replicate (32 * hEstate h) 0)]) ∧
        ∃ t, s'.team? c1.supervisor = some t ∧ t.ctx = c.id ∧ t.lid = 1 ∧ t.pc = h.getD 7 0 ∧ t.clause = none ∧
          t.width = 2 ^ hLogw h ∧ t.regs = hRegs h ∧ t.dying = none ∧ t.stop = none ∧ t.preempted = false ∧
          match t.run with | .pending => True | _ => False)) ∧
  (∀ (s : State) (c : Context), Submits s → s.arg.a = 0 → inUse s (argOf s 0).toNat c →
    (∀ x ∈ s.ctxs, x.destroying = false) → (s.teams.map Team.tid).Nodup → (s.launches.map fun l => (l.ctx, l.lid)).Nodup → c.id = (argOf s 0).toNat →
    ∃ s', exec .ctxDestroy s = .next s' ∧ (s'.mailbox 0).busy = true ∧ (s'.mailbox 0).op = 0x11 ∧ s'.mem = s.mem ∧
      s'.ctx? c.id = some { c with destroying := true } ∧ (∀ l ∈ s'.launches, l.ctx = c.id → l.killed = true) ∧
      ∀ t ∈ s.teams, t.ctx = c.id → t.dying = none → ∃ u, s'.team? t.tid = some u ∧ diesAt s u) ∧
  (∀ (s : State) (c : Context), s.arg.a = 0 → s.ctxs.find? Context.destroying = some c →
    ((∃ t ∈ s.teams, t.ctx = c.id) → exec .ctxDestroy s = .next s) ∧
    ((∀ t ∈ s.teams, t.ctx ≠ c.id) → ∃ s', exec .ctxDestroy s = .next s' ∧
      (s'.mailbox 0).busy = false ∧ (s'.mailbox 0).status = 0 ∧ (s'.mailbox 0).doneTag = (s.mailbox 0).cmdTag ∧
      s'.mem = s.mem ∧ s'.teams = s.teams ∧ s'.ctx? c.id = none ∧
      (∀ l ∈ s'.launches, l.ctx ≠ c.id) ∧
      (∀ k < 192, ((s.core k).weirs.map Prod.fst).Nodup → ∀ n, (s'.weir k n).owner ≠ some c.id ∧
        ((s.weir k n).owner ≠ some c.id → s'.weir k n = s.weir k n)) ∧
      ∀ k < 192, (s.core k).routingCtx = some c.id → (s'.core k).routing = [] ∧
        (s'.core k).routingCtx = none))

/-- R335, R352, R399, R402 (PREEMPT, KILL_LAUNCH, REPORT): a context not in use, and a launch it never had, give status 3;
a running launch is told to stop, or its teams die by one event; the oldest unread report record is told, and the one told
before is freed. -/
def Sys2Proof.Claims.HostReachesLaunchesAndReports : Prop :=
  (∀ (s : State), Submits s → (∀ c, ¬ actsFor s c) →
    refused .preempt s 0x20 3 ∧ refused .killLaunch s 0x21 3 ∧ refused .debug s 0x30 3 ∧ refused .report s 0x40 3) ∧
  (∀ (s : State) (c : Context), Submits s → actsFor s c →
    let lid := (argOf s 0).toNat
    (s.launch? c.id lid = none → (lid ≠ 0 → refused .preempt s 0x20 3) ∧ refused .killLaunch s 0x21 3) ∧
    (lid = 0 → ends .preempt s 0x20 0 none fun _ => True) ∧
    (∀ l, s.launch? c.id lid = some l → lid ≠ 0 →
      (l.phase = .ended ∨ l.phase = .preempted → refused .preempt s 0x20 0) ∧
      (l.phase = .running → s.isSupLaunch c.id lid = false → s.plotsOf c.id lid ≠ [] → s.imageFits l = true →
        ends .preempt s 0x20 0 none fun s' => s'.mem = s.mem ∧
          (∃ m, s'.launch? c.id lid = some m ∧
            m = { l with phase := .saving, midPlacement := m.midPlacement, image := m.image } ∧
            ∀ p ∈ m.image, (p.runs.map Prod.snd).sum = recordBytes l.header p.of_) ∧
          s'.teams = s.teams.map fun t => if t.ctx = c.id ∧ t.lid = lid then t.endArm 2 else t)) ∧
    (∀ l, s.launch? c.id lid = some l →
      (l.phase = .ended → refused .killLaunch s 0x21 0) ∧
      (l.phase ≠ .ended → (s.teams.map Team.tid).Nodup → ends .killLaunch s 0x21 0 none fun s' => s'.mem = s.mem ∧
        (∃ m, s'.launch? c.id lid = some m ∧ m.killed = true) ∧
        ∀ t ∈ s.teams, t.ctx = c.id → t.lid = lid → t.dying = none → ∃ u, s'.team? t.tid = some u ∧ diesAt s u)) ∧
    (c.repRead < c.repWritten →
      ends .report s 0x40 0 (some (BitVec.ofNat 64 (c.saveAddr + 32 * (c.repRead % 1024)))) fun s' =>
        leaves s { s with ctxs := s'.ctxs } s' ∧
        s'.ctx? c.id = some { c with repFreed := c.repRead, repRead := c.repRead + 1 }) ∧
    (c.repWritten ≤ c.repRead → ends .report s 0x40 0 (some (BitVec.allOnes 64)) fun s' =>
      leaves s { s with ctxs := s'.ctxs } s' ∧ s'.ctx? c.id = some { c with repFreed := c.repRead }))

/-- R267 to R271, R399 (DEBUG): an ARG0 that breaks a rule gives status 3; WGET with CORE 255 tells 18; HINSP and HKILL act
as by a debug-privileged team of the context; HSTEP leaves BUSY until its target has stopped. -/
def Sys2Proof.Claims.HostDebugsAHaltedTeam : Prop :=
  ∀ (s : State) (c : Context), Submits s → actsFor s c →
    let x := argOf s 0
    let named := fun (u : Team) => s.team? ((argOf s 1).setWidth 32) = some u ∧ u.ctx = c.id
    let second := fun (e : Dword) (s' : State) => spRead 0 (s'.mailbox s.arg.a).args 5 = e
    let tells := fun (two : Bool) (d e : Dword) => ∃ s' y, exec .debug s = .next s' ∧
      s' = { s with mailboxes := s'.mailboxes, fresh := s'.fresh } ∧ (∀ k, k ≠ s.arg.a → s'.mailbox k = s.mailbox k) ∧
      s'.mailbox s.arg.a = { endedBox s 0x30 0 s.arg.tag d with args := y } ∧ (two = true → second e s') ∧
      ∀ n, two = false ∨ n ≠ 5 → spRead 0 y n = argOf s n
    ((field x 9 0 < 0x288 ∨ 0x28F < field x 9 0 ∨ field x 15 10 ≠ 0 ∨ field x 63 18 ≠ 0 ∨
      field x 17 16 ≠ 0 ∧ field x 9 0 ≠ 0x28D) → refused .debug s 0x30 3) ∧
    (x = 0x289 → s.feature 7 = true → field (argOf s 1) 15 8 = 255 → tells true 0 18) ∧
    (x = 0x28A → (∀ u, ¬ named u) → tells true 0 16) ∧
    (∀ u, x = 0x28A → named u → ¬ halted u → tells true 0 17) ∧
    (∀ u, x = 0x28A → named u → halted u → atRest s u → readsAsIs s u →
      tells true ((itemRule s u (argOf s 2)).getD 0) (if (itemRule s u (argOf s 2)).isSome then 0 else 18)) ∧
    (∀ u, x = 0x28E → named u → halted u → ends .debug s 0x30 0 (some 0) fun s' => ∃ w, s'.team? u.tid = some w ∧
      w.dying = some { killed := true, group := s.nextId, inSave := s.launchSaving u }) ∧
    (∀ u, x = 0x28C → named u → halted u → resumesPlainly u → 0 < field (argOf s 2) 47 32 → field (argOf s 2) 9 0 < u.width →
      (∀ k, u.run ≠ .parked k none) → ∃ s', exec .debug s = .next s' ∧ (s'.mailbox s.arg.a).busy = true ∧
        s'.team? u.tid = some { goesOn s u with stepping := some (hostStep s) })

/-- PREEMPT, KILL_LAUNCH, REPORT and DEBUG of the host. -/
def Obligations.HostPreemptsKillsReportsAndDebugs : Prop :=
  Claims.HostReachesLaunchesAndReports ∧
  Claims.HostDebugsAHaltedTeam

/-- R376, R377, R399, R407, R408 (COUNTERS, ATTEST): a counter is read, cleared or programmed and no other changes; a
report goes to the host's buffer with its signature, each by a leaf of its own, until the leaves are spent. The encodings
of a counter's selector and program are the implementation's. -/
def Obligations.CountersAndAttestationAnswer : Prop :=
  (∀ (s : State) (c : Config.CounterSel), Submits s → s.arg.a = 0 → Config.counterSel (argOf s 0) = some c →
    counterOk c = true →
    (argOf s 1 = 0 → ends .countersRead s 0x41 0 (some (counterRule s c)) (leaves s s)) ∧
    (argOf s 1 = 1 → ends .countersClear s 0x41 0 none fun s' => counterRule s' c = 0 ∧ s'.mem = s.mem ∧
      s'.teams = s.teams ∧ ∀ d, d ≠ c → counterRule s' d = counterRule s d) ∧
    (∀ k n, argOf s 1 = 2 → c = .perf k n → ends .countersProgram s 0x41 0 none fun s' => s'.mem = s.mem ∧
      s'.teams = s.teams ∧ (∀ d, counterRule s' d = counterRule s d) ∧
      (spRead ({} : Perf) (s'.core k).perf n).code = (Config.counterProgram (argOf s 2)).1 ∧
      (spRead ({} : Perf) (s'.core k).perf n).filter = (Config.counterProgram (argOf s 2)).2) ∧
    ((∀ k n, c ≠ .perf k n) → argOf s 1 = 2 → refused .countersProgram s 0x41 3)) ∧
  (∀ (s : State), Submits s → s.arg.a = 0 →
    (2 < (argOf s 1).toNat → refused .countersRead s 0x41 3) ∧
    (Config.counterSel (argOf s 0) = none → (argOf s 1 = 0 → refused .countersRead s 0x41 3) ∧
      (argOf s 1 = 1 → refused .countersClear s 0x41 3) ∧ (argOf s 1 = 2 → refused .countersProgram s 0x41 3))) ∧
  (∀ (s : State), Submits s → s.firmware.length = 4 →
    (2 ^ 25 ≤ s.nextLeaf → refused .attest s 0x50 4) ∧
    (s.nextLeaf < 2 ^ 25 → (argOf s 4).toNat + 2140 ≤ 2 ^ 45 → ends .attest s 0x50 0 (some 2140) fun s' =>
      s'.nextLeaf = s.nextLeaf + 1 ∧ memAs s s' (s.moduleNumber.toNat * 2 ^ 46 + 2 ^ 45 + (argOf s 4).toNat)
        (reportBody s ++ (List.range 1932).map fun n => Config.identitySignature s.nextLeaf (reportBody s) n)))

/-- R312, R314, R397, R402 (BAR2_READ, BAR2_WRITE): an access at an offset of BAR2 reaches the context's address APBASE + offset
through its page tables; a read that cannot be translated completes with Completer Abort, a write is dropped, and either
leaves a report record of kind 3; a function without a context reaches nothing. A piece of a write that is left stands until its
turn, and one that keeps its place waits for those of earlier writes that do. -/
def Obligations.HostReachesMemoryThroughItsAperture : Prop :=
  (∀ (s : State), s.bringup = .ready →
    (s.arg.b + s.arg.c ≤ 2 ^ 36 → (∀ c, ¬ (1 ≤ s.arg.a ∧ s.arg.a ≤ 64 ∧ inUse s (s.arg.a - 1) c)) →
      exec .bar2Read s = .next { s with hostReply := none }) ∧
    (s.arg.b + s.arg.bytes.length ≤ 2 ^ 36 → (∀ c, ¬ (1 ≤ s.arg.a ∧ s.arg.a ≤ 64 ∧ inUse s (s.arg.a - 1) c)) →
      exec .bar2Write s = .next s)) ∧
  (∀ (s : State) (n : Nat) (p : Posted) (rest : List Turn), s.agenda = .posted n :: rest → s.posted[n]? = some p →
    let waits := p.ordered = true ∧ ∃ q ∈ s.posted.take n, q.ordered = true ∧ q.write ≠ p.write
    (waits → step s = .next { s with agenda := rest }) ∧
    (¬ waits → ∃ s', step s = .next s' ∧ memAs s s' p.pa p.bytes ∧ s'.posted = s.posted.eraseIdx n)) ∧
  (∀ (s : State) (c : Context) (place : Nat → Nat), s.bringup = .ready → 1 ≤ s.arg.a → s.arg.a ≤ 64 →
    inUse s (s.arg.a - 1) c → c.id = s.arg.a - 1 → sectorwise place →
    let va := c.apBase.toNat + s.arg.b
    (s.arg.b + s.arg.c ≤ 2 ^ 36 → hostStands s c place va s.arg.c .read →
      ∃ s', exec .bar2Read s = .next s' ∧ s'.hostReply = some (bytesAt s place va s.arg.c) ∧
        sameButCaches { s with hostReply := s'.hostReply } s') ∧
    (∀ f, s.arg.b + s.arg.c ≤ 2 ^ 36 → 0 < s.arg.c → s.translate (corePort Config.cores) c.id va .read = .fault f →
      ∃ s', exec .bar2Read s = .next s' ∧ s'.hostReply = none ∧ failsWithReport s s' c f.cause va) ∧
    (s.arg.b + s.arg.bytes.length ≤ 2 ^ 36 → hostStands s c place va s.arg.bytes.length .write →
      (∀ i < s.arg.bytes.length, ∀ j < s.arg.bytes.length, place (va + i) = place (va + j) → i = j) →
      ∃ s', exec .bar2Write s = .next s' ∧ s'.hostReply = s.hostReply ∧
        (s.arg.c = 0 → s.arg.flag = true ∨ (∀ p ∈ s.posted, p.ordered = false) →
          memWritten s s' place [(va, s.arg.bytes)] ∧ s'.posted = s.posted) ∧
        (s.arg.bytes.length ≤ s.arg.c → s'.mem = s.mem ∧ ∃ ps, s'.posted = s.posted ++ ps ∧
          (ps.flatMap Posted.bytes) = s.arg.bytes ∧ ∀ p ∈ ps, p.ordered = !s.arg.flag ∧ p.bytes.length ≤ 8)) ∧
    (∀ f, s.arg.b + s.arg.bytes.length ≤ 2 ^ 36 → s.arg.bytes ≠ [] →
      s.translate (corePort Config.cores) c.id va .write = .fault f →
      ∃ s', exec .bar2Write s = .next s' ∧ failsWithReport s s' c f.cause va))

/-! ## Instructions, steps and the machine as a whole -/

namespace Sys2Proof.Claims

open Sys2Proof Sys2Proof.Machine

/-- R111, R152: a team about to issue issue 0 of a REP holds the mask as it stands, for every issue; any other team is as
it is. -/
def maskTaken (t : Team) : Team :=
  match t.clause with
  | some c =>
    match c.rep with
    | some r =>
      if r.m = 0 then { t with clause := some { c with rep := some { r with mask := some (BitVec.ofNat 1024
        ((List.range 16).foldr (fun i a => (t.getS i).toNat + a * 2 ^ 64) 0)) } } }
      else t
    | none => t
  | none => t

/-- The state with that team. -/
def withMask (s : State) (t : Team) : State := if maskTaken t = t then s else s.setTeam (maskTaken t)

/-- The step is the meaning of i in state s, beside the performance counters that see an issue (R376). -/
def stepRuns (s0 s : State) (core : Nat) (i : Instr) : Prop :=
  ∀ s', exec i s = .next s' → ∃ w, step s0 = .next w ∧ w = { s' with cores := w.cores } ∧
    (∀ k, w.core k = { s'.core k with perf := (w.core k).perf }) ∧ ((s'.core core).perf = [] → w = s')

/-- The team cur issues at this step: nothing stands on the agenda, or its turn is there, which sets its core's clock. -/
def issues (s0 s : State) : Prop :=
  s0.agenda = [] ∧ s = s0 ∨ ∃ h n rest, s0.agenda = .issue h n :: rest ∧ s = { s0 with
    agenda := rest, cur := h
    cores := spWrite {} s0.cores (coreOf h) { s0.core (coreOf h) with cyc := (s0.core (coreOf h)).cyc + n } }

/-- R152: the code of a field in issue m: unchanged with step 0, else of a vector register operand, m steps on within
0 to 383. -/
def stepped (code m : Nat) (step : Int) (vector : Bool) (c : Nat) : Prop :=
  step = 0 ∧ c = code ∨ step ≠ 0 ∧ vector = true ∧ code ≤ 383 ∧ c ≤ 383 ∧ (c : Int) = code + m * step

/-- R152: the fields of issue r.m of a repeated instruction. -/
def steppedTo (op : Nat) (f g : VFields) (r : Rep) : Prop :=
  let v := vectorFields op f
  stepped f.vd.toNat r.m r.stepD v.1 g.vd.toNat ∧ stepped f.va.toNat r.m r.stepA v.2.1 g.va.toNat ∧
    stepped f.vb.toNat r.m r.stepB v.2.2 g.vb.toNat ∧ g = { f with vd := g.vd, va := g.va, vb := g.vb }

/-- An S-format parcel (R92). -/
def parcelS (op d a b : Nat) : Word := BitVec.ofNat 32 (op * 2 ^ 22 + d * 2 ^ 15 + a * 2 ^ 8 + b)

/-- The two parcels of a V-format word (R93): KIND 1, OPCODE, VD, VA, VB, VC, FMT, MOD, FUNC. -/
def wordV (op d a b c fmt md fn : Nat) : List Word :=
  let w := 2 ^ 62 + op * 2 ^ 52 + d * 2 ^ 43 + a * 2 ^ 34 + b * 2 ^ 25 + c * 2 ^ 16 + fmt * 2 ^ 12 + md * 2 ^ 8 + fn
  [BitVec.ofNat 32 (w / 2 ^ 32), BitVec.ofNat 32 w]

end Sys2Proof.Claims

/-- R5 to R7, R92 to R96, R99 to R104: for every instruction that a word can hold, the decoder reads from its parcels that
instruction, with every operand, and no more parcels than its own. -/
def Obligations.EncodeDecodeAgree : Prop :=
  ∀ (i : Instr) (rest : List Word), i.wellFormed = true → decode (encode i ++ rest) = .ok i (encode i).length

/-- R92, R93, R99: words written out from the encodings decode to their instructions. -/
def Obligations.DecodeReadsSpecWords : Prop :=
  decode [parcelS 0x02 5 6 7] = .ok (.saddReg 5 6 7) 1 ∧
  decode [parcelS 0x03 127 0 0xFF] = .ok (.saddImm 127 0 (-1)) 1 ∧
  decode [0] = .ok .nop 1 ∧
  decode (wordV 0x010 1 2 3 0 0 0 0) =
    .ok (.vadd { vd := 1, va := 2, vb := 3, vc := 0, fmt := 0, md := 0, fn := 0, lit := none }) 2 ∧
  decode [parcelS 0x01 0 0 0] = .refused .unassigned ∧
  decode [0xC0000000] = .refused .header

/-- R11, R84, R91, R102, R111, R152, R376 (step): a team that issues starts a clause where it stands at a header; else the bytes at
its place are decoded and the step is the meaning of that instruction, under REP with the mask of issue 0 and its fields stepped, or
ILLEGAL_OPERAND. A turn of the agenda that is an event is that event's meaning. -/
def Obligations.StepRunsDecodedInstruction : Prop :=
  (∀ (s0 s : State) (t : Team) (c : Clause) (i : Instr) (n : Nat), issues s0 s → s.poised t = true → t.clause = some c →
    decode (c.body.drop c.pos) = .ok i n →
    (c.rep = none → stepRuns s0 s (coreOf t.tid) i) ∧
    (∀ r, c.rep = some r → r.stepD = 0 → r.stepA = 0 → r.stepB = 0 →
      stepRuns s0 (withMask s t) (coreOf t.tid) i) ∧
    (∀ r op f b g j, c.rep = some r → vOf i = some (op, f, b) → steppedTo op f g r → ofV op g = some j →
      stepRuns s0 (withMask s t) (coreOf t.tid) j) ∧
    (∀ r, c.rep = some r → vOf i = none → (r.stepD ≠ 0 ∨ r.stepA ≠ 0 ∨ r.stepB ≠ 0) →
      step s0 = .next ((withMask s t).trap (maskTaken t) 0x03 0 0 0))) ∧
  (∀ (s0 s : State) (t : Team), issues s0 s → s.team? s.cur = some t → t.clause = none → step s0 = exec .clauseStart s) ∧
  (∀ (s : State) (i : Instr) (a : EventArg) (rest : List Turn), s.agenda = .event i a :: rest → i.wellFormed = false →
    vOf i = none → step s = exec i { s with agenda := rest, arg := a })

/-- R9, R103 order 1 (ILLEGAL_OPCODE): a place whose parcels are no instruction, by a reserved opcode or a field that must be
zero, traps with cause 0x02. -/
def Sys2Proof.Claims.ReservedEncodingTraps : Prop :=
  ∀ (s0 s : State) (t : Team) (c : Clause) (e : DecodeError), issues s0 s → s.poised t = true → t.clause = some c →
    decode (c.body.drop c.pos) = .refused e →
    step s0 = .next ((withMask s t).trap (maskTaken t) 0x02 0 0 0)

/-- R103 (order of checks): a V-format or L-format instruction whose check fails traps with that check's cause, and does
nothing else. -/
def Sys2Proof.Claims.ChecksTrapInOrder : Prop :=
  ∀ (s : State) (t : Team) (i : Instr) (op : Nat) (f : VFields) (b : Bool) (cause : Nat), vOf i = some (op, f, b) →
    s.poised t = true → checkV s t op f = some cause → exec i s = .next (s.trap t cause 0 0 0)

/-- Reserved encodings trap, and the first failing check decides the trap. -/
def Obligations.ReservedEncodingsAndFailedChecksTrap : Prop :=
  Claims.ReservedEncodingTraps ∧
  Claims.ChecksTrapInOrder

/-- R277, R287 (memory): every step keeps memory in its canonical form: addresses strictly rising, and no entry that holds
what an unlisted byte reads as. -/
def Obligations.StepKeepsMemoryCanonical : Prop :=
  ∀ (s s' : State), s.MemCanonical → step s = .next s' → s'.MemCanonical

/-- R400, R403, R411: after reset no team, context or launch is there, no feature is accepted, the module waits for power,
its memory reads as zero (log entry 3) and stands in its canonical form. -/
def Obligations.ResetIsAsTheSpecSays : Prop :=
  State.reset.MemCanonical ∧ State.reset.teams = [] ∧ State.reset.ctxs = [] ∧ State.reset.launches = [] ∧
  State.reset.plots = [] ∧ State.reset.accepted = none ∧ State.reset.bringup = .off ∧ State.reset.moduleNumber = 0 ∧
  (∀ pa, memByte State.reset.mem pa = 0) ∧ (∀ k n, (State.reset.weir k n).en = false)
end

