-- ==== Sys2Proof/Laws/Sparse.lean ====
section
/-! SUPPORT. Laws of the sparse stores that hold registers and memory: what a read gives after a write, and that writes keep the canonical form. -/

namespace Sys2Proof.Machine

variable {α : Type}

theorem spRead_spErase_same (d : α) (m : Sparse α) (k : Nat) : spRead d (spErase m k) k = d := by
  induction m with
  | nil => rfl
  | cons a r ih =>
    by_cases h : k = a.1
    · simp [spErase, h]
      simpa [h] using ih
    · simp [spErase, spRead, h, ih]

theorem spRead_spErase_ne (d : α) (m : Sparse α) {k k' : Nat} (h : k' ≠ k) :
    spRead d (spErase m k) k' = spRead d m k' := by
  induction m with
  | nil => rfl
  | cons a r ih =>
    by_cases h1 : k = a.1
    · have : k' ≠ a.1 := h1 ▸ h
      simp [spErase, h1, spRead, this]
      simpa [h1] using ih
    · by_cases h2 : k' = a.1 <;> simp [spErase, spRead, h1, h2, ih]

theorem spRead_spInsert_same (d : α) (m : Sparse α) (k : Nat) (x : α) (hm : ∀ p ∈ m, p.1 ≠ k) :
    spRead d (spInsert m k x) k = x := by
  induction m with
  | nil => simp [spInsert, spRead]
  | cons a r ih =>
    have ha : k ≠ a.1 := fun e => hm a (by simp) e.symm
    have hr := ih fun p hp => hm p (by simp [hp])
    by_cases h : k < a.1 <;> simp [spInsert, spRead, h, ha, hr]

theorem spRead_spInsert_ne (d : α) (m : Sparse α) {k k' : Nat} (x : α) (h : k' ≠ k) :
    spRead d (spInsert m k x) k' = spRead d m k' := by
  induction m with
  | nil => simp [spInsert, spRead, h]
  | cons a r ih =>
    by_cases h1 : k < a.1
    · simp [spInsert, spRead, h1, h]
    · by_cases h2 : k' = a.1 <;> simp [spInsert, spRead, h1, h2, ih]

theorem spErase_mem {m : Sparse α} {k : Nat} {p : Nat × α} (h : p ∈ spErase m k) : p ∈ m ∧ p.1 ≠ k := by
  induction m with
  | nil => simp [spErase] at h
  | cons a r ih =>
    by_cases h1 : k = a.1
    · simp only [spErase, h1] at h
      have := ih (by simpa [h1] using h)
      exact ⟨by simp [this.1], this.2⟩
    · simp only [spErase, h1, if_false, List.mem_cons] at h
      rcases h with rfl | h
      · exact ⟨by simp, fun e => h1 e.symm⟩
      · exact ⟨by simp [(ih h).1], (ih h).2⟩

/-- A place holds what was written to it last. -/
theorem spRead_spWrite_same [DecidableEq α] (d : α) (m : Sparse α) (k : Nat) (x : α) :
    spRead d (spWrite d m k x) k = x := by
  by_cases h : x = d
  · simp [spWrite, h, spRead_spErase_same]
  · simp only [spWrite, h, if_false]
    exact spRead_spInsert_same d _ k x fun p hp => (spErase_mem hp).2

/-- A write leaves every other place alone. -/
theorem spRead_spWrite_ne [DecidableEq α] (d : α) (m : Sparse α) {k k' : Nat} (x : α) (h : k' ≠ k) :
    spRead d (spWrite d m k x) k' = spRead d m k' := by
  by_cases hx : x = d
  · simp [spWrite, hx, spRead_spErase_ne d m h]
  · simp [spWrite, hx, spRead_spInsert_ne d _ x h, spRead_spErase_ne d m h]

theorem spRead_spWrite [DecidableEq α] (d : α) (m : Sparse α) (k k' : Nat) (x : α) :
    spRead d (spWrite d m k x) k' = if k' = k then x else spRead d m k' := by
  by_cases h : k' = k
  · simp [h, spRead_spWrite_same]
  · simp [h, spRead_spWrite_ne d m x h]

/-! ## The canonical form -/

theorem spWfFrom_mono [DecidableEq α] {d : α} {m : Sparse α} {a b : Nat} (hab : b ≤ a)
    (h : spWfFrom d a m = true) : spWfFrom d b m = true := by
  cases m with
  | nil => rfl
  | cons p r =>
    simp only [spWfFrom, Bool.and_eq_true, decide_eq_true_eq] at h ⊢
    exact ⟨⟨Nat.le_trans hab h.1.1, h.1.2⟩, h.2⟩

theorem spWfFrom_spErase [DecidableEq α] (d : α) (m : Sparse α) (k lo : Nat)
    (h : spWfFrom d lo m = true) : spWfFrom d lo (spErase m k) = true := by
  induction m generalizing lo with
  | nil => rfl
  | cons p r ih =>
    simp only [spWfFrom, Bool.and_eq_true, decide_eq_true_eq] at h
    by_cases hk : k = p.1
    · simp only [spErase, hk, if_true]
      exact spWfFrom_mono (Nat.le_succ_of_le h.1.1) (by simpa [hk] using ih _ h.2)
    · simp only [spErase, hk, if_false, spWfFrom, Bool.and_eq_true, decide_eq_true_eq]
      exact ⟨h.1, ih _ h.2⟩

theorem spWfFrom_spInsert [DecidableEq α] (d : α) (m : Sparse α) (k lo : Nat) (x : α) (hx : x ≠ d)
    (hm : ∀ p ∈ m, p.1 ≠ k) (hk : lo ≤ k) (h : spWfFrom d lo m = true) :
    spWfFrom d lo (spInsert m k x) = true := by
  induction m generalizing lo with
  | nil => simp [spInsert, spWfFrom, hx, hk]
  | cons p r ih =>
    simp only [spWfFrom, Bool.and_eq_true, decide_eq_true_eq] at h
    have hp : p.1 ≠ k := hm p (by simp)
    by_cases hlt : k < p.1
    · simp only [spInsert, hlt, if_true, spWfFrom, Bool.and_eq_true, decide_eq_true_eq]
      exact ⟨⟨hk, hx⟩, ⟨hlt, h.1.2⟩, h.2⟩
    · simp only [spInsert, hlt, if_false, spWfFrom, Bool.and_eq_true, decide_eq_true_eq]
      exact ⟨h.1, ih _ (fun q hq => hm q (by simp [hq])) (by omega) h.2⟩

/-- A write keeps the canonical form. -/
theorem spWf_spWrite [DecidableEq α] (d : α) (m : Sparse α) (k : Nat) (x : α) (h : spWf d m = true) :
    spWf d (spWrite d m k x) = true := by
  by_cases hx : x = d
  · simpa [spWrite, hx, spWf] using spWfFrom_spErase d m k 0 h
  · simp only [spWrite, hx, if_false, spWf]
    exact spWfFrom_spInsert d _ k 0 x hx (fun p hp => (spErase_mem hp).2) (Nat.zero_le k)
      (spWfFrom_spErase d m k 0 h)

end Sys2Proof.Machine
end

