-- ==== Sys2Proof/Laws/State.lean ====
section
/-! SUPPORT. What each update of the state and of a team leaves as it was, field by field, and how a part reads after it was changed. -/

namespace Sys2Proof.Machine

/-! ## State.modTeam -/

@[simp] theorem State.modTeam_agenda (s : State) (h : Handle) (f : Team → Team) : (s.modTeam h f).agenda = s.agenda := rfl
@[simp] theorem State.modTeam_cur (s : State) (h : Handle) (f : Team → Team) : (s.modTeam h f).cur = s.cur := rfl
@[simp] theorem State.modTeam_arg (s : State) (h : Handle) (f : Team → Team) : (s.modTeam h f).arg = s.arg := rfl
@[simp] theorem State.modTeam_fresh (s : State) (h : Handle) (f : Team → Team) : (s.modTeam h f).fresh = s.fresh := rfl
@[simp] theorem State.modTeam_nextId (s : State) (h : Handle) (f : Team → Team) : (s.modTeam h f).nextId = s.nextId := rfl
@[simp] theorem State.modTeam_mem (s : State) (h : Handle) (f : Team → Team) : (s.modTeam h f).mem = s.mem := rfl
@[simp] theorem State.modTeam_poison (s : State) (h : Handle) (f : Team → Team) : (s.modTeam h f).poison = s.poison := rfl
@[simp] theorem State.modTeam_dcache (s : State) (h : Handle) (f : Team → Team) : (s.modTeam h f).dcache = s.dcache := rfl
@[simp] theorem State.modTeam_plru (s : State) (h : Handle) (f : Team → Team) : (s.modTeam h f).plru = s.plru := rfl
@[simp] theorem State.modTeam_covered (s : State) (h : Handle) (f : Team → Team) : (s.modTeam h f).covered = s.covered := rfl
@[simp] theorem State.modTeam_tags (s : State) (h : Handle) (f : Team → Team) : (s.modTeam h f).tags = s.tags := rfl
@[simp] theorem State.modTeam_exited (s : State) (h : Handle) (f : Team → Team) : (s.modTeam h f).exited = s.exited := rfl
@[simp] theorem State.modTeam_plots (s : State) (h : Handle) (f : Team → Team) : (s.modTeam h f).plots = s.plots := rfl
@[simp] theorem State.modTeam_crews (s : State) (h : Handle) (f : Team → Team) : (s.modTeam h f).crews = s.crews := rfl
@[simp] theorem State.modTeam_launches (s : State) (h : Handle) (f : Team → Team) : (s.modTeam h f).launches = s.launches := rfl
@[simp] theorem State.modTeam_ctxs (s : State) (h : Handle) (f : Team → Team) : (s.modTeam h f).ctxs = s.ctxs := rfl
@[simp] theorem State.modTeam_cores (s : State) (h : Handle) (f : Team → Team) : (s.modTeam h f).cores = s.cores := rfl
@[simp] theorem State.modTeam_coresets (s : State) (h : Handle) (f : Team → Team) : (s.modTeam h f).coresets = s.coresets := rfl
@[simp] theorem State.modTeam_ops (s : State) (h : Handle) (f : Team → Team) : (s.modTeam h f).ops = s.ops := rfl
@[simp] theorem State.modTeam_rputs (s : State) (h : Handle) (f : Team → Team) : (s.modTeam h f).rputs = s.rputs := rfl
@[simp] theorem State.modTeam_reqs (s : State) (h : Handle) (f : Team → Team) : (s.modTeam h f).reqs = s.reqs := rfl
@[simp] theorem State.modTeam_posted (s : State) (h : Handle) (f : Team → Team) : (s.modTeam h f).posted = s.posted := rfl
@[simp] theorem State.modTeam_lastServed (s : State) (h : Handle) (f : Team → Team) : (s.modTeam h f).lastServed = s.lastServed := rfl
@[simp] theorem State.modTeam_lockQ (s : State) (h : Handle) (f : Team → Team) : (s.modTeam h f).lockQ = s.lockQ := rfl
@[simp] theorem State.modTeam_permitQ (s : State) (h : Handle) (f : Team → Team) : (s.modTeam h f).permitQ = s.permitQ := rfl
@[simp] theorem State.modTeam_promiseQ (s : State) (h : Handle) (f : Team → Team) : (s.modTeam h f).promiseQ = s.promiseQ := rfl
@[simp] theorem State.modTeam_arms (s : State) (h : Handle) (f : Team → Team) : (s.modTeam h f).arms = s.arms := rfl
@[simp] theorem State.modTeam_syncOrder (s : State) (h : Handle) (f : Team → Team) : (s.modTeam h f).syncOrder = s.syncOrder := rfl
@[simp] theorem State.modTeam_spilled (s : State) (h : Handle) (f : Team → Team) : (s.modTeam h f).spilled = s.spilled := rfl
@[simp] theorem State.modTeam_barriers (s : State) (h : Handle) (f : Team → Team) : (s.modTeam h f).barriers = s.barriers := rfl
@[simp] theorem State.modTeam_copies (s : State) (h : Handle) (f : Team → Team) : (s.modTeam h f).copies = s.copies := rfl
@[simp] theorem State.modTeam_bales (s : State) (h : Handle) (f : Team → Team) : (s.modTeam h f).bales = s.bales := rfl
@[simp] theorem State.modTeam_colls (s : State) (h : Handle) (f : Team → Team) : (s.modTeam h f).colls = s.colls := rfl
@[simp] theorem State.modTeam_snaps (s : State) (h : Handle) (f : Team → Team) : (s.modTeam h f).snaps = s.snaps := rfl
@[simp] theorem State.modTeam_orphans (s : State) (h : Handle) (f : Team → Team) : (s.modTeam h f).orphans = s.orphans := rfl
@[simp] theorem State.modTeam_lastCtx (s : State) (h : Handle) (f : Team → Team) : (s.modTeam h f).lastCtx = s.lastCtx := rfl
@[simp] theorem State.modTeam_gang (s : State) (h : Handle) (f : Team → Team) : (s.modTeam h f).gang = s.gang := rfl
@[simp] theorem State.modTeam_gangHeads (s : State) (h : Handle) (f : Team → Team) : (s.modTeam h f).gangHeads = s.gangHeads := rfl
@[simp] theorem State.modTeam_bringup (s : State) (h : Handle) (f : Team → Team) : (s.modTeam h f).bringup = s.bringup := rfl
@[simp] theorem State.modTeam_firmware (s : State) (h : Handle) (f : Team → Team) : (s.modTeam h f).firmware = s.firmware := rfl
@[simp] theorem State.modTeam_accepted (s : State) (h : Handle) (f : Team → Team) : (s.modTeam h f).accepted = s.accepted := rfl
@[simp] theorem State.modTeam_moduleNumber (s : State) (h : Handle) (f : Team → Team) : (s.modTeam h f).moduleNumber = s.moduleNumber := rfl
@[simp] theorem State.modTeam_routes (s : State) (h : Handle) (f : Team → Team) : (s.modTeam h f).routes = s.routes := rfl
@[simp] theorem State.modTeam_links (s : State) (h : Handle) (f : Team → Team) : (s.modTeam h f).links = s.links := rfl
@[simp] theorem State.modTeam_mailboxes (s : State) (h : Handle) (f : Team → Team) : (s.modTeam h f).mailboxes = s.mailboxes := rfl
@[simp] theorem State.modTeam_hostReply (s : State) (h : Handle) (f : Team → Team) : (s.modTeam h f).hostReply = s.hostReply := rfl
@[simp] theorem State.modTeam_peerReply (s : State) (h : Handle) (f : Team → Team) : (s.modTeam h f).peerReply = s.peerReply := rfl
@[simp] theorem State.modTeam_nextLeaf (s : State) (h : Handle) (f : Team → Team) : (s.modTeam h f).nextLeaf = s.nextLeaf := rfl
@[simp] theorem State.modTeam_arrayErrs (s : State) (h : Handle) (f : Team → Team) : (s.modTeam h f).arrayErrs = s.arrayErrs := rfl
@[simp] theorem State.modTeam_powerCap (s : State) (h : Handle) (f : Team → Team) : (s.modTeam h f).powerCap = s.powerCap := rfl
@[simp] theorem State.modTeam_clock (s : State) (h : Handle) (f : Team → Team) : (s.modTeam h f).clock = s.clock := rfl
@[simp] theorem State.modTeam_thermalTrip (s : State) (h : Handle) (f : Team → Team) : (s.modTeam h f).thermalTrip = s.thermalTrip := rfl

/-! ## State.setTeam -/

@[simp] theorem State.setTeam_agenda (s : State) (u : Team) : (s.setTeam u).agenda = s.agenda := rfl
@[simp] theorem State.setTeam_cur (s : State) (u : Team) : (s.setTeam u).cur = s.cur := rfl
@[simp] theorem State.setTeam_arg (s : State) (u : Team) : (s.setTeam u).arg = s.arg := rfl
@[simp] theorem State.setTeam_fresh (s : State) (u : Team) : (s.setTeam u).fresh = s.fresh := rfl
@[simp] theorem State.setTeam_nextId (s : State) (u : Team) : (s.setTeam u).nextId = s.nextId := rfl
@[simp] theorem State.setTeam_mem (s : State) (u : Team) : (s.setTeam u).mem = s.mem := rfl
@[simp] theorem State.setTeam_poison (s : State) (u : Team) : (s.setTeam u).poison = s.poison := rfl
@[simp] theorem State.setTeam_dcache (s : State) (u : Team) : (s.setTeam u).dcache = s.dcache := rfl
@[simp] theorem State.setTeam_plru (s : State) (u : Team) : (s.setTeam u).plru = s.plru := rfl
@[simp] theorem State.setTeam_covered (s : State) (u : Team) : (s.setTeam u).covered = s.covered := rfl
@[simp] theorem State.setTeam_tags (s : State) (u : Team) : (s.setTeam u).tags = s.tags := rfl
@[simp] theorem State.setTeam_exited (s : State) (u : Team) : (s.setTeam u).exited = s.exited := rfl
@[simp] theorem State.setTeam_plots (s : State) (u : Team) : (s.setTeam u).plots = s.plots := rfl
@[simp] theorem State.setTeam_crews (s : State) (u : Team) : (s.setTeam u).crews = s.crews := rfl
@[simp] theorem State.setTeam_launches (s : State) (u : Team) : (s.setTeam u).launches = s.launches := rfl
@[simp] theorem State.setTeam_ctxs (s : State) (u : Team) : (s.setTeam u).ctxs = s.ctxs := rfl
@[simp] theorem State.setTeam_cores (s : State) (u : Team) : (s.setTeam u).cores = s.cores := rfl
@[simp] theorem State.setTeam_coresets (s : State) (u : Team) : (s.setTeam u).coresets = s.coresets := rfl
@[simp] theorem State.setTeam_ops (s : State) (u : Team) : (s.setTeam u).ops = s.ops := rfl
@[simp] theorem State.setTeam_rputs (s : State) (u : Team) : (s.setTeam u).rputs = s.rputs := rfl
@[simp] theorem State.setTeam_reqs (s : State) (u : Team) : (s.setTeam u).reqs = s.reqs := rfl
@[simp] theorem State.setTeam_posted (s : State) (u : Team) : (s.setTeam u).posted = s.posted := rfl
@[simp] theorem State.setTeam_lastServed (s : State) (u : Team) : (s.setTeam u).lastServed = s.lastServed := rfl
@[simp] theorem State.setTeam_lockQ (s : State) (u : Team) : (s.setTeam u).lockQ = s.lockQ := rfl
@[simp] theorem State.setTeam_permitQ (s : State) (u : Team) : (s.setTeam u).permitQ = s.permitQ := rfl
@[simp] theorem State.setTeam_promiseQ (s : State) (u : Team) : (s.setTeam u).promiseQ = s.promiseQ := rfl
@[simp] theorem State.setTeam_arms (s : State) (u : Team) : (s.setTeam u).arms = s.arms := rfl
@[simp] theorem State.setTeam_syncOrder (s : State) (u : Team) : (s.setTeam u).syncOrder = s.syncOrder := rfl
@[simp] theorem State.setTeam_spilled (s : State) (u : Team) : (s.setTeam u).spilled = s.spilled := rfl
@[simp] theorem State.setTeam_barriers (s : State) (u : Team) : (s.setTeam u).barriers = s.barriers := rfl
@[simp] theorem State.setTeam_copies (s : State) (u : Team) : (s.setTeam u).copies = s.copies := rfl
@[simp] theorem State.setTeam_bales (s : State) (u : Team) : (s.setTeam u).bales = s.bales := rfl
@[simp] theorem State.setTeam_colls (s : State) (u : Team) : (s.setTeam u).colls = s.colls := rfl
@[simp] theorem State.setTeam_snaps (s : State) (u : Team) : (s.setTeam u).snaps = s.snaps := rfl
@[simp] theorem State.setTeam_orphans (s : State) (u : Team) : (s.setTeam u).orphans = s.orphans := rfl
@[simp] theorem State.setTeam_lastCtx (s : State) (u : Team) : (s.setTeam u).lastCtx = s.lastCtx := rfl
@[simp] theorem State.setTeam_gang (s : State) (u : Team) : (s.setTeam u).gang = s.gang := rfl
@[simp] theorem State.setTeam_gangHeads (s : State) (u : Team) : (s.setTeam u).gangHeads = s.gangHeads := rfl
@[simp] theorem State.setTeam_bringup (s : State) (u : Team) : (s.setTeam u).bringup = s.bringup := rfl
@[simp] theorem State.setTeam_firmware (s : State) (u : Team) : (s.setTeam u).firmware = s.firmware := rfl
@[simp] theorem State.setTeam_accepted (s : State) (u : Team) : (s.setTeam u).accepted = s.accepted := rfl
@[simp] theorem State.setTeam_moduleNumber (s : State) (u : Team) : (s.setTeam u).moduleNumber = s.moduleNumber := rfl
@[simp] theorem State.setTeam_routes (s : State) (u : Team) : (s.setTeam u).routes = s.routes := rfl
@[simp] theorem State.setTeam_links (s : State) (u : Team) : (s.setTeam u).links = s.links := rfl
@[simp] theorem State.setTeam_mailboxes (s : State) (u : Team) : (s.setTeam u).mailboxes = s.mailboxes := rfl
@[simp] theorem State.setTeam_hostReply (s : State) (u : Team) : (s.setTeam u).hostReply = s.hostReply := rfl
@[simp] theorem State.setTeam_peerReply (s : State) (u : Team) : (s.setTeam u).peerReply = s.peerReply := rfl
@[simp] theorem State.setTeam_nextLeaf (s : State) (u : Team) : (s.setTeam u).nextLeaf = s.nextLeaf := rfl
@[simp] theorem State.setTeam_arrayErrs (s : State) (u : Team) : (s.setTeam u).arrayErrs = s.arrayErrs := rfl
@[simp] theorem State.setTeam_powerCap (s : State) (u : Team) : (s.setTeam u).powerCap = s.powerCap := rfl
@[simp] theorem State.setTeam_clock (s : State) (u : Team) : (s.setTeam u).clock = s.clock := rfl
@[simp] theorem State.setTeam_thermalTrip (s : State) (u : Team) : (s.setTeam u).thermalTrip = s.thermalTrip := rfl

/-! ## State.modCtx -/

@[simp] theorem State.modCtx_agenda (s : State) (c : Nat) (f : Context → Context) : (s.modCtx c f).agenda = s.agenda := rfl
@[simp] theorem State.modCtx_cur (s : State) (c : Nat) (f : Context → Context) : (s.modCtx c f).cur = s.cur := rfl
@[simp] theorem State.modCtx_arg (s : State) (c : Nat) (f : Context → Context) : (s.modCtx c f).arg = s.arg := rfl
@[simp] theorem State.modCtx_fresh (s : State) (c : Nat) (f : Context → Context) : (s.modCtx c f).fresh = s.fresh := rfl
@[simp] theorem State.modCtx_nextId (s : State) (c : Nat) (f : Context → Context) : (s.modCtx c f).nextId = s.nextId := rfl
@[simp] theorem State.modCtx_mem (s : State) (c : Nat) (f : Context → Context) : (s.modCtx c f).mem = s.mem := rfl
@[simp] theorem State.modCtx_poison (s : State) (c : Nat) (f : Context → Context) : (s.modCtx c f).poison = s.poison := rfl
@[simp] theorem State.modCtx_dcache (s : State) (c : Nat) (f : Context → Context) : (s.modCtx c f).dcache = s.dcache := rfl
@[simp] theorem State.modCtx_plru (s : State) (c : Nat) (f : Context → Context) : (s.modCtx c f).plru = s.plru := rfl
@[simp] theorem State.modCtx_covered (s : State) (c : Nat) (f : Context → Context) : (s.modCtx c f).covered = s.covered := rfl
@[simp] theorem State.modCtx_tags (s : State) (c : Nat) (f : Context → Context) : (s.modCtx c f).tags = s.tags := rfl
@[simp] theorem State.modCtx_teams (s : State) (c : Nat) (f : Context → Context) : (s.modCtx c f).teams = s.teams := rfl
@[simp] theorem State.modCtx_exited (s : State) (c : Nat) (f : Context → Context) : (s.modCtx c f).exited = s.exited := rfl
@[simp] theorem State.modCtx_plots (s : State) (c : Nat) (f : Context → Context) : (s.modCtx c f).plots = s.plots := rfl
@[simp] theorem State.modCtx_crews (s : State) (c : Nat) (f : Context → Context) : (s.modCtx c f).crews = s.crews := rfl
@[simp] theorem State.modCtx_launches (s : State) (c : Nat) (f : Context → Context) : (s.modCtx c f).launches = s.launches := rfl
@[simp] theorem State.modCtx_cores (s : State) (c : Nat) (f : Context → Context) : (s.modCtx c f).cores = s.cores := rfl
@[simp] theorem State.modCtx_coresets (s : State) (c : Nat) (f : Context → Context) : (s.modCtx c f).coresets = s.coresets := rfl
@[simp] theorem State.modCtx_ops (s : State) (c : Nat) (f : Context → Context) : (s.modCtx c f).ops = s.ops := rfl
@[simp] theorem State.modCtx_rputs (s : State) (c : Nat) (f : Context → Context) : (s.modCtx c f).rputs = s.rputs := rfl
@[simp] theorem State.modCtx_reqs (s : State) (c : Nat) (f : Context → Context) : (s.modCtx c f).reqs = s.reqs := rfl
@[simp] theorem State.modCtx_posted (s : State) (c : Nat) (f : Context → Context) : (s.modCtx c f).posted = s.posted := rfl
@[simp] theorem State.modCtx_lastServed (s : State) (c : Nat) (f : Context → Context) : (s.modCtx c f).lastServed = s.lastServed := rfl
@[simp] theorem State.modCtx_lockQ (s : State) (c : Nat) (f : Context → Context) : (s.modCtx c f).lockQ = s.lockQ := rfl
@[simp] theorem State.modCtx_permitQ (s : State) (c : Nat) (f : Context → Context) : (s.modCtx c f).permitQ = s.permitQ := rfl
@[simp] theorem State.modCtx_promiseQ (s : State) (c : Nat) (f : Context → Context) : (s.modCtx c f).promiseQ = s.promiseQ := rfl
@[simp] theorem State.modCtx_arms (s : State) (c : Nat) (f : Context → Context) : (s.modCtx c f).arms = s.arms := rfl
@[simp] theorem State.modCtx_syncOrder (s : State) (c : Nat) (f : Context → Context) : (s.modCtx c f).syncOrder = s.syncOrder := rfl
@[simp] theorem State.modCtx_spilled (s : State) (c : Nat) (f : Context → Context) : (s.modCtx c f).spilled = s.spilled := rfl
@[simp] theorem State.modCtx_barriers (s : State) (c : Nat) (f : Context → Context) : (s.modCtx c f).barriers = s.barriers := rfl
@[simp] theorem State.modCtx_copies (s : State) (c : Nat) (f : Context → Context) : (s.modCtx c f).copies = s.copies := rfl
@[simp] theorem State.modCtx_bales (s : State) (c : Nat) (f : Context → Context) : (s.modCtx c f).bales = s.bales := rfl
@[simp] theorem State.modCtx_colls (s : State) (c : Nat) (f : Context → Context) : (s.modCtx c f).colls = s.colls := rfl
@[simp] theorem State.modCtx_snaps (s : State) (c : Nat) (f : Context → Context) : (s.modCtx c f).snaps = s.snaps := rfl
@[simp] theorem State.modCtx_orphans (s : State) (c : Nat) (f : Context → Context) : (s.modCtx c f).orphans = s.orphans := rfl
@[simp] theorem State.modCtx_lastCtx (s : State) (c : Nat) (f : Context → Context) : (s.modCtx c f).lastCtx = s.lastCtx := rfl
@[simp] theorem State.modCtx_gang (s : State) (c : Nat) (f : Context → Context) : (s.modCtx c f).gang = s.gang := rfl
@[simp] theorem State.modCtx_gangHeads (s : State) (c : Nat) (f : Context → Context) : (s.modCtx c f).gangHeads = s.gangHeads := rfl
@[simp] theorem State.modCtx_bringup (s : State) (c : Nat) (f : Context → Context) : (s.modCtx c f).bringup = s.bringup := rfl
@[simp] theorem State.modCtx_firmware (s : State) (c : Nat) (f : Context → Context) : (s.modCtx c f).firmware = s.firmware := rfl
@[simp] theorem State.modCtx_accepted (s : State) (c : Nat) (f : Context → Context) : (s.modCtx c f).accepted = s.accepted := rfl
@[simp] theorem State.modCtx_moduleNumber (s : State) (c : Nat) (f : Context → Context) : (s.modCtx c f).moduleNumber = s.moduleNumber := rfl
@[simp] theorem State.modCtx_routes (s : State) (c : Nat) (f : Context → Context) : (s.modCtx c f).routes = s.routes := rfl
@[simp] theorem State.modCtx_links (s : State) (c : Nat) (f : Context → Context) : (s.modCtx c f).links = s.links := rfl
@[simp] theorem State.modCtx_mailboxes (s : State) (c : Nat) (f : Context → Context) : (s.modCtx c f).mailboxes = s.mailboxes := rfl
@[simp] theorem State.modCtx_hostReply (s : State) (c : Nat) (f : Context → Context) : (s.modCtx c f).hostReply = s.hostReply := rfl
@[simp] theorem State.modCtx_peerReply (s : State) (c : Nat) (f : Context → Context) : (s.modCtx c f).peerReply = s.peerReply := rfl
@[simp] theorem State.modCtx_nextLeaf (s : State) (c : Nat) (f : Context → Context) : (s.modCtx c f).nextLeaf = s.nextLeaf := rfl
@[simp] theorem State.modCtx_arrayErrs (s : State) (c : Nat) (f : Context → Context) : (s.modCtx c f).arrayErrs = s.arrayErrs := rfl
@[simp] theorem State.modCtx_powerCap (s : State) (c : Nat) (f : Context → Context) : (s.modCtx c f).powerCap = s.powerCap := rfl
@[simp] theorem State.modCtx_clock (s : State) (c : Nat) (f : Context → Context) : (s.modCtx c f).clock = s.clock := rfl
@[simp] theorem State.modCtx_thermalTrip (s : State) (c : Nat) (f : Context → Context) : (s.modCtx c f).thermalTrip = s.thermalTrip := rfl

/-! ## State.modPlot -/

@[simp] theorem State.modPlot_agenda (s : State) (p : Nat) (f : Plot → Plot) : (s.modPlot p f).agenda = s.agenda := rfl
@[simp] theorem State.modPlot_cur (s : State) (p : Nat) (f : Plot → Plot) : (s.modPlot p f).cur = s.cur := rfl
@[simp] theorem State.modPlot_arg (s : State) (p : Nat) (f : Plot → Plot) : (s.modPlot p f).arg = s.arg := rfl
@[simp] theorem State.modPlot_fresh (s : State) (p : Nat) (f : Plot → Plot) : (s.modPlot p f).fresh = s.fresh := rfl
@[simp] theorem State.modPlot_nextId (s : State) (p : Nat) (f : Plot → Plot) : (s.modPlot p f).nextId = s.nextId := rfl
@[simp] theorem State.modPlot_mem (s : State) (p : Nat) (f : Plot → Plot) : (s.modPlot p f).mem = s.mem := rfl
@[simp] theorem State.modPlot_poison (s : State) (p : Nat) (f : Plot → Plot) : (s.modPlot p f).poison = s.poison := rfl
@[simp] theorem State.modPlot_dcache (s : State) (p : Nat) (f : Plot → Plot) : (s.modPlot p f).dcache = s.dcache := rfl
@[simp] theorem State.modPlot_plru (s : State) (p : Nat) (f : Plot → Plot) : (s.modPlot p f).plru = s.plru := rfl
@[simp] theorem State.modPlot_covered (s : State) (p : Nat) (f : Plot → Plot) : (s.modPlot p f).covered = s.covered := rfl
@[simp] theorem State.modPlot_tags (s : State) (p : Nat) (f : Plot → Plot) : (s.modPlot p f).tags = s.tags := rfl
@[simp] theorem State.modPlot_teams (s : State) (p : Nat) (f : Plot → Plot) : (s.modPlot p f).teams = s.teams := rfl
@[simp] theorem State.modPlot_exited (s : State) (p : Nat) (f : Plot → Plot) : (s.modPlot p f).exited = s.exited := rfl
@[simp] theorem State.modPlot_crews (s : State) (p : Nat) (f : Plot → Plot) : (s.modPlot p f).crews = s.crews := rfl
@[simp] theorem State.modPlot_launches (s : State) (p : Nat) (f : Plot → Plot) : (s.modPlot p f).launches = s.launches := rfl
@[simp] theorem State.modPlot_ctxs (s : State) (p : Nat) (f : Plot → Plot) : (s.modPlot p f).ctxs = s.ctxs := rfl
@[simp] theorem State.modPlot_cores (s : State) (p : Nat) (f : Plot → Plot) : (s.modPlot p f).cores = s.cores := rfl
@[simp] theorem State.modPlot_coresets (s : State) (p : Nat) (f : Plot → Plot) : (s.modPlot p f).coresets = s.coresets := rfl
@[simp] theorem State.modPlot_ops (s : State) (p : Nat) (f : Plot → Plot) : (s.modPlot p f).ops = s.ops := rfl
@[simp] theorem State.modPlot_rputs (s : State) (p : Nat) (f : Plot → Plot) : (s.modPlot p f).rputs = s.rputs := rfl
@[simp] theorem State.modPlot_reqs (s : State) (p : Nat) (f : Plot → Plot) : (s.modPlot p f).reqs = s.reqs := rfl
@[simp] theorem State.modPlot_posted (s : State) (p : Nat) (f : Plot → Plot) : (s.modPlot p f).posted = s.posted := rfl
@[simp] theorem State.modPlot_lastServed (s : State) (p : Nat) (f : Plot → Plot) : (s.modPlot p f).lastServed = s.lastServed := rfl
@[simp] theorem State.modPlot_lockQ (s : State) (p : Nat) (f : Plot → Plot) : (s.modPlot p f).lockQ = s.lockQ := rfl
@[simp] theorem State.modPlot_permitQ (s : State) (p : Nat) (f : Plot → Plot) : (s.modPlot p f).permitQ = s.permitQ := rfl
@[simp] theorem State.modPlot_promiseQ (s : State) (p : Nat) (f : Plot → Plot) : (s.modPlot p f).promiseQ = s.promiseQ := rfl
@[simp] theorem State.modPlot_arms (s : State) (p : Nat) (f : Plot → Plot) : (s.modPlot p f).arms = s.arms := rfl
@[simp] theorem State.modPlot_syncOrder (s : State) (p : Nat) (f : Plot → Plot) : (s.modPlot p f).syncOrder = s.syncOrder := rfl
@[simp] theorem State.modPlot_spilled (s : State) (p : Nat) (f : Plot → Plot) : (s.modPlot p f).spilled = s.spilled := rfl
@[simp] theorem State.modPlot_barriers (s : State) (p : Nat) (f : Plot → Plot) : (s.modPlot p f).barriers = s.barriers := rfl
@[simp] theorem State.modPlot_copies (s : State) (p : Nat) (f : Plot → Plot) : (s.modPlot p f).copies = s.copies := rfl
@[simp] theorem State.modPlot_bales (s : State) (p : Nat) (f : Plot → Plot) : (s.modPlot p f).bales = s.bales := rfl
@[simp] theorem State.modPlot_colls (s : State) (p : Nat) (f : Plot → Plot) : (s.modPlot p f).colls = s.colls := rfl
@[simp] theorem State.modPlot_snaps (s : State) (p : Nat) (f : Plot → Plot) : (s.modPlot p f).snaps = s.snaps := rfl
@[simp] theorem State.modPlot_orphans (s : State) (p : Nat) (f : Plot → Plot) : (s.modPlot p f).orphans = s.orphans := rfl
@[simp] theorem State.modPlot_lastCtx (s : State) (p : Nat) (f : Plot → Plot) : (s.modPlot p f).lastCtx = s.lastCtx := rfl
@[simp] theorem State.modPlot_gang (s : State) (p : Nat) (f : Plot → Plot) : (s.modPlot p f).gang = s.gang := rfl
@[simp] theorem State.modPlot_gangHeads (s : State) (p : Nat) (f : Plot → Plot) : (s.modPlot p f).gangHeads = s.gangHeads := rfl
@[simp] theorem State.modPlot_bringup (s : State) (p : Nat) (f : Plot → Plot) : (s.modPlot p f).bringup = s.bringup := rfl
@[simp] theorem State.modPlot_firmware (s : State) (p : Nat) (f : Plot → Plot) : (s.modPlot p f).firmware = s.firmware := rfl
@[simp] theorem State.modPlot_accepted (s : State) (p : Nat) (f : Plot → Plot) : (s.modPlot p f).accepted = s.accepted := rfl
@[simp] theorem State.modPlot_moduleNumber (s : State) (p : Nat) (f : Plot → Plot) : (s.modPlot p f).moduleNumber = s.moduleNumber := rfl
@[simp] theorem State.modPlot_routes (s : State) (p : Nat) (f : Plot → Plot) : (s.modPlot p f).routes = s.routes := rfl
@[simp] theorem State.modPlot_links (s : State) (p : Nat) (f : Plot → Plot) : (s.modPlot p f).links = s.links := rfl
@[simp] theorem State.modPlot_mailboxes (s : State) (p : Nat) (f : Plot → Plot) : (s.modPlot p f).mailboxes = s.mailboxes := rfl
@[simp] theorem State.modPlot_hostReply (s : State) (p : Nat) (f : Plot → Plot) : (s.modPlot p f).hostReply = s.hostReply := rfl
@[simp] theorem State.modPlot_peerReply (s : State) (p : Nat) (f : Plot → Plot) : (s.modPlot p f).peerReply = s.peerReply := rfl
@[simp] theorem State.modPlot_nextLeaf (s : State) (p : Nat) (f : Plot → Plot) : (s.modPlot p f).nextLeaf = s.nextLeaf := rfl
@[simp] theorem State.modPlot_arrayErrs (s : State) (p : Nat) (f : Plot → Plot) : (s.modPlot p f).arrayErrs = s.arrayErrs := rfl
@[simp] theorem State.modPlot_powerCap (s : State) (p : Nat) (f : Plot → Plot) : (s.modPlot p f).powerCap = s.powerCap := rfl
@[simp] theorem State.modPlot_clock (s : State) (p : Nat) (f : Plot → Plot) : (s.modPlot p f).clock = s.clock := rfl
@[simp] theorem State.modPlot_thermalTrip (s : State) (p : Nat) (f : Plot → Plot) : (s.modPlot p f).thermalTrip = s.thermalTrip := rfl

/-! ## State.modCrew -/

@[simp] theorem State.modCrew_agenda (s : State) (c : Nat) (f : Crew → Crew) : (s.modCrew c f).agenda = s.agenda := rfl
@[simp] theorem State.modCrew_cur (s : State) (c : Nat) (f : Crew → Crew) : (s.modCrew c f).cur = s.cur := rfl
@[simp] theorem State.modCrew_arg (s : State) (c : Nat) (f : Crew → Crew) : (s.modCrew c f).arg = s.arg := rfl
@[simp] theorem State.modCrew_fresh (s : State) (c : Nat) (f : Crew → Crew) : (s.modCrew c f).fresh = s.fresh := rfl
@[simp] theorem State.modCrew_nextId (s : State) (c : Nat) (f : Crew → Crew) : (s.modCrew c f).nextId = s.nextId := rfl
@[simp] theorem State.modCrew_mem (s : State) (c : Nat) (f : Crew → Crew) : (s.modCrew c f).mem = s.mem := rfl
@[simp] theorem State.modCrew_poison (s : State) (c : Nat) (f : Crew → Crew) : (s.modCrew c f).poison = s.poison := rfl
@[simp] theorem State.modCrew_dcache (s : State) (c : Nat) (f : Crew → Crew) : (s.modCrew c f).dcache = s.dcache := rfl
@[simp] theorem State.modCrew_plru (s : State) (c : Nat) (f : Crew → Crew) : (s.modCrew c f).plru = s.plru := rfl
@[simp] theorem State.modCrew_covered (s : State) (c : Nat) (f : Crew → Crew) : (s.modCrew c f).covered = s.covered := rfl
@[simp] theorem State.modCrew_tags (s : State) (c : Nat) (f : Crew → Crew) : (s.modCrew c f).tags = s.tags := rfl
@[simp] theorem State.modCrew_teams (s : State) (c : Nat) (f : Crew → Crew) : (s.modCrew c f).teams = s.teams := rfl
@[simp] theorem State.modCrew_exited (s : State) (c : Nat) (f : Crew → Crew) : (s.modCrew c f).exited = s.exited := rfl
@[simp] theorem State.modCrew_plots (s : State) (c : Nat) (f : Crew → Crew) : (s.modCrew c f).plots = s.plots := rfl
@[simp] theorem State.modCrew_launches (s : State) (c : Nat) (f : Crew → Crew) : (s.modCrew c f).launches = s.launches := rfl
@[simp] theorem State.modCrew_ctxs (s : State) (c : Nat) (f : Crew → Crew) : (s.modCrew c f).ctxs = s.ctxs := rfl
@[simp] theorem State.modCrew_cores (s : State) (c : Nat) (f : Crew → Crew) : (s.modCrew c f).cores = s.cores := rfl
@[simp] theorem State.modCrew_coresets (s : State) (c : Nat) (f : Crew → Crew) : (s.modCrew c f).coresets = s.coresets := rfl
@[simp] theorem State.modCrew_ops (s : State) (c : Nat) (f : Crew → Crew) : (s.modCrew c f).ops = s.ops := rfl
@[simp] theorem State.modCrew_rputs (s : State) (c : Nat) (f : Crew → Crew) : (s.modCrew c f).rputs = s.rputs := rfl
@[simp] theorem State.modCrew_reqs (s : State) (c : Nat) (f : Crew → Crew) : (s.modCrew c f).reqs = s.reqs := rfl
@[simp] theorem State.modCrew_posted (s : State) (c : Nat) (f : Crew → Crew) : (s.modCrew c f).posted = s.posted := rfl
@[simp] theorem State.modCrew_lastServed (s : State) (c : Nat) (f : Crew → Crew) : (s.modCrew c f).lastServed = s.lastServed := rfl
@[simp] theorem State.modCrew_lockQ (s : State) (c : Nat) (f : Crew → Crew) : (s.modCrew c f).lockQ = s.lockQ := rfl
@[simp] theorem State.modCrew_permitQ (s : State) (c : Nat) (f : Crew → Crew) : (s.modCrew c f).permitQ = s.permitQ := rfl
@[simp] theorem State.modCrew_promiseQ (s : State) (c : Nat) (f : Crew → Crew) : (s.modCrew c f).promiseQ = s.promiseQ := rfl
@[simp] theorem State.modCrew_arms (s : State) (c : Nat) (f : Crew → Crew) : (s.modCrew c f).arms = s.arms := rfl
@[simp] theorem State.modCrew_syncOrder (s : State) (c : Nat) (f : Crew → Crew) : (s.modCrew c f).syncOrder = s.syncOrder := rfl
@[simp] theorem State.modCrew_spilled (s : State) (c : Nat) (f : Crew → Crew) : (s.modCrew c f).spilled = s.spilled := rfl
@[simp] theorem State.modCrew_barriers (s : State) (c : Nat) (f : Crew → Crew) : (s.modCrew c f).barriers = s.barriers := rfl
@[simp] theorem State.modCrew_copies (s : State) (c : Nat) (f : Crew → Crew) : (s.modCrew c f).copies = s.copies := rfl
@[simp] theorem State.modCrew_bales (s : State) (c : Nat) (f : Crew → Crew) : (s.modCrew c f).bales = s.bales := rfl
@[simp] theorem State.modCrew_colls (s : State) (c : Nat) (f : Crew → Crew) : (s.modCrew c f).colls = s.colls := rfl
@[simp] theorem State.modCrew_snaps (s : State) (c : Nat) (f : Crew → Crew) : (s.modCrew c f).snaps = s.snaps := rfl
@[simp] theorem State.modCrew_orphans (s : State) (c : Nat) (f : Crew → Crew) : (s.modCrew c f).orphans = s.orphans := rfl
@[simp] theorem State.modCrew_lastCtx (s : State) (c : Nat) (f : Crew → Crew) : (s.modCrew c f).lastCtx = s.lastCtx := rfl
@[simp] theorem State.modCrew_gang (s : State) (c : Nat) (f : Crew → Crew) : (s.modCrew c f).gang = s.gang := rfl
@[simp] theorem State.modCrew_gangHeads (s : State) (c : Nat) (f : Crew → Crew) : (s.modCrew c f).gangHeads = s.gangHeads := rfl
@[simp] theorem State.modCrew_bringup (s : State) (c : Nat) (f : Crew → Crew) : (s.modCrew c f).bringup = s.bringup := rfl
@[simp] theorem State.modCrew_firmware (s : State) (c : Nat) (f : Crew → Crew) : (s.modCrew c f).firmware = s.firmware := rfl
@[simp] theorem State.modCrew_accepted (s : State) (c : Nat) (f : Crew → Crew) : (s.modCrew c f).accepted = s.accepted := rfl
@[simp] theorem State.modCrew_moduleNumber (s : State) (c : Nat) (f : Crew → Crew) : (s.modCrew c f).moduleNumber = s.moduleNumber := rfl
@[simp] theorem State.modCrew_routes (s : State) (c : Nat) (f : Crew → Crew) : (s.modCrew c f).routes = s.routes := rfl
@[simp] theorem State.modCrew_links (s : State) (c : Nat) (f : Crew → Crew) : (s.modCrew c f).links = s.links := rfl
@[simp] theorem State.modCrew_mailboxes (s : State) (c : Nat) (f : Crew → Crew) : (s.modCrew c f).mailboxes = s.mailboxes := rfl
@[simp] theorem State.modCrew_hostReply (s : State) (c : Nat) (f : Crew → Crew) : (s.modCrew c f).hostReply = s.hostReply := rfl
@[simp] theorem State.modCrew_peerReply (s : State) (c : Nat) (f : Crew → Crew) : (s.modCrew c f).peerReply = s.peerReply := rfl
@[simp] theorem State.modCrew_nextLeaf (s : State) (c : Nat) (f : Crew → Crew) : (s.modCrew c f).nextLeaf = s.nextLeaf := rfl
@[simp] theorem State.modCrew_arrayErrs (s : State) (c : Nat) (f : Crew → Crew) : (s.modCrew c f).arrayErrs = s.arrayErrs := rfl
@[simp] theorem State.modCrew_powerCap (s : State) (c : Nat) (f : Crew → Crew) : (s.modCrew c f).powerCap = s.powerCap := rfl
@[simp] theorem State.modCrew_clock (s : State) (c : Nat) (f : Crew → Crew) : (s.modCrew c f).clock = s.clock := rfl
@[simp] theorem State.modCrew_thermalTrip (s : State) (c : Nat) (f : Crew → Crew) : (s.modCrew c f).thermalTrip = s.thermalTrip := rfl

/-! ## State.modLaunch -/

@[simp] theorem State.modLaunch_agenda (s : State) (c l : Nat) (f : Launch → Launch) : (s.modLaunch c l f).agenda = s.agenda := rfl
@[simp] theorem State.modLaunch_cur (s : State) (c l : Nat) (f : Launch → Launch) : (s.modLaunch c l f).cur = s.cur := rfl
@[simp] theorem State.modLaunch_arg (s : State) (c l : Nat) (f : Launch → Launch) : (s.modLaunch c l f).arg = s.arg := rfl
@[simp] theorem State.modLaunch_fresh (s : State) (c l : Nat) (f : Launch → Launch) : (s.modLaunch c l f).fresh = s.fresh := rfl
@[simp] theorem State.modLaunch_nextId (s : State) (c l : Nat) (f : Launch → Launch) : (s.modLaunch c l f).nextId = s.nextId := rfl
@[simp] theorem State.modLaunch_mem (s : State) (c l : Nat) (f : Launch → Launch) : (s.modLaunch c l f).mem = s.mem := rfl
@[simp] theorem State.modLaunch_poison (s : State) (c l : Nat) (f : Launch → Launch) : (s.modLaunch c l f).poison = s.poison := rfl
@[simp] theorem State.modLaunch_dcache (s : State) (c l : Nat) (f : Launch → Launch) : (s.modLaunch c l f).dcache = s.dcache := rfl
@[simp] theorem State.modLaunch_plru (s : State) (c l : Nat) (f : Launch → Launch) : (s.modLaunch c l f).plru = s.plru := rfl
@[simp] theorem State.modLaunch_covered (s : State) (c l : Nat) (f : Launch → Launch) : (s.modLaunch c l f).covered = s.covered := rfl
@[simp] theorem State.modLaunch_tags (s : State) (c l : Nat) (f : Launch → Launch) : (s.modLaunch c l f).tags = s.tags := rfl
@[simp] theorem State.modLaunch_teams (s : State) (c l : Nat) (f : Launch → Launch) : (s.modLaunch c l f).teams = s.teams := rfl
@[simp] theorem State.modLaunch_exited (s : State) (c l : Nat) (f : Launch → Launch) : (s.modLaunch c l f).exited = s.exited := rfl
@[simp] theorem State.modLaunch_plots (s : State) (c l : Nat) (f : Launch → Launch) : (s.modLaunch c l f).plots = s.plots := rfl
@[simp] theorem State.modLaunch_crews (s : State) (c l : Nat) (f : Launch → Launch) : (s.modLaunch c l f).crews = s.crews := rfl
@[simp] theorem State.modLaunch_ctxs (s : State) (c l : Nat) (f : Launch → Launch) : (s.modLaunch c l f).ctxs = s.ctxs := rfl
@[simp] theorem State.modLaunch_cores (s : State) (c l : Nat) (f : Launch → Launch) : (s.modLaunch c l f).cores = s.cores := rfl
@[simp] theorem State.modLaunch_coresets (s : State) (c l : Nat) (f : Launch → Launch) : (s.modLaunch c l f).coresets = s.coresets := rfl
@[simp] theorem State.modLaunch_ops (s : State) (c l : Nat) (f : Launch → Launch) : (s.modLaunch c l f).ops = s.ops := rfl
@[simp] theorem State.modLaunch_rputs (s : State) (c l : Nat) (f : Launch → Launch) : (s.modLaunch c l f).rputs = s.rputs := rfl
@[simp] theorem State.modLaunch_reqs (s : State) (c l : Nat) (f : Launch → Launch) : (s.modLaunch c l f).reqs = s.reqs := rfl
@[simp] theorem State.modLaunch_posted (s : State) (c l : Nat) (f : Launch → Launch) : (s.modLaunch c l f).posted = s.posted := rfl
@[simp] theorem State.modLaunch_lastServed (s : State) (c l : Nat) (f : Launch → Launch) : (s.modLaunch c l f).lastServed = s.lastServed := rfl
@[simp] theorem State.modLaunch_lockQ (s : State) (c l : Nat) (f : Launch → Launch) : (s.modLaunch c l f).lockQ = s.lockQ := rfl
@[simp] theorem State.modLaunch_permitQ (s : State) (c l : Nat) (f : Launch → Launch) : (s.modLaunch c l f).permitQ = s.permitQ := rfl
@[simp] theorem State.modLaunch_promiseQ (s : State) (c l : Nat) (f : Launch → Launch) : (s.modLaunch c l f).promiseQ = s.promiseQ := rfl
@[simp] theorem State.modLaunch_arms (s : State) (c l : Nat) (f : Launch → Launch) : (s.modLaunch c l f).arms = s.arms := rfl
@[simp] theorem State.modLaunch_syncOrder (s : State) (c l : Nat) (f : Launch → Launch) : (s.modLaunch c l f).syncOrder = s.syncOrder := rfl
@[simp] theorem State.modLaunch_spilled (s : State) (c l : Nat) (f : Launch → Launch) : (s.modLaunch c l f).spilled = s.spilled := rfl
@[simp] theorem State.modLaunch_barriers (s : State) (c l : Nat) (f : Launch → Launch) : (s.modLaunch c l f).barriers = s.barriers := rfl
@[simp] theorem State.modLaunch_copies (s : State) (c l : Nat) (f : Launch → Launch) : (s.modLaunch c l f).copies = s.copies := rfl
@[simp] theorem State.modLaunch_bales (s : State) (c l : Nat) (f : Launch → Launch) : (s.modLaunch c l f).bales = s.bales := rfl
@[simp] theorem State.modLaunch_colls (s : State) (c l : Nat) (f : Launch → Launch) : (s.modLaunch c l f).colls = s.colls := rfl
@[simp] theorem State.modLaunch_snaps (s : State) (c l : Nat) (f : Launch → Launch) : (s.modLaunch c l f).snaps = s.snaps := rfl
@[simp] theorem State.modLaunch_orphans (s : State) (c l : Nat) (f : Launch → Launch) : (s.modLaunch c l f).orphans = s.orphans := rfl
@[simp] theorem State.modLaunch_lastCtx (s : State) (c l : Nat) (f : Launch → Launch) : (s.modLaunch c l f).lastCtx = s.lastCtx := rfl
@[simp] theorem State.modLaunch_gang (s : State) (c l : Nat) (f : Launch → Launch) : (s.modLaunch c l f).gang = s.gang := rfl
@[simp] theorem State.modLaunch_gangHeads (s : State) (c l : Nat) (f : Launch → Launch) : (s.modLaunch c l f).gangHeads = s.gangHeads := rfl
@[simp] theorem State.modLaunch_bringup (s : State) (c l : Nat) (f : Launch → Launch) : (s.modLaunch c l f).bringup = s.bringup := rfl
@[simp] theorem State.modLaunch_firmware (s : State) (c l : Nat) (f : Launch → Launch) : (s.modLaunch c l f).firmware = s.firmware := rfl
@[simp] theorem State.modLaunch_accepted (s : State) (c l : Nat) (f : Launch → Launch) : (s.modLaunch c l f).accepted = s.accepted := rfl
@[simp] theorem State.modLaunch_moduleNumber (s : State) (c l : Nat) (f : Launch → Launch) : (s.modLaunch c l f).moduleNumber = s.moduleNumber := rfl
@[simp] theorem State.modLaunch_routes (s : State) (c l : Nat) (f : Launch → Launch) : (s.modLaunch c l f).routes = s.routes := rfl
@[simp] theorem State.modLaunch_links (s : State) (c l : Nat) (f : Launch → Launch) : (s.modLaunch c l f).links = s.links := rfl
@[simp] theorem State.modLaunch_mailboxes (s : State) (c l : Nat) (f : Launch → Launch) : (s.modLaunch c l f).mailboxes = s.mailboxes := rfl
@[simp] theorem State.modLaunch_hostReply (s : State) (c l : Nat) (f : Launch → Launch) : (s.modLaunch c l f).hostReply = s.hostReply := rfl
@[simp] theorem State.modLaunch_peerReply (s : State) (c l : Nat) (f : Launch → Launch) : (s.modLaunch c l f).peerReply = s.peerReply := rfl
@[simp] theorem State.modLaunch_nextLeaf (s : State) (c l : Nat) (f : Launch → Launch) : (s.modLaunch c l f).nextLeaf = s.nextLeaf := rfl
@[simp] theorem State.modLaunch_arrayErrs (s : State) (c l : Nat) (f : Launch → Launch) : (s.modLaunch c l f).arrayErrs = s.arrayErrs := rfl
@[simp] theorem State.modLaunch_powerCap (s : State) (c l : Nat) (f : Launch → Launch) : (s.modLaunch c l f).powerCap = s.powerCap := rfl
@[simp] theorem State.modLaunch_clock (s : State) (c l : Nat) (f : Launch → Launch) : (s.modLaunch c l f).clock = s.clock := rfl
@[simp] theorem State.modLaunch_thermalTrip (s : State) (c l : Nat) (f : Launch → Launch) : (s.modLaunch c l f).thermalTrip = s.thermalTrip := rfl

/-! ## State.modOp -/

@[simp] theorem State.modOp_agenda (s : State) (i : Nat) (f : MemOp → MemOp) : (s.modOp i f).agenda = s.agenda := rfl
@[simp] theorem State.modOp_cur (s : State) (i : Nat) (f : MemOp → MemOp) : (s.modOp i f).cur = s.cur := rfl
@[simp] theorem State.modOp_arg (s : State) (i : Nat) (f : MemOp → MemOp) : (s.modOp i f).arg = s.arg := rfl
@[simp] theorem State.modOp_fresh (s : State) (i : Nat) (f : MemOp → MemOp) : (s.modOp i f).fresh = s.fresh := rfl
@[simp] theorem State.modOp_nextId (s : State) (i : Nat) (f : MemOp → MemOp) : (s.modOp i f).nextId = s.nextId := rfl
@[simp] theorem State.modOp_mem (s : State) (i : Nat) (f : MemOp → MemOp) : (s.modOp i f).mem = s.mem := rfl
@[simp] theorem State.modOp_poison (s : State) (i : Nat) (f : MemOp → MemOp) : (s.modOp i f).poison = s.poison := rfl
@[simp] theorem State.modOp_dcache (s : State) (i : Nat) (f : MemOp → MemOp) : (s.modOp i f).dcache = s.dcache := rfl
@[simp] theorem State.modOp_plru (s : State) (i : Nat) (f : MemOp → MemOp) : (s.modOp i f).plru = s.plru := rfl
@[simp] theorem State.modOp_covered (s : State) (i : Nat) (f : MemOp → MemOp) : (s.modOp i f).covered = s.covered := rfl
@[simp] theorem State.modOp_tags (s : State) (i : Nat) (f : MemOp → MemOp) : (s.modOp i f).tags = s.tags := rfl
@[simp] theorem State.modOp_teams (s : State) (i : Nat) (f : MemOp → MemOp) : (s.modOp i f).teams = s.teams := rfl
@[simp] theorem State.modOp_exited (s : State) (i : Nat) (f : MemOp → MemOp) : (s.modOp i f).exited = s.exited := rfl
@[simp] theorem State.modOp_plots (s : State) (i : Nat) (f : MemOp → MemOp) : (s.modOp i f).plots = s.plots := rfl
@[simp] theorem State.modOp_crews (s : State) (i : Nat) (f : MemOp → MemOp) : (s.modOp i f).crews = s.crews := rfl
@[simp] theorem State.modOp_launches (s : State) (i : Nat) (f : MemOp → MemOp) : (s.modOp i f).launches = s.launches := rfl
@[simp] theorem State.modOp_ctxs (s : State) (i : Nat) (f : MemOp → MemOp) : (s.modOp i f).ctxs = s.ctxs := rfl
@[simp] theorem State.modOp_cores (s : State) (i : Nat) (f : MemOp → MemOp) : (s.modOp i f).cores = s.cores := rfl
@[simp] theorem State.modOp_coresets (s : State) (i : Nat) (f : MemOp → MemOp) : (s.modOp i f).coresets = s.coresets := rfl
@[simp] theorem State.modOp_rputs (s : State) (i : Nat) (f : MemOp → MemOp) : (s.modOp i f).rputs = s.rputs := rfl
@[simp] theorem State.modOp_reqs (s : State) (i : Nat) (f : MemOp → MemOp) : (s.modOp i f).reqs = s.reqs := rfl
@[simp] theorem State.modOp_posted (s : State) (i : Nat) (f : MemOp → MemOp) : (s.modOp i f).posted = s.posted := rfl
@[simp] theorem State.modOp_lastServed (s : State) (i : Nat) (f : MemOp → MemOp) : (s.modOp i f).lastServed = s.lastServed := rfl
@[simp] theorem State.modOp_lockQ (s : State) (i : Nat) (f : MemOp → MemOp) : (s.modOp i f).lockQ = s.lockQ := rfl
@[simp] theorem State.modOp_permitQ (s : State) (i : Nat) (f : MemOp → MemOp) : (s.modOp i f).permitQ = s.permitQ := rfl
@[simp] theorem State.modOp_promiseQ (s : State) (i : Nat) (f : MemOp → MemOp) : (s.modOp i f).promiseQ = s.promiseQ := rfl
@[simp] theorem State.modOp_arms (s : State) (i : Nat) (f : MemOp → MemOp) : (s.modOp i f).arms = s.arms := rfl
@[simp] theorem State.modOp_syncOrder (s : State) (i : Nat) (f : MemOp → MemOp) : (s.modOp i f).syncOrder = s.syncOrder := rfl
@[simp] theorem State.modOp_spilled (s : State) (i : Nat) (f : MemOp → MemOp) : (s.modOp i f).spilled = s.spilled := rfl
@[simp] theorem State.modOp_barriers (s : State) (i : Nat) (f : MemOp → MemOp) : (s.modOp i f).barriers = s.barriers := rfl
@[simp] theorem State.modOp_copies (s : State) (i : Nat) (f : MemOp → MemOp) : (s.modOp i f).copies = s.copies := rfl
@[simp] theorem State.modOp_bales (s : State) (i : Nat) (f : MemOp → MemOp) : (s.modOp i f).bales = s.bales := rfl
@[simp] theorem State.modOp_colls (s : State) (i : Nat) (f : MemOp → MemOp) : (s.modOp i f).colls = s.colls := rfl
@[simp] theorem State.modOp_snaps (s : State) (i : Nat) (f : MemOp → MemOp) : (s.modOp i f).snaps = s.snaps := rfl
@[simp] theorem State.modOp_orphans (s : State) (i : Nat) (f : MemOp → MemOp) : (s.modOp i f).orphans = s.orphans := rfl
@[simp] theorem State.modOp_lastCtx (s : State) (i : Nat) (f : MemOp → MemOp) : (s.modOp i f).lastCtx = s.lastCtx := rfl
@[simp] theorem State.modOp_gang (s : State) (i : Nat) (f : MemOp → MemOp) : (s.modOp i f).gang = s.gang := rfl
@[simp] theorem State.modOp_gangHeads (s : State) (i : Nat) (f : MemOp → MemOp) : (s.modOp i f).gangHeads = s.gangHeads := rfl
@[simp] theorem State.modOp_bringup (s : State) (i : Nat) (f : MemOp → MemOp) : (s.modOp i f).bringup = s.bringup := rfl
@[simp] theorem State.modOp_firmware (s : State) (i : Nat) (f : MemOp → MemOp) : (s.modOp i f).firmware = s.firmware := rfl
@[simp] theorem State.modOp_accepted (s : State) (i : Nat) (f : MemOp → MemOp) : (s.modOp i f).accepted = s.accepted := rfl
@[simp] theorem State.modOp_moduleNumber (s : State) (i : Nat) (f : MemOp → MemOp) : (s.modOp i f).moduleNumber = s.moduleNumber := rfl
@[simp] theorem State.modOp_routes (s : State) (i : Nat) (f : MemOp → MemOp) : (s.modOp i f).routes = s.routes := rfl
@[simp] theorem State.modOp_links (s : State) (i : Nat) (f : MemOp → MemOp) : (s.modOp i f).links = s.links := rfl
@[simp] theorem State.modOp_mailboxes (s : State) (i : Nat) (f : MemOp → MemOp) : (s.modOp i f).mailboxes = s.mailboxes := rfl
@[simp] theorem State.modOp_hostReply (s : State) (i : Nat) (f : MemOp → MemOp) : (s.modOp i f).hostReply = s.hostReply := rfl
@[simp] theorem State.modOp_peerReply (s : State) (i : Nat) (f : MemOp → MemOp) : (s.modOp i f).peerReply = s.peerReply := rfl
@[simp] theorem State.modOp_nextLeaf (s : State) (i : Nat) (f : MemOp → MemOp) : (s.modOp i f).nextLeaf = s.nextLeaf := rfl
@[simp] theorem State.modOp_arrayErrs (s : State) (i : Nat) (f : MemOp → MemOp) : (s.modOp i f).arrayErrs = s.arrayErrs := rfl
@[simp] theorem State.modOp_powerCap (s : State) (i : Nat) (f : MemOp → MemOp) : (s.modOp i f).powerCap = s.powerCap := rfl
@[simp] theorem State.modOp_clock (s : State) (i : Nat) (f : MemOp → MemOp) : (s.modOp i f).clock = s.clock := rfl
@[simp] theorem State.modOp_thermalTrip (s : State) (i : Nat) (f : MemOp → MemOp) : (s.modOp i f).thermalTrip = s.thermalTrip := rfl

/-! ## State.modCore -/

@[simp] theorem State.modCore_agenda (s : State) (c : Nat) (f : Core → Core) : (s.modCore c f).agenda = s.agenda := rfl
@[simp] theorem State.modCore_cur (s : State) (c : Nat) (f : Core → Core) : (s.modCore c f).cur = s.cur := rfl
@[simp] theorem State.modCore_arg (s : State) (c : Nat) (f : Core → Core) : (s.modCore c f).arg = s.arg := rfl
@[simp] theorem State.modCore_fresh (s : State) (c : Nat) (f : Core → Core) : (s.modCore c f).fresh = s.fresh := rfl
@[simp] theorem State.modCore_nextId (s : State) (c : Nat) (f : Core → Core) : (s.modCore c f).nextId = s.nextId := rfl
@[simp] theorem State.modCore_mem (s : State) (c : Nat) (f : Core → Core) : (s.modCore c f).mem = s.mem := rfl
@[simp] theorem State.modCore_poison (s : State) (c : Nat) (f : Core → Core) : (s.modCore c f).poison = s.poison := rfl
@[simp] theorem State.modCore_dcache (s : State) (c : Nat) (f : Core → Core) : (s.modCore c f).dcache = s.dcache := rfl
@[simp] theorem State.modCore_plru (s : State) (c : Nat) (f : Core → Core) : (s.modCore c f).plru = s.plru := rfl
@[simp] theorem State.modCore_covered (s : State) (c : Nat) (f : Core → Core) : (s.modCore c f).covered = s.covered := rfl
@[simp] theorem State.modCore_tags (s : State) (c : Nat) (f : Core → Core) : (s.modCore c f).tags = s.tags := rfl
@[simp] theorem State.modCore_teams (s : State) (c : Nat) (f : Core → Core) : (s.modCore c f).teams = s.teams := rfl
@[simp] theorem State.modCore_exited (s : State) (c : Nat) (f : Core → Core) : (s.modCore c f).exited = s.exited := rfl
@[simp] theorem State.modCore_plots (s : State) (c : Nat) (f : Core → Core) : (s.modCore c f).plots = s.plots := rfl
@[simp] theorem State.modCore_crews (s : State) (c : Nat) (f : Core → Core) : (s.modCore c f).crews = s.crews := rfl
@[simp] theorem State.modCore_launches (s : State) (c : Nat) (f : Core → Core) : (s.modCore c f).launches = s.launches := rfl
@[simp] theorem State.modCore_ctxs (s : State) (c : Nat) (f : Core → Core) : (s.modCore c f).ctxs = s.ctxs := rfl
@[simp] theorem State.modCore_coresets (s : State) (c : Nat) (f : Core → Core) : (s.modCore c f).coresets = s.coresets := rfl
@[simp] theorem State.modCore_ops (s : State) (c : Nat) (f : Core → Core) : (s.modCore c f).ops = s.ops := rfl
@[simp] theorem State.modCore_rputs (s : State) (c : Nat) (f : Core → Core) : (s.modCore c f).rputs = s.rputs := rfl
@[simp] theorem State.modCore_reqs (s : State) (c : Nat) (f : Core → Core) : (s.modCore c f).reqs = s.reqs := rfl
@[simp] theorem State.modCore_posted (s : State) (c : Nat) (f : Core → Core) : (s.modCore c f).posted = s.posted := rfl
@[simp] theorem State.modCore_lastServed (s : State) (c : Nat) (f : Core → Core) : (s.modCore c f).lastServed = s.lastServed := rfl
@[simp] theorem State.modCore_lockQ (s : State) (c : Nat) (f : Core → Core) : (s.modCore c f).lockQ = s.lockQ := rfl
@[simp] theorem State.modCore_permitQ (s : State) (c : Nat) (f : Core → Core) : (s.modCore c f).permitQ = s.permitQ := rfl
@[simp] theorem State.modCore_promiseQ (s : State) (c : Nat) (f : Core → Core) : (s.modCore c f).promiseQ = s.promiseQ := rfl
@[simp] theorem State.modCore_arms (s : State) (c : Nat) (f : Core → Core) : (s.modCore c f).arms = s.arms := rfl
@[simp] theorem State.modCore_syncOrder (s : State) (c : Nat) (f : Core → Core) : (s.modCore c f).syncOrder = s.syncOrder := rfl
@[simp] theorem State.modCore_spilled (s : State) (c : Nat) (f : Core → Core) : (s.modCore c f).spilled = s.spilled := rfl
@[simp] theorem State.modCore_barriers (s : State) (c : Nat) (f : Core → Core) : (s.modCore c f).barriers = s.barriers := rfl
@[simp] theorem State.modCore_copies (s : State) (c : Nat) (f : Core → Core) : (s.modCore c f).copies = s.copies := rfl
@[simp] theorem State.modCore_bales (s : State) (c : Nat) (f : Core → Core) : (s.modCore c f).bales = s.bales := rfl
@[simp] theorem State.modCore_colls (s : State) (c : Nat) (f : Core → Core) : (s.modCore c f).colls = s.colls := rfl
@[simp] theorem State.modCore_snaps (s : State) (c : Nat) (f : Core → Core) : (s.modCore c f).snaps = s.snaps := rfl
@[simp] theorem State.modCore_orphans (s : State) (c : Nat) (f : Core → Core) : (s.modCore c f).orphans = s.orphans := rfl
@[simp] theorem State.modCore_lastCtx (s : State) (c : Nat) (f : Core → Core) : (s.modCore c f).lastCtx = s.lastCtx := rfl
@[simp] theorem State.modCore_gang (s : State) (c : Nat) (f : Core → Core) : (s.modCore c f).gang = s.gang := rfl
@[simp] theorem State.modCore_gangHeads (s : State) (c : Nat) (f : Core → Core) : (s.modCore c f).gangHeads = s.gangHeads := rfl
@[simp] theorem State.modCore_bringup (s : State) (c : Nat) (f : Core → Core) : (s.modCore c f).bringup = s.bringup := rfl
@[simp] theorem State.modCore_firmware (s : State) (c : Nat) (f : Core → Core) : (s.modCore c f).firmware = s.firmware := rfl
@[simp] theorem State.modCore_accepted (s : State) (c : Nat) (f : Core → Core) : (s.modCore c f).accepted = s.accepted := rfl
@[simp] theorem State.modCore_moduleNumber (s : State) (c : Nat) (f : Core → Core) : (s.modCore c f).moduleNumber = s.moduleNumber := rfl
@[simp] theorem State.modCore_routes (s : State) (c : Nat) (f : Core → Core) : (s.modCore c f).routes = s.routes := rfl
@[simp] theorem State.modCore_links (s : State) (c : Nat) (f : Core → Core) : (s.modCore c f).links = s.links := rfl
@[simp] theorem State.modCore_mailboxes (s : State) (c : Nat) (f : Core → Core) : (s.modCore c f).mailboxes = s.mailboxes := rfl
@[simp] theorem State.modCore_hostReply (s : State) (c : Nat) (f : Core → Core) : (s.modCore c f).hostReply = s.hostReply := rfl
@[simp] theorem State.modCore_peerReply (s : State) (c : Nat) (f : Core → Core) : (s.modCore c f).peerReply = s.peerReply := rfl
@[simp] theorem State.modCore_nextLeaf (s : State) (c : Nat) (f : Core → Core) : (s.modCore c f).nextLeaf = s.nextLeaf := rfl
@[simp] theorem State.modCore_arrayErrs (s : State) (c : Nat) (f : Core → Core) : (s.modCore c f).arrayErrs = s.arrayErrs := rfl
@[simp] theorem State.modCore_powerCap (s : State) (c : Nat) (f : Core → Core) : (s.modCore c f).powerCap = s.powerCap := rfl
@[simp] theorem State.modCore_clock (s : State) (c : Nat) (f : Core → Core) : (s.modCore c f).clock = s.clock := rfl
@[simp] theorem State.modCore_thermalTrip (s : State) (c : Nat) (f : Core → Core) : (s.modCore c f).thermalTrip = s.thermalTrip := rfl

/-! ## State.noteWrites -/

@[simp] theorem State.noteWrites_agenda (s : State) (h : Handle) (b : Bool) (ps : List (Nat × Nat)) : (s.noteWrites h b ps).agenda = s.agenda := rfl
@[simp] theorem State.noteWrites_cur (s : State) (h : Handle) (b : Bool) (ps : List (Nat × Nat)) : (s.noteWrites h b ps).cur = s.cur := rfl
@[simp] theorem State.noteWrites_arg (s : State) (h : Handle) (b : Bool) (ps : List (Nat × Nat)) : (s.noteWrites h b ps).arg = s.arg := rfl
@[simp] theorem State.noteWrites_fresh (s : State) (h : Handle) (b : Bool) (ps : List (Nat × Nat)) : (s.noteWrites h b ps).fresh = s.fresh := rfl
@[simp] theorem State.noteWrites_nextId (s : State) (h : Handle) (b : Bool) (ps : List (Nat × Nat)) : (s.noteWrites h b ps).nextId = s.nextId := rfl
@[simp] theorem State.noteWrites_mem (s : State) (h : Handle) (b : Bool) (ps : List (Nat × Nat)) : (s.noteWrites h b ps).mem = s.mem := rfl
@[simp] theorem State.noteWrites_poison (s : State) (h : Handle) (b : Bool) (ps : List (Nat × Nat)) : (s.noteWrites h b ps).poison = s.poison := rfl
@[simp] theorem State.noteWrites_dcache (s : State) (h : Handle) (b : Bool) (ps : List (Nat × Nat)) : (s.noteWrites h b ps).dcache = s.dcache := rfl
@[simp] theorem State.noteWrites_plru (s : State) (h : Handle) (b : Bool) (ps : List (Nat × Nat)) : (s.noteWrites h b ps).plru = s.plru := rfl
@[simp] theorem State.noteWrites_covered (s : State) (h : Handle) (b : Bool) (ps : List (Nat × Nat)) : (s.noteWrites h b ps).covered = s.covered := rfl
@[simp] theorem State.noteWrites_tags (s : State) (h : Handle) (b : Bool) (ps : List (Nat × Nat)) : (s.noteWrites h b ps).tags = s.tags := rfl
@[simp] theorem State.noteWrites_teams (s : State) (h : Handle) (b : Bool) (ps : List (Nat × Nat)) : (s.noteWrites h b ps).teams = s.teams := rfl
@[simp] theorem State.noteWrites_exited (s : State) (h : Handle) (b : Bool) (ps : List (Nat × Nat)) : (s.noteWrites h b ps).exited = s.exited := rfl
@[simp] theorem State.noteWrites_plots (s : State) (h : Handle) (b : Bool) (ps : List (Nat × Nat)) : (s.noteWrites h b ps).plots = s.plots := rfl
@[simp] theorem State.noteWrites_crews (s : State) (h : Handle) (b : Bool) (ps : List (Nat × Nat)) : (s.noteWrites h b ps).crews = s.crews := rfl
@[simp] theorem State.noteWrites_launches (s : State) (h : Handle) (b : Bool) (ps : List (Nat × Nat)) : (s.noteWrites h b ps).launches = s.launches := rfl
@[simp] theorem State.noteWrites_ctxs (s : State) (h : Handle) (b : Bool) (ps : List (Nat × Nat)) : (s.noteWrites h b ps).ctxs = s.ctxs := rfl
@[simp] theorem State.noteWrites_cores (s : State) (h : Handle) (b : Bool) (ps : List (Nat × Nat)) : (s.noteWrites h b ps).cores = s.cores := rfl
@[simp] theorem State.noteWrites_coresets (s : State) (h : Handle) (b : Bool) (ps : List (Nat × Nat)) : (s.noteWrites h b ps).coresets = s.coresets := rfl
@[simp] theorem State.noteWrites_reqs (s : State) (h : Handle) (b : Bool) (ps : List (Nat × Nat)) : (s.noteWrites h b ps).reqs = s.reqs := rfl
@[simp] theorem State.noteWrites_posted (s : State) (h : Handle) (b : Bool) (ps : List (Nat × Nat)) : (s.noteWrites h b ps).posted = s.posted := rfl
@[simp] theorem State.noteWrites_lastServed (s : State) (h : Handle) (b : Bool) (ps : List (Nat × Nat)) : (s.noteWrites h b ps).lastServed = s.lastServed := rfl
@[simp] theorem State.noteWrites_lockQ (s : State) (h : Handle) (b : Bool) (ps : List (Nat × Nat)) : (s.noteWrites h b ps).lockQ = s.lockQ := rfl
@[simp] theorem State.noteWrites_permitQ (s : State) (h : Handle) (b : Bool) (ps : List (Nat × Nat)) : (s.noteWrites h b ps).permitQ = s.permitQ := rfl
@[simp] theorem State.noteWrites_promiseQ (s : State) (h : Handle) (b : Bool) (ps : List (Nat × Nat)) : (s.noteWrites h b ps).promiseQ = s.promiseQ := rfl
@[simp] theorem State.noteWrites_arms (s : State) (h : Handle) (b : Bool) (ps : List (Nat × Nat)) : (s.noteWrites h b ps).arms = s.arms := rfl
@[simp] theorem State.noteWrites_syncOrder (s : State) (h : Handle) (b : Bool) (ps : List (Nat × Nat)) : (s.noteWrites h b ps).syncOrder = s.syncOrder := rfl
@[simp] theorem State.noteWrites_spilled (s : State) (h : Handle) (b : Bool) (ps : List (Nat × Nat)) : (s.noteWrites h b ps).spilled = s.spilled := rfl
@[simp] theorem State.noteWrites_barriers (s : State) (h : Handle) (b : Bool) (ps : List (Nat × Nat)) : (s.noteWrites h b ps).barriers = s.barriers := rfl
@[simp] theorem State.noteWrites_copies (s : State) (h : Handle) (b : Bool) (ps : List (Nat × Nat)) : (s.noteWrites h b ps).copies = s.copies := rfl
@[simp] theorem State.noteWrites_bales (s : State) (h : Handle) (b : Bool) (ps : List (Nat × Nat)) : (s.noteWrites h b ps).bales = s.bales := rfl
@[simp] theorem State.noteWrites_colls (s : State) (h : Handle) (b : Bool) (ps : List (Nat × Nat)) : (s.noteWrites h b ps).colls = s.colls := rfl
@[simp] theorem State.noteWrites_snaps (s : State) (h : Handle) (b : Bool) (ps : List (Nat × Nat)) : (s.noteWrites h b ps).snaps = s.snaps := rfl
@[simp] theorem State.noteWrites_orphans (s : State) (h : Handle) (b : Bool) (ps : List (Nat × Nat)) : (s.noteWrites h b ps).orphans = s.orphans := rfl
@[simp] theorem State.noteWrites_lastCtx (s : State) (h : Handle) (b : Bool) (ps : List (Nat × Nat)) : (s.noteWrites h b ps).lastCtx = s.lastCtx := rfl
@[simp] theorem State.noteWrites_gang (s : State) (h : Handle) (b : Bool) (ps : List (Nat × Nat)) : (s.noteWrites h b ps).gang = s.gang := rfl
@[simp] theorem State.noteWrites_gangHeads (s : State) (h : Handle) (b : Bool) (ps : List (Nat × Nat)) : (s.noteWrites h b ps).gangHeads = s.gangHeads := rfl
@[simp] theorem State.noteWrites_bringup (s : State) (h : Handle) (b : Bool) (ps : List (Nat × Nat)) : (s.noteWrites h b ps).bringup = s.bringup := rfl
@[simp] theorem State.noteWrites_firmware (s : State) (h : Handle) (b : Bool) (ps : List (Nat × Nat)) : (s.noteWrites h b ps).firmware = s.firmware := rfl
@[simp] theorem State.noteWrites_accepted (s : State) (h : Handle) (b : Bool) (ps : List (Nat × Nat)) : (s.noteWrites h b ps).accepted = s.accepted := rfl
@[simp] theorem State.noteWrites_moduleNumber (s : State) (h : Handle) (b : Bool) (ps : List (Nat × Nat)) : (s.noteWrites h b ps).moduleNumber = s.moduleNumber := rfl
@[simp] theorem State.noteWrites_routes (s : State) (h : Handle) (b : Bool) (ps : List (Nat × Nat)) : (s.noteWrites h b ps).routes = s.routes := rfl
@[simp] theorem State.noteWrites_links (s : State) (h : Handle) (b : Bool) (ps : List (Nat × Nat)) : (s.noteWrites h b ps).links = s.links := rfl
@[simp] theorem State.noteWrites_mailboxes (s : State) (h : Handle) (b : Bool) (ps : List (Nat × Nat)) : (s.noteWrites h b ps).mailboxes = s.mailboxes := rfl
@[simp] theorem State.noteWrites_hostReply (s : State) (h : Handle) (b : Bool) (ps : List (Nat × Nat)) : (s.noteWrites h b ps).hostReply = s.hostReply := rfl
@[simp] theorem State.noteWrites_peerReply (s : State) (h : Handle) (b : Bool) (ps : List (Nat × Nat)) : (s.noteWrites h b ps).peerReply = s.peerReply := rfl
@[simp] theorem State.noteWrites_nextLeaf (s : State) (h : Handle) (b : Bool) (ps : List (Nat × Nat)) : (s.noteWrites h b ps).nextLeaf = s.nextLeaf := rfl
@[simp] theorem State.noteWrites_arrayErrs (s : State) (h : Handle) (b : Bool) (ps : List (Nat × Nat)) : (s.noteWrites h b ps).arrayErrs = s.arrayErrs := rfl
@[simp] theorem State.noteWrites_powerCap (s : State) (h : Handle) (b : Bool) (ps : List (Nat × Nat)) : (s.noteWrites h b ps).powerCap = s.powerCap := rfl
@[simp] theorem State.noteWrites_clock (s : State) (h : Handle) (b : Bool) (ps : List (Nat × Nat)) : (s.noteWrites h b ps).clock = s.clock := rfl
@[simp] theorem State.noteWrites_thermalTrip (s : State) (h : Handle) (b : Bool) (ps : List (Nat × Nat)) : (s.noteWrites h b ps).thermalTrip = s.thermalTrip := rfl

/-! ## Team.setS -/

@[simp] theorem Team.setS_tid (t : Team) (n : Nat) (x : Dword) : (t.setS n x).tid = t.tid := rfl
@[simp] theorem Team.setS_ctx (t : Team) (n : Nat) (x : Dword) : (t.setS n x).ctx = t.ctx := rfl
@[simp] theorem Team.setS_lid (t : Team) (n : Nat) (x : Dword) : (t.setS n x).lid = t.lid := rfl
@[simp] theorem Team.setS_plot (t : Team) (n : Nat) (x : Dword) : (t.setS n x).plot = t.plot := rfl
@[simp] theorem Team.setS_index (t : Team) (n : Nat) (x : Dword) : (t.setS n x).index = t.index := rfl
@[simp] theorem Team.setS_width (t : Team) (n : Nat) (x : Dword) : (t.setS n x).width = t.width := rfl
@[simp] theorem Team.setS_regs (t : Team) (n : Nat) (x : Dword) : (t.setS n x).regs = t.regs := rfl
@[simp] theorem Team.setS_run (t : Team) (n : Nat) (x : Dword) : (t.setS n x).run = t.run := rfl
@[simp] theorem Team.setS_stop (t : Team) (n : Nat) (x : Dword) : (t.setS n x).stop = t.stop := rfl
@[simp] theorem Team.setS_haltRec (t : Team) (n : Nat) (x : Dword) : (t.setS n x).haltRec = t.haltRec := rfl
@[simp] theorem Team.setS_exempt (t : Team) (n : Nat) (x : Dword) : (t.setS n x).exempt = t.exempt := rfl
@[simp] theorem Team.setS_preempted (t : Team) (n : Nat) (x : Dword) : (t.setS n x).preempted = t.preempted := rfl
@[simp] theorem Team.setS_dying (t : Team) (n : Nat) (x : Dword) : (t.setS n x).dying = t.dying := rfl
@[simp] theorem Team.setS_drained (t : Team) (n : Nat) (x : Dword) : (t.setS n x).drained = t.drained := rfl
@[simp] theorem Team.setS_pc (t : Team) (n : Nat) (x : Dword) : (t.setS n x).pc = t.pc := rfl
@[simp] theorem Team.setS_clause (t : Team) (n : Nat) (x : Dword) : (t.setS n x).clause = t.clause := rfl
@[simp] theorem Team.setS_v (t : Team) (n : Nat) (x : Dword) : (t.setS n x).v = t.v := rfl
@[simp] theorem Team.setS_flags (t : Team) (n : Nat) (x : Dword) : (t.setS n x).flags = t.flags := rfl
@[simp] theorem Team.setS_segs (t : Team) (n : Nat) (x : Dword) : (t.setS n x).segs = t.segs := rfl
@[simp] theorem Team.setS_fsr (t : Team) (n : Nat) (x : Dword) : (t.setS n x).fsr = t.fsr := rfl
@[simp] theorem Team.setS_rmode (t : Team) (n : Nat) (x : Dword) : (t.setS n x).rmode = t.rmode := rfl
@[simp] theorem Team.setS_nbv (t : Team) (n : Nat) (x : Dword) : (t.setS n x).nbv = t.nbv := rfl
@[simp] theorem Team.setS_key (t : Team) (n : Nat) (x : Dword) : (t.setS n x).key = t.key := rfl
@[simp] theorem Team.setS_hold (t : Team) (n : Nat) (x : Dword) : (t.setS n x).hold = t.hold := rfl
@[simp] theorem Team.setS_dbg (t : Team) (n : Nat) (x : Dword) : (t.setS n x).dbg = t.dbg := rfl
@[simp] theorem Team.setS_dbgp (t : Team) (n : Nat) (x : Dword) : (t.setS n x).dbgp = t.dbgp := rfl
@[simp] theorem Team.setS_bereaved (t : Team) (n : Nat) (x : Dword) : (t.setS n x).bereaved = t.bereaved := rfl
@[simp] theorem Team.setS_preempts (t : Team) (n : Nat) (x : Dword) : (t.setS n x).preempts = t.preempts := rfl
@[simp] theorem Team.setS_ctr (t : Team) (n : Nat) (x : Dword) : (t.setS n x).ctr = t.ctr := rfl
@[simp] theorem Team.setS_queues (t : Team) (n : Nat) (x : Dword) : (t.setS n x).queues = t.queues := rfl
@[simp] theorem Team.setS_gleans (t : Team) (n : Nat) (x : Dword) : (t.setS n x).gleans = t.gleans := rfl
@[simp] theorem Team.setS_arrivals (t : Team) (n : Nat) (x : Dword) : (t.setS n x).arrivals = t.arrivals := rfl
@[simp] theorem Team.setS_estate (t : Team) (n : Nat) (x : Dword) : (t.setS n x).estate = t.estate := rfl
@[simp] theorem Team.setS_reservedEntries (t : Team) (n : Nat) (x : Dword) : (t.setS n x).reservedEntries = t.reservedEntries := rfl
@[simp] theorem Team.setS_monitor (t : Team) (n : Nat) (x : Dword) : (t.setS n x).monitor = t.monitor := rfl
@[simp] theorem Team.setS_aOffset (t : Team) (n : Nat) (x : Dword) : (t.setS n x).aOffset = t.aOffset := rfl
@[simp] theorem Team.setS_fenced (t : Team) (n : Nat) (x : Dword) : (t.setS n x).fenced = t.fenced := rfl
@[simp] theorem Team.setS_retired (t : Team) (n : Nat) (x : Dword) : (t.setS n x).retired = t.retired := rfl
@[simp] theorem Team.setS_arrived (t : Team) (n : Nat) (x : Dword) : (t.setS n x).arrived = t.arrived := rfl
@[simp] theorem Team.setS_held (t : Team) (n : Nat) (x : Dword) : (t.setS n x).held = t.held := rfl
@[simp] theorem Team.setS_since (t : Team) (n : Nat) (x : Dword) : (t.setS n x).since = t.since := rfl
@[simp] theorem Team.setS_forced (t : Team) (n : Nat) (x : Dword) : (t.setS n x).forced = t.forced := rfl
@[simp] theorem Team.setS_leaveAtEnd (t : Team) (n : Nat) (x : Dword) : (t.setS n x).leaveAtEnd = t.leaveAtEnd := rfl
@[simp] theorem Team.setS_datapath (t : Team) (n : Nat) (x : Dword) : (t.setS n x).datapath = t.datapath := rfl
@[simp] theorem Team.setS_hadamard (t : Team) (n : Nat) (x : Dword) : (t.setS n x).hadamard = t.hadamard := rfl
@[simp] theorem Team.setS_stepping (t : Team) (n : Nat) (x : Dword) : (t.setS n x).stepping = t.stepping := rfl
@[simp] theorem Team.setS_late (t : Team) (n : Nat) (x : Dword) : (t.setS n x).late = t.late := rfl
@[simp] theorem Team.setS_pcSeen (t : Team) (n : Nat) (x : Dword) : (t.setS n x).pcSeen = t.pcSeen := rfl
@[simp] theorem Team.setS_weirMark (t : Team) (n : Nat) (x : Dword) : (t.setS n x).weirMark = t.weirMark := rfl
@[simp] theorem Team.setS_stepHalt (t : Team) (n : Nat) (x : Dword) : (t.setS n x).stepHalt = t.stepHalt := rfl
@[simp] theorem Team.setS_fenceMark (t : Team) (n : Nat) (x : Dword) : (t.setS n x).fenceMark = t.fenceMark := rfl
@[simp] theorem Team.setS_readTags (t : Team) (n : Nat) (x : Dword) : (t.setS n x).readTags = t.readTags := rfl
@[simp] theorem Team.setS_acquireFault (t : Team) (n : Nat) (x : Dword) : (t.setS n x).acquireFault = t.acquireFault := rfl
@[simp] theorem Team.setS_lastMark (t : Team) (n : Nat) (x : Dword) : (t.setS n x).lastMark = t.lastMark := rfl
@[simp] theorem Team.setS_deferred (t : Team) (n : Nat) (x : Dword) : (t.setS n x).deferred = t.deferred := rfl

/-! ## Team.setV -/

@[simp] theorem Team.setV_tid (t : Team) (r l : Nat) (x : Word) : (t.setV r l x).tid = t.tid := rfl
@[simp] theorem Team.setV_ctx (t : Team) (r l : Nat) (x : Word) : (t.setV r l x).ctx = t.ctx := rfl
@[simp] theorem Team.setV_lid (t : Team) (r l : Nat) (x : Word) : (t.setV r l x).lid = t.lid := rfl
@[simp] theorem Team.setV_plot (t : Team) (r l : Nat) (x : Word) : (t.setV r l x).plot = t.plot := rfl
@[simp] theorem Team.setV_index (t : Team) (r l : Nat) (x : Word) : (t.setV r l x).index = t.index := rfl
@[simp] theorem Team.setV_width (t : Team) (r l : Nat) (x : Word) : (t.setV r l x).width = t.width := rfl
@[simp] theorem Team.setV_regs (t : Team) (r l : Nat) (x : Word) : (t.setV r l x).regs = t.regs := rfl
@[simp] theorem Team.setV_run (t : Team) (r l : Nat) (x : Word) : (t.setV r l x).run = t.run := rfl
@[simp] theorem Team.setV_stop (t : Team) (r l : Nat) (x : Word) : (t.setV r l x).stop = t.stop := rfl
@[simp] theorem Team.setV_haltRec (t : Team) (r l : Nat) (x : Word) : (t.setV r l x).haltRec = t.haltRec := rfl
@[simp] theorem Team.setV_exempt (t : Team) (r l : Nat) (x : Word) : (t.setV r l x).exempt = t.exempt := rfl
@[simp] theorem Team.setV_preempted (t : Team) (r l : Nat) (x : Word) : (t.setV r l x).preempted = t.preempted := rfl
@[simp] theorem Team.setV_dying (t : Team) (r l : Nat) (x : Word) : (t.setV r l x).dying = t.dying := rfl
@[simp] theorem Team.setV_drained (t : Team) (r l : Nat) (x : Word) : (t.setV r l x).drained = t.drained := rfl
@[simp] theorem Team.setV_pc (t : Team) (r l : Nat) (x : Word) : (t.setV r l x).pc = t.pc := rfl
@[simp] theorem Team.setV_clause (t : Team) (r l : Nat) (x : Word) : (t.setV r l x).clause = t.clause := rfl
@[simp] theorem Team.setV_s (t : Team) (r l : Nat) (x : Word) : (t.setV r l x).s = t.s := rfl
@[simp] theorem Team.setV_flags (t : Team) (r l : Nat) (x : Word) : (t.setV r l x).flags = t.flags := rfl
@[simp] theorem Team.setV_segs (t : Team) (r l : Nat) (x : Word) : (t.setV r l x).segs = t.segs := rfl
@[simp] theorem Team.setV_fsr (t : Team) (r l : Nat) (x : Word) : (t.setV r l x).fsr = t.fsr := rfl
@[simp] theorem Team.setV_rmode (t : Team) (r l : Nat) (x : Word) : (t.setV r l x).rmode = t.rmode := rfl
@[simp] theorem Team.setV_nbv (t : Team) (r l : Nat) (x : Word) : (t.setV r l x).nbv = t.nbv := rfl
@[simp] theorem Team.setV_key (t : Team) (r l : Nat) (x : Word) : (t.setV r l x).key = t.key := rfl
@[simp] theorem Team.setV_hold (t : Team) (r l : Nat) (x : Word) : (t.setV r l x).hold = t.hold := rfl
@[simp] theorem Team.setV_dbg (t : Team) (r l : Nat) (x : Word) : (t.setV r l x).dbg = t.dbg := rfl
@[simp] theorem Team.setV_dbgp (t : Team) (r l : Nat) (x : Word) : (t.setV r l x).dbgp = t.dbgp := rfl
@[simp] theorem Team.setV_bereaved (t : Team) (r l : Nat) (x : Word) : (t.setV r l x).bereaved = t.bereaved := rfl
@[simp] theorem Team.setV_preempts (t : Team) (r l : Nat) (x : Word) : (t.setV r l x).preempts = t.preempts := rfl
@[simp] theorem Team.setV_ctr (t : Team) (r l : Nat) (x : Word) : (t.setV r l x).ctr = t.ctr := rfl
@[simp] theorem Team.setV_queues (t : Team) (r l : Nat) (x : Word) : (t.setV r l x).queues = t.queues := rfl
@[simp] theorem Team.setV_gleans (t : Team) (r l : Nat) (x : Word) : (t.setV r l x).gleans = t.gleans := rfl
@[simp] theorem Team.setV_arrivals (t : Team) (r l : Nat) (x : Word) : (t.setV r l x).arrivals = t.arrivals := rfl
@[simp] theorem Team.setV_estate (t : Team) (r l : Nat) (x : Word) : (t.setV r l x).estate = t.estate := rfl
@[simp] theorem Team.setV_reservedEntries (t : Team) (r l : Nat) (x : Word) : (t.setV r l x).reservedEntries = t.reservedEntries := rfl
@[simp] theorem Team.setV_monitor (t : Team) (r l : Nat) (x : Word) : (t.setV r l x).monitor = t.monitor := rfl
@[simp] theorem Team.setV_aOffset (t : Team) (r l : Nat) (x : Word) : (t.setV r l x).aOffset = t.aOffset := rfl
@[simp] theorem Team.setV_fenced (t : Team) (r l : Nat) (x : Word) : (t.setV r l x).fenced = t.fenced := rfl
@[simp] theorem Team.setV_retired (t : Team) (r l : Nat) (x : Word) : (t.setV r l x).retired = t.retired := rfl
@[simp] theorem Team.setV_arrived (t : Team) (r l : Nat) (x : Word) : (t.setV r l x).arrived = t.arrived := rfl
@[simp] theorem Team.setV_held (t : Team) (r l : Nat) (x : Word) : (t.setV r l x).held = t.held := rfl
@[simp] theorem Team.setV_since (t : Team) (r l : Nat) (x : Word) : (t.setV r l x).since = t.since := rfl
@[simp] theorem Team.setV_forced (t : Team) (r l : Nat) (x : Word) : (t.setV r l x).forced = t.forced := rfl
@[simp] theorem Team.setV_leaveAtEnd (t : Team) (r l : Nat) (x : Word) : (t.setV r l x).leaveAtEnd = t.leaveAtEnd := rfl
@[simp] theorem Team.setV_datapath (t : Team) (r l : Nat) (x : Word) : (t.setV r l x).datapath = t.datapath := rfl
@[simp] theorem Team.setV_hadamard (t : Team) (r l : Nat) (x : Word) : (t.setV r l x).hadamard = t.hadamard := rfl
@[simp] theorem Team.setV_stepping (t : Team) (r l : Nat) (x : Word) : (t.setV r l x).stepping = t.stepping := rfl
@[simp] theorem Team.setV_late (t : Team) (r l : Nat) (x : Word) : (t.setV r l x).late = t.late := rfl
@[simp] theorem Team.setV_pcSeen (t : Team) (r l : Nat) (x : Word) : (t.setV r l x).pcSeen = t.pcSeen := rfl
@[simp] theorem Team.setV_weirMark (t : Team) (r l : Nat) (x : Word) : (t.setV r l x).weirMark = t.weirMark := rfl
@[simp] theorem Team.setV_stepHalt (t : Team) (r l : Nat) (x : Word) : (t.setV r l x).stepHalt = t.stepHalt := rfl
@[simp] theorem Team.setV_fenceMark (t : Team) (r l : Nat) (x : Word) : (t.setV r l x).fenceMark = t.fenceMark := rfl
@[simp] theorem Team.setV_readTags (t : Team) (r l : Nat) (x : Word) : (t.setV r l x).readTags = t.readTags := rfl
@[simp] theorem Team.setV_acquireFault (t : Team) (r l : Nat) (x : Word) : (t.setV r l x).acquireFault = t.acquireFault := rfl
@[simp] theorem Team.setV_lastMark (t : Team) (r l : Nat) (x : Word) : (t.setV r l x).lastMark = t.lastMark := rfl
@[simp] theorem Team.setV_deferred (t : Team) (r l : Nat) (x : Word) : (t.setV r l x).deferred = t.deferred := rfl

/-! ## Team.modFlag -/

@[simp] theorem Team.modFlag_tid (t : Team) (n : Nat) (g : Flag → Flag) : (t.modFlag n g).tid = t.tid := rfl
@[simp] theorem Team.modFlag_ctx (t : Team) (n : Nat) (g : Flag → Flag) : (t.modFlag n g).ctx = t.ctx := rfl
@[simp] theorem Team.modFlag_lid (t : Team) (n : Nat) (g : Flag → Flag) : (t.modFlag n g).lid = t.lid := rfl
@[simp] theorem Team.modFlag_plot (t : Team) (n : Nat) (g : Flag → Flag) : (t.modFlag n g).plot = t.plot := rfl
@[simp] theorem Team.modFlag_index (t : Team) (n : Nat) (g : Flag → Flag) : (t.modFlag n g).index = t.index := rfl
@[simp] theorem Team.modFlag_width (t : Team) (n : Nat) (g : Flag → Flag) : (t.modFlag n g).width = t.width := rfl
@[simp] theorem Team.modFlag_regs (t : Team) (n : Nat) (g : Flag → Flag) : (t.modFlag n g).regs = t.regs := rfl
@[simp] theorem Team.modFlag_run (t : Team) (n : Nat) (g : Flag → Flag) : (t.modFlag n g).run = t.run := rfl
@[simp] theorem Team.modFlag_stop (t : Team) (n : Nat) (g : Flag → Flag) : (t.modFlag n g).stop = t.stop := rfl
@[simp] theorem Team.modFlag_haltRec (t : Team) (n : Nat) (g : Flag → Flag) : (t.modFlag n g).haltRec = t.haltRec := rfl
@[simp] theorem Team.modFlag_exempt (t : Team) (n : Nat) (g : Flag → Flag) : (t.modFlag n g).exempt = t.exempt := rfl
@[simp] theorem Team.modFlag_preempted (t : Team) (n : Nat) (g : Flag → Flag) : (t.modFlag n g).preempted = t.preempted := rfl
@[simp] theorem Team.modFlag_dying (t : Team) (n : Nat) (g : Flag → Flag) : (t.modFlag n g).dying = t.dying := rfl
@[simp] theorem Team.modFlag_drained (t : Team) (n : Nat) (g : Flag → Flag) : (t.modFlag n g).drained = t.drained := rfl
@[simp] theorem Team.modFlag_pc (t : Team) (n : Nat) (g : Flag → Flag) : (t.modFlag n g).pc = t.pc := rfl
@[simp] theorem Team.modFlag_clause (t : Team) (n : Nat) (g : Flag → Flag) : (t.modFlag n g).clause = t.clause := rfl
@[simp] theorem Team.modFlag_v (t : Team) (n : Nat) (g : Flag → Flag) : (t.modFlag n g).v = t.v := rfl
@[simp] theorem Team.modFlag_s (t : Team) (n : Nat) (g : Flag → Flag) : (t.modFlag n g).s = t.s := rfl
@[simp] theorem Team.modFlag_segs (t : Team) (n : Nat) (g : Flag → Flag) : (t.modFlag n g).segs = t.segs := rfl
@[simp] theorem Team.modFlag_fsr (t : Team) (n : Nat) (g : Flag → Flag) : (t.modFlag n g).fsr = t.fsr := rfl
@[simp] theorem Team.modFlag_rmode (t : Team) (n : Nat) (g : Flag → Flag) : (t.modFlag n g).rmode = t.rmode := rfl
@[simp] theorem Team.modFlag_nbv (t : Team) (n : Nat) (g : Flag → Flag) : (t.modFlag n g).nbv = t.nbv := rfl
@[simp] theorem Team.modFlag_key (t : Team) (n : Nat) (g : Flag → Flag) : (t.modFlag n g).key = t.key := rfl
@[simp] theorem Team.modFlag_hold (t : Team) (n : Nat) (g : Flag → Flag) : (t.modFlag n g).hold = t.hold := rfl
@[simp] theorem Team.modFlag_dbg (t : Team) (n : Nat) (g : Flag → Flag) : (t.modFlag n g).dbg = t.dbg := rfl
@[simp] theorem Team.modFlag_dbgp (t : Team) (n : Nat) (g : Flag → Flag) : (t.modFlag n g).dbgp = t.dbgp := rfl
@[simp] theorem Team.modFlag_bereaved (t : Team) (n : Nat) (g : Flag → Flag) : (t.modFlag n g).bereaved = t.bereaved := rfl
@[simp] theorem Team.modFlag_preempts (t : Team) (n : Nat) (g : Flag → Flag) : (t.modFlag n g).preempts = t.preempts := rfl
@[simp] theorem Team.modFlag_ctr (t : Team) (n : Nat) (g : Flag → Flag) : (t.modFlag n g).ctr = t.ctr := rfl
@[simp] theorem Team.modFlag_queues (t : Team) (n : Nat) (g : Flag → Flag) : (t.modFlag n g).queues = t.queues := rfl
@[simp] theorem Team.modFlag_gleans (t : Team) (n : Nat) (g : Flag → Flag) : (t.modFlag n g).gleans = t.gleans := rfl
@[simp] theorem Team.modFlag_arrivals (t : Team) (n : Nat) (g : Flag → Flag) : (t.modFlag n g).arrivals = t.arrivals := rfl
@[simp] theorem Team.modFlag_estate (t : Team) (n : Nat) (g : Flag → Flag) : (t.modFlag n g).estate = t.estate := rfl
@[simp] theorem Team.modFlag_reservedEntries (t : Team) (n : Nat) (g : Flag → Flag) : (t.modFlag n g).reservedEntries = t.reservedEntries := rfl
@[simp] theorem Team.modFlag_monitor (t : Team) (n : Nat) (g : Flag → Flag) : (t.modFlag n g).monitor = t.monitor := rfl
@[simp] theorem Team.modFlag_aOffset (t : Team) (n : Nat) (g : Flag → Flag) : (t.modFlag n g).aOffset = t.aOffset := rfl
@[simp] theorem Team.modFlag_fenced (t : Team) (n : Nat) (g : Flag → Flag) : (t.modFlag n g).fenced = t.fenced := rfl
@[simp] theorem Team.modFlag_retired (t : Team) (n : Nat) (g : Flag → Flag) : (t.modFlag n g).retired = t.retired := rfl
@[simp] theorem Team.modFlag_arrived (t : Team) (n : Nat) (g : Flag → Flag) : (t.modFlag n g).arrived = t.arrived := rfl
@[simp] theorem Team.modFlag_held (t : Team) (n : Nat) (g : Flag → Flag) : (t.modFlag n g).held = t.held := rfl
@[simp] theorem Team.modFlag_since (t : Team) (n : Nat) (g : Flag → Flag) : (t.modFlag n g).since = t.since := rfl
@[simp] theorem Team.modFlag_forced (t : Team) (n : Nat) (g : Flag → Flag) : (t.modFlag n g).forced = t.forced := rfl
@[simp] theorem Team.modFlag_leaveAtEnd (t : Team) (n : Nat) (g : Flag → Flag) : (t.modFlag n g).leaveAtEnd = t.leaveAtEnd := rfl
@[simp] theorem Team.modFlag_datapath (t : Team) (n : Nat) (g : Flag → Flag) : (t.modFlag n g).datapath = t.datapath := rfl
@[simp] theorem Team.modFlag_hadamard (t : Team) (n : Nat) (g : Flag → Flag) : (t.modFlag n g).hadamard = t.hadamard := rfl
@[simp] theorem Team.modFlag_stepping (t : Team) (n : Nat) (g : Flag → Flag) : (t.modFlag n g).stepping = t.stepping := rfl
@[simp] theorem Team.modFlag_late (t : Team) (n : Nat) (g : Flag → Flag) : (t.modFlag n g).late = t.late := rfl
@[simp] theorem Team.modFlag_pcSeen (t : Team) (n : Nat) (g : Flag → Flag) : (t.modFlag n g).pcSeen = t.pcSeen := rfl
@[simp] theorem Team.modFlag_weirMark (t : Team) (n : Nat) (g : Flag → Flag) : (t.modFlag n g).weirMark = t.weirMark := rfl
@[simp] theorem Team.modFlag_stepHalt (t : Team) (n : Nat) (g : Flag → Flag) : (t.modFlag n g).stepHalt = t.stepHalt := rfl
@[simp] theorem Team.modFlag_fenceMark (t : Team) (n : Nat) (g : Flag → Flag) : (t.modFlag n g).fenceMark = t.fenceMark := rfl
@[simp] theorem Team.modFlag_readTags (t : Team) (n : Nat) (g : Flag → Flag) : (t.modFlag n g).readTags = t.readTags := rfl
@[simp] theorem Team.modFlag_acquireFault (t : Team) (n : Nat) (g : Flag → Flag) : (t.modFlag n g).acquireFault = t.acquireFault := rfl
@[simp] theorem Team.modFlag_lastMark (t : Team) (n : Nat) (g : Flag → Flag) : (t.modFlag n g).lastMark = t.lastMark := rfl
@[simp] theorem Team.modFlag_deferred (t : Team) (n : Nat) (g : Flag → Flag) : (t.modFlag n g).deferred = t.deferred := rfl

/-! ## Team.retired1 -/

@[simp] theorem Team.retired1_tid (t : Team) : t.retired1.tid = t.tid := rfl
@[simp] theorem Team.retired1_ctx (t : Team) : t.retired1.ctx = t.ctx := rfl
@[simp] theorem Team.retired1_lid (t : Team) : t.retired1.lid = t.lid := rfl
@[simp] theorem Team.retired1_plot (t : Team) : t.retired1.plot = t.plot := rfl
@[simp] theorem Team.retired1_index (t : Team) : t.retired1.index = t.index := rfl
@[simp] theorem Team.retired1_width (t : Team) : t.retired1.width = t.width := rfl
@[simp] theorem Team.retired1_regs (t : Team) : t.retired1.regs = t.regs := rfl
@[simp] theorem Team.retired1_run (t : Team) : t.retired1.run = t.run := rfl
@[simp] theorem Team.retired1_haltRec (t : Team) : t.retired1.haltRec = t.haltRec := rfl
@[simp] theorem Team.retired1_preempted (t : Team) : t.retired1.preempted = t.preempted := rfl
@[simp] theorem Team.retired1_dying (t : Team) : t.retired1.dying = t.dying := rfl
@[simp] theorem Team.retired1_drained (t : Team) : t.retired1.drained = t.drained := rfl
@[simp] theorem Team.retired1_pc (t : Team) : t.retired1.pc = t.pc := rfl
@[simp] theorem Team.retired1_clause (t : Team) : t.retired1.clause = t.clause := rfl
@[simp] theorem Team.retired1_v (t : Team) : t.retired1.v = t.v := rfl
@[simp] theorem Team.retired1_s (t : Team) : t.retired1.s = t.s := rfl
@[simp] theorem Team.retired1_flags (t : Team) : t.retired1.flags = t.flags := rfl
@[simp] theorem Team.retired1_segs (t : Team) : t.retired1.segs = t.segs := rfl
@[simp] theorem Team.retired1_fsr (t : Team) : t.retired1.fsr = t.fsr := rfl
@[simp] theorem Team.retired1_rmode (t : Team) : t.retired1.rmode = t.rmode := rfl
@[simp] theorem Team.retired1_nbv (t : Team) : t.retired1.nbv = t.nbv := rfl
@[simp] theorem Team.retired1_key (t : Team) : t.retired1.key = t.key := rfl
@[simp] theorem Team.retired1_hold (t : Team) : t.retired1.hold = t.hold := rfl
@[simp] theorem Team.retired1_dbg (t : Team) : t.retired1.dbg = t.dbg := rfl
@[simp] theorem Team.retired1_dbgp (t : Team) : t.retired1.dbgp = t.dbgp := rfl
@[simp] theorem Team.retired1_bereaved (t : Team) : t.retired1.bereaved = t.bereaved := rfl
@[simp] theorem Team.retired1_preempts (t : Team) : t.retired1.preempts = t.preempts := rfl
@[simp] theorem Team.retired1_ctr (t : Team) : t.retired1.ctr = t.ctr := rfl
@[simp] theorem Team.retired1_queues (t : Team) : t.retired1.queues = t.queues := rfl
@[simp] theorem Team.retired1_gleans (t : Team) : t.retired1.gleans = t.gleans := rfl
@[simp] theorem Team.retired1_arrivals (t : Team) : t.retired1.arrivals = t.arrivals := rfl
@[simp] theorem Team.retired1_estate (t : Team) : t.retired1.estate = t.estate := rfl
@[simp] theorem Team.retired1_reservedEntries (t : Team) : t.retired1.reservedEntries = t.reservedEntries := rfl
@[simp] theorem Team.retired1_monitor (t : Team) : t.retired1.monitor = t.monitor := rfl
@[simp] theorem Team.retired1_aOffset (t : Team) : t.retired1.aOffset = t.aOffset := rfl
@[simp] theorem Team.retired1_fenced (t : Team) : t.retired1.fenced = t.fenced := rfl
@[simp] theorem Team.retired1_since (t : Team) : t.retired1.since = t.since := rfl
@[simp] theorem Team.retired1_forced (t : Team) : t.retired1.forced = t.forced := rfl
@[simp] theorem Team.retired1_leaveAtEnd (t : Team) : t.retired1.leaveAtEnd = t.leaveAtEnd := rfl
@[simp] theorem Team.retired1_datapath (t : Team) : t.retired1.datapath = t.datapath := rfl
@[simp] theorem Team.retired1_hadamard (t : Team) : t.retired1.hadamard = t.hadamard := rfl
@[simp] theorem Team.retired1_stepping (t : Team) : t.retired1.stepping = t.stepping := rfl
@[simp] theorem Team.retired1_weirMark (t : Team) : t.retired1.weirMark = t.weirMark := rfl
@[simp] theorem Team.retired1_stepHalt (t : Team) : t.retired1.stepHalt = t.stepHalt := rfl
@[simp] theorem Team.retired1_fenceMark (t : Team) : t.retired1.fenceMark = t.fenceMark := rfl
@[simp] theorem Team.retired1_readTags (t : Team) : t.retired1.readTags = t.readTags := rfl
@[simp] theorem Team.retired1_acquireFault (t : Team) : t.retired1.acquireFault = t.acquireFault := rfl
@[simp] theorem Team.retired1_lastMark (t : Team) : t.retired1.lastMark = t.lastMark := rfl
@[simp] theorem Team.retired1_deferred (t : Team) : t.retired1.deferred = t.deferred := rfl

/-! ## Team.advance: the clause and the pc alone -/

theorem Team.advance_eq (t : Team) : t.advance = { t with clause := t.advance.clause, pc := t.advance.pc } := by
  unfold Team.advance
  split
  · rfl
  · split <;> rfl

@[simp] theorem Team.advance_tid (t : Team) : t.advance.tid = t.tid := by
  rw [t.advance_eq]
@[simp] theorem Team.advance_ctx (t : Team) : t.advance.ctx = t.ctx := by
  rw [t.advance_eq]
@[simp] theorem Team.advance_lid (t : Team) : t.advance.lid = t.lid := by
  rw [t.advance_eq]
@[simp] theorem Team.advance_plot (t : Team) : t.advance.plot = t.plot := by
  rw [t.advance_eq]
@[simp] theorem Team.advance_index (t : Team) : t.advance.index = t.index := by
  rw [t.advance_eq]
@[simp] theorem Team.advance_width (t : Team) : t.advance.width = t.width := by
  rw [t.advance_eq]
@[simp] theorem Team.advance_regs (t : Team) : t.advance.regs = t.regs := by
  rw [t.advance_eq]
@[simp] theorem Team.advance_run (t : Team) : t.advance.run = t.run := by
  rw [t.advance_eq]
@[simp] theorem Team.advance_stop (t : Team) : t.advance.stop = t.stop := by
  rw [t.advance_eq]
@[simp] theorem Team.advance_haltRec (t : Team) : t.advance.haltRec = t.haltRec := by
  rw [t.advance_eq]
@[simp] theorem Team.advance_exempt (t : Team) : t.advance.exempt = t.exempt := by
  rw [t.advance_eq]
@[simp] theorem Team.advance_preempted (t : Team) : t.advance.preempted = t.preempted := by
  rw [t.advance_eq]
@[simp] theorem Team.advance_dying (t : Team) : t.advance.dying = t.dying := by
  rw [t.advance_eq]
@[simp] theorem Team.advance_drained (t : Team) : t.advance.drained = t.drained := by
  rw [t.advance_eq]
@[simp] theorem Team.advance_v (t : Team) : t.advance.v = t.v := by
  rw [t.advance_eq]
@[simp] theorem Team.advance_s (t : Team) : t.advance.s = t.s := by
  rw [t.advance_eq]
@[simp] theorem Team.advance_flags (t : Team) : t.advance.flags = t.flags := by
  rw [t.advance_eq]
@[simp] theorem Team.advance_segs (t : Team) : t.advance.segs = t.segs := by
  rw [t.advance_eq]
@[simp] theorem Team.advance_fsr (t : Team) : t.advance.fsr = t.fsr := by
  rw [t.advance_eq]
@[simp] theorem Team.advance_rmode (t : Team) : t.advance.rmode = t.rmode := by
  rw [t.advance_eq]
@[simp] theorem Team.advance_nbv (t : Team) : t.advance.nbv = t.nbv := by
  rw [t.advance_eq]
@[simp] theorem Team.advance_key (t : Team) : t.advance.key = t.key := by
  rw [t.advance_eq]
@[simp] theorem Team.advance_hold (t : Team) : t.advance.hold = t.hold := by
  rw [t.advance_eq]
@[simp] theorem Team.advance_dbg (t : Team) : t.advance.dbg = t.dbg := by
  rw [t.advance_eq]
@[simp] theorem Team.advance_dbgp (t : Team) : t.advance.dbgp = t.dbgp := by
  rw [t.advance_eq]
@[simp] theorem Team.advance_bereaved (t : Team) : t.advance.bereaved = t.bereaved := by
  rw [t.advance_eq]
@[simp] theorem Team.advance_preempts (t : Team) : t.advance.preempts = t.preempts := by
  rw [t.advance_eq]
@[simp] theorem Team.advance_ctr (t : Team) : t.advance.ctr = t.ctr := by
  rw [t.advance_eq]
@[simp] theorem Team.advance_queues (t : Team) : t.advance.queues = t.queues := by
  rw [t.advance_eq]
@[simp] theorem Team.advance_gleans (t : Team) : t.advance.gleans = t.gleans := by
  rw [t.advance_eq]
@[simp] theorem Team.advance_arrivals (t : Team) : t.advance.arrivals = t.arrivals := by
  rw [t.advance_eq]
@[simp] theorem Team.advance_estate (t : Team) : t.advance.estate = t.estate := by
  rw [t.advance_eq]
@[simp] theorem Team.advance_reservedEntries (t : Team) : t.advance.reservedEntries = t.reservedEntries := by
  rw [t.advance_eq]
@[simp] theorem Team.advance_monitor (t : Team) : t.advance.monitor = t.monitor := by
  rw [t.advance_eq]
@[simp] theorem Team.advance_aOffset (t : Team) : t.advance.aOffset = t.aOffset := by
  rw [t.advance_eq]
@[simp] theorem Team.advance_fenced (t : Team) : t.advance.fenced = t.fenced := by
  rw [t.advance_eq]
@[simp] theorem Team.advance_retired (t : Team) : t.advance.retired = t.retired := by
  rw [t.advance_eq]
@[simp] theorem Team.advance_arrived (t : Team) : t.advance.arrived = t.arrived := by
  rw [t.advance_eq]
@[simp] theorem Team.advance_held (t : Team) : t.advance.held = t.held := by
  rw [t.advance_eq]
@[simp] theorem Team.advance_since (t : Team) : t.advance.since = t.since := by
  rw [t.advance_eq]
@[simp] theorem Team.advance_forced (t : Team) : t.advance.forced = t.forced := by
  rw [t.advance_eq]
@[simp] theorem Team.advance_leaveAtEnd (t : Team) : t.advance.leaveAtEnd = t.leaveAtEnd := by
  rw [t.advance_eq]
@[simp] theorem Team.advance_datapath (t : Team) : t.advance.datapath = t.datapath := by
  rw [t.advance_eq]
@[simp] theorem Team.advance_hadamard (t : Team) : t.advance.hadamard = t.hadamard := by
  rw [t.advance_eq]
@[simp] theorem Team.advance_stepping (t : Team) : t.advance.stepping = t.stepping := by
  rw [t.advance_eq]
@[simp] theorem Team.advance_late (t : Team) : t.advance.late = t.late := by
  rw [t.advance_eq]
@[simp] theorem Team.advance_pcSeen (t : Team) : t.advance.pcSeen = t.pcSeen := by
  rw [t.advance_eq]
@[simp] theorem Team.advance_weirMark (t : Team) : t.advance.weirMark = t.weirMark := by
  rw [t.advance_eq]
@[simp] theorem Team.advance_stepHalt (t : Team) : t.advance.stepHalt = t.stepHalt := by
  rw [t.advance_eq]
@[simp] theorem Team.advance_fenceMark (t : Team) : t.advance.fenceMark = t.fenceMark := by
  rw [t.advance_eq]
@[simp] theorem Team.advance_readTags (t : Team) : t.advance.readTags = t.readTags := by
  rw [t.advance_eq]
@[simp] theorem Team.advance_acquireFault (t : Team) : t.advance.acquireFault = t.acquireFault := by
  rw [t.advance_eq]
@[simp] theorem Team.advance_lastMark (t : Team) : t.advance.lastMark = t.lastMark := by
  rw [t.advance_eq]
@[simp] theorem Team.advance_deferred (t : Team) : t.advance.deferred = t.deferred := by
  rw [t.advance_eq]

/-! ## Reading a part after it was changed -/

theorem find?_updFirst {α : Type} (p : α → Bool) (f : α → α) (hf : ∀ a, p a = true → p (f a) = true) (l : List α) :
    (updFirst p f l).find? p = (l.find? p).map f := by
  induction l with
  | nil => rfl
  | cons a r ih =>
    by_cases h : p a = true
    · simp [updFirst, h, hf a h]
    · simp [updFirst, h, ih]

theorem find?_updFirst_ne {α : Type} (p q : α → Bool) (f : α → α) (hf : ∀ a, p a = true → q a = false ∧ q (f a) = false)
    (l : List α) : (updFirst p f l).find? q = l.find? q := by
  induction l with
  | nil => rfl
  | cons a r ih =>
    by_cases h : p a = true
    · simp [updFirst, h, hf a h]
    · by_cases hq : q a = true <;> simp [updFirst, h, hq, ih]

/-- A team keeps its handle when a change keeps it. -/
theorem State.team?_modTeam_same (s : State) (h : Handle) (f : Team → Team) (hf : ∀ t, t.tid = h → (f t).tid = h) :
    (s.modTeam h f).team? h = (s.team? h).map f :=
  find?_updFirst (fun t : Team => t.tid == h) f (fun t ht => by simpa using hf t (by simpa using ht)) s.teams

/-- Changing one team leaves every other as it was. -/
theorem State.team?_modTeam_ne (s : State) {h k : Handle} (f : Team → Team) (hk : k ≠ h)
    (hf : ∀ t, t.tid = h → (f t).tid = h) : (s.modTeam h f).team? k = s.team? k :=
  find?_updFirst_ne (fun t : Team => t.tid == h) (fun t => t.tid == k) f
    (fun t ht => by
      have ht' : t.tid = h := by simpa using ht
      constructor
      · simpa [ht'] using fun e => hk e.symm
      · simpa [hf t ht'] using fun e => hk e.symm) s.teams

theorem State.tid_of_team? {s : State} {h : Handle} {t : Team} (ht : s.team? h = some t) : t.tid = h := by
  simpa using List.find?_some ht

/-- The team that was put back. -/
theorem State.team?_setTeam {s : State} {t : Team} (u : Team) (ht : s.team? u.tid = some t) :
    (s.setTeam u).team? u.tid = some u := by
  simp [State.setTeam, State.team?_modTeam_same, ht]

/-- Putting one team back leaves every other as it was. -/
theorem State.team?_setTeam_ne (s : State) (u : Team) {k : Handle} (hk : k ≠ u.tid) :
    (s.setTeam u).team? k = s.team? k :=
  s.team?_modTeam_ne _ hk fun _ _ => rfl

/-! ## Registers (R107, R108, R110, R113) -/

theorem Team.getS_setS (t : Team) (n m : Nat) (x : Dword) : (t.setS n x).getS m = if m = n then x else t.getS m :=
  spRead_spWrite 0 t.s n m x

theorem Team.getV_setV (t : Team) (r l r' l' : Nat) (x : Word) :
    (t.setV r l x).getV r' l' = if r' = r ∧ l' = l then x else t.getV r' l' := by
  simp only [Team.setV, Team.getV, spRead_spWrite]
  by_cases hr : r' = r
  · subst hr; simp [spRead_spWrite]
  · simp [hr]

theorem Team.flag_modFlag (t : Team) (n m : Nat) (g : Flag → Flag) :
    (t.modFlag n g).flag m = if m = n then g (t.flag n) else t.flag m :=
  spRead_spWrite (α := Flag) {} t.flags n m _

@[simp] theorem Team.getV_setS (t : Team) (n : Nat) (x : Dword) (r l : Nat) : (t.setS n x).getV r l = t.getV r l := rfl
@[simp] theorem Team.getS_setV (t : Team) (r l : Nat) (x : Word) (n : Nat) : (t.setV r l x).getS n = t.getS n := rfl
@[simp] theorem Team.flag_setS (t : Team) (n : Nat) (x : Dword) (m : Nat) : (t.setS n x).flag m = t.flag m := rfl
@[simp] theorem Team.getS_modFlag (t : Team) (n : Nat) (g : Flag → Flag) (m : Nat) : (t.modFlag n g).getS m = t.getS m := rfl

/-- A core reads as it was changed. -/
theorem State.core_modCore (s : State) (c d : Nat) (f : Core → Core) :
    (s.modCore c f).core d = if d = c then f (s.core c) else s.core d :=
  spRead_spWrite (α := Core) {} s.cores c d _

end Sys2Proof.Machine
end

