-- ==== Sys2Proof/Laws/Issue.lean ====
section
/-! SUPPORT. Issuing and retiring (R34, R84, R361): what issue, retire and the weirs do for a team that nothing keeps from its instruction. -/

namespace Sys2Proof.Machine

/-! ## What poised says -/

structure Poised (s : State) (t : Team) : Prop where
  team : s.team? s.cur = some t
  clause : t.clause.isSome = true
  may : s.canIssue t = true
  divide : s.dividing t = false
  datapath : t.datapath = none
  hadamard : t.hadamard = none
  loads : s.loadsPending t.tid = false
  runs : s.runRegs t = []
  weirs : s.weirsOff t = true
  late : t.late = none
  stepping : t.stepping = none
  stays : t.leaveAtEnd = false
  yields : t.clauseYield = false
  rputs : (s.rputs.any fun r => r.tid == t.tid) = false
  mark : t.weirMark = none

theorem poised_iff (s : State) (t : Team) : s.poised t = true ↔ Poised s t := by
  constructor
  · intro h
    simp only [State.poised, Bool.and_eq_true, beq_iff_eq, Bool.not_eq_true', Option.isNone_iff_eq_none,
      List.isEmpty_iff] at h
    obtain ⟨⟨⟨⟨⟨⟨⟨⟨⟨⟨⟨⟨⟨⟨a, b⟩, c⟩, d⟩, e⟩, f⟩, g⟩, i⟩, j⟩, k⟩, l⟩, m⟩, n⟩, o⟩, p⟩ := h
    exact ⟨a, b, c, d, e, f, g, i, j, k, l, m, n, o, p⟩
  · intro h
    simp [State.poised, h.team, h.clause, h.may, h.divide, h.datapath, h.hadamard, h.loads, h.runs, h.weirs, h.late,
      h.stepping, h.stays, h.yields, h.rputs, h.mark]

theorem Poised.tid {s : State} {t : Team} (h : Poised s t) : t.tid = s.cur := State.tid_of_team? h.team

theorem undelivered_of_noLoads {s : State} {h : Handle} (hl : s.loadsPending h = false) : s.undelivered h = [] := by
  have : (s.ops.filter fun o => o.origin.tid == h && o.returns) = [] := by
    simpa [State.loadsPending, List.filter_eq_nil_iff] using hl
  simp [State.undelivered, this]

theorem rputRegs_of_none {s : State} {h : Handle} (hr : (s.rputs.any fun r => r.tid == h) = false) : s.rputRegs h = [] := by
  have : (s.rputs.filter fun r => r.tid == h) = [] := by
    simpa [List.filter_eq_nil_iff] using hr
  simp [State.rputRegs, this]

theorem Poised.view {s : State} {t : Team} (h : Poised s t) : s.view t = (t, 0) := by
  simp [State.view, undelivered_of_noLoads h.loads, h.runs, rputRegs_of_none h.rputs]

/-- For a poised team, an instruction's body runs on the state as it stands. -/
theorem issue_poised {s : State} {t : Team} (h : Poised s t) (body : State → Team → Team → State) :
    issue s body = .next (body s t t) := by
  have ha : t.awaitsScalars = false := by simp [Team.awaitsScalars, h.datapath]
  simp [issue, h.team, h.may, h.divide, ha, h.view]

theorem noteWrites_noLoads {s : State} {h : Handle} (hl : s.loadsPending h = false)
    (hr : (s.rputs.any fun r => r.tid == h) = false) (b : Bool) (ps : List (Nat × Nat)) : s.noteWrites h b ps = s := by
  have hn : ∀ o ∈ s.ops, (o.origin.tid == h && o.returns) = false := by
    simpa [State.loadsPending] using hl
  have : (s.noteWrites h b ps).ops = s.ops := by
    refine Eq.trans (List.map_congr_left (g := id) fun o ho => ?_) (List.map_id _)
    simp [hn o ho]
  have hr' : ∀ r ∈ s.rputs, (r.tid == h) = false := by simpa using hr
  have that : (s.noteWrites h b ps).rputs = s.rputs := by
    refine Eq.trans (List.map_congr_left (g := id) fun r hm => ?_) (List.map_id _)
    simp [hr' r hm]
  calc s.noteWrites h b ps = { s with ops := (s.noteWrites h b ps).ops, rputs := (s.noteWrites h b ps).rputs } := rfl
    _ = s := by rw [this, that]

/-! ## Retiring -/

@[simp] theorem Team.gone_getS (t : Team) (n : Nat) : t.gone.getS n = t.getS n := by
  simp [Team.gone, Team.getS]
@[simp] theorem Team.gone_getV (t : Team) (r l : Nat) : t.gone.getV r l = t.getV r l := by
  simp [Team.gone, Team.getV]
@[simp] theorem Team.gone_tid (t : Team) : t.gone.tid = t.tid := by simp [Team.gone]

/-- A team with no late stop, no step and no place to leave retires by going on, and nothing else happens. -/
theorem retireBy_quiet (s : State) (u : Team) (go : Team → Team) (hl : u.late = none) (hs : u.stepping = none)
    (hp : u.leaveAtEnd = false) (hgo : (go u).leaveAtEnd = u.leaveAtEnd) (hid : (go u).tid = u.tid) :
    s.retireBy u go false = s.setTeam (go u).retired1 := by
  have hc : ∀ b, u.countStep b = u := fun b => by simp [Team.countStep, hs]
  have key : ∀ b, (if b = true then (s.setTeam (go u).retired1).endClause u.tid false else s.setTeam (go u).retired1)
      = s.setTeam (go u).retired1 := by
    intro b
    cases b with
    | false => rfl
    | true =>
      simp only [if_true, State.endClause]
      cases ht : (s.setTeam (go u).retired1).team? u.tid with
      | none => rfl
      | some w =>
        have h0 : ((go u).retired1).tid = u.tid := by simp [hid]
        have hm := State.team?_modTeam_same s ((go u).retired1).tid (fun _ => (go u).retired1) fun _ _ => rfl
        rw [h0] at hm
        have hw : w = (go u).retired1 := by
          rw [State.setTeam, h0, hm] at ht
          cases hs' : s.team? u.tid with
          | none => simp [hs'] at ht
          | some v => simpa [hs'] using ht.symm
        simp [hw, hgo, hp]
  simp only [State.retireBy, hc, hl, State.lateStop]
  exact key _

theorem retire_quiet (s : State) (u : Team) (hl : u.late = none) (hs : u.stepping = none)
    (hp : u.leaveAtEnd = false) (hy : u.clauseYield = false) : s.retire u = s.setTeam u.gone := by
  simp only [State.retire, hy]
  exact retireBy_quiet s u Team.advance hl hs hp (by simp) (by simp)

theorem retireAt_quiet (s : State) (u : Team) (a : Dword) (hl : u.late = none) (hs : u.stepping = none)
    (hp : u.leaveAtEnd = false) (hy : u.clauseYield = false) : s.retireAt u a = s.setTeam (u.jumpTo a).retired1 := by
  simp only [State.retireAt, hy]
  exact retireBy_quiet s u (fun v => v.jumpTo a) hl hs hp rfl rfl

/-- Scalar registers written in order. -/
def Team.setAll (t : Team) (ws : List (BitVec 7 × Dword)) : Team := ws.foldl (fun u w => u.setS w.1.toNat w.2) t

theorem Team.setAll_eq (t : Team) (ws : List (BitVec 7 × Dword)) : t.setAll ws = { t with s := (t.setAll ws).s } := by
  induction ws generalizing t with
  | nil => rfl
  | cons w ws ih =>
    have := ih (t.setS w.1.toNat w.2)
    simp only [Team.setAll, List.foldl_cons] at this ⊢
    rw [this]; rfl

theorem Team.advance_withS (t : Team) (x : Sparse Dword) :
    ({ t with s := x } : Team).advance = { t.advance with s := x } := by
  cases t
  simp only [Team.advance]
  split
  · rfl
  · split <;> rfl

theorem Team.gone_s (t : Team) (x : Sparse Dword) : ({ t with s := x } : Team).gone = { t.gone with s := x } := by
  rw [Team.gone, Team.advance_withS]; rfl

theorem retireS_poised {s : State} {t : Team} (h : Poised s t) (ws : List (BitVec 7 × Dword)) :
    s.retireS t ws = s.setTeam (t.setAll ws).gone := by
  rw [State.retireS, noteWrites_noLoads h.loads h.rputs]
  change s.retire (t.setAll ws) = _
  apply retire_quiet <;> rw [Team.setAll_eq] 
  · exact h.late
  · exact h.stepping
  · exact h.stays
  · exact h.yields

theorem retire_poised {s : State} {t : Team} (h : Poised s t) : s.retire t = s.setTeam t.gone :=
  retire_quiet s t h.late h.stepping h.stays h.yields

/-- A scalar instruction with one result, from a poised team. -/
theorem setsScalar_of_retireS {i : Instr} {s : State} {t : Team} {d : BitVec 7} {x : Dword} (h : Poised s t)
    (he : exec i s = .next (s.retireS t [(d, x)])) : SetsScalar i s t d x := by
  refine ⟨(t.setAll [(d, x)]).gone, ?_, ?_, ?_⟩
  · rw [CompletesAs, he, retireS_poised h]
  · rw [Team.setAll_eq, Team.gone_s]
  · intro n
    simp only [Team.gone_getS, Team.setAll, List.foldl_cons, List.foldl_nil, Team.getS_setS]
    split <;> simp

/-- A scalar instruction whose meaning is one function of the team's registers. -/
theorem setsScalar_of_scalarOp {i : Instr} {s : State} {t : Team} {d : BitVec 7} {g : Team → Dword} (h : Poised s t)
    (he : exec i s = scalarOp d g s) : SetsScalar i s t d (g t) :=
  setsScalar_of_retireS h (he.trans (issue_poised h _))

/-- The immediate as a number (R132). -/
theorem imm_toInt (i : BitVec 8) : (imm i).toInt = i.toInt := by
  rw [imm, BitVec.toInt_signExtend_of_le (by omega)]

end Sys2Proof.Machine
end

