-- ==== Sys2Proof/Laws/Memory.lean ====
section
/-! SUPPORT. Laws of physical memory (R277, R287): what a read gives after a write, and that every operation on memory keeps its canonical form. -/

namespace Sys2Proof.Machine

/-! ## Reads after writes -/

theorem memByte_memPut (m : List Host.Cell) (a x : Nat) (b : Byte) :
    memByte (memPut m a b) x = if x = a then b else memByte m x :=
  spRead_spWrite unlistedByte m a x b

/-- After a run of bytes is written, each of them is read at its place, and every other place is as it was. -/
theorem memByte_memWrite (m : List Host.Cell) (a x : Nat) (bs : List Byte) :
    memByte (memWrite m a bs) x = if a ≤ x ∧ x < a + bs.length then bs.getD (x - a) 0 else memByte m x := by
  induction bs generalizing m a with
  | nil =>
    have : ¬(a ≤ x ∧ x < a + ([] : List Byte).length) := by simp only [List.length_nil]; omega
    rw [memWrite, if_neg this]
  | cons b bs ih =>
    rw [memWrite, ih, memByte_memPut]
    by_cases h1 : x = a
    · subst h1
      have : ¬(x + 1 ≤ x ∧ x < x + 1 + bs.length) := by omega
      have h2 : x ≤ x ∧ x < x + (b :: bs).length := by simp only [List.length_cons]; omega
      rw [if_neg this, if_pos rfl, if_pos h2, Nat.sub_self]; rfl
    · by_cases h2 : a + 1 ≤ x ∧ x < a + 1 + bs.length
      · have h3 : a ≤ x ∧ x < a + (b :: bs).length := by simp; omega
        obtain ⟨k, hk⟩ : ∃ k, x - a = k + 1 := ⟨x - a - 1, by omega⟩
        have hk' : x - (a + 1) = k := by omega
        rw [if_pos h2, if_pos h3, hk, hk']; rfl
      · have h3 : ¬(a ≤ x ∧ x < a + (b :: bs).length) := by simp; omega
        rw [if_neg h2, if_neg h1, if_neg h3]

/-! ## The canonical form -/

theorem memPut_wf {m : List Host.Cell} (h : Memory.wf m = true) (a : Nat) (b : Byte) :
    Memory.wf (memPut m a b) = true :=
  spWf_spWrite unlistedByte m a b h

theorem memWrite_wf {m : List Host.Cell} (h : Memory.wf m = true) (a : Nat) (bs : List Byte) :
    Memory.wf (memWrite m a bs) = true := by
  induction bs generalizing m a with
  | nil => exact h
  | cons b bs ih => exact ih (memPut_wf h a b) (a + 1)

theorem spWfFrom_filter {α : Type} [DecidableEq α] (d : α) (p : Nat × α → Bool) (m : Sparse α) (lo : Nat)
    (h : spWfFrom d lo m = true) : spWfFrom d lo (m.filter p) = true := by
  induction m generalizing lo with
  | nil => rfl
  | cons c r ih =>
    simp only [spWfFrom, Bool.and_eq_true, decide_eq_true_eq] at h
    by_cases hp : p c = true
    · simp only [List.filter_cons, hp, if_true, spWfFrom, Bool.and_eq_true, decide_eq_true_eq]
      exact ⟨h.1, ih _ h.2⟩
    · simp only [List.filter_cons, hp]
      exact spWfFrom_mono (Nat.le_succ_of_le h.1.1) (ih _ h.2)

/-- Leaving entries out keeps the form. -/
theorem memFilter_wf {m : List Host.Cell} (h : Memory.wf m = true) (p : Host.Cell → Bool) :
    Memory.wf (m.filter p) = true :=
  spWfFrom_filter unlistedByte p m 0 h

theorem memFold_wf {β : Type} (k : β → Nat) (v : β → Byte) (l : List β) {m : List Host.Cell} (h : Memory.wf m = true) :
    Memory.wf (l.foldl (fun m c => memPut m (k c) (v c)) m) = true := by
  induction l generalizing m with
  | nil => exact h
  | cons c l ih => exact ih (memPut_wf h _ _)

/-- Memory is as it was. -/
theorem fold_mem {β : Type} (f : State → β → State) (hf : ∀ s b, (f s b).mem = s.mem) (l : List β) (s : State) :
    (l.foldl f s).mem = s.mem := by
  induction l generalizing s with
  | nil => rfl
  | cons b l ih => rw [List.foldl_cons, ih, hf]

@[simp] theorem State.fireLine_mem (s : State) (l n : Nat) : (s.fireLine l n).mem = s.mem := by
  simp only [State.fireLine]
  exact fold_mem (fun (st : State) (a : Arm) => st.modTeam a.tid fun t => t.endArm n) (fun _ _ => rfl) _ _

@[simp] theorem State.touchAt_mem (s : State) (pa : Nat) (w : Bool) : (s.touchAt pa w).mem = s.mem := by
  simp only [State.touchAt]
  split
  · split <;> rfl
  · rfl

@[simp] theorem State.touchSlice_mem (s : State) (pa n : Nat) (w : Bool) : (s.touchSlice pa n w).mem = s.mem :=
  fold_mem _ (fun s (p : Nat × Nat) => State.touchAt_mem s p.1 w) _ _

@[simp] theorem State.healSectors_mem (s : State) (w pa n : Nat) : (s.healSectors w pa n).mem = s.mem := rfl

/-- The memory after a write at its home, whoever writes. -/
@[simp] theorem State.homeWriteBy_mem (s : State) (w : Nat) (nc : Bool) (pa : Nat) (bs : List Byte) :
    (s.homeWriteBy w nc pa bs).mem = memWrite s.mem pa bs := by
  simp only [State.homeWriteBy]
  rw [fold_mem _ fun s l => State.fireLine_mem s l 0]
  split
  · rfl
  · rw [State.touchSlice_mem]; rfl

@[simp] theorem State.homeWrite_mem (s : State) (pa : Nat) (bs : List Byte) :
    (s.homeWrite pa bs).mem = memWrite s.mem pa bs := State.homeWriteBy_mem s 0 false pa bs

/-- What a home write puts into memory, and that it leaves every other byte. -/
theorem memByte_homeWrite (s : State) (pa x : Nat) (bs : List Byte) :
    memByte (s.homeWrite pa bs).mem x = if pa ≤ x ∧ x < pa + bs.length then bs.getD (x - pa) 0 else memByte s.mem x := by
  rw [State.homeWrite_mem, memByte_memWrite]

theorem homeWriteBy_wf {s : State} (h : Memory.wf s.mem = true) (w : Nat) (nc : Bool) (pa : Nat) (bs : List Byte) :
    Memory.wf (s.homeWriteBy w nc pa bs).mem = true := by
  rw [State.homeWriteBy_mem]; exact memWrite_wf h pa bs

theorem homeWrite_wf {s : State} (h : Memory.wf s.mem = true) (pa : Nat) (bs : List Byte) :
    Memory.wf (s.homeWrite pa bs).mem = true := by
  rw [State.homeWrite_mem]; exact memWrite_wf h pa bs

theorem fold_wf {β : Type} (f : State → β → State) (hf : ∀ s b, Memory.wf s.mem = true → Memory.wf (f s b).mem = true)
    (l : List β) {s : State} (h : Memory.wf s.mem = true) : Memory.wf (l.foldl f s).mem = true := by
  induction l generalizing s with
  | nil => exact h
  | cons b l ih => exact ih (hf s b h)

/-- What a translation leaves in the caches changes no byte of memory. -/
@[simp] theorem State.keepFirst_mem (s : State) (port : Nat) (e : TlbEntry) : (s.keepFirst port e).mem = s.mem := by
  simp only [State.keepFirst, State.keepIn]
  split
  · rfl
  · split <;> rfl

@[simp] theorem State.keepSecond_mem (s : State) (core : Nat) (e : TlbEntry) : (s.keepSecond core e).mem = s.mem := by
  simp only [State.keepSecond, State.keepIn]
  split <;> rfl

@[simp] theorem State.countPerf_mem (s : State) (core ctx code n : Nat) : (s.countPerf core ctx code n).mem = s.mem := by
  simp only [State.countPerf]
  split <;> rfl

@[simp] theorem State.fillTlb_mem (s : State) (port ctx va : Nat) : (s.fillTlb port ctx va).mem = s.mem := by
  simp only [State.fillTlb]
  split
  · rfl
  · split
    · exact State.keepFirst_mem _ _ _
    · split
      · simp
      · simp

theorem vWrite_wf {s s' : State} (h : Memory.wf s.mem = true) {port ctx va : Nat} {bs : List Byte}
    (hw : s.vWrite port ctx va bs = .inl s') : Memory.wf s'.mem = true := by
  simp only [State.vWrite] at hw
  split at hw
  · exact absurd hw (by simp)
  · rw [← Sum.inl.inj hw]
    refine fold_wf _ (fun u p hu => ?_) _ h
    split
    · exact homeWriteBy_wf (by rw [State.fillTlb_mem]; exact hu) _ _ _ _
    · exact hu

theorem report_wf {s : State} (h : Memory.wf s.mem = true) (ctx kind cause : Nat) (t : Handle) (a d : Nat) :
    Memory.wf (s.report ctx kind cause t a d).mem = true := by
  simp only [State.report]
  split
  · exact h
  · exact homeWrite_wf h _ _

theorem qWrite_wf {s : State} (h : Memory.wf s.mem = true) (ctx off : Nat) (bs : List Byte) :
    Memory.wf (s.qWrite ctx off bs).mem = true := by
  simp only [State.qWrite]
  split
  · exact h
  · split
    · exact vWrite_wf h ‹_›
    · exact report_wf h _ _ _ _ _ _

theorem renumber_wf {s : State} (h : Memory.wf s.mem = true) (n : BitVec 6) : Memory.wf (s.renumber n).mem = true := by
  simp only [State.renumber]
  split
  · exact h
  · exact memFold_wf (fun c : Host.Cell => swapModule s.moduleNumber.toNat n.toNat c.1) (fun c => c.2) s.mem rfl

theorem powerOff_wf {s : State} (h : Memory.wf s.mem = true) : Memory.wf s.powerOff.mem = true :=
  memFilter_wf (renumber_wf h 0) _

/-- Memory after reset is in the form. -/
theorem reset_wf : Memory.wf State.reset.mem = true := rfl

end Sys2Proof.Machine
end

