-- ==== Sys2Proof/Laws/Weirs.lean ====
section
/-! SUPPORT. Weirs that are off (R355, R358): with EN 0 in each, evaluating them changes nothing and stops nothing; and the step of a team that nothing keeps from its instruction (R84, R91, R103). -/

namespace Sys2Proof.Machine

theorem weirsOff_en {s : State} {t : Team} (h : s.weirsOff t = true) {n : Nat} (hn : n < 16) :
    (s.weir (coreOf t.tid) n).en = false := by
  have := List.all_eq_true.1 h n (List.mem_range.2 hn)
  simpa using this

theorem evalWeir_off {t : Team} {o : WeirOut} (pc : Dword) (g : Nat) (ks : List Nat) (ev : Events) {n : Nat}
    (h : (o.state.weir (coreOf t.tid) n).en = false) : evalWeir t pc g ks ev n o = o := by
  simp [evalWeir, State.weirWatches, h]

theorem foldl_fixed {α β : Type} (f : α → β → α) (a : α) (l : List β) (h : ∀ b ∈ l, f a b = a) : l.foldl f a = a := by
  induction l with
  | nil => rfl
  | cons b l ih => rw [List.foldl_cons, h b (by simp)]; exact ih fun c hc => h c (by simp [hc])

/-- With every weir off, evaluation leaves the state and stops nothing. -/
theorem evalWeirs_off {s : State} {t : Team} (h : s.weirsOff t = true) (pc : Dword) (g : Nat) (ks : List Nat) (ev : Events) :
    evalWeirs s t pc g ks ev = { state := s } :=
  foldl_fixed _ _ _ fun _ hn => evalWeir_off pc g ks ev (weirsOff_en h (List.mem_range.1 hn))

theorem State.catchUp_same {s : State} {t u : Team} (h : s.team? t.tid = some u) (hm : u.monitor = t.monitor) :
    s.catchUp t = t := by
  simp [State.catchUp, h, hm]

/-- No stop found leaves the team as it is. -/
@[simp] theorem Team.addLate_none (t : Team) : t.addLate none = t := by
  simp only [Team.addLate]
  split
  · simp_all
  · rename_i h; cases t; simp_all
  · rfl

/-- Under weirs that are off an instruction has its effect on every lane, and nothing more. -/
theorem underWeirs_off {s : State} {t u : Team} (h : s.weirsOff t = true) (hw : t.weirMark = none) (ht : s.team? t.tid = some u)
    (hm : u.monitor = t.monitor) (ks lanes : List Nat) (ev : List Nat → Events)
    (effect : List Nat → State → Team → State) : underWeirs s t ks lanes ev effect = effect lanes s t := by
  have h0 : (maskOf [] : LaneMask) = 0 := rfl
  have h1 : ({ t with hold := t.hold ||| maskOf [] } : Team) = t := by rw [h0]; simp
  have h2 : s.catchUp t = t := State.catchUp_same ht hm
  have h3 : (lanes.filter fun l => !([] : List Nat).contains l) = lanes := by simp
  have h4 : strongest none t.weirMark.join = none := by rw [hw]; rfl
  have h5 : ∀ x : State, x.freezeLate t.tid s.nextId [] = x := fun _ => rfl
  simp only [underWeirs, evalWeirs_off h, ite_self, h4, h1, h2, h3, Team.addLate_none, h5]

/-- With every weir off, no weir is live. -/
theorem weirsLive_off {s : State} {t : Team} (h : s.weirsOff t = true) : s.weirsLive (coreOf t.tid) = false := by
  simp only [State.weirsLive, List.any_eq_false, List.mem_range]
  intro n hn
  simpa using weirsOff_en h hn

/-! ## Checks (R103) -/

/-- A V-format or L-format instruction whose check fails traps with that check's cause. -/
theorem issueV_checks {s : State} {t : Team} (h : Poised s t) (op : Nat) (f : VFields)
    (body : State → Team → Team → State) {c : Nat} (hc : checkV s t op f = some c) :
    issueV op f s body = .next (s.trap t c 0 0 0) := by
  rw [issueV, issue_poised h]
  simp only [hc]

/-- No vector stage holds work of a poised team, so no register is awaited. -/
theorem blocked_poised {s : State} {t : Team} (h : Poised s t) (runs : List (Nat × Nat)) : t.blocked runs = false := by
  simp [Team.blocked, h.datapath, h.hadamard]

/-- One whose checks pass has its body's effect. -/
theorem issueV_passes {s : State} {t : Team} (h : Poised s t) (op : Nat) (f : VFields)
    (body : State → Team → Team → State) (hc : checkV s t op f = none) :
    issueV op f s body = .next (body s t t) := by
  rw [issueV, issue_poised h]
  simp [hc, blocked_poised h]

end Sys2Proof.Machine
end

