-- ==== Sys2Proof/Laws/Ops.lean ====
section
/-! SUPPORT. What the shared operations can do: issue (R84, R131), the checks before it (R103), a trap (R379, R380, R383), a hold and a park (R35, R36), a report (R402), accesses of the hardware through page tables (R292 to R296), a death (R274, R347) and a command of the host (R398). -/

namespace Sys2Proof.Machine

/-! ## Issue -/

/-- An instruction's issue always answers a next state. -/
theorem issue_next (s : State) (body : State → Team → Team → State) : ∃ s', issue s body = .next s' := ⟨_, rfl⟩

/-- Everything that an issue can do: nothing, a hold by the divider or a scalar register, or the body's effect. -/
theorem issue_cases {s s' : State} {body : State → Team → Team → State} (h : issue s body = .next s') :
    (s.team? s.cur = none ∧ s' = s) ∨
    (∃ t, s.team? s.cur = some t ∧
      ((s.canIssue t = false ∧ s' = s) ∨ (s.canIssue t = true ∧ s.dividing t = true ∧ s' = s.holdAt t .divider) ∨
        (s.canIssue t = true ∧ s.dividing t = false ∧ s' = s.holdAt t .register) ∨
        (s.canIssue t = true ∧ s.dividing t = false ∧
          s' = body { s with fresh := s.fresh + (s.view t).2 } t (s.view t).1))) := by
  have h' := (Host.Outcome.next.inj h).symm
  split at h'
  · exact .inl ⟨‹_›, h'⟩
  · rename_i t ht
    refine .inr ⟨t, ht, ?_⟩
    by_cases hc : s.canIssue t = true
    · by_cases hd : s.dividing t = true
      · simp [hc, hd] at h'; exact .inr (.inl ⟨hc, hd, h'⟩)
      · have hd : s.dividing t = false := by simpa using hd
        simp only [hc, hd, Bool.not_true, Bool.false_eq_true, if_false] at h'
        split at h'
        · exact .inr (.inr (.inl ⟨hc, hd, h'⟩))
        · exact .inr (.inr (.inr ⟨hc, hd, h'⟩))
    · have hc : s.canIssue t = false := by simpa using hc
      simp [hc] at h'; exact .inl ⟨hc, h'⟩

/-- Everything that the issue of a V-format or L-format instruction can do once issue lets it: a check's trap, a hold by a
register, or its own effect. -/
theorem issueV_body (op : Nat) (f : VFields) (s : State) (body : State → Team → Team → State) :
    issueV op f s body = issue s fun s t v =>
      match checkV s t op f with
      | some c => s.trap t c 0 0 0
      | none => if t.blocked (chkV s t op f).runs then s.holdAt t .register else body s t v := rfl

/-! ## A trap, a hold, a park -/

@[simp] theorem State.post_mem (s : State) (c : Nat) (d : Delivery) : (s.post c d).mem = s.mem := rfl
@[simp] theorem State.post_teams (s : State) (c : Nat) (d : Delivery) : (s.post c d).teams = s.teams := rfl
@[simp] theorem State.setTeam_mem' (s : State) (t : Team) : (s.setTeam t).mem = s.mem := rfl

/-- A trap of a team that is not the supervisor: the team is HALTED where it stands, and one delivery is pending. -/
theorem trap_posts {s : State} {t : Team} (h : s.isSup t = false) (cause detail : Nat) (info : Dword) (mask : LaneMask) :
    s.trap t cause detail info mask = (s.setTeam (t.haltedNow.endStep 3)).post t.ctx
      { cause, detail, tid := t.tid, lid := t.lid, pc := t.insnPc, issue := t.issueNo, info, mask } := by
  simp [State.trap, h]

/-- A trap of the supervisor: it is HALTED where it stands, and the driver's report tells it. -/
theorem trap_reports {s : State} {t : Team} (h : s.isSup t = true) (cause detail : Nat) (info : Dword) (mask : LaneMask) :
    s.trap t cause detail info mask =
      (s.setTeam (t.haltedNow.endStep 3)).report t.ctx 1 cause t.tid info.toNat t.lidData := by
  simp [State.trap, h]

theorem holdAt_eq (s : State) (t : Team) (h : Hold) : ∃ n, s.holdAt t h = s.setTeam { t with held := some (h, n) } :=
  ⟨_, rfl⟩

theorem park_eq (s : State) (t : Team) (p : Park) (w : Option Wake) :
    s.park t p w = s.setTeam ({ t with run := .parked p w, held := none, leaveAtEnd := false }.endStep 4) := rfl

/-! ## Reports and accesses of the hardware -/

/-- A report of a context that is not there does nothing. -/
theorem report_none {s : State} {c : Nat} (h : s.ctx? c = none) (kind cause : Nat) (t : Handle) (a d : Nat) :
    s.report c kind cause t a d = s := by
  simp [State.report, h]

/-- With room in the ring, a report writes its record and counts it. -/
theorem report_room {s : State} {n : Nat} {c : Context} (h : s.ctx? n = some c) (hr : c.repWritten - c.repFreed < 1024)
    (kind cause : Nat) (t : Handle) (a d : Nat) :
    s.report n kind cause t a d = (s.homeWrite (c.saveAddr + 32 * (c.repWritten % 1024))
      (dwordBytes [kind * 2 ^ 56 + cause * 2 ^ 48 + t.toNat, a, d, 0])).modCtx n
        fun x => { x with repWritten := x.repWritten + 1 } := by
  have hd : ¬1024 ≤ c.repWritten - c.repFreed := by omega
  simp [State.report, h, hd]

/-- A write through page tables either is performed whole, no piece of it having a fault, or changes nothing. -/
theorem vWrite_cases (s : State) (port ctx va : Nat) (bs : List Byte) :
    (∃ f, s.firstFault port ctx va bs.length .write = some f ∧ s.vWrite port ctx va bs = .inr f) ∨
    (s.firstFault port ctx va bs.length .write = none ∧ s.vWrite port ctx va bs =
      .inl ((sectors va bs.length).foldl (fun st p => match s.translate port ctx p.1 .write with
        | .ok pa nc => (st.fillTlb port ctx p.1).homeWriteBy 0 nc pa ((bs.drop (p.1 - va)).take p.2)
        | .fault _ => st) s)) := by
  simp only [State.vWrite]
  cases h : s.firstFault port ctx va bs.length .write with
  | some f => exact .inl ⟨f, rfl, rfl⟩
  | none => exact .inr ⟨rfl, rfl⟩

/-- Within one sector a write through page tables is one write at its home, or its fault. -/
theorem sectors_single {a n : Nat} (h0 : 0 < n) (h : a % 32 + n ≤ 32) : sectors a n = [(a, n)] := by
  have h1 : n ≠ 0 := by omega
  have h2 : min n (32 - a % 32) = n := by omega
  have h3 : ∀ k b, splitSectors k b 0 = [] := by intro k b; cases k <;> rfl
  simp only [sectors, splitSectors, h1, if_false, h2, Nat.sub_self, h3]

/-! ## Deaths -/

/-- Everything that a kill can do: nothing to a team that is gone or dies already, else its death is accepted and its
parties are abandoned. -/
theorem kill_cases (s : State) (h : Handle) (g : Nat) :
    (s.team? h = none ∧ s.kill h g = s) ∨
    (∃ t, s.team? h = some t ∧ (t.dying.isSome = true ∧ s.kill h g = s ∨
      t.dying = none ∧ s.kill h g = (s.acceptDeath h true g).abandon t)) := by
  simp only [State.kill]
  cases ht : s.team? h with
  | none => exact .inl ⟨rfl, rfl⟩
  | some t =>
    cases hd : t.dying with
    | none => exact .inr ⟨t, rfl, .inr ⟨hd, by simp [hd]⟩⟩
    | some d => exact .inr ⟨t, rfl, .inl ⟨by simp [hd], by simp [hd]⟩⟩

/-- A death that is accepted leaves every other team as it was. -/
theorem acceptDeath_ne (s : State) {h k : Handle} (b : Bool) (g : Nat) (hk : k ≠ h) :
    (s.acceptDeath h b g).team? k = s.team? k := by
  simp only [State.acceptDeath]
  refine State.team?_modTeam_ne _ _ hk fun t ht => ?_
  split
  · exact ht
  · exact ht

@[simp] theorem State.abandon_mem (s : State) (t : Team) : (s.abandon t).mem = s.mem := by
  simp only [State.abandon]
  split <;> rfl

@[simp] theorem State.acceptDeath_mem (s : State) (h : Handle) (b : Bool) (g : Nat) : (s.acceptDeath h b g).mem = s.mem := rfl

@[simp] theorem State.kill_mem (s : State) (h : Handle) (g : Nat) : (s.kill h g).mem = s.mem := by
  simp only [State.kill]
  split
  · rfl
  · split
    · rfl
    · rw [State.abandon_mem, State.acceptDeath_mem]

/-! ## Commands of the host -/

/-- A command on a function that is not there, on a module that is not up, or while BUSY is set, does nothing. -/
theorem hostCommand_idle {s : State} (op : Nat) (pf : Bool) (act : State → Mailbox → Reply)
    (h : s.ready = false ∨ 64 < s.arg.a ∨ (s.mailbox s.arg.a).busy = true) : hostCommand op pf act s = .next s := by
  have : (!s.ready || decide (64 < s.arg.a) || (s.mailbox s.arg.a).busy) = true := by
    rcases h with h | h | h <;> simp [h]
  simp [hostCommand, this]

end Sys2Proof.Machine
end

