-- ==== Sys2Proof/Tests/Slice0.lean ====
section
/-! SUPPORT. Tests: words from the manual's encodings, terms that no word can hold, small steps, and states that meet the hypotheses of the obligations. -/

namespace Sys2Proof.Tests

set_option Elab.async false

open Sys2Proof Sys2Proof.Machine Sys2Proof.Claims

/-! ## Decoding (expected values laid out by hand from R92 to R101, or taken from the manual's worked encodings) -/

/-- Every word of a list decodes to its instruction, whatever parcels follow. -/
def reads (l : List (List Word × Instr)) : Bool :=
  l.all fun x => match decode (x.1 ++ [0xFFFFFFFF, 0]) with | .ok i n => i == x.2 && n == x.1.length | .refused _ => false

/-- The fields of a V-format or L-format word in the order of R93. -/
def fields (d a b c fmt md fn : Nat) (lit : Option Word) : VFields :=
  { vd := BitVec.ofNat 9 d, va := BitVec.ofNat 9 a, vb := BitVec.ofNat 9 b, vc := BitVec.ofNat 9 c
    fmt := BitVec.ofNat 4 fmt, md := BitVec.ofNat 4 md, fn := BitVec.ofNat 8 fn, lit }

/-- The manual's worked encodings: R116, R141, R145, R149, R150, R154, R155, R272 to R274. -/
theorem test_worked_scalar_words : reads [
    ([0x15400007], .trap 7), ([0x16000000], .rft), ([0x16800C00], .kill 12), ([0x16601415], .segset 4 20 21),
    ([0x0E0A8000], .mpop 21), ([0x0E4C0000], .mfirst 24), ([0x0E800000], .melect), ([0x10050006], .bccZ 10 6),
    ([0x123FFFF6], .bra (-10)), ([0x133F8020], .call 127 32), ([0x13407F00], .ret 127), ([0x14400009], .fwait 9),
    ([0x14000000], .yield), ([0x13C00000], .exit), ([0x150F1100], .rep 15 1 1 0), ([0], .nop)] = true := by decide +kernel

/-- The manual's worked encodings: R102, R141, R197, R199, R201, R208, R213, R259, R265, R268, R270, R275. -/
theorem test_worked_vector_words : reads [
    ([0x41210000, 0x80008000], .vmul (fields 32 0 64 0 8 0 0 none)),
    ([0x8F004800, 0x00000002, 0x00012345], .sliHi (fields 9 0 0 0 0 0 2 (some 0x12345))),
    ([0x51200000, 0x00000000], .sdrain (fields 0 0 0 0 0 0 0 none)),
    ([0x91001013, 0x80030148, 0x00004000], .cpy (fields 2 4 448 3 0 1 0x48 (some 0x4000))),
    ([0x51400000, 0x06000400], .fence (fields 0 0 3 0 0 4 0 none)),
    ([0x5180480C, 0x20046000], .atom (fields 9 3 16 4 6 0 0 none)),
    ([0x5810301C, 0x00000000], .mwait (fields 6 7 0 0 0 0 0 none)),
    ([0x58804800, 0x00040001], .hold (fields 9 0 0 4 0 0 1 none)),
    ([0x520C080C, 0x20048000], .gather (fields 385 3 16 4 8 0 0 none)),
    ([0x52A0301C, 0x00080000], .heapoffer (fields 6 7 0 8 0 0 0 none)),
    ([0x5280001C, 0x00006000], .rcnt (fields 0 7 0 0 6 0 0 none)),
    ([0x52900010, 0x0A000004], .rsnap (fields 0 4 5 0 0 0 4 none)),
    ([0x68005010, 0x0A000000], .launch (fields 10 4 5 0 0 0 0 none)),
    ([0x68C0F010, 0x0A000000], .hstep (fields 30 4 5 0 0 0 0 none)),
    ([0x68A0F010, 0x0A000000], .hinsp (fields 30 4 5 0 0 0 0 none)),
    ([0x6900A000, 0x00000000], .rrpop (fields 20 0 0 0 0 0 0 none)),
    ([0x6880A054, 0x2C000000], .wset (fields 20 21 22 0 0 0 0 none)),
    ([0x69100050, 0x2A160000], .rput (fields 0 20 21 22 0 0 0 none)),
    ([0x69200050, 0x00000001], .rdoneReplay (fields 0 20 0 0 0 0 1 none))] = true := by decide +kernel

/-- R92 to R97, R99, R101: words laid out from the encodings. -/
theorem test_decode_scalar_arithmetic : reads [
    ([0x00000000], .nop),
    ([0x00818A11], .saddReg 3 10 17),
    ([0x00C18A11], .saddImm 3 10 17),
    ([0x01018A11], .ssubReg 3 10 17),
    ([0x01418A11], .ssubImm 3 10 17),
    ([0x01818A11], .smulReg 3 10 17),
    ([0x01C18A11], .smulImm 3 10 17),
    ([0x02018A11], .smulhReg 3 10 17),
    ([0x02418A11], .smulhImm 3 10 17),
    ([0x02818A11], .sdivReg 3 10 17),
    ([0x02C18A11], .sdivImm 3 10 17),
    ([0x03018A11], .sremReg 3 10 17),
    ([0x03418A11], .sremImm 3 10 17),
    ([0x03818A11], .sandReg 3 10 17),
    ([0x03C18A11], .sandImm 3 10 17),
    ([0x04018A11], .sorReg 3 10 17),
    ([0x04418A11], .sorImm 3 10 17),
    ([0x04818A11], .sxorReg 3 10 17),
    ([0x04C18A11], .sxorImm 3 10 17),
    ([0x05018A11], .sandnReg 3 10 17),
    ([0x05418A11], .sandnImm 3 10 17),
    ([0x05818A11], .sshlReg 3 10 17),
    ([0x05C18A11], .sshlImm 3 10 17),
    ([0x06018A11], .sshrReg 3 10 17),
    ([0x06418A11], .sshrImm 3 10 17),
    ([0x06818A11], .ssarReg 3 10 17),
    ([0x06C18A11], .ssarImm 3 10 17),
    ([0x07018A11], .srolReg 3 10 17),
    ([0x07418A11], .srolImm 3 10 17),
    ([0x07818A11], .sminReg 3 10 17),
    ([0x07C18A11], .sminImm 3 10 17),
    ([0x08018A11], .smaxReg 3 10 17),
    ([0x08418A11], .smaxImm 3 10 17),
    ([0x08818A11], .scmpReg 3 10 17),
    ([0x08C18A11], .scmpImm 3 10 17),
    ([0x09018A11], .scmpUReg 3 10 17),
    ([0x09418A11], .scmpUImm 3 10 17),
    ([0x09818A11], .sselReg 3 10 17),
    ([0x09C18A11], .sselImm 3 10 17),
    ([0x0A018A11], .slea1 3 10 17)] = true := by decide +kernel

/-- R92 to R97, R99, R101: words laid out from the encodings. -/
theorem test_decode_scalar_control : reads [
    ([0x0A418A11], .slea2 3 10 17),
    ([0x0A818A11], .slea4 3 10 17),
    ([0x0AC18A11], .slea8 3 10 17),
    ([0x0B018A11], .slea16 3 10 17),
    ([0x0B418A00], .sclz 3 10),
    ([0x0B818A00], .sctz 3 10),
    ([0x0BC18A00], .spop 3 10),
    ([0x0C018A11], .sbfx 3 10 17),
    ([0x0C418A11], .sbfi 3 10 17),
    ([0x0C818A00], .smov 3 10),
    ([0x0CC1800A], .sli 3 10),
    ([0x0D01800A], .swid 3 10),
    ([0x0D41800A], .sget 3 10),
    ([0x0D80030A], .sset 3 10),
    ([0x0E018000], .mpop 3),
    ([0x0E418000], .mfirst 3),
    ([0x0E800000], .melect),
    ([0x1001800A], .bccZ 3 10),
    ([0x1041800A], .bccNz 3 10),
    ([0x1081800A], .bccLt 3 10),
    ([0x10C1800A], .bccGe 3 10),
    ([0x1101800A], .bccGt 3 10),
    ([0x1141800A], .bccLe 3 10),
    ([0x12000003], .bra 3),
    ([0x12400003], .bmz 3),
    ([0x12800003], .bmnz 3),
    ([0x12C00003], .bmall 3),
    ([0x1301800A], .call 3 10),
    ([0x13400300], .ret 3),
    ([0x13800300], .jmpi 3),
    ([0x13C00000], .exit),
    ([0x14000000], .yield),
    ([0x14400003], .fwait 3),
    ([0x14800003], .fset 3),
    ([0x14C00003], .fclr 3),
    ([0x15037770], .rep 3 7 7 7),
    ([0x15400003], .trap 3),
    ([0x16000000], .rft),
    ([0x16580A11], .segset 3 10 17),
    ([0x16800300], .kill 3)] = true := by decide +kernel

/-- R92 to R97, R99, R101: words laid out from the encodings. -/
theorem test_decode_vector_arithmetic : reads [
    ([0x40004030, 0x00000000], .vmov (fields 8 12 0 0 0 0 0 none)),
    ([0x40104030, 0x00000000], .vbcast (fields 8 12 0 0 0 0 0 none)),
    ([0x40204030, 0x20000000], .vlane (fields 8 12 16 0 0 0 0 none)),
    ([0x40304030, 0x20000000], .vsetl (fields 8 12 16 0 0 0 0 none)),
    ([0x40404030, 0x00000000], .viota (fields 8 12 0 0 0 0 0 none)),
    ([0x40504000, 0x00000000], .vwid (fields 8 0 0 0 0 0 0 none)),
    ([0x41004030, 0x20000000], .vadd (fields 8 12 16 0 0 0 0 none)),
    ([0x41104030, 0x20000000], .vsub (fields 8 12 16 0 0 0 0 none)),
    ([0x41204030, 0x20000000], .vmul (fields 8 12 16 0 0 0 0 none)),
    ([0x41304030, 0x20140000], .vfma (fields 8 12 16 20 0 0 0 none)),
    ([0x41404030, 0x20140000], .vfms (fields 8 12 16 20 0 0 0 none)),
    ([0x41504030, 0x20140000], .vfnma (fields 8 12 16 20 0 0 0 none)),
    ([0x41604030, 0x20000000], .vmin (fields 8 12 16 0 0 0 0 none)),
    ([0x41704030, 0x20000000], .vmax (fields 8 12 16 0 0 0 0 none)),
    ([0x41804030, 0x00000000], .vabs (fields 8 12 0 0 0 0 0 none)),
    ([0x41904030, 0x00000000], .vneg (fields 8 12 0 0 0 0 0 none)),
    ([0x41A04030, 0x20140000], .vclamp (fields 8 12 16 20 0 0 0 none)),
    ([0x42004030, 0x20000000], .viadd (fields 8 12 16 0 0 0 0 none)),
    ([0x42104030, 0x20000000], .visub (fields 8 12 16 0 0 0 0 none)),
    ([0x42204030, 0x20000000], .vimul (fields 8 12 16 0 0 0 0 none)),
    ([0x42304030, 0x20000000], .vimulh (fields 8 12 16 0 0 0 0 none)),
    ([0x42404030, 0x20140000], .vimad (fields 8 12 16 20 0 0 0 none)),
    ([0x42504030, 0x20000000], .vshl (fields 8 12 16 0 0 0 0 none)),
    ([0x42604030, 0x20000000], .vshr (fields 8 12 16 0 0 0 0 none)),
    ([0x42704030, 0x20000000], .vsar (fields 8 12 16 0 0 0 0 none)),
    ([0x42804030, 0x20000000], .vand (fields 8 12 16 0 0 0 0 none)),
    ([0x42904030, 0x20000000], .vor (fields 8 12 16 0 0 0 0 none)),
    ([0x42A04030, 0x20000000], .vxor (fields 8 12 16 0 0 0 0 none)),
    ([0x42B04030, 0x00000000], .vnot (fields 8 12 0 0 0 0 0 none)),
    ([0x42C04030, 0x00000000], .vclz (fields 8 12 0 0 0 0 0 none)),
    ([0x42D04030, 0x00000000], .vpop (fields 8 12 0 0 0 0 0 none)),
    ([0x42E04030, 0x20140000], .vbfx (fields 8 12 16 20 0 0 0 none)),
    ([0x42F04030, 0x20140000], .vbfi (fields 8 12 16 20 0 0 0 none))] = true := by decide +kernel

/-- R92 to R97, R99, R101: words laid out from the encodings. -/
theorem test_decode_vector_moves_and_reductions : reads [
    ([0x43004030, 0x20000000], .vpermbLit (fields 8 12 16 0 0 0 0 none)),
    ([0x43004030, 0x20140001], .vpermbReg (fields 8 12 16 20 0 0 1 none)),
    ([0x43104030, 0x20000000], .vshuf (fields 8 12 16 0 0 0 0 none)),
    ([0x43204030, 0x00000000], .vrotImm (fields 8 12 0 0 0 0 0 none)),
    ([0x43204030, 0x20000001], .vrotReg (fields 8 12 16 0 0 0 1 none)),
    ([0x43804030, 0x20140000], .vsel (fields 8 12 16 20 0 0 0 none)),
    ([0x43904030, 0x20000000], .vcmp (fields 8 12 16 0 0 0 0 none)),
    ([0x43A04030, 0x00000000], .visabs (fields 8 12 0 0 0 0 0 none)),
    ([0x43B04030, 0x20000000], .vcoalesce (fields 8 12 16 0 0 0 0 none)),
    ([0x43C04030, 0x20000000], .vnullif (fields 8 12 16 0 0 0 0 none)),
    ([0x43D04030, 0x20000000], .vmkabs (fields 8 12 16 0 0 0 0 none)),
    ([0x43E04030, 0x20000000], .vtand (fields 8 12 16 0 0 0 0 none)),
    ([0x43F04030, 0x20000000], .vtor (fields 8 12 16 0 0 0 0 none)),
    ([0x44004030, 0x00000000], .vtnot (fields 8 12 0 0 0 0 0 none)),
    ([0x44804030, 0x00000000], .vcvt (fields 8 12 0 0 0 0 0 none)),
    ([0x44904030, 0x20140000], .vquant (fields 8 12 16 20 0 0 0 none)),
    ([0x44A04030, 0x20000000], .vdeq (fields 8 12 16 0 0 0 0 none)),
    ([0x44B04030, 0x00000000], .vamax (fields 8 12 0 0 0 0 0 none)),
    ([0x45004030, 0x00140000], .vradd (fields 8 12 0 20 0 0 0 none)),
    ([0x45104030, 0x00140000], .vrmin (fields 8 12 0 20 0 0 0 none)),
    ([0x45204030, 0x00140000], .vrmax (fields 8 12 0 20 0 0 0 none)),
    ([0x45304030, 0x00000000], .vrcount (fields 8 12 0 0 0 0 0 none)),
    ([0x45404030, 0x00140000], .vscan (fields 8 12 0 20 0 0 0 none)),
    ([0x45804000, 0x00000000], .vrand (fields 8 0 0 0 0 0 0 none)),
    ([0x45904000, 0x00000000], .vrandf (fields 8 0 0 0 0 0 0 none)),
    ([0x46004030, 0x0000E000], .mkmask (fields 8 12 0 0 14 0 0 none)),
    ([0x8F004000, 0x00000000, 0x00000005], .sliLong (fields 8 0 0 0 0 0 0 (some 5))),
    ([0x8F004000, 0x00000001, 0x00000005], .sliZ (fields 8 0 0 0 0 0 1 (some 5))),
    ([0x8F004000, 0x00000002, 0x00000005], .sliHi (fields 8 0 0 0 0 0 2 (some 5)))] = true := by decide +kernel

/-- R92 to R97, R99, R101: words laid out from the encodings. -/
theorem test_decode_memory : reads [
    ([0x50004030, 0x20140000], .vld (fields 8 12 16 20 0 0 0 none)),
    ([0x50104030, 0x20140000], .vst (fields 8 12 16 20 0 0 0 none)),
    ([0x50404030, 0x20140000], .sld (fields 8 12 16 20 0 0 0 none)),
    ([0x50504030, 0x20140000], .sst (fields 8 12 16 20 0 0 0 none)),
    ([0x50604030, 0x20140000], .vlds (fields 8 12 16 20 0 0 0 none)),
    ([0x50704030, 0x20140000], .vsts (fields 8 12 16 20 0 0 0 none)),
    ([0x50800030, 0x20140000], .pld (fields 0 12 16 20 0 0 0 none)),
    ([0x50900030, 0x20140000], .pst (fields 0 12 16 20 0 0 0 none)),
    ([0x91104030, 0x20000000, 0x00000005], .cpyw (fields 8 12 16 0 0 0 0 (some 5))),
    ([0x51200000, 0x00000000], .sdrain (fields 0 0 0 0 0 0 0 none)),
    ([0x51304030, 0x20140000], .probe (fields 8 12 16 20 0 0 0 none)),
    ([0x51804030, 0x20140000], .atom (fields 8 12 16 20 0 0 0 none)),
    ([0x51904030, 0x20140000], .atoms (fields 8 12 16 20 0 0 0 none)),
    ([0x51A04030, 0x20140000], .red (fields 8 12 16 20 0 0 0 none)),
    ([0x51B04030, 0x20140000], .amaxswap (fields 8 12 16 20 0 0 0 none)),
    ([0x52004030, 0x20140000], .gather (fields 8 12 16 20 0 0 0 none)),
    ([0x52104030, 0x20140000], .scatter (fields 8 12 16 20 0 0 0 none)),
    ([0x52204030, 0x20140000], .glcfg (fields 8 12 16 20 0 0 0 none)),
    ([0x52400030, 0x00000000], .bale (fields 0 12 0 0 0 0 0 none)),
    ([0x52500030, 0x00000000], .unbale (fields 0 12 0 0 0 0 0 none)),
    ([0x52600030, 0x00000000], .coll (fields 0 12 0 0 0 0 0 none)),
    ([0x52800030, 0x00000000], .rcnt (fields 0 12 0 0 0 0 0 none)),
    ([0x52900030, 0x20000000], .rsnap (fields 0 12 16 0 0 0 0 none)),
    ([0x52A04030, 0x00140000], .heapoffer (fields 8 12 0 20 0 0 0 none)),
    ([0x52B04000, 0x00140000], .heapseal (fields 8 0 0 20 0 0 0 none)),
    ([0x52C04030, 0x00140000], .heapread (fields 8 12 0 20 0 0 0 none))] = true := by decide +kernel

/-- R92 to R97, R99, R101: words laid out from the encodings. -/
theorem test_decode_synchronisation : reads [
    ([0x58000000, 0x00140000], .marm (fields 0 0 0 20 0 0 0 none)),
    ([0x58104030, 0x00000000], .mwait (fields 8 12 0 0 0 0 0 none)),
    ([0x58400000, 0x00140000], .barv (fields 0 0 0 20 0 0 0 none)),
    ([0x58500000, 0x00140000], .barw (fields 0 0 0 20 0 0 0 none)),
    ([0x58600000, 0x00140000], .gbarv (fields 0 0 0 20 0 0 0 none)),
    ([0x58700000, 0x00140000], .gbarw (fields 0 0 0 20 0 0 0 none)),
    ([0x58804000, 0x00140000], .hold (fields 8 0 0 20 0 0 0 none)),
    ([0x58900000, 0x00140000], .hrel (fields 0 0 0 20 0 0 0 none)),
    ([0x58A00000, 0x00140000], .heir (fields 0 0 0 20 0 0 0 none)),
    ([0x58B00000, 0x00140000], .hclrb (fields 0 0 0 20 0 0 0 none)),
    ([0x58B00000, 0x00140003], .hclrbPool (fields 0 0 0 20 0 0 3 none)),
    ([0x58C00000, 0x00140000], .pmake (fields 0 0 0 20 0 0 0 none)),
    ([0x58D00030, 0x00140000], .pfulfil (fields 0 12 0 20 0 0 0 none)),
    ([0x58E04000, 0x00140000], .pwait (fields 8 0 0 20 0 0 0 none)),
    ([0x58F04030, 0x00140000], .permget (fields 8 12 0 20 0 0 0 none)),
    ([0x59000030, 0x00140000], .permput (fields 0 12 0 20 0 0 0 none)),
    ([0x59104030, 0x00000000], .estate (fields 8 12 0 0 0 0 0 none)),
    ([0x59204000, 0x00140000], .convey (fields 8 0 0 20 0 0 0 none))] = true := by decide +kernel

/-- R92 to R97, R99, R101: words laid out from the encodings. -/
theorem test_decode_matrix : reads [
    ([0x5C000030, 0x20140000], .mldt (fields 0 12 16 20 0 0 0 none)),
    ([0x5C100000, 0x00000000], .mfence (fields 0 0 0 0 0 0 0 none)),
    ([0x5C204030, 0x00000000], .mma (fields 8 12 0 0 0 0 0 none)),
    ([0x5C304030, 0x00000000], .mmat (fields 8 12 0 0 0 0 0 none)),
    ([0x5C404030, 0x20000000], .mmasp (fields 8 12 16 0 0 0 0 none)),
    ([0x5C504030, 0x00000000], .mhad (fields 8 12 0 0 0 0 0 none)),
    ([0x5C604000, 0x00000000], .mzero (fields 8 0 0 0 0 0 0 none)),
    ([0x5C704000, 0x00000000], .mnew (fields 8 0 0 0 0 0 0 none)),
    ([0x5C804030, 0x00000000], .mdrain (fields 8 12 0 0 0 0 0 none)),
    ([0x5C904000, 0x00000000], .mwaita (fields 8 0 0 0 0 0 0 none)),
    ([0x5CA04030, 0x00000000], .mcnt (fields 8 12 0 0 0 0 0 none))] = true := by decide +kernel

/-- R92 to R97, R99, R101: words laid out from the encodings. -/
theorem test_decode_special_and_long_branches : reads [
    ([0x60004030, 0x00000000], .vrcp (fields 8 12 0 0 0 0 0 none)),
    ([0x60104030, 0x00000000], .vrsq (fields 8 12 0 0 0 0 0 none)),
    ([0x60204030, 0x00000000], .vsqrt (fields 8 12 0 0 0 0 0 none)),
    ([0x60304030, 0x00000000], .vexp2 (fields 8 12 0 0 0 0 0 none)),
    ([0x60404030, 0x00000000], .vlog2 (fields 8 12 0 0 0 0 0 none)),
    ([0x60504030, 0x00000000], .vsin (fields 8 12 0 0 0 0 0 none)),
    ([0x60604030, 0x00000000], .vcos (fields 8 12 0 0 0 0 0 none)),
    ([0x60704030, 0x00000000], .vtanh (fields 8 12 0 0 0 0 0 none)),
    ([0x60804030, 0x00000000], .vlogi (fields 8 12 0 0 0 0 0 none)),
    ([0xA4000000, 0x00000000, 0x00000005], .braLong (fields 0 0 0 0 0 0 0 (some 5))),
    ([0xA4104000, 0x00000000, 0x00000005], .bccLong (fields 8 0 0 0 0 0 0 (some 5))),
    ([0xA4204000, 0x00000000, 0x00000005], .callLong (fields 8 0 0 0 0 0 0 (some 5))),
    ([0xA4300000, 0x00000000, 0x00000005], .bmzLong (fields 0 0 0 0 0 0 0 (some 5))),
    ([0xA4400000, 0x00000000, 0x00000005], .bmnzLong (fields 0 0 0 0 0 0 0 (some 5))),
    ([0xA4500000, 0x00000000, 0x00000005], .bmallLong (fields 0 0 0 0 0 0 0 (some 5)))] = true := by decide +kernel

/-- R92 to R97, R99, R101: words laid out from the encodings. -/
theorem test_decode_system : reads [
    ([0x68004030, 0x20000000], .launch (fields 8 12 16 0 0 0 0 none)),
    ([0x68104030, 0x20140000], .launchd (fields 8 12 16 20 0 0 0 none)),
    ([0x68804030, 0x20000000], .wset (fields 8 12 16 0 0 0 0 none)),
    ([0x68904030, 0x00000000], .wget (fields 8 12 0 0 0 0 0 none)),
    ([0x68A04030, 0x20000000], .hinsp (fields 8 12 16 0 0 0 0 none)),
    ([0x68B04030, 0x20140000], .hpoke (fields 8 12 16 20 0 0 0 none)),
    ([0x68C04030, 0x20000000], .hstep (fields 8 12 16 0 0 0 0 none)),
    ([0x68D04030, 0x00000000], .hresume (fields 8 12 0 0 0 0 0 none)),
    ([0x68E04030, 0x00000000], .hkill (fields 8 12 0 0 0 0 0 none)),
    ([0x68F04030, 0x20000000], .lrelease (fields 8 12 16 0 0 0 0 none)),
    ([0x69004000, 0x00000000], .rrpop (fields 8 0 0 0 0 0 0 none)),
    ([0x69100030, 0x20140000], .rput (fields 0 12 16 20 0 0 0 none)),
    ([0x69200030, 0x00000000], .rdoneDone (fields 0 12 0 0 0 0 0 none)),
    ([0x69200030, 0x00000001], .rdoneReplay (fields 0 12 0 0 0 0 1 none)),
    ([0x69200030, 0x00000002], .rdoneAbandon (fields 0 12 0 0 0 0 2 none)),
    ([0x69304000, 0x00000000], .sfpop (fields 8 0 0 0 0 0 0 none))] = true := by decide +kernel

/-! ## Well-formedness (R9, R93, R96, R103 order 1) -/

/-- A well-formed term of each format. -/
theorem test_wellformed : (Instr.saddReg 1 2 3).wellFormed = true ∧
    (Instr.vadd (fields 8 12 16 0 8 0 0 none)).wellFormed = true ∧
    (Instr.sliHi (fields 9 0 0 0 0 0 2 (some 5))).wellFormed = true := by decide +kernel

/-- An event is no instruction of a word; an opcode marked L has no V-format, and one marked V no L-format; an unused
field, a reserved rounding code, a reserved predicate, ORD 4, SCOPE without ORD, SCALE without an index and BURST outside a
load are refused; and so is a constructor whose form is another's. -/
theorem test_ill_formed : [Instr.clauseStart, .teamWake,
    .sliLong (fields 9 0 0 0 0 0 0 none), .fence (fields 0 0 3 0 0 4 0 (some 0)),
    .vadd (fields 8 12 16 1 8 0 0 none), .vadd (fields 8 12 16 0 8 6 0 none), .vcmp (fields 8 12 16 0 8 0 6 none),
    .sliLong (fields 9 0 0 0 0 0 3 (some 0)), .sliZ (fields 9 0 0 0 0 0 2 (some 0)),
    .vpermbReg (fields 8 12 16 20 0 0 0 none), .rdoneAbandon (fields 0 20 0 0 0 0 1 none),
    .mkmask (fields 8 12 0 0 14 0 4 none), .nop].map Instr.wellFormed =
    List.replicate 12 false ++ [true] := by decide +kernel

/-! ## A small world: one context, its supervisor, and a team of it, on core 0 with one page mapped onto itself -/

/-- The team under test. -/
def h1 : Handle := mkHandle 0 0 0 1
/-- Another team. -/
def h2 : Handle := mkHandle 0 0 1 1
/-- The supervisor. -/
def hSup : Handle := mkHandle 0 0 31 1

/-- A clause at its first instruction: a mixed header of sixteen one-parcel instructions, FLAGA 1 and FLAGB 2 (R88). -/
def clause1 (body : List Word) : Clause :=
  { addr := 0x1000, hdr := dw (3 * 2 ^ 62 + 6 * 2 ^ 58 + 15 * 2 ^ 54 + 16 * 2 ^ 49 + 1 * 2 ^ 33 + 2 * 2 ^ 29), body }

/-- Segments: G over everything, P over the scratchpad, E and T small, Q (R115). -/
def segs1 : Sparse Segment :=
  [(0, { base := 0, limit := dw (2 ^ 56) }), (1, { base := 0, limit := 16384 }), (2, { base := 0x3000, limit := 64 }),
   (3, { base := 0x4000, limit := 96 }), (4, { base := 0x5000, limit := 4096 })]

/-- An ACTIVE team of 32 lanes in its clause, every lane enabled. -/
def team1 : Team :=
  { tid := h1, ctx := 0, lid := 2, plot := 1, index := 0, width := 32, regs := 64, run := .active, pc := 0x1000
    clause := some (clause1 (List.replicate 16 0)), segs := segs1
    s := [(0, 0xFFFFFFFF), (4, 0x2000), (5, 7), (6, -3), (7, 64), (8, 0x80), (9, 0x6000)] }

/-- A second team of the plot, PENDING. -/
def team2 : Team := { team1 with tid := h2, index := 1, run := .pending }

/-- The supervisor, ACTIVE in its clause. -/
def sup1 : Team := { team1 with tid := hSup, lid := 1, plot := 0 }

/-- A launch header: LOGW 5, CREW 2, one plot field (R264). -/
def header1 : List Dword :=
  [dw (2 * 2 ^ 56 + 2 * 2 ^ 53 + 2 * 2 ^ 40 + 5 * 2 ^ 32 + 2 * 2 ^ 26 + 2 * 2 ^ 22), dw (1 + 2 * 2 ^ 6 + 3 * 2 ^ 12), dw (2 + 3 * 2 ^ 32), dw (1 + 2 ^ 32),
   dw (64 * 2 ^ 32 + 2 ^ 24 + 2 * 2 ^ 16 + 3), 0, 0, 0x1000, 0x3000, dw (64 * 2 ^ 32 + 64), 0, 0, 0, 0, 0, 0]

def launch1 : Launch := { ctx := 0, lid := 2, header := header1, queue := 0, seq := 1, phase := .running, placed := 1, living := 2 }
def launchS : Launch := { ctx := 0, lid := 1, header := header1, queue := 0, seq := 0, phase := .running, placed := 1, living := 1 }
def plot1 : Plot :=
  { id := 1, ctx := 0, lid := 2, core := 0, index := 0, coords := [1, 2, 0, 0], teams := 2, scratchGranules := 1, granules := 4 }
def crew1 : Crew := { id := 3, plot := 1, first := 0, size := 2, tileCount := 2 }

/-- A context with everything at the places that R384, R400 and R402 give it. -/
def ctx1 : Context :=
  { id := 0, apBase := 0, saveSize := 0x1000000, live := true, root := 0x8000000, saveAddr := 0x7000000, qBase := 0x10000000
    qLimit := 0x1900000, ring := 0x9000000, supervisor := hSup, nextLid := 3 }

/-- A leaf over the first 2 GiB onto itself, RD, W and X (R292). -/
def leaf1 : TlbEntry := { ctx := 0, va := 0, size := 2 ^ 31, pa := 0, flags := 0x1F }

/-- The world with some teams, one of which issues. -/
def world (cur : Handle) (ts : List Team) : State :=
  { State.reset with
    cur, teams := ts, ctxs := [ctx1], launches := [launchS, launch1], plots := [plot1], crews := [crew1]
    cores := [(0, { tlb := [leaf1], first := [(0, [leaf1])] })], bringup := .ready, accepted := some Config.offered, nextId := 10, coresets := [(0, 3)] }

/-- The team issues. -/
def w1 : State := world h1 [team1, team2, sup1]
/-- The supervisor issues. -/
def wS : State := world hSup [team1, team2, sup1]
/-- The team issues with some of its fields changed. -/
def wT (t : Team) : State := world h1 [t, team2, sup1]

theorem w1_poised : w1.poised team1 = true := by decide +kernel
theorem wS_poised : wS.poised sup1 = true := by decide +kernel

/-- In any world with this page on core 0 each byte below 2 GiB stands at its own address. -/
theorem stands1 {s : State} {o : Origin} (hx : o.ctx = 0) (ht : s.firstTlb o.port = [leaf1])
    (hm : s.moduleNumber = 0) (hp : s.poison = []) {va : Nat} (hv : va < 2 ^ 31) (acc : Acc) :
    byteStands s o va acc va := by
  have hv' : va < 2147483648 := by omega
  have h0 : paModule va = 0 := by simp only [paModule]; omega
  have h1 : paLocal va = va := by simp only [paLocal]; omega
  have h2 : localHbm va = true := by
    simp only [localHbm, Bool.and_eq_true, decide_eq_true_eq]; omega
  have h3 : localHost va = false := by
    simp only [localHost, Bool.and_eq_false_iff, decide_eq_false_iff_not]; omega
  have hi : s.inDomain 0 = true := by simp [State.inDomain, hm]
  have hr : s.reachable va = true := by simp [State.reachable, h0, hm]
  refine ⟨⟨leaf1, false, ?_, ?_⟩, fun _ => by simp [State.poisoned, hp]⟩
  · simp [tlbFind, hx, ht, leaf1, hv']
  · have hpa : leaf1.pa + (va - leaf1.va) = va := by simp [leaf1]
    have f2 : leaf1.flags.getLsbD 2 = true := rfl
    have f3 : leaf1.flags.getLsbD 3 = true := rfl
    cases acc <;> simp [leafCheck, hpa, h0, h1, h2, h3, hi, hr, f2, f3] <;> rfl

/-- Every byte of a page mapped onto itself keeps its order. -/
theorem sectorwise_self : sectorwise fun va => va := fun a b _ => Nat.add_comm a b

/-! ## Hypotheses that are met: scalar instructions, registers and control -/

/-- ScalarInstructionWritesItsResult: each of its rules, at a register that is source and destination too. -/
theorem witness_scalar : w1.poised team1 = true ∧ arithRule team1 (.saddReg 5 5 6) = some (5, 4) ∧
    arithRule team1 (.smulhImm 127 6 (-128)) = some (127, 0) ∧ shiftRule team1 (.sshlReg 10 5 7) = some (10, 7) ∧
    shiftRule team1 (.ssarImm 10 6 63) = some (10, -1) ∧ selectRule team1 (.scmpUReg 10 5 6) = some (10, -1) ∧
    selectRule team1 (.sselImm 3 5 (-1)) = some (3, -1) ∧ moveRule team1 .nop = none ∧
    moveRule team1 (.mfirst 10) = some (10, 0) := by decide +kernel

/-- RegisterReadsAndLoadsWriteTheirValue: SLI at VD 127 and 128; SWID at 0, 1, 5 and 6; SGET at 8, 9 and 10. -/
theorem witness_register_reads : w1.poised team1 = true ∧
    longLoadRule (team1.getS 127) (fields 127 0 0 0 0 0 2 (some 5)) (.sliHi (fields 127 0 0 0 0 0 2 (some 5))) = some (5 * 2 ^ 32) ∧
    longLoadRule (team1.getS 128) (fields 128 0 0 0 0 0 1 (some 5)) (.sliZ (fields 128 0 0 0 0 0 1 (some 5))) = some 5 ∧
    (fields 127 0 0 0 0 0 2 (some 5)).vd.toNat < 128 ∧ 128 ≤ (fields 128 0 0 0 0 0 1 (some 5)).vd.toNat ∧
    (1 ≤ (5 : BitVec 8).toNat ∧ (5 : BitVec 8).toNat ≤ 5) ∧ ((0 : BitVec 8).toNat = 0 ∨ 5 < (0 : BitVec 8).toNat) ∧
    sgetRule w1 team1 4 = some (h1.setWidth 64) ∧ (sgetRule w1 team1 9).isSome = true ∧
    ((8 : BitVec 8).toNat = 8 ∧ (112 : BitVec 7).toNat % 16 = 0 ∧ (112 : BitVec 7).toNat ≤ 112) ∧
    ((8 : BitVec 8).toNat = 8 ∧ ¬((120 : BitVec 7).toNat % 16 = 0 ∧ (120 : BitVec 7).toNat ≤ 112)) ∧
    9 < (10 : BitVec 8).toNat := by decide +kernel

/-- SystemAndSegmentRegistersAreWritten, SSET: DBG refused and permitted, a mode written and refused, TSTAT refused. -/
theorem witness_sset : w1.poised team1 = true ∧ wS.poised sup1 = true ∧
    ((9 : BitVec 8).toNat = 9 ∧ w1.isDbg team1 = false) ∧ ¬((9 : BitVec 8).toNat = 9 ∧ wS.isDbg sup1 = false) ∧
    (ssetRule sup1 (sup1.getS 5) 9).isSome = true ∧ ssetRule team1 (team1.getS 5) 1 = none ∧
    (ssetRule team1 5 1).isSome = true ∧ ssetRule team1 (team1.getS 5) 3 = none := by decide +kernel

/-- SystemAndSegmentRegistersAreWritten, SEGSET: accepted at the limit of 2^56, refused above it, privileged. -/
theorem witness_segset : wS.isSup sup1 = true ∧ segmentAccepted wS sup1 0 (sup1.getS 4) (dw (2 ^ 56) - sup1.getS 4) ∧
    ¬ segmentAccepted wS sup1 0 (sup1.getS 4) (dw (2 ^ 56)) ∧ w1.isSup team1 = false := by
  refine ⟨by decide +kernel, ⟨by decide +kernel, trivial, fun _ => by decide +kernel⟩, fun h => ?_, by decide +kernel⟩
  exact absurd (h.2.2 (by decide)) (by decide +kernel)

/-- BranchesCallsAndJumpsGoToTheirTarget. -/
theorem witness_branches : w1.poised team1 = true ∧ branchRule team1 (.bccLe 6 5) = some (5, true) ∧
    branchRule team1 (.bmall (-1)) = some (-1, true) ∧ branchRule team1 (.bmzLong (fields 0 0 0 0 0 0 0 (some 9))) = some (9, false) ∧
    branchRule team1 (.bccLong (fields 127 0 0 0 0 0 0 (some 9))) = some (9, true) ∧
    128 ≤ (fields 128 0 0 0 0 0 0 (some 9)).vd.toNat ∧ (team1.getS 4).toNat % 4 = 0 ∧ (team1.getS 5).toNat % 4 ≠ 0 := by
  decide +kernel

/-- A team with a flag set by software. -/
def flagged : Team := { team1 with flags := [(3, { count := 0, soft := true })] }

/-- FlagsYieldAndRepeatAct: FWAIT on clear flags and on a set one. -/
theorem witness_flags : (wT flagged).poised flagged = true ∧
    (∀ n < 12, (4 : BitVec 12).getLsbD n = true → (flagged.flag n).count = 0 ∧ (flagged.flag n).soft = false) ∧
    ((8 : BitVec 12).getLsbD 3 = true ∧ ((flagged.flag 3).count ≠ 0 ∨ (flagged.flag 3).soft = true)) ∧
    (wT flagged).flagInRing flagged (8 : BitVec 12).toNat = false := by decide +kernel

/-- A clause with REP before a multiplication (R152), and the team at its repeated instruction. -/
def clauseRep : Clause := clause1 ([0x150F1100, 0x41210000, 0x80008000] ++ List.replicate 13 0)
def repeating : Team :=
  { team1 with clause := some { clauseRep with pos := 1, idx := 1, rep := some { n := 15, stepD := 1, stepA := 1, stepB := 0, m := 14 } } }

/-- FlagsYieldAndRepeatAct: REP before an instruction that it may repeat, before one it may not, and in the midst. -/
theorem witness_repeat : (wT { team1 with clause := some clauseRep }).poised { team1 with clause := some clauseRep } = true ∧
    repeatable (clauseRep.body.drop (clauseRep.pos + 1)) = true ∧ repeatable [0x13C00000, 0] = false ∧
    (wT repeating).poised repeating = true ∧
    (repeating.clause.bind Clause.rep).all (fun r => decide (r.m < r.n)) = true := by decide +kernel

/-- A division under way, its result due. -/
def dividing1 : State :=
  { w1 with
    arg := { a := 0, b := 0 }
    cores := [(0, { cyc := 24, tlb := [leaf1], first := [(0, [leaf1])], divides := [(0, some { tid := h1, d := 10, result := 5, readyAt := 24 })] })] }

/-- DivisionTakesTheDivider: a free divider, division by zero, and a result at the cycle it is due. -/
theorem witness_division : w1.poised team1 = true ∧ spRead none (w1.core (coreOf h1)).divides (partOf h1) = none ∧
    divideRule team1 (.sdivReg 10 5 3) = some (10, 0) ∧ divideRule team1 (.sremReg 10 6 3) = some (10, -3) ∧
    divideRule team1 (.sdivImm 10 6 (-1)) = some (10, 3) ∧
    spRead none (dividing1.core 0).divides 0 = some { tid := h1, d := 10, result := 5, readyAt := 24 } ∧
    24 ≤ (dividing1.core 0).cyc ∧ dividing1.team? h1 = some team1 ∧ dividing1.loadsPending h1 = false := by decide +kernel

/-! ## Small steps (expected values from the manual's worked examples) -/

/-- A scalar register of the issuing team after an instruction. -/
def after (o : Host.Outcome State Fault Refusal) (n : Nat) : Option Dword :=
  match o with | .next s => (s.team? s.cur).map fun t => t.getS n | .fault _ => none | .refused _ => none

/-- R138's example: a four-bit field of ones, sign-extended. -/
theorem test_sbfx : after (exec (.sbfx 10 1 2) (wT { team1 with s := [(0, 1), (1, 0x00F00000), (2, 0x8414)] })) 10 =
    some 0xFFFFFFFFFFFFFFFF := by decide +kernel

/-- R139: −3 is below 7, and above it as an unsigned number. -/
theorem test_scmp : after (exec (.scmpReg 10 6 5) w1) 10 = some 0xFFFFFFFFFFFFFFFF ∧
    after (exec (.scmpUReg 10 6 5) w1) 10 = some 1 := by decide +kernel

/-- R137: a zero source. -/
theorem test_counts_of_zero : after (exec (.sclz 10 3) w1) 10 = some 64 ∧ after (exec (.sctz 10 3) w1) 10 = some 64 ∧
    after (exec (.spop 10 0) w1) 10 = some 32 := by decide +kernel

/-- R133: a product of negatives has a zero upper half; a sum wraps. -/
theorem test_arithmetic : after (exec (.smulhReg 10 6 6) w1) 10 = some 0 ∧
    after (exec (.saddReg 10 6 5) w1) 10 = some 4 := by decide +kernel

/-- R134's corner: −2⁶³ by −1. -/
theorem test_division_corner : quotient 0x8000000000000000 (-1) = 0x8000000000000000 ∧ quotient 7 0 = 0 := by decide +kernel

/-- R152's example: issue 15 of the pair writes v47 from v15. -/
theorem test_rep_steps : steppedFields 0x012 (fields 32 0 64 0 8 0 0 none)
    { n := 15, stepD := 1, stepA := 1, stepB := 0, m := 15 } = some (fields 47 15 64 0 8 0 0 none) := by decide +kernel

/-! ## Hypotheses that are met: traps, deliveries, deaths and clauses -/

/-- A delivery waiting for the supervisor. -/
def delivery1 : Delivery := { cause := 0x21, detail := 5, tid := h1, lid := 2, pc := 0x1000, issue := 0, info := 0, mask := 0 }

/-- The supervisor issues, with some fields of its context and of its team changed, and a byte of memory. -/
def wC (c : Context) (t : Team) (mem : List Host.Cell := []) : State :=
  { world hSup [team1, team2, t] with ctxs := [c], mem, arg := { tid := h1 } }

/-- VECTOR holds 0x1000 (its dword stands at the Q base plus 0x1840080). -/
def vectorMem : List Host.Cell := [(0x11840081, 0x10)]

/-- The supervisor's parked and halted forms. -/
def supParked : Team := { sup1 with run := .parked .retry none }
def supHalted : Team := { sup1 with stop := some .halted }

/-- TrapHaltsTheTeamAndMakesADelivery; SupervisorTrapIsReported at an empty report ring. -/
theorem witness_traps : w1.team? team1.tid = some team1 ∧ team1.stepping = none ∧ w1.ctx? team1.ctx = some ctx1 ∧
    ctx1.supervisor ≠ team1.tid ∧ wS.team? sup1.tid = some sup1 ∧ sup1.stepping = none ∧ sup1.monitor = .none_ ∧
    wS.ctx? sup1.ctx = some ctx1 ∧ ctx1.supervisor = sup1.tid ∧ ctx1.repWritten - ctx1.repFreed < 1024 := by decide +kernel

/-- DeliveryEntersTheHandler: the supervisor parked, VECTOR nonzero; and each of the three ways nothing happens. -/
theorem witness_delivery :
    (let s := wC { ctx1 with pending := [delivery1] } supParked vectorMem
     s.ctx? s.arg.a = some { ctx1 with pending := [delivery1] } ∧ s.team? ctx1.supervisor = some supParked ∧
     s.qDword s.arg.a 0x1840080 = 0x1000 ∧ supParked.held = none ∧ s.qFault s.arg.a 0x1840088 248 = none) ∧
    (wC ctx1 sup1).qDword 0 0x1840080 = 0 ∧ (wC { ctx1 with inDelivery := true } sup1).team? hSup = some sup1 ∧
    (wC ctx1 supHalted).team? hSup = some supHalted ∧ supHalted.stop ≠ none := by decide +kernel

/-- A delivery in progress that began while the supervisor was parked. -/
def ctxIn : Context :=
  { ctx1 with inDelivery := true, saved := some { pc := 0x2000, clause := none }, suspended := some (.retry, none) }

/-- ReturnFromDeliveryRestoresThePosition: in a delivery, with none, and in another team. -/
theorem witness_rft : (wC ctxIn sup1).poised sup1 = true ∧ (wC ctxIn sup1).ctx? sup1.ctx = some ctxIn ∧
    ctxIn.supervisor = sup1.tid ∧ (wC ctx1 sup1).poised sup1 = true ∧ ctx1.inDelivery = false ∧
    w1.ctx? team1.ctx = some ctx1 ∧ ctx1.supervisor ≠ team1.tid := by decide +kernel

/-- The supervisor with a handle in s5. -/
def supNaming (h : Handle) : Team := { sup1 with s := [(0, 0xFFFFFFFF), (5, h.setWidth 64)] }
/-- A team of another context. -/
def stranger : Team := { team2 with tid := mkHandle 0 0 2 1, ctx := 1 }

/-- KillAcceptsADeath: another team, its own handle, a living team, one of another context, and no team. -/
theorem witness_kill : w1.isSup team1 = false ∧ (wC ctx1 (supNaming hSup)).poised (supNaming hSup) = true ∧
    (wC ctx1 (supNaming hSup)).isSup (supNaming hSup) = true ∧ ((supNaming hSup).getS 5).setWidth 32 = hSup ∧
    (wC ctx1 (supNaming h1)).team? (((supNaming h1).getS 5).setWidth 32) = some team1 ∧ team1.dying = none ∧
    (world hSup [stranger, supNaming stranger.tid]).poised (supNaming stranger.tid) = true ∧
    (world hSup [stranger, supNaming stranger.tid]).team? (((supNaming stranger.tid).getS 5).setWidth 32) = some stranger ∧
    stranger.ctx ≠ sup1.ctx ∧ (wC ctx1 (supNaming 5)).team? (((supNaming 5).getS 5).setWidth 32) = none := by decide +kernel

/-- A lock held, and its holder; the entry of a retry ring of a team's own load. -/
def lock1 : Estate := { kind := .lock, obj := 0x6000, pa := 0x6000, heir := 2 }
def holder : Team := { team1 with estate := [lock1] }

/-- ExitEndsTheTeam: in the supervisor, with an entry of its loads in the ring, with no holdings and with one. -/
theorem witness_exit : wS.isSup sup1 = true ∧ w1.isSup team1 = false ∧ w1.hasEntry team1 [0, 1] = false ∧ team1.estate = [] ∧
    (let c : Context := { ctx1 with retry := [{ slot := 0, origin := 0, tid := h1, opId := 1, lanes := [0] }] }
     let s : State := { w1 with ctxs := [c] }
     s.poised team1 = true ∧ s.hasEntry team1 [0, 1] = true) ∧
    (wT holder).poised holder = true ∧ (wT holder).hasEntry holder [0, 1] = false ∧ holder.estate ≠ [] ∧
    (wT holder).draining holder.tid = false := by decide +kernel

/-- Dying teams: before and after they are drained, with holdings and without. -/
def dying1 : Team := { team1 with dying := some { killed := true, group := 5 } }
def dyingHolder : Team := { dying1 with estate := [lock1] }
def drained1 : Team := { dyingHolder with drained := true }
def drained2 : Team := { dying1 with drained := true, estate := [lock1, { lock1 with kind := .promise, obj := 0x6100, heir := 2 }] }
/-- The world of a team's death. -/
def wD (t : Team) : State := { wT t with arg := { tid := h1 } }

/-- DyingTeamConveysItsEstate: with holdings, with none; a lock as the last entry, an object as the newest of two. -/
theorem witness_death : (wD dyingHolder).team? (wD dyingHolder).arg.tid = some dyingHolder ∧
    (wD dyingHolder).deadQuiet dyingHolder = true ∧ (wD dyingHolder).permitQ = [] ∧ (wD dying1).deadQuiet dying1 = true ∧
    dying1.estate = [] ∧ (wD drained1).groupBefore drained1 = false ∧ ((wD drained1).core (coreOf h1)).buffer = [] ∧
    (wD drained1).entryPoisoned drained1 0 = false ∧ (wD drained1).receiver drained1 lock1 = (.team hSup, 1) ∧
    ((wD drained1).setEstate h1 fun l => l.take 0).team? hSup = some sup1 ∧
    (wD drained2).groupBefore drained2 = false ∧ (wD drained2).entryPoisoned drained2 1 = false := by decide +kernel

/-- A team at an address; a header of sixteen instructions, FLAGA 1 and FLAGB 2, with its KIND, CLASS and WAIT, at 0x1000
before a parcel and fifteen NOPs. -/
def atHead (pc : Dword) : Team := { team1 with clause := none, pc, flags := [(3, { count := 0, soft := true })] }
def hdrBytes (kind cls wait : Nat) : List Byte :=
  toBytes 4 (kind * 2 ^ 30 + cls * 2 ^ 26 + 15 * 2 ^ 22 + 16 * 2 ^ 17 + wait * 2 ^ 5 + 2) ++ toBytes 4 (2 * 2 ^ 29)
def wHead (pc : Dword) (kind cls wait first : Nat) : State :=
  { wT (atHead pc) with mem := memWrite (memWrite [] 0x1000 (hdrBytes kind cls wait)) 0x1008 (toBytes 4 first) }
def fetched (s : State) (pc : Dword) (n : Nat) : List Byte := (s.fetchBytes (atHead pc) pc.toNat n).getLeft?.getD []

/-- ClauseStartsAsAWhole: a header that cannot be fetched, one of the wrong KIND, one of CLASS 7, a body that cannot be
fetched, one with a transfer before its end, a clause that starts, and one that waits for a set flag. -/
theorem witness_clause :
    (wHead 0x80000000 3 6 0 0).team? h1 = some (atHead 0x80000000) ∧
    (wHead 0x80000000 3 6 0 0).canIssue (atHead 0x80000000) = true ∧
    (wHead 0x80000000 3 6 0 0).dividing (atHead 0x80000000) = false ∧
    ((wHead 0x80000000 3 6 0 0).fetchBytes (atHead 0x80000000) 0x80000000 8).isRight = true ∧
    field (headerOf (fetched (wHead 0x1000 2 6 0 0) 0x1000 8)) 63 62 = 2 ∧
    headerFault (headerOf (fetched (wHead 0x1000 3 7 0 0) 0x1000 8)) = some 2 ∧
    ((wHead 0x80000000 3 6 0 0).fetchBytes (atHead 0x80000000) 0x80000000 64).isRight = true ∧
    bodyFault w1 (headerOf (fetched (wHead 0x1000 3 6 0 0x123FFFF6) 0x1000 8))
      (wordsOf (fetched (wHead 0x1000 3 6 0 0x123FFFF6) 0x1008 64)) = some 5 ∧
    (let h := headerOf (fetched (wHead 0x1000 3 6 4 0) 0x1000 8)
     headerFault h = none ∧ hdrLen h = 16 ∧ bodyFault w1 h (wordsOf (fetched (wHead 0x1000 3 6 4 0) 0x1008 64)) = none ∧
     (atHead 0x1000).stepHalts h = false ∧ field h 48 37 = 4) ∧
    (let h := headerOf (fetched (wHead 0x1000 3 6 8 0) 0x1000 8)
     headerFault h = none ∧ field h 48 37 = 8 ∧ (wHead 0x1000 3 6 8 0).flagInRing (atHead 0x1000) 8 = false) := by decide +kernel

/-! ## Hypotheses that are met: vector instructions -/

/-- The conditions of VRule.Ready, as a computation. -/
def readyNow (r : VRule) (s : State) (t : Team) : Bool :=
  s.poised t && decide (checkV s t r.op r.f = none) && (readAll s t r.sources).isLeft && decide (dstsStop t r.dsts = none) &&
    !s.readsPoison t r.reads (if r.anyLane then List.range t.width else t.lanes)

theorem ready_of_readyNow {r : VRule} {s : State} {t : Team} (h : readyNow r s t = true) :
    ∃ srcs s1 t1, r.Ready s t srcs s1 t1 := by
  simp only [readyNow, Bool.and_eq_true, decide_eq_true_eq, Bool.not_eq_true'] at h
  obtain ⟨⟨⟨⟨h1, h2⟩, h3⟩, h4⟩, h5⟩ := h
  cases hr : readAll s t r.sources with
  | inl x => exact ⟨x.1, x.2.1, x.2.2, h1, h2, hr, h4, h5⟩
  | inr x => simp [hr] at h3

/-- Every rule of a list can issue in a state. -/
def allReady (rs : List (Option VRule)) (s : State) (t : Team) : Bool := rs.all fun r => r.any fun r => readyNow r s t

/-- The team with no lane enabled. -/
def idleTeam : Team := { team1 with s := [(0, 0)] }
/-- vD = v8, vA = v9, vB = v10, vC = v11. -/
def f4 (fmt md fn : Nat) : VFields := fields 8 9 10 11 fmt md fn none
/-- vD = v8, vA = v9, vB = v10, no vC. -/
def f3 (fmt md fn : Nat) : VFields := fields 8 9 10 0 fmt md fn none
def f2 (fmt md fn : Nat) : VFields := fields 8 9 0 0 fmt md fn none

theorem witness_float : allReady ((fun f3 f2 f4 => [floatRule team1 (.vadd f3), floatRule team1 (.vsub f3),
    floatRule team1 (.vmul f3), floatRule team1 (.vfma f4), floatRule team1 (.vfms f4), floatRule team1 (.vfnma f4),
    floatRule team1 (.vmin f3), floatRule team1 (.vmax f3), floatRule team1 (.vabs f2), floatRule team1 (.vneg f2),
    floatRule team1 (.vclamp f4)]) (f3 8 0 0) (f2 8 0 0) (f4 8 0 0)) w1 team1 = true ∧
    allReady [floatRule idleTeam (.vadd (f3 8 0 0))] (wT idleTeam) idleTeam = true ∧ idleTeam.lanes = [] ∧
    team1.lanes ≠ [] := by decide +kernel

theorem witness_integer : allReady ((fun f3 f2 f4 => [integerRule (.viadd f3), integerRule (.visub f3),
    integerRule (.vimul f3), integerRule (.vimulh f3), integerRule (.vimad f4), integerRule (.vsar f3),
    integerRule (.vclz f2), integerRule (.vbfx f4), some (insertFieldRule f4)]) (f3 3 0 0) (f2 3 0 0) (f4 3 0 0) ++
  (fun f3 f2 => [integerRule (.vshl f3), integerRule (.vshr f3), integerRule (.vand f3), integerRule (.vor f3),
    integerRule (.vxor f3), integerRule (.vnot f2), integerRule (.vpop f2)]) (f3 0 0 0) (f2 0 0 0)) w1 team1 = true := by
  decide +kernel

theorem witness_move : allReady [moveLaneRule (.vmov (f2 0 0 0)), moveLaneRule (.vbcast (fields 8 5 0 0 0 0 0 none)),
    moveLaneRule (.vlane (f3 0 0 0)), moveLaneRule (.vsetl (fields 8 9 5 0 3 0 0 none)),
    moveLaneRule (.viota (f2 14 0 0)), moveLaneRule (.vwid (fields 8 0 0 0 0 0 1 none)),
    moveLaneRule (.vpermbLit (fields 8 9 10 0 0 0 0 (some 5))), moveLaneRule (.vpermbReg (f4 0 0 1)),
    moveLaneRule (.vshuf (f3 0 0 0)), moveLaneRule (.vrotImm (fields 8 9 0 0 0 0 0 (some 1))),
    moveLaneRule (.vrotReg (fields 8 9 5 0 0 0 1 none))] w1 team1 = true := by decide +kernel

theorem witness_truth : allReady [truthRule (.vsel (f4 3 0 0)), truthRule (.vcmp (f3 8 0 2)), truthRule (.visabs (f2 8 0 0)),
    truthRule (.vcoalesce (f3 8 0 0)), truthRule (.vnullif (f3 8 0 0)), truthRule (.vmkabs (f3 8 0 0)),
    truthRule (.vtand (f3 14 0 0)), truthRule (.vtor (f3 14 0 0)), truthRule (.vtnot (f2 14 0 0))] w1 team1 = true := by
  decide +kernel

theorem witness_special : allReady ((fun f => [randomAndSpecialRule (.vrand (fields 8 0 0 0 0 0 0 none)),
    randomAndSpecialRule (.vrandf (fields 8 0 0 0 8 0 0 none)), randomAndSpecialRule (.vrcp f), randomAndSpecialRule (.vrsq f),
    randomAndSpecialRule (.vsqrt f), randomAndSpecialRule (.vexp2 f), randomAndSpecialRule (.vlog2 f),
    randomAndSpecialRule (.vsin f), randomAndSpecialRule (.vcos f), randomAndSpecialRule (.vtanh f),
    randomAndSpecialRule (.vlogi f)]) (f2 8 0 0)) w1 team1 = true := by decide +kernel

theorem witness_convert : allReady [convertRule (.vcvt (fields 8 10 0 0 9 5 0x19 none)),
    convertRule (.vdeq (fields 8 16 448 0 8 0 13 none)), convertRule (.vdeq (fields 8 9 10 0 8 0 11 none)),
    convertRule (.vquant (fields 8 16 448 448 13 0 8 none)), convertRule (.vquant (fields 8 16 10 448 11 0 8 none)),
    convertRule (.vamax (f2 8 0 0))] w1 team1 = true := by decide +kernel

theorem witness_reduce : allReady [reduceRule (.vradd (fields 8 9 0 448 8 0 0 none)),
    reduceRule (.vradd (fields 8 9 0 10 3 0 0 none)), reduceRule (.vrmin (fields 8 9 0 448 8 0 32 none)),
    reduceRule (.vrmax (fields 8 9 0 10 8 0 0 none)), reduceRule (.vrcount (f2 8 0 0)),
    reduceRule (.vscan (fields 8 9 0 448 3 0 1 none)), some (makeMaskRule (f2 14 0 0)),
    some (hadamardRule (f2 9 0 0))] w1 team1 = true := by decide +kernel

/-- A result in the datapath entry and one in the transform stage, before and at their last pass. -/
def entry1 : Datapath :=
  { readyAt := 20, dests := [8], reads := [9], writes := [{ reg := 8, lane := 3, val := 5 }, { reg := 8, lane := 3, val := 6 }]
    scalars := [(10, 1)] }
def passing : Team := { team1 with datapath := some entry1, hadamard := some entry1 }
def wPass (cyc : Nat) : State := { wT passing with cores := [(0, { cyc, tlb := [leaf1], first := [(0, [leaf1])] })], arg := { tid := h1 } }

/-- LastPassWritesTheResults and HadamardTransformGoesThroughItsStage, one cycle before the last pass and at it. -/
theorem witness_last_pass : (wPass 19).team? h1 = some passing ∧ ((wPass 19).core 0).cyc < entry1.readyAt ∧
    (wPass 20).team? h1 = some passing ∧ entry1.readyAt ≤ ((wPass 20).core 0).cyc ∧
    passing.datapath = some entry1 ∧ passing.hadamard = some entry1 := by decide +kernel

/-! ## Hypotheses that are met: memory -/

/-- An instruction's memory rule can issue in a state, and a fact about it holds. -/
def memReady (i : Instr) (s : State) (t : Team) (p : MRule → Bool) : Bool :=
  match memoryRule i with
  | none => false
  | some r => s.poised t && decide (checkV s t r.op r.f = none) && decide (t.acquireFault = none) &&
    !s.readsPoison t
      ((if r.scalar ∨ r.strided ∨ r.f.va = 448 then [] else [r.f.va.toNat]) ++
        (if r.scalar ∨ r.kind = .load ∨ r.kind = .amaxswap then []
         else (List.range (r.size / 4)).map fun i => r.f.vd.toNat + i)) (r.lanes t) &&
    s.releaseReady t (mScope r.f) && decide ((s.core (coreOf t.tid)).buffer.length < 64) && p r

theorem ready_of_memReady {i : Instr} {s : State} {t : Team} {p : MRule → Bool} (h : memReady i s t p = true) :
    ∃ r, memoryRule i = some r ∧ r.Ready s t ∧ p r = true := by
  unfold memReady at h
  split at h
  · contradiction
  · next r hr =>
    simp only [Bool.and_eq_true, decide_eq_true_eq, Bool.not_eq_true'] at h
    obtain ⟨⟨⟨⟨⟨⟨h1, h2⟩, h3⟩, h4⟩, h5⟩, h6⟩, h7⟩ := h
    exact ⟨r, hr, ⟨h1, h2, h3, h4, fun _ => h5, fun _ _ => h6⟩, h7⟩

/-- A memory word: SEG, ORD and X, through base register 4, 5 or 9, in a format. -/
def mem4 (x seg ord base fmt scope aop : Nat) : VFields := fields 8 x (64 * seg + ord) base fmt scope aop none

/-- Every lane stands within the limit, aligned, and no write goes to E. -/
def goesOn (s : State) (t : Team) (r : MRule) : Bool :=
  (r.lanes t).all (fun l => !r.passes t l && !r.misaligned t l) && decide (mSeg r.f ≠ 3 ∨ s.isSup t = true) && !hPstore (s.header t)

/-- MemoryInstructionStartsItsOperation: every instruction, an acquire and a release, and no lane enabled. -/
theorem witness_memory_starts : ([.vld (mem4 448 0 0 4 0 0 0), .vst (mem4 448 0 0 4 0 0 0), .sld (mem4 448 0 1 4 3 4 0), .sst (mem4 448 0 2 4 3 4 0),
      .vlds (mem4 7 0 0 4 0 0 0), .vsts (mem4 7 0 0 4 0 0 0), .atom (mem4 448 0 0 4 6 0 0), .atoms (mem4 448 0 0 4 6 0 7),
      .red (mem4 448 0 0 4 6 0 0), .amaxswap (mem4 448 0 0 4 8 0 0)] : List Instr).all
      (fun i => memReady i w1 team1 (goesOn w1 team1)) = true ∧
    memReady (.vld (mem4 448 0 0 4 0 0 0)) (wT idleTeam) idleTeam (fun r => (r.lanes idleTeam).isEmpty) = true ∧
    memReady (.vsts (mem4 7 1 0 4 0 0 0)) w1 team1 (goesOn w1 team1) = true := by decide +kernel

/-- MemoryInstructionTrapsBeforeAnyEffect: a limit passed through T and through P, a misaligned atomic, a store into E. -/
theorem witness_memory_traps :
    memReady (.vlds (mem4 7 2 0 3 0 0 0)) w1 team1
      (fun r => decide ((r.lanes team1).filter (r.passes team1) = (List.range 32).drop 1)) = true ∧
    memReady (.vld (mem4 448 1 0 9 0 0 0)) w1 team1 (fun r => !((r.lanes team1).filter (r.passes team1)).isEmpty) = true ∧
    memReady (.atom (mem4 448 0 0 5 6 0 0)) w1 team1 (fun r => r.isAtomic && ((r.lanes team1).filter (r.passes team1)).isEmpty &&
      !((r.lanes team1).filter (r.misaligned team1)).isEmpty) = true ∧
    memReady (.vst (mem4 448 3 0 3 0 0 0)) w1 team1 (fun r => r.writes && decide (mSeg r.f = 3) &&
      ((r.lanes team1).filter (r.passes team1)).isEmpty && !(r.lanes team1).isEmpty) = true ∧ w1.isSup team1 = false := by
  decide +kernel

/-- An instruction's identity and an operation of one lane at 0x2000. -/
def origin1 : Origin :=
  { tid := h1, ctx := 0, lid := 2, core := 0, plot := 1, pc := 0x1000, iword := 0, lit := 0, issue := 0 }
def lane1 (l addr : Nat) (done : Bool := false) : LaneAcc :=
  { lane := l, addr, x := 3, pieces := [{ off := 0, len := 4, done }], bytes := toBytes 4 5 }
def op1 (kind : OpKind) (seg : Nat) (lanes : List LaneAcc) : MemOp :=
  { id := 5, kind, origin := origin1, seg, dest := 10, scalar := false, fmt := 6, size := 4, lanes }
/-- The world with an operation, and the event's data. -/
def wOp (o : MemOp) (a : EventArg) (t : Team := team1) : State := { wT t with ops := [o], arg := a }
/-- A posted store's draining, or an operation with a write in the release buffer. -/
def write1 : BufWrite := { seq := 1, pa := 0x2000, bytes := toBytes 4 7, opId := 4, tid := h1, ctx := 0, lid := 2 }
/-- A fault of a lane. -/
def fault1 : LaneFault := { cause := 2, addr := 0x80002000, page := 0x80000000, pageSize := 4096 }

/-- ProbeHintsAndDrainAct: PROBE with lanes and with none, the hints, SDRAIN with nothing to wait for and behind a store. -/
theorem witness_probe : checkV w1 team1 0x113 (mem4 448 0 0 4 6 0 0) = none ∧ team1.acquireFault = none ∧
    checkV (wT idleTeam) idleTeam 0x113 (mem4 448 0 0 4 6 0 0) = none ∧
    checkV w1 team1 0x108 (fields 0 448 0 4 0 0 0 none) = none ∧ checkV w1 team1 0x109 (fields 0 448 0 4 0 0 0 none) = none ∧
    checkV w1 team1 0x112 (fields 0 0 0 0 0 0 0 none) = none ∧ w1.draining h1 = false ∧
    (wOp (op1 .store 0 [lane1 0 0x2000]) {}).draining h1 = true ∧ (wOp (op1 .store 0 [lane1 0 0x2000]) {}).poised team1 = true ∧
    (wOp (op1 .store 0 [lane1 0 0x2000]) {}).hasEntry team1 [2] = false := by decide +kernel

/-- A fence's word. -/
def fence (ord scope : Nat) : VFields := fields 0 0 ord 0 0 scope 0 none
def faulted : Team := { team1 with acquireFault := some 5 }

/-- FenceOrdersAndDrops: behind a faulted acquire, a release that waits, one that does not, and an acquire. -/
theorem witness_fence : (wT faulted).poised faulted = true ∧ checkV (wT faulted) faulted 0x114 (fence 3 4) = none ∧
    faulted.acquireFault ≠ none ∧ checkV w1 team1 0x114 (fence 3 4) = none ∧
    (wOp (op1 .store 0 [lane1 0 0x2000]) {}).releaseReady team1 4 = false ∧ w1.releaseReady team1 4 = true ∧
    w1.readTagsOpen team1 = false ∧ checkV w1 team1 0x114 (fence 2 1) = none ∧ checkV w1 team1 0x114 (fence 1 3) = none := by
  decide +kernel

/-- A page of the host window and one of another module, mapped beside the first, and a link to that module. -/
def leafHost : TlbEntry := { ctx := 0, va := 0x90000000, size := 65536, pa := 2 ^ 45, flags := 0x1F }
def leafPeer : TlbEntry := { leafHost with va := 0xA0000000, pa := 5 * 2 ^ 46 }
def wOut (s : State) : State :=
  { s with
    accepted := some (BitVec.allOnes 256), routes := [(5, 1)], links := [(0, { trained := true })]
    cores := [(0, { first := [(0, [leaf1, leafHost, leafPeer])] })] }

/-- Accesses outside the module's own memory, which the host or a peer may end with an error. -/
theorem witness_outside :
    (wOut w1).translate 0 0 0x90000000 .read = .ok (2 ^ 45) false ∧ (wOut w1).outsideCause (2 ^ 45) = some 10 ∧
    localHost (paLocal (2 ^ 45)) = true ∧ (wOut w1).isHost (2 ^ 45) = true ∧ (wOut w1).hostBuffered 0 h1 = false ∧
    (wOut w1).translate 0 0 0xA0000000 .read = .ok (5 * 2 ^ 46) false ∧ (wOut w1).translate 0 0 0xA0000000 .write = .ok (5 * 2 ^ 46) false ∧
    (wOut w1).outsideCause (5 * 2 ^ 46) = some 9 ∧ (wOut w1).translate 0 0 0xA0000000 (.atomic false) = .ok (5 * 2 ^ 46) false ∧
    (let o := op1 .load 0 [lane1 0 0x90000000, lane1 1 0x2004]
     Samples (wOut (wOp o { a := 5, pairs := [(0, 0)], flag := true })) o (lane1 0 0x90000000) 0 { off := 0, len := 4 }) ∧
    (let o := op1 .store 0 [lane1 0 0xA0000000, lane1 1 0x2004]
     Performs (wOut (wOp o { a := 5, hostErr := true })) o (lane1 0 0xA0000000) 0 { off := 0, len := 4 } ∧ othersOpen o 0) := by
  refine ⟨by decide +kernel, by decide +kernel, by decide +kernel, by decide +kernel, by decide +kernel, by decide +kernel, by decide +kernel,
    by decide +kernel, by decide +kernel,
    ⟨by decide +kernel, rfl, ⟨rfl, rfl⟩, rfl, by decide +kernel, by decide +kernel, ⟨rfl, rfl⟩, by decide +kernel, rfl,
      ⟨lane1 1 0x2004, by decide +kernel⟩, by decide +kernel, by decide +kernel⟩,
    ⟨by decide +kernel, rfl, ⟨rfl, rfl⟩, rfl, ⟨rfl, rfl, rfl⟩, by decide +kernel, by decide, rfl, ⟨rfl, rfl⟩,
      fun y hy => ?_, by decide +kernel⟩, lane1 1 0x2004, by decide +kernel⟩
  have : (wOut w1).launch? 0 2 = some launch1 := by decide +kernel
  have h : some launch1 = some y := this.symm.trans hy
  cases h; decide

/-- LoadPieceTakesItsBytes: through G, through P, and on a page that does not stand. -/
theorem witness_load_piece :
    (let o := op1 .load 0 [lane1 0 0x2000, lane1 1 0x2004]
     Samples (wOp o { a := 5, pairs := [(0, 0)] }) o (lane1 0 0x2000) 0 { off := 0, len := 4 } ∧
       (wOp o {}).translate 0 0 0x2000 .read = .ok 0x2000 false) ∧
    (let o := op1 .load 1 [lane1 0 0x2000, lane1 1 0x2004]
     Samples (wOp o { a := 5, pairs := [(0, 0)] }) o (lane1 0 0x2000) 0 { off := 0, len := 4 } ∧
       (wOp o {}).scratchPoisoned 1 0x2000 4 = false) ∧
    (let o := op1 .load 0 [lane1 0 0x80002000, lane1 1 0x2004]
     Samples (wOp o { a := 5, pairs := [(0, 0)] }) o (lane1 0 0x80002000) 0 { off := 0, len := 4 } ∧
       ∃ f, (wOp o {}).translate 0 0 0x80002000 .read = .fault f) := by
  refine ⟨⟨⟨by decide +kernel, rfl, ⟨rfl, rfl⟩, rfl, by decide +kernel, by decide +kernel, ⟨rfl, rfl⟩, by decide +kernel, rfl,
      ⟨lane1 1 0x2004, by decide +kernel⟩, by decide +kernel, by decide +kernel⟩, by decide +kernel⟩,
    ⟨⟨by decide +kernel, rfl, ⟨rfl, rfl⟩, rfl, by decide +kernel, by decide +kernel, ⟨rfl, rfl⟩, by decide +kernel, rfl,
      ⟨lane1 1 0x2004, by decide +kernel⟩, by decide +kernel, by decide +kernel⟩, by decide +kernel⟩,
    ⟨⟨by decide +kernel, rfl, ⟨rfl, rfl⟩, rfl, by decide +kernel, by decide +kernel, ⟨rfl, rfl⟩, by decide +kernel, rfl,
      ⟨lane1 1 0x2004, by decide +kernel⟩, by decide +kernel, by decide +kernel⟩, { cause := 1, page := 0x80002000, pageSize := 4096 }, by decide +kernel⟩⟩

/-- In this world every launch that is not ended has a living team. -/
theorem lives1 {s : State} {c l : Nat} {x : Launch} (h : s.launch? c l = some x) (hx : x.living ≠ 0) : launchLives s c l :=
  fun y hy => by rw [h] at hy; cases hy; exact hx

/-- A lane that has failed. -/
def bad1 : LaneAcc := { lane1 1 0x80002000 with fault := some fault1 }
/-- A scalar load of a signed format, an acquire, performed. -/
def opS1 : MemOp := { op1 .load 0 [lane1 0 0x2000 true] with scalar := true, ord := 1, scope := 4, flag := some 1 }

/-- LoadDeliversItsLanes: a scalar acquire, a vector load, and a vector load with a lane that failed. -/
theorem witness_load_delivery :
    (Delivers (wOp opS1 { a := 5 }) opS1 team1 ∧ whole opS1) ∧
    (let o := op1 .load 0 [lane1 0 0x2000 true, lane1 1 0x2004 true]
     Delivers (wOp o { a := 5 }) o team1 ∧ whole o ∧ ∀ a ∈ o.lanes, a.bytes.length = o.size) ∧
    (let o := op1 .load 0 [lane1 0 0x2000 true, bad1]
     Delivers (wOp o { a := 5 }) o team1 ∧ (wOp o {}).saving o = false ∧ (wOp o {}).isSup team1 = false ∧
       ∃ a ∈ o.lanes, a.fault ≠ none) := by
  refine ⟨⟨⟨by decide +kernel, rfl, rfl, rfl, by decide +kernel, by decide +kernel, by decide +kernel, rfl,
      lives1 (x := launch1) (by decide +kernel) (by decide), by decide +kernel, by decide +kernel⟩, by unfold whole; decide +kernel⟩,
    ⟨⟨by decide +kernel, rfl, rfl, rfl, by decide +kernel, by decide +kernel, by decide +kernel, rfl,
      lives1 (x := launch1) (by decide +kernel) (by decide), by decide +kernel, by decide +kernel⟩, by unfold whole; decide +kernel, by decide +kernel⟩,
    ⟨⟨by decide +kernel, rfl, rfl, rfl, by decide +kernel, by decide +kernel, by decide +kernel, rfl,
      lives1 (x := launch1) (by decide +kernel) (by decide), by decide +kernel, by decide +kernel⟩, by decide +kernel, by decide +kernel,
      bad1, by decide +kernel⟩⟩

/-- StorePieceIsPerformedAtItsPlace: through G at once and into the release buffer, on a page that does not stand, and through P. -/
theorem witness_store_piece :
    (let o := op1 .store 0 [lane1 0 0x2000]
     (∀ b, Performs (wOp o { a := 5, b := 0, c := 0, flag := b }) o (lane1 0 0x2000) 0 { off := 0, len := 4 }) ∧
       (wOp o {}).translate 0 0 0x2000 .write = .ok 0x2000 false ∧ (wOp o {}).bufMeets 0 0x2000 4 = false) ∧
    (let o := op1 .store 0 [lane1 0 0x80002000, lane1 1 0x2004]
     Performs (wOp o { a := 5 }) o (lane1 0 0x80002000) 0 { off := 0, len := 4 } ∧ othersOpen o 0) ∧
    (let o := op1 .store 1 [lane1 0 0x2000]
     Performs (wOp o { a := 5 }) o (lane1 0 0x2000) 0 { off := 0, len := 4 } ∧ (wOp o {}).plot? 1 = some plot1 ∧
       (plot1.scratchOff 0x2000).isSome = true ∧ plot1.exited.length < plot1.teams) := by
  refine ⟨⟨fun b => ⟨by cases b <;> decide +kernel, rfl, ⟨rfl, rfl⟩, rfl, ⟨rfl, rfl, rfl⟩, by cases b <;> decide +kernel, by decide, rfl, ⟨rfl, rfl⟩,
      lives1 (x := launch1) (by cases b <;> decide +kernel) (by decide), by cases b <;> decide +kernel⟩, by decide +kernel, by decide +kernel⟩,
    ⟨⟨by decide +kernel, rfl, ⟨rfl, rfl⟩, rfl, ⟨rfl, rfl, rfl⟩, by decide +kernel, by decide, rfl, ⟨rfl, rfl⟩,
      lives1 (x := launch1) (by decide +kernel) (by decide), by decide +kernel⟩, lane1 1 0x2004, by decide +kernel⟩,
    ⟨⟨by decide +kernel, rfl, ⟨rfl, rfl⟩, rfl, ⟨rfl, rfl, rfl⟩, by decide +kernel, by decide, rfl, ⟨rfl, rfl⟩,
      lives1 (x := launch1) (by decide +kernel) (by decide), by decide +kernel⟩, by decide +kernel, by decide +kernel⟩⟩

/-- AtomicActsOnItsLocation: two lanes on one address through G and through P, beside a lane on another. -/
theorem witness_atomic : ∀ seg, seg = 0 ∨ seg = 1 →
    (let o := op1 .atomic seg [lane1 0 0x2000, lane1 1 0x2004, lane1 2 0x2000]
     let same := [lane1 0 0x2000, lane1 2 0x2000]
     let r : Req := { id := 9, tid := h1, slice := sliceAt 0x2000, core := 0, pa := 0x2000, va := 0x2000, mark := 0, kind := .atomic 5 0 }
     Atomic (wOp o { a := 5 }) o (lane1 0 0x2000) same team1 ∧ (wOp o {}).scratchPoisoned 1 0x2000 4 = false ∧
       (wOp o { a := 5 }).atomicReq? o same = none ∧ (wOp o { a := 5 }).atomicReady o 0x2000 = true ∧
       (seg = 0 → ServedAt (wOp o { a := 5 }) o (lane1 0 0x2000) same 0x2000 ∧
         ServedAt { wOp o { a := 5 } with reqs := [r] } o (lane1 0 0x2000) same 0x2000)) ∧
    ∃ f, w1.translate 0 0 0x80002000 (.atomic false) = .fault f := by
  have hf : ∃ f, w1.translate 0 0 0x80002000 (.atomic false) = .fault f :=
    ⟨{ cause := 1, page := 0x80002000, pageSize := 4096 }, by decide +kernel⟩
  have hn : (wOp (op1 .atomic 0 [lane1 0 0x2000, lane1 1 0x2004, lane1 2 0x2000]) { a := 5 }).translate 0 0 0x2000 (.atomic false) = .ok 0x2000 false := by
    decide +kernel
  rintro seg (rfl | rfl)
  · exact ⟨⟨⟨by decide +kernel, ⟨.inl rfl, by decide⟩, ⟨rfl, rfl⟩, rfl, by decide +kernel, ⟨lane1 1 0x2004, by decide +kernel⟩,
        ⟨rfl, rfl⟩, by decide +kernel⟩, by decide +kernel, by decide +kernel, by decide +kernel, fun _ =>
        ⟨.inl ⟨by decide +kernel, by decide +kernel, ⟨false, hn⟩, by decide +kernel, .inl rfl, .inr ⟨by decide, by decide +kernel, by decide +kernel⟩⟩,
          .inr ⟨_, rfl, rfl, rfl, by decide +kernel, by decide +kernel⟩⟩⟩, hf⟩
  · exact ⟨⟨⟨by decide +kernel, ⟨.inl rfl, by decide⟩, ⟨rfl, rfl⟩, rfl, by decide +kernel, ⟨lane1 1 0x2004, by decide +kernel⟩,
        ⟨rfl, rfl⟩, by decide +kernel⟩, by decide +kernel, by decide +kernel, by decide +kernel, fun h => absurd h (by decide)⟩, hf⟩

/-- ReleaseBufferDrainsInOrder: a write in the buffer, and an acquire that was promoted, with a tagged write and without. -/
theorem witness_drain :
    (let s : State := { w1 with cores := [(0, { buffer := [write1], tlb := [leaf1], first := [(0, [leaf1])] })] }
     (s.core s.arg.a).buffer = [write1] ∧ launchLives s write1.ctx write1.lid) ∧
    (let o : MemOp := { op1 .load 0 [lane1 0 0x2000] with promoted := true, ord := 1, scope := 4 }
     (wOp o { a := 5 }).op? 5 = some o ∧
       (wOp o {}).mustPromote 0 o.scope o.isAcquire ((wOp o {}).pieceAt o (lane1 0 0x2000) { off := 0, len := 4 }) = false ∧
       (let s : State := { wOp o { a := 5 } with cores := [(0, { tlb := [leaf1], first := [(0, [leaf1])] }), (1, { buffer := [write1] })], tags := [(lineOf 0x2000, (1, 1))] }
        s.mustPromote 0 o.scope o.isAcquire (s.pieceAt o (lane1 0 0x2000) { off := 0, len := 4 }) = true)) := by
  exact ⟨⟨by decide +kernel, lives1 (x := launch1) (by decide +kernel) (by decide)⟩, by decide +kernel⟩

/-! ## Hypotheses that are met: copies, monitors, barriers, wakes and objects -/

/-- Every conjunct of CRule.Ready, as a computation. -/
def copyReady (i : Instr) (s : State) (t : Team) (p : CRule → Bool) : Bool :=
  match copyRule t i with
  | none => false
  | some c => s.poised t && decide (checkV s t c.op c.f = none) && decide (t.acquireFault = none) &&
    decide (0 < c.rows * c.rowLen ∧ c.rows * c.rowLen % c.elemSize = 0) &&
    decide ((t.getS c.f.va.toNat).toNat + c.span c.srcPitch ≤ (t.seg c.srcSeg).limit.toNat) &&
    decide ((t.getS c.f.vd.toNat).toNat + c.dstSpan ≤ (t.seg (cDseg c.f)).limit.toNat) &&
    decide (cDone c.f = 2 → (t.getS c.f.vc.toNat).toNat + 8 ≤ (t.seg 0).limit.toNat ∧
      ((t.seg 0).base + t.getS c.f.vc.toNat).toNat % 8 = 0) &&
    p c

theorem ready_of_copyReady {i : Instr} {s : State} {t : Team} {p : CRule → Bool} (h : copyReady i s t p = true) :
    ∃ c, copyRule t i = some c ∧ c.Ready s t ∧ p c = true := by
  unfold copyReady at h
  split at h
  · contradiction
  · next c hc =>
    simp only [Bool.and_eq_true, decide_eq_true_eq] at h
    obtain ⟨⟨⟨⟨⟨⟨⟨h1, h2⟩, h3⟩, h4⟩, h5⟩, h6⟩, h7⟩, h8⟩ := h
    exact ⟨c, hc, ⟨h1, h2, h3, h4, h5, h6, h7⟩, h8⟩

/-- A team with addresses, a length, and CPYW's pitches and rows in s10 to s15. -/
def copier : Team :=
  { team1 with s := [(0, 0xFFFFFFFF), (10, 0x2000), (11, 0x3000), (12, 32), (14, 0x0000004000000040), (15, 2), (16, 0x4000)] }

/-- CopyIsHandedToTheEngine: CPY with `.flag`, `.yield`, `.word`, and converting; CPYW; a source past its limit. -/
theorem witness_copy_issues :
    copyReady (.cpy (fields 11 10 12 0 0 0 0 none)) (wT copier) copier (fun c => cDone c.f == 0) = true ∧
    copyReady (.cpy (fields 11 10 448 5 0 0 0x40 (some 32))) (wT copier) copier (fun c => cDone c.f == 1) = true ∧
    copyReady (.cpy (fields 11 10 12 16 0 0 0x80 none)) (wT copier) copier (fun c => cDone c.f == 2) = true ∧
    copyReady (.cpy (fields 11 10 12 0 9 0 1 none)) (wT copier) copier (fun c => c.dstSpan == 16) = true ∧
    copyReady (.cpyw (fields 11 10 14 0 0 0 0 (some 32))) (wT copier) copier (fun c => c.dstSpan == 96) = true ∧
    (copyRule copier (.cpy (fields 11 10 12 0 0 8 0 none))).any (fun c => decide (c.srcSeg ≠ 1) &&
      decide ((copier.seg c.srcSeg).limit.toNat < (copier.getS c.f.va.toNat).toNat + c.span c.srcPitch) &&
      decide (checkV (wT copier) copier c.op c.f = none)) = true := by decide +kernel

/-- A raw copy of eight bytes from G to P; and one whose source page does not stand. -/
def copy1 : Copy :=
  { id := 5, origin := origin1, sseg := 0, dseg := 1, src := 0x2000, dst := 0x100, rowLen := 8, rows := 1, srcPitch := 0, dstPitch := 0
    fmt := 0, sfmt := 0, scope := 3, done := .flag (some 2) }
def copy2 : Copy := { copy1 with src := 0x80002000, done := .yield_ }
def wCopy (k : Copy) : State := { w1 with copies := [k], arg := { a := 5 } }

/-- CopyMovesItsElements: a copy that runs, and one whose first element faults. -/
theorem witness_copy_runs : Runs (wCopy copy1) copy1 team1 8 (fun i => (false, 0x2000 + i)) (fun i => (true, 0x100 + i)) ∧
    ((wCopy copy2).copies.find? fun x => x.id == 5) = some copy2 ∧ (wCopy copy2).engineReady origin1 5 = true ∧
    (wCopy copy2).ctx? 0 = some ctx1 ∧ ∃ f, (wCopy copy2).translate 0 0 copy2.src.toNat .read = .fault f := by
  refine ⟨⟨by decide +kernel, ⟨rfl, rfl⟩, ⟨rfl, rfl, rfl⟩, by decide +kernel, by decide +kernel, ⟨by decide +kernel, rfl, rfl⟩, ?_, ?_, ?_,
      fun _ i j _ _ _ _ => ?_, ?_⟩,
    by decide +kernel, by decide +kernel, by decide +kernel, { cause := 1, page := 0x80002000, pageSize := 4096 }, by decide +kernel⟩
  · intro p hp
    have : (wCopy copy1).plot? copy1.origin.plot = some plot1 := by decide +kernel
    cases this.symm.trans hp
    decide
  · intro i hi
    exact ⟨by decide, by decide +revert +kernel, fun h => absurd h (by decide), fun _ => ⟨rfl, fun _ => by decide +revert +kernel,
      leaf1, false, by decide +revert +kernel, by decide +revert +kernel⟩⟩
  · intro i hi
    exact ⟨by decide, by decide +revert +kernel, fun _ => ⟨by decide +revert +kernel, ⟨plot1, by decide +kernel,
      by decide +revert +kernel⟩, fun h => by cases h⟩, fun h => absurd rfl h⟩
  · show (true, 0x100 + (i + j)) = (true, 0x100 + i + j)
    rw [Nat.add_assoc]
  · intro i hi j hj
    refine ⟨.inl (fun h => by cases h), fun h => .inr ?_⟩
    show 0x100 + i + 1 ≤ 0x100 + j ∨ 0x100 + j + 1 ≤ 0x100 + i
    omega

/-- Teams that have armed a monitor, and have parked on it; a write on the line. -/
def armed1 : Team := { team1 with monitor := .armed 0x80 }
def ended1 : Team := { team1 with monitor := .ended 3 }
def waiting1 : Team := { armed1 with run := .parked (.monitor 10 (some 7)) none }
/-- BASE 4 (s4 = 0x2000), and a base beyond the page. -/
def sync4 : VFields := fields 8 5 0 4 0 0 0 none
def far1 : Team := { team1 with s := [(0, 0xFFFFFFFF), (4, 0x80002000)] }

/-- MonitorTellsItsFirstEvent: MARM on a page and on none, MWAIT in its three cases, the budget's end, and a write. -/
theorem witness_monitor : checkV w1 team1 0x180 (fields 0 0 0 4 0 0 0 none) = none ∧
    (syncOff (fields 0 0 0 4 0 0 0 none) team1).toNat < (team1.seg 0).limit.toNat ∧
    w1.translate 0 0 (syncAddr (fields 0 0 0 4 0 0 0 none) team1 0).toNat .read = .ok 0x2000 false ∧ localHost (paLocal 0x2000) = false ∧
    (wT far1).poised far1 = true ∧ checkV (wT far1) far1 0x180 (fields 0 0 0 4 0 0 0 none) = none ∧
    (wT far1).translate 0 0 (syncAddr (fields 0 0 0 4 0 0 0 none) far1 0).toNat .read =
      .fault { cause := 1, page := 0x80002000, pageSize := 4096 } ∧
    checkV w1 team1 0x181 (fields 10 5 0 0 0 0 0 none) = none ∧ team1.monitor = .none_ ∧
    (wT armed1).poised armed1 = true ∧ (wT ended1).poised ended1 = true ∧
    (let s : State := { wT waiting1 with cores := [(0, { cyc := 7 })], arg := { tid := h1 } }
     s.team? s.arg.tid = some waiting1 ∧ 7 ≤ s.now waiting1) ∧
    (let s : State := { wT waiting1 with cores := [(0, { buffer := [write1] })], arms := [{ line := 0x80, tid := h1 }] }
     (s.core s.arg.a).buffer = [write1] ∧ { line := write1.pa / 64, tid := h1 : Arm } ∈ s.arms ∧ s.team? h1 = some waiting1 ∧
       (s.launch? write1.ctx write1.lid).map Launch.living = some 2) := by decide +kernel

/-- BARV and BARW on the word at 0x2000 of the pool, whose plot's pieces begin at 0. -/
def loc1 : BarLoc := .scratch 1 0x2000
def arrived1 : Team := { team1 with arrivals := [{ loc := loc1, va := 0x2000, phase := 0 }] }
def arrived4 : Team :=
  { team1 with arrivals := (List.range 4).map fun i => { loc := .scratch 1 (8 * i), va := BitVec.ofNat 64 (8 * i), phase := 0 } }
/-- The world where the other team has arrived and waits. -/
def waiter2 : Team := { team2 with run := .parked (.barrier loc1 0x2000 none 1) none }
def wBar (t : Team) (count : Nat) : State :=
  { world h1 [t, waiter2, sup1] with
    plots := [{ plot1 with scratch := spWrite 0 [] 0x2002 (BitVec.ofNat 8 count) }] }
def plotBar (count : Nat) : Plot := { plot1 with scratch := spWrite 0 [] 0x2002 (BitVec.ofNat 8 count) }
/-- A record of the grid barrier at the same address. -/
def gridAt1 : Team := { team1 with arrivals := [{ loc := .grid 0x2000, va := 0x2000, phase := 0 }] }
/-- AtBarrier, as a computation. -/
def atBarrier (s : State) (t : Team) (op : Nat) (f : VFields) (p : Plot) (off : Nat) : Bool :=
  s.poised t && decide (checkV s t op f = none) && decide (t.acquireFault = none) && decide (s.plot? t.plot = some p) &&
  decide (p.scratchOff (syncAddr f t 1).toNat = some off ∧ (p.scratchOff ((syncAddr f t 1).toNat + 7)).isSome = true) &&
  decide ((syncOff f t).toNat + 8 ≤ (t.seg 1).limit.toNat ∧ (syncAddr f t 1).toNat % 8 = 0) &&
  !s.scratchPoisoned t.plot (syncAddr f t 1).toNat 8

theorem atBarrier_of {s : State} {t : Team} {op : Nat} {f : VFields} {p : Plot} {off : Nat}
    (h : atBarrier s t op f p off = true) : AtBarrier s t op f p off := by
  simp only [atBarrier, Bool.and_eq_true, decide_eq_true_eq, Bool.not_eq_true'] at h
  obtain ⟨⟨⟨⟨⟨⟨h1, h2⟩, h3⟩, h4⟩, h5⟩, h6⟩, h7⟩ := h
  exact ⟨h1, h2, h3, h4, h5, h6, h7⟩

/-- PlotBarrierCountsAndReleases: the last party's arrival beside a waiter, one that is not the last, a fifth record, and a
wait with its record. -/
theorem witness_barrier : let f := fields 0 0 64 4 0 0 0 none
    atBarrier (wBar team1 1) team1 0x184 f (plotBar 1) 0x2000 = true ∧ (wBar team1 1).releaseReady team1 (barrierScope 1 f) = true ∧
    (wBar team1 1).barrierWord loc1 = 0x10000 ∧ arrivedOf ((wBar team1 1).barrierWord loc1) = 2 ∧
    expectedOf (wBar team1 1) { loc := loc1, ctx := 0, lid := 2, plot := 1 } ((wBar team1 1).barrierWord loc1) = 2 ∧
    (wBar team1 1).team? h2 = some waiter2 ∧
    atBarrier (wBar arrived4 0) arrived4 0x184 f (plotBar 0) 0x2000 = true ∧
    atBarrier (wBar arrived1 1) arrived1 0x184 f (plotBar 1) 0x2000 = true ∧ (syncAddr f arrived1 1) = 0x2000 ∧
    atBarrier (wBar team1 0) team1 0x185 f (plotBar 0) 0x2000 = true ∧ (wBar team1 0).isSup team1 = false ∧
    atBarrier (wBar arrived1 1) arrived1 0x185 f (plotBar 1) 0x2000 = true ∧
    (arrived1.arrivals.find? fun x => x.loc == loc1) = some { loc := loc1, va := 0x2000, phase := 0 } ∧
    atBarrier (wBar gridAt1 0) gridAt1 0x184 f (plotBar 0) 0x2000 = true ∧ mayArrive (wBar gridAt1 0) gridAt1 f 0x2000 loc1 := by
  unfold mayArrive; decide +kernel

/-- A team that has parked and whose wake has come. -/
def woken (k : Park) (w : Wake) : Team := { team1 with run := .parked k (some w) }
/-- A team that may wake, as a computation. -/
def mayWake (t : Team) : Bool :=
  let s : State := { wT t with arg := { tid := h1 } }
  decide (s.team? h1 = some t) && t.running && decide (t.dying = none) && !s.launchSaving t && decide (t.late = none) &&
    decide (t.stepping = none) && !t.leaveAtEnd && !t.clauseYield && !s.isSup t

/-- WakeEndsThePark, for each kind of park. -/
theorem witness_wake : mayWake (woken (.monitor 10 none) (.status 0)) = true ∧ mayWake (woken (.lock 0x6000) .done) = true ∧
    mayWake (woken (.permit 0x6000) .done) = true ∧ mayWake (woken (.promise 0x6000) .done) = true ∧
    mayWake (woken (.barrier loc1 0x2000 none 1) (.barrier false)) = true ∧
    mayWake (woken (.barrier loc1 0x2000 none 1) (.barrier true)) = true ∧ mayWake (woken (.copy 5 0x1010) .done) = true ∧
    mayWake (woken .retry .done) = true := by decide +kernel

/-- Every conjunct of ORule.Ready but those that hold of any team alone in its launch, as a computation. -/
def objectReady (i : Instr) (s : State) (t : Team) : Bool :=
  match objectRule t i with
  | none => false
  | some r => s.poised t && decide (checkV s t r.op r.f = none) && decide (t.acquireFault = none) && decide (s.reqs = []) &&
    s.releaseReady t r.scope && r.size.any (fun n => decide ((syncOff r.f t).toNat + n ≤ (t.seg 0).limit.toNat ∧
      (syncAddr r.f t 0).toNat % n = 0)) && decide (mHeir r.f ≠ 5) &&
    (match r.kind with
      | .permget .. => decide (1 ≤ (t.getS r.f.va.toNat).toNat ∧ (t.getS r.f.va.toNat).toNat < 2 ^ 31)
      | _ => true) && decide (t.arrivals = []) &&
    decide (s.objectAfter t (syncAddr r.f t 0).toNat (r.span s (syncAddr r.f t 0).toNat) = []) &&
    !s.objectBuffered t (syncAddr r.f t 0).toNat (r.span s (syncAddr r.f t 0).toNat) &&
    decide (s.translate (portOf t.tid) t.ctx (syncAddr r.f t 0).toNat (.atomic false) = .ok (syncAddr r.f t 0).toNat false)

theorem ready_of_objectReady {i : Instr} {s : State} {t : Team} (h : objectReady i s t = true) :
    ∃ r n pa, objectRule t i = some r ∧ r.Ready s t n pa := by
  unfold objectReady at h
  split at h
  · contradiction
  · next r hr =>
    simp only [Bool.and_eq_true, decide_eq_true_eq, Option.any_eq_true, Bool.not_eq_true'] at h
    obtain ⟨⟨⟨⟨⟨⟨⟨⟨⟨⟨⟨h1, h2⟩, h3⟩, h4⟩, h5⟩, n, hn, h6⟩, h7⟩, h8⟩, h9⟩, h10⟩, h11⟩, h12⟩ := h
    exact ⟨r, n, _, hr, {
      poised := h1, checks := h2, noFault := h3, free := fun q hq => (by rw [h4] at hq; contradiction), before := ⟨h10, h11⟩
      release := fun _ => h5, size := hn, inside := h6.1, aligned := h6.2, heir := fun _ h => absurd h h7
      permits := (by revert h8; cases r.kind <;> simp)
      records := fun _ _ _ _ => (by rw [h9]; exact ⟨fun _ a ha => (by contradiction), fun _ => by decide⟩), mapped := ⟨_, h12⟩ }⟩

/-- A team with an address in s9 and a lock and a promise of its own, in a gang. -/
def owner : Team := { team1 with estate := [lock1, { obj := 0x6010, pa := 0x6010, kind := .promise }], bereaved := 1 }
def headerG : List Dword := header1.set 0 (header1.getD 0 0 + dw (2 ^ 21))
def wG (t : Team) : State := { wT t with launches := [launchS, { launch1 with header := headerG }] }
def syncF (d x ord scope fn : Nat) : VFields := fields d x ord 9 0 scope fn none

/-- ObjectInstructionSendsItsRequest, for every instruction; and CONVEY and HCLRB of objects that the team does not hold. -/
theorem witness_object_requests : ([.hold (syncF 10 0 0 0 0), .hrel (syncF 0 0 0 0 0), .hclrb (syncF 0 0 0 0 0), .hclrbPool (syncF 0 0 0 0 3),
      .pmake (syncF 0 0 0 0 1), .pfulfil (syncF 0 5 2 4 0), .pwait (syncF 10 0 1 4 0), .permget (syncF 10 5 0 0 0),
      .permput (syncF 0 5 0 0 0), .convey (syncF 10 0 0 0 0), .heapoffer (syncF 10 5 0 0 0), .heapseal (syncF 10 0 0 0 0),
      .heapread (syncF 10 5 0 0 0), .gbarv (syncF 0 0 2 4 0), .gbarw (syncF 10 0 1 4 0x20)] : List Instr).map
      (fun i => objectReady i (wG owner) owner) = List.replicate 15 true ∧
    ((objectRule team1 (.convey (syncF 10 0 0 0 0))).map ORule.size = some none ∧
      (objectRule team1 (.hclrb (syncF 0 0 0 0 0))).map ORule.size = some none ∧ w1.reqs = [] ∧
      checkV w1 team1 0x192 (syncF 10 0 0 0 0) = none ∧ checkV w1 team1 0x18B (syncF 0 0 0 0 0) = none ∧
      w1.releaseReady team1 4 = true ∧ settled w1 team1 (syncAddr (syncF 10 0 0 0 0) team1 0).toNat 8) := by
  unfold settled; decide +kernel

/-- A request on an object at 0x6000, and a world in which its slice serves it: the word there, and the other team. -/
def req1 (kind : ReqKind) : Req := { id := 5, slice := 0, core := 0, tid := h1, va := 0x6000, pa := 0x6000, kind }
def wReq (kind : ReqKind) (t : Team) (word : Nat) (u : Team := team2) : State :=
  { world h1 [t, u, sup1] with mem := memWrite [] 0x6000 (toBytes 8 word), reqs := [req1 kind] }
/-- Every conjunct of Served, as a computation. -/
def servedNow (s : State) (r : Req) (t : Team) : Bool :=
  decide (s.nextCore s.arg.a = some r) && !s.reqWaits r && decide (r.core = coreOf r.tid) && decide (s.tags = []) &&
    !s.poisoned r.pa && decide (s.team? r.tid = some t) && decide (t.late = none) && decide (t.stepping = none) &&
    !t.leaveAtEnd && !t.clauseYield && decide (t.dying = none) && decide (t.monitor = .none_) && !s.isSup t

theorem served_of {s : State} {r : Req} {t : Team} (h : servedNow s r t = true) : Served s r t := by
  simp only [servedNow, Bool.and_eq_true, decide_eq_true_eq, Bool.not_eq_true'] at h
  obtain ⟨⟨⟨⟨⟨⟨⟨⟨⟨⟨⟨⟨h1, h2⟩, h3⟩, h4⟩, h5⟩, h6⟩, h7⟩, h8⟩, h9⟩, h10⟩, h11⟩, h12⟩, h13⟩ := h
  exact ⟨h1, h2, h3, h4, h5, h6, ⟨h7, h8, h9, h10⟩, h11, h12, h13⟩

/-- A request is served in the world of its kind, its team, a word and another team, and the word is a number. -/
def serves (kind : ReqKind) (t : Team) (word : Nat) (u : Team := team2) : Bool :=
  servedNow (wReq kind t word u) (req1 kind) t && (wReq kind t word u).physDword 0x6000 == word

/-- A team without room, and the other team parked. -/
def full1 : Team := { team1 with estate := List.replicate 3 { obj := 0x7000, pa := 0x7000, kind := .permit, count := 1 } }
def parked2 (k : Park) : Team := { team2 with run := .parked k none }
/-- The word of a lock that a team holds. -/
def heldBy (h : Handle) : Nat := h.toNat * 2 ^ 32 + 4

/-- LockIsTakenReleasedAndRepaired: a free lock, an ORPHAN one claimed, one held by another, by the team itself, no room;
a release without waiters and with one; both repairs. -/
theorem witness_lock :
    ([serves (.hold 10 false 0 0) team1 0, serves (.hold 10 true 0 0) team1 (2 ^ 30), serves (.hold 10 false 0 0) team1 (heldBy h2),
      serves (.hold 10 false 0 0) holder (heldBy h1), serves (.hold 10 false 0 0) full1 0, serves .hrel holder (heldBy h1),
      serves .hrel team1 0, serves .hclrb holder (heldBy h1 + 2 ^ 31), serves .hclrb owner (2 ^ 28 + 2 ^ 27),
      serves .hclrbPool team1 (2 ^ 33 + 5)] : List Bool) = List.replicate 10 true ∧
    owns team1 .lock 0x6000 = false ∧ owns holder .lock 0x6000 = true ∧
    team1.estate.length + team1.reservedEntries < hEstate (w1.header team1) ∧
    ¬ (full1.estate.length + full1.reservedEntries < hEstate ((wT full1).header full1)) ∧
    (let s : State := { wReq .hrel holder (heldBy h1) (parked2 (.lock 0x6000)) with
        lockQ := [{ pa := 0x6000, tid := h2, va := 0x6000, sd := 10, claim := false, heir := 1, handle := 0, scope := 4 }] }
     servedNow s (req1 .hrel) holder = true ∧ (s.lockQ.find? fun x => x.pa == 0x6000).map LockWaiter.tid = some h2 ∧
       s.team? h2 = some (parked2 (.lock 0x6000))) := by decide +kernel

/-- A promise of its own. -/
def promiser : Team := { team1 with estate := [{ obj := 0x6000, pa := 0x6000, kind := .promise }] }

/-- PromiseIsMadeFulfilledAndAwaited: each state of the word for each of the three, and a waiter. -/
theorem witness_promise :
    ([serves (.pmake 1 0) team1 0, serves (.pmake 1 0) team1 (2 ^ 28), serves (.pmake 1 0) team1 (4 * 2 ^ 28), serves (.pmake 1 0) full1 0,
      serves (.pfulfil 7) promiser (h1.toNat * 2 ^ 32 + 2 ^ 28), serves (.pfulfil 7) team1 0,
      serves (.pwait 10 (some 1)) team1 (4 * 2 ^ 28), serves (.pwait 10 (some 1)) team1 (2 * 2 ^ 28),
      serves (.pwait 10 (some 1)) team1 (3 * 2 ^ 28), serves (.pwait 10 (some 1)) team1 (2 ^ 28)] : List Bool) =
      List.replicate 10 true ∧
    (let x : PromiseWaiter := { pa := 0x6000, tid := h2, sd := 10, flag := some 1, scope := 4 }
     let s : State := { wReq (.pfulfil 7) promiser (h1.toNat * 2 ^ 32 + 2 ^ 28) (parked2 (.promise 0x6000)) with promiseQ := [x] }
     servedNow s (req1 (.pfulfil 7)) promiser = true ∧ s.promiseQ.count x = 1 ∧ s.team? h2 = some (parked2 (.promise 0x6000))) := by
  decide +kernel

/-- A permit entry of its own. -/
def permitter : Team := { team1 with estate := [{ obj := 0x6000, pa := 0x6000, kind := .permit, count := 3 }] }

/-- PermitsAreGrantedInOrder: a grant to a new entry and to an old one, too few, behind another's request, no room; and
permits given back in part and whole, none, too many, and without an entry. -/
theorem witness_permits :
    ([serves (.permget 10 2 1 0 (some 1)) team1 5, serves (.permget 10 2 1 0 (some 1)) permitter 5,
      serves (.permget 10 6 1 0 (some 1)) team1 5, serves (.permget 10 2 1 0 (some 1)) full1 5,
      serves (.permput 2) permitter 5, serves (.permput 3) permitter 5, serves (.permput 0) permitter 5,
      serves (.permput 4) permitter 5, serves (.permput 1) team1 5] : List Bool) = List.replicate 9 true ∧
    (let x : PermitWaiter := { pa := 0x6000, tid := h2, va := 0x6000, sd := 10, n := 9, heir := 1, handle := 0, flag := none, scope := 4 }
     let s : State := { wReq (.permget 10 2 1 0 (some 1)) team1 5 (parked2 (.permit 0x6000)) with permitQ := [x] }
     servedNow s (req1 (.permget 10 2 1 0 (some 1))) team1 = true ∧ x ∈ s.permitQ ∧ s.isDying x.tid = false ∧
       (s.permitQ.find? fun y => y.pa == 0x6000 && !s.isDying y.tid) = some x ∧ s.physDword 0x6000 % 2 ^ 32 < x.n ∧
       s.team? x.tid = some (parked2 (.permit 0x6000))) ∧
    (let x : PermitWaiter := { pa := 0x6000, tid := h2, va := 0x6000, sd := 10, n := 5, heir := 1, handle := 0, flag := none, scope := 4 }
     let s : State := { wReq (.permput 2) permitter 5 (parked2 (.permit 0x6000)) with permitQ := [x] }
     servedNow s (req1 (.permput 2)) permitter = true ∧
       (s.permitQ.find? fun y => y.pa == 0x6000 && !s.isDying y.tid) = some x ∧ x.n ≤ s.physDword 0x6000 % 2 ^ 32 ∧
       s.team? x.tid = some (parked2 (.permit 0x6000)) ∧ x.tid ≠ permitter.tid) := by decide +kernel

/-- Teams with one entry that passes to the supervisor, to nobody, and to its pool. -/
def giver (heir : BitVec 4) (kind : EKind) : Team := { team1 with estate := [{ obj := 0x6000, pa := 0x6000, kind, count := 2, heir }] }

/-- A team whose entry's new heir stands in s8: a handle of no team, and of a team of another launch. -/
def heirTo (h : Handle) : Team := { holder with s := spWrite 0 holder.s 8 (h.setWidth 64) }
/-- HEIR with a code. -/
def heirF (n : Nat) : VFields := syncF 0 8 0 0 n

/-- EstateIsReadRewrittenAndConveyed: ESTATE of an entry and past the last; HEIR of an entry to a code, to a handle and to another
launch's, of `.pool` on a permit and on a lock, and of no entry; and CONVEY to a team, nobody and the pool. -/
theorem witness_heir :
    checkV (wT (heirTo 0)) (heirTo 0) 0x18A (heirF 5) = none ∧ mHeir (heirF 5) = 5 ∧ (wT (heirTo 0)).team? (heirHandle (heirF 5) (heirTo 0)) = none ∧
    checkV (wT (heirTo hSup)) (heirTo hSup) 0x18A (heirF 5) = none ∧
    (wT (heirTo hSup)).team? (heirHandle (heirF 5) (heirTo hSup)) = some sup1 ∧ sup1.lid ≠ (heirTo hSup).lid ∧
    checkV (wT holder) holder 0x18A (syncF 0 0 0 0 3) = none ∧ mHeir (syncF 0 0 0 0 3) = 3 ∧ owns holder .permit 0x6000 = false ∧
    (wT permitter).poised permitter = true ∧ checkV (wT permitter) permitter 0x18A (syncF 0 0 0 0 3) = none ∧
    owns permitter .permit 0x6000 = true ∧ settled (wT holder) holder 0x6000 8 ∧ settled (wT permitter) permitter 0x6000 8 ∧
    checkV w1 team1 0x18A (syncF 0 0 0 0 1) = none ∧ settled w1 team1 0x6000 8 := by
  unfold settled; decide +kernel

/-- EstateIsReadRewrittenAndConveyed: ESTATE, HEIR and CONVEY (see also witness_heir). -/
theorem witness_estate : (wT holder).poised holder = true ∧ checkV (wT holder) holder 0x191 (fields 10 8 0 0 0 0 0 none) = none ∧
    holder.estate[(holder.getS 1).toNat]? = some lock1 ∧ holder.estate[(holder.getS 8).toNat]? = none ∧
    checkV (wT holder) holder 0x18A (syncF 0 0 0 0 1) = none ∧ syncAddr (syncF 0 0 0 0 1) holder 0 = 0x6000 ∧
    mHeir (syncF 0 0 0 0 1) = 1 ∧ (wT holder).reqs = [] ∧
    (wT holder).translate 0 0 0x6000 (.atomic false) = .ok 0x6000 false ∧
    serves (.convey 10) (giver 2 .lock) (heldBy h1) = true ∧ serves (.convey 10) (giver 3 .permit) 5 = true ∧
    ((wReq (.convey 10) (giver 2 .lock) (heldBy h1)).receiver (giver 2 .lock) { obj := 0x6000, pa := 0x6000, kind := .lock, count := 2, heir := 2 }).1 =
      .team hSup ∧
    ((wReq (.convey 10) (giver 3 .permit) 5).receiver (giver 3 .permit) { obj := 0x6000, pa := 0x6000, kind := .permit, count := 2, heir := 3 }).1 =
      .pool ∧
    serves (.convey 10) (giver 4 .lock) (heldBy h1) = true ∧
    ((wReq (.convey 10) (giver 4 .lock) (heldBy h1)).receiver (giver 4 .lock) { obj := 0x6000, pa := 0x6000, kind := .lock, count := 2, heir := 4 }).1 =
      .nobody := by decide +kernel

/-- A heap of capacity 2 in a STATE, with a number of entries. -/
def heapHdr (accepted state : Nat) : Nat := 2 * 2 ^ 32 + accepted * 2 ^ 16 + state

/-- HeapKeepsTheBestOffers: an offer to a heap with room and to a full one, to a SEALED and to a NONE one; a seal; reads. -/
theorem witness_heap :
    ([serves (.heapoffer 10 0x3F80000000000007) team1 (heapHdr 1 1), serves (.heapoffer 10 0x3F80000000000007) team1 (heapHdr 2 1),
      serves (.heapoffer 10 0) team1 (heapHdr 2 2), serves (.heapoffer 10 0) team1 (heapHdr 0 0),
      serves (.heapseal 10) team1 (heapHdr 2 1), serves (.heapseal 10) team1 (heapHdr 2 2), serves (.heapseal 10) team1 (heapHdr 0 0),
      serves (.heapread 10 0) team1 (heapHdr 2 2), serves (.heapread 10 2) team1 (heapHdr 2 2),
      serves (.heapread 10 0) team1 (heapHdr 2 1)] : List Bool) = List.replicate 10 true ∧
    w1.firstFault 0 0 0x6040 16 .write = none ∧ w1.firstFault 0 0 0x6040 8 .read = none ∧ w1.poisonIn 0 0 0x6040 16 = none := by
  decide +kernel

/-- GridBarrierArrivalIsServed: an arrival and a wait, one that completes and one that does not; requests that must wait
for a tagged write to drain; and promoted ones. -/
theorem witness_grid :
    ([serves (.arrive false none 4) team1 (2 ^ 32), serves (.arrive true (some 10) 4) team1 (2 ^ 33),
      serves (.arrive true (some 10) 4) team1 (2 ^ 32)] : List Bool) = List.replicate 3 true ∧
    (let r : Req := { req1 (.hold 10 false 0 0) with acquire := some 4 }
     let s : State := { wReq (.hold 10 false 0 0) team1 0 with
        reqs := [r], cores := [(0, { tlb := [leaf1], first := [(0, [leaf1])] }), (1, { buffer := [write1] })], tags := [(lineOf 0x6000, (1, 1))] }
     s.nextCore s.arg.a = some r ∧ s.reqWaits r = true) ∧
    (let r : Req := { req1 (.hold 10 false 0 0) with acquire := some 4, promoted := true }
     let s : State := { wReq (.hold 10 false 0 0) team1 0 with reqs := [r], arg := { a := 5 } }
     s.op? s.arg.a = none ∧ (s.reqs.find? fun x => x.id == s.arg.a && x.promoted) = some r ∧ s.reqWaits r = false) := by
  decide +kernel

/-! ## Hypotheses that are met: the matrix engine and the gleaner -/

/-- A team of the crew at an instruction of one word whose checks it passes. -/
def inCrew (s : State) (t : Team) (c : Crew) (op : Nat) (f : VFields) : Bool :=
  s.poised t && decide (checkV s t op f = none) && decide (s.crewOf t = some c)

theorem inCrew_of {s : State} {t : Team} {c : Crew} {op : Nat} {f : VFields} (h : inCrew s t c op f = true) : InCrew s t c op f := by
  simp only [inCrew, Bool.and_eq_true, decide_eq_true_eq] at h
  exact ⟨h.1.1, h.1.2, h.2⟩

/-- A crew with an operation on its name a1, on tile 0; a crew with streams at port d0. -/
def mma1 : MatrixOp :=
  { id := 5, kind := .mma, tiles := [0], names := [1], fmtA := 8, fmtB := 8, mode := 0, runs := [(h1, 0), (h2, 0)] }
def crewOp : Crew := { crew1 with names := [(1, some 0)], ops := [mma1] }
def stream1 (row : Nat) : Stream := { id := 6, tile := some 0, counts := false, vals := some [], row, readyAt := 5 }
def crewPort (ss : List Stream) : Crew := { crew1 with ports := [(0, ss)] }
def wCrew (c : Crew) (cyc : Nat := 5) (running : Option (Nat × Nat) := none) : State :=
  { w1 with crews := [c], cores := [(0, { tlb := [leaf1], first := [(0, [leaf1])], cyc, running })] }

/-- MatrixInstructionsOfOneTeamAct: MLDT at a multiple of 256 and not, MFENCE free and behind a store through P, MWAITA with
nothing and with an operation on the name, and streams with room at their port and without. -/
theorem witness_matrix_one : checkV w1 team1 0x1C0 (fields 0 448 64 4 0 0 0 none) = none ∧
    (syncOff (fields 0 448 64 4 0 0 0 none) team1).toNat % 256 = 0 ∧ (syncOff (fields 0 448 64 5 0 0 0 none) team1).toNat % 256 ≠ 0 ∧
    checkV w1 team1 0x1C0 (fields 0 448 64 5 0 0 0 none) = none ∧ checkV w1 team1 0x1C1 (fields 0 0 0 0 0 0 0 none) = none ∧
    w1.ops = [] ∧ (wOp (op1 .store 1 [lane1 0 0x2000]) {}).mfenceOpen team1 = true ∧
    (wOp (op1 .store 1 [lane1 0 0x2000]) {}).poised team1 = true ∧ (wOp (op1 .store 1 [lane1 0 0x2000]) {}).hasEntry team1 [0, 1] = false ∧
    inCrew w1 team1 crew1 0x1C9 (fields 1 0 0 0 0 0 0 none) = true ∧ inCrew (wCrew crewOp) team1 crewOp 0x1C9 (fields 1 0 0 0 0 0 0 none) = true ∧
    inCrew w1 team1 crew1 0x1C8 (fields 480 1 0 0 0 0 0 none) = true ∧ inCrew w1 team1 crew1 0x1CA (fields 480 1 0 0 0 0 0 none) = true ∧
    inCrew (wCrew (crewPort (List.replicate 4 (stream1 0)))) team1 (crewPort (List.replicate 4 (stream1 0))) 0x1C8
      (fields 480 1 0 0 0 0 0 none) = true := by decide +kernel

/-- The fields of MMA, MMAT and MMASP of f32, and the two members at one, the second having arrived. -/
def mulF (d b : Nat) : VFields := fields d 0 b 0 8 0 8 none
def member1 : Team := { team1 with fenced := true, regs := 128, s := [(0, 0xFFFFFFFF)] }
def member2 (a : CrewArrival) : Team := { member1 with tid := h2, index := 1, arrived := some a, held := some (.collective, 0) }
/-- Its launch is a twin. -/
def headerT : List Dword := header1.set 0 (header1.getD 0 0 + dw (2 ^ 20))
def wMem (c : Crew) (a : CrewArrival) : State :=
  { world h1 [member1, member2 a, sup1] with crews := [c], launches := [launchS, { launch1 with header := headerT }] }
def bound2 : Crew := { crew1 with names := [(2, some 0), (3, some 1)] }

/-- Every conjunct of LastArrival, as a computation. -/
def lastArrival (s : State) (t : Team) (c : Crew) (op : Nat) (f : VFields) (ms : List (Team × CrewArrival)) : Bool :=
  inCrew s t c op f && decide (c.broken = false ∧ ms.length = c.size ∧ s.members c = ms.map Prod.fst) &&
    decide (ms.map fun m => m.1.tid).Nodup && decide ((t, arrivalOf t op f) ∈ ms) &&
    ms.all fun m => decide (s.team? m.1.tid = some m.1) && m.1.running && decide (m.1.dying = none) && decide (m.1.late = none) &&
      decide (m.1.stepping = none) && !m.1.leaveAtEnd && !m.1.clauseYield && !s.isSup m.1 &&
      decide (m.1.tid ≠ t.tid → m.1.arrived = some m.2)

theorem lastArrival_of {s : State} {t : Team} {c : Crew} {op : Nat} {f : VFields} {ms : List (Team × CrewArrival)}
    (h : lastArrival s t c op f ms = true) : LastArrival s t c op f ms ∧ ∀ m ∈ ms, s.isSup m.1 = false := by
  simp only [lastArrival, Bool.and_eq_true, decide_eq_true_eq, List.all_eq_true, Bool.not_eq_true'] at h
  obtain ⟨⟨⟨⟨h1, h2⟩, h3⟩, h4⟩, h5⟩ := h
  refine ⟨⟨inCrew_of h1, h2, h3, h4, fun m hm => ?_⟩, fun m hm => (h5 m hm).1.2⟩
  obtain ⟨⟨⟨⟨⟨⟨⟨⟨a, b⟩, c'⟩, d⟩, e⟩, f'⟩, g⟩, -⟩, i⟩ := h5 m hm
  exact ⟨a, b, c', ⟨d, e, f', g⟩, i⟩

/-- The last arrival at an instruction, agreeing or with another NBV. -/
def arrives (c : Crew) (op : Nat) (f : VFields) (other : CrewArrival → CrewArrival := id) : Bool :=
  let a := arrivalOf member1 op f
  lastArrival (wMem c (other a)) member1 c op f [(member1, a), (member2 (other a), other a)]

/-- CollectiveIsAcceptedWithItsCrew: a broken crew, a member still missing, members that disagree, and each instruction
accepted; the extents of the images. -/
theorem witness_collective :
    inCrew (wCrew { crew1 with broken := true }) team1 { crew1 with broken := true } 0x1C6 (fields 1 0 0 0 0 0 0 none) = true ∧
    inCrew w1 team1 crew1 0x1C6 (fields 1 0 0 0 0 0 0 none) = true ∧ (∀ u ∈ w1.teams, u.plot = crew1.plot → u.index = crew1.first + 1 → u.tid ≠ team1.tid ∧ u.arrived = none) ∧
    arrives bound2 0x1C2 (mulF 2 0) (fun a => { a with nbv := 1 }) = true ∧ arrives bound2 0x1C2 (mulF 2 0) = true ∧
    arrives bound2 0x1C3 (mulF 2 0) = true ∧ arrives bound2 0x1C4 (mulF 2 9) = true ∧
    arrives bound2 0x1C6 (fields 2 0 0 0 0 0 0 none) = true ∧ arrives crew1 0x1C7 (fields 1 0 0 0 0 0 0 none) = true ∧
    (spRead none bound2.names 2).isSome = true ∧ (spRead none bound2.names 3).isSome = true ∧ plot1.poison = [] ∧
    (arrivalOf member1 0x1C4 (mulF 1 9)).bitmap % 64 = 0 ∧ (arrivalOf member1 0x1C4 (mulF 1 9)).bitmap + 16 * matrixK 8 8 ≤ (member1.seg 1).limit.toNat ∧
    member1.aOffset + 16384 ≤ (member1.seg 1).limit.toNat := by decide +kernel

/-- A finished operation of the crew, with its images. -/
def crewDone (A : List Byte) (B : List (Word × Word)) : Crew :=
  { crewOp with ops := [{ mma1 with started := true, step := 2, imgA := A, imgB := B }] }

theorem retires1 (A : List Byte) (B : List (Word × Word)) (hA : A.length = 16384) (hB : B.length = 4096) :
    Retires (wCrew (crewDone A B) 5 (some (3, 5))) (crewDone A B) { mma1 with started := true, step := 2, imgA := A, imgB := B } 0 plot1
      [team1, team2] :=
  ⟨rfl, ⟨rfl, rfl, .inl rfl⟩, rfl, ⟨by show ceilDiv (matrixK 8 8) 32 ≤ 2; decide, by show 0 ≤ 5; decide⟩, ⟨rfl, rfl, rfl⟩,
    by show 0 < matrixK 8 8; decide, rfl, ⟨hA, hB, fun h => by cases h⟩, ⟨rfl, by decide⟩, ⟨rfl, by decide +kernel⟩,
    List.forall_mem_cons.2 ⟨⟨rfl, rfl⟩, List.forall_mem_cons.2 ⟨⟨rfl, rfl⟩, fun _ h => by cases h⟩⟩⟩

/-- MatrixOperationRetiresWithItsResult. -/
theorem witness_retires : ∃ s c o k p hs, Retires s c o k p hs :=
  ⟨_, _, _, _, _, _, retires1 (List.replicate 16384 0) (List.replicate 4096 (0, 0)) List.length_replicate List.length_replicate⟩

/-- MatrixEngineTakesItsSteps: an engine that is idle, one at a step, and a stream with a row to produce. -/
theorem witness_engine : ((wCrew crewOp).core 0).running = none ∧ ((wCrew crewOp).core 0).slaved = none ∧
    (spRead {} (crewPort [stream1 64, stream1 3]).tiles 0).poison = [] ∧ (wCrew crewOp).startable 0 = [crewOp] ∧
    (wCrew crewOp).crew? 3 = some crewOp ∧ mma1.step < mma1.steps ∧ (wCrew crewOp 5 (some (3, 5))).runningOp 0 = some (crewOp, mma1) ∧
    mma1.readyAt ≤ 5 ∧ (wCrew (crewPort [stream1 64, stream1 3])).crewSaved (crewPort [stream1 64, stream1 3]) = false ∧
    spRead [] (crewPort [stream1 64, stream1 3]).ports 0 = [stream1 64] ++ stream1 3 :: [] ∧ (stream1 3).vals.isSome = true ∧
    (stream1 3).readyAt ≤ ((wCrew (crewPort [stream1 64, stream1 3])).core ((wCrew (crewPort [stream1 64, stream1 3])).crewCore
      (crewPort [stream1 64, stream1 3]))).cyc := by decide +kernel

/-- A gather's and a scatter's command at its first entry, through G over two lanes, its indices captured. -/
def glean1 (scatter : Bool) (queue : Option Nat) : Glean :=
  { id := 5, origin := origin1, width := 32, scatter, queue, data := List.replicate 32 7, seg := 0, segBase := 0, segLimit := dw (2 ^ 56)
    base := 0x2000, scale := 2, index := some (List.range 32 |>.map (BitVec.ofNat 32)), lanes := [0, 3] }
/-- A team with a command, and its data queue. -/
def gleaning (g : Glean) (entries : List (List Word)) : Team :=
  { team1 with gleans := [g], queues := [{ code := 384, producerGleaner := !g.scatter, entries }] }
def wGlean (t : Team) : State := { wT t with arg := { tid := h1 } }

/-- Every conjunct of Gleans that can be computed. -/
def gleansNow (s : State) (t : Team) (g : Glean) (ix : List Word) : Bool :=
  decide (s.team? s.arg.tid = some t ∧ t.monitor = .none_ ∧ g.origin.tid = t.tid) && decide (t.gleans = [g]) &&
  decide (g.stopped = false ∧ g.ends = false ∧ g.pending = none ∧ s.engineReady g.origin g.id = true) && decide (s.orphans = []) &&
  decide (g.indexQueue = none ∧ ix = g.index.getD []) && decide ((g.lanes).Pairwise (· < ·)) &&
  (actingLanes g ix).all fun l => decide ((gleanOff g ix g.next l).toNat + 4 ≤ g.segLimit.toNat)

/-- GleanerMovesItsEntries: a gather with room in its queue, and scatters from registers and from a queue. -/
theorem witness_gleaner_moves : ∀ g q, (g = glean1 false (some 384) ∧ q = []) ∨ (g = glean1 true none ∧ q = []) ∨
    (g = glean1 true (some 384) ∧ q = [List.replicate 32 9]) →
    Gleans (wGlean (gleaning g q)) (gleaning g q) g (List.range 32 |>.map (BitVec.ofNat 32)) (fun l => (false, 0x2000 + 4 * l)) := by
  have key : ∀ g q, gleansNow (wGlean (gleaning g q)) (gleaning g q) g (List.range 32 |>.map (BitVec.ofNat 32)) = true →
      g.seg = 0 → (∀ l ∈ actingLanes g (List.range 32 |>.map (BitVec.ofNat 32)), l < 32 ∧
        (g.segBase + gleanOff g (List.range 32 |>.map (BitVec.ofNat 32)) g.next l).toNat = 0x2000 + 4 * l) → g.origin = origin1 →
      Gleans (wGlean (gleaning g q)) (gleaning g q) g (List.range 32 |>.map (BitVec.ofNat 32)) (fun l => (false, 0x2000 + 4 * l)) := by
    intro g q h hs hl ho
    simp only [gleansNow, Bool.and_eq_true, decide_eq_true_eq, List.all_eq_true] at h
    obtain ⟨⟨⟨⟨⟨⟨h1, h2⟩, h3⟩, h4⟩, h5⟩, h6⟩, h7⟩ := h
    have hq : (wGlean (gleaning g q)).plot? g.origin.plot = some plot1 := by rw [ho]; rfl
    refine ⟨h1, ⟨[], h2, fun x hx => by cases hx⟩, h3, h4, ⟨rfl, fun p hp => ?_⟩, .inl h5, h6, h7, fun l hm => ?_⟩
    · cases hq.symm.trans hp; decide
    obtain ⟨hl1, hl2⟩ := hl l hm
    rw [hl2, hs, ho]
    have hp : ∀ m < 32, tlbFind (w1.firstTlb origin1.port) 0 (0x2000 + 4 * m) = some leaf1 ∧
        leafCheck w1 leaf1 (0x2000 + 4 * m) .read = .ok (0x2000 + 4 * m) false ∧
        leafCheck w1 leaf1 (0x2000 + 4 * m) .write = .ok (0x2000 + 4 * m) false ∧
        (0x2000 + 4 * m) % 32 + 4 ≤ 32 := by decide +kernel
    obtain ⟨p1, p2, p3, p4⟩ := hp l hl1
    refine ⟨by decide, p4, fun h => (by cases h), fun _ => ⟨rfl, fun _ => rfl, leaf1, false, p1, ?_⟩⟩
    cases g.scatter
    · exact p2
    · exact p3
  rintro g q (⟨rfl, rfl⟩ | ⟨rfl, rfl⟩ | ⟨rfl, rfl⟩) <;> exact key _ _ (by decide +kernel) rfl (by decide +kernel) rfl

/-- Every conjunct of GleanReady, as a computation for captured indices or an affine stream. -/
def gleanReady (i : Instr) (s : State) (t : Team) : Bool :=
  match gleanRule s t i with
  | none => false
  | some (op, f, g) => s.poised t && decide (checkV s t op f = none) && decide (t.acquireFault = none) &&
    decide (s.plot? t.plot = some plot1) && decide (t.gleans.length < 16) &&
    (match g.queue with
      | none => true
      | some q => match t.queue? q with
        | none => decide (t.queues.length < 4 ∧ s.roomLacks t = false)
        | some x => decide (x.producerGleaner = !g.scatter)) &&
    (match g.indexQueue with | none => true | some q => (t.queue? q).any fun x => x.producerGleaner) &&
    (match g.index with
      | none => true
      | some ix => (actingLanes g ix).all fun l => decide ((gleanOff g ix 0 l).toNat + 4 ≤ g.segLimit.toNat)) &&
    (!g.affine || (List.range g.entries).all fun n => g.lanes.all fun l =>
      decide (0 ≤ g.base.toInt + n * g.stride + 4 * l) && decide (g.base.toInt + n * g.stride + 4 * l + 4 ≤ g.segLimit.toNat)) &&
    decide (0 < g.entries) && decide (g.seg ≠ 3) && decide (t.lanes ≠ [])

theorem ready_of_gleanReady {i : Instr} {s : State} {t : Team} (h : gleanReady i s t = true) :
    ∃ op f g, gleanRule s t i = some (op, f, g) ∧ GleanReady s t op f g := by
  unfold gleanReady at h
  split at h
  · contradiction
  · next op f g hg =>
    simp only [Bool.and_eq_true, decide_eq_true_eq] at h
    obtain ⟨⟨⟨⟨⟨⟨⟨⟨⟨⟨⟨h1, h2⟩, h3⟩, h4⟩, h5⟩, h6⟩, h7⟩, h8⟩, h9⟩, h10⟩, h11⟩, h12⟩ := h
    refine ⟨op, f, g, hg, ⟨h1, h2, h3, fun p hp => ?_, h5, fun q hq => ?_, fun q hq => ?_, fun ix hx l hl => ?_, fun ha n hn l hl => ?_,
      h10, fun _ h => absurd h h11, fun _ _ => h12⟩⟩
    · rw [h4] at hp; cases hp; rfl
    · rw [hq] at h6
      cases hx : t.queue? q <;> simp only [hx, decide_eq_true_eq] at h6 ⊢ <;> exact h6
    · rw [hq] at h7
      simpa [Option.any_eq_true] using h7
    · rw [hx] at h8
      simpa using List.all_eq_true.1 h8 l hl
    · simp only [ha, Bool.not_true, Bool.false_or] at h9
      have := List.all_eq_true.1 (List.all_eq_true.1 h9 n (List.mem_range.2 hn)) l hl
      simpa using this

/-- Indices of zero in v9, and a queue with a producer. -/
def gatherer : Team := { team1 with queues := [{ code := 385, producerGleaner := true, entries := [List.replicate 32 0] }] }
def full16 : Team := { gatherer with gleans := List.replicate 16 (glean1 false (some 385)) }

/-- GleanerCommandIsHandedOver: GATHER with captured and with queued indices, SCATTER of registers and from a new queue, an
affine GLCFG; a queue bound the other way; a seventeenth command. -/
theorem witness_gleaner_hands : gleanReady (.gather (fields 384 9 0 4 0 0 0 none)) w1 team1 = true ∧
    gleanReady (.gather (fields 384 385 0 4 0 0 0 none)) (wT gatherer) gatherer = true ∧
    gleanReady (.scatter (fields 8 9 0 4 0 0 0 none)) w1 team1 = true ∧
    gleanReady (.scatter (fields 384 9 0 4 0 0 0 none)) w1 team1 = true ∧
    gleanReady (.glcfg (fields 384 4 5 448 0 0 0 none)) w1 team1 = true ∧
    ((gleanRule (wT gatherer) gatherer (.scatter (fields 385 9 0 4 0 0 0 none))).any fun x => decide (x.2.2.queue = some 385) && x.2.2.scatter &&
      decide (checkV (wT gatherer) gatherer x.1 x.2.1 = none)) = true ∧ (gatherer.queue? 385).any (fun x => x.producerGleaner) = true ∧
    (wT full16).poised full16 = true ∧ checkV (wT full16) full16 0x120 (fields 385 9 0 4 0 0 0 none) = none ∧
    16 ≤ full16.gleans.length := by decide +kernel

/-! ## Hypotheses that are met: baler, confluence engine, routing counters, launches and debugging -/

/-- Dwords in memory at an address. -/
def dwordsMem (va : Nat) (ds : List Nat) : List Host.Cell := memWrite [] va (ds.flatMap (toBytes 8))

/-- The world, with memory, in which every byte of the page stands at its own address. -/
def wM (m : List Host.Cell) (t : Team := team1) : State := { wT t with mem := m }

theorem standsM (m : List Host.Cell) (t : Team) (acc : Acc) {o : Origin} (hc : o.port = 0) (hx : o.ctx = 0) {va : Nat}
    (hv : va < 2 ^ 31) : byteStands (wM m t) o va acc va := stands1 hx (by rw [hc]; rfl) rfl rfl hv acc

/-- The first-level entries of the partition of the team under test. -/
theorem first1 {s : State} (h : s.firstTlb 0 = [leaf1] := by rfl) : s.firstTlb origin1.port = [leaf1] := by
  rw [show origin1.port = 0 by decide +kernel]; exact h

/-- The block of a baler command: one row of 8 columns of f32, and room for 16 values. -/
def baleDwords : List Nat := [0x7000, 0x7100, 0x7200, 0x7300, 2 ^ 32 + 8, 32 * 2 ^ 32 + 16, 0x7400, 3]
/-- The block of a collective: all-reduce, sum, f32, ranks 0 and 1. -/
def collDwords : List Nat := [2 * 2 ^ 48 + 3 * 2 ^ 24 + 8 * 2 ^ 16 + 8 * 2 ^ 8, 4, 0x7000, 0x7100, 0, 0, 0x7200, 9]
/-- A vector word whose vA is a scalar register. -/
def blockF (fmt : Nat) : VFields := fields 0 9 0 0 fmt 0 0 none
/-- A team whose block lies beyond G's limit. -/
def outer : Team := { team1 with segs := spWrite {} segs1 0 { base := 0, limit := 0x6020 } }

/-- EngineCommandIsHandedOver: baler blocks in order and not, collectives' likewise, and a block past the limit. -/
theorem witness_engine_commands :
    (∀ m : List Host.Cell, m = dwordsMem 0x6000 baleDwords ∨ m = dwordsMem 0x6000 collDwords → ∀ op fmt,
      (op = 0x124 ∨ op = 0x125) ∧ fmt = 8 ∨ op = 0x126 ∧ fmt = 0 → BlockReady (wM m) team1 op (blockF fmt) (fun va => va)) ∧
    baleFits .f32 (blockOf (wM (dwordsMem 0x6000 baleDwords)) (fun va => va) 0x6000) ∧
    ¬ baleFits .f32 (blockOf (wM (dwordsMem 0x6000 collDwords)) (fun va => va) 0x6000) ∧
    collFits (blockOf (wM (dwordsMem 0x6000 collDwords)) (fun va => va) 0x6000) ∧
    ¬ collFits (blockOf (wM (dwordsMem 0x6000 baleDwords)) (fun va => va) 0x6000) ∧
    (wT outer).poised outer = true ∧ checkV (wT outer) outer 0x124 (blockF 8) = none ∧ (wT outer).releaseReady outer 3 = true ∧
    (outer.seg 0).limit.toNat < (outer.getS 9).toNat + 64 := by
  refine ⟨fun m hm op fmt ho => ⟨?_, ?_, ⟨rfl, rfl⟩, ?_, by show (team1.getS 9).toNat + 64 ≤ (team1.seg 0).limit.toNat; decide +kernel, ?_,
      sectorwise_self, fun j hj => standsM m team1 .read rfl rfl ?_⟩,
    by unfold baleFits; decide +kernel, by unfold baleFits; decide +kernel, by unfold collFits; decide +kernel,
    by unfold collFits; decide +kernel, by decide +kernel, by decide +kernel, by decide +kernel, by decide +kernel⟩
  · rcases hm with rfl | rfl <;> decide +kernel
  · rcases hm with rfl | rfl <;> obtain ⟨rfl | rfl, rfl⟩ | ⟨rfl, rfl⟩ := ho <;> decide +kernel
  · rcases hm with rfl | rfl <;> decide +kernel
  · show blockVa team1 (blockF 0) % 64 = 0
    decide +kernel
  · show blockVa team1 (blockF 0) + j < 2 ^ 31
    have : blockVa team1 (blockF 0) = 0x6000 := by decide +kernel
    omega

/-- A baler command of that block, and the world in which it runs. -/
def bale1 (unbale : Bool) : Bale :=
  { id := 5, origin := origin1, unbale, fresh := true, fmt := 8, block := 0x6000, fields := baleDwords.map (BitVec.ofNat 64), stage := 1 }
def wBale (k : Bale) : State := { w1 with bales := [k], arg := { a := 5, b := 1 } }

/-- Addresses that the command uses lie within the page. -/
theorem bale1_uses (b : Bool) {va : Nat} (h : baleUses (bale1 b) va) : va < 2 ^ 31 := by
  have key : ∀ b, (∀ r < (bale1 b).rows, (∀ u < (bale1 b).units, ∀ p ∈ (bale1 b).parts r u, p.1 + p.2 ≤ 2 ^ 31) ∧
      fieldD (bale1 b).fields 2 + (bale1 b).mapBytes * r + (bale1 b).mapBytes ≤ 2 ^ 31) ∧
      (∀ i < max (bits (fieldD (bale1 b).fields 5) 31 0) ((bale1 b).start + (bale1 b).kept + (bale1 b).units), (bale1 b).valueAt i + (bale1 b).unit ≤ 2 ^ 31) ∧
      fieldD (bale1 b).fields 3 + (8 * (bale1 b).rows + 8) ≤ 2 ^ 31 ∧ fieldD (bale1 b).fields 6 + 8 ≤ 2 ^ 31 ∧
      (bale1 b).block + 56 + 8 ≤ 2 ^ 31 := by decide +kernel
  obtain ⟨k1, k2, k3, k4, k5⟩ := key b
  rcases h with ⟨r, hr, ⟨u, hu, p, hp, -, h⟩ | ⟨-, h⟩⟩ | ⟨i, hi, -, h⟩ | ⟨-, h⟩ | ⟨-, -, h⟩ | ⟨-, h⟩
  · exact h.trans_le ((k1 r hr).1 u hu p hp)
  · exact h.trans_le (k1 r hr).2
  · exact h.trans_le (k2 i hi)
  · exact h.trans_le k3
  · exact h.trans_le k4
  · exact h.trans_le k5

/-- BalerWorksThroughItsPhases: BALE and UNBALE with a row before them; a command whose commit word cannot be read. -/
theorem witness_baler : (∀ b, BaleRuns (wBale (bale1 b)) (bale1 b) (fun va => va)) ∧
    (∀ b, let k : Bale := { bale1 b with stage := 0, fields := [0x7000, 0x7100, 0x7200, 0x80007300, dw (2 ^ 32 + 8), dw (32 * 2 ^ 32 + 16), 0, 3] }
      ((wBale k).bales.find? fun y => y.id == 5) = some k ∧ (wBale k).engineReady origin1 5 = true ∧ (wBale k).ctx? 0 = some ctx1 ∧
      k.commitAt % 8 = 0 ∧ (wBale k).translate 0 0 k.commitAt .read = .fault { cause := 1, page := 0x80007000, pageSize := 4096 }) := by
  refine ⟨fun b => ⟨by decide +revert +kernel, ⟨rfl, by show 1 < 6; decide⟩, by decide +revert +kernel, ⟨rfl, rfl⟩, by decide +revert +kernel, sectorwise_self,
      fun va h => ?_, fun _ => ?_, fun _ => ?_⟩,
    by decide +kernel⟩
  · exact ⟨stands1 rfl first1 rfl rfl (bale1_uses b h) .read, stands1 rfl first1 rfl rfl (bale1_uses b h) .write⟩
  · exact ⟨by decide +revert +kernel, stands1 rfl first1 rfl rfl (by show fieldD (baleDwords.map (BitVec.ofNat 64)) 6 < _; decide +kernel) _⟩
  · decide +revert +kernel

/-- A collective of four elements between ranks 0 and 1, its group read: on two dies, or both ranks on one die. -/
def coll1 (g : List Nat) (sent : List Nat) (got : List (Nat × List Nat)) : Coll :=
  { id := 5, origin := origin1, block := 0x6000, fields := collDwords.map (BitVec.ofNat 64), flag := some 2, group := some g, sent, got }
def wColl (k : Coll) : State := { w1 with colls := [k], arg := { a := 5 } }

/-- CollectiveSendsReducesAndEnds: a group twice on a die, a member that sends, and one that has every contribution. -/
theorem witness_coll : (∀ g sent got, (g = [0, 0] ∨ g = [0, 256]) ∧ (sent = [] ∧ got = [] ∨ sent = [1, 2, 3, 4] ∧ got = [(1, [5, 6, 7, 8])]) →
      CollRuns (wColl (coll1 g sent got)) (coll1 g sent got) team1 g (fun va => va)) ∧ dieTwice [0, 0] ∧ ¬ dieTwice [0, 256] ∧
    (let k := coll1 [0, 256] [] []
     (wColl k).colls = [k] ∧ k.rank < k.nrank ∧ 2 ≤ k.nrank ∧ 0 < k.size ∧ k.wire = k.srcf ∧ k.got = [] ∧ k.partners = [] ∧ (wColl k).arg.peers = [] ∧
       ∀ i < k.count, ∀ j < k.size, fieldD k.fields 2 + i * k.size + j < 2 ^ 31) ∧
    (let k := coll1 [0, 256] [1, 2, 3, 4] [(1, [5, 6, 7, 8])]
     let l := ((wColl k).meetLocal k).2
     let m := ((wColl k).meetLocal k).1.modColl k.id fun _ => l
     k.sent.length = k.count ∧ (∀ j < k.nrank, (m.member l j).all l.agrees = true) ∧ (∀ j < k.nrank, m.contribution l j = some (([[1, 2, 3, 4], [5, 6, 7, 8]] : List (List Nat)).getD j [])) ∧
       fieldD k.fields 5 = 0 ∧ ∀ q < k.results, ∀ j < k.size, fieldD k.fields 3 + q * k.size + j < 2 ^ 31) := by
  refine ⟨fun g sent got h => ?_, by unfold dieTwice; decide +kernel, by unfold dieTwice; decide +kernel, by decide +kernel, by decide +kernel⟩
  have hw : (coll1 g sent got).block + 56 + 8 ≤ 2 ^ 31 := by show 0x6000 + 56 + 8 ≤ _; decide
  refine ⟨?_, ⟨rfl, rfl, rfl, rfl⟩, ?_, ?_, ⟨rfl, rfl⟩, sectorwise_self, fun j hj => stands1 rfl first1 rfl rfl (by omega) .write⟩
  all_goals obtain ⟨rfl | rfl, ⟨rfl, rfl⟩ | ⟨rfl, rfl⟩⟩ := h <;> decide +kernel

/-- A core whose routing bank is the context's, a team waiting for it, and lanes that name counters. -/
def named1 (x : Nat) : Team := { team1 with v := [(9, (List.range 32).map fun l => (l, BitVec.ofNat 32 x))] }
def wBank (owner : Option Nat) (t : Team) (n : Nat) : State :=
  { wT t with cores := [(0, { tlb := [leaf1], first := [(0, [leaf1])], routingCtx := owner, routing := [(7, BitVec.ofNat 32 n)] })], arg := { a := 0, b := 0 } }
/-- RSNAP's selection in s10: counters from first on. -/
def snapper (first n : Nat) : Team := { team1 with s := [(0, 0xFFFFFFFF), (9, 0x6000), (10, BitVec.ofNat 64 ((n - 1) * 256 + first))] }
def bankWaiter : Team := { team1 with held := some (.routing, 0) }

/-- RoutingCountersCountAndAreTaken: no lane, a slice out of range, another context's bank, counting below and past the
largest value; RSNAP past the last counter and within; a bank to be exchanged. -/
theorem witness_routing :
    checkV (wBank (some 0) (named1 7) 5) (named1 7) 0x128 (fields 0 9 0 0 6 0 0 none) = none ∧ (wT idleTeam).plot? 1 = some plot1 ∧
    checkV (wT idleTeam) idleTeam 0x128 (fields 0 9 0 0 6 0 0 none) = none ∧
    (wBank (some 0) (named1 7) 5).poised (named1 7) = true ∧
    (((named1 300).lanes.map fun l => (named1 300).getV 9 l).all fun x => decide (256 ≤ x.toNat ∧ x ≠ 0xFFFFFFFF)) = true ∧
    (((named1 7).lanes.map fun l => (named1 7).getV 9 l).all fun x => decide (x.toNat < 256 ∧ x ≠ 0xFFFFFFFF)) = true ∧
    ((wBank (some 1) (named1 7) 5).core 0).routingCtx ≠ some 0 ∧ (wBank (some 1) (named1 7) 5).poised (named1 7) = true ∧
    (∀ i < 256, (spRead (0 : Word) ((wBank (some 0) (named1 7) 5).core 0).routing i).toNat ≤ 0xFFFFFFFE - 32) ∧
    (spRead (0 : Word) ((wBank (some 0) (named1 7) 0xFFFFFFFE).core 0).routing 7).toNat = 0xFFFFFFFE ∧
    checkV (wBank (some 0) (snapper 7 4) 5) (snapper 7 4) 0x129 (fields 0 9 10 0 0 0 4 none) = none ∧
    (wBank (some 0) (snapper 7 4) 5).poised (snapper 7 4) = true ∧ (wBank (some 0) (snapper 7 4) 5).releaseReady (snapper 7 4) 3 = true ∧
    (wBank (some 0) (snapper 7 4) 5).snaps = [] ∧ field ((snapper 7 4).getS 10) 7 0 + field ((snapper 7 4).getS 10) 15 8 + 1 = 11 ∧
    256 < field ((snapper 255 4).getS 10) 7 0 + field ((snapper 255 4).getS 10) 15 8 + 1 ∧
    (wBank (some 1) bankWaiter 5).ctx? 0 = some ctx1 ∧ bankWaiter ∈ (wBank (some 1) bankWaiter 5).teams ∧
    ((wBank (some 1) bankWaiter 5).core 0).routingCtx ≠ some 0 := by decide +kernel

/-! ## Hypotheses that are met: launches, pre-emption and the active set -/

/-- A header that breaks no rule, and one of a launch of lower priority; a version that is not 2; a gang of two plots. -/
def headerV : List Dword := header1.set 5 (dw (64 * 2 ^ 32 + 0x111))
def headerBad : List Dword := headerV.set 0 (headerV.getD 0 0 + dw (2 ^ 56))
def headerW : List Dword := headerV.set 2 (dw (9 + 3 * 2 ^ 32))
def headerGang : List Dword := headerV.set 0 (headerV.getD 0 0 + dw (2 ^ 21))
def headerHigh : List Dword := headerV.set 0 (headerV.getD 0 0 + dw (2 * 2 ^ 53))
/-- The header in memory at 0x6000, and a dependence block at 0x7000. -/
def wHdr (h : List Dword) : State :=
  { w1 with mem := memWrite (memWrite [] 0x6000 (h.flatMap fun x => toBytes 8 x.toNat)) 0x7000 ([0x7800, 5, 0, 0, 0].flatMap (toBytes 8)) }
/-- A team whose s9 names the header and s12 the block. -/
def launcher (block : Dword) : Team := { team1 with s := [(0, 0xFFFFFFFF), (5, 7), (9, 0x6000), (12, block)] }
def wLau (h : List Dword) (block : Dword) : State := { wHdr h with teams := [launcher block, team2, sup1] }
/-- The words of LAUNCH and LAUNCHD. -/
def launchF : VFields := fields 10 9 5 0 0 0 0 none
def launchdF : VFields := fields 10 9 5 12 0 0 0 none
/-- As many launches wait in queue 7 as it holds. -/
def wFullQ : State :=
  { wLau headerV 0x7000 with
    launches := launchS :: launch1 :: (List.range 32).map fun i => { launch1 with lid := 10 + i, queue := 7, seq := i + 2, phase := .queued } }

theorem breaks_codes {s : State} {c n : Nat} {h : List Dword} {g : Prop} (hb : breaks s c h g n) :
    n = 2 ∨ n = 3 ∨ n = 4 ∨ n = 5 ∨ n = 6 ∨ n = 8 ∨ n = 9 ∨ n = 10 := by
  unfold breaks at hb
  split at hb <;> first | contradiction | decide

theorem sound_header : ∀ n, ¬ breaks (wLau headerV 0x7000) 0 (dwordsAt (wLau headerV 0x7000) (fun va => va) 0x6000 16) True n := by
  intro n h
  have hn := breaks_codes h
  have hd : dwordsAt (wLau headerV 0x7000) (fun va => va) 0x6000 16 = headerV := by decide +kernel
  rw [hd] at h
  rcases hn with rfl | rfl | rfl | rfl | rfl | rfl | rfl | rfl <;> simp only [breaks] at h
  case inr.inl =>
    rcases h with h | ⟨-, k, h2, h5, h⟩
    · revert h; decide +kernel
    · interval_cases k <;> revert h <;> decide +kernel
  all_goals revert h; decide +kernel

/-- A launch instruction reads the header, in either form. -/
theorem ready_launch : ∀ h : List Dword, (h = headerV ∨ h = headerBad) → ∀ op f, (op = 0x280 ∧ f = launchF ∨ op = 0x281 ∧ f = launchdF) →
    ∀ b : Dword, (b = 0x7000 ∨ b = 0x7004) → LaunchReady (wLau h b) (launcher b) op f ctx1 (fun va => va) := by
  intro h hh op f hf b hb
  refine ⟨?_, ?_, rfl, ?_, ⟨?_, rfl⟩, ?_, sectorwise_self, fun j hj => stands1 rfl
    (by rw [show (launcher b).origin.port = 0 by show 8 * coreOf h1 + partOf h1 = 0; decide +kernel]; rfl) rfl rfl ?_ .read⟩
  case refine_6 =>
    have : ((launcher b).getS f.va.toNat).toNat = 0x6000 := by
      rcases hb with rfl | rfl <;> obtain ⟨-, rfl⟩ | ⟨-, rfl⟩ := hf <;> decide +kernel
    omega
  all_goals rcases hh with rfl | rfl <;> rcases hb with rfl | rfl <;> obtain ⟨rfl, rfl⟩ | ⟨rfl, rfl⟩ := hf <;> decide +kernel

/-- LaunchIsValidatedAndQueued: a header that breaks a rule, a sound one, a full queue, and blocks aligned and not. -/
theorem witness_launch : breaks (wLau headerBad 0x7000) 0 (dwordsAt (wLau headerBad 0x7000) (fun va => va) 0x6000 16) True 2 ∧
    (∀ m < 2, ¬ breaks (wLau headerBad 0x7000) 0 (dwordsAt (wLau headerBad 0x7000) (fun va => va) 0x6000 16) True m) ∧
    ¬ 32 ≤ ((wLau headerV 0x7000).queued 0 7).length ∧ 32 ≤ (wFullQ.queued 0 7).length ∧ wFullQ.poised (launcher 0x7000) = true ∧
    hdrD (dwordsAt (wLau headerV 0x7000) (fun va => va) 0x7000 5) 2 = 0 ∧ (0x7004 : Dword).toNat % 8 ≠ 0 ∧
    ((launcher 0x7000).getS 12).toNat % 128 = 0 ∧ ((launcher 0x7004).getS 12).toNat % 128 ≠ 0 ∧
    checkV (wLau headerV 0x7004) (launcher 0x7004) 0x280 (fields 10 12 5 0 0 0 0 none) = none := by
  refine ⟨?_, ?_, by decide +kernel⟩
  · simp only [breaks]; decide +kernel
  · intro m hm hb
    have := breaks_codes hb
    omega

/-- A launch that waits for its fence, its extents in the header or through GRIDA, for an acquire at `.dom`. -/
def fenced (h : List Dword) (grida : Dword) : Launch :=
  { launch1 with lid := 5, header := h, phase := .waitingFence 0x7000 [0x7800, 5, grida, 4, 0], placed := 0, living := 0 }
/-- The fence word at 0x7800, and two dwords of extents at 0x7900. -/
def wFence (h : List Dword) (v : Nat) (grida : Dword := 0) (e : Nat := 0) : State :=
  { w1 with
    launches := [launchS, fenced h grida], arg := { a := 0, b := 5 }
    mem := memWrite (memWrite [] 0x7800 (toBytes 8 v)) 0x7900 (toBytes 8 e ++ toBytes 8 (1 + 2 ^ 32)) }
/-- The launch's header after the fence. -/
def headerOf (s : State) (h : List Dword) (grida : Nat) : List Dword := h.take 2 ++ dwordsAt s (fun va => va) grida 2 ++ h.drop 4
/-- What some extents make of a launch: one passes its width, one is 0. -/
def wideBy (h : List Dword) : Bool := (List.range 6).any fun k => decide (2 ≤ k ∧ 2 ^ hW h k < hExt h k)
def bareBy (h : List Dword) : Bool := (List.range 6).any fun k => decide (2 ≤ k ∧ hExt h k = 0)

/-- Every byte of the page stands for the headgate. -/
theorem fence_stands {s : State} (ht : s.firstTlb 0 = [leaf1]) (hm : s.moduleNumber = 0) (hp : s.poison = []) {va : Nat} (h : va < 0x8000)
    (acc : Acc) : byteStands s (gateOrigin ctx1) va acc va :=
  stands1 rfl (by rw [show (gateOrigin ctx1).port = 0 by decide +kernel]; exact ht) hm hp (by omega) acc

/-- FenceMakesALaunchEligible: below the value, at it, behind a tagged line; extents of the header sound, past their width and 0;
extents at GRIDA sound, past their width, 0, and on no page; and no core for it, and for a gang. -/
theorem witness_fence_met : (∀ h v g e, isLaunch (wFence h v g e) (fenced h g) ∧ (wFence h v g e).ctx? 0 = some ctx1 ∧
      ∀ va < 0x8000, ∀ acc, byteStands (wFence h v g e) (gateOrigin ctx1) va acc va) ∧
    ofBytes (bytesAt (wFence headerV 4) (fun va => va) 0x7800 8) = 4 ∧ ofBytes (bytesAt (wFence headerV 5) (fun va => va) 0x7800 8) = 5 ∧
    (wFence headerV 5).fenceTagged ctx1 0x7800 4 = false ∧
    ({ wFence headerV 5 with cores := [(0, { first := [(0, [leaf1])], buffer := [write1] })], tags := [(lineOf 0x7800, (0, 1))] } : State).fenceTagged
      ctx1 0x7800 4 = true ∧
    wideBy headerW = true ∧ wideBy headerV = false ∧ bareBy headerV = false ∧
    (∀ e, e = 2 + 3 * 2 ^ 32 → dwordsAt (wFence headerV 5 0x7900 e) (fun va => va) 0x7900 2 = [dw e, dw (1 + 2 ^ 32)] ∧
      wideBy (headerOf (wFence headerV 5 0x7900 e) headerV 0x7900) = false ∧ bareBy (headerOf (wFence headerV 5 0x7900 e) headerV 0x7900) = false) ∧
    wideBy (headerOf (wFence headerV 5 0x7900 9) headerV 0x7900) = true ∧
    wideBy (headerOf (wFence headerV 5 0x7900 2) headerV 0x7900) = false ∧ bareBy (headerOf (wFence headerV 5 0x7900 2) headerV 0x7900) = true ∧
    (fenced headerV 0x7900).living = 0 ∧ (wFence headerV 5 0x7900 2).launchOpen 0 5 = false ∧ hdrD headerV 14 = 0 ∧
    (∃ f, (wFence headerV 5 0x80007000).translate (gateOrigin ctx1).port 0 0x80007000 .read = .fault f) ∧
    hGang headerV = false ∧ (wFence headerV 5).couldHold 0 headerV 0 = true ∧ hGang headerGang = true ∧
    (wFence headerGang 5).gangRoom 0 headerGang = true ∧ (wFence headerGang 5).couldHold 0 headerGang 0 = true ∧
    ({ wFence headerGang 5 with coresets := [] } : State).gangRoom 0 headerGang = false ∧
    ((List.range Config.cores).all fun d => !({ wFence headerV 5 with coresets := [] } : State).couldHold 0 headerV d) = true := by
  refine ⟨fun h v g e => ⟨rfl, rfl, fun va hv acc => fence_stands rfl rfl rfl hv acc⟩, by decide +kernel, by decide +kernel, by decide +kernel,
    by decide +kernel, by decide +kernel, by decide +kernel, by decide +kernel, by rintro e rfl; decide +kernel, by decide +kernel,
    by decide +kernel, by decide +kernel, rfl, by decide +kernel, by decide +kernel,
    ⟨{ cause := 1, page := 0x80007000, pageSize := 4096 }, by decide +kernel⟩, by decide +kernel⟩

/-- A launch in a phase beside a head launch of higher priority that waits. -/
def wPhase (l : Launch) (more : List Launch) (gang : Option (Nat × Nat)) (cyc : Nat := 0) : State :=
  { w1 with launches := l :: launchS :: more, gang, arg := { a := 0, b := l.lid }, cores := [(0, { tlb := [leaf1], first := [(0, [leaf1])], cyc })] }
def launchP (h : List Dword) (phase : LaunchPhase) (lid : Nat) : Launch :=
  { launch1 with lid, header := h, phase, placed := 0, living := 0, seq := lid }
/-- A core is the one of R328. -/
def isChosen (s : State) (h : List Dword) (core : Nat) (leaves : Nat → Bool) : Bool :=
  decide (core < Config.cores) && s.fits 0 h core && leaves core &&
    (List.range Config.cores).all fun d => !(s.fits 0 h d && leaves d) || decide (s.placeKey h core ≤ s.placeKey h d)

/-- PlotsArePlacedAndGangsReserved: a plot to place, a gang's first place and its last, an abort and a sticky gang. -/
theorem witness_placement :
    (let l := launchP headerV .queued 5
     let s := wPhase l [launch1] none
     isLaunch s l ∧ s.ctx? 0 = some ctx1 ∧ s.hasTurn l = true ∧ s.aborters = [] ∧ l.killed = false ∧
       isChosen s headerV 1 (s.leaves l) = true ∧ (takeSlots (hTeams headerV) (s.usedOn (hCores headerV 1))).isSome = true) ∧
    (let l := launchP headerGang (.reserving []) 5
     let s := wPhase l [launch1] (some (0, 5))
     isLaunch s l ∧ s.aborters = [] ∧ l.killed = false ∧ isChosen s headerGang 1 (s.gangLeaves l) = true ∧
       (takeSlots (hTeams headerGang) (s.usedOn (hCores headerGang 1))).isSome = true ∧ 0 + 1 < hPlots l.header) ∧
    (let l := launchP headerGang (.reserving [(1, [(0, 0), (1, 0)]), (1, [(2, 0), (3, 0)]), (1, [(0, 1), (1, 1)]), (1, [(2, 1), (3, 1)]),
        (1, [(0, 2), (1, 2)])]) 5
     let s := wPhase l [launch1] (some (0, 5))
     isLaunch s l ∧ s.aborters = [] ∧ l.killed = false ∧ hPlots l.header ≤ 5 + 1 ∧
       ∃ core < 2, isChosen s headerGang core (s.gangLeaves l) = true ∧
         (takeSlots (hTeams headerGang) (s.usedOn (hCores headerGang core))).isSome = true) ∧
    (∀ a < 5, let l := { launchP headerGang (.reserving []) 5 with aborts := a }
     let s := wPhase l [launchP headerHigh .queued 6] (some (0, 5))
     isLaunch s l ∧ (launchP headerHigh .queued 6) ∈ s.heads ∧ hPrio l.header < hPrio headerHigh ∧ (0, 6) ∉ s.gangHeads) := by
  unfold isLaunch
  decide +kernel

/-- Teams of the launch, PREEMPTED, one of them parked or its wake come. -/
def saved1 : Team := { team1 with preempted := true }
def saved2 (run : Run) : Team := { team2 with preempted := true, run }
/-- The launch being saved, on one core or on two. -/
def savingOne : State := wPhase { launch1 with phase := .saving } [] none
def savingTwo : State :=
  { savingOne with
    plots := [plot1, { plot1 with id := 2, core := 1, index := 1 }]
    teams := [{ team1 with stop := some (.stopping 7 0 0) }, team2, { team1 with tid := mkHandle 1 0 0 1, plot := 2 }, sup1] }

/-- LaunchIsPreemptedAndRestored: a head launch before and after its 32,000 cycles, with room for the image and without; a launch
being saved on one core and on two, one to restore. -/
theorem witness_preempt :
    (∀ cyc, cyc = 31999 ∨ cyc = 32000 → let l := launchP headerHigh .queued 5
     let s := wPhase l [launch1] none cyc
     isLaunch s l ∧ isLaunch s launch1 ∧ s.isHead l = true ∧ s.victims l = [launch1] ∧ s.imageFits launch1 = true ∧
       ({ s with ctxs := [{ ctx1 with saveSize := 0x10000 }] } : State).imageFits launch1 = false ∧
       ({ s with ctxs := [{ ctx1 with saveSize := 0x10000 }] } : State).victims l = [launch1]) ∧
    (let l := { launch1 with phase := .saving }
     (isLaunch savingOne l ∧ isLaunch savingTwo l) ∧ (∀ t ∈ savingOne.teams, ofLaunch t l = true → goesAlong t ∧ savingOne.savable t = true) ∧
     (∀ t ∈ savingTwo.teams, t.plot = 1 → goesAlong t ∧ savingTwo.savable t = true) ∧
     (∀ k ∈ savingTwo.crews, savingTwo.crewRuns k = none) ∧ savingTwo.arms = [] ∧ savingTwo.arg.c = 0 ∧
     ∃ p ∈ savingTwo.plots, p.core ≠ 0 ∧ p.saved = false ∧ ∃ t ∈ savingTwo.teams, t.plot = p.id ∧ goesAlong t) ∧
    (∀ run, run = .parked .retry none ∨ run = .parked .retry (some .done) → let l := { launch1 with phase := .preempted }
     let s := { wPhase l [] none with teams := [saved1, saved2 run, sup1], plots := [{ plot1 with saved := true }] }
     isLaunch s l ∧ s.ctx? 0 = some ctx1 ∧ s.hasTurn l = true ∧ s.restorable l = true ∧ s.before l = [] ∧ l.living ≠ 0 ∧
       (s.teams.map Team.tid).Nodup ∧ l.image = [] ∧ ∀ t ∈ s.teams, ofLaunch t l = true → t.preempted = true ∧ t.deferred = [] ∧
         t.stop = none ∧ t.dying = none ∧ (t.woken = true → t.run = .parked .retry (some .done))) := by
  refine ⟨?_, ⟨by unfold isLaunch; decide +kernel, fun t ht ho => ⟨?_, ?_⟩, fun t ht hp => ⟨?_, ?_⟩, by decide +kernel, rfl, rfl,
    { plot1 with id := 2, core := 1, index := 1 }, by decide +kernel, by decide, rfl, { team1 with tid := mkHandle 1 0 0 1, plot := 2 },
    by decide +kernel, rfl, fun d h => by cases h⟩, ?_⟩
  · rintro cyc (rfl | rfl) <;> unfold isLaunch <;> decide +kernel
  · have : t.dying = none := by revert t; decide +kernel
    intro d h; rw [this] at h; cases h
  · revert t; decide +kernel
  · have : t.dying = none := by revert t; decide +kernel
    intro d h; rw [this] at h; cases h
  · revert t; decide +kernel
  · rintro run (rfl | rfl) <;> unfold isLaunch <;> decide +kernel

/-- A partition with places, and one whose eight are taken. -/
def actor (i : Nat) : Team := { team1 with tid := mkHandle 0 0 (10 + i) 1, since := i }
def wPlaces (n cyc : Nat) (t : Team) : State :=
  { world h2 (t :: (List.range n).map actor) with cores := [(0, { tlb := [leaf1], first := [(0, [leaf1])], cyc })], arg := { tid := t.tid } }

/-- PlacesGoToTheLongestWaiting: promotion and forced promotion, a swap, and a forced place behind a team that is held. -/
theorem witness_places : (wPlaces 1 0 team2).team? h2 = some team2 ∧ (wPlaces 1 0 team2).promotable 0 (partOf h2) = [team2] ∧
    (wPlaces 1 0 team2).placeFree 0 (partOf h2) = true ∧ (wPlaces 1 0 team2).eligible team2 = true ∧
    team2.since + 2048 ≤ (wPlaces 1 2048 team2).now team2 ∧ (wPlaces 1 2048 team2).promotable 0 (partOf h2) = [team2] ∧
    (let t : Team := { team1 with held := some (.flags 4, 0), flags := [(2, { count := 1 })] }
     let s : State := { wT t with cores := [(0, { cyc := 96 })], arg := { tid := h1 } }
     s.team? h1 = some t ∧ t.isActive = true ∧ (Hold.flags 4).swaps = true ∧ s.waitStands t (.flags 4) = true ∧ 0 + 96 ≤ s.now t ∧ s.promotable 0 (partOf h1) = [team2]) ∧
    (let s := wPlaces Config.activePlaces 3072 team2
     s.team? h2 = some team2 ∧ s.placeFree 0 (partOf h2) = false ∧ actor 0 ∈ s.actives 0 (partOf h2) ∧ team2.isPending = true ∧
       (∀ w ∈ s.actives 0 (partOf h2), w = actor 0 ∨ (actor 0).since < w.since) ∧ s.team? (actor 0).tid = some (actor 0)) := by decide +kernel

/-! ## Hypotheses that are met: debugging -/

/-- The supervisor with values in its registers, beside the team that s20 names. -/
def debugger (regs : Sparse Dword) : Team := { sup1 with s := (0, 0xFFFFFFFF) :: (20, h1.setWidth 64) :: regs }
def haltedTeam : Team := { team1 with stop := some .halted }
def wDbg (u : Team) (regs : Sparse Dword := []) (weirs : Sparse Weir := []) : State :=
  { world hSup [u, team2, debugger regs] with cores := [(0, { tlb := [leaf1], first := [(0, [leaf1])], weirs })] }
/-- A debug word: D, A, B, C and FUNC. -/
def dbgF (a b c fn : Nat) : VFields := fields 30 a b c 0 0 fn none
/-- Register names, and a selector or a value in s21, a value in s22. -/
def regs2 (x y : Dword) : Sparse Dword := [(21, x), (22, y)]

/-- WeirRegistersAreSetAndRead: a selector out of range, weir 3 free, its own and another context's; values of WCTL that
fit and that do not. -/
theorem witness_weirs :
    (checkV (wDbg team1 (regs2 0xFF03 0)) (debugger (regs2 0xFF03 0)) 0x288 (dbgF 21 22 0 0) = none ∧
      checkV (wDbg team1 (regs2 0xFF03 0)) (debugger (regs2 0xFF03 0)) 0x289 (dbgF 21 0 0 0) = none) ∧
    (wDbg team1 (regs2 0xFF03 0)).poised (debugger (regs2 0xFF03 0)) = true ∧
    selects (debugger (regs2 0xFF03 0)) 0xFF03 0 0 3 ∧ (∀ c r n, ¬ selects (debugger []) 0xFF43 c r n) ∧
    ((wDbg team1).weir 0 3).owner = none ∧
    claimedElsewhere ((wDbg team1 [] [(3, { owner := some 1 })]).weir 0 3) 0 ∧
    ¬ claimedElsewhere ((wDbg team1 [] [(3, { owner := some 0 })]).weir 0 3) 0 ∧
    wctlFits (dw (2 ^ 63 + 15 * 2 ^ 52)) ∧ wctlFits 0 ∧ ¬ wctlFits (dw (8 * 2 ^ 52)) := by
  refine ⟨by decide +kernel, by decide +kernel, by unfold selects; decide +kernel, fun c r n h => absurd h.2.1 (by decide +kernel),
    by decide +kernel, ⟨1, by decide +kernel⟩, ?_, by unfold wctlFits; decide +kernel, by unfold wctlFits; decide +kernel,
    by unfold wctlFits; decide +kernel⟩
  rintro ⟨c, h, hc⟩
  have : ((wDbg team1 [] [(3, { owner := some 0 })]).weir 0 3).owner = some 0 := by decide +kernel
  rw [this] at h
  exact hc (Option.some.inj h).symm

/-- HaltedTeamIsInspectedAndChanged: no such team, a running team, a halted one; items that are read and written, that are
out of range, and that may not be written. -/
theorem witness_inspect :
    (checkV (wDbg haltedTeam (regs2 5 6)) (debugger (regs2 5 6)) 0x28A (dbgF 20 21 0 0) = none ∧
      checkV (wDbg haltedTeam (regs2 5 6)) (debugger (regs2 5 6)) 0x28B (dbgF 20 21 22 0) = none) ∧
    (wDbg haltedTeam (regs2 5 6)).poised (debugger (regs2 5 6)) = true ∧ (wDbg team1 (regs2 5 6)).poised (debugger (regs2 5 6)) = true ∧
    names (wDbg haltedTeam (regs2 5 6)) (debugger (regs2 5 6)) 20 haltedTeam ∧ names (wDbg team1 (regs2 5 6)) (debugger (regs2 5 6)) 20 team1 ∧
    namesNone (wDbg haltedTeam (regs2 5 6)) (debugger (regs2 5 6)) 21 ∧ halted haltedTeam ∧ ¬ halted team1 ∧
    atRest (wDbg haltedTeam (regs2 5 6)) haltedTeam ∧ readsAsIs (wDbg haltedTeam (regs2 5 6)) haltedTeam ∧
    (itemRule (wDbg haltedTeam) haltedTeam 0x501).isSome = true ∧ itemRule (wDbg haltedTeam) haltedTeam 0xFF01 = none ∧
    (pokeRule (wDbg haltedTeam) true haltedTeam 0x501 9).isLeft = true ∧ (pokeRule (wDbg haltedTeam) true haltedTeam 0xFF01 9).getRight? = some 18 ∧
    (pokeRule (wDbg haltedTeam) true haltedTeam 10 9).getRight? = some 19 := by
  unfold names halted atRest readsAsIs
  refine ⟨by decide +kernel, by decide +kernel, by decide +kernel, by decide +kernel, by decide +kernel, fun u hu => ?_, by decide +kernel,
    by decide +kernel, by decide +kernel, by decide +kernel, by decide +kernel, by decide +kernel, by decide +kernel, by decide +kernel, by decide +kernel⟩
  have : (wDbg haltedTeam (regs2 5 6)).team? (((debugger (regs2 5 6)).getS (21 : BitVec 9).toNat).setWidth 32) = none := by decide +kernel
  rw [this] at hu
  cases hu

/-- HaltedTeamsAreResumedKilledAndReleased: each scope, a halted and a running target, and lanes below and at the width. -/
theorem witness_resume :
    (∀ n < 3, checkV (wDbg haltedTeam) (debugger []) 0x28D (dbgF 20 0 0 n) = none) ∧
    (wDbg haltedTeam).poised (debugger []) = true ∧ names (wDbg haltedTeam) (debugger []) 20 haltedTeam ∧ halted haltedTeam ∧
    ((wDbg haltedTeam).teams.map Team.tid).Nodup ∧ resumesPlainly haltedTeam ∧
    (∀ n < 3, ∀ h, h ∈ [h1] ↔ ∃ w ∈ (wDbg haltedTeam).teams, w.tid = h ∧ halted w ∧ inScope n haltedTeam w) ∧
    checkV (wDbg haltedTeam) (debugger []) 0x28E (dbgF 20 0 0 0) = none ∧
    checkV (wDbg haltedTeam (regs2 31 0)) (debugger (regs2 31 0)) 0x28F (dbgF 20 21 0 0) = none ∧
    (wDbg haltedTeam (regs2 31 0)).poised (debugger (regs2 31 0)) = true ∧ haltedTeam.preempted = false ∧ haltedTeam.width = 32 ∧
    (wDbg saved1 (regs2 31 0)).poised (debugger (regs2 31 0)) = true ∧ names (wDbg saved1 (regs2 31 0)) (debugger (regs2 31 0)) 20 saved1 := by
  have key : ∀ n < 3, inScope n haltedTeam haltedTeam ∧ ¬ halted team2 ∧ ¬ halted (debugger []) ∧ halted haltedTeam := by
    unfold inScope halted; decide +kernel
  unfold names
  refine ⟨by decide +kernel, by decide +kernel, by decide +kernel, (key 0 (by decide)).2.2.2, by decide +kernel, ⟨rfl, by decide⟩, fun n hn h => ⟨fun hm => ?_, ?_⟩,
    by decide +kernel, by decide +kernel, by decide +kernel, rfl, rfl, by decide +kernel, by decide +kernel⟩
  · obtain rfl := List.mem_singleton.1 hm
    exact ⟨haltedTeam, by decide +kernel, rfl, (key n hn).2.2.2, (key n hn).1⟩
  · rintro ⟨w, hw, rfl, hh, -⟩
    have hw : w = haltedTeam ∨ w = team2 ∨ w = debugger [] := by simpa [wDbg, world] using hw
    rcases hw with rfl | rfl | rfl
    · exact List.mem_singleton.2 rfl
    · exact absurd hh (key n hn).2.1
    · exact absurd hh (key n hn).2.2.1

/-- A step under way for the supervisor, before its end and at an outcome; at its limit; and a team told to stop. -/
def stepped (outcome : Option Nat) (idle : Nat) : Team :=
  { team1 with stepping := some { by_ := some hSup, mailbox := 0, sd := 30, focus := 3, left := 2, outcome, idle } }
def haltedParked : Team := { haltedTeam with run := .parked .retry none }
def haltedWoken : Team := { haltedTeam with run := .parked .retry (some .done) }
def stopping1 : Team := { team1 with stop := some (.stopping 5 0 false) }
def stepper : Team := { debugger [] with held := some (.debug, 0) }

/-- StepsAndStopsEndInHalts: HSTEP of a halted team, of a parked one, of a lane out of range and of no instructions; ends. -/
theorem witness_steps :
    (∀ x : Dword, x = dw (2 * 2 ^ 32 + 3) ∨ x = dw (2 ^ 32 + 32) ∨ x = 3 → ∀ u, u = haltedTeam ∨ u = haltedParked ∨ u = haltedWoken →
      checkV (wDbg u (regs2 x 0)) (debugger (regs2 x 0)) 0x28C (dbgF 20 21 0 0) = none ∧
      (wDbg u (regs2 x 0)).poised (debugger (regs2 x 0)) = true ∧ names (wDbg u (regs2 x 0)) (debugger (regs2 x 0)) 20 u ∧ halted u ∧ resumesPlainly u ∧
      ∀ w ∈ (wDbg u (regs2 x 0)).teams, w.stepping = none) ∧
    (∀ o, o = 0 ∨ o = 2 → let t := stepped (some o) 0
      let s := { world hSup [t, team2, stepper] with arg := { tid := h1 } }
      s.team? h1 = some t ∧ s.team? hSup = some stepper ∧ stepper.late = none ∧ stepper.stepping = none ∧ stepper.leaveAtEnd = false ∧
        stepper.clauseYield = false ∧ t.stop = none ∧ atRest s t) ∧
    (let t := { stepped (some 0) 0 with datapath := some { writes := [], reads := [], dests := [], readyAt := 9 } }
      let s := { world hSup [t, team2, stepper] with arg := { tid := h1 } }
      s.team? h1 = some t ∧ ¬ atRest s t) ∧
    (let t := stepped none 4096
     let s := { world hSup [t, team2, stepper] with arg := { tid := h1 } }
     s.team? h1 = some t ∧ 4096 ≤ 4096) ∧
    (let s := { wT stopping1 with arg := { tid := h1 } }
     s.team? h1 = some stopping1 ∧ stopping1.held = none ∧ s.dividing stopping1 = false ∧ stopping1.stepping = none) := by
  refine ⟨?_, by rintro o (rfl | rfl) <;> unfold atRest <;> decide +kernel, by unfold atRest; decide +kernel, by decide +kernel, by decide +kernel⟩
  rintro x (rfl | rfl | rfl) u (rfl | rfl | rfl) <;> unfold names halted resumesPlainly <;> decide +kernel

/-! ## Hypotheses that are met: the service of faults -/

/-- A fault of a load that waits to be written, and one of a store. -/
def heldLoad : Held := { store := false, originCode := 0, origin := origin1, opId := 5, lanes := [1], cause := 1, page := 0x80002000 }
def heldStore : Held := { heldLoad with store := true, engAddr := 0x80002000, lane := 1 }
/-- The world with a context changed, arg naming its first waiting fault. -/
def wCtx (c : Context) : State := { w1 with ctxs := [c] }

/-- The whole of Q stands at its own addresses. -/
theorem qStands1 {s : State} {c : Context} (hc : c.supervisor = hSup) (hi : c.id = 0) (hq : c.qBase = 0x10000000)
    (ht : s.firstTlb 0 = [leaf1]) (hm : s.moduleNumber = 0) (hp : s.poison = []) {off n : Nat} (h : off + n ≤ 0x1900000) :
    qStands s c (fun va => va) off n := by
  intro j hj
  have hv : c.qBase.toNat + off + j < 2 ^ 31 := by
    have : (0x10000000 : Dword).toNat = 0x10000000 := by decide
    rw [hq, this]
    omega
  refine stands1 hi ?_ hm hp hv .write
  rw [show (gateOrigin c).port = 0 by show 8 * coreOf c.supervisor + partOf c.supervisor = 0; rw [hc]; decide +kernel]
  exact ht

/-- FaultsAreWrittenToTheirRings: room in each ring, and full rings with the fault counted and not. -/
theorem witness_rings_written :
    (let c : Context := { ctx1 with held := [heldLoad, heldStore] }
     (wCtx c).ctx? 0 = some c ∧ (wCtx c).recordDue heldLoad = true ∧ (wCtx c).recordDue heldStore = true ∧
       (wCtx c).heldBefore c 0 false = false ∧ (wCtx c).heldBefore c 1 true = false ∧ c.freeSlot = some 0 ∧
       (∀ w ∈ entryWrites heldLoad, w.1 + w.2.length ≤ 24576)) ∧
    fieldsFit heldLoad ∧ fieldsFit heldStore ∧ (wCtx ctx1).op? 5 = none ∧
    (∀ b, let c : Context := { ctx1 with held := [{ heldLoad with counted := b }, { heldStore with counted := b }], written := 1024, sfWritten := 4096 }
      (wCtx c).ctx? 0 = some c ∧ 1024 ≤ c.written - c.resolved ∧ 4096 ≤ c.sfWritten - c.sfResolved) ∧
    qStands (wCtx ctx1) ctx1 (fun va => va) 0x1800040 64 := by
  refine ⟨by decide +kernel, by unfold fieldsFit; decide +kernel, by unfold fieldsFit; decide +kernel, by decide +kernel, by decide +kernel,
    qStands1 rfl rfl rfl rfl rfl rfl (by decide)⟩

/-- An entry written, for lane 1 of operation 5, and popped; the supervisor's registers name it, lane 1 and a value. -/
def entry5 (origin : Nat) : RetryEntry := { slot := 0, origin, tid := h1, opId := 5, lanes := [1] }
def ctxE (es : List RetryEntry) : Context := { ctx1 with retry := es, written := 1, popped := 1 }
def servant (off lane : Dword) : Team := { sup1 with s := [(0, 0xFFFFFFFF), (20, off), (21, lane), (22, 7)] }
def wSrv (c : Context) (off lane : Dword) (t : Team := team1) : State := { world hSup [t, team2, servant off lane] with ctxs := [c] }
def rputF : VFields := fields 0 20 21 22 0 0 0 none
def rdoneF (fn : Nat) : VFields := fields 0 20 0 0 0 0 fn none

/-- RingsArePoppedInOrder: an entry and a record to pop, and none. -/
theorem witness_pop :
    (let c : Context := { ctx1 with retryOrder := [0], written := 1, sfWritten := 1 }
     Serves (wSrv c 64 1) (servant 64 1) 0x290 (fields 10 0 0 0 0 0 0 none) c (fun va => va) ∧
       Serves (wSrv c 64 1) (servant 64 1) 0x293 (fields 10 0 0 0 0 0 0 none) c (fun va => va) ∧ c.sfPopped < c.sfWritten) ∧
    Serves (wSrv ctx1 64 1) (servant 64 1) 0x290 (fields 10 0 0 0 0 0 0 none) ctx1 (fun va => va) ∧ ctx1.retryOrder = [] ∧
    Serves (wSrv ctx1 64 1) (servant 64 1) 0x293 (fields 10 0 0 0 0 0 0 none) ctx1 (fun va => va) ∧ ctx1.sfWritten ≤ ctx1.sfPopped ∧
    qStands (wSrv ctx1 64 1) ctx1 (fun va => va) 0 64 ∧ qStands (wSrv ctx1 64 1) ctx1 (fun va => va) 0x1800040 64 := by
  refine ⟨⟨⟨?_, ?_, ⟨?_, rfl⟩, sectorwise_self⟩, ⟨?_, ?_, ⟨?_, rfl⟩, sectorwise_self⟩, by decide⟩, ⟨?_, ?_, ⟨?_, rfl⟩, sectorwise_self⟩, rfl,
    ⟨?_, ?_, ⟨?_, rfl⟩, sectorwise_self⟩, by decide, qStands1 rfl rfl rfl rfl rfl rfl (by decide), qStands1 rfl rfl rfl rfl rfl rfl (by decide)⟩ <;>
    decide +kernel

/-- The load of operation 5, delivered, with lane 1's bytes still to come; a team parked for it. -/
def loadE : MemOp := { op1 .load 0 [{ lane1 1 0x2000 with fault := none }] with delivered := true }
def retrying : Team := { team1 with run := .parked .retry none }
/-- A gleaner command with a pending entry for lane 1. -/
def gleanE : Glean := { glean1 false (some 384) with stopped := true, pending := some { todo := [(1, 0x80002000)] } }
def gleaningE : Team := { team1 with gleans := [gleanE] }
def wEnt (origin : Nat) (off lane : Dword) (t : Team) : State :=
  { wSrv (ctxE [entry5 origin]) off lane t with ops := if origin < 3 then [loadE] else [] }

/-- The supervisor serves in each of these worlds. -/
theorem serves_entry : ∀ origin, (origin = 0 ∨ origin = 3 ∨ origin = 4 ∨ origin = 5) → ∀ off lane, (off = 64 ∧ (lane = 1 ∨ lane = 2) ∨ off = 65 ∧ lane = 1) →
    ∀ t, (t = retrying ∨ t = gleaningE) → ∀ op f, (op = 0x291 ∧ f = rputF ∨ op = 0x292 ∧ ∃ n < 3, f = rdoneF n) →
    Serves (wEnt origin off lane t) (servant off lane) op f (ctxE [entry5 origin]) (fun va => va) := by
  intro origin ho off lane hl t ht op f hf
  refine ⟨?_, ?_, ⟨?_, rfl⟩, sectorwise_self⟩
  · rcases ho with rfl | rfl | rfl | rfl <;> rcases ht with rfl | rfl <;> obtain ⟨rfl, rfl | rfl⟩ | ⟨rfl, rfl⟩ := hl <;> decide +kernel
  · rcases ho with rfl | rfl | rfl | rfl <;> rcases ht with rfl | rfl <;> obtain ⟨rfl, rfl | rfl⟩ | ⟨rfl, rfl⟩ := hl <;>
      obtain ⟨rfl, rfl⟩ | ⟨rfl, n, hn, rfl⟩ := hf <;> first | decide +kernel | (interval_cases n <;> decide +kernel)
  · rfl

/-- EntriesAreFilledAndResolved: RPUT of a load's lane and of a gleaner's, of an entry that is none, and of a lane outside
the mask; RDONE of a load's entry, whose bytes stand, and of a copy's and a baler's. -/
theorem witness_entries :
    entryHere (ctxE [entry5 0]) ((servant 64 1).getS 20) (entry5 0) ∧ 1 ∈ (entry5 0).lanes ∧ ((servant 64 1).getS 21).toNat = 1 ∧
    (wEnt 0 64 1 retrying).op? 5 = some loadE ∧ (wEnt 0 64 1 retrying).team? h1 = some retrying ∧ (wEnt 0 64 1 retrying).weirsOff retrying = true ∧
    entryHere (ctxE [entry5 3]) ((servant 64 1).getS 20) (entry5 3) ∧ (wEnt 3 64 1 gleaningE).gleanHead h1 = some gleanE ∧
    (wEnt 3 64 1 gleaningE).orphans = [] ∧ (∀ e, ¬ entryHere (ctxE [entry5 0]) ((servant 65 1).getS 20) e) ∧
    ((servant 64 2).getS 21).toNat ∉ (entry5 0).lanes ∧
    Resolves (wEnt 0 64 1 retrying) (servant 64 1) (rdoneF 1) (ctxE [entry5 0]) (entry5 0) loadE retrying (fun va => va) ∧
    byteStands (wEnt 0 64 1 retrying) loadE.origin 0x2000 .read 0x2000 ∧ (wEnt 0 64 1 retrying).arg.flag = false ∧
    (wEnt 0 64 1 retrying).racing loadE ((wEnt 0 64 1 retrying).pieceAt loadE (lane1 1 0x2000) { off := 0, len := 4 }) 4 = false ∧
    ¬ frozenLane loadE retrying 1 ∧ ((wEnt 0 64 1 retrying).core 0).buffer = [] ∧ (wEnt 0 64 1 retrying).reqs = [] ∧
    (wEnt 0 64 1 retrying).cached 0 (lineOf 0x2000) = none ∧
    (let s : State := { wEnt 4 64 1 retrying with copies := [{ copy2 with stopped := true }] }
     s.releaseReady (servant 64 1) 4 = true ∧ (s.copies.find? fun x => x.id == 5) = some { copy2 with stopped := true } ∧ s.op? 5 = none ∧
       s.gleanHead h1 = none) ∧
    (let s : State := { wEnt 5 64 1 retrying with bales := [{ bale1 false with stopped := true }] }
     (s.copies.find? fun x => x.id == 5) = none ∧ (s.bales.find? fun x => x.id == 5) = some { bale1 false with stopped := true }) := by
  refine ⟨by unfold entryHere; decide +kernel, by decide, by decide +kernel, by decide +kernel, by decide +kernel, by decide +kernel,
    by unfold entryHere; decide +kernel, by decide +kernel, by decide +kernel, fun e h => ?_, by decide +kernel, ?_,
    stands1 rfl first1 rfl rfl (by decide) .read, rfl, by decide +kernel, by unfold frozenLane; decide +kernel, by decide +kernel, rfl,
    by decide +kernel, by decide +kernel, by decide +kernel⟩
  · have : ((ctxE [entry5 0]).retry.find? fun x => x.poppable && 64 + 24576 * x.slot == ((servant 65 1).getS (20 : BitVec 9).toNat).toNat) = none := by
      decide +kernel
    unfold entryHere at h
    simp_all
  · refine ⟨serves_entry 0 (.inl rfl) 64 1 (.inl ⟨rfl, .inl rfl⟩) retrying (.inl rfl) 0x292 (rdoneF 1) (.inr ⟨rfl, 1, by decide, rfl⟩),
      qStands1 rfl rfl rfl rfl rfl rfl (by decide), ⟨by unfold entryHere; decide +kernel, by decide, rfl⟩, by decide +kernel, by decide +kernel,
      by decide +kernel, by decide +kernel, lives1 (x := launch1) (by decide +kernel) (by decide), rfl, by decide +kernel, by decide +kernel⟩

/-- The invalidation ring's TAIL at Q + 0x18F0000 and its first entry. -/
def wInv (tail op va len : Nat) : State :=
  { w1 with mem := memWrite (memWrite [] 0x118F0000 (toBytes 8 tail)) 0x118F0040 (toBytes 8 op ++ toBytes 8 va ++ toBytes 8 len) }

/-- InvalidationDropsTranslations: an empty ring, a malformed entry, a range, all, and a request under way. -/
theorem witness_invalidation : (wInv 0 1 0x1000 0x1000).ctx? 0 = some ctx1 ∧ ((wInv 1 1 0x1000 0x1000).cores.map Prod.fst).Nodup ∧
    (∀ k, ((((wInv 1 1 0x1000 0x1000).core k).first).map Prod.fst).Nodup) ∧
    (let ring := ctx1.qLimit.toNat - 65536
     (wInv 0 1 0x1000 0x1000).qDword 0 ring % 2 ^ 32 = 0 ∧ (wInv 1 1 0x1000 0x1000).qDword 0 ring % 2 ^ 32 = 1 ∧
       (wInv 1 1 0x1001 0x1000).qDword 0 (ring + 64 + 8) % 4096 = 1 ∧ (wInv 1 2 0 0).qDword 0 (ring + 64) % 16 = 2 ∧
       (wInv 1 1 0x1000 0x1000).qDword 0 (ring + 64) % 16 = 1 ∧ (wInv 1 1 0x1000 0x1000).qDword 0 (ring + 64 + 16) = 4096) ∧
    (wInv 1 1 0x1000 0x1000).translating 0 = false ∧
    ({ wInv 1 1 0x1000 0x1000 with reqs := [req1 .hrel] } : State).translating 0 = true := by
  refine ⟨by decide +kernel, by decide +kernel, fun k => ?_, by decide +kernel⟩
  have h : (wInv 1 1 0x1000 0x1000).core k = if k = 0 then { tlb := [leaf1], first := [(0, [leaf1])] } else {} := rfl
  rw [h]
  split <;> decide

/-! ## Hypotheses that are met: errors, power, links and the host -/

def fullFeatures : Option (BitVec 256) := some (BitVec.allOnes 256)
def err1 (a : ArrayId) : ArrayErr := { array := a, suspect := true, watch := true, nominal := 2 ^ 24 }
def wErr (a : ArrayId) : State := { w1 with arrayErrs := [err1 a], arg := { array := a } }
def wUnit (array : ArrayId) (u : Unit32) (s : State := w1) : State := { s with arg := { unit_ := u, array } }
/-- The launch with an image of the team's record. -/
def wImage : State := { w1 with launches := [launchS, { launch1 with phase := .preempted, image := [{ of_ := .team h1, runs := [(0x7008000, 64)] }] }] }

/-- ArrayErrorsAreCountedAndMark: an array below nominal voltage at its threshold; watched arrays of each kind that fail, one that
is not watched, one in its time and one that has failed; a sector in its sub-channel and not, a register, a scratchpad word, a
tile's element and an image. -/
theorem witness_array_errors :
    (let s : State := { wErr (.pool 0) with arrayErrs := [{ array := .pool 0, recent := 64, undervolted := true }] }
     (s.arrayErr (.pool 0)).undervolted = true ∧ 64 < (s.arrayErr (.pool 0)).recent + 1) ∧ (w1.arrayErr (.pool 0)).undervolted = false ∧
    (∀ a, a = .pool 0 ∨ a = .engine 0 ∨ a = .slice 0 →
      ((wErr a).arrayErr a).watch = true ∧ 2 ^ 24 ≤ ((wErr a).arrayErr a).nominal ∧ ((wErr a).arrayErr a).failed = false) ∧
    (w1.arrayErr (.pool 0)).watch = false ∧ (w1.ctxs.map Context.id).Nodup ∧ ctx1.repWritten - ctx1.repFreed < 1024 ∧
    paModule 0x2000 = (wUnit (.hbm 2 10) (.sector 0x2000)).moduleNumber.toNat ∧ localHbm (paLocal 0x2000) = true ∧
    inSubChannel (.hbm 2 10) 0x2000 ∧ ¬ inSubChannel (.hbm 1 10) 0x2000 ∧
    (coreOf h1 = 0 ∧ (wUnit (.pool 0) (.reg h1 3 31)).team? h1 = some team1 ∧ 3 < team1.regs ∧ 31 < team1.width ∧
      (wUnit (.pool 0) (.reg h1 3 31)).plot? team1.plot = some plot1 ∧ plot1.saved = false) ∧
    ((wUnit (.pool 0) (.scratch 1 16383)).plot? 1 = some plot1 ∧ plot1.core = 0 ∧ 16383 < 16384 * plot1.scratchGranules) ∧
    ((wUnit (.pool 0) (.tile 3 1 4095)).crew? 3 = some crew1 ∧ crew1.plot = 1 ∧ 1 < crew1.tileCount) ∧
    (∃ k m, wImage.imageAt h1 = some 0x7008000 ∧ inSubChannel (.hbm k m) 0x7008000) := by
  unfold inSubChannel
  refine ⟨by decide +kernel, by decide +kernel, ?_, by decide +kernel, by decide +kernel, by decide +kernel, by decide +kernel, by decide +kernel,
    rfl, by decide, by decide +kernel, by decide +kernel, by decide +kernel, _, _, by decide +kernel, rfl⟩
  rintro a (rfl | rfl | rfl) <;> decide +kernel

def wCore (c : Core) : State := { w1 with cores := [(0, c)], arg := { a := 0 } }

/-- CoreRatingFollowsItsWindows: a window that goes on and one that ends, hot by heat, hot by droops, quiet; 29 quiet
windows and 30. -/
theorem witness_core_rating :
    ((wCore {}).core 0).cyc < ((wCore {}).core 0).windowStart + 65536 ∧
    ((wCore { cyc := 65536 }).core 0).windowStart + 65536 ≤ ((wCore { cyc := 65536 }).core 0).cyc ∧
    95 ≤ ((wCore { cyc := 65536, temp := 95 }).core 0).temp ∧ 8 ≤ ((wCore { cyc := 65536, droops := 8 }).core 0).droops.toNat ∧
    ((wCore { cyc := 65536, temp := 89, droops := 1 }).core 0).temp ≤ 89 ∧
    ((wCore { cyc := 65536, temp := 89, droops := 1 }).core 0).droops.toNat < 2 ∧
    ((wCore { quietWindows := 29 }).core 0).quietWindows < 30 ∧ 30 ≤ ((wCore { quietWindows := 30 }).core 0).quietWindows := by
  decide +kernel

/-- PowerAndBringUpGoInOrder: power above and at the limit; temperatures at and beyond each bound; each stage. -/
theorem witness_power :
    (let s : State := { w1 with powerCap := 1500, arg := { a := 1501 } }; s.powerCap < s.arg.a) ∧
    (let s : State := { w1 with powerCap := 1500, arg := { a := 1500, flag := true } }; s.arg.a ≤ s.powerCap ∧ s.arg.flag = true) ∧
    105 < (wCore { temp := 106 }).hottest 0 ∧ (wCore { temp := 105 }).hottest 0 ≤ 105 ∧ 115 ≤ (wCore { temp := 115 }).hottest 0 ∧
    (wCore { temp := 114 }).hottest 0 < 115 ∧
    (let s : State := { w1 with arg := { images := List.replicate 3 { bytes := [], securityVersion := 0 } } }; s.arg.images.length ≠ 4) ∧
    (let s : State := { w1 with bringup := .firmware }; s.bringup = .firmware) ∧
    (let s : State := { w1 with bringup := .memory, firmware := List.replicate 4 { bytes := [], securityVersion := 0 } }
     s.bringup = .memory ∧ s.firmware.length = 4) ∧ w1.bringup ≠ .memory := by
  decide +kernel

/-- Whatever images the dies accept, power that is good with them starts the module. -/
theorem witness_firmware (x : Nat → FirmwareImage) (h : ∀ d < 4, firmwareVerifies d (x d) = true)
    (hm : ∀ d < 4, Config.fusedMinimum d ≤ (x d).securityVersion) :
    let s : State := { State.reset with arg := { images := (List.range 4).map x } }
    s.arg.images.length = 4 ∧ ∀ d y, s.arg.images[d]? = some y →
      firmwareVerifies d y = true ∧ Config.fusedMinimum d ≤ y.securityVersion := by
  refine ⟨rfl, fun d y hy => ?_⟩
  have hd : d < 4 := by have := (List.getElem?_eq_some_iff.1 hy).1; simpa using this
  have : y = x d := by
    have hy : ((List.range 4).map x)[d]? = some y := hy
    rw [List.getElem?_map, List.getElem?_range hd] at hy
    exact (Option.some.inj hy).symm
  subst this
  exact ⟨h d hd, hm d hd⟩

def wLink (l : Link) (p : PeerOp := .read 0x2000 4) : State :=
  { w1 with accepted := fullFeatures, routes := [(5, 3)], links := [(0, l)], arg := { a := 0, peer := p } }
def wPeer (p : PeerOp) : State := { wLink {} p with arg := { a := 5, peer := p } }

/-- LinksTrainFailAndCarry: a wanted link, trained and not, and one beyond the last; each request of a peer, from a module
with a route and without. -/
theorem witness_links :
    wanted (wLink {}) (wLink {}).arg.a ∧ (linkOf (wLink {}) 0).trained = false ∧ (linkOf (wLink { trained := true }) 0).trained = true ∧
    ¬ wanted w1 18 ∧
    (let s := wPeer (.read 0x2000 4)
     s.bringup = .ready ∧ s.feature 11 = true ∧ s.arg.a ≠ s.moduleNumber.toNat ∧ s.arg.a < 64 ∧
       spRead (0 : BitVec 18) s.routes s.arg.a ≠ 0 ∧ ∀ j < 4, s.poisoned (s.moduleNumber.toNat * 2 ^ 46 + 0x2000 + j) = false) ∧
    (∀ j < 4, localHbm (0x2000 + j) = true ∨ localHost (0x2000 + j) = true) ∧ spRead (0 : BitVec 18) w1.routes w1.arg.a = 0 ∧
    (let s : State := { wPeer (.read 0x2000 4) with
        tags := [(lineOf 0x2000, (0, 1))], cores := [(0, { buffer := [write1] })], arg := { a := 5, peer := .read 0x2000 4, flag := true } }
     s.arg.flag = true ∧ tagged s 0x2000 4) ∧
    (let F := fmtOf 6 0
     4 ≤ F.width / 8 ∧ 0x2000 % (F.width / 8) = 0 ∧ (3 : BitVec 4).toNat ≤ 7) := by
  refine ⟨?_, by decide +kernel, by decide +kernel, fun h => absurd h.1 (by decide), by decide +kernel, by decide +kernel, by decide +kernel,
    ⟨rfl, lineOf 0x2000, by decide +kernel⟩, by decide +kernel⟩
  unfold wanted; decide +kernel

/-! ## The host -/

/-- The host submits on function fn, with arguments. -/
def wHost (fn : Nat) (as : List Dword) (s : State := w1) : State :=
  { s with mailboxes := [(fn, { args := as.zipIdx.map fun x => (x.2, x.1) })], arg := { a := fn } }
/-- The mailbox is busy with a command. -/
def wBusy (op : BitVec 8) (as : List Dword) (s : State := w1) : State :=
  { s with mailboxes := [(0, { args := as.zipIdx.map fun x => (x.2, x.1), busy := true, op })], arg := { a := 0 } }

theorem submits_host {fn : Nat} {as : List Dword} {s : State} (h : s.bringup = .ready) (hf : fn ≤ 64) : Submits (wHost fn as s) :=
  ⟨h, hf, by simp [wHost, State.mailbox, spRead]⟩

/-- MailboxTakesArgumentsAndCommands: each dword of an idle and of a busy mailbox; a command of another function. -/
theorem witness_mailbox :
    (∀ b ≤ 6, ∀ v : Dword, v = 0 ∨ v = 1 → let s : State := { w1 with arg := { a := 64, b, value := v } }
      s.bringup = .ready ∧ s.arg.a ≤ 64 ∧ (s.mailbox 64).busy = false ∧ (s.arg.value.extractLsb' 56 8).toNat ∉ commands.map Prod.snd) ∧
    (let s : State := { wBusy 1 [] with arg := { a := 0, b := 0, value := 1 } }; (s.mailbox 0).busy = true) ∧
    pfCommand (wHost 3 []) .coreset 0x12 ∧ Submits (wHost 3 []) ∧ (wHost 3 []).arg.a ≠ 0 ∧
    pfCommand (wHost 3 [0, 1]) .countersClear 0x41 := by
  refine ⟨?_, by decide +kernel, .inl (by decide), submits_host rfl (by decide), by decide, .inr (.inr (.inl (by decide +kernel)))⟩
  rintro b hb v (rfl | rfl) <;> interval_cases b <;> decide +kernel

/-- ModuleIsSetUp: each clause at a bound of its arguments. -/
theorem witness_setup :
    (∀ as, Submits (wHost 0 as)) ∧ (∀ as, Submits (wHost 0 as { w1 with accepted := none, ctxs := [] })) ∧
    (argOf (wHost 0 [3]) 0).toNat < 4 ∧ 4 ≤ (argOf (wHost 0 [4]) 0).toNat ∧
    (wHost 0 [] { w1 with accepted := none, ctxs := [] }).accepted = none ∧ (wHost 0 []).accepted ≠ none ∧
    (let s := wHost 0 [63, 63, 2 ^ 18 - 1]
     (argOf s 0).toNat < 64 ∧ (argOf s 1).toNat < 64 ∧ (argOf s 2).toNat < 2 ^ 18 ∧ Memory.wf s.mem = true) ∧
    64 ≤ (argOf (wHost 0 [64]) 0).toNat ∧ 64 ≤ (argOf (wHost 0 [0, 64]) 1).toNat ∧ 2 ^ 18 ≤ (argOf (wHost 0 [0, 0, 2 ^ 18]) 2).toNat ∧
    1500 ≤ (argOf (wHost 0 [1500]) 0).toNat ∧ (argOf (wHost 0 [3600]) 0).toNat ≤ 3600 ∧ (argOf (wHost 0 [1499]) 0).toNat < 1500 ∧
    3600 < (argOf (wHost 0 [3601]) 0).toNat :=
  ⟨fun _ => submits_host rfl (by decide), fun _ => submits_host rfl (by decide), by decide +kernel, by decide +kernel, by decide, by decide,
    by decide +kernel, by decide +kernel, by decide +kernel, by decide +kernel, by decide +kernel, by decide +kernel, by decide +kernel,
    by decide +kernel⟩

/-! ## A context is built -/

/-- The context that CTX_SETUP left; the submitted command; the header behind its ring; leaves over the first 2 GiB and over
the supervisor's estate array, wherever the module keeps it. -/
def ctxS : Context := { id := 0, apBase := 0, saveSize := 0x1000000 }
def newSup : Handle := mkHandle 0 0 31 1
def headerS : List Dword :=
  [dw (2 * 2 ^ 56 + 2 * 2 ^ 53 + 2 * 2 ^ 40 + 5 * 2 ^ 32 + 2 ^ 26), headerV.getD 1 0, dw (1 + 2 ^ 32), dw (1 + 2 ^ 32),
   dw (64 * 2 ^ 32 + 2 ^ 24 + 3)] ++ headerV.drop 5
noncomputable def baseE : Nat := (Config.estateBase 0 newSup).toNat / 32 * 32
noncomputable def leafE : TlbEntry := { ctx := 0, va := baseE, size := 2 ^ 15, pa := 0x40000000, flags := 0x1F }
noncomputable def placeE (va : Nat) : Nat := if va < 2 ^ 31 then va else if va < baseE then va else 0x40000000 + (va - baseE)
def createArgs : List Dword := [0, 0x8000000, 0x7000000, dw (0x19 * 2 ^ 56 + 0x10000000), 0, 0x9000000]
noncomputable def wCreate : State :=
  wHost 0 createArgs { w1 with
    ctxs := [ctxS], teams := [], launches := [], plots := [], crews := [], cores := [(0, { first := [(0, [leaf1, leafE])] })]
    mem := memWrite [] 0x9004080 (headerS.flatMap fun x => toBytes 8 x.toNat) }

theorem sectorwise_E : sectorwise placeE := by
  intro a b h
  unfold placeE
  have : baseE % 32 = 0 := by unfold baseE; omega
  by_cases ha : a < 2 ^ 31 <;> by_cases hb : b < 2 ^ 31 <;> by_cases h1 : a < baseE <;> by_cases h2 : b < baseE <;>
    simp only [ha, hb, h1, h2, if_true, if_false] <;> omega

/-- The context that the command builds. -/
noncomputable def ctxB : Context := builtContext wCreate ctxS (nextHandle wCreate 0 0 31)

theorem ctxB_eq : ctxB.supervisor = newSup ∧ ctxB.id = 0 ∧ coreOf newSup = 0 ∧ ctxB.qBase = 0x10000000 ∧ ctxB.qLimit = 0x1900000 := by
  decide +kernel

theorem portB : (gateOrigin ctxB).port = 0 := by
  show 8 * coreOf ctxB.supervisor + partOf ctxB.supervisor = 0
  rw [ctxB_eq.1]; decide +kernel

/-- The two leaves give each byte of the estate array a place, and each below 2 GiB its own. -/
theorem stands_low {va : Nat} (hv : va < 2 ^ 31) (acc : Acc) : byteStands wCreate (gateOrigin ctxB) va acc (placeE va) := by
  have hv' : va < 2147483648 := by omega
  have h0 : paModule va = 0 := by simp only [paModule]; omega
  have h1 : paLocal va = va := by simp only [paLocal]; omega
  have h2 : localHbm va = true := by
    simp only [localHbm, Bool.and_eq_true, decide_eq_true_eq]; omega
  have h3 : localHost va = false := by
    simp only [localHost, Bool.and_eq_false_iff, decide_eq_false_iff_not]; omega
  have hm : wCreate.moduleNumber = 0 := rfl
  have hi : wCreate.inDomain 0 = true := by simp [State.inDomain, hm]
  have hr : wCreate.reachable va = true := by simp [State.reachable, h0, hm]
  have hx : ctxB.id = 0 := ctxB_eq.2.1
  have ht : wCreate.firstTlb (gateOrigin ctxB).port = [leaf1, leafE] := by rw [portB]; rfl
  refine ⟨⟨leaf1, false, ?_, ?_⟩, fun _ => rfl⟩
  · rw [ht, show (gateOrigin ctxB).ctx = 0 from hx]
    simp [tlbFind, leaf1, hv']
  · have hp : placeE va = va := by simp only [placeE, hv, if_true]
    have hpa : leaf1.pa + (va - leaf1.va) = va := by simp [leaf1]
    have f2 : leaf1.flags.getLsbD 2 = true := rfl
    have f3 : leaf1.flags.getLsbD 3 = true := rfl
    rw [hp]
    cases acc <;> simp [leafCheck, hpa, h0, h1, h2, h3, hi, hr, f2, f3] <;> rfl

theorem stands_estate {va : Nat} (h1 : baseE ≤ va) (h2 : va < baseE + 2 ^ 15) : byteStands wCreate (gateOrigin ctxB) va .write (placeE va) := by
  by_cases hv : va < 2 ^ 31
  · exact stands_low hv .write
  · have hx : ctxB.id = 0 := ctxB_eq.2.1
    have ht : wCreate.firstTlb (gateOrigin ctxB).port = [leaf1, leafE] := by rw [portB]; rfl
    have hn : ¬ va < baseE := by omega
    have hp : placeE va = 0x40000000 + (va - baseE) := by simp only [placeE, hv, hn, if_false]
    obtain ⟨d, hd, rfl⟩ : ∃ d, d < 2 ^ 15 ∧ va = baseE + d := ⟨va - baseE, by omega, by omega⟩
    have hpa : leafE.pa + (baseE + d - leafE.va) = 0x40000000 + d := by simp [leafE]
    have m0 : paModule (0x40000000 + d) = 0 := by simp only [paModule]; omega
    have m1 : paLocal (0x40000000 + d) = 0x40000000 + d := by simp only [paLocal]; omega
    have m2 : localHbm (0x40000000 + d) = true := by
      simp only [localHbm, Bool.and_eq_true, decide_eq_true_eq]; omega
    have m3 : localHost (0x40000000 + d) = false := by
      simp only [localHost, Bool.and_eq_false_iff, decide_eq_false_iff_not]; omega
    have hm : wCreate.moduleNumber = 0 := rfl
    have hi : wCreate.inDomain 0 = true := by simp [State.inDomain, hm]
    have hr : wCreate.reachable (0x40000000 + d) = true := by simp [State.reachable, m0, hm]
    have f3 : leafE.flags.getLsbD 3 = true := rfl
    refine ⟨⟨leafE, false, ?_, ?_⟩, fun h => by cases h⟩
    · have : ¬ (baseE + d) < 2147483648 := by omega
      have h32 : d < 32768 := by omega
      rw [ht, show (gateOrigin ctxB).ctx = 0 from hx]
      simp [tlbFind, leaf1, leafE, this, h32]
    · rw [hp, show baseE + d - baseE = d by omega]
      simp [leafCheck, hpa, m0, m1, m2, m3, hi, hr, f3]; rfl

theorem bytesAt_low {va n : Nat} (h : va + n ≤ 2 ^ 31) : bytesAt wCreate placeE va n = bytesAt wCreate (fun va => va) va n := by
  unfold bytesAt
  refine List.map_congr_left fun j hj => ?_
  have hj := List.mem_range.1 hj
  have hl : va + j < 2 ^ 31 := by omega
  simp only [placeE, hl, if_true]

theorem supHeader_eq : supHeader wCreate placeE = headerS := by
  have : supHeader wCreate placeE = supHeader wCreate (fun va => va) := by
    have ha : (argOf wCreate 5).toNat = 0x9000000 := by decide +kernel
    unfold supHeader
    refine List.map_congr_left fun i hi => ?_
    have hi := List.mem_range.1 hi
    rw [bytesAt_low (by rw [ha]; omega)]
  rw [this]
  decide +kernel

theorem sound_supervisor : SoundSupervisor wCreate ctxB 0 placeE := by
  have ha : (argOf wCreate 5).toNat = 0x9000000 := by decide +kernel
  refine ⟨by decide +kernel, by decide +kernel, sectorwise_E, fun j hj => stands_low (by rw [ha]; omega) .read, fun n h => ?_, ?_, fun j hj => ?_, ?_⟩
  · have hn := breaks_codes h
    rw [supHeader_eq, ctxB_eq.2.1] at h
    rcases hn with rfl | rfl | rfl | rfl | rfl | rfl | rfl | rfl <;> simp only [breaks] at h
    case inr.inl =>
      rcases h with h | ⟨-, k, h2, h5, h⟩
      · revert h; decide +kernel
      · interval_cases k <;> revert h <;> decide +kernel
    all_goals revert h; decide +kernel
  · rw [supHeader_eq]; decide +kernel
  · rw [supHeader_eq] at hj
    rw [ctxB_eq.1, ctxB_eq.2.1]
    have he : hEstate headerS = 3 := by decide +kernel
    rw [he] at hj
    refine stands_estate ?_ ?_ <;> unfold baseE <;> omega
  · rw [supHeader_eq]; decide +kernel

/-- ContextsAreBuiltAndDestroyed: numbers 63 and 64; sound arguments and a supervisor that can be placed; none before the
features, and a context not set up; a context to destroy, with teams and with none left. -/
theorem witness_contexts :
    ((argOf (wHost 0 [63, 0x1000, 7]) 0).toNat < 64 ∧ (argOf (wHost 0 [63, 0x1000, 7]) 1).toNat % 4096 = 0 ∧
      (∀ c, ¬ inUse (wHost 0 [63, 0x1000, 7]) 63 c)) ∧ 64 ≤ (argOf (wHost 0 [64]) 0).toNat ∧
    (argOf (wHost 0 [63, 1]) 1).toNat % 4096 ≠ 0 ∧ inUse (wHost 0 [0]) 0 ctx1 ∧
    Submits wCreate ∧ wCreate.accepted ≠ none ∧ SoundContext wCreate ctxS ∧ ctxS.id = (argOf wCreate 0).toNat ∧ Claims.lowest wCreate ctxS.id 0 ∧
    SoundSupervisor wCreate ctxB 0 placeE ∧
    (∀ w ∈ clearedQ ctxB, ∀ j < w.2.length, byteStands wCreate (gateOrigin ctxB) (w.1 + j) .write (placeE (w.1 + j))) ∧
    (wHost 0 createArgs { w1 with accepted := none }).accepted = none ∧ (∀ c, ¬ SoundContext (wHost 0 [5]) c) ∧
    ((wHost 0 [0]).teams.map Team.tid).Nodup ∧ (∀ x ∈ (wHost 0 [0]).ctxs, x.destroying = false) ∧
    ((wHost 0 [0]).launches.map fun l => (l.ctx, l.lid)).Nodup ∧
    (let s := wBusy 0x11 [7] { w1 with ctxs := [{ ctx1 with destroying := true }] }
     (s.mailbox 0).busy = true ∧ s.ctxs.find? Context.destroying = some { ctx1 with destroying := true } ∧ ∃ t ∈ s.teams, t.ctx = 0) ∧
    (let s := wBusy 0x11 [0] { w1 with ctxs := [{ ctx1 with destroying := true }], teams := [] }
     s.ctxs.find? Context.destroying = some { ctx1 with destroying := true } ∧ ∀ t ∈ s.teams, t.ctx ≠ 0) := by
  have hq := ctxB_eq
  refine ⟨⟨by decide +kernel, by decide +kernel, fun c h => ?_⟩, by decide +kernel, by decide +kernel, ⟨by decide +kernel, rfl⟩,
    submits_host rfl (by decide), by decide, ⟨by decide +kernel, by decide +kernel, by decide +kernel, by decide +kernel⟩, by decide +kernel, ?_,
    sound_supervisor, fun w hw j hj => stands_low ?_ .write, by decide, fun c h => ?_, by decide +kernel, by decide +kernel, by decide +kernel, by decide +kernel,
    by decide +kernel⟩
  · have : (wHost 0 [63, 0x1000, 7]).ctx? 63 = none := by decide +kernel
    rw [inUse, this] at h; cases h.1
  · unfold Claims.lowest; exact ⟨by decide, by decide +kernel, fun j hj => by omega⟩
  · simp only [clearedQ, List.mem_cons, List.not_mem_nil, or_false, hq.2.2.2.1, hq.2.2.2.2] at hw
    rcases hw with rfl | rfl | rfl | rfl <;> simp [dwordBytes, toBytes] at hj ⊢ <;> omega
  · have : (wHost 0 [5]).ctx? (argOf (wHost 0 [5]) 0).toNat = none := by decide +kernel
    have := this ▸ h.setup.1
    cases this

/-! ## Launches, debugging, counters and the aperture -/

/-- HostReachesLaunchesAndReports: no context; an unknown launch; each phase of one; reports to tell and none. -/
theorem witness_host_launches :
    (∀ c, ¬ actsFor (wHost 9 []) c) ∧ Submits (wHost 9 []) ∧ actsFor (wHost 1 [2]) ctx1 ∧ actsFor (wHost 0 [2, 0, 0, 0, 0]) ctx1 ∧
    (wHost 1 [9]).launch? 0 9 = none ∧ (argOf (wHost 1 [0]) 0).toNat = 0 ∧ (argOf (wHost 1 [2]) 0).toNat = 2 ∧
    (wHost 1 [2]).launch? 0 2 = some launch1 ∧ launch1.phase = .running ∧ (wHost 1 [2]).isSupLaunch 0 2 = false ∧
    (wHost 1 [2]).plotsOf 0 2 ≠ [] ∧ (wHost 1 [2]).imageFits launch1 = true ∧ ((wHost 1 [2]).teams.map Team.tid).Nodup ∧
    (∀ p, p = .ended ∨ p = .preempted →
      (wHost 1 [2] { w1 with launches := [launchS, { launch1 with phase := p }] }).launch? 0 2 = some { launch1 with phase := p }) ∧
    actsFor (wHost 1 [] { w1 with ctxs := [{ ctx1 with repWritten := 1 }] }) { ctx1 with repWritten := 1 } ∧ ctx1.repWritten ≤ ctx1.repRead := by
  have hn : ∀ c, ¬ actsFor (wHost 9 []) c := by
    rintro c (⟨h, -⟩ | ⟨-, h, -⟩)
    · exact absurd h (by decide)
    · have : (wHost 9 []).ctx? ((wHost 9 []).arg.a - 1) = none := by decide +kernel
      rw [this] at h; cases h
  refine ⟨hn, submits_host rfl (by decide), .inr ⟨by decide, by decide +kernel, rfl⟩, .inl ⟨rfl, by decide +kernel, by decide +kernel, rfl⟩,
    by decide +kernel, by decide +kernel, by decide +kernel, by decide +kernel, rfl, by decide +kernel, by decide +kernel, by decide +kernel,
    by decide +kernel, ?_, .inr ⟨by decide, by decide +kernel, rfl⟩, by decide⟩
  rintro p (rfl | rfl) <;> decide +kernel

/-- A DEBUG command of the context's function, on a team that is halted or not. -/
def wHostDbg (x a1 a2 : Dword) (u : Team := haltedTeam) : State := wHost 1 [x, a1, a2] { wT u with accepted := fullFeatures }

/-- HostDebugsAHaltedTeam: ARG0 below, above and within the operations; a running, a halted and no team. -/
theorem witness_host_debugs :
    (∀ x a1 a2 u, Submits (wHostDbg x a1 a2 u) ∧ actsFor (wHostDbg x a1 a2 u) ctx1) ∧
    field (argOf (wHostDbg 0x287 0 0) 0) 9 0 < 0x288 ∧ 0x28F < field (argOf (wHostDbg 0x290 0 0) 0) 9 0 ∧
    (let s := wHostDbg 0x289 0xFF00 0; argOf s 0 = 0x289 ∧ s.feature 7 = true ∧ field (argOf s 1) 15 8 = 255) ∧
    (let s := wHostDbg 0x28A (h1.setWidth 64) 0x501
     argOf s 0 = 0x28A ∧ s.team? ((argOf s 1).setWidth 32) = some haltedTeam ∧ atRest s haltedTeam ∧ readsAsIs s haltedTeam ∧
       (itemRule s haltedTeam (argOf s 2)).isSome = true) ∧
    (let s := wHostDbg 0x28A (h1.setWidth 64) 0xFF01; itemRule s haltedTeam (argOf s 2) = none) ∧
    (let s := wHostDbg 0x28A 7 0; s.team? ((argOf s 1).setWidth 32) = none) ∧ halted haltedTeam ∧ ¬ halted team1 ∧
    (let s := wHostDbg 0x28A (h1.setWidth 64) 0 team1; s.team? ((argOf s 1).setWidth 32) = some team1 ∧ team1.ctx = ctx1.id) ∧
    (let s := wHostDbg 0x28C (h1.setWidth 64) (dw (3 * 2 ^ 32 + 31))
     argOf s 0 = 0x28C ∧ s.team? ((argOf s 1).setWidth 32) = some haltedTeam ∧ 0 < field (argOf s 2) 47 32 ∧
       field (argOf s 2) 9 0 < haltedTeam.width ∧ resumesPlainly haltedTeam) ∧ (∀ k, haltedTeam.run ≠ .parked k none) ∧
    argOf (wHostDbg 0x28E (h1.setWidth 64) 0) 0 = 0x28E := by
  refine ⟨fun x a1 a2 u => ⟨submits_host rfl (by decide), 
      .inr ⟨by show (1 : Nat) ≠ 0; decide, rfl, rfl⟩⟩, by decide +kernel, by decide +kernel, by decide +kernel,
    by unfold atRest readsAsIs; decide +kernel, by decide +kernel, by decide +kernel, by unfold halted; decide, by unfold halted; decide, by decide +kernel,
    by unfold resumesPlainly; decide +kernel, fun k h => (by cases h), by decide +kernel⟩

/-- CountersAndAttestationAnswer: whatever selector the module gives a counter of each kind, the command may name it; one
that names none; a report with a leaf left, at the last leaf, and none left. -/
theorem witness_counters (x : Dword) (c : Config.CounterSel) (h : Config.counterSel x = some c)
    (hc : c = .perf 191 7 ∨ c = .corrected (.pool 191) ∨ c = .linkRetries 17) :
    (∀ op : Dword, op = 0 ∨ op = 1 ∨ op = 2 → Submits (wHost 0 [x, op]) ∧ (wHost 0 [x, op]).arg.a = 0 ∧
      Config.counterSel (argOf (wHost 0 [x, op]) 0) = some c ∧ argOf (wHost 0 [x, op]) 1 = op) ∧ counterOk c = true := by
  refine ⟨fun op ho => ⟨submits_host rfl (by decide), rfl, h, by rcases ho with rfl | rfl | rfl <;> rfl⟩, ?_⟩
  rcases hc with rfl | rfl | rfl <;> decide

theorem witness_counters_none (x : Dword) (h : Config.counterSel x = none) :
    Config.counterSel (argOf (wHost 0 [x, 0]) 0) = none ∧ 2 < (argOf (wHost 0 [x, 3]) 1).toNat := ⟨h, by show 2 < (3 : Dword).toNat; decide⟩

def fourDies : List FirmwareImage := List.replicate 4 { bytes := [], securityVersion := 0 }
theorem witness_attest :
    (∀ n, let s := wHost 1 [] { w1 with firmware := fourDies, nextLeaf := n }; Submits s ∧ s.firmware.length = 4) ∧
    (wHost 1 [] { w1 with firmware := fourDies, nextLeaf := 2 ^ 25 }).nextLeaf = 2 ^ 25 ∧
    (wHost 1 [0, 0, 0, 0, dw (2 ^ 45 - 2140)] { w1 with firmware := fourDies, nextLeaf := 2 ^ 25 - 1 }).nextLeaf < 2 ^ 25 ∧
    (argOf (wHost 1 [0, 0, 0, 0, dw (2 ^ 45 - 2140)]) 4).toNat + 2140 ≤ 2 ^ 45 :=
  ⟨fun _ => ⟨submits_host rfl (by decide), rfl⟩, rfl, by decide, by decide +kernel⟩

/-- A page table at the context's root: one leaf over the first 2 GiB, in two entries of the third level (R292, R293). -/
def tableMem : List Host.Cell :=
  memWrite (memWrite (memWrite [] 0x8000000 (toBytes 8 0x8001001)) 0x8001000 (toBytes 8 0x8002001)) 0x8002000
    (toBytes 8 0x9F ++ toBytes 8 0x4000009F)
/-- The host accesses BAR2 of function 1. -/
def wApe (off len : Nat) (bs : List Byte) (fn : Nat := 1) : State :=
  { w1 with mem := tableMem, arg := { a := fn, b := off, c := len, bytes := bs } }

theorem host_walk : ∀ acc : Acc, acc = .read ∨ acc = .write → ∀ j < 4,
    (wApe 0x3FFE 4 [1, 2, 3, 4]).translate (corePort Config.cores) 0 (0x3FFE + j) acc = .ok (0x3FFE + j) false := by
  rintro acc (rfl | rfl) j hj <;> interval_cases j <;> decide +kernel

/-- HostReachesMemoryThroughItsAperture: four bytes over a page's end, and at the top of what the table maps; an address
beyond it; functions without a context. -/
theorem witness_aperture :
    (let s := wApe 0x3FFE 4 [1, 2, 3, 4]
     s.bringup = .ready ∧ 1 ≤ s.arg.a ∧ s.arg.a ≤ 64 ∧ inUse s (s.arg.a - 1) ctx1 ∧ ctx1.id = s.arg.a - 1 ∧ s.arg.b + s.arg.c ≤ 2 ^ 36 ∧
       s.arg.b + s.arg.bytes.length ≤ 2 ^ 36 ∧ hostStands s ctx1 (fun va => va) (ctx1.apBase.toNat + s.arg.b) s.arg.c .read ∧
       hostStands s ctx1 (fun va => va) (ctx1.apBase.toNat + s.arg.b) s.arg.bytes.length .write ∧ s.posted = []) ∧
    (let p : Posted := { write := 1, ordered := true, pa := 0x2000, bytes := [1] }
     let q : Posted := { p with write := 2, pa := 0x3000 }
     ∀ n, n = 0 ∨ n = 1 → let s : State := { w1 with agenda := [.posted n], posted := [p, q] }
     s.posted[n]? = some (if n = 0 then p else q) ∧ (n = 1 → q.ordered = true ∧ p ∈ s.posted.take n ∧ p.ordered = true ∧ p.write ≠ q.write) ∧
       (n = 0 → s.posted.take n = [])) ∧
    (∀ acc, acc = .read ∨ acc = .write → (wApe 0x80000000 4 [1]).translate (corePort Config.cores) 0 0x80000000 acc =
      .fault { cause := 1, page := 0x80000000, pageSize := 4096 }) ∧ (0 : Nat) < 4 ∧ [(1 : Byte)] ≠ [] ∧
    (∀ fn, fn = 0 ∨ fn = 64 ∨ fn = 65 → ∀ c, ¬ (1 ≤ (wApe 0 1 [] fn).arg.a ∧ (wApe 0 1 [] fn).arg.a ≤ 64 ∧
      inUse (wApe 0 1 [] fn) ((wApe 0 1 [] fn).arg.a - 1) c)) := by
  refine ⟨⟨rfl, by decide, by decide, ⟨by decide +kernel, rfl⟩, rfl, by decide, by decide, fun j hj => ⟨⟨false, ?_⟩, fun _ => rfl⟩,
    fun j hj => ⟨⟨false, ?_⟩, fun h => by cases h⟩, rfl⟩, ?_, ?_, by decide, by decide, ?_⟩
  · have : ctx1.apBase.toNat + (wApe 0x3FFE 4 [1, 2, 3, 4]).arg.b + j = 0x3FFE + j := by
      have : ctx1.apBase.toNat = 0 := rfl
      rw [this]; show 0 + 0x3FFE + j = _; omega
    rw [this]
    exact host_walk .read (.inl rfl) j hj
  · have : ctx1.apBase.toNat + (wApe 0x3FFE 4 [1, 2, 3, 4]).arg.b + j = 0x3FFE + j := by
      have : ctx1.apBase.toNat = 0 := rfl
      rw [this]; show 0 + 0x3FFE + j = _; omega
    rw [this]
    exact host_walk .write (.inr rfl) j hj
  · intro p q n hn; rcases hn with rfl | rfl <;> decide +kernel
  · rintro acc (rfl | rfl) <;> decide +kernel
  · rintro fn (rfl | rfl | rfl) c ⟨h1, h2, h3, -⟩
    · exact absurd h1 (by decide)
    · have : (wApe 0 1 [] 64).ctx? ((wApe 0 1 [] 64).arg.a - 1) = none := by decide +kernel
      rw [this] at h3; cases h3
    · exact absurd h2 (by decide)

/-! ## A step -/

/-- A team whose clause begins with some parcels, with a REP in progress or none. -/
def atParcels (ps : List Word) (rep : Option Rep := none) : Team :=
  { team1 with clause := some { clause1 (ps ++ List.replicate 14 0) with rep } }
/-- VADD .f32 with vector operands from v1, v2, v3. -/
def vaddF : VFields := fields 1 2 3 0 8 0 0 none
def rep3 (d : Int) : Rep := { n := 4, stepD := d, stepA := 0, stepB := 1, m := 3 }

/-- StepRunsDecodedInstruction: a team that issues without the agenda and by its turn; a scalar instruction, a repeated one at
issue 3, and a REP that a scalar instruction cannot take; a team before its clause; an event. -/
theorem witness_step :
    issues (wT (atParcels [parcelS 2 5 6 7])) (wT (atParcels [parcelS 2 5 6 7])) ∧
    issues { w1 with agenda := [.issue h1 3] } { w1 with agenda := [], cur := h1, cores := [(0, { cyc := 3, tlb := [leaf1], first := [(0, [leaf1])] })] } ∧
    (wT (atParcels [parcelS 2 5 6 7])).poised (atParcels [parcelS 2 5 6 7]) = true ∧
    (∀ r, r = none ∨ r = some (rep3 1) ∨ r = some { rep3 1 with m := 0 } → decode (((clause1 (wordV 0x010 1 2 3 0 8 0 0 ++ List.replicate 14 0)).body).drop 0) = .ok (.vadd vaddF) 2 ∧
      (wT (atParcels (wordV 0x010 1 2 3 0 8 0 0) r)).poised (atParcels (wordV 0x010 1 2 3 0 8 0 0) r) = true) ∧
    vOf (.vadd vaddF) = some (0x010, vaddF, true) ∧ steppedTo 0x010 vaddF (fields 4 2 6 0 8 0 0 none) (rep3 1) ∧
    ofV 0x010 (fields 4 2 6 0 8 0 0 none) = some (.vadd (fields 4 2 6 0 8 0 0 none)) ∧
    (wT (atParcels [parcelS 2 5 6 7] (some (rep3 1)))).poised (atParcels [parcelS 2 5 6 7] (some (rep3 1))) = true ∧
    decode ((parcelS 2 5 6 7 :: List.replicate 14 0).drop 0) = .ok (.saddReg 5 6 7) 1 ∧ vOf (.saddReg 5 6 7) = none ∧
    (wT { team1 with clause := none }).team? h1 = some { team1 with clause := none } ∧
    Instr.droopEvent.wellFormed = false ∧ vOf .droopEvent = none := by
  refine ⟨.inl ⟨rfl, rfl⟩, .inr ⟨h1, 3, [], rfl, ?_⟩, by decide +kernel, ?_, by decide +kernel, ?_, by decide +kernel, by decide +kernel,
    by decide +kernel, by decide +kernel, by decide +kernel, by decide +kernel, by decide +kernel⟩
  · have : coreOf h1 = 0 := by decide +kernel
    rw [this]; rfl
  · rintro r (rfl | rfl | rfl) <;> decide +kernel
  · unfold steppedTo Claims.stepped; decide +kernel

/-- ReservedEncodingTraps, ChecksTrapInOrder: parcels that are no instruction; a register that the team does not have, and a
format that the instruction does not take. -/
theorem witness_checks :
    decode ((parcelS 1 0 0 0 :: List.replicate 14 0).drop 0) = .refused .unassigned ∧
    (wT (atParcels [parcelS 1 0 0 0])).poised (atParcels [parcelS 1 0 0 0]) = true ∧
    w1.poised team1 = true ∧ vOf (.vadd (fields 1 64 3 0 8 0 0 none)) = some (0x010, fields 1 64 3 0 8 0 0 none, true) ∧
    checkV w1 team1 0x010 (fields 1 64 3 0 8 0 0 none) = some 5 ∧ checkV w1 team1 0x010 (fields 1 2 3 0 14 0 0 none) = some 4 := by
  refine ⟨?_, ?_, ?_, ?_, ?_, ?_⟩
  · decide +kernel
  · decide +kernel
  · decide +kernel
  · decide +kernel
  · decide +kernel
  · decide +kernel

/-- StepKeepsMemoryCanonical: the reset state has the form, and steps on. -/
theorem witness_canonical : State.reset.MemCanonical ∧ step State.reset = .next State.reset := by
  exact ⟨by unfold State.MemCanonical; decide +kernel, rfl⟩

end Sys2Proof.Tests
end

section
/-! PROOFS. The S-format word (R92, R99, R102): what the decoder reads from the parcels that the encoder writes. -/

namespace Sys2Proof.Machine

theorem sWord_toNat {op d a b : Nat} (h : op * 2 ^ 22 + d * 2 ^ 15 + a * 2 ^ 8 + b < 2 ^ 30) :
    (sWord op d a b).toNat = op * 2 ^ 22 + d * 2 ^ 15 + a * 2 ^ 8 + b := by
  simp only [sWord, BitVec.toNat_ofNat]
  exact Nat.mod_eq_of_lt (by omega)

/-! ## The fields of an S-format parcel -/

theorem kindOf_sWord {op d a b : Nat} (h : op * 2 ^ 22 + d * 2 ^ 15 + a * 2 ^ 8 + b < 2 ^ 30) :
    kindOf (sWord op d a b) = 0 := by
  rw [kindOf, sWord_toNat h]
  exact Nat.div_eq_of_lt h

theorem opcode_sWord {op d a b : Nat} (h : op * 2 ^ 22 + d * 2 ^ 15 + a * 2 ^ 8 + b < 2 ^ 30)
    (hx : d * 2 ^ 15 + a * 2 ^ 8 + b < 2 ^ 22) : (sWord op d a b).toNat / 2 ^ 22 % 256 = op := by
  rw [sWord_toNat h]
  omega

theorem sdBits_sWord {op a b : Nat} (d : BitVec 7) (h : op * 2 ^ 22 + d.toNat * 2 ^ 15 + a * 2 ^ 8 + b < 2 ^ 30)
    (hx : a * 2 ^ 8 + b < 2 ^ 15) : sdBits (sWord op d.toNat a b).toNat = d := by
  apply BitVec.eq_of_toNat_eq
  rw [sdBits, sWord_toNat h, BitVec.toNat_ofNat]
  omega

theorem saOf_sWord {op d b : Nat} (a : BitVec 7) (h : op * 2 ^ 22 + d * 2 ^ 15 + a.toNat * 2 ^ 8 + b < 2 ^ 30)
    (hb : b < 2 ^ 8) : saOf (sWord op d a.toNat b).toNat = a := by
  apply BitVec.eq_of_toNat_eq
  rw [saOf, sWord_toNat h, BitVec.toNat_ofNat]
  omega

/-- The lowest field of a parcel, whatever its width, when the fields above it begin where it ends. -/
theorem ofNat_sWord {op d a n : Nat} (x : BitVec n)
    (h : op * 2 ^ 22 + d * 2 ^ 15 + a * 2 ^ 8 + x.toNat < 2 ^ 30)
    (hd : 2 ^ n ∣ op * 2 ^ 22 + d * 2 ^ 15 + a * 2 ^ 8) :
    BitVec.ofNat n (sWord op d a x.toNat).toNat = x := by
  apply BitVec.eq_of_toNat_eq
  obtain ⟨k, hk⟩ := hd
  rw [sWord_toNat h, BitVec.toNat_ofNat, hk, Nat.mul_add_mod, Nat.mod_eq_of_lt x.isLt]

theorem zeros_sWord {op d a b lo n : Nat} (h : op * 2 ^ 22 + d * 2 ^ 15 + a * 2 ^ 8 + b < 2 ^ 30)
    (hz : (op * 2 ^ 22 + d * 2 ^ 15 + a * 2 ^ 8 + b) / 2 ^ lo % 2 ^ n = 0) :
    (sWord op d a b).toNat / 2 ^ lo % 2 ^ n = 0 := by
  rw [sWord_toNat h, hz]

/-- REP's parcel is an S-format parcel whose fields straddle SD, SA and SB (R102). -/
theorem repWord_eq_sWord (n : BitVec 6) (d a b : BitVec 4) :
    repWord n.toNat d.toNat a.toNat b.toNat =
      sWord 0x54 (n.toNat * 2 + d.toNat / 8) (d.toNat % 8 * 16 + a.toNat) (b.toNat * 16) := by
  rw [repWord, sWord]
  congr 1
  omega

/-! ## Decode of encode -/

theorem decodeS_repWord (n : BitVec 6) (d a b : BitVec 4) :
    decodeS (repWord n.toNat d.toNat a.toNat b.toNat).toNat = some (.rep n d a b) := by
  rw [repWord_eq_sWord]
  simp (disch := omega) only [decodeS, opcode_sWord, zeroIn, Nat.reduceSub, Nat.reduceAdd, zeros_sWord,
    beq_self_eq_true, if_true]
  simp (disch := omega) only [sWord_toNat, Option.some.injEq, Instr.rep.injEq, ← BitVec.toNat_inj,
    BitVec.toNat_ofNat]
  refine ⟨?_, ?_, ?_, ?_⟩ <;> omega

theorem decodeS_segset (n : BitVec 3) (a b : BitVec 7) :
    decodeS (sWord 0x59 (n.toNat * 16) a.toNat b.toNat).toNat = some (.segset n a b) := by
  have hn : BitVec.ofNat 3 ((sWord 0x59 (n.toNat * 16) a.toNat b.toNat).toNat / 2 ^ 19) = n := by
    apply BitVec.eq_of_toNat_eq
    rw [sWord_toNat (by omega), BitVec.toNat_ofNat]
    omega
  simp (disch := omega) only [decodeS, opcode_sWord, zeroIn, Nat.reduceSub, Nat.reduceAdd, zeros_sWord,
    beq_self_eq_true, Bool.and_self, if_true, hn, saOf_sWord, sbOf, ofNat_sWord]

/-- The S-format instructions in pairs, of a register form and an immediate form (R133, R134, R136, R139, R140). -/
def isPairedS : Instr → Bool
  | .saddReg _ _ _ | .saddImm _ _ _ | .ssubReg _ _ _ | .ssubImm _ _ _ | .smulReg _ _ _ | .smulImm _ _ _
  | .smulhReg _ _ _ | .smulhImm _ _ _ | .sdivReg _ _ _ | .sdivImm _ _ _ | .sremReg _ _ _ | .sremImm _ _ _
  | .sandReg _ _ _ | .sandImm _ _ _ | .sorReg _ _ _ | .sorImm _ _ _ | .sxorReg _ _ _ | .sxorImm _ _ _
  | .sandnReg _ _ _ | .sandnImm _ _ _ | .sshlReg _ _ _ | .sshlImm _ _ _ | .sshrReg _ _ _ | .sshrImm _ _ _
  | .ssarReg _ _ _ | .ssarImm _ _ _ | .srolReg _ _ _ | .srolImm _ _ _ | .sminReg _ _ _ | .sminImm _ _ _
  | .smaxReg _ _ _ | .smaxImm _ _ _ | .scmpReg _ _ _ | .scmpImm _ _ _ | .scmpUReg _ _ _ | .scmpUImm _ _ _
  | .sselReg _ _ _ | .sselImm _ _ _ => true
  | _ => false

/-- The S-format control transfers (R146 to R149, R155). -/
def isTransferS : Instr → Bool
  | .bccZ _ _ | .bccNz _ _ | .bccLt _ _ | .bccGe _ _ | .bccGt _ _ | .bccLe _ _ | .bra _ | .bmz _ | .bmnz _
  | .bmall _ | .call _ _ | .ret _ | .jmpi _ | .exit => true
  | _ => false

theorem decodeS_encodeS_paired {i : Instr} {w : Word} (hi : isPairedS i = true) (h : encodeS i = some w) :
    decodeS w.toNat = some i := by
  cases i
  all_goals cases hi
  all_goals cases h
  all_goals simp (disch := omega) only [decodeS, opcode_sWord, zeroIn, Nat.reduceSub, Nat.reduceAdd, zeros_sWord,
    beq_self_eq_true, if_true, sdBits_sWord, saOf_sWord, sbOf, immOf, amtOf, ofNat_sWord]

theorem decodeS_encodeS_transfer {i : Instr} {w : Word} (hi : isTransferS i = true) (h : encodeS i = some w) :
    decodeS w.toNat = some i := by
  cases i
  all_goals cases hi
  all_goals cases h
  all_goals simp (disch := omega) only [decodeS, opcode_sWord, zeroIn, Nat.reduceSub, Nat.reduceAdd, zeros_sWord,
    beq_self_eq_true, Bool.and_self, if_true, sdBits_sWord, saOf_sWord, ofNat_sWord]

theorem decodeS_encodeS_other {i : Instr} {w : Word} (hp : isPairedS i = false) (ht : isTransferS i = false)
    (h : encodeS i = some w) : decodeS w.toNat = some i := by
  cases i
  case rep n d a b => cases h; exact decodeS_repWord n d a b
  case segset n a b => cases h; exact decodeS_segset n a b
  all_goals cases hp
  all_goals cases ht
  all_goals cases h
  all_goals simp (disch := omega) only [decodeS, opcode_sWord, zeroIn, Nat.reduceSub, Nat.reduceAdd, zeros_sWord,
    beq_self_eq_true, Bool.and_self, if_true, sdBits_sWord, saOf_sWord, sbOf, immOf, ofNat_sWord]

/-- Decode of encode in the S-format. The instructions stand in three groups only to keep each proof's cost low. -/
theorem decodeS_encodeS {i : Instr} {w : Word} (h : encodeS i = some w) : decodeS w.toNat = some i := by
  cases hp : isPairedS i with
  | true => exact decodeS_encodeS_paired hp h
  | false =>
    cases ht : isTransferS i with
    | true => exact decodeS_encodeS_transfer ht h
    | false => exact decodeS_encodeS_other hp ht h

theorem kindOf_encodeS {i : Instr} {w : Word} (h : encodeS i = some w) : kindOf w = 0 := by
  cases i
  all_goals cases h
  case rep.refl n d a b =>
    rw [repWord_eq_sWord]
    exact kindOf_sWord (by omega)
  all_goals exact kindOf_sWord (by omega)

theorem isSome_encodeS (i : Instr) : (encodeS i).isSome = i.isScalarFormat := by
  cases i <;> rfl

end Sys2Proof.Machine
end

section
/-! PROOFS. V-format and L-format words (R93, R101): parcels and fields, constructors and opcodes; and O54. -/

namespace Sys2Proof.Machine

/-! ## The fields of a word -/

theorem kindOf_firstParcel {op : Nat} (h : op < 1024) (f : VFields) :
    kindOf (firstParcel op f) = if f.lit.isSome then 2 else 1 := by
  simp only [kindOf, firstParcel, BitVec.toNat_ofNat]
  split <;> omega

theorem opcodeOf_firstParcel {op : Nat} (h : op < 1024) (f : VFields) : opcodeOf (firstParcel op f) = op := by
  simp only [opcodeOf, firstParcel, BitVec.toNat_ofNat]
  split <;> omega

theorem fieldsOf_parcels (op : Nat) (f : VFields) :
    fieldsOf (firstParcel op f) (secondParcel f) f.lit = f := by
  obtain ⟨vd, va, vb, vc, fmt, md, fn, lit⟩ := f
  simp only [fieldsOf, firstParcel, secondParcel, VFields.mk.injEq, and_true, ← BitVec.toNat_inj, BitVec.toNat_ofNat]
  refine ⟨?vd, ?va, ?vb, ?_, ?_, ?_, ?_⟩
  case vd | va | vb => split <;> omega
  all_goals omega

/-! ## Constructors and opcodes -/

theorem formOf_lt {op : Nat} {F : Form} (h : formOf op = some F) : op < 1024 := by
  by_contra hop
  have : formOf op = none := by
    simp only [formOf, Bool.and_eq_true, Bool.or_eq_true, decide_eq_true_eq]
    repeat rw [if_neg (by omega)]
  simp [this] at h

theorem formOk_of_order1 {op : Nat} {f : VFields} (h : order1 op f = true) : formOk op f = true := by
  simp only [order1, Bool.and_eq_true] at h
  exact h.1

theorem exists_form {op : Nat} {f : VFields} (h : order1 op f = true) : ∃ F, formOf op = some F := by
  have hf := formOk_of_order1 h
  cases hF : formOf op with
  | none => simp [formOk, hF] at hf
  | some F => exact ⟨F, rfl⟩

/-- The constructor whose opcode and fields these are, and which the fields pick, is the one that the decoder names. -/
theorem ofV_of_vOf {i : Instr} {op : Nat} {f : VFields} (h : vOf i = some (op, f, true)) : ofV op f = some i := by
  cases i
  case sliLong | sliZ | sliHi | vpermbLit | vpermbReg | vrotImm | vrotReg | hclrb | hclrbPool | rdoneDone | rdoneReplay
      | rdoneAbandon =>
    simp only [vOf, Option.some.injEq, Prod.mk.injEq] at h
    obtain ⟨rfl, rfl, hp⟩ := h
    refine congrArg some ?_
    simp_all
  all_goals simp only [vOf, reduceCtorEq, Option.some.injEq, Prod.mk.injEq] at h
  all_goals
    obtain ⟨rfl, rfl, -⟩ := h
    rfl

/-! ## Words and instructions -/

theorem decode_vFormat {p0 : Word} (p1 : Word) (rest : List Word) (h : kindOf p0 = 1) :
    decode (p0 :: p1 :: rest) = decodeV (opcodeOf p0) (fieldsOf p0 p1 none) 2 := by
  simp only [decode, h]

theorem decode_lFormat {p0 : Word} (p1 p2 : Word) (rest : List Word) (h : kindOf p0 = 2) :
    decode (p0 :: p1 :: p2 :: rest) = decodeV (opcodeOf p0) (fieldsOf p0 p1 (some p2)) 3 := by
  simp only [decode, h]

theorem decode_sFormat {p0 : Word} {i : Instr} (rest : List Word) (h : kindOf p0 = 0)
    (hi : decodeS p0.toNat = some i) : decode (p0 :: rest) = .ok i 1 := by
  simp only [decode, h, hi]

theorem decode_vParcels {op : Nat} (h : op < 1024) (f : VFields) (rest : List Word) :
    decode (vParcels op f ++ rest) = decodeV op f (vParcels op f).length := by
  have hk := kindOf_firstParcel h f
  have hf := fieldsOf_parcels op f
  have ho := opcodeOf_firstParcel h f
  cases hl : f.lit with
  | none =>
    rw [hl] at hk hf
    rw [vParcels, hl]
    exact (decode_vFormat _ rest hk).trans (by rw [hf, ho]; rfl)
  | some l =>
    rw [hl] at hk hf
    rw [vParcels, hl]
    exact (decode_lFormat _ l rest hk).trans (by rw [hf, ho]; rfl)

theorem decodeV_ok {op : Nat} {f : VFields} {i : Instr} (n : Nat) (h : order1 op f = true) (hi : ofV op f = some i) :
    decodeV op f n = .ok i n := by
  obtain ⟨F, hF⟩ := exists_form h
  simp only [decodeV, hF, formOk_of_order1 h, h, hi, if_true]

/-- Settles O54: an instruction has its parcels from the V-format or L-format tables, which its opcode and fields give
back, or from the S-format table. -/
theorem encodeDecodeAgree : Obligations.EncodeDecodeAgree := by
  intro i rest hwf
  unfold Instr.wellFormed at hwf
  unfold encode
  cases hv : vOf i with
  | some x =>
    obtain ⟨op, f, picked⟩ := x
    simp only [hv, Bool.and_eq_true] at hwf
    obtain ⟨horder, rfl⟩ := hwf
    obtain ⟨F, hF⟩ := exists_form horder
    exact (decode_vParcels (formOf_lt hF) f rest).trans (decodeV_ok _ horder (ofV_of_vOf hv))
  | none =>
    simp only [hv] at hwf
    obtain ⟨w, hw⟩ := Option.isSome_iff_exists.mp ((isSome_encodeS i).trans hwf)
    rw [hw]
    exact decode_sFormat rest (kindOf_encodeS hw) (decodeS_encodeS hw)

end Sys2Proof.Machine
end

section
/-! PROOFS. What stands around exec when a team issues (R84, R91, R111, R152, R376): the mask that issue 0 of a REP takes, the instruction at the team's position, and the performance counters. -/

namespace Sys2Proof.Machine

open Sys2Proof.Claims

/-! ## Performance counters (R376) -/

/-- State w is state s after the performance counters have seen events of a core: counters alone differ, and nothing where
the core has none. -/
structure CountsOnly (core : Nat) (s w : State) : Prop where
  frame : w = { s with cores := w.cores }
  perf : ∀ k, w.core k = { s.core k with perf := (w.core k).perf }
  idle : (s.core core).perf = [] → w = s

theorem CountsOnly.refl (core : Nat) (s : State) : CountsOnly core s s := ⟨rfl, fun _ => rfl, fun _ => rfl⟩

theorem CountsOnly.trans {core : Nat} {s v w : State} (h : CountsOnly core s v) (h' : CountsOnly core v w) :
    CountsOnly core s w where
  frame := by rw [h'.frame, h.frame]
  perf k := by rw [h'.perf k, h.perf k]
  idle hs := by
    have hv : v = s := h.idle hs
    rw [h'.idle (hv ▸ hs), hv]

theorem countPerf_countsOnly (s : State) (core ctx code n : Nat) : CountsOnly core s (s.countPerf core ctx code n) := by
  unfold State.countPerf
  split
  · exact .refl core s
  · rename_i h
    refine ⟨rfl, fun k => ?_, fun hs => absurd (by simp [hs]) h⟩
    rw [State.core_modCore]
    split
    · rename_i hk; rw [hk]
    · rfl

theorem countIssue_countsOnly (s : State) (t v : Team) (s' : State) :
    CountsOnly (coreOf t.tid) s' (s.countIssue t v s') := by
  unfold State.countIssue
  split
  · exact .refl _ _
  · exact ((countPerf_countsOnly ..).trans (countPerf_countsOnly ..)).trans (countPerf_countsOnly ..)

/-- A step that is an instruction's counted outcome runs that instruction. -/
theorem stepRuns_of_counted {s0 s : State} {t : Team} {i : Instr} (h : step s0 = counted s t (exec i s)) :
    stepRuns s0 s (coreOf t.tid) i := by
  intro s' hs
  rw [hs] at h
  obtain ⟨frame, perf, idle⟩ := countIssue_countsOnly s t (s.view t).1 s'
  exact ⟨_, h, frame, perf, idle⟩

/-- An instruction that has not issued is not counted. -/
theorem counted_of_not_issued {s s' : State} {t : Team} (h : t.hasIssued (s'.team? t.tid) = false) :
    counted s t (.next s') = .next s' := by
  simp [counted, State.countIssue, h]

/-! ## A trapped team has not issued (R380) -/

/-- The team with handle h stands off the active set in a clause, held by nothing. -/
def StandsOff (h : Handle) (c : Option Clause) (s : State) : Prop :=
  ∃ u, s.team? h = some u ∧ u.clause = c ∧ u.run = .pending ∧ u.held = none

theorem StandsOff.of_teams {h : Handle} {c : Option Clause} {s s' : State} (hs : StandsOff h c s)
    (ht : s'.teams = s.teams) : StandsOff h c s' := by
  simpa only [StandsOff, State.team?, ht] using hs

theorem Team.endArm_keeps (t : Team) (n : Nat) (hr : t.run = .pending) :
    (t.endArm n).clause = t.clause ∧ (t.endArm n).run = .pending ∧ (t.endArm n).held = t.held := by
  unfold Team.endArm
  split
  · simp [hr]
  · simp [hr]

theorem Team.endArm_tid (t : Team) (n : Nat) : (t.endArm n).tid = t.tid := by
  unfold Team.endArm
  split <;> rfl

theorem StandsOff.endArm {h : Handle} {c : Option Clause} {s : State} (hs : StandsOff h c s) (k : Handle) (n : Nat) :
    StandsOff h c (s.modTeam k fun t => t.endArm n) := by
  have hid : ∀ t : Team, t.tid = k → (t.endArm n).tid = k := fun t ht => (t.endArm_tid n).trans ht
  obtain ⟨u, hu, hc, hr, hh⟩ := hs
  by_cases hk : h = k
  · subst hk
    obtain ⟨kc, kr, kh⟩ := u.endArm_keeps n hr
    exact ⟨u.endArm n, by rw [State.team?_modTeam_same s h _ hid, hu]; rfl, kc.trans hc, kr, kh.trans hh⟩
  · exact ⟨u, (State.team?_modTeam_ne s _ hk hid).trans hu, hc, hr, hh⟩

theorem StandsOff.fireLine {h : Handle} {c : Option Clause} {s : State} (hs : StandsOff h c s) (l n : Nat) :
    StandsOff h c (s.fireLine l n) :=
  List.foldlRecOn _ _ (hs.of_teams rfl) fun _ hb a _ => hb.endArm a.tid n

theorem State.touchAt_teams (s : State) (pa : Nat) (w : Bool) : (s.touchAt pa w).teams = s.teams := by
  simp only [State.touchAt]
  split
  · split <;> rfl
  · rfl

theorem StandsOff.homeWrite {h : Handle} {c : Option Clause} {s : State} (hs : StandsOff h c s) (pa : Nat)
    (bs : List Byte) : StandsOff h c (s.homeWrite pa bs) := by
  refine List.foldlRecOn _ _ ?_ fun _ hb l _ => hb.fireLine l 0
  exact List.foldlRecOn _ _ (hs.of_teams rfl) fun st hb p _ => hb.of_teams (st.touchAt_teams p.1 true)

theorem StandsOff.report {h : Handle} {c : Option Clause} {s : State} (hs : StandsOff h c s) (ctx kind cause : Nat)
    (tid : Handle) (a d : Nat) : StandsOff h c (s.report ctx kind cause tid a d) := by
  unfold State.report
  split
  · exact hs
  · exact (hs.homeWrite _ _).of_teams rfl

theorem Team.endStep_eq {t : Team} (h : t.stepping = none) (n : Nat) : t.endStep n = t := by
  simp [Team.endStep, h]

theorem trap_standsOff {s : State} {t : Team} (h : Poised s t) (cause detail : Nat) (info : Dword) (mask : LaneMask) :
    StandsOff t.tid t.clause (s.trap t cause detail info mask) := by
  have hrun : t.haltedNow.run = .pending := by
    have hm := h.may
    simp only [State.canIssue, Team.mayIssue, Team.isActive, Bool.and_eq_true] at hm
    unfold Team.haltedNow
    cases hr : t.run with
    | active => rfl
    | pending => rfl
    | parked p w => simp [hr] at hm
  have hhalt : StandsOff t.tid t.clause (s.setTeam (t.haltedNow.endStep 3)) := by
    rw [Team.endStep_eq (show t.haltedNow.stepping = none from h.stepping)]
    exact ⟨t.haltedNow, State.team?_setTeam t.haltedNow (h.tid ▸ h.team), rfl, hrun, rfl⟩
  cases hsup : s.isSup t with
  | true => rw [trap_reports hsup]; exact hhalt.report ..
  | false => rw [trap_posts hsup]; exact hhalt.of_teams rfl

/-- A trap of a poised team is no issue, so the performance counters do not see it. -/
theorem counted_trap {s : State} {t : Team} (h : Poised s t) (cause : Nat) :
    counted s t (.next (s.trap t cause 0 0 0)) = .next (s.trap t cause 0 0 0) := by
  obtain ⟨u, hu, hc, hr, hh⟩ := trap_standsOff h cause 0 0 0
  apply counted_of_not_issued
  rw [hu]
  simp [Team.hasIssued, hc, hr, hh]

/-! ## The mask of a REP (R111, R152) -/

theorem updFirst_fixed {α : Type} (p : α → Bool) (l : List α) {a : α} (h : l.find? p = some a) :
    updFirst p (fun _ => a) l = l := by
  induction l with
  | nil => rfl
  | cons b r ih =>
    by_cases hb : p b = true
    · rw [List.find?_cons_of_pos hb] at h
      obtain rfl := Option.some.inj h
      simp [updFirst, hb]
    · rw [List.find?_cons_of_neg hb] at h
      simp [updFirst, hb, ih h]

theorem setTeam_same {s : State} {t : Team} (h : s.team? t.tid = some t) : s.setTeam t = s := by
  simp only [State.setTeam, State.modTeam, updFirst_fixed _ _ h]

theorem withMask_eq {s : State} {t : Team} (h : Poised s t) : withMask s t = s.setTeam (maskTaken t) := by
  unfold withMask
  split
  · rename_i hm
    rw [hm, setTeam_same (h.tid ▸ h.team)]
  · rfl

/-- Taking the mask changes a team's REP and nothing else of it. -/
theorem maskTaken_eq {t : Team} {c : Clause} (hc : t.clause = some c) :
    ∃ r, maskTaken t = { t with clause := some { c with rep := r } } := by
  have hself : t = { t with clause := some { c with rep := c.rep } } := by
    rw [show some { c with rep := c.rep } = t.clause from hc.symm]
  simp only [maskTaken, hc]
  split
  · split
    · exact ⟨_, rfl⟩
    · exact ⟨_, hself⟩
  · exact ⟨_, hself⟩

theorem tid_maskTaken (t : Team) : (maskTaken t).tid = t.tid := by
  cases hc : t.clause with
  | none => simp only [maskTaken, hc]
  | some c =>
    obtain ⟨r, hr⟩ := maskTaken_eq hc
    rw [hr]

theorem withMask_of_noRep {s : State} {t : Team} {c : Clause} (hc : t.clause = some c) (hr : c.rep = none) :
    withMask s t = s := by
  simp only [withMask, maskTaken, hc, hr, if_true]

theorem takeMask_poised {s : State} {t : Team} (h : Poised s t) : s.takeMask t = (withMask s t, maskTaken t) := by
  rw [withMask_eq h]
  have hsame := setTeam_same (h.tid ▸ h.team)
  obtain ⟨c, hc⟩ := Option.isSome_iff_exists.mp h.clause
  cases hr : c.rep with
  | none => simp only [State.takeMask, maskTaken, hc, hr, hsame]
  | some r =>
    by_cases hm : r.m = 0
    · simp only [State.takeMask, maskTaken, hc, hr, hm, if_true, h.view]
      rfl
    · simp only [State.takeMask, maskTaken, hc, hr, hm, if_false, hsame]

theorem poised_clause {s : State} {t : Team} {c : Clause} (h : Poised s t) (hc : t.clause = some c) (r : Option Rep) :
    Poised (s.setTeam { t with clause := some { c with rep := r } }) { t with clause := some { c with rep := r } } where
  team := by
    rw [State.setTeam_cur, ← h.tid]
    exact State.team?_setTeam { t with clause := some { c with rep := r } } (h.tid ▸ h.team)
  clause := rfl
  may := by
    have hm := h.may
    simp only [State.canIssue, Team.mayIssue, hc] at hm
    exact hm
  divide := h.divide
  datapath := h.datapath
  hadamard := h.hadamard
  loads := h.loads
  runs := h.runs
  weirs := h.weirs
  late := h.late
  stepping := h.stepping
  stays := h.stays
  yields := by
    have hy := h.yields
    simp only [Team.clauseYield, hc] at hy
    exact hy
  rputs := h.rputs
  mark := h.mark

theorem poised_withMask {s : State} {t : Team} (h : Poised s t) : Poised (withMask s t) (maskTaken t) := by
  obtain ⟨c, hc⟩ := Option.isSome_iff_exists.mp h.clause
  obtain ⟨r, hr⟩ := maskTaken_eq hc
  rw [withMask_eq h, hr]
  exact poised_clause h hc r

/-! ## The step of a team that issues -/

theorem step_of_issues {s0 s : State} (h : issues s0 s) : step s0 = issueStep s := by
  unfold step
  rcases h with ⟨ha, rfl⟩ | ⟨k, n, rest, ha, rfl⟩
  · rw [ha]
  · rw [ha]; rfl

theorem issueStep_header {s : State} {t : Team} (ht : s.team? s.cur = some t) (hc : t.clause = none) :
    issueStep s = exec .clauseStart s := by
  simp only [issueStep, ht, hc]

theorem issueStep_poised {s : State} {t : Team} {c : Clause} (h : Poised s t) (hc : t.clause = some c) :
    issueStep s = counted (withMask s t) (maskTaken t) (runAt (withMask s t) (maskTaken t) c.rep) := by
  have hp := poised_withMask h
  have hcomes : s.comesToIssue t = (withMask s t, maskTaken t) := by
    simp only [State.comesToIssue, takeMask_poised h, hp.stepping]
  have hlive : (withMask s t).weirsLive (coreOf t.tid) = false := tid_maskTaken t ▸ weirsLive_off hp.weirs
  have hwaits : (maskTaken t).awaitsScalars = false := by simp [Team.awaitsScalars, hp.datapath]
  simp [issueStep, h.team, hc, h.may, hcomes, hp.divide, hwaits, hlive]

theorem parcelsAt_maskTaken {t : Team} {c : Clause} (hc : t.clause = some c) :
    (maskTaken t).parcelsAt = c.body.drop c.pos := by
  obtain ⟨r, hr⟩ := maskTaken_eq hc
  rw [hr]; rfl

end Sys2Proof.Machine
end

section
/-! PROOFS. The instruction that a team's parcels decode to, run alone or as an issue of a REP (R102, R152), and the checks before it (R103): O56 and O57. -/

namespace Sys2Proof.Machine

open Sys2Proof.Claims

/-! ## What the decoder answers -/

theorem vOf_of_decodeS {w : Nat} {i : Instr} (h : decodeS w = some i) : vOf i = none := by
  revert h
  fun_cases decodeS w
  all_goals intro h
  all_goals cases h
  all_goals rfl

/-- An instruction that an opcode and fields name has that opcode and those fields. -/
theorem vOf_of_ofV {i : Instr} {op : Nat} {f : VFields} (h : ofV op f = some i) : ∃ b, vOf i = some (op, f, b) := by
  revert h
  fun_cases ofV op f
  all_goals intro h
  all_goals cases h
  all_goals
    try split_ifs -- an opcode that several constructors share
    all_goals exact ⟨_, rfl⟩

theorem ofV_of_decodeV {op n m : Nat} {f : VFields} {i : Instr} (h : decodeV op f n = .ok i m) : ofV op f = some i := by
  revert h
  fun_cases decodeV op f n
  case case2 j hj => intro h; cases h; exact hj
  all_goals intro h; cases h

/-- A decoded instruction with an opcode and fields is the one that they name. -/
theorem ofV_of_decode {ps : List Word} {i : Instr} {n op : Nat} {f : VFields} {b : Bool} (h : decode ps = .ok i n)
    (hv : vOf i = some (op, f, b)) : ofV op f = some i := by
  have named : ∀ {op' m : Nat} {f' : VFields}, decodeV op' f' m = .ok i n → ofV op f = some i := by
    intro op' m f' hd
    have hi := ofV_of_decodeV hd
    obtain ⟨b', hb⟩ := vOf_of_ofV hi
    rw [hv] at hb
    cases hb
    exact hi
  revert h
  fun_cases decode ps
  case case2 j hj =>
    intro h
    cases h
    rw [vOf_of_decodeS hj] at hv
    cases hv
  case case4 => exact named
  case case5 => exact named
  all_goals
    intro h
    cases h

/-! ## An issue of a REP (R102, R152) -/

theorem stepped_at {m code : Nat} {step : Int} {vector : Bool} {c : BitVec 9}
    (h : stepped code m step vector c.toNat) : Stepped.at ⟨code, step, vector⟩ m = some c := by
  unfold Stepped.at
  rcases h with ⟨hstep, hc⟩ | ⟨hstep, hv, hcode, hle, hc⟩
  · simp [hstep, ← hc]
  · simp [hstep, hv, hcode, ← hc, hle]

theorem steppedFields_of_steppedTo {op : Nat} {f g : VFields} {r : Rep} (h : steppedTo op f g r) :
    steppedFields op f r = some g := by
  obtain ⟨hd, ha, hb, hg⟩ := h
  simp only [steppedFields, stepped_at hd, stepped_at ha, stepped_at hb]
  rw [← hg]

/-- Fields that do not step are the instruction's own in every issue. -/
theorem steppedTo_self (op : Nat) (f : VFields) {r : Rep} (hd : r.stepD = 0) (ha : r.stepA = 0) (hb : r.stepB = 0) :
    steppedTo op f f r :=
  ⟨.inl ⟨hd, rfl⟩, .inl ⟨ha, rfl⟩, .inl ⟨hb, rfl⟩, rfl⟩

theorem runRepeat_stepped {i j : Instr} {op : Nat} {f g : VFields} {b : Bool} {r : Rep} (hv : vOf i = some (op, f, b))
    (hs : steppedTo op f g r) (hj : ofV op g = some j) (s : State) : runRepeat s i r = exec j s := by
  simp only [runRepeat, hv, steppedFields_of_steppedTo hs, hj]

theorem runRepeat_unstepped {ps : List Word} {i : Instr} {n : Nat} {r : Rep} (hi : decode ps = .ok i n)
    (hd : r.stepD = 0) (ha : r.stepA = 0) (hb : r.stepB = 0) (s : State) : runRepeat s i r = exec i s := by
  cases hv : vOf i with
  | none => simp only [runRepeat, hv, hd, ha, hb, and_self, if_true]
  | some x =>
    obtain ⟨op, f, b⟩ := x
    exact runRepeat_stepped hv (steppedTo_self op f hd ha hb) (ofV_of_decode hi hv) s

/-- A scalar instruction has no fields that step (R152). -/
theorem runRepeat_refused {s : State} {t : Team} (h : Poised s t) {i : Instr} {r : Rep} (hv : vOf i = none)
    (hr : r.stepD ≠ 0 ∨ r.stepA ≠ 0 ∨ r.stepB ≠ 0) : runRepeat s i r = .next (s.trap t 0x03 0 0 0) := by
  have hz : ¬(r.stepD = 0 ∧ r.stepA = 0 ∧ r.stepB = 0) := by tauto
  simp only [runRepeat, hv, hz, if_false]
  exact issue_poised h _

/-! ## The instruction at a team's position -/

theorem runAt_refused {s : State} {t : Team} (h : Poised s t) {e : DecodeError} (hd : decode t.parcelsAt = .refused e)
    (rep : Option Rep) : runAt s t rep = .next (s.trap t 0x02 0 0 0) := by
  simp only [runAt, hd]
  exact issue_poised h _

theorem runAt_none {t : Team} {i : Instr} {n : Nat} (hd : decode t.parcelsAt = .ok i n) (s : State) :
    runAt s t none = exec i s := by
  simp only [runAt, hd]

theorem runAt_some {t : Team} {i : Instr} {n : Nat} (hd : decode t.parcelsAt = .ok i n) (s : State) (r : Rep) :
    runAt s t (some r) = runRepeat s i r := by
  simp only [runAt, hd]

theorem step_of_poised {s0 s : State} {t : Team} {c : Clause} (hi : issues s0 s) (h : Poised s t)
    (hc : t.clause = some c) :
    step s0 = counted (withMask s t) (maskTaken t) (runAt (withMask s t) (maskTaken t) c.rep) :=
  (step_of_issues hi).trans (issueStep_poised h hc)

/-! ## The checks of R103 -/

/-- An instruction's outcome in state s in which the checks of R103 come first, and then an effect of its own. -/
def ChecksFirst (op : Nat) (f : VFields) (s : State) (o : Host.Outcome State Fault Refusal) : Prop :=
  ∃ body, o = issueV op f s body

theorem issueV_checksFirst (op : Nat) (f : VFields) (s : State) (body : State → Team → Team → State) :
    ChecksFirst op f s (issueV op f s body) := ⟨body, rfl⟩

/-- Every V-format and L-format instruction, by itself or through the operation that its family shares, issues by issueV. -/
theorem exec_checksFirst {i : Instr} {op : Nat} {f : VFields} {b : Bool} (h : vOf i = some (op, f, b)) (s : State) :
    ChecksFirst op f s (exec i s) := by
  cases i
  all_goals cases h
  all_goals simp only [
    exec, execSliLong, execSliZ, execSliHi, execBccLong, execBraLong, execBmzLong, execBmnzLong, execBmallLong,
    execCallLong, execVmov, execVbcast, execVlane, execVsetl, execViota, execVwid, execVadd, execVsub, execVmul,
    execVfma, execVfms, execVfnma, execVmin, execVmax, execVabs, execVneg, execVclamp, execViadd, execVisub,
    execVimul, execVimulh, execVimad, execVshl, execVshr, execVsar, execVand, execVor, execVxor, execVnot,
    execVclz, execVpop, execVbfx, execVbfi, execVpermbLit, execVpermbReg, execVshuf, execVrotImm, execVrotReg,
    execVsel, execVcmp, execVisabs, execVcoalesce, execVnullif, execVmkabs, execVtand, execVtor, execVtnot,
    execVcvt, execVquant, execVdeq, execVamax, execVradd, execVrmin, execVrmax, execVrcount, execVscan,
    execVrand, execVrandf, execMkmask, execVrcp, execVrsq, execVsqrt, execVexp2, execVlog2, execVsin, execVcos,
    execVtanh, execVlogi, execVld, execVst, execSld, execSst, execVlds, execVsts, execPld, execPst, execProbe,
    execSdrain, execCpy, execCpyw, execFence, execAtom, execAtoms, execRed, execAmaxswap, execMarm, execMwait,
    execBarv, execBarw, execGbarv, execGbarw, execHold, execHrel, execHeir, execHclrb, execHclrbPool, execPmake,
    execPfulfil, execPwait, execPermget, execPermput, execEstate, execConvey, execMldt, execMfence, execMma,
    execMmat, execMmasp, execMzero, execMnew, execMhad, execMdrain, execMcnt, execMwaita, execGather,
    execScatter, execGlcfg, execBale, execUnbale, execColl, execRcnt, execRsnap, execHeapoffer, execHeapseal,
    execHeapread, execLaunch, execLaunchd, execWset, execWget, execHinsp, execHpoke, execHstep, execHresume,
    execHkill, execLrelease, execRrpop, execRput, execRdoneDone, execRdoneReplay, execRdoneAbandon, execSfpop,
    longLoad, branchLong, mapSlices, mapElems, reduceExtreme, randElems, special, memInsn, hintInsn, copyInsn,
    scratchBarrier, gridBarrier, requestInsn, objectInsn, collective, drainInsn, gleanInsn, baleInsn, blockInsn, debugInsn, rdone]
  all_goals exact issueV_checksFirst ..

/-! ## O56 and O57 -/

/-- Settles O56: a poised team's step is the counted outcome of the instruction that its parcels decode to, and an event's
turn is its meaning. -/
theorem stepRunsDecodedInstruction : Obligations.StepRunsDecodedInstruction := by
  refine ⟨fun s0 s t c i n hi hp hc hd => ?_, fun s0 s t hi ht hc => (step_of_issues hi).trans (issueStep_header ht hc),
    fun s i a rest ha hwf hv => ?_⟩
  · have hp := (poised_iff s t).mp hp
    have hstep := step_of_poised hi hp hc
    have hd : decode (maskTaken t).parcelsAt = .ok i n := parcelsAt_maskTaken hc ▸ hd
    have runs : ∀ j, runAt (withMask s t) (maskTaken t) c.rep = exec j (withMask s t) →
        stepRuns s0 (withMask s t) (coreOf t.tid) j := fun j hj =>
      tid_maskTaken t ▸ stepRuns_of_counted (hj ▸ hstep)
    refine ⟨fun hr => ?_, fun r hr hD hA hB => ?_, fun r op f b g j hr hv hs hj => ?_, fun r hr hv hne => ?_⟩
    · have := runs i (hr ▸ runAt_none hd _)
      rwa [withMask_of_noRep hc hr] at this
    · exact runs i (by rw [hr, runAt_some hd, runRepeat_unstepped hd hD hA hB])
    · exact runs j (by rw [hr, runAt_some hd, runRepeat_stepped hv hs hj])
    · have hm := poised_withMask hp
      rw [hstep, hr, runAt_some hd, runRepeat_refused hm hv hne, counted_trap hm]
  · have hev : isEvent i = true := by
      simp only [Instr.wellFormed, hv] at hwf
      simp [isEvent, hv, hwf]
    simp only [step, ha, takeTurn, hev, if_true]

theorem reservedEncodingTraps : Claims.ReservedEncodingTraps := by
  intro s0 s t c e hi hp hc hd
  have hp := (poised_iff s t).mp hp
  have hm := poised_withMask hp
  have hd : decode (maskTaken t).parcelsAt = .refused e := parcelsAt_maskTaken hc ▸ hd
  rw [step_of_poised hi hp hc, runAt_refused hm hd, counted_trap hm]

theorem checksTrapInOrder : Claims.ChecksTrapInOrder := by
  intro s t i op f b cause hv hp hcheck
  obtain ⟨body, hbody⟩ := exec_checksFirst hv s
  rw [hbody]
  exact issueV_checks ((poised_iff s t).mp hp) op f body hcheck

/-- Settles O57: refused parcels trap where the instruction would have run, and issueV makes the checks before any effect. -/
theorem reservedEncodingsAndFailedChecksTrap : Obligations.ReservedEncodingsAndFailedChecksTrap :=
  ⟨reservedEncodingTraps, checksTrapInOrder⟩

end Sys2Proof.Machine
end

section
/-! PROOFS. What the issue of a poised team does to the active set, its flags and its REP (R88, R102, R150 to R154): O5. -/

namespace Sys2Proof.Machine

open Sys2Proof.Claims

/-! ## Putting a team back twice -/

theorem updFirst_updFirst {α : Type} (p : α → Bool) (f g : α → α) (hf : ∀ a, p a = true → p (f a) = true) (l : List α) :
    updFirst p g (updFirst p f l) = updFirst p (g ∘ f) l := by
  induction l with
  | nil => rfl
  | cons a r ih =>
    by_cases h : p a = true
    · simp [updFirst, h, hf a h]
    · simp [updFirst, h, ih]

/-- Of two teams put back in one place, the second stands. -/
theorem setTeam_setTeam (s : State) {u w : Team} (h : w.tid = u.tid) : (s.setTeam u).setTeam w = s.setTeam w := by
  simp only [State.setTeam, State.modTeam, h]
  rw [updFirst_updFirst _ _ _ fun _ _ => by simp]
  rfl

/-- An instruction that issues has its body's effect, from a poised team. -/
theorem exec_poised {i : Instr} {s : State} {t : Team} {body : State → Team → Team → State} (h : Poised s t)
    (he : exec i s = issue s body) : exec i s = .next (body s t t) :=
  he.trans (issue_poised h body)

theorem Poised.here {s : State} {t : Team} (h : Poised s t) : s.team? t.tid = some t := h.tid ▸ h.team

theorem Poised.active {s : State} {t : Team} (h : Poised s t) : t.isActive = true := by
  have hm := h.may
  simp only [State.canIssue, Team.mayIssue, Bool.and_eq_true] at hm
  obtain ⟨⟨⟨⟨hactive, -⟩, -⟩, -⟩, -⟩ := hm
  exact hactive

/-! ## Completion flags (R113, R150) -/

theorem bit_mask (m : BitVec 12) (n : Nat) : bit m.toNat n = m.getLsbD n := by
  simp [bit, BitVec.getLsbD]

theorem flagsSet_eq_false {t : Team} {m : BitVec 12}
    (h : ∀ n, m.getLsbD n = true → (t.flag n).count = 0 ∧ (t.flag n).soft = false) : t.flagsSet m.toNat = false := by
  simp only [Team.flagsSet, List.any_eq_false, bit_mask, Bool.and_eq_true, not_and, Bool.not_eq_true]
  intro n _ hn
  obtain ⟨hcount, hsoft⟩ := h n hn
  simp [Flag.isSet, hcount, hsoft]

theorem flagsSet_eq_true {t : Team} {m : BitVec 12}
    (h : ∃ n, m.getLsbD n = true ∧ ((t.flag n).count ≠ 0 ∨ (t.flag n).soft = true)) : t.flagsSet m.toNat = true := by
  obtain ⟨n, hn, hset⟩ := h
  have hlt : n < 12 := BitVec.lt_of_getLsbD hn
  simp only [Team.flagsSet, List.any_eq_true, bit_mask, Bool.and_eq_true, List.mem_range]
  refine ⟨n, hlt, hn, ?_⟩
  rcases hset with h | h <;> simp [Flag.isSet, h]

/-- The software bits written of the flags that a list names. -/
theorem flag_foldl_setSoft (mask : Nat) (v : Bool) (ns : List Nat) (t : Team) (k : Nat) :
    (ns.foldl (fun u n => if bit mask n then u.modFlag n (fun f => { f with soft := v }) else u) t).flag k =
      if bit mask k = true ∧ k ∈ ns then { t.flag k with soft := v } else t.flag k := by
  induction ns generalizing t with
  | nil => simp
  | cons n ns ih =>
    rw [List.foldl_cons, ih]
    by_cases hn : bit mask n = true
    · simp only [hn, if_true, Team.flag_modFlag, List.mem_cons]
      by_cases hk : k = n
      · subst hk; simp [hn]
      · simp [hk]
    · have hk : k = n → ¬bit mask k = true := fun e => e ▸ hn
      simp only [hn, List.mem_cons]
      by_cases hkn : k = n
      · simp [hk hkn]
      · simp [hkn]

theorem setSoft_eq (t : Team) (mask : Nat) (v : Bool) : t.setSoft mask v = { t with flags := (t.setSoft mask v).flags } := by
  refine List.foldlRecOn (motive := fun u : Team => u = { t with flags := u.flags }) _ _ rfl fun u hu n _ => ?_
  split
  · rw [hu]; rfl
  · exact hu

theorem flag_setSoft (t : Team) (m : BitVec 12) (v : Bool) (n : Nat) :
    (t.setSoft m.toNat v).flag n = if m.getLsbD n then { t.flag n with soft := v } else t.flag n := by
  have hlt : m.getLsbD n = true → n < 12 := fun h => BitVec.lt_of_getLsbD h
  rw [Team.setSoft, flag_foldl_setSoft, bit_mask]
  by_cases h : m.getLsbD n = true
  · simp [h, hlt h]
  · simp [h]

theorem Team.gone_flags (t : Team) (x : Sparse Flag) : ({ t with flags := x } : Team).gone = { t.gone with flags := x } := by
  have : ({ t with flags := x } : Team).advance = { t.advance with flags := x } := by
    cases t
    simp only [Team.advance]
    split
    · rfl
    · split <;> rfl
  rw [Team.gone, this]; rfl

/-- FSET and FCLR from a poised team. -/
theorem softBits_written {i : Instr} {s : State} {t : Team} {m : BitVec 12} {b : Bool} (h : Poised s t)
    (he : exec i s = issue s fun s t _ => s.retire (t.setSoft m.toNat b)) :
    ∃ u, CompletesAs i s u ∧ u = { t.gone with flags := u.flags } ∧
      ∀ n, u.flag n = if m.getLsbD n then { t.flag n with soft := b } else t.flag n := by
  have hu := setSoft_eq t m.toNat b
  have hgone : (t.setSoft m.toNat b).gone = { t.gone with flags := (t.setSoft m.toNat b).flags } := by
    conv_lhs => rw [hu]
    exact Team.gone_flags ..
  refine ⟨(t.setSoft m.toNat b).gone, ?_, ?_, fun n => ?_⟩
  · rw [CompletesAs, he, issue_poised h]
    refine congrArg _ ?_
    apply retire_quiet <;> rw [hu]
    · exact h.late
    · exact h.stepping
    · exact h.stays
    · exact h.yields
  · rw [hgone]
  · rw [← flag_setSoft, hgone]; rfl

/-! ## FWAIT (R35, R109, R150) -/

/-- Where RPUT has written nothing that is to be delivered, nothing is. -/
theorem rputsSeen_none {s : State} {gone : Rput → Bool} (hg : ∀ r ∈ s.rputs, gone r = false) : s.rputsSeen gone = s := by
  have hdue : s.rputs.filter gone = [] := by simpa [List.filter_eq_nil_iff] using hg
  have hkept : (s.rputs.filter fun r => !gone r) = s.rputs := by simpa [List.filter_eq_self] using hg
  simp only [State.rputsSeen, hdue, hkept, List.foldl_nil]

theorem flagsSeen_of_noRputs {s : State} {h : Handle} (hr : (s.rputs.any fun r => r.tid == h) = false) (mask : Nat) :
    s.flagsSeen h mask = s := by
  have hne : ∀ r ∈ s.rputs, (r.tid == h) = false := by simpa using hr
  exact rputsSeen_none fun r hm => by simp [hne r hm]

theorem fwait_goes_on {s : State} {t : Team} {m : BitVec 12} (h : Poised s t) (hm : t.flagsSet m.toNat = false) :
    CompletesAs (.fwait m) s t.gone := by
  have hseen : (s.setTeam t.gone).flagsSeen t.tid m.toNat = s.setTeam t.gone :=
    flagsSeen_of_noRputs (s := s.setTeam t.gone) h.rputs _
  refine (exec_poised h (show exec (.fwait m) s = execFwait m s from rfl)).trans (congrArg _ ?_)
  simp only [hm, Bool.false_eq_true, if_false, retire_poised h, hseen]

theorem fwait_holds {s : State} {t : Team} {m : BitVec 12} (h : Poised s t) (hm : t.flagsSet m.toNat = true)
    (hr : s.flagInRing t m.toNat = false) :
    ∃ n, CompletesAs (.fwait m) s { t with held := some (.flags m.toNat, n) } := by
  obtain ⟨n, hn⟩ := holdAt_eq s t (.flags m.toNat)
  refine ⟨n, ?_⟩
  refine (exec_poised h (show exec (.fwait m) s = execFwait m s from rfl)).trans (congrArg _ ?_)
  simp only [hm, if_true, State.holdOrRetry, hr, Bool.false_eq_true, if_false, hn]

/-! ## YIELD (R88, R154) -/

theorem Team.isActive_gone (t : Team) : t.gone.isActive = t.isActive := by
  simp only [Team.gone, Team.isActive, Team.running, Team.retired1_preempted, Team.advance_preempted, Team.retired1_run,
    Team.advance_run]
  rw [Team.retired1, Team.advance_stop]
  rcases t.stop with _ | _ | _ <;> rfl

/-- What the end of a clause brings to a team with no place to leave. -/
theorem endClause_of_team {s : State} {u : Team} (hu : s.team? u.tid = some u) (ha : u.isActive = true)
    (hl : u.leaveAtEnd = false) : s.endClause u.tid true =
      if s.eligibleWaits (coreOf u.tid) (partOf u.tid) then s.setTeam (u.toPending (s.now u)) else s := by
  simp [State.endClause, hu, ha, hl]

theorem yield_eq {s : State} {t : Team} (h : Poised s t) : exec .yield s = .next (
    if t.gone.clause.isNone && (s.setTeam t.gone).eligibleWaits (coreOf t.tid) (partOf t.tid) then
      s.setTeam (t.gone.toPending (s.core (coreOf t.tid)).cyc)
    else s.setTeam t.gone) := by
  have hgone : (s.setTeam t.gone).team? t.gone.tid = some t.gone :=
    State.team?_setTeam t.gone (t.gone_tid ▸ h.here)
  have hend := endClause_of_team hgone (t.isActive_gone ▸ h.active) (by simp [Team.gone, h.stays])
  simp only [Team.gone_tid] at hend
  have hput : (s.setTeam t.gone).setTeam (t.gone.toPending ((s.setTeam t.gone).now t.gone)) =
      s.setTeam (t.gone.toPending (s.core (coreOf t.tid)).cyc) := by
    rw [setTeam_setTeam s (show (t.gone.toPending _).tid = t.gone.tid from rfl)]
    simp only [State.now, Team.gone_tid]
    rfl
  have hcount : ∀ b, t.countStep b = t := fun b => by simp [Team.countStep, h.stepping]
  refine (exec_poised h (show exec .yield s = execYield s from rfl)).trans (congrArg _ ?_)
  simp only [State.retireBy, hcount, h.late, State.lateStop, h.clause, Bool.and_true]
  change (if t.gone.clause.isNone = true then (s.setTeam t.gone).endClause t.tid true else s.setTeam t.gone) = _
  cases t.gone.clause.isNone with
  | false => simp
  | true => simp only [if_true, hend, Bool.true_and, hput]

theorem flagsAndYieldAct : Claims.FlagsAndYieldAct := by
  intro s t m hp
  have h := (poised_iff s t).mp hp
  refine ⟨?_, fun i b hi => ?_, fun hm => fwait_goes_on h (flagsSet_eq_false hm),
    fun hm hr => fwait_holds h (flagsSet_eq_true hm) hr, yield_eq h⟩
  · exact (exec_poised h (show exec .nop s = execNop s from rfl)).trans (congrArg _ (retire_poised h))
  · rcases hi with ⟨rfl, rfl⟩ | ⟨rfl, rfl⟩ <;> exact softBits_written h rfl

/-! ## REP (R102, R151, R152) -/

/-- The team stands at its next instruction with a REP in force. -/
def Team.withRep (t : Team) (r : Rep) : Team := { t with clause := t.clause.map fun k => { k with rep := some r } }

theorem gone_withRep {s : State} {t : Team} (h : Poised s t) (r : Rep) :
    s.retireBy t (fun u => u.advance.withRep r) false = s.setTeam (t.gone.withRep r) :=
  retireBy_quiet s t (fun u => u.advance.withRep r) h.late h.stepping h.stays (by simp [Team.withRep]) (by simp [Team.withRep])

theorem repeatRunsTheNextInstruction : Claims.RepeatRunsTheNextInstruction := by
  intro s t c n d a b hp hc
  have h := (poised_iff s t).mp hp
  refine ⟨fun hr => ?_, fun hr => ?_, fun r hcr hlt => ?_⟩
  · refine (exec_poised h (show exec (.rep n d a b) s = execRep n d a b s from rfl)).trans (congrArg _ ?_)
    simp only [hc, hr, if_true]
    exact gone_withRep h _
  · refine (exec_poised h (show exec (.rep n d a b) s = execRep n d a b s from rfl)).trans (congrArg _ ?_)
    simp only [hc, hr, Bool.false_eq_true, if_false]
    rfl
  · simp only [Team.gone, Team.advance, hc, Clause.advance, hcr, hlt, if_true]
    rfl

/-- Settles O5: each is an issue of a poised team, and retiring it changes the flags, the place or the REP alone. -/
theorem flagsYieldAndRepeatAct : Obligations.FlagsYieldAndRepeatAct :=
  ⟨flagsAndYieldAct, repeatRunsTheNextInstruction⟩

end Sys2Proof.Machine
end

section
/-! PROOFS. The active set (R36, R331, R332): promotion, swaps of held teams and places made for those that wait too long; O40. -/

namespace Sys2Proof.Machine

open Sys2Proof.Claims

/-! ## Changing the one team with a handle -/

theorem updFirst_congr {α : Type} {p : α → Bool} {f g : α → α} {l : List α} {a : α} (h : l.find? p = some a)
    (hfg : f a = g a) : updFirst p f l = updFirst p g l := by
  induction l with
  | nil => rfl
  | cons b r ih =>
    by_cases hb : p b = true
    · rw [List.find?_cons_of_pos hb] at h
      obtain rfl := Option.some.inj h
      simp [updFirst, hb, hfg]
    · rw [List.find?_cons_of_neg hb] at h
      simp [updFirst, hb, ih h]

/-- To change a team is to put back what it becomes. -/
theorem modTeam_eq_setTeam {s : State} {h : Handle} {t : Team} {f : Team → Team} (ht : s.team? h = some t)
    (hf : (f t).tid = h) : s.modTeam h f = s.setTeam (f t) := by
  simp only [State.setTeam, State.modTeam, hf]
  rw [updFirst_congr (g := fun _ => f t) ht rfl]

/-- Two teams with different standing have different handles. -/
theorem tid_ne {s : State} {t u : Team} (ht : s.team? t.tid = some t) (hu : s.team? u.tid = some u) (hne : t ≠ u) :
    t.tid ≠ u.tid := by
  intro e
  rw [e, hu] at ht
  exact hne (Option.some.inj ht).symm

/-- No team is both ACTIVE and PENDING (R34). -/
theorem ne_of_active_pending {t u : Team} (ht : t.isActive = true) (hu : u.isPending = true) : t ≠ u := by
  rintro rfl
  simp only [Team.isActive, Team.isPending, Bool.and_eq_true] at ht hu
  cases hr : t.run <;> simp [hr] at ht hu

/-! ## The first of the least -/

theorem minBy_spec {α : Type} {key : α → Nat} {l : List α} {a : α} (h : minBy key l = some a) :
    a ∈ l ∧ ∀ b ∈ l, key a ≤ key b := by
  induction l generalizing a with
  | nil => cases h
  | cons b r ih =>
    simp only [minBy] at h
    cases hr : minBy key r with
    | none =>
      have hnil : r = [] := by
        cases r with
        | nil => rfl
        | cons c r' =>
          simp only [minBy] at hr
          split at hr
          · cases hr
          · split at hr <;> cases hr
      rw [hr] at h
      obtain rfl := Option.some.inj h
      simp [hnil]
    | some c =>
      obtain ⟨hc, hle⟩ := ih hr
      simp only [hr] at h
      split at h
      · obtain rfl := Option.some.inj h
        refine ⟨List.mem_cons_self, fun x hx => ?_⟩
        rcases List.mem_cons.mp hx with rfl | hx
        · exact le_refl _
        · exact le_trans ‹_› (hle x hx)
      · obtain rfl := Option.some.inj h
        refine ⟨List.mem_cons_of_mem _ hc, fun x hx => ?_⟩
        rcases List.mem_cons.mp hx with rfl | hx
        · omega
        · exact hle x hx

theorem minBy_isSome {α : Type} {key : α → Nat} {l : List α} {a : α} (h : a ∈ l) : ∃ b, minBy key l = some b := by
  cases l with
  | nil => cases h
  | cons c r =>
    simp only [minBy]
    split
    · exact ⟨_, rfl⟩
    · split <;> exact ⟨_, rfl⟩

/-- An element below every other one is the least. -/
theorem minBy_eq {α : Type} {key : α → Nat} {l : List α} {a : α} (ha : a ∈ l) (hl : ∀ b ∈ l, b = a ∨ key a < key b) :
    minBy key l = some a := by
  obtain ⟨b, hb⟩ := minBy_isSome (key := key) ha
  obtain ⟨hmem, hle⟩ := minBy_spec hb
  rcases hl b hmem with rfl | hlt
  · exact hb
  · exact absurd (hle a ha) (by omega)

/-! ## Promotion (R36, R331) -/

theorem promote_eq {s : State} {u : Team} (hu : s.team? u.tid = some u) : s.promote u = s.setTeam (promoted s u) :=
  modTeam_eq_setTeam hu rfl

theorem waitsLongest_of_least {s : State} {t : Team} (ht : t ∈ s.promotable (coreOf t.tid) (partOf t.tid))
    (hl : ∀ u ∈ s.promotable (coreOf t.tid) (partOf t.tid), t.since ≤ u.since) : s.waitsLongest t = true := by
  simp only [State.waitsLongest, Bool.and_eq_true, List.any_eq_true, List.all_eq_true, decide_eq_true_eq]
  exact ⟨⟨t, ht, by simp⟩, hl⟩

theorem promotable_pending {s : State} {core part : Nat} {u : Team} (hu : u ∈ s.promotable core part) :
    u.isPending = true := by
  simp only [State.promotable, List.mem_filter, Bool.and_eq_true] at hu
  obtain ⟨-, ⟨⟨⟨-, hp⟩, -⟩, -⟩, -⟩ := hu
  exact hp

theorem promoteEvent_eq {s : State} {t : Team} {ok : State → Team → Bool} (ht : s.team? s.arg.tid = some t)
    (hp : t ∈ s.promotable (coreOf t.tid) (partOf t.tid)) (hf : s.placeFree (coreOf t.tid) (partOf t.tid) = true)
    (hl : ∀ u ∈ s.promotable (coreOf t.tid) (partOf t.tid), t.since ≤ u.since) (hok : ok s t = true) :
    promoteEvent ok s = s.setTeam (promoted s t) := by
  have hid : s.team? t.tid = some t := (State.tid_of_team? ht).symm ▸ ht
  simp only [promoteEvent, ht, hf, waitsLongest_of_least hp hl, hok, Bool.and_self, if_true]
  exact promote_eq hid

/-- TEAM_PROMOTE and FORCED_PROMOTION. -/
theorem promotion_completes {s : State} {t : Team} {i : Instr} (ht : s.team? s.arg.tid = some t)
    (hp : t ∈ s.promotable (coreOf t.tid) (partOf t.tid)) (hf : s.placeFree (coreOf t.tid) (partOf t.tid) = true)
    (hl : ∀ u ∈ s.promotable (coreOf t.tid) (partOf t.tid), t.since ≤ u.since)
    (hi : i = .teamPromote ∧ s.eligible t = true ∨ i = .forcedPromotion ∧ t.since + 2048 ≤ s.now t) :
    CompletesAs i s (promoted s t) := by
  rcases hi with ⟨rfl, he⟩ | ⟨rfl, hw⟩
  · exact congrArg _ (promoteEvent_eq ht hp hf hl he)
  · exact congrArg _ (promoteEvent_eq ht hp hf hl (by simp [State.waited, hw]))

/-! ## Swaps (R332) -/

theorem holdSwap_eq {s : State} {t u : Team} {h : Hold} {n : Nat} (ht : s.team? s.arg.tid = some t)
    (ha : t.isActive = true) (hh : t.held = some (h, n)) (hs : h.swaps = true) (hw : s.waitStands t h = true)
    (hn : n + 96 ≤ s.now t) (hmin : minBy Team.since (s.promotable (coreOf t.tid) (partOf t.tid)) = some u) :
    exec .holdSwap s =
      .next (((s.setTeam (t.toPending (s.now t))).promote u).countPerf (coreOf t.tid) t.ctx 4 1) := by
  change execHoldSwap s = _
  simp [execHoldSwap, ht, hh, hmin, ha, hs, hw, hn]

theorem countPerf_teams (s : State) (core ctx code n : Nat) : (s.countPerf core ctx code n).teams = s.teams := by
  rw [(countPerf_countsOnly s core ctx code n).frame]

theorem team?_countPerf (s : State) (core ctx code n : Nat) (h : Handle) :
    (s.countPerf core ctx code n).team? h = s.team? h := by
  simp only [State.team?, countPerf_teams]

/-- Two teams put back, each reads as it was put. -/
theorem team?_setTeam_setTeam {s : State} {t u t' u' : Team} (ht : s.team? t.tid = some t) (hu : s.team? u.tid = some u)
    (hne : t.tid ≠ u.tid) (h1 : t'.tid = t.tid) (h2 : u'.tid = u.tid) :
    ((s.setTeam t').setTeam u').team? t.tid = some t' ∧ ((s.setTeam t').setTeam u').team? u.tid = some u' := by
  have hu1 : (s.setTeam t').team? u'.tid = some u := by
    rw [h2, State.team?_setTeam_ne s t' (h1 ▸ hne.symm), hu]
  constructor
  · rw [State.team?_setTeam_ne _ u' (h2 ▸ hne), ← h1]
    exact State.team?_setTeam t' (h1 ▸ ht)
  · rw [← h2]
    exact State.team?_setTeam u' hu1

theorem holdSwap_swaps {s : State} {t u : Team} {h : Hold} {n : Nat} (ht : s.team? s.arg.tid = some t)
    (hu : s.team? u.tid = some u) (ha : t.isActive = true) (hh : t.held = some (h, n)) (hs : h.swaps = true)
    (hw : s.waitStands t h = true) (hn : n + 96 ≤ s.now t) (hp : u ∈ s.promotable (coreOf t.tid) (partOf t.tid))
    (hl : ∀ w ∈ s.promotable (coreOf t.tid) (partOf t.tid), w = u ∨ u.since < w.since) :
    ∃ s', exec .holdSwap s = .next s' ∧ s'.mem = s.mem ∧
      s'.team? t.tid = some { t with run := .pending, since := s.now t, leaveAtEnd := false } ∧
      s'.team? u.tid = some (promoted s u) := by
  have hid : s.team? t.tid = some t := (State.tid_of_team? ht).symm ▸ ht
  have hne : t.tid ≠ u.tid := tid_ne hid hu (ne_of_active_pending ha (promotable_pending hp))
  have hu1 : (s.setTeam (t.toPending (s.now t))).team? u.tid = some u :=
    (State.team?_setTeam_ne s (t.toPending (s.now t)) hne.symm).trans hu
  obtain ⟨hgot, hput⟩ := team?_setTeam_setTeam (t' := t.toPending (s.now t)) (u' := promoted s u) hid hu hne rfl rfl
  refine ⟨_, holdSwap_eq ht ha hh hs hw hn (minBy_eq hp hl), ?_, ?_, ?_⟩
  · simp [State.promote]
  · rw [team?_countPerf, promote_eq hu1]
    exact hgot
  · rw [team?_countPerf, promote_eq hu1]
    exact hput

/-! ## Places made for teams that wait too long (R331) -/

theorem actives_active {s : State} {core part : Nat} {a : Team} (h : a ∈ s.actives core part) : a.isActive = true := by
  simp only [State.actives, List.mem_filter, Bool.and_eq_true] at h
  obtain ⟨-, -, hactive⟩ := h
  exact hactive

theorem forcedActivePlace_eq {s : State} {t a : Team} (ht : s.team? s.arg.tid = some t) (hp : t.isPending = true)
    (hd : t.dying = none) (hw : t.since + 3072 ≤ s.now t) (hf : s.placeFree (coreOf t.tid) (partOf t.tid) = false)
    (hforced : t.forced = false) (hmin : minBy Team.since (s.actives (coreOf t.tid) (partOf t.tid)) = some a) :
    exec .forcedActivePlace s = .next ((s.modTeam t.tid fun u => { u with forced := true }).modTeam a.tid fun u =>
      if s.isHeld a then u.toPending (s.now a) else { u with leaveAtEnd := true }) := by
  change execForcedActivePlace s = _
  simp [execForcedActivePlace, ht, hp, hd, State.waited, hw, hf, hforced, hmin]

theorem forcedActivePlace_makes_place {s : State} {t a : Team} (ht : s.team? s.arg.tid = some t)
    (ha : s.team? a.tid = some a) (hp : t.isPending = true) (hd : t.dying = none) (hw : t.since + 3072 ≤ s.now t)
    (hf : s.placeFree (coreOf t.tid) (partOf t.tid) = false) (hforced : t.forced = false)
    (hm : a ∈ s.actives (coreOf t.tid) (partOf t.tid))
    (hl : ∀ w ∈ s.actives (coreOf t.tid) (partOf t.tid), w = a ∨ a.since < w.since) :
    ∃ s', exec .forcedActivePlace s = .next s' ∧ s'.mem = s.mem ∧ s'.team? t.tid = some { t with forced := true } ∧
      (s.isHeld a = true → s'.team? a.tid = some { a with run := .pending, since := s.now a, leaveAtEnd := false }) ∧
      (s.isHeld a = false → s'.team? a.tid = some { a with leaveAtEnd := true }) := by
  have hid : s.team? t.tid = some t := (State.tid_of_team? ht).symm ▸ ht
  have hne : t.tid ≠ a.tid := (tid_ne ha hid (ne_of_active_pending (actives_active hm) hp)).symm
  have htake : (s.modTeam t.tid fun u => { u with forced := true }) = s.setTeam { t with forced := true } :=
    modTeam_eq_setTeam hid rfl
  have ha1 : (s.setTeam { t with forced := true }).team? a.tid = some a :=
    (State.team?_setTeam_ne s { t with forced := true } hne.symm).trans ha
  have hleave : ((s.setTeam { t with forced := true }).modTeam a.tid fun u =>
      if s.isHeld a then u.toPending (s.now a) else { u with leaveAtEnd := true }) =
      (s.setTeam { t with forced := true }).setTeam
        (if s.isHeld a then a.toPending (s.now a) else { a with leaveAtEnd := true }) :=
    modTeam_eq_setTeam ha1 (by split <;> rfl)
  obtain ⟨hgot, hput⟩ := team?_setTeam_setTeam (t' := { t with forced := true })
    (u' := if s.isHeld a then a.toPending (s.now a) else { a with leaveAtEnd := true }) hid ha hne rfl (by split <;> rfl)
  refine ⟨_, forcedActivePlace_eq ht hp hd hw hf hforced (minBy_eq hm hl), rfl, ?_, fun h => ?_, fun h => ?_⟩
  · rw [htake, hleave]; exact hgot
  · rw [htake, hleave, hput, if_pos h]; rfl
  · rw [htake, hleave, hput, if_neg (by simp [h])]

/-- Settles O40: a place goes to the least by the time of waiting, and what each event puts back reads as it was put. -/
theorem placesGoToTheLongestWaiting : Obligations.PlacesGoToTheLongestWaiting :=
  ⟨fun _ _ _ ht hp hf hl hi => promotion_completes ht hp hf hl hi,
   fun _ _ _ _ _ ht hu ha hh hs hw hn hp hl => holdSwap_swaps ht hu ha hh hs hw hn hp hl,
   fun _ _ _ ht ha hp hd hw hf hforced hm hl => forcedActivePlace_makes_place ht ha hp hd hw hf hforced hm hl⟩

end Sys2Proof.Machine
end

section
/-! PROOFS. Instructions on one object of G as they issue (R40, R212): what keeps a request back, and the request that goes; O24. -/

namespace Sys2Proof.Machine

open Sys2Proof.Claims

/-! ## What a translation leaves in the caches (R295) -/

/-- State w is state s up to its cores and its draws of free values. -/
def CoresOnly (s w : State) : Prop := w = { s with cores := w.cores, fresh := w.fresh }

theorem CoresOnly.refl (s : State) : CoresOnly s s := rfl

theorem CoresOnly.trans {s v w : State} (h : CoresOnly s v) (h' : CoresOnly v w) : CoresOnly s w := by
  unfold CoresOnly at *
  rw [h', h]

theorem coresOnly_modCore (s : State) (c : Nat) (f : Core → Core) : CoresOnly s (s.modCore c f) := rfl

theorem coresOnly_keepIn {α : Type} (s : State) (size : Nat) (es : List α) (e : α) : CoresOnly s (s.keepIn size es e).2 := by
  unfold State.keepIn
  split <;> rfl

theorem coresOnly_keepFirst (s : State) (port : Nat) (e : TlbEntry) : CoresOnly s (s.keepFirst port e) := by
  unfold State.keepFirst
  split
  · rfl
  · exact (coresOnly_keepIn ..).trans (coresOnly_modCore ..)

theorem coresOnly_keepSecond (s : State) (core : Nat) (e : TlbEntry) : CoresOnly s (s.keepSecond core e) := by
  unfold State.keepSecond
  exact (coresOnly_keepIn ..).trans (coresOnly_modCore ..)

theorem CountsOnly.coresOnly {core : Nat} {s w : State} (h : CountsOnly core s w) : CoresOnly s w := by
  unfold CoresOnly
  rw [h.frame]

/-- A translation changes caches and counters, which are the cores'. -/
theorem coresOnly_fillTlb (s : State) (port ctx va : Nat) : CoresOnly s (s.fillTlb port ctx va) := by
  have counted := (countPerf_countsOnly s (port / 8) ctx 7 1).coresOnly.trans
    (countPerf_countsOnly (s.countPerf (port / 8) ctx 7 1) (port / 8) ctx 8 1).coresOnly
  unfold State.fillTlb
  split
  · rfl
  · split
    · exact coresOnly_keepFirst ..
    · split
      · exact (counted.trans (coresOnly_keepSecond ..)).trans (coresOnly_keepFirst ..)
      · exact counted

theorem team?_of_teams {s w : State} (hw : w.teams = s.teams) (h : Handle) : w.team? h = s.team? h := by
  simp only [State.team?, hw]

/-! ## Addresses of objects (R186, R212) -/

theorem disp_eq (f : VFields) : disp f = (f.lit.getD 0).signExtend 64 := by
  have hs : signed 32 (litNat f % 2 ^ 32) = (f.lit.getD 0).toInt := by
    rw [litNat, Nat.mod_eq_of_lt (f.lit.getD 0).isLt, BitVec.toInt_eq_msb_cond, BitVec.msb_eq_getLsbD_last]
    simp [signed, bit, BitVec.getLsbD]
  apply BitVec.eq_of_toNat_eq
  rw [disp, sext, hs, dw, wrap, BitVec.signExtend, BitVec.toNat_ofInt, BitVec.toNat_ofNat]
  omega

theorem scalarOff_eq (t : Team) (f : VFields) : scalarOff t f = syncOff f t := by
  rw [scalarOff, memBase, disp_eq]; rfl

theorem segAddr_eq (t : Team) (seg : Nat) (f : VFields) : segAddr t seg (scalarOff t f) = syncAddr f t seg := by
  rw [scalarOff_eq]; rfl

/-- A page that an atomic access may use may be read (R294). -/
theorem leafCheck_read_of_atomic {s : State} {e : TlbEntry} {va pa : Nat} {win nc : Bool}
    (h : leafCheck s e va (.atomic win) = .ok pa nc) : leafCheck s e va .read = .ok pa nc := by
  cases hr : e.flags.getLsbD 2 with
  | false =>
    simp only [leafCheck, hr, Bool.not_false, if_true] at h
    cases h
  | true =>
    cases hw : e.flags.getLsbD 3 with
    | false =>
      simp only [leafCheck, hr, hw, Bool.not_true, Bool.not_false, Bool.false_eq_true, if_false, if_true] at h
      cases h
    | true =>
      simp only [leafCheck, hr, hw, Bool.not_true, Bool.false_eq_true, if_false, if_true, Bool.and_false] at h ⊢
      split at h
      · cases h
      · rename_i hd
        rw [if_neg hd]
        split at h
        · cases h
        · exact h

theorem translate_read_of_atomic {s : State} {port ctx va pa : Nat} {win nc : Bool}
    (h : s.translate port ctx va (.atomic win) = .ok pa nc) : s.translate port ctx va .read = .ok pa nc := by
  unfold State.translate at h ⊢
  cases hl : s.leafOf port ctx va with
  | stopped c => simp [hl] at h
  | leaf e =>
    simp only [hl] at h ⊢
    exact leafCheck_read_of_atomic h

theorem limitTrap_none {t : Team} {f : VFields} {n : Nat} (h : (syncOff f t).toNat + n ≤ (t.seg 0).limit.toNat) :
    limitTrap t 0 n [(0, syncOff f t)] = none := by
  simp [limitTrap, limitOk, h]

theorem alignTrap_none {t : Team} {f : VFields} {n : Nat} (h : (syncAddr f t 0).toNat % n = 0) :
    alignTrap t 0 n [(0, syncOff f t)] = none := by
  have : (segAddr t 0 (syncOff f t)).toNat % n = 0 := h
  simp [alignTrap, this]

/-! ## An instruction on an object that nothing keeps back -/

/-- Nothing keeps an instruction on an object from its effect: its checks pass, no request of the team is on its way, its
release is made, and its team's accesses to the object are over. -/
structure Unhindered (sh : SyncShape) (scope : Nat) (f : VFields) (s : State) (t : Team) : Prop where
  poised : Poised s t
  checks : checkV s t sh.op f = none
  free : ∀ q ∈ s.reqs, q.tid = t.tid → q.holds = false
  noFault : t.acquireFault = none
  release : sh.release = true → s.releaseReady t scope = true
  before : settled s t (syncAddr f t 0).toNat (s.objectSpan sh t (syncAddr f t 0).toNat sh.size)

section
variable {s : State} {t : Team} {f : VFields} {sh : SyncShape} {scope : Nat} (h : Unhindered sh scope f s t)
include h

theorem Unhindered.noRequest : (s.reqs.find? fun r => r.tid == t.tid && r.holds) = none := by
  rw [List.find?_eq_none]
  intro q hq
  simp only [Bool.and_eq_true, beq_iff_eq, not_and, Bool.not_eq_true]
  exact h.free q hq

theorem Unhindered.released (b : Bool) : (sh.release && b && !s.releaseReady t scope) = false := by
  cases hr : sh.release with
  | false => rfl
  | true => simp [h.release hr]

variable {needRelease : Team → Team → Bool} {size : Team → Dword → Option Nat} {refused : State → Team → Team → Bool}
  {go : State → Team → Team → Dword → Nat → State}

/-- An object that must stand in the team's estate and does not (R215). -/
theorem objectInsn_unowned (hsize : size t (syncAddr f t 0) = none) :
    objectInsn sh scope f needRelease size refused go s = .next (s.trap t cOperand 0 (syncAddr f t 0) 0) := by
  rw [objectInsn, issueV_passes h.poised _ _ _ h.checks]
  simp only [h.noRequest, h.noFault, Option.isSome_none, Bool.false_eq_true, if_false, h.released, segAddr_eq, h.before.1,
    h.before.2, List.isEmpty_nil, Bool.not_true]
  rw [underWeirs_off h.poised.weirs h.poised.mark h.poised.here rfl]
  simp only [hsize]

/-- An object within the limit, aligned and translated, under operands that are not refused. -/
theorem objectInsn_goes {n pa : Nat} {nc : Bool} (hsize : size t (syncAddr f t 0) = some n)
    (hlimit : (syncOff f t).toNat + n ≤ (t.seg 0).limit.toNat) (halign : (syncAddr f t 0).toNat % n = 0)
    (hrefused : refused s t t = false)
    (hmap : s.translate (portOf t.tid) t.ctx (syncAddr f t 0).toNat (.atomic false) = .ok pa nc) :
    objectInsn sh scope f needRelease size refused go s =
      .next (go (s.fillTlb (portOf t.tid) t.ctx (syncAddr f t 0).toNat) t t (syncAddr f t 0) pa) := by
  rw [objectInsn, issueV_passes h.poised _ _ _ h.checks]
  simp only [h.noRequest, h.noFault, Option.isSome_none, Bool.false_eq_true, if_false, h.released, segAddr_eq, h.before.1,
    h.before.2, List.isEmpty_nil, Bool.not_true]
  rw [underWeirs_off h.poised.weirs h.poised.mark h.poised.here rfl]
  simp only [hsize, scalarOff_eq, limitTrap_none hlimit, alignTrap_none halign, Option.or_none, hrefused, hmap,
    Bool.false_eq_true, if_false]
end

/-! ## The request that goes -/

/-- The end of an instruction on an object: one request queued, its team held for it, counted on a flag where it counts. -/
def Sends (o : Host.Outcome State Fault Refusal) (s : State) (t : Team) (f : VFields) (pa : Nat) (kind : ReqKind)
    (flag : Option Nat) : Prop :=
  ∃ s' q c, o = .next s' ∧ s'.reqs = s.reqs ++ [q] ∧ s'.mem = s.mem ∧ q.id = s.nextId ∧ q.kind = kind ∧ q.tid = t.tid ∧
    q.core = coreOf t.tid ∧ q.pa = pa ∧ q.va = syncAddr f t 0 ∧
    s'.team? t.tid = some { t.raiseCount flag with held := some (.request s.nextId, c), lastMark := max t.lastMark q.mark }

theorem Team.raiseCount_tid (t : Team) (n : Option Nat) : (t.raiseCount n).tid = t.tid := by cases n <;> rfl
theorem Team.raiseCount_lastMark (t : Team) (n : Option Nat) : (t.raiseCount n).lastMark = t.lastMark := by cases n <;> rfl

/-- A request as it is queued (R40, R212). -/
def requestOf (s : State) (t : Team) (va : Dword) (pa : Nat) (sh : SyncShape) (scope : Nat) (k : ReqKind) : Req :=
  { id := s.nextId, slice := paModule pa * Config.slices + homeSlice pa, core := coreOf t.tid, tid := t.tid, va, pa, kind := k
    acquire := if sh.acquire then some scope else none
    mark := { s with nextId := s.nextId + 1 }.releaseMark t sh.release scope }

theorem request_eq (s : State) (t : Team) (va : Dword) (pa : Nat) (sh : SyncShape) (scope : Nat) (k : ReqKind) :
    ∃ c, s.request t va pa sh scope k =
      { s with nextId := s.nextId + 1, reqs := s.reqs ++ [requestOf s t va pa sh scope k] }.setTeam
        { t with held := some (.request s.nextId, c), lastMark := max t.lastMark (requestOf s t va pa sh scope k).mark } :=
  ⟨_, rfl⟩

/-- A request queued behind a translation. -/
theorem sends_request {s : State} {t : Team} (ht : s.team? t.tid = some t) (f : VFields) (port ctx va pa : Nat)
    (sh : SyncShape) (scope : Nat) (k : ReqKind) (flag : Option Nat) :
    Sends (.next ((s.fillTlb port ctx va).request (t.raiseCount flag) (syncAddr f t 0) pa sh scope k)) s t f pa k flag := by
  have hframe := coresOnly_fillTlb s port ctx va
  generalize s.fillTlb port ctx va = w at hframe ⊢
  have hreqs : w.reqs = s.reqs := by rw [hframe]
  have hmem : w.mem = s.mem := by rw [hframe]
  have hid : w.nextId = s.nextId := by rw [hframe]
  have hteams : w.teams = s.teams := by rw [hframe]
  have htid := t.raiseCount_tid flag
  obtain ⟨c, hq⟩ := request_eq w (t.raiseCount flag) (syncAddr f t 0) pa sh scope k
  refine ⟨_, requestOf w (t.raiseCount flag) (syncAddr f t 0) pa sh scope k, c, congrArg _ hq, ?_, hmem, hid, rfl, htid, ?_, rfl,
    rfl, ?_⟩
  · exact congrArg (· ++ _) hreqs
  · exact congrArg coreOf htid
  · rw [hid, t.raiseCount_lastMark, ← htid]
    exact State.team?_setTeam _ ((team?_of_teams hteams _).trans ((congrArg s.team? htid).trans ht))

/-! ## The instructions on objects by their rules (R212 to R219, R262, R263) -/

/-- The operands of a rule's request are good: an heir is no team of another launch, and permits are asked for in range. -/
structure OperandsGood (r : ORule) (s : State) (t : Team) : Prop where
  heir : (match r.kind with | .hold .. | .pmake .. | .permget .. => True | _ => False) → s.foreignHeir t r.f t = false
  permits : (match r.kind with | .permget .. => True | _ => False) →
    1 ≤ (t.getS r.f.va.toNat).toNat ∧ (t.getS r.f.va.toNat).toNat < 2 ^ 31

/-- What a rule says of an instruction on one object, in the model's own terms. -/
structure Shaped (r : ORule) (s : State) (t : Team) (sh : SyncShape) (scope : Nat) (size : Team → Dword → Option Nat)
    (refused : State → Team → Team → Bool) : Prop where
  op : sh.op = r.op
  release : sh.release = r.release
  scope : scope = r.scope
  size : size t (syncAddr r.f t 0) = r.size
  span : ∀ pa nc, s.translate (portOf t.tid) t.ctx (syncAddr r.f t 0).toNat (.atomic false) = .ok pa nc →
    s.objectSpan sh t (syncAddr r.f t 0).toNat sh.size = r.span s pa
  unsized : r.size = none → sh.size = 8 ∧ sh.heap = false
  refused : OperandsGood r s t → refused s t t = false

/-- An instruction is the one request that its rule asks for. -/
def Requests (i : Instr) (r : ORule) (s : State) (t : Team) : Prop :=
  ∃ sh size refused kind, exec i s = requestInsn sh r.f size refused kind s ∧
    Shaped r s t sh (syncScope 4 r.f) size refused ∧ kind t = r.kind ∧ sh.flagged = r.flagged

theorem objectSpan_plain (s : State) {sh : SyncShape} (h : sh.heap = false) (t : Team) (va n : Nat) :
    s.objectSpan sh t va n = n := by
  simp [State.objectSpan, h]

theorem objectSpan_heap {s : State} {sh : SyncShape} (h : sh.heap = true) {t : Team} {va n pa : Nat} {nc : Bool}
    (hm : s.translate (portOf t.tid) t.ctx va (.atomic false) = .ok pa nc) :
    s.objectSpan sh t va n = 64 + 8 * (s.physDword pa / 2 ^ 32 % 2 ^ 16) := by
  simp only [State.objectSpan, h, if_true, translate_read_of_atomic hm, heapCap, bits, Nat.shiftRight_eq_div_pow]

theorem getLsbD_eq_digit {n : Nat} (x : BitVec n) (k : Nat) : (x.toNat / 2 ^ k % 2 == 1) = x.getLsbD k := by
  rw [BitVec.getLsbD, Nat.testBit_eq_decide_div_mod_eq]; rfl

theorem barScope_eq (f : VFields) : barScope 4 f = barrierScope 4 f := by
  simp only [barScope, syncScope, barrierScope]
  split <;> simp

theorem barStatus_eq (f : VFields) : barStatus f = (waitReg f).map (BitVec.ofNat 7) := by
  have hb : f.fn.getLsbD 5 = decide (f.fn.toNat / 32 % 2 = 1) := (getLsbD_eq_digit f.fn 5).symm
  simp only [barStatus, waitReg, hb, decide_eq_true_eq]
  split
  · simp only [Option.map_some, Option.some.injEq]
    apply BitVec.eq_of_toNat_eq
    simp [sdOf, dReg]
  · rfl

/-- The size that the team's own entry of a lock or promise gives (R215). -/
theorem repairSize_eq (t : Team) (va : Dword) :
    (if (t.entry? .lock va).isSome then some 8 else if (t.entry? .promise va).isSome then some 16 else none) =
      repairSize t va := by
  simp only [Team.entry?, List.find?_isSome, repairSize, List.any_eq_true]
  rfl

theorem heirOf_eq (f : VFields) (t : Team) : heirOf f t = (BitVec.ofNat 4 (mHeir f), heirHandle f t) := rfl

/-- A rule of an object of one size, 8 or 16 bytes. -/
theorem shaped_sized {r : ORule} {s : State} {t : Team} {sh : SyncShape} {refused : State → Team → Team → Bool}
    (hop : sh.op = r.op) (hrel : sh.release = r.release) (hscope : syncScope 4 r.f = r.scope)
    (hsize : r.size = some sh.size) (hheap : sh.heap = false) (hspan : ∀ pa, r.span s pa = sh.size)
    (href : OperandsGood r s t → refused s t t = false) :
    Shaped r s t sh (syncScope 4 r.f) (fun _ _ => some sh.size) refused where
  op := hop
  release := hrel
  scope := hscope
  size := hsize.symm
  span pa _ _ := (objectSpan_plain s hheap t _ _).trans (hspan pa).symm
  unsized h := nomatch hsize.symm.trans h
  refused := href

/-- A rule of an object that stands in the team's estate, whose entry gives its size. -/
theorem shaped_owned {r : ORule} {s : State} {t : Team} {sh : SyncShape} {size : Team → Dword → Option Nat}
    (hop : sh.op = r.op) (hrel : sh.release = r.release) (hscope : syncScope 4 r.f = r.scope)
    (hsize : size t (syncAddr r.f t 0) = r.size) (hsh : sh.size = 8 ∧ sh.heap = false) (hspan : ∀ pa, r.span s pa = 8) :
    Shaped r s t sh (syncScope 4 r.f) size (fun _ _ _ => false) where
  op := hop
  release := hrel
  scope := hscope
  size := hsize
  span pa _ _ := ((objectSpan_plain s hsh.2 t _ _).trans hsh.1).trans (hspan pa).symm
  unsized _ := hsh
  refused _ := rfl

/-- A rule of an expert heap. -/
theorem shaped_heap {r : ORule} {s : State} {t : Team} {sh : SyncShape}
    (hop : sh.op = r.op) (hrel : sh.release = r.release) (hscope : syncScope 4 r.f = r.scope)
    (hsize : r.size = some 64) (hheap : sh.heap = true) (hspan : ∀ pa, r.span s pa = 64 + 8 * (s.physDword pa / 2 ^ 32 % 2 ^ 16)) :
    Shaped r s t sh (syncScope 4 r.f) (fun _ _ => some 64) (fun _ _ _ => false) where
  op := hop
  release := hrel
  scope := hscope
  size := hsize.symm
  span pa _ hm := (objectSpan_heap hheap hm).trans (hspan pa).symm
  unsized h := nomatch hsize.symm.trans h
  refused _ := rfl

/-- The rule of an arrival at a grid barrier (R211). -/
def arriveRule (op : Nat) (f : VFields) (wait : Bool) : ORule :=
  { plainRule op f (some 8) (.arrive wait ((waitReg f).map (BitVec.ofNat 7)) (barrierScope 4 f)) with
    scope := barrierScope 4 f, acquire := wait, release := true }

/-- Every instruction with a rule is the one request that its rule asks for, or arrives at a grid barrier. -/
theorem requests_of_rule {t : Team} {i : Instr} {r : ORule} (h : objectRule t i = some r) (s : State) :
    Requests i r s t ∨ ∃ f wait, exec i s = gridBarrier r.op wait f s ∧ r = arriveRule r.op f wait := by
  unfold objectRule at h
  split at h <;> cases h
  case h_1 f =>
    refine .inl ⟨_, _, _, _, show exec (.hold f) s = execHold f s from rfl, shaped_sized rfl rfl rfl rfl rfl (fun _ => rfl) (fun h => h.heir trivial), ?_, rfl⟩
    exact congrArg (ReqKind.hold _ · _ _) (getLsbD_eq_digit f.fn 4)
  case h_2 f => exact .inl ⟨_, _, _, _, show exec (.hrel f) s = execHrel f s from rfl, shaped_sized rfl rfl rfl rfl rfl (fun _ => rfl) (fun _ => rfl), rfl, rfl⟩
  case h_3 f => exact .inl ⟨_, _, _, _, show exec (.hclrb f) s = execHclrb f s from rfl, shaped_owned rfl rfl rfl (repairSize_eq t _) ⟨rfl, rfl⟩ (fun _ => rfl), rfl, rfl⟩
  case h_4 f => exact .inl ⟨_, _, _, _, show exec (.hclrbPool f) s = execHclrbPool f s from rfl, shaped_sized rfl rfl rfl rfl rfl (fun _ => rfl) (fun _ => rfl), rfl, rfl⟩
  case h_5 f =>
    exact .inl ⟨_, _, _, _, show exec (.pmake f) s = execPmake f s from rfl, shaped_sized rfl rfl rfl rfl rfl (fun _ => rfl) (fun h => h.heir trivial), rfl, rfl⟩
  case h_6 f => exact .inl ⟨_, _, _, _, show exec (.pfulfil f) s = execPfulfil f s from rfl, shaped_sized rfl rfl rfl rfl rfl (fun _ => rfl) (fun _ => rfl), rfl, rfl⟩
  case h_7 f => exact .inl ⟨_, _, _, _, show exec (.pwait f) s = execPwait f s from rfl, shaped_sized rfl rfl rfl rfl rfl (fun _ => rfl) (fun _ => rfl), rfl, rfl⟩
  case h_8 f =>
    refine .inl ⟨_, _, _, _, show exec (.permget f) s = execPermget f s from rfl, shaped_sized rfl rfl rfl rfl rfl (fun _ => rfl) (fun h => ?_), rfl, rfl⟩
    have hasked : 1 ≤ (t.getS f.va.toNat).toNat ∧ (t.getS f.va.toNat).toNat < 2 ^ 31 := h.permits trivial
    simpa [show s.foreignHeir t f t = false from h.heir trivial] using hasked
  case h_9 f => exact .inl ⟨_, _, _, _, show exec (.permput f) s = execPermput f s from rfl, shaped_sized rfl rfl rfl rfl rfl (fun _ => rfl) (fun _ => rfl), rfl, rfl⟩
  case h_10 f =>
    refine .inl ⟨_, _, _, _, show exec (.convey f) s = execConvey f s from rfl,
      shaped_owned rfl rfl rfl ?_ ⟨rfl, rfl⟩ (fun _ => rfl), rfl, rfl⟩
    refine congrArg (Option.map · _) (funext fun e => ?_)
    cases hk : e.kind <;> simp
  case h_11 f => exact .inl ⟨_, _, _, _, show exec (.heapoffer f) s = execHeapoffer f s from rfl, shaped_heap rfl rfl rfl rfl rfl (fun _ => rfl), rfl, rfl⟩
  case h_12 f => exact .inl ⟨_, _, _, _, show exec (.heapseal f) s = execHeapseal f s from rfl, shaped_heap rfl rfl rfl rfl rfl (fun _ => rfl), rfl, rfl⟩
  case h_13 f => exact .inl ⟨_, _, _, _, show exec (.heapread f) s = execHeapread f s from rfl, shaped_heap rfl rfl rfl rfl rfl (fun _ => rfl), rfl, rfl⟩
  case h_14 f => exact .inr ⟨f, false, show exec (.gbarv f) s = execGbarv f s from rfl, rfl⟩
  case h_15 f => exact .inr ⟨f, true, show exec (.gbarw f) s = execGbarw f s from rfl, rfl⟩

/-! ## The rule's premises in the model's terms -/

theorem foreignHeir_eq_false {s : State} {t : Team} {f : VFields}
    (h : mHeir f = 5 → ∀ u, s.team? (heirHandle f t) = some u → u.ctx = t.ctx ∧ u.lid = t.lid) :
    s.foreignHeir t f t = false := by
  simp only [State.foreignHeir, heirOf_eq, Bool.and_eq_false_imp, beq_iff_eq]
  intro hc
  cases hu : s.team? (heirHandle f t) with
  | none => rfl
  | some u => obtain ⟨hx, hl⟩ := h hc u hu; simp [hx, hl]

section
variable {s : State} {t : Team} {r : ORule} {n pa : Nat} (h : r.Ready s t n pa)
include h

theorem operandsGood_of_ready : OperandsGood r s t :=
  ⟨fun hk => foreignHeir_eq_false (h.heir hk), h.permits⟩

theorem unhindered_of_ready {sh : SyncShape} {scope : Nat} {size : Team → Dword → Option Nat}
    {refused : State → Team → Team → Bool} (hs : Shaped r s t sh scope size refused) : Unhindered sh scope r.f s t where
  poised := (poised_iff s t).mp h.poised
  checks := hs.op ▸ h.checks
  free := h.free
  noFault := h.noFault
  release hr := hs.scope ▸ h.release (hs.release ▸ hr)
  before := by
    obtain ⟨nc, hm⟩ := h.mapped
    rw [hs.span pa nc hm]
    exact h.before
end

/-- A ready request goes. -/
theorem requests_sends {i : Instr} {r : ORule} {s : State} {t : Team} (hr : Requests i r s t) {n pa : Nat}
    (h : r.Ready s t n pa) : Sends (exec i s) s t r.f pa r.kind (if r.flagged then t.flagA else none) := by
  obtain ⟨sh, size, refused, kind, hexec, hs, hkind, hflag⟩ := hr
  obtain ⟨nc, hm⟩ := h.mapped
  have hp := (poised_iff s t).mp h.poised
  rw [hexec, requestInsn, objectInsn_goes (unhindered_of_ready h hs) (hs.size.trans h.size) h.inside h.aligned
    (hs.refused (operandsGood_of_ready h)) hm, hkind, hflag]
  have hraise : (if r.flagged = true then t.raiseCount t.flagA else t) = t.raiseCount (if r.flagged then t.flagA else none) := by
    split <;> rfl
  rw [hraise]
  exact sends_request hp.here r.f ..

/-- Without the entry that gives its size, it traps. -/
theorem requests_unowned {i : Instr} {r : ORule} {s : State} {t : Team} (hr : Requests i r s t) (hp : s.poised t = true)
    (hc : checkV s t r.op r.f = none) (hnf : t.acquireFault = none) (hfree : ∀ q ∈ s.reqs, q.tid = t.tid → q.holds = false)
    (hb : settled s t (syncAddr r.f t 0).toNat 8) (hrel : r.release = true → s.releaseReady t r.scope = true)
    (hsize : r.size = none) : exec i s = .next (s.trap t 0x03 0 (syncAddr r.f t 0) 0) := by
  obtain ⟨sh, size, refused, kind, hexec, hs, -, -⟩ := hr
  obtain ⟨h8, hheap⟩ := hs.unsized hsize
  have hu : Unhindered sh (syncScope 4 r.f) r.f s t :=
    { poised := (poised_iff s t).mp hp, checks := hs.op ▸ hc, free := hfree, noFault := hnf
      release := fun hr => hs.scope ▸ hrel (hs.release ▸ hr)
      before := by rw [objectSpan_plain s hheap, h8]; exact hb }
  rw [hexec, requestInsn]
  exact objectInsn_unowned hu (hs.size.trans hsize)

/-- A team that must have a record for the grid word, or may make one, is not refused (R211). -/
theorem mayRecord {t : Team} {va : Dword} {wait : Bool}
    (hone : wait = false → ∀ a ∈ t.arrivals, a.va = va → a.loc.isScratch = true)
    (hroom : (∀ a ∈ t.arrivals, a.va = va → a.loc.isScratch = true) → t.arrivals.length < 4) :
    ((!wait || !t.arrivedAt false va) && (t.arrivedAt false va || decide (4 ≤ t.arrivals.length))) = false := by
  have hrecord : t.arrivedAt false va = false ↔ ∀ a ∈ t.arrivals, a.va = va → a.loc.isScratch = true := by
    simp [Team.arrivedAt]
  rw [← hrecord] at hone hroom
  cases ha : t.arrivedAt false va with
  | false => simp [hroom ha]
  | true =>
    cases wait with
    | false => exact absurd (hone rfl) (by simp [ha])
    | true => rfl

/-- An arrival at a grid barrier goes as a request too. -/
theorem gridBarrier_sends {s : State} {t : Team} {f : VFields} {op n pa : Nat} {wait : Bool}
    (h : (arriveRule op f wait).Ready s t n pa) :
    Sends (gridBarrier op wait f s) s t f pa (arriveRule op f wait).kind none := by
  obtain ⟨nc, hm⟩ := h.mapped
  obtain ⟨hone, hroom⟩ := h.records _ _ _ rfl
  have hs : Shaped (arriveRule op f wait) s t { op, size := 8, acquire := wait, release := true } (barScope 4 f)
      (fun _ _ => some 8) (fun _ _ _ => false) :=
    { op := rfl, release := rfl, scope := barScope_eq f, size := rfl, span := fun _ _ _ => objectSpan_plain s rfl t _ _
      unsized := nofun, refused := fun _ => rfl }
  have hkind : .arrive wait (barStatus f) (barScope 4 f) = (arriveRule op f wait).kind := by
    rw [barStatus_eq, barScope_eq]; rfl
  have hu : Unhindered _ (barScope 4 f) f s t := unhindered_of_ready h hs
  rw [gridBarrier, objectInsn_goes hu h.size h.inside h.aligned rfl hm]
  simp only [if_neg (Bool.eq_false_iff.mp (mayRecord (va := syncAddr f t 0) hone hroom)), hkind]
  exact sends_request ((poised_iff s t).mp h.poised).here f (flag := none) ..

/-- Settles O24: each instruction on an object is the one request that its rule asks for; one of a grid barrier differs
only in what refuses it. -/
theorem objectInstructionSendsItsRequest : Obligations.ObjectInstructionSendsItsRequest := by
  unfold Obligations.ObjectInstructionSendsItsRequest
  intro s t i r hrule
  obtain hr | ⟨f, wait, hexec, hr⟩ := requests_of_rule hrule s
  · exact ⟨fun n pa h => requests_sends hr h, requests_unowned hr⟩
  · rw [hexec, hr]
    exact ⟨fun n pa h => gridBarrier_sends h, nofun⟩

end Sys2Proof.Machine
end

section
/-! PROOFS. An arrival at a grid barrier as its home slice serves it (R40, R211, R308): the barrier word, what the service leaves beside its own team, and how the wait ends; O29. -/

namespace Sys2Proof.Machine

open Sys2Proof.Claims

/-! ## Numbers in bytes, and fields of numbers (R5, R6) -/

theorem ofBytes_toBytes (n x : Nat) : ofBytes (toBytes n x) = x % 256 ^ n := by
  induction n generalizing x with
  | zero => simp [toBytes, ofBytes, Nat.mod_one]
  | succ n ih =>
    have hrest : (List.range n).map ((fun i => BitVec.ofNat 8 (x >>> (8 * i))) ∘ Nat.succ) = toBytes n (x / 256) := by
      refine List.map_congr_left fun i _ => ?_
      simp only [Function.comp, Nat.succ_eq_add_one, Nat.mul_add, Nat.shiftRight_add]
      rw [← Nat.shiftRight_add, Nat.add_comm, Nat.shiftRight_add, Nat.shiftRight_eq_div_pow x 8]
    rw [toBytes, List.range_succ_eq_map, List.map_cons, List.map_map, hrest, ofBytes, ih]
    rw [Nat.mul_zero, Nat.shiftRight_zero, BitVec.toNat_ofNat, Nat.pow_succ' (n := n)]
    exact Nat.mod_mul.symm

theorem ofBytes_lt (bs : List Byte) : ofBytes bs < 256 ^ bs.length := by
  induction bs with
  | nil => simp [ofBytes]
  | cons b bs ih =>
    have := b.isLt
    rw [ofBytes, List.length_cons, Nat.pow_succ']
    omega

theorem physDword_lt (s : State) (pa : Nat) : s.physDword pa < 2 ^ 64 := by
  have := ofBytes_lt (memRead s.mem pa 8)
  simpa [State.physDword, memRead] using this

/-- A number in three parts. -/
theorem setBits_eq (x v : Nat) {hi lo : Nat} (h : lo ≤ hi) :
    setBits x hi lo v = x / 2 ^ (hi + 1) * 2 ^ (hi + 1) + v % 2 ^ (hi - lo + 1) * 2 ^ lo + x % 2 ^ lo := by
  have hv : v % 2 ^ (hi - lo + 1) * 2 ^ lo + x % 2 ^ lo < 2 ^ (hi + 1) := by
    have h1 : v % 2 ^ (hi - lo + 1) < 2 ^ (hi - lo + 1) := Nat.mod_lt _ (by positivity)
    have h2 : x % 2 ^ lo < 2 ^ lo := Nat.mod_lt _ (by positivity)
    have h3 : 2 ^ (hi + 1) = 2 ^ (hi - lo + 1) * 2 ^ lo := by rw [← Nat.pow_add]; congr 1; omega
    have h4 := Nat.mul_le_mul_right (2 ^ lo) h1
    rw [Nat.succ_mul] at h4
    omega
  rw [setBits, Nat.lor_assoc, ← Nat.shiftLeft_add_eq_or_of_lt (Nat.mod_lt _ (by positivity)), Nat.shiftLeft_eq (_ % _),
    ← Nat.shiftLeft_add_eq_or_of_lt hv, Nat.shiftRight_eq_div_pow, Nat.shiftLeft_eq, Nat.add_assoc]

theorem bits_eq (x hi lo : Nat) : bits x hi lo = x / 2 ^ lo % 2 ^ (hi - lo + 1) := by
  rw [bits, Nat.shiftRight_eq_div_pow]

/-! ## The barrier word (R209, R211) -/

/-- The word after one more arrival. -/
theorem arrived_word (w : Nat) : setBits w 31 16 (bits w 31 16 + 1) = w / 2 ^ 32 * 2 ^ 32 + arrivedOf w * 2 ^ 16 + w % 2 ^ 16 := by
  rw [setBits_eq _ _ (by decide), bits_eq, arrivedOf]

/-- The word with its phase advanced and no arrivals. -/
theorem advanced_word (w : Nat) : setBits (setBits w 31 16 0) 15 0 (w + 1) = w / 2 ^ 32 * 2 ^ 32 + (w + 1) % 2 ^ 16 := by
  rw [setBits_eq w 0 (by decide), setBits_eq _ _ (by decide)]
  omega

/-! ## What the service of a request leaves beside a team -/

/-- What others see of a context: its supervisor, and the deliveries that are pending. -/
def Context.shown (c : Context) : Handle × List Delivery := (c.supervisor, c.pending)

/-- State w is state s for team t, which stands as it stood, and as far as memory, launches, tags and what contexts show go:
other teams' monitors and parks may have ended, and tables and caches may differ. -/
structure Beside (t : Team) (s w : State) : Prop where
  team : s.team? t.tid = some t → w.team? t.tid = some t
  mem : w.mem = s.mem
  launches : w.launches = s.launches
  tags : w.tags = s.tags
  ctx : ∀ n, (w.ctx? n).map Context.shown = (s.ctx? n).map Context.shown

theorem Beside.refl (t : Team) (s : State) : Beside t s s := ⟨id, rfl, rfl, rfl, fun _ => rfl⟩

theorem Beside.trans {t : Team} {s v w : State} (h : Beside t s v) (h' : Beside t v w) : Beside t s w where
  team := h'.team ∘ h.team
  mem := h'.mem.trans h.mem
  launches := h'.launches.trans h.launches
  tags := h'.tags.trans h.tags
  ctx n := (h'.ctx n).trans (h.ctx n)

/-- A change of other parts of the machine. -/
theorem Beside.of_eq {t : Team} {s w : State} (hteams : w.teams = s.teams) (hmem : w.mem = s.mem)
    (hlaunches : w.launches = s.launches) (htags : w.tags = s.tags) (hctxs : w.ctxs = s.ctxs) : Beside t s w where
  team h := (team?_of_teams hteams _).trans h
  mem := hmem
  launches := hlaunches
  tags := htags
  ctx n := by simp only [State.ctx?, hctxs]

theorem Beside.fold {t : Team} {β : Type} {f : State → β → State} (hf : ∀ s b, Beside t s (f s b)) (l : List β) (s : State) :
    Beside t s (l.foldl f s) := by
  induction l generalizing s with
  | nil => exact .refl t s
  | cons b l ih => exact (hf s b).trans (ih _)

/-- A change of teams that leaves this one as it is. -/
theorem beside_modTeam {t : Team} {f : Team → Team} (s : State) (k : Handle) (hself : f t = t)
    (hid : ∀ u : Team, (f u).tid = u.tid) : Beside t s (s.modTeam k f) where
  team h := by
    by_cases hk : t.tid = k
    · rw [← hk, State.team?_modTeam_same s _ f fun u hu => (hid u).trans hu, h, Option.map_some, hself]
    · rw [State.team?_modTeam_ne s f hk fun u hu => (hid u).trans hu, h]
  mem := rfl
  launches := rfl
  tags := rfl
  ctx _ := rfl

theorem Beside.isSup {t : Team} {s w : State} (h : Beside t s w) (u : Team) : w.isSup u = s.isSup u := by
  have hctx := h.ctx u.ctx
  unfold State.isSup
  cases hw : w.ctx? u.ctx <;> cases hs : s.ctx? u.ctx <;> simp_all [Context.shown]

theorem beside_touchAt (t : Team) (s : State) (pa : Nat) (w : Bool) : Beside t s (s.touchAt pa w) := by
  unfold State.touchAt
  split
  · dsimp only
    split <;> exact .of_eq rfl rfl rfl rfl rfl
  · exact .refl t s

section
variable {t : Team} (hm : t.monitor = .none_)
include hm

theorem Team.endArm_of_none (n : Nat) : t.endArm n = t := by
  simp [Team.endArm, hm]

theorem beside_endArm (s : State) (k : Handle) (n : Nat) : Beside t s (s.modTeam k fun u => u.endArm n) :=
  beside_modTeam s k (t.endArm_of_none hm n) fun u => u.endArm_tid n

theorem beside_fireLine (s : State) (line n : Nat) : Beside t s (s.fireLine line n) := by
  have hdrop : Beside t s { s with arms := s.arms.filter fun a => !(a.line == line) } := .of_eq rfl rfl rfl rfl rfl
  exact hdrop.trans (Beside.fold (fun s (a : Arm) => beside_endArm hm s a.tid n) _ _)

/-- A write at its home slice is a write of memory, as far as this team goes. -/
theorem beside_homeWrite (s : State) (pa : Nat) (bs : List Byte) :
    Beside t { s with mem := memWrite s.mem pa bs } (s.homeWrite pa bs) := by
  have hheal : Beside t { s with mem := memWrite s.mem pa bs }
      ({ s with mem := memWrite s.mem pa bs }.healSectors 0 pa bs.length) := .of_eq rfl rfl rfl rfl rfl
  have htouch := Beside.fold (t := t) (fun s (p : Nat × Nat) => beside_touchAt t s p.1 true)
  exact (hheal.trans (htouch _ _)).trans (Beside.fold (fun s l => beside_fireLine hm s l 0) _ _)

theorem beside_evictArms (slice n : Nat) (s : State) : Beside t s (evictArms slice n s) := by
  induction n generalizing s with
  | zero => exact .refl t s
  | succ n ih =>
    unfold evictArms
    split
    · exact .refl t s
    · split
      · exact .refl t s
      · rename_i a _
        have herase : Beside t s { s with arms := s.arms.erase a } := .of_eq rfl rfl rfl rfl rfl
        exact (herase.trans (beside_endArm hm _ a.tid 3)).trans (ih _)

theorem beside_needEntry (s : State) (kind pa : Nat) : Beside t s (s.needEntry kind pa) := by
  have huse : ∀ v : State, Beside t v (v.useEntry (kind, pa)) := fun v => .of_eq rfl rfl rfl rfl rfl
  have hspill : ∀ v : State, Beside t v (v.spillEntry (sliceOf pa)) := by
    intro v
    unfold State.spillEntry
    dsimp only
    split
    · exact .of_eq rfl rfl rfl rfl rfl
    · exact .refl t v
  have hevict := beside_evictArms hm (sliceOf pa) s.arms.length s
  unfold State.needEntry
  dsimp only
  refine .trans ?_ (huse _)
  split
  · split
    · exact .refl t s
    · exact hspill s
  · split
    · exact hevict
    · exact hevict.trans (hspill _)
end

theorem beside_mapCtxs (t : Team) (s : State) {g : Context → Context} (hid : ∀ c, (g c).id = c.id)
    (hshown : ∀ c, (g c).shown = c.shown) : Beside t s { s with ctxs := s.ctxs.map g } where
  team := id
  mem := rfl
  launches := rfl
  tags := rfl
  ctx n := by
    have hp : (fun x : Context => x.id == n) ∘ g = fun x => x.id == n := funext fun c => by simp [hid]
    simp only [State.ctx?, List.find?_map, Option.map_map, hp]
    exact congrArg (Option.map · _) (funext hshown)

/-- A notice to end a park passes an active team by. -/
theorem beside_notify {t : Team} (hr : t.run = .active) (s : State) (k : Handle) (for_ : Park → Bool) (w : Wake) :
    Beside t s (s.notify k for_ w) := by
  unfold State.notify
  dsimp only
  refine .trans (beside_modTeam s k ?_ ?_) (beside_mapCtxs t _ ?_ ?_)
  · simp [hr]
  · intro u; split <;> rfl
  · intro c; split <;> rfl
  · intro c; split <;> rfl

theorem beside_acquireAt (t : Team) (s : State) (core scope : Nat) : Beside t s (s.acquireAt core scope) := by
  unfold State.acquireAt
  split
  · exact .of_eq rfl rfl rfl rfl rfl
  · exact .refl t s

theorem beside_takeReq (t : Team) (s : State) (r : Req) : Beside t s (s.takeReq r) := .of_eq rfl rfl rfl rfl rfl

/-- Served entries are used: the order of the slice's table alone differs. -/
theorem useEntries_eq (s : State) (pa : Nat) : ∃ o, s.useEntries pa = { s with syncOrder := o } := by
  unfold State.useEntries
  refine List.foldlRecOn (motive := fun v : State => ∃ o, v = { s with syncOrder := o }) _ _ ⟨s.syncOrder, rfl⟩
    fun v ⟨o, hv⟩ k _ => ?_
  subst hv
  split <;> exact ⟨_, rfl⟩

theorem beside_useEntries (t : Team) (s : State) (pa : Nat) : Beside t s (s.useEntries pa) := by
  obtain ⟨o, ho⟩ := useEntries_eq s pa
  rw [ho]
  exact .of_eq rfl rfl rfl rfl rfl

theorem Beside.physDword {t : Team} {s w : State} (h : Beside t s w) (pa : Nat) : w.physDword pa = s.physDword pa := by
  rw [State.physDword, h.mem, State.physDword]

theorem Beside.withMem {t : Team} {s w : State} (h : Beside t s w) (m : List Host.Cell) :
    Beside t { s with mem := m } { w with mem := m } :=
  ⟨h.team, rfl, h.launches, h.tags, h.ctx⟩

theorem expectedOf_congr {s v : State} {b : Barrier} {pa w w' : Nat} (hloc : b.loc = .grid pa)
    (hl : v.launches = s.launches) (hw : w' / 2 ^ 32 = w / 2 ^ 32) : expectedOf v b w' = expectedOf s b w := by
  simp only [expectedOf, State.parties, hloc, State.launch?, hl, hw]

/-! ## An arrival (R211) -/

/-- The team with its record of an arrival. -/
def Team.withArrival (t : Team) (a : Arrival) : Team := { t with arrivals := t.arrivals ++ [a] }

/-- A dword reads as it was written. -/
theorem physDword_memWrite (s : State) (pa w : Nat) (hw : w < 2 ^ 64) :
    ({ s with mem := memWrite s.mem pa (toBytes 8 w) } : State).physDword pa = w := by
  have hread : memRead (memWrite s.mem pa (toBytes 8 w)) pa 8 = toBytes 8 w := by
    refine List.map_congr_left fun i hi => ?_
    have hi8 : i < 8 := List.mem_range.mp hi
    rw [memByte_memWrite, if_pos (by simp [toBytes]; omega)]
    simp [toBytes, hi8]
  rw [State.physDword, hread, ofBytes_toBytes]
  exact Nat.mod_eq_of_lt hw

/-- The word with its count raised, in its parts. -/
def countedWord (w : Nat) : Nat := w / 2 ^ 32 * 2 ^ 32 + arrivedOf w * 2 ^ 16 + w % 2 ^ 16

theorem arrivedOf_lt (w : Nat) : arrivedOf w < 2 ^ 16 := Nat.mod_lt _ (by decide)

theorem countedWord_lt {w : Nat} (hw : w < 2 ^ 64) : countedWord w < 2 ^ 64 := by
  have := arrivedOf_lt w
  simp only [countedWord]
  omega

theorem countedWord_count (w : Nat) : countedWord w / 2 ^ 16 % 2 ^ 16 = arrivedOf w := by
  have := arrivedOf_lt w
  simp only [countedWord]
  omega

theorem countedWord_high (w : Nat) : countedWord w / 2 ^ 32 = w / 2 ^ 32 := by
  have := arrivedOf_lt w
  simp only [countedWord]
  omega

theorem countedWord_phase (w : Nat) : countedWord w % 2 ^ 16 = w % 2 ^ 16 := by
  simp only [countedWord]
  omega

/-- The test of Complete(w), in the statement's terms. -/
theorem completeTest_iff (s : State) (b : Barrier) (w : Nat) :
    ((if bits w 47 32 = 0 then s.parties b else bits w 47 32) = 0 ||
      decide (bits w 31 16 < if bits w 47 32 = 0 then s.parties b else bits w 47 32)) = true ↔
    ¬ (0 < expectedOf s b w ∧ expectedOf s b w ≤ w / 2 ^ 16 % 2 ^ 16) := by
  have hn : (if bits w 47 32 = 0 then s.parties b else bits w 47 32) = expectedOf s b w := by
    simp only [bits_eq, expectedOf, Nat.reduceSub, Nat.reduceAdd]
  rw [hn, bits_eq, Bool.or_eq_true, decide_eq_true_eq, decide_eq_true_eq]
  omega

section
variable {s : State} {b : Barrier} {pa w : Nat} (hloc : b.loc = .grid pa) (hw : s.physDword pa = w)
include hloc hw

theorem completeBarrier_waits (hc : ¬ (0 < expectedOf s b w ∧ expectedOf s b w ≤ w / 2 ^ 16 % 2 ^ 16)) :
    s.completeBarrier b = s := by
  simp only [State.completeBarrier, hloc, State.barrierWord, hw]
  exact if_pos ((completeTest_iff s b w).mpr hc)

/-- A phase that a party has completed advances; an active team that waits for nothing sees the word alone change. -/
theorem completeBarrier_advances {t : Team} (hm : t.monitor = .none_) (hr : t.run = .active)
    (hc : 0 < expectedOf s b w ∧ expectedOf s b w ≤ w / 2 ^ 16 % 2 ^ 16) :
    Beside t { s with mem := memWrite s.mem pa (toBytes 8 (w / 2 ^ 32 * 2 ^ 32 + (w + 1) % 2 ^ 16)) } (s.completeBarrier b) := by
  simp only [State.completeBarrier, hloc, State.barrierWord, hw]
  rw [if_neg fun h => (completeTest_iff s b w).mp h hc, advanced_word]
  refine (beside_homeWrite hm s pa _).trans (.trans ?_ (Beside.fold (fun s h => beside_notify hr s h _ _) _ _))
  exact .of_eq rfl rfl rfl rfl rfl
end

/-- The record that an arrival leaves. -/
def gridArrival (s : State) (pa : Nat) (va : Dword) : Arrival := { loc := .grid pa, va, phase := s.physDword pa % 2 ^ 16 }

/-- The state in which an arrival is recorded and counted, its barrier noted, and no phase advanced. -/
def State.countArrival (s : State) (u : Team) (b : Barrier) (pa : Nat) : State :=
  let s2 := (s.setTeam u).setWord pa (countedWord (s.physDword pa))
  { s2 with barriers := b :: s2.barriers.filter fun x => !(x.loc == b.loc) }

theorem arriveBarrier_eq {s : State} {t : Team} (ht : s.team? t.tid = some t) (pa : Nat) (va : Dword) {b : Barrier}
    (hb : b = { loc := .grid pa, ctx := t.ctx, lid := t.lid, plot := t.plot }) :
    s.arriveBarrier t (.grid pa) va = (s.countArrival (t.withArrival (gridArrival s pa va)) b pa).completeBarrier b := by
  have hput : s.modTeam t.tid (fun v => v.withArrival (gridArrival s pa va)) = s.setTeam (t.withArrival (gridArrival s pa va)) :=
    modTeam_eq_setTeam ht rfl
  subst hb
  rw [State.countArrival, ← hput, countedWord, ← arrived_word]
  rfl

theorem beside_countArrival {u : Team} (hm : u.monitor = .none_) (s : State) (b : Barrier) (pa : Nat) :
    Beside u { s.setTeam u with mem := memWrite s.mem pa (toBytes 8 (countedWord (s.physDword pa))) }
      (s.countArrival u b pa) :=
  (beside_homeWrite hm (s.setTeam u) pa _).trans (.of_eq rfl rfl rfl rfl rfl)

/-- Bytes written over bytes of the same run. -/
theorem memByte_memWrite_memWrite (m : List Host.Cell) (pa x : Nat) {bs cs : List Byte} (h : bs.length = cs.length) :
    memByte (memWrite (memWrite m pa bs) pa cs) x = memByte (memWrite m pa cs) x := by
  simp only [memByte_memWrite, h]
  split <;> rfl

/-- After an arrival: the barrier word, the team with its record, and all else as it is beside the team. -/
theorem arriveBarrier_grid {s : State} {t : Team} (ht : s.team? t.tid = some t) (hm : t.monitor = .none_) (hr : t.run = .active)
    (pa : Nat) (va : Dword) {w : Nat} (hw : s.physDword pa = w) {b : Barrier}
    (hb : b = { loc := .grid pa, ctx := t.ctx, lid := t.lid, plot := t.plot }) :
    ∃ M, Beside (t.withArrival (gridArrival s pa va)) { s.setTeam (t.withArrival (gridArrival s pa va)) with mem := M }
        (s.arriveBarrier t (.grid pa) va) ∧
      ∀ x, memByte M x = memByte (memWrite s.mem pa (toBytes 8 (arriveWord s b w))) x := by
  rw [arriveBarrier_eq ht pa va hb]
  generalize hu : t.withArrival (gridArrival s pa va) = u
  have hum : u.monitor = .none_ := hu ▸ hm
  have hur : u.run = .active := hu ▸ hr
  have hloc : b.loc = .grid pa := hb ▸ rfl
  have hc := beside_countArrival hum s b pa
  rw [hw] at hc
  generalize s.countArrival u b pa = v at hc ⊢
  have hword : v.physDword pa = countedWord w := by
    rw [hc.physDword]
    exact physDword_memWrite (s.setTeam u) pa _ (countedWord_lt (hw ▸ physDword_lt s pa))
  have hcompletes : (0 < expectedOf v b (countedWord w) ∧ expectedOf v b (countedWord w) ≤ countedWord w / 2 ^ 16 % 2 ^ 16) ↔
      completes s b w := by
    rw [expectedOf_congr (s := s) hloc hc.launches (countedWord_high w), countedWord_count]; rfl
  by_cases hd : completes s b w
  · refine ⟨_, (hc.withMem _).trans (completeBarrier_advances hloc hword hum hur (hcompletes.mpr hd)), fun x => ?_⟩
    have hphase : (countedWord w + 1) % 2 ^ 16 = (w % 2 ^ 16 + 1) % 2 ^ 16 := by
      have := countedWord_phase w
      omega
    rw [hc.mem, memByte_memWrite_memWrite _ _ _ (by simp [toBytes]), countedWord_high, hphase, arriveWord, if_pos hd]
  · rw [completeBarrier_waits hloc hword fun h => hd (hcompletes.mp h)]
    refine ⟨_, hc, fun x => ?_⟩
    rw [arriveWord, if_neg hd, countedWord, Nat.add_assoc]

/-! ## The end of the service -/

theorem Team.gone_withArrival (t : Team) (a : Arrival) :
    (t.withArrival a).gone = { t.gone with arrivals := t.arrivals ++ [a] } := by
  simp only [Team.gone, Team.advance, Team.withArrival]
  split
  · rfl
  · split <;> rfl

theorem Team.gone_setS (t : Team) (n : Nat) (x : Dword) : (t.setS n x).gone = t.gone.setS n x := by
  have hs : t.gone.s = t.s := by rw [Team.gone, Team.advance_eq]; rfl
  rw [Team.setS, Team.gone_s, Team.setS, hs]

theorem Team.endStep_quiet {t : Team} (h : t.stepping = none) (n : Nat) : t.endStep n = t := by
  simp [Team.endStep, h]

/-- A quiet team retires with registers written, and nothing else that this team sees changes. -/
theorem retireS_quiet {s : State} {t : Team} (hq : Quiet t) (ws : List (BitVec 7 × Dword)) :
    s.retireS t ws = (s.noteWrites t.tid true (ws.map fun w => (w.1.toNat, 0))).setTeam (t.setAll ws).gone := by
  rw [State.retireS]
  apply retire_quiet <;> rw [show ws.foldl _ t = t.setAll ws from rfl, Team.setAll_eq]
  · exact hq.late
  · exact hq.stepping
  · exact hq.stays
  · exact hq.yields

/-- The slice has served the request: the tag of its line and what its team read of tags aside. -/
theorem noteRead_tagLine {s : State} (htags : s.tags = []) (line mark : Nat) (h : Handle) (pa : Nat) :
    (s.tagLine line (coreOf h) mark).noteRead h pa = s.tagLine line (coreOf h) mark := by
  have hnone : (s.tagLine line (coreOf h) mark).tagsOn (lineOf pa) (coreOf h) = [] := by
    unfold State.tagsOn State.tagLine
    split <;> simp [htags]
  simp [State.noteRead, hnone]

theorem tagLine_frame (s : State) (line core mark : Nat) :
    s.tagLine line core mark = { s with tags := (s.tagLine line core mark).tags } := by
  unfold State.tagLine
  split <;> rfl

theorem trapped_eq {t : Team} (hr : t.run = .active) : t.haltedNow = trapped t := by
  simp [Team.haltedNow, trapped, hr]

theorem ctx?_post (s : State) (ctx : Nat) (d : Delivery) :
    (s.post ctx d).ctx? ctx = (s.ctx? ctx).map fun c => { c with pending := c.pending ++ [d] } :=
  find?_updFirst (fun c : Context => c.id == ctx) (fun c => { c with pending := c.pending ++ [d] }) (fun _ h => h) s.ctxs

/-- A trap of a quiet active team is reported as its context's newest delivery. -/
theorem trap_trapsAs {s : State} {t u : Team} (ht : s.team? t.tid = some u) (hr : t.run = .active) (hq : t.stepping = none)
    (hsup : s.isSup t = false) (cause : Nat) (info : Dword) : trapsAs s (s.trap t cause 0 info 0) t cause info := by
  rw [trap_posts hsup, trapped_eq hr, Team.endStep_quiet (t := trapped t) hq]
  refine ⟨State.team?_setTeam (trapped t) ht, fun c hc => ⟨_, (ctx?_post _ _ _).trans (congrArg (Option.map _) hc), rfl⟩⟩

theorem team?_setTeam_at {s : State} {h : Handle} {t u : Team} (ht : s.team? h = some t) (hid : u.tid = h) :
    (s.setTeam u).team? h = some u := by
  subst hid
  exact State.team?_setTeam u ht

/-- What the end of a wait shows is the same from a state that shows the same contexts. -/
theorem waitOver_of_shown {s v s' : State} (h : ∀ n, (v.ctx? n).map Context.shown = (s.ctx? n).map Context.shown) {t u : Team}
    {va : Dword} {d : Option Nat} {ab : Bool} (hw : waitOver v s' t u va d ab) : waitOver s s' t u va d ab := by
  cases d with
  | some n => exact hw
  | none =>
    cases ab with
    | false => exact hw
    | true =>
      obtain ⟨hid, hteam, hpost⟩ := hw
      refine ⟨hid, hteam, fun c hc => ?_⟩
      have hshown := h u.ctx
      rw [hc, Option.map_some, Option.map_eq_some_iff] at hshown
      obtain ⟨c', hc', hsame⟩ := hshown
      obtain ⟨x, hx, hpend⟩ := hpost c' hc'
      exact ⟨x, hx, by rw [hpend]; exact congrArg (fun p => p.2 ++ _) hsame⟩

section
variable {s : State} {t : Team} {l : BarLoc} {a : Arrival} (ht : s.team? t.tid = some (t.withArrival a)) (hl : a.loc = l)
  (hnew : ∀ x ∈ t.arrivals, x.loc ≠ l) (hq : Quiet t) (hr : t.run = .active) (hsup : s.isSup t = false)
include ht hl hnew hq hr hsup

/-- A wait at a word of which the team holds the newest record is over: the record goes, and the team with its status. -/
theorem endWait_over (va : Dword) (sd : Option (BitVec 7)) (scope : Nat) (ab : Bool) :
    waitOver s (s.endWait (t.withArrival a) l va sd scope ab) t t va (sd.map BitVec.toNat) ab ∧
      (s.endWait (t.withArrival a) l va sd scope ab).mem = s.mem ∧
      (s.endWait (t.withArrival a) l va sd scope ab).tags = s.tags := by
  have hgone : { t.withArrival a with arrivals := (t.withArrival a).arrivals.filter fun x => !(x.loc == l) } = t := by
    have hkeep : t.arrivals.filter (fun x => !(x.loc == l)) = t.arrivals :=
      List.filter_eq_self.mpr fun x hx => by simp [hnew x hx]
    simp [Team.withArrival, List.filter_append, hkeep, hl]
  simp only [State.endWait, hgone]
  have hacq := beside_acquireAt (t.withArrival a) s (coreOf (t.withArrival a).tid) scope
  generalize s.acquireAt (coreOf (t.withArrival a).tid) scope = v at hacq ⊢
  have ht1 : v.team? t.tid = some (t.withArrival a) := hacq.team ht
  have hsup1 : v.isSup t = false := (hacq.isSup t).trans hsup
  rw [← hacq.mem, ← hacq.tags]
  refine ⟨waitOver_of_shown hacq.ctx ?_, ?_⟩
  · cases sd with
    | some d =>
      refine (congrArg (State.team? · t.tid) (retireS_quiet hq _)).trans ?_
      rw [← Team.gone_setS]
      exact team?_setTeam_at ((team?_of_teams (s := v) rfl _).trans ht1) (Team.gone_tid _)
    | none =>
      cases ab with
      | false =>
        refine (congrArg (State.team? · t.tid) (retire_quiet v t hq.late hq.stepping hq.stays hq.yields)).trans ?_
        exact team?_setTeam_at ht1 (Team.gone_tid t)
      | true => exact ⟨rfl, trap_trapsAs ht1 hr hq.stepping hsup1 _ _⟩
  · cases sd with
    | some d => simp only [retireS_quiet hq]; exact ⟨rfl, rfl⟩
    | none =>
      cases ab with
      | false => simp only [retire_quiet v t hq.late hq.stepping hq.stays hq.yields]; exact ⟨rfl, rfl⟩
      | true => simp only [trap_posts hsup1]; exact ⟨rfl, rfl⟩
end

/-- The team parks at the word. -/
theorem park_quiet {s : State} {t : Team} (hq : Quiet t) (p : Park) :
    s.park t p none = s.setTeam { t with held := none, run := .parked p none } := by
  rw [park_eq, ← hq.stays]
  exact congrArg s.setTeam (Team.endStep_quiet (t := { t with held := none, run := .parked p none }) hq.stepping 4)

theorem partiesAbandoned_of_launches {s v : State} (h : v.launches = s.launches) (t : Team) (pa : Nat) :
    v.partiesAbandoned t (.grid pa) = s.partiesAbandoned t (.grid pa) := by
  simp only [State.partiesAbandoned, State.launch?, h]

theorem arrival?_withArrival {t : Team} {a : Arrival} (hnew : ∀ x ∈ t.arrivals, x.loc ≠ a.loc) :
    (t.withArrival a).arrival? a.loc = some a := by
  have hnone : t.arrivals.find? (fun x => x.loc == a.loc) = none :=
    List.find?_eq_none.mpr fun x hx => by simpa using hnew x hx
  simp [Team.arrival?, Team.withArrival, List.find?_append, hnone]

/-- A team waits on at a grid word with an entry in its slice's table, parked. -/
def parkedAt (u : Team) (l : BarLoc) (va : Dword) (sd : Option (BitVec 7)) (scope : Nat) : Team :=
  { u with held := none, run := .parked (.barrier l va sd scope) none }

section
variable {s : State} {t : Team} {a : Arrival} {pa : Nat} (ht : s.team? t.tid = some (t.withArrival a)) (hl : a.loc = .grid pa)
  (hnew : ∀ x ∈ t.arrivals, x.loc ≠ .grid pa)
include ht hl hnew

/-- A phase that has moved, or an abandoned barrier, ends the wait at once. -/
theorem waitBarrier_over (h : a.phase ≠ s.physDword pa % 2 ^ 16 ∨ s.partiesAbandoned t (.grid pa) = true) (va : Dword)
    (sd : Option (BitVec 7)) (scope : Nat) : s.waitBarrier t.tid (.grid pa) va sd scope =
      s.endWait (t.withArrival a) (.grid pa) va sd scope (s.partiesAbandoned t (.grid pa)) := by
  have hrec : (t.withArrival a).arrival? (.grid pa) = some a := hl ▸ arrival?_withArrival (hl ▸ hnew)
  have hab : s.partiesAbandoned (t.withArrival a) (.grid pa) = s.partiesAbandoned t (.grid pa) := rfl
  simp only [State.waitBarrier, ht, hrec, State.barrierWord, hab]
  by_cases hp : a.phase ≠ s.physDword pa % 2 ^ 16
  · exact if_pos (decide_eq_true hp)
  · have hx := h.resolve_left hp
    rw [hx]
    exact (if_neg (Bool.eq_false_iff.mp (decide_eq_false hp))).trans (if_pos rfl)

/-- Else the team parks. -/
theorem waitBarrier_parks (hm : t.monitor = .none_) (hq : Quiet t) (hp : a.phase = s.physDword pa % 2 ^ 16)
    (hab : s.partiesAbandoned t (.grid pa) = false) (va : Dword) (sd : Option (BitVec 7)) (scope : Nat) :
    s.waitBarrier t.tid (.grid pa) va sd scope = (s.needEntry 3 pa).setTeam (parkedAt (t.withArrival a) (.grid pa) va sd scope) := by
  have hrec : (t.withArrival a).arrival? (.grid pa) = some a := hl ▸ arrival?_withArrival (hl ▸ hnew)
  have hab' : s.partiesAbandoned (t.withArrival a) (.grid pa) = false := hab
  have hteam : (s.needEntry 3 pa).team? (t.withArrival a).tid = some (t.withArrival a) :=
    (beside_needEntry (t := t.withArrival a) hm s 3 pa).team ht
  have hqa : Quiet (t.withArrival a) := ⟨hq.late, hq.stepping, hq.stays, hq.yields⟩
  simp only [State.waitBarrier, ht, hrec, State.barrierWord, hab', hp, ne_eq, not_true_eq_false, decide_false,
    Bool.false_eq_true, if_false, State.catchUp_same hteam rfl, park_quiet hqa]
  rfl
end

/-! ## The service of an arrival (R40, R211) -/

/-- The barrier that a team's arrival at a grid word meets. -/
def gridBarrierOf (t : Team) (pa : Nat) : Barrier := { loc := .grid pa, ctx := t.ctx, lid := t.lid, plot := t.plot }

theorem tid_of_served {s : State} {t : Team} {r : Req} (hs : Served s r t) : t.tid = r.tid := State.tid_of_team? hs.team

/-- The request taken, the entries of its object used: the team sees nothing change. -/
theorem beside_taken (t : Team) (s : State) (r : Req) : Beside t s ((s.takeReq r).useEntries r.pa) :=
  (beside_takeReq t s r).trans (beside_useEntries t _ r.pa)

theorem poison_taken (s : State) (r : Req) : ((s.takeReq r).useEntries r.pa).poison = s.poison := by
  obtain ⟨o, ho⟩ := useEntries_eq (s.takeReq r) r.pa
  rw [ho]; rfl

section
variable {s : State} {t : Team} {r : Req} (hs : Served s r t)
include hs

/-- The service of an arrival, its frame resolved. -/
theorem exec_serveArrive {wait : Bool} {sd : Option (BitVec 7)} {sc : Nat} (hk : r.kind = .arrive wait sd sc) :
    exec .homeSliceServe s = .next (((serveArrive ((s.takeReq r).useEntries r.pa) r t wait sd sc).tagLine (lineOf r.pa) r.core
      r.mark).noteRead r.tid r.pa) := by
  have hteam : ((s.takeReq r).useEntries r.pa).team? t.tid = some t := (beside_taken t s r).team (tid_of_served hs ▸ hs.team)
  have hclean : ((s.takeReq r).useEntries r.pa).poisoned r.pa = false := by
    rw [State.poisoned, poison_taken]; exact hs.clean
  have htaken : (s.takeReq r).team? r.tid = some t := hs.team
  have hheap : r.heap? = none := by simp [Req.heap?, hk]
  rw [show exec .homeSliceServe s = execHomeSliceServe s from rfl]
  simp only [execHomeSliceServe, hs.next, hs.ready, State.serveReq, hk, htaken, hheap, State.catchUp_same hteam rfl,
    hclean, Bool.false_eq_true, if_false]
end

/-- State v is state s after team t's arrival at the grid word at pa, on the way into what the team does next. -/
structure Arrived (s v : State) (t : Team) (pa : Nat) (va : Dword) : Prop where
  team : v.team? t.tid = some (t.withArrival (gridArrival s pa va))
  launches : v.launches = s.launches
  tags : v.tags = s.tags
  ctx : ∀ n, (v.ctx? n).map Context.shown = (s.ctx? n).map Context.shown
  sup : v.isSup t = s.isSup t
  mem : ∀ x, memByte v.mem x = memByte (memWrite s.mem pa (toBytes 8 (arriveWord s (gridBarrierOf t pa) (s.physDword pa)))) x

theorem arriveWord_lt (s : State) (b : Barrier) {w : Nat} (hw : w < 2 ^ 64) : arriveWord s b w < 2 ^ 64 := by
  have hcount := countedWord_lt hw
  by_cases hc : completes s b w
  · rw [arriveWord, if_pos hc]
    omega
  · rw [arriveWord, if_neg hc, ← Nat.add_assoc]
    exact hcount

theorem arriveWord_phase (s : State) (b : Barrier) (w : Nat) :
    w % 2 ^ 16 ≠ arriveWord s b w % 2 ^ 16 ↔ completes s b w := by
  by_cases hc : completes s b w
  · rw [arriveWord, if_pos hc]
    exact iff_of_true (by omega) hc
  · rw [arriveWord, if_neg hc]
    exact iff_of_false (by omega) hc

theorem arriveWord_congr {s v : State} {b : Barrier} {pa : Nat} (hloc : b.loc = .grid pa) (hl : v.launches = s.launches) (w : Nat) :
    arriveWord v b w = arriveWord s b w := by
  have he : completes v b w ↔ completes s b w := by
    rw [completes, expectedOf_congr (s := s) hloc hl (w := w) rfl, completes]
  by_cases hc : completes s b w
  · rw [arriveWord, if_pos (he.mpr hc), arriveWord, if_pos hc]
  · rw [arriveWord, if_neg (fun h => hc (he.mp h)), arriveWord, if_neg hc]

section
variable {s v : State} {t : Team} {pa : Nat} {va : Dword}

theorem arrived_of_beside (ht : s.team? t.tid = some t) (hm : t.monitor = .none_) (hr : t.run = .active)
    (h : Beside t s v) : Arrived s (v.arriveBarrier t (.grid pa) va) t pa va := by
  have hword : v.physDword pa = s.physDword pa := h.physDword pa
  obtain ⟨M, hb, hmem⟩ := arriveBarrier_grid (h.team ht) hm hr pa va hword (b := gridBarrierOf t pa) rfl
  have hrec : gridArrival v pa va = gridArrival s pa va := by rw [gridArrival, hword, gridArrival]
  have hsame : arriveWord v (gridBarrierOf t pa) (s.physDword pa) = arriveWord s (gridBarrierOf t pa) (s.physDword pa) :=
    arriveWord_congr rfl h.launches _
  rw [hrec] at hb
  exact
    { team := hb.team (team?_setTeam_at (h.team ht) rfl)
      launches := hb.launches.trans h.launches
      tags := hb.tags.trans h.tags
      ctx := fun n => (hb.ctx n).trans (h.ctx n)
      sup := (hb.isSup t).trans (h.isSup t)
      mem := fun x => by rw [hb.mem, hmem x, hsame, h.mem] }

theorem Arrived.physDword (h : Arrived s v t pa va) :
    v.physDword pa = arriveWord s (gridBarrierOf t pa) (s.physDword pa) := by
  have hread : memRead v.mem pa 8 = memRead (memWrite s.mem pa (toBytes 8 (arriveWord s (gridBarrierOf t pa) (s.physDword pa)))) pa 8 :=
    List.map_congr_left fun i _ => h.mem (pa + i)
  rw [State.physDword, hread]
  exact physDword_memWrite s pa _ (arriveWord_lt s _ (physDword_lt s pa))

/-- The phase has moved on from the team's record just where its arrival completes it. -/
theorem Arrived.moved (h : Arrived s v t pa va) :
    (gridArrival s pa va).phase ≠ v.physDword pa % 2 ^ 16 ↔ completes s (gridBarrierOf t pa) (s.physDword pa) := by
  rw [h.physDword]
  exact arriveWord_phase s _ _

/-- What the service of an arrival comes to, for its team (R211). -/
structure ArrivalEnds (s s' : State) (t : Team) (pa : Nat) (va : Dword) (wait : Bool) (sd : Option (BitVec 7)) (sc : Nat) : Prop where
  goes : wait = false → s'.team? t.tid = some (t.withArrival (gridArrival s pa va)).gone
  ends : wait = true → (completes s (gridBarrierOf t pa) (s.physDword pa) ∨ s.partiesAbandoned t (.grid pa) = true) →
    waitOver s s' t t va (sd.map BitVec.toNat) (s.partiesAbandoned t (.grid pa))
  parks : wait = true → ¬ completes s (gridBarrierOf t pa) (s.physDword pa) → s.partiesAbandoned t (.grid pa) = false →
    s'.team? t.tid = some (parkedAt (t.withArrival (gridArrival s pa va)) (.grid pa) va sd sc)

theorem Arrived.replies (hq : Quiet t) (h : Arrived s v t pa va) (sd : Option (BitVec 7)) (sc : Nat) :
    ArrivalEnds s (v.replyWith t.tid []) t pa va false sd sc ∧
      (v.replyWith t.tid []).mem = v.mem ∧ (v.replyWith t.tid []).tags = v.tags := by
  have hqa : Quiet (t.withArrival (gridArrival s pa va)) := ⟨hq.late, hq.stepping, hq.stays, hq.yields⟩
  simp only [State.replyWith, h.team, retireS_quiet hqa]
  exact ⟨⟨fun _ => team?_setTeam_at ((team?_of_teams (s := v) rfl _).trans h.team) (Team.gone_tid _), nofun, nofun⟩, rfl, rfl⟩

variable (hnew : ∀ a ∈ t.arrivals, a.loc ≠ .grid pa) (hq : Quiet t)
include hnew hq

theorem Arrived.waits (h : Arrived s v t pa va) (hm : t.monitor = .none_) (hr : t.run = .active) (hsup : s.isSup t = false)
    (sd : Option (BitVec 7)) (sc : Nat) :
    ArrivalEnds s (v.waitBarrier t.tid (.grid pa) va sd sc) t pa va true sd sc ∧
      (v.waitBarrier t.tid (.grid pa) va sd sc).mem = v.mem ∧ (v.waitBarrier t.tid (.grid pa) va sd sc).tags = v.tags := by
  have hab : v.partiesAbandoned t (.grid pa) = s.partiesAbandoned t (.grid pa) := partiesAbandoned_of_launches h.launches t pa
  by_cases hover : completes s (gridBarrierOf t pa) (s.physDword pa) ∨ s.partiesAbandoned t (.grid pa) = true
  · rw [waitBarrier_over h.team rfl hnew (by rwa [h.moved, hab]), hab]
    obtain ⟨hw, hmem, htags⟩ := endWait_over h.team rfl hnew hq hr (h.sup.trans hsup) va sd sc (s.partiesAbandoned t (.grid pa))
    exact ⟨⟨nofun, fun _ _ => waitOver_of_shown h.ctx hw, fun _ hc ha => by simp [hc, ha] at hover⟩, hmem, htags⟩
  · obtain ⟨hc, ha⟩ := not_or.mp hover
    have ha' : s.partiesAbandoned t (.grid pa) = false := Bool.eq_false_iff.mpr ha
    have hphase : (gridArrival s pa va).phase = v.physDword pa % 2 ^ 16 := not_ne_iff.mp fun hne => hc (h.moved.mp hne)
    rw [waitBarrier_parks h.team rfl hnew hm hq hphase (hab.trans ha')]
    have hb := beside_needEntry (t := t.withArrival (gridArrival s pa va)) hm v 3 pa
    generalize v.needEntry 3 pa = x at hb ⊢
    exact ⟨⟨nofun, fun _ h => absurd h hover, fun _ _ _ => team?_setTeam_at (hb.team h.team) rfl⟩, hb.mem, hb.tags⟩

end

/-- An arrival served: the word alone changes in memory, and the team goes on, ends its wait, or parks. -/
theorem exec_arrive {s : State} {t : Team} {r : Req} {wait : Bool} {sd : Option (BitVec 7)} {sc : Nat} (hs : Served s r t)
    (hk : r.kind = .arrive wait sd sc) (hnew : ∀ a ∈ t.arrivals, a.loc ≠ .grid r.pa) (hr : t.run = .active) :
    ∃ s', exec .homeSliceServe s = .next s' ∧ ArrivalEnds s s' t r.pa r.va wait sd sc ∧
      ∀ x, memByte s'.mem x =
        memByte (memWrite s.mem r.pa (toBytes 8 (arriveWord s (gridBarrierOf t r.pa) (s.physDword r.pa)))) x := by
  obtain ⟨-, hm, hsup⟩ := hs.alive
  have hid : t.tid = r.tid := tid_of_served hs
  have ha := arrived_of_beside (pa := r.pa) (va := r.va) (hid ▸ hs.team) hm hr (beside_taken t s r)
  have hfirst : t.arrival? (.grid r.pa) = none :=
    List.find?_eq_none.mpr fun a h => by simpa using hnew a h
  obtain ⟨v, hv, hends, hmem, htags⟩ : ∃ v, serveArrive ((s.takeReq r).useEntries r.pa) r t wait sd sc = v ∧
      ArrivalEnds s v t r.pa r.va wait sd sc ∧
      v.mem = (((s.takeReq r).useEntries r.pa).arriveBarrier t (.grid r.pa) r.va).mem ∧
      v.tags = (((s.takeReq r).useEntries r.pa).arriveBarrier t (.grid r.pa) r.va).tags := by
    refine ⟨_, rfl, ?_⟩
    simp only [serveArrive, hfirst, Option.isSome_none, Bool.false_eq_true, if_false]
    cases wait with
    | true => exact ha.waits hnew hs.quiet hm hr hsup sd sc
    | false => exact ha.replies hs.quiet sd sc
  refine ⟨_, exec_serveArrive hs hk, ?_⟩
  rw [hv, hs.core, noteRead_tagLine ((htags.trans ha.tags).trans hs.tags), tagLine_frame]
  exact ⟨⟨hends.goes, hends.ends, hends.parks⟩, fun x => (congrArg (memByte · x) hmem).trans (ha.mem x)⟩

/-- What a request in its queue asks a slice that must wait for drains (R308): a mark, and nothing else. -/
theorem exec_askDrain {s : State} {r : Req} (hn : s.nextCore s.arg.a = some r) (hw : s.reqWaits r = true) :
    exec .homeSliceServe s = .next { s with
      reqs := updFirst (fun x => x.id == r.id) (fun x => { x with promoted := true }) s.reqs } := by
  rw [show exec .homeSliceServe s = execHomeSliceServe s from rfl]
  simp only [execHomeSliceServe, hn, hw, if_true, State.askDrain]

/-- The promoted request waits on, or is served and counted. -/
theorem exec_promoted {s : State} {r : Req} (ho : s.op? s.arg.a = none)
    (hr : (s.reqs.find? fun x => x.id == s.arg.a && x.promoted) = some r) :
    exec .promotedAcquireReply s = .next (if s.reqWaits r then s
      else (s.serveReq r).countPerf r.core ((s.team? r.tid).elim 0 Team.ctx) 10 1) := by
  rw [show exec .promotedAcquireReply s = execPromotedAcquireReply s from rfl]
  simp only [execPromotedAcquireReply, ho, hr]
  cases s.team? r.tid <;> rfl

/-- Settles O29: beside the team the word alone changes in memory; the wait ends where the word's phase moved, or parks. -/
theorem gridBarrierArrivalIsServed : Obligations.GridBarrierArrivalIsServed := by
  unfold Obligations.GridBarrierArrivalIsServed
  refine ⟨?_, fun s r => exec_askDrain, ?_⟩
  · intro s t r wait sd sc l w b hs hk hl hw hb hnew hr
    rw [hl] at hb hw hnew
    have hword : w = s.physDword r.pa := hw
    rw [hb, hl, hword]
    obtain ⟨s', hexec, hends, hmem⟩ := exec_arrive hs hk hnew hr
    refine ⟨s', hexec, fun x => ?_, fun h => ?_, hends.ends, hends.parks⟩
    · rw [hmem x, memByte_memWrite]; rfl
    · rw [hends.goes h, Team.gone_withArrival]; rfl
  · intro s r ho hr
    rw [exec_promoted ho hr]
    refine ⟨fun hw => by rw [if_pos hw], fun hw => ?_⟩
    have hc := countPerf_countsOnly (s.serveReq r) r.core ((s.team? r.tid).elim 0 Team.ctx) 10 1
    rw [if_neg (by simp [hw])]
    exact ⟨_, rfl, hc.frame, hc.perf⟩

end Sys2Proof.Machine
end

section
/-! PROOFS. What a plot's placement changes (R25, R106, R115, R278): its teams at their start, its crews, its launch, and the monitors of others that its writes end. -/

namespace Sys2Proof.Machine

open Sys2Proof.Claims

/-! ## Teams whose monitors may have ended (R208) -/

/-- Team w is team u, but for a monitor that a write has ended. -/
def Unarmed (u w : Team) : Prop := w = { u with monitor := w.monitor, run := w.run } ∧ (u.monitor = .none_ → w = u)

theorem Unarmed.refl (u : Team) : Unarmed u u := ⟨rfl, fun _ => rfl⟩

theorem Unarmed.trans {u v w : Team} (h : Unarmed u v) (h' : Unarmed v w) : Unarmed u w := by
  obtain ⟨hv, hvn⟩ := h
  obtain ⟨hw, hwn⟩ := h'
  refine ⟨by rw [hw, hv], fun hn => ?_⟩
  have hvu : v = u := hvn hn
  rw [hwn (hvu ▸ hn), hvu]

theorem unarmed_endArm (u : Team) (n : Nat) : Unarmed u (u.endArm n) := by
  refine ⟨?_, fun hn => u.endArm_of_none hn n⟩
  unfold Team.endArm
  split <;> rfl

/-- Teams in their order, monitors aside. -/
abbrev UnarmedTeams : List Team → List Team → Prop := List.Forall₂ Unarmed

theorem UnarmedTeams.refl (us : List Team) : UnarmedTeams us us := List.forall₂_same.mpr fun u _ => .refl u

theorem UnarmedTeams.trans {us vs ws : List Team} (h : UnarmedTeams us vs) (h' : UnarmedTeams vs ws) : UnarmedTeams us ws := by
  induction h generalizing ws with
  | nil => exact h'
  | cons hu _ ih =>
    cases h' with
    | cons hw hws => exact .cons (hu.trans hw) (ih hws)

theorem unarmedTeams_updFirst {p : Team → Bool} {f : Team → Team} (hf : ∀ u, Unarmed u (f u)) (us : List Team) :
    UnarmedTeams us (updFirst p f us) := by
  induction us with
  | nil => exact .nil
  | cons u us ih =>
    unfold updFirst
    split
    · exact .cons (hf u) (UnarmedTeams.refl us)
    · exact .cons (.refl u) ih

/-- Teams without monitors stand as they stood, in their places. -/
theorem UnarmedTeams.end_eq {us ts ws : List Team} (h : UnarmedTeams (us ++ ts) ws) (hm : ∀ t ∈ ts, t.monitor = .none_) :
    ∃ vs, ws = vs ++ ts ∧ UnarmedTeams us vs := by
  induction us generalizing ws with
  | nil =>
    refine ⟨[], ?_, .nil⟩
    rw [List.nil_append] at h ⊢
    induction h with
    | nil => rfl
    | cons ht _ ih =>
      rw [ht.2 (hm _ List.mem_cons_self), ih fun t h => hm t (List.mem_cons_of_mem _ h)]
  | cons u us ih =>
    cases h with
    | cons hu hus =>
      obtain ⟨vs, rfl, hvs⟩ := ih hus
      exact ⟨_ :: vs, rfl, .cons hu hvs⟩

/-! ## What a write of the hardware leaves (R208, R285, R292) -/

/-- State w is state s up to memory, caches and translations, and monitors that have ended. -/
structure WritesOnly (s w : State) : Prop where
  plots : w.plots = s.plots
  crews : w.crews = s.crews
  launches : w.launches = s.launches
  ctxs : w.ctxs = s.ctxs
  gang : w.gang = s.gang
  nextId : w.nextId = s.nextId
  teams : UnarmedTeams s.teams w.teams

theorem WritesOnly.refl (s : State) : WritesOnly s s := ⟨rfl, rfl, rfl, rfl, rfl, rfl, .refl _⟩

theorem WritesOnly.trans {s v w : State} (h : WritesOnly s v) (h' : WritesOnly v w) : WritesOnly s w :=
  ⟨h'.plots.trans h.plots, h'.crews.trans h.crews, h'.launches.trans h.launches, h'.ctxs.trans h.ctxs,
    h'.gang.trans h.gang, h'.nextId.trans h.nextId, h.teams.trans h'.teams⟩

theorem WritesOnly.fold {β : Type} {f : State → β → State} (hf : ∀ s b, WritesOnly s (f s b)) (l : List β) (s : State) :
    WritesOnly s (l.foldl f s) := by
  induction l generalizing s with
  | nil => exact .refl s
  | cons b l ih => exact (hf s b).trans (ih _)

theorem CoresOnly.writesOnly {s w : State} (h : CoresOnly s w) : WritesOnly s w := by
  unfold CoresOnly at h
  constructor <;> rw [h]
  exact .refl _

theorem writesOnly_endArm (s : State) (h : Handle) (n : Nat) : WritesOnly s (s.modTeam h fun u => u.endArm n) :=
  ⟨rfl, rfl, rfl, rfl, rfl, rfl, unarmedTeams_updFirst (fun u => unarmed_endArm u n) s.teams⟩

theorem writesOnly_fireLine (s : State) (line n : Nat) : WritesOnly s (s.fireLine line n) := by
  have hdrop : WritesOnly s { s with arms := s.arms.filter fun a => !(a.line == line) } :=
    ⟨rfl, rfl, rfl, rfl, rfl, rfl, .refl _⟩
  exact hdrop.trans (WritesOnly.fold (fun s (a : Arm) => writesOnly_endArm s a.tid n) _ _)

theorem writesOnly_touchAt (s : State) (pa : Nat) (w : Bool) : WritesOnly s (s.touchAt pa w) := by
  unfold State.touchAt
  split
  · dsimp only
    split <;> exact ⟨rfl, rfl, rfl, rfl, rfl, rfl, .refl _⟩
  · exact .refl s

theorem writesOnly_homeWriteBy (s : State) (writer : Nat) (nc : Bool) (pa : Nat) (bs : List Byte) :
    WritesOnly s (s.homeWriteBy writer nc pa bs) := by
  have hheal : WritesOnly s ({ s with mem := memWrite s.mem pa bs }.healSectors writer pa bs.length) :=
    ⟨rfl, rfl, rfl, rfl, rfl, rfl, .refl _⟩
  unfold State.homeWriteBy
  refine .trans ?_ (WritesOnly.fold (fun s l => writesOnly_fireLine s l 0) _ _)
  split
  · exact hheal
  · exact hheal.trans (WritesOnly.fold (fun s (p : Nat × Nat) => writesOnly_touchAt s p.1 true) _ _)

theorem writesOnly_vWrite {s w : State} {port ctx va : Nat} {bs : List Byte} (h : s.vWrite port ctx va bs = .inl w) :
    WritesOnly s w := by
  rcases vWrite_cases s port ctx va bs with ⟨f, -, hf⟩ | ⟨-, hw⟩
  · rw [hf] at h; cases h
  · rw [hw] at h
    cases h
    refine WritesOnly.fold (fun v p => ?_) _ _
    split
    · exact (coresOnly_fillTlb v ..).writesOnly.trans (writesOnly_homeWriteBy ..)
    · exact .refl v

/-! ## Teams at their start (R25, R32, R106, R115) -/

/-- A team of a plot as it starts: HALTED where the launch halts its teams (R362, R366). -/
def startedTeam (l : Launch) (c : Context) (p : Plot) (i : Nat) (tid : Handle) (now : Nat) : Team :=
  let t := newTeam l.header c l.lid p i tid now
  if l.haltMark then t.haltWith (plainRecord 7 0 tid) else t

/-- The halt mark alone stops a team at its start, which keeps everything else but its stop and its record. -/
theorem startedTeam_eq (l : Launch) (c : Context) (p : Plot) (i : Nat) (tid : Handle) (now : Nat) :
    startedTeam l c p i tid now = { newTeam l.header c l.lid p i tid now with
      stop := if l.haltMark then some .halted else none
      haltRec := if l.haltMark then plainRecord 7 0 tid else 0 } := by
  unfold startedTeam
  cases l.haltMark <;> rfl

theorem startedTeam_monitor (l : Launch) (c : Context) (p : Plot) (i : Nat) (tid : Handle) (now : Nat) :
    (startedTeam l c p i tid now).monitor = .none_ := by
  rw [startedTeam_eq]; rfl

/-- Team u is the one that starts in a slot, x, with its index in the plot: its handle names the slot on the plot's core,
under a generation. -/
def StartedIn (l : Launch) (c : Context) (p : Plot) (x : (Nat × Nat) × Nat) (u : Team) : Prop :=
  ∃ gen now, gen ≤ 65535 ∧ u = startedTeam l c p x.2 (mkHandle p.core x.1.1 x.1.2 gen) now

/-- State w is state s with some teams more. -/
structure Adds (ts : List Team) (s w : State) : Prop where
  plots : w.plots = s.plots
  crews : w.crews = s.crews
  launches : w.launches = s.launches
  ctxs : w.ctxs = s.ctxs
  gang : w.gang = s.gang
  teams : ∃ us, w.teams = us ++ ts ∧ UnarmedTeams s.teams us

theorem Adds.trans {ts ts' : List Team} {s v w : State} (h : Adds ts s v) (h' : Adds ts' v w)
    (hm : ∀ t ∈ ts, t.monitor = .none_) : Adds (ts ++ ts') s w := by
  obtain ⟨us, hus, hu⟩ := h.teams
  obtain ⟨ws, hws, hw⟩ := h'.teams
  obtain ⟨vs, rfl, hv⟩ := (hus ▸ hw).end_eq hm
  exact ⟨h'.plots.trans h.plots, h'.crews.trans h.crews, h'.launches.trans h.launches, h'.ctxs.trans h.ctxs,
    h'.gang.trans h.gang, vs, by rw [hws, List.append_assoc], hu.trans hv⟩

theorem Adds.writes {t : Team} {s v w : State} (h : Adds [t] s v) (hw : WritesOnly v w) (hm : t.monitor = .none_) :
    Adds [t] s w := by
  have hnone : Adds [] v w := ⟨hw.plots, hw.crews, hw.launches, hw.ctxs, hw.gang, _, (List.append_nil _).symm, hw.teams⟩
  exact h.trans hnone (by simpa using hm)

theorem startTeam_adds (s : State) (l : Launch) (c : Context) (p : Plot) (x : (Nat × Nat) × Nat) :
    ∃ u, Adds [u] s (s.startTeam l c p x) ∧ StartedIn l c p x u := by
  unfold State.startTeam State.armSlot
  dsimp only
  generalize hg : (if 65535 ≤ spRead 0 (s.core p.core).gens (32 * x.1.1 + x.1.2) then 1
    else spRead 0 (s.core p.core).gens (32 * x.1.1 + x.1.2) + 1) = gen
  have hgen : gen ≤ 65535 := by rw [← hg]; split <;> omega
  refine ⟨_, ?_, gen, (s.core p.core).cyc, hgen, rfl⟩
  have hadd : Adds [startedTeam l c p x.2 (mkHandle p.core x.1.1 x.1.2 gen) (s.core p.core).cyc] s
      { s.modCore p.core (fun k => { k with gens := spWrite 0 k.gens (32 * x.1.1 + x.1.2) gen }) with
        teams := s.teams ++ [startedTeam l c p x.2 (mkHandle p.core x.1.1 x.1.2 gen) (s.core p.core).cyc] } :=
    ⟨rfl, rfl, rfl, rfl, rfl, s.teams, rfl, .refl _⟩
  split
  · rename_i w hw
    exact hadd.writes (writesOnly_vWrite hw) (startedTeam_monitor ..)
  · exact hadd

theorem startTeams_adds (l : Launch) (c : Context) (p : Plot) (xs : List ((Nat × Nat) × Nat)) (s : State) :
    ∃ ts, Adds ts s (xs.foldl (fun s x => s.startTeam l c p x) s) ∧ List.Forall₂ (StartedIn l c p) xs ts := by
  induction xs generalizing s with
  | nil => exact ⟨[], ⟨rfl, rfl, rfl, rfl, rfl, _, (List.append_nil _).symm, .refl _⟩, .nil⟩
  | cons x xs ih =>
    obtain ⟨u, hu, hx⟩ := startTeam_adds s l c p x
    obtain ⟨ts, hts, hxs⟩ := ih (s.startTeam l c p x)
    obtain ⟨gen, now, -, hnew⟩ := id hx
    exact ⟨u :: ts, hu.trans hts (by simpa [hnew] using startedTeam_monitor ..), .cons hx hxs⟩

/-! ## What a team finds at its start (R25, R32, R106, R115) -/

theorem mkHandle_toNat {core part slot gen : Nat} (hc : core < 192) (hp : part < 6) (hs : slot < 32) (hg : gen ≤ 65535) :
    (mkHandle core part slot gen).toNat = core * 2 ^ 24 + part * 2 ^ 21 + slot * 2 ^ 16 + gen := by
  rw [mkHandle, BitVec.toNat_ofNat]
  omega

section
variable {core part slot gen : Nat} (hc : core < 192) (hp : part < 6) (hs : slot < 32) (hg : gen ≤ 65535)
include hc hp hs hg

theorem coreOf_mkHandle : coreOf (mkHandle core part slot gen) = core := by
  rw [coreOf, mkHandle_toNat hc hp hs hg]
  omega

theorem partOf_mkHandle : partOf (mkHandle core part slot gen) = part := by
  rw [partOf, mkHandle_toNat hc hp hs hg]
  omega

theorem slotOf_mkHandle : slotOf (mkHandle core part slot gen) = slot := by
  rw [slotOf, mkHandle_toNat hc hp hs hg]
  omega
end

theorem hdrD_lt (h : List Dword) (n : Nat) : hdrD h n < 2 ^ 64 := (h.getD n 0).isLt

theorem bits_lt (x hi lo : Nat) : bits x hi lo < 2 ^ (hi - lo + 1) := Nat.mod_lt _ (by positivity)

theorem dw_toNat {n : Nat} (h : n < 2 ^ 64) : (dw n).toNat = n := by
  rw [dw, BitVec.toNat_ofNat, Nat.mod_eq_of_lt h]

/-- A store with one value at each place of a list. -/
theorem spRead_const {α : Type} (d v : α) (l : List Nat) (n : Nat) :
    spRead d (l.map fun i => (i, v)) n = if n ∈ l then v else d := by
  induction l with
  | nil => rfl
  | cons i l ih =>
    simp only [List.map_cons, spRead, ih, List.mem_cons]
    by_cases hn : n = i <;> simp [hn]

/-- The scalar registers at team start (R106): all ones in the first sixteen. -/
theorem newTeam_getS (h : List Dword) (c : Context) (l : Nat) (p : Plot) (i : Nat) (tid : Handle) (now n : Nat) :
    (newTeam h c l p i tid now).getS n = if n < 16 then BitVec.allOnes 64 else 0 := by
  have hread := spRead_const (0 : Dword) 0xFFFFFFFFFFFFFFFF#64 (List.range 16) n
  simp only [List.mem_range] at hread
  exact hread

/-- A team's segments at its start, one by one (R115). -/
theorem newTeam_seg (h : List Dword) (c : Context) (l : Nat) (p : Plot) (i : Nat) (tid : Handle) (now n : Nat) :
    (newTeam h c l p i tid now).seg n =
      if n = 7 then { base := dw c.qBase.toNat, limit := dw c.qLimit.toNat }
      else if n = 6 then { base := dw (hdrD h 10), limit := dw (hLsize h) }
      else if n = 5 then { base := dw (hdrD h 12), limit := dw (hWsize h) }
      else if n = 4 then { base := dw (Config.stackBase c.id tid).toNat, limit := dw (hTsize h) }
      else if n = 3 then { base := dw (Config.estateBase c.id tid).toNat, limit := dw (32 * hEstate h) }
      else if n = 2 then { base := dw (hdrD h 8), limit := dw (hKsize h) }
      else if n = 1 then
        { base := dw (Config.granuleBytes * p.scratchSlot), limit := dw (Config.granuleBytes * p.scratchGranules) }
      else if n = 0 then { base := dw 0, limit := dw (2 ^ 56) } else {} := by
  simp only [Team.seg, newTeam, startSegs, List.foldl_cons, List.foldl_nil, spRead_spWrite]
  rfl

/-- Bases and limits of a team's segments at its start, as numbers (R115). -/
theorem newTeam_segments (h : List Dword) (c : Context) (l : Nat) {p : Plot} (i : Nat) (tid : Handle) (now : Nat)
    (hslot : p.scratchSlot < 4096) (hgran : p.scratchGranules = hScratch h) :
    let u := newTeam h c l p i tid now
    (u.seg 0 = { base := 0, limit := 2 ^ 56 }) ∧
    ((u.seg 1).base.toNat = 16384 * p.scratchSlot ∧ (u.seg 1).limit.toNat = 16384 * hScratch h) ∧
    ((u.seg 2).base.toNat = hdrD h 8 ∧ (u.seg 2).limit.toNat = hKsize h) ∧ (u.seg 3).limit.toNat = 32 * hEstate h ∧
    (u.seg 4).limit.toNat = hTsize h ∧ ((u.seg 5).base.toNat = hdrD h 12 ∧ (u.seg 5).limit.toNat = hWsize h) ∧
    ((u.seg 6).base.toNat = hdrD h 10 ∧ (u.seg 6).limit.toNat = hLsize h) ∧
    (u.seg 7).base = c.qBase ∧ (u.seg 7).limit = c.qLimit := by
  have hscratch : hScratch h < 256 := bits_lt ..
  have hestate : hEstate h < 512 := bits_lt ..
  have hk : hKsize h < 2 ^ 32 := bits_lt ..
  have ht : hTsize h < 2 ^ 32 := bits_lt ..
  have hw : hWsize h < 2 ^ 32 := bits_lt ..
  have hl : hLsize h < 2 ^ 32 := bits_lt ..
  have hd := hdrD_lt h
  have hgb : Config.granuleBytes = 16384 := rfl
  simp only [newTeam_seg, hgran, hgb]
  refine ⟨rfl, ⟨dw_toNat ?_, dw_toNat ?_⟩, ⟨dw_toNat (hd 8), dw_toNat ?_⟩, dw_toNat ?_, dw_toNat ?_, ⟨dw_toNat (hd 12), dw_toNat ?_⟩,
    ⟨dw_toNat (hd 10), dw_toNat ?_⟩, ?_, ?_⟩
  case refine_8 | refine_9 => exact BitVec.ofNat_toNat ..
  all_goals omega

/-- A team halted at its start tells cause 7 (R366). -/
theorem field_plainRecord (tid : Handle) : field (plainRecord 7 0 tid) 63 60 = 7 := by
  have := tid.isLt
  simp only [field, BitVec.extractLsb, BitVec.extractLsb'_toNat, plainRecord, dw, BitVec.toNat_ofNat, Nat.shiftRight_eq_div_pow]
  omega

/-- A team that starts in a slot of a core stands as R106 and R115 say. -/
theorem starts_of_startedIn {l : Launch} {c : Context} {p : Plot} {x : (Nat × Nat) × Nat} {u : Team}
    (hu : StartedIn l c p x u) (hc : p.core < 192) (hp : x.1.1 < 6) (hs : x.1.2 < 32) (hslot : p.scratchSlot < 4096)
    (hgran : p.scratchGranules = hScratch l.header) :
    Starts l.header c l p x.2 u ∧ x.1 = (partOf u.tid, slotOf u.tid) := by
  obtain ⟨gen, now, hg, rfl⟩ := hu
  rw [startedTeam_eq]
  constructor
  · constructor
    case place => exact ⟨rfl, rfl, rfl, rfl, coreOf_mkHandle hc hp hs hg⟩
    case waits => exact ⟨trivial, dw_toNat (hdrD_lt ..), rfl, rfl, rfl⟩
    case scalars => exact newTeam_getS l.header c l.lid p x.2 (mkHandle p.core x.1.1 x.1.2 gen) now
    case vectors => exact fun _ _ => rfl
    case clear =>
      have hnbv : hNbv l.header < 2 ^ 8 := bits_lt ..
      exact ⟨fun _ => ⟨rfl, rfl⟩, rfl, rfl, rfl, rfl, rfl, rfl, Nat.mod_eq_of_lt hnbv, dw_toNat (hdrD_lt ..)⟩
    case segments => exact newTeam_segments l.header c l.lid x.2 (mkHandle p.core x.1.1 x.1.2 gen) now hslot hgran
    case whole => intro hm; simp only [hm]; rfl
    case halts => intro hm; simp only [hm, if_true]; exact ⟨trivial, field_plainRecord _⟩
  · exact Prod.ext (partOf_mkHandle hc hp hs hg).symm (slotOf_mkHandle hc hp hs hg).symm

/-! ## Slots and places (R25, R278) -/

theorem nextSlot_lt {used : List (Nat × Nat)} {x : Nat × Nat} (h : nextSlot used = some x) : x.1 < 6 ∧ x.2 < 32 := by
  unfold nextSlot at h
  dsimp only at h
  split at h
  · cases h
  · rename_i p hp
    obtain ⟨k, hk, rfl⟩ := Option.map_eq_some_iff.mp h
    exact ⟨List.mem_range.mp (minBy_spec hp).1, List.mem_range.mp (List.mem_of_find?_eq_some hk)⟩

theorem takeSlots_spec {n : Nat} {used slots : List (Nat × Nat)} (h : takeSlots n used = some slots) :
    slots.length = n ∧ ∀ x ∈ slots, x.1 < 6 ∧ x.2 < 32 := by
  induction n generalizing used slots with
  | zero => cases h; exact ⟨rfl, nofun⟩
  | succ n ih =>
    simp only [takeSlots] at h
    split at h
    · cases h
    · rename_i x hx
      obtain ⟨r, hr, rfl⟩ := Option.map_eq_some_iff.mp h
      obtain ⟨hlen, hlt⟩ := ih hr
      exact ⟨congrArg (· + 1) hlen, List.forall_mem_cons.mpr ⟨nextSlot_lt hx, hlt⟩⟩

theorem scratchRun_lt (s : State) (cores : List Nat) (n : Nat) : s.scratchRun cores n < 4096 := by
  unfold State.scratchRun
  dsimp only
  generalize hf : (List.range 4096).find? _ = o
  cases o with
  | none => decide
  | some k => exact List.mem_range.mp (List.mem_of_find?_eq_some hf)

/-! ## The placement of a plot (R25, R26, R106, R278) -/

/-- A plot's crew k, made. -/
def State.addCrew (s : State) (h : List Dword) (p : Plot) (k : Nat) : State :=
  { s with
    nextId := s.nextId + 1
    crews := s.crews ++ [{ id := s.nextId, plot := p.id, first := k * hCrew h, size := hCrew h, tileCount := hAcc h }] }

theorem startCrews_eq (s : State) (h : List Dword) (p : Plot) :
    s.startCrews h p = (List.range (hCrews h)).foldl (fun s k => s.addCrew h p k) s := rfl

theorem addCrews_spec (h : List Dword) (p : Plot) (ks : List Nat) (s : State) :
    ∃ cs n, cs.length = ks.length ∧ ks.foldl (fun s k => s.addCrew h p k) s = { s with crews := s.crews ++ cs, nextId := n } := by
  induction ks generalizing s with
  | nil => exact ⟨[], s.nextId, rfl, by simp⟩
  | cons k ks ih =>
    obtain ⟨cs, n, hlen, hcs⟩ := ih (s.addCrew h p k)
    refine ⟨{ id := s.nextId, plot := p.id, first := k * hCrew h, size := hCrew h, tileCount := hAcc h } :: cs, n,
      congrArg (· + 1) hlen, ?_⟩
    rw [List.foldl_cons, hcs, State.addCrew, List.append_assoc]
    rfl

/-- The plot that is placed. -/
def nextPlot (s : State) (l : Launch) (core : Nat) : Plot :=
  { id := s.nextId, ctx := l.ctx, lid := l.lid, core, index := l.placed, coords := plotCoords l.header l.placed
    teams := hTeams l.header, scratchSlot := s.scratchRun (hCores l.header core) (hScratch l.header)
    scratchGranules := hScratch l.header, granules := hGranules l.header, abandoned := l.abandoned }

theorem nextPlot_slot_lt (s : State) (l : Launch) (core : Nat) : (nextPlot s l core).scratchSlot < 4096 := by
  simp only [nextPlot, scratchRun_lt]

/-- The launch with one plot more. -/
def Launch.withPlot (l : Launch) (n : Nat) : Launch := { l with placed := l.placed + 1, living := l.living + n }

/-- A placement's effect: a plot, its crews, its teams at their start, and its launch's counts. -/
structure Places (s w : State) (l : Launch) (c : Context) (core : Nat) (slots : List (Nat × Nat)) : Prop where
  plots : w.plots = s.plots ++ [nextPlot s l core]
  ctxs : w.ctxs = s.ctxs
  gang : w.gang = s.gang
  launches : w.launches = (s.modLaunch l.ctx l.lid fun m => m.withPlot (hTeams l.header)).launches
  crews : ∃ cs, w.crews = s.crews ++ cs ∧ cs.length = hCrews l.header
  teams : ∃ us ts, w.teams = us ++ ts ∧ UnarmedTeams s.teams us ∧
    List.Forall₂ (StartedIn l c (nextPlot s l core)) slots.zipIdx ts

/-- The plot with its crews, before its teams start. -/
def State.addPlot (s : State) (l : Launch) (core : Nat) : State :=
  State.startCrews { s with nextId := s.nextId + 1, plots := s.plots ++ [nextPlot s l core] } l.header (nextPlot s l core)

/-- A placement in its parts: the plot and its crews, the teams, the launch's counts. -/
theorem placePlot_eq {s : State} {l : Launch} {c : Context} (hc : s.ctx? l.ctx = some c) (core : Nat)
    (slots : List (Nat × Nat)) : s.placePlot l core slots =
      (slots.zipIdx.foldl (fun s' x => s'.startTeam l c (nextPlot s l core) x) (s.addPlot l core)).modLaunch l.ctx l.lid
        fun m => m.withPlot (hTeams l.header) := by
  unfold State.placePlot
  rw [hc]
  rfl

theorem placePlot_places {s : State} {l : Launch} {c : Context} (hc : s.ctx? l.ctx = some c) (core : Nat)
    (slots : List (Nat × Nat)) : Places s (s.placePlot l core slots) l c core slots := by
  obtain ⟨cs, n, hlen, hcrews⟩ := addCrews_spec l.header (nextPlot s l core) (List.range (hCrews l.header))
    { s with nextId := s.nextId + 1, plots := s.plots ++ [nextPlot s l core] }
  obtain ⟨ts, hadds, hts⟩ := startTeams_adds l c (nextPlot s l core) slots.zipIdx (s.addPlot l core)
  have hplot : s.addPlot l core = _ := (startCrews_eq ..).trans hcrews
  rw [placePlot_eq hc]
  generalize slots.zipIdx.foldl _ (s.addPlot l core) = w at hadds ⊢
  rw [hplot] at hadds
  obtain ⟨us, hus, hu⟩ := hadds.teams
  exact
    { plots := hadds.plots
      ctxs := hadds.ctxs
      gang := hadds.gang
      launches := congrArg (updFirst _ _) hadds.launches
      crews := ⟨cs, hadds.crews, hlen.trans List.length_range⟩
      teams := ⟨us, ts, hus, hu, hts⟩ }

end Sys2Proof.Machine
end

section
/-! PROOFS. The order of placement, and gangs (R320, R326 to R330); O38. -/

namespace Sys2Proof.Machine

open Sys2Proof.Claims

/-! ## The core that R328 chooses -/

theorem placeKey_core (s : State) (h : List Dword) {core : Nat} (hc : core < 192) : s.placeKey h core % 2 ^ 8 = core := by
  simp only [State.placeKey]
  omega

theorem bestCore_of_chosen {s : State} {h : List Dword} {ok : Nat → Bool} {core : Nat}
    (hch : chosen s h (fun d => ok d = true) core) :
    s.bestCore h ((List.range Config.cores).filter ok) = some core := by
  obtain ⟨hlt, hok, hle⟩ := hch
  have h192 : ∀ d, d < Config.cores ↔ d < 192 := fun _ => Iff.rfl
  refine minBy_eq (List.mem_filter.mpr ⟨List.mem_range.mpr hlt, hok⟩) fun d hd => ?_
  obtain ⟨hd, hdok⟩ := List.mem_filter.mp hd
  have hd := List.mem_range.mp hd
  rcases Nat.lt_or_eq_of_le (hle d hd hdok) with hlt' | heq
  · exact .inr hlt'
  · refine .inl ?_
    rw [← placeKey_core s h ((h192 d).mp hd), ← heq, placeKey_core s h ((h192 core).mp hlt)]

/-! ## The launch as it begins and is placed -/

theorem launch?_modLaunch (s : State) (ctx lid : Nat) {f : Launch → Launch} (hf : ∀ m, (f m).ctx = m.ctx ∧ (f m).lid = m.lid) :
    (s.modLaunch ctx lid f).launch? ctx lid = (s.launch? ctx lid).map f :=
  find?_updFirst (fun m : Launch => m.ctx == ctx && m.lid == lid) f (fun m hm => by rw [(hf m).1, (hf m).2]; exact hm) s.launches

theorem launch?_modLaunch_some {s : State} {ctx lid : Nat} {m : Launch} (hm : s.launch? ctx lid = some m) (f : Launch → Launch)
    (hf : ∀ m, (f m).ctx = m.ctx ∧ (f m).lid = m.lid) : (s.modLaunch ctx lid f).launch? ctx lid = some (f m) :=
  (launch?_modLaunch s ctx lid hf).trans (congrArg (Option.map f) hm)

theorem launch?_modLaunch_ne (s : State) {ctx lid c i : Nat} {f : Launch → Launch}
    (hf : ∀ m, (f m).ctx = m.ctx ∧ (f m).lid = m.lid) (hne : ¬ (c = ctx ∧ i = lid)) :
    (s.modLaunch ctx lid f).launch? c i = s.launch? c i := by
  refine find?_updFirst_ne (fun m : Launch => m.ctx == ctx && m.lid == lid) (fun m => m.ctx == c && m.lid == i) f
    (fun m hm => ?_) s.launches
  simp only [Bool.and_eq_true, beq_iff_eq] at hm
  simp only [(hf m).1, (hf m).2, hm.1, hm.2, Bool.and_eq_false_imp, beq_iff_eq, beq_eq_false_iff_ne]
  exact ⟨fun h h' => hne ⟨h.symm, h'.symm⟩, fun h h' => hne ⟨h.symm, h'.symm⟩⟩

/-- A change of a launch that leaves a part of it is not seen in that part. -/
theorem launch?_modLaunch_map {β : Type} (s : State) (ctx lid : Nat) {f : Launch → Launch} (g : Launch → β)
    (hf : ∀ m, (f m).ctx = m.ctx ∧ (f m).lid = m.lid) (hg : ∀ m, s.launch? ctx lid = some m → g (f m) = g m) (c i : Nat) :
    ((s.modLaunch ctx lid f).launch? c i).map g = (s.launch? c i).map g := by
  by_cases hk : c = ctx ∧ i = lid
  · obtain ⟨rfl, rfl⟩ := hk
    rw [launch?_modLaunch s c i hf]
    cases hm : s.launch? c i with
    | none => rfl
    | some m => exact congrArg some (hg m hm)
  · rw [launch?_modLaunch_ne s hf hk]

theorem headerOf_eq (s : State) (ctx lid : Nat) : s.headerOf ctx lid = ((s.launch? ctx lid).map Launch.header).getD [] := by
  unfold State.headerOf
  cases s.launch? ctx lid <;> rfl

/-- Places in the scratchpads depend on plots and on headers alone. -/
theorem scratchRun_congr {s v : State} (hp : v.plots = s.plots) (hh : ∀ c i, v.headerOf c i = s.headerOf c i)
    (cores : List Nat) (n : Nat) : v.scratchRun cores n = s.scratchRun cores n := by
  simp only [State.scratchRun, State.plotCores, hp, hh]

/-- The launch in a phase of its placement, out of its queue. -/
def Launch.begun (phase : LaunchPhase) (m : Launch) : Launch := { m with phase, front := false }

/-- The launch RUNNING where its plots are all placed. -/
def Launch.allPlaced (m : Launch) : Launch := if hPlots m.header ≤ m.placed then { m with phase := .running } else m

theorem Launch.allPlaced_key (m : Launch) : m.allPlaced.ctx = m.ctx ∧ m.allPlaced.lid = m.lid := by
  unfold Launch.allPlaced
  split <;> exact ⟨rfl, rfl⟩

theorem placedAll_eq (s : State) (ctx lid : Nat) : s.placedAll ctx lid = s.modLaunch ctx lid Launch.allPlaced := rfl

/-- What the start of a launch's placement leaves: the rotations may move on, and the launch is placed. -/
structure Begun (s v : State) (l : Launch) (c : Context) (phase : LaunchPhase) : Prop where
  plots : v.plots = s.plots
  teams : v.teams = s.teams
  crews : v.crews = s.crews
  nextId : v.nextId = s.nextId
  launches : v.launches = (s.modLaunch l.ctx l.lid (Launch.begun phase)).launches
  ctx : ∃ q, v.ctx? l.ctx = some { c with lastQueue := q }

theorem beginLaunch_begun {s : State} {l : Launch} {c : Context} (hc : s.ctx? l.ctx = some c) (phase : LaunchPhase) :
    Begun s (s.beginLaunch l phase) l c phase := by
  have hstays : Begun s (s.modLaunch l.ctx l.lid fun m => { m with phase, front := false }) l c phase :=
    ⟨rfl, rfl, rfl, rfl, rfl, c.lastQueue, hc⟩
  have hturns : Begun s (({ s with lastCtx := l.ctx }.modCtx l.ctx fun c => { c with lastQueue := l.queue }).modLaunch
      l.ctx l.lid fun m => { m with phase, front := false }) l c phase := by
    refine ⟨rfl, rfl, rfl, rfl, rfl, l.queue, ?_⟩
    have hget := find?_updFirst (fun x : Context => x.id == l.ctx) (fun c => { c with lastQueue := l.queue }) (fun _ h => h) s.ctxs
    exact hget.trans (congrArg (Option.map _) hc)
  unfold State.beginLaunch
  split
  · split
    · exact hstays
    · exact hturns
  · exact hstays

theorem Begun.nextPlot {s v : State} {l : Launch} {c : Context} {phase : LaunchPhase} (h : Begun s v l c phase) (core : Nat) :
    nextPlot v l core = nextPlot s l core := by
  have hh : ∀ x i, v.headerOf x i = s.headerOf x i := fun x i => by
    rw [headerOf_eq, headerOf_eq, ← launch?_modLaunch_map s l.ctx l.lid (f := Launch.begun phase)
      Launch.header (fun _ => ⟨rfl, rfl⟩) (fun _ _ => rfl) x i]
    simp only [State.launch?, h.launches]
  simp only [Machine.nextPlot, h.nextId, scratchRun_congr h.plots hh]

theorem forall₂_getElem? {α β : Type} {R : α → β → Prop} {xs : List α} {us : List β} (h : List.Forall₂ R xs us) {i : Nat}
    {u : β} (hu : us[i]? = some u) : ∃ x, xs[i]? = some x ∧ R x u := by
  induction h generalizing i with
  | nil => cases hu
  | cons hab _ ih =>
    cases i with
    | zero => cases hu; exact ⟨_, rfl, hab⟩
    | succ i => exact ih hu

/-! ## The next plot of a launch (R326 to R328) -/

section
variable {s : State} {l : Launch} {c : Context} {core : Nat} {slots : List (Nat × Nat)} (hl : isLaunch s l)
include hl

/-- A launch whose turn it is has its next plot placed on the chosen core. -/
theorem exec_plotPlacement (ha : s.arg.a = l.ctx) (hb : s.arg.b = l.lid) (hphase : l.phase = .queued ∨ l.phase = .placing)
    (hgang : hGang l.header = true → l.phase = .placing) (hkilled : l.killed = false) (hturn : s.hasTurn l = true)
    (hfree : ∀ m ∈ s.aborters, ¬ (m.ctx = l.ctx ∧ m.lid = l.lid))
    (hch : chosen s l.header (fun d => s.fits l.ctx l.header d = true ∧ s.leaves l d = true) core)
    (hslots : takeSlots (hTeams l.header) (s.usedOn (hCores l.header core)) = some slots) :
    exec .plotPlacement s = .next (((s.beginLaunch l .placing).placePlot l core slots).placedAll l.ctx l.lid) := by
  have hab : (s.aborters.any fun m => m.ctx == l.ctx && m.lid == l.lid) = false := by
    simpa only [List.any_eq_false, Bool.and_eq_true, beq_iff_eq] using hfree
  have hbest : s.bestCore l.header ((List.range Config.cores).filter fun d => s.fits l.ctx l.header d && s.leaves l d) = some core :=
    bestCore_of_chosen (by simpa only [Bool.and_eq_true] using hch)
  have hlaunch : s.launch? s.arg.a s.arg.b = some l := by rw [ha, hb]; exact hl
  rw [show exec .plotPlacement s = execPlotPlacement s from rfl]
  rcases hphase with hq | hp
  · have hno : hGang l.header = false := by
      cases hg : hGang l.header with
      | false => rfl
      | true => rw [hgang hg] at hq; cases hq
    simp only [execPlotPlacement, hlaunch, hq, hno, hkilled, hturn, hab, hbest, hslots, Bool.not_true, Bool.false_and, Bool.or_false,
      Bool.false_eq_true, if_false]
  · simp only [execPlotPlacement, hlaunch, hp, hkilled, hturn, hab, hbest, hslots, Bool.not_true, Bool.and_false, Bool.or_false,
      Bool.false_eq_true, if_false]

/-- The launch after its next plot: one more plot and its teams, running once its plots are all placed. -/
theorem launch?_placedAll {w : State} {n : Nat}
    (hw : w.launches = ((s.modLaunch l.ctx l.lid (Launch.begun .placing)).modLaunch l.ctx l.lid fun m => m.withPlot n).launches) :
    ∃ m, (w.placedAll l.ctx l.lid).launch? l.ctx l.lid = some m ∧ m.placed = l.placed + 1 ∧ m.living = l.living + n ∧
      m.header = l.header ∧ m.phase = if hPlots l.header ≤ l.placed + 1 then .running else .placing := by
  have hbegun : (s.modLaunch l.ctx l.lid (Launch.begun .placing)).launch? l.ctx l.lid = some (l.begun .placing) :=
    launch?_modLaunch_some hl (Launch.begun .placing) fun _ => ⟨rfl, rfl⟩
  have hw' : w.launch? l.ctx l.lid = some ((l.begun .placing).withPlot n) := by
    rw [State.launch?, hw]
    exact launch?_modLaunch_some hbegun (Launch.withPlot · n) fun _ => ⟨rfl, rfl⟩
  refine ⟨((l.begun .placing).withPlot n).allPlaced, ?_, ?_⟩
  · rw [placedAll_eq]
    exact launch?_modLaunch_some hw' _ Launch.allPlaced_key
  · unfold Launch.allPlaced
    split
    · rename_i h; exact ⟨rfl, rfl, rfl, (if_pos h).symm⟩
    · rename_i h; exact ⟨rfl, rfl, rfl, (if_neg h).symm⟩

omit hl in
/-- Teams that started in a plot's slots, each at its index. -/
theorem starts_at {p : Plot} {ts : List Team} (hts : List.Forall₂ (StartedIn l c p) slots.zipIdx ts) (hcore : p.core < 192)
    (hlt : ∀ x ∈ slots, x.1 < 6 ∧ x.2 < 32) (hslot : p.scratchSlot < 4096) (hgran : p.scratchGranules = hScratch l.header)
    {i : Nat} {u : Team} (hu : ts[i]? = some u) :
    Starts l.header c l p i u ∧ slots[i]? = some (partOf u.tid, slotOf u.tid) := by
  obtain ⟨x, hx, hstart⟩ := forall₂_getElem? hts hu
  rw [List.getElem?_zipIdx, Option.map_eq_some_iff] at hx
  obtain ⟨y, hy, rfl⟩ := hx
  obtain ⟨hpart, hslotlt⟩ := hlt y (List.mem_of_getElem? hy)
  obtain ⟨hs, hy'⟩ := starts_of_startedIn hstart hcore hpart hslotlt hslot hgran
  exact ⟨by simpa using hs, hy.trans (congrArg some hy')⟩

/-- PLOT_PLACEMENT: what the placed plot, its teams, its crews and its launch are. -/
theorem plotPlacement_places (hc : s.ctx? l.ctx = some c) (hcore : core < 192)
    (hslots : takeSlots (hTeams l.header) (s.usedOn (hCores l.header core)) = some slots) :
    ∃ us ts cs m, let s' := ((s.beginLaunch l .placing).placePlot l core slots).placedAll l.ctx l.lid
      s'.plots = s.plots ++ [nextPlot s l core] ∧ s'.teams = us ++ ts ∧ UnarmedTeams s.teams us ∧ s'.crews = s.crews ++ cs ∧
      cs.length = hCrews l.header ∧ slots.length = hTeams l.header ∧ ts.length = hTeams l.header ∧
      (∀ i u, ts[i]? = some u → Starts l.header c l (nextPlot s l core) i u ∧ slots[i]? = some (partOf u.tid, slotOf u.tid)) ∧
      s'.launch? l.ctx l.lid = some m ∧ m.placed = l.placed + 1 ∧ m.living = l.living + hTeams l.header ∧
      m.header = l.header ∧ m.phase = if hPlots l.header ≤ l.placed + 1 then .running else .placing := by
  have hbegun := beginLaunch_begun hc .placing
  obtain ⟨q, hq⟩ := hbegun.ctx
  have hplaces := placePlot_places hq core slots
  have hplot := hbegun.nextPlot core
  generalize s.beginLaunch l .placing = v at hbegun hq hplaces hplot
  generalize v.placePlot l core slots = w at hplaces
  obtain ⟨cs, hcs, hcslen⟩ := hplaces.crews
  obtain ⟨us, ts, hts, hus, hstarts⟩ := hplaces.teams
  rw [hplot] at hstarts
  obtain ⟨hlen, hlt⟩ := takeSlots_spec hslots
  obtain ⟨m, hm⟩ := launch?_placedAll hl (w := w) (n := hTeams l.header) (by
    rw [hplaces.launches, State.modLaunch, hbegun.launches]; rfl)
  refine ⟨us, ts, cs, m, ?_, hts, hbegun.teams ▸ hus, ?_, hcslen, hlen, ?_, fun i u hu => ?_, hm⟩
  · rw [← hplot, ← hbegun.plots]; exact hplaces.plots
  · rw [← hbegun.crews]; exact hcs
  · rw [← hstarts.length_eq, List.length_zipIdx, hlen]
  · exact starts_at (show List.Forall₂ (StartedIn l c (nextPlot s l core)) slots.zipIdx ts from hstarts) hcore hlt
      (nextPlot_slot_lt s l core) rfl hu
end

/-! ## What a launch's place in its queue does not bear on (R326, R328) -/

/-- What the places of a launch depend on. -/
def Launch.asks (m : Launch) : List Dword × LaunchPhase := (m.header, m.phase)

/-- State v is state s but for its launches, which ask for what they asked. -/
structure AsksSame (s v : State) : Prop where
  frame : v = { s with launches := v.launches }
  asks : ∀ c i, (v.launch? c i).map Launch.asks = (s.launch? c i).map Launch.asks

section
variable {s v : State} (h : AsksSame s v)
include h

theorem AsksSame.cases (c i : Nat) : (s.launch? c i = none ∧ v.launch? c i = none) ∨
    ∃ m n, s.launch? c i = some m ∧ v.launch? c i = some n ∧ n.header = m.header ∧ n.phase = m.phase := by
  have ha := h.asks c i
  cases hm : s.launch? c i with
  | none => rw [hm] at ha; exact .inl ⟨rfl, Option.map_eq_none_iff.mp ha⟩
  | some m =>
    rw [hm] at ha
    obtain ⟨n, hn, he⟩ := Option.map_eq_some_iff.mp ha
    obtain ⟨h1, h2⟩ := Prod.mk.inj he
    exact .inr ⟨m, n, rfl, hn, h1, h2⟩

theorem AsksSame.headerOf (c i : Nat) : v.headerOf c i = s.headerOf c i := by
  unfold State.headerOf
  rcases h.cases c i with ⟨hs, hv⟩ | ⟨m, n, hs, hv, hh, -⟩
  · rw [hs, hv]
  · rw [hs, hv]; exact hh

theorem AsksSame.header (t : Team) : v.header t = s.header t := by
  unfold State.header
  rcases h.cases t.ctx t.lid with ⟨hs, hv⟩ | ⟨m, n, hs, hv, hh, -⟩
  · rw [hs, hv]
  · rw [hs, hv]; exact hh

theorem AsksSame.gang : v.gang = s.gang := by rw [h.frame]
theorem AsksSame.plots : v.plots = s.plots := by rw [h.frame]
theorem AsksSame.teams : v.teams = s.teams := by rw [h.frame]
theorem AsksSame.ctxs : v.ctxs = s.ctxs := by rw [h.frame]
theorem AsksSame.core (k : Nat) : v.core k = s.core k := by rw [h.frame]; rfl

theorem AsksSame.reserved : v.reserved = s.reserved := by
  unfold State.reserved
  rw [h.gang]
  cases s.gang with
  | none => rfl
  | some g =>
    dsimp only
    rcases h.cases g.1 g.2 with ⟨hs, hv⟩ | ⟨m, n, hs, hv, hh, hp⟩
    · rw [hs, hv]
    · rw [hs, hv]; simp only [hh, hp]

theorem AsksSame.usedGranules (core : Nat) : v.usedGranules core = s.usedGranules core := by
  simp only [State.usedGranules, State.plotCores, h.plots, h.headerOf, h.reserved]

theorem AsksSame.usedSlots (core : Nat) : v.usedSlots core = s.usedSlots core := by
  simp only [State.usedSlots, State.slotOn, h.teams, h.header, h.reserved, h.ctxs]

theorem AsksSame.usedOn (cores : List Nat) : v.usedOn cores = s.usedOn cores := by
  have : v.usedSlots = s.usedSlots := funext h.usedSlots
  rw [State.usedOn, this, State.usedOn]

theorem AsksSame.couldHold (ctx : Nat) (hd : List Dword) (core : Nat) : v.couldHold ctx hd core = s.couldHold ctx hd core := by
  rw [h.frame]; rfl

theorem AsksSame.fits (ctx : Nat) (hd : List Dword) (core : Nat) : v.fits ctx hd core = s.fits ctx hd core := by
  simp only [State.fits, State.fitsWith, h.couldHold, h.usedOn, h.usedGranules]

theorem AsksSame.placeKey (hd : List Dword) (core : Nat) : v.placeKey hd core = s.placeKey hd core := by
  simp only [State.placeKey, h.core, h.usedGranules]

theorem AsksSame.wants (m : Launch) (core : Nat) : v.wants m core = s.wants m core := by
  simp only [State.wants, State.plotCores, h.plots, h.headerOf, h.usedGranules, h.fits]
end

/-! ## A reservation that goes on (R320, R329) -/

theorem any_updFirst {α : Type} {p q : α → Bool} {f : α → α} {l : List α} {a : α} (h : l.find? p = some a)
    (hq : q (f a) = q a) : (updFirst p f l).any q = l.any q := by
  induction l with
  | nil => rfl
  | cons b r ih =>
    by_cases hb : p b = true
    · rw [List.find?_cons_of_pos hb] at h
      obtain rfl := Option.some.inj h
      simp [updFirst, hb, hq]
    · rw [List.find?_cons_of_neg hb] at h
      simp [updFirst, hb, ih h]

theorem filter_updFirst {α : Type} {p q : α → Bool} {f : α → α} {l : List α} {a : α} (h : l.find? p = some a)
    (hq : q a = false) (hf : q (f a) = false) : (updFirst p f l).filter q = l.filter q := by
  induction l with
  | nil => rfl
  | cons b r ih =>
    by_cases hb : p b = true
    · rw [List.find?_cons_of_pos hb] at h
      obtain rfl := Option.some.inj h
      simp [updFirst, hb, hq, hf]
    · rw [List.find?_cons_of_neg hb] at h
      simp only [updFirst, hb, Bool.false_eq_true, if_false, List.filter_cons, ih h]

/-- The state in which a reservation goes on: the launch is out of its queue, which it left when the reservation began. -/
def State.goesOn (s : State) (l : Launch) (ps : List (Nat × List (Nat × Nat))) : State :=
  s.modLaunch l.ctx l.lid (Launch.begun (.reserving ps))

section
variable {s : State} {l : Launch} {ps : List (Nat × List (Nat × Nat))} (hl : isLaunch s l) (hphase : l.phase = .reserving ps)
include hl hphase

theorem asksSame_goesOn : AsksSame s (s.goesOn l ps) where
  frame := rfl
  asks := launch?_modLaunch_map s l.ctx l.lid Launch.asks (fun _ => ⟨rfl, rfl⟩) fun m hm => by
    obtain rfl : l = m := Option.some.inj ((show s.launch? l.ctx l.lid = some l from hl).symm.trans hm)
    simp only [Launch.asks, Launch.begun, hphase]

theorem launch?_goesOn : (s.goesOn l ps).launch? l.ctx l.lid = some { l with front := false } := by
  have hb : l.begun (.reserving ps) = { l with front := false } := by rw [Launch.begun, ← hphase]
  rw [← hb]
  exact launch?_modLaunch_some hl _ fun _ => ⟨rfl, rfl⟩

theorem isHead_goesOn (m : Launch) : (s.goesOn l ps).isHead m = s.isHead m := by
  unfold State.isHead
  split
  · refine congrArg (m.front || !·) (any_updFirst (show s.launches.find? _ = some l from hl) ?_)
    simp [Launch.begun, hphase]
  · rfl
  · rfl
  · rfl
  · rfl

theorem before_goesOn : (s.goesOn l ps).before l = s.before l := by
  have hheads : (s.goesOn l ps).isHead = s.isHead := funext (isHead_goesOn hl hphase)
  simp only [State.before, State.heads, hheads, List.filter_filter]
  refine filter_updFirst (show s.launches.find? _ = some l from hl) ?_ ?_ <;> simp [Launch.begun]

theorem gangLeaves_goesOn (core : Nat) : (s.goesOn l ps).gangLeaves l core = s.gangLeaves l core := by
  have hsame := asksSame_goesOn hl hphase
  simp only [State.gangLeaves, before_goesOn hl hphase, hsame.wants]
  rfl
/-- GANG_RESERVE takes one place more, or with the last of them places the gang whole. -/
theorem exec_gangReserve {core : Nat} {slots : List (Nat × Nat)} (ha : s.arg.a = l.ctx) (hb : s.arg.b = l.lid)
    (hgang : s.gang = some (l.ctx, l.lid)) (hkilled : l.killed = false) (hfree : s.aborters = [])
    (hch : chosen s l.header (fun d => s.fits l.ctx l.header d = true ∧ s.gangLeaves l d = true) core)
    (hslots : takeSlots (hTeams l.header) (s.usedOn (hCores l.header core)) = some slots) :
    exec .gangReserve s = .next (if hPlots l.header ≤ (ps ++ [(core, slots)]).length
      then (s.goesOn l ps).commitGang l (ps ++ [(core, slots)])
      else (s.goesOn l ps).modLaunch l.ctx l.lid fun m => { m with phase := .reserving (ps ++ [(core, slots)]) }) := by
  have hsame := asksSame_goesOn hl hphase
  have hlaunch : s.launch? s.arg.a s.arg.b = some l := by rw [ha, hb]; exact hl
  have hstate : { s.beginLaunch l (.reserving ps) with gang := some (l.ctx, l.lid), gangHeads := s.gangHeads } = s.goesOn l ps := by
    rw [← hgang, State.beginLaunch, hphase]; rfl
  have hbest : (s.goesOn l ps).bestCore l.header ((List.range Config.cores).filter fun d =>
      (s.goesOn l ps).fits l.ctx l.header d && (s.goesOn l ps).gangLeaves l d) = some core := by
    simp only [State.bestCore, funext (hsame.placeKey l.header), hsame.fits, gangLeaves_goesOn hl hphase]
    exact bestCore_of_chosen (by simpa only [Bool.and_eq_true] using hch)
  have hslots' : takeSlots (hTeams l.header) ((s.goesOn l ps).usedOn (hCores l.header core)) = some slots := by
    rw [hsame.usedOn, hslots]
  rw [show exec .gangReserve s = execGangReserve s from rfl]
  simp only [execGangReserve, hlaunch, hphase, hgang, hfree, hkilled, hstate, hbest, hslots', beq_self_eq_true, List.isEmpty_nil,
    Bool.and_self, if_true, Bool.false_eq_true, if_false]
end

theorem key_of_launch? {s : State} {c i : Nat} {m : Launch} (h : s.launch? c i = some m) : m.ctx = c ∧ m.lid = i := by
  simpa using List.find?_some h

/-- State w is state v with some plots of a launch placed, on these cores. -/
structure Committing (v w : State) (l : Launch) (c : Context) (phase : LaunchPhase) (cores : List Nat) : Prop where
  gang : w.gang = v.gang
  ctx : w.ctx? l.ctx = some c
  plots : ∃ qs, w.plots = v.plots ++ qs ∧ qs.map Plot.core = cores
  launch : ∃ m, w.launch? l.ctx l.lid = some m ∧ m.phase = phase ∧ m.placed = l.placed + cores.length

theorem Committing.placed {v w : State} {l m : Launch} {c : Context} {phase : LaunchPhase} {cores : List Nat}
    (h : Committing v w l c phase cores) (hm : w.launch? l.ctx l.lid = some m) (core : Nat) (slots : List (Nat × Nat)) :
    Committing v (w.placePlot m core slots) l c phase (cores ++ [core]) := by
  obtain ⟨qs, hqs, hcores⟩ := h.plots
  obtain ⟨m', hm', hphase, hplaced⟩ := h.launch
  obtain rfl : m' = m := Option.some.inj (hm'.symm.trans hm)
  obtain ⟨hctx, hlid⟩ := key_of_launch? hm
  have hp := placePlot_places (s := w) (l := m') (hctx ▸ h.ctx) core slots
  refine ⟨hp.gang.trans h.gang, ?_, ⟨qs ++ [nextPlot w m' core], ?_, ?_⟩, m'.withPlot (hTeams m'.header), ?_, hphase, ?_⟩
  · rw [State.ctx?, hp.ctxs]; exact h.ctx
  · rw [hp.plots, hqs, List.append_assoc]
  · rw [List.map_append, hcores]; rfl
  · rw [State.launch?, hp.launches, hctx, hlid]
    exact launch?_modLaunch_some hm (Launch.withPlot · _) fun _ => ⟨rfl, rfl⟩
  · simp only [Launch.withPlot, hplaced, List.length_append, List.length_singleton, Nat.add_assoc]

/-- A gang's plot placed on its place. -/
def State.placeOne (s : State) (l : Launch) (p : Nat × List (Nat × Nat)) : State :=
  match s.launch? l.ctx l.lid with
  | some m => s.placePlot m p.1 p.2
  | none => s

theorem placeOne_eq {s : State} {l m : Launch} (h : s.launch? l.ctx l.lid = some m) (p : Nat × List (Nat × Nat)) :
    s.placeOne l p = s.placePlot m p.1 p.2 := by
  simp only [State.placeOne, h]

theorem commitGang_eq (s : State) (l : Launch) (ps : List (Nat × List (Nat × Nat))) :
    s.commitGang l ps = ps.foldl (fun s p => s.placeOne l p)
      ({ s with gang := none }.modLaunch l.ctx l.lid fun m => { m with phase := .running }) := rfl

theorem Committing.all {v w : State} {l : Launch} {c : Context} {phase : LaunchPhase} {cores : List Nat}
    (h : Committing v w l c phase cores) (ps : List (Nat × List (Nat × Nat))) :
    Committing v (ps.foldl (fun s p => s.placeOne l p) w) l c phase (cores ++ ps.map Prod.fst) := by
  induction ps generalizing w cores with
  | nil => simpa using h
  | cons p ps ih =>
    obtain ⟨m, hm, -⟩ := h.launch
    have hnext := ih (h.placed hm p.1 p.2)
    rw [List.append_assoc, ← placeOne_eq hm p] at hnext
    exact hnext

/-- A gang committed: its reservation is over, its plots stand on its places, and it runs. -/
theorem commitGang_commits {v : State} {l n : Launch} {c : Context} (hc : v.ctx? l.ctx = some c)
    (hn : v.launch? l.ctx l.lid = some n) (hplaced : n.placed = l.placed) (ps : List (Nat × List (Nat × Nat))) :
    Committing { v with gang := none } (v.commitGang l ps) l c .running (ps.map Prod.fst) := by
  have hstart : Committing { v with gang := none }
      ({ v with gang := none }.modLaunch l.ctx l.lid fun m => { m with phase := .running }) l c .running [] := by
    refine ⟨rfl, hc, ⟨[], (List.append_nil _).symm, rfl⟩, { n with phase := .running }, ?_, rfl, hplaced⟩
    exact launch?_modLaunch_some (s := { v with gang := none }) hn (fun m => { m with phase := .running }) fun _ => ⟨rfl, rfl⟩
  rw [commitGang_eq]
  exact hstart.all ps

/-! ## A reservation that is given back (R330) -/

theorem mem_aborters {s : State} {l : Launch} (hl : isLaunch s l) (hgang : s.gang = some (l.ctx, l.lid)) (m : Launch) :
    m ∈ s.aborters ↔ l.aborts < 4 ∧ m ∈ s.heads ∧ hPrio l.header < hPrio m.header ∧ (m.ctx, m.lid) ∉ s.gangHeads := by
  have hlaunch : s.launch? l.ctx l.lid = some l := hl
  simp only [State.aborters, hgang, hlaunch]
  split
  · rename_i hlt
    simp only [List.mem_filter, State.higher, State.waitedBefore, hlt, true_and, decide_eq_true_eq, Bool.not_eq_true',
      List.contains_eq_mem, decide_eq_false_iff_not, and_assoc]
  · rename_i hlt
    simp [hlt]

theorem modLaunch_congr {s : State} {c i : Nat} {l : Launch} {f g : Launch → Launch} (hl : s.launch? c i = some l)
    (hfg : f l = g l) : s.modLaunch c i f = s.modLaunch c i g := by
  rw [State.modLaunch, updFirst_congr hl hfg, State.modLaunch]

theorem exec_gangAbort {s : State} {l : Launch} (hl : isLaunch s l) (hgang : s.gang = some (l.ctx, l.lid)) :
    exec .gangAbort s = .next (if s.aborters = [] then s else { s with gang := none }.modLaunch l.ctx l.lid fun x =>
      { x with phase := .queued, front := true, aborts := l.aborts + 1 }) := by
  have hsame : s.releaseGang l.ctx l.lid 1 = { s with gang := none }.modLaunch l.ctx l.lid fun x =>
      { x with phase := .queued, front := true, aborts := l.aborts + 1 } :=
    modLaunch_congr (s := { s with gang := none }) hl rfl
  rw [show exec .gangAbort s = execGangAbort s from rfl]
  simp only [execGangAbort, hgang, List.isEmpty_iff, hsame]

/-- Settles O38: a placement's effects are a plot's, its crews', its teams' and its launch's; a gang's are its plots', one by one. -/
theorem plotsArePlacedAndGangsReserved : Obligations.PlotsArePlacedAndGangsReserved := by
  unfold Obligations.PlotsArePlacedAndGangsReserved
  refine ⟨?_, ?_, ?_⟩
  · intro s l c core slots hl ha hb hc _ hphase hgang hkilled hturn hfree hch hslots
    obtain ⟨us, ts, cs, m, hplots, hteams, hus, hcrews, hcs, hlen, hts, hstarts, hm⟩ :=
      plotPlacement_places hl hc hch.1 hslots
    refine ⟨_, nextPlot s l core, us, ts, cs, m, exec_plotPlacement hl ha hb hphase hgang hkilled hturn hfree hch hslots, hplots,
      hteams, hus.length_eq.symm, fun i u w hu hw => ?_, hcrews, hcs, rfl, hts, hlen, hstarts, hm⟩
    obtain ⟨v, hv, hsame⟩ := forall₂_getElem? hus hw
    obtain rfl : u = v := Option.some.inj (hu.symm.trans hv)
    exact hsame
  · intro s l c core slots ps hl ha hb hc hphase hgang hkilled hfree hch hslots
    have hexec := exec_gangReserve hl hphase ha hb hgang hkilled hfree hch hslots
    have hlaunch := launch?_goesOn hl hphase
    refine ⟨fun hmore => ?_, fun hlast => ?_⟩
    · rw [if_neg (by simpa using hmore)] at hexec
      exact ⟨_, hexec, rfl, rfl, rfl, launch?_modLaunch_some hlaunch (fun m => { m with phase := .reserving (ps ++ [(core, slots)]) })
        fun _ => ⟨rfl, rfl⟩⟩
    · rw [if_pos (by simpa using hlast)] at hexec
      have hdone := commitGang_commits (v := s.goesOn l ps) (c := c) hc hlaunch rfl (ps ++ [(core, slots)])
      obtain ⟨qs, hqs, hcores⟩ := hdone.plots
      obtain ⟨m, hm, hrun, hplaced⟩ := hdone.launch
      refine ⟨_, qs, m, hexec, hdone.gang, hqs, hcores, hm, hrun, ?_⟩
      rw [hplaced, ← hcores, List.length_map]
  · intro s l hl hgang newer
    have hmem := mem_aborters hl hgang
    rw [exec_gangAbort hl hgang]
    refine ⟨fun ⟨m, hm⟩ hlt => ?_, fun h => ?_⟩
    · rw [if_neg (List.ne_nil_of_mem ((hmem m).mpr ⟨hlt, hm⟩))]
    · rw [if_pos (List.eq_nil_iff_forall_not_mem.mpr fun m hm => ?_)]
      obtain ⟨hlt, hnew⟩ := (hmem m).mp hm
      exact h.elim (fun h4 => absurd h4 (by omega)) fun hno => hno m hnew

end Sys2Proof.Machine
end

section
/-! PROOFS. A supervisor whose estate array no translation of its core reaches (R295, R296, R400); O50. -/

namespace Sys2Proof.Machine

open Sys2Proof.Claims

/-! ## Bytes that memory does not list (R411) -/

theorem memByte_unlisted {m : List Host.Cell} {a : Nat} (h : ∀ p ∈ m, p.1 ≠ a) : memByte m a = 0 := by
  unfold memByte
  induction m with
  | nil => rfl
  | cons p m ih =>
    rw [spRead, if_neg (h p List.mem_cons_self).symm]
    exact ih fun q hq => h q (List.mem_cons_of_mem _ hq)

/-- Eight bytes that memory does not list make a dword of zero. -/
theorem physDword_unlisted {s : State} {a : Nat} (h : ∀ p ∈ s.mem, p.1 < a ∨ a + 8 ≤ p.1) : s.physDword a = 0 := by
  have hbytes : memRead s.mem a 8 = (List.range 8).map fun _ => (0 : Byte) := by
    refine List.map_congr_left fun i hi => memByte_unlisted fun p hp => ?_
    have := List.mem_range.mp hi
    have := h p hp
    omega
  rw [State.physDword, hbytes]
  rfl

/-! ## Zeros written last -/

/-- The byte at a place after the bytes of a list were written at their places. -/
def written (x : Nat) (v : Byte) (zs : List (Nat × Byte)) : Byte := zs.foldl (fun v p => if p.1 = x then p.2 else v) v

theorem written_zero {x : Nat} {zs : List (Nat × Byte)} (hz : ∀ p ∈ zs, p.2 = 0) : written x 0 zs = 0 := by
  induction zs with
  | nil => rfl
  | cons p zs ih =>
    obtain ⟨hp, hzs⟩ := List.forall_mem_cons.mp hz
    have hfirst : (if p.1 = x then p.2 else 0) = 0 := by rw [hp, ite_self]
    rw [written, List.foldl_cons, hfirst]
    exact ih hzs

/-- Zeros written over a place leave zero there, whatever stood in it. -/
theorem written_over {x : Nat} {zs : List (Nat × Byte)} (hz : ∀ p ∈ zs, p.2 = 0) (hx : ∃ p ∈ zs, p.1 = x) (v : Byte) :
    written x v zs = 0 := by
  induction zs generalizing v with
  | nil => simp at hx
  | cons p zs ih =>
    obtain ⟨hp, hzs⟩ := List.forall_mem_cons.mp hz
    rw [written, List.foldl_cons]
    by_cases hpx : p.1 = x
    · rw [if_pos hpx, hp]
      exact written_zero hzs
    · exact ih hzs (by simpa [hpx] using hx) _

/-- What the statement says of memory makes the first byte of the array zero. -/
theorem memWritten_zero {s s' : State} {pl : Nat → Nat} {ws : List (Nat × List Byte)} {va n : Nat} (hn : 0 < n)
    (h : memWritten s s' pl (ws ++ [(va, List.replicate n 0)])) : memByte s'.mem (pl va) = 0 := by
  rw [h, List.flatMap_append, List.foldl_append, List.flatMap_singleton]
  refine written_over ?_ ?_ _
  · rintro p hp
    obtain ⟨b, hb, rfl⟩ := List.mem_map.mp hp
    exact List.eq_of_mem_replicate (List.fst_mem_of_mem_zipIdx hb)
  · have hb : ((0 : Byte), 0) ∈ (List.replicate n (0 : Byte)).zipIdx := by
      simp [List.mem_zipIdx_iff_getElem?, hn]
    exact ⟨_, List.mem_map_of_mem hb, rfl⟩

/-! ## A core whose agents find no translation (R292, R295) -/

/-- No cache of a core that its agents use holds a translation, and the context's first page table is all zero. -/
structure NoTranslation (s : State) (k ctx : Nat) : Prop where
  first : spRead [] (s.core k).first 7 = []
  second : (s.core k).tlb = []
  table : ∀ c, s.ctx? ctx = some c → ∀ i < 256, s.physDword (c.root + 8 * i) = 0

theorem walk_stops {s : State} {ctx : Nat} (h : ∀ c, s.ctx? ctx = some c → ∀ i < 256, s.physDword (c.root + 8 * i) = 0) (va : Nat) :
    ∃ n, walk s ctx va = .stopped n := by
  unfold walk
  cases hc : s.ctx? ctx with
  | none => exact ⟨1, rfl⟩
  | some c =>
    have hzero : s.physDword (c.root + 8 * (va / 2 ^ 48 % 256)) = 0 := h c hc _ (Nat.mod_lt _ (by decide))
    by_cases hva : va < 2 ^ 56
    · by_cases hok : s.tableOk c.root = true
      · exact ⟨1, by simp only [if_pos hva, walkLevels, walkFrom, if_pos hok, if_true, hzero]; rfl⟩
      · exact ⟨6, by simp only [if_pos hva, walkLevels, walkFrom, if_neg hok]⟩
    · exact ⟨1, if_neg hva⟩

theorem NoTranslation.translate {s : State} {k ctx : Nat} (h : NoTranslation s k ctx) (va : Nat) (acc : Acc) :
    ∃ f, s.translate (corePort k) ctx va acc = .fault f := by
  have hk : corePort k / 8 = k := by unfold corePort; omega
  have hport : corePort k % 8 = 7 := by unfold corePort; omega
  have hmiss : s.tlbHit (corePort k) ctx va = none := by
    simp [State.tlbHit, State.firstTlb, hk, hport, h.first, h.second, tlbFind]
  obtain ⟨n, hn⟩ := walk_stops h.table va
  simp [State.translate, State.leafOf, hmiss, hn]

/-- A write through translations that are not there changes nothing. -/
theorem NoTranslation.vWrite_mem {s w : State} {k ctx va : Nat} {bs : List Byte} (h : NoTranslation s k ctx)
    (hw : s.vWrite (corePort k) ctx va bs = .inl w) : w.mem = s.mem := by
  rcases vWrite_cases s (corePort k) ctx va bs with ⟨f, -, hf⟩ | ⟨hnone, hall⟩
  · rw [hf] at hw; cases hw
  · have hempty : sectors va bs.length = [] := by
      refine List.eq_nil_iff_forall_not_mem.mpr fun p hp => ?_
      obtain ⟨f, hf⟩ := h.translate p.1 .write
      have := List.findSome?_eq_none_iff.mp hnone p hp
      simp [hf] at this
    rw [hall, hempty] at hw
    cases hw
    rfl

theorem NoTranslation.congr {s w : State} {k ctx : Nat} (h : NoTranslation s k ctx) (hcores : w.cores = s.cores)
    (hctxs : w.ctxs = s.ctxs) (hmem : w.mem = s.mem) : NoTranslation w k ctx := by
  obtain ⟨hfirst, hsecond, htable⟩ := h
  constructor
  · rwa [State.core, hcores]
  · rwa [State.core, hcores]
  · simpa only [State.ctx?, hctxs, State.physDword, hmem] using htable

theorem NoTranslation.armSlot {s : State} {k ctx : Nat} (h : NoTranslation s k ctx) (part slot : Nat) :
    NoTranslation (s.armSlot k part slot).2 k ctx := by
  unfold State.armSlot
  dsimp only
  constructor
  · rw [State.core_modCore, if_pos rfl]; exact h.first
  · rw [State.core_modCore, if_pos rfl]; exact h.second
  · exact h.table

/-- A team starts, and its estate array keeps the bytes that it had. -/
theorem NoTranslation.startTeam_mem {s : State} {p : Plot} {c : Context} (h : NoTranslation s p.core c.id) (l : Launch)
    (x : (Nat × Nat) × Nat) : (s.startTeam l c p x).mem = s.mem := by
  have harmed := h.armSlot x.1.1 x.1.2
  have hmem : (s.armSlot p.core x.1.1 x.1.2).2.mem = s.mem := rfl
  unfold State.startTeam
  rcases harm : s.armSlot p.core x.1.1 x.1.2 with ⟨tid, v⟩
  rw [harm] at harmed hmem
  dsimp only
  split
  · rename_i w hw
    refine (NoTranslation.vWrite_mem ?_ hw).trans hmem
    exact harmed.congr rfl rfl rfl
  · exact hmem

theorem addPlot_eq (s : State) (l : Launch) (core : Nat) : ∃ cs n,
    s.addPlot l core = { s with plots := s.plots ++ [nextPlot s l core], crews := s.crews ++ cs, nextId := n } := by
  obtain ⟨cs, n, -, hcrews⟩ := addCrews_spec l.header (nextPlot s l core) (List.range (hCrews l.header))
    { s with nextId := s.nextId + 1, plots := s.plots ++ [nextPlot s l core] }
  exact ⟨cs, n, (startCrews_eq ..).trans hcrews⟩

theorem NoTranslation.placeTeam_mem {s : State} {l : Launch} {c : Context} {core : Nat} (h : NoTranslation s core c.id)
    (hc : s.ctx? l.ctx = some c) (slot : Nat × Nat) : (s.placePlot l core [slot]).mem = s.mem := by
  obtain ⟨cs, n, hadded⟩ := addPlot_eq s l core
  have hplot : NoTranslation (s.addPlot l core) (nextPlot s l core).core c.id := by
    rw [hadded]; exact h.congr rfl rfl rfl
  calc (s.placePlot l core [slot]).mem = ((s.addPlot l core).startTeam l c (nextPlot s l core) (slot, 0)).mem := by
        rw [placePlot_eq hc]; rfl
    _ = (s.addPlot l core).mem := hplot.startTeam_mem l _
    _ = s.mem := by rw [hadded]

/-! ## What CTX_CREATE leaves in memory (R398, R400) -/

/-- The mailbox once a command runs. -/
def State.begunBox (s : State) (op : Nat) : Mailbox :=
  { s.mailbox s.arg.a with op := BitVec.ofNat 8 op, tag := s.arg.tag, cmdTag := s.arg.tag, busy := true }

/-- A command's memory is its act's: the mailbox and the draw of a free value touch none. -/
theorem hostCommand_mem {s s' : State} {op : Nat} {act : State → Mailbox → Reply} (hs : Submits s) (hpf : s.arg.a = 0)
    (h : hostCommand op true act s = .next s') :
    s'.mem = (act (s.setMailbox s.arg.a (s.begunBox op)) (s.begunBox op)).state.mem := by
  obtain ⟨hup, hfn, hidle⟩ := hs
  have hgo : (!s.ready || decide (64 < s.arg.a) || (s.mailbox s.arg.a).busy) = false := by
    simp [State.ready, hup, hidle, Nat.not_lt.mpr hfn]
  have hown : (true && s.arg.a != 0) = false := by simp [hpf]
  unfold hostCommand at h
  dsimp only at h
  rw [hgo, hown] at h
  cases h
  split
  · contradiction
  · split
    · rfl
    · split <;> rfl

theorem NoTranslation.startSupervisor_mem {s : State} {c : Context} {core : Nat} (h : NoTranslation s core c.id)
    (hc : s.ctx? c.id = some c) (hd : List Dword) (slot : Nat) : (s.startSupervisor c hd core slot).mem = s.mem := by
  unfold State.startSupervisor
  refine NoTranslation.placeTeam_mem (c := c) ?_ hc _
  exact h.congr rfl rfl rfl

/-- The context that CTX_CREATE builds, when its supervisor is to start in a slot. -/
def State.supervised (s : State) (c : Context) (core slot : Nat) : Context :=
  { c with supervisor := (s.armSlot core 0 slot).1 }

/-- The state in which that supervisor starts: Q's headers and VECTOR are cleared. -/
def State.cleared (s : State) (c : Context) (core slot : Nat) : State :=
  (s.putCtx (s.supervised c core slot)).clearRings (s.supervised c core slot)

/-- Either no context is built, or the supervisor starts once the headers and VECTOR are cleared. -/
theorem createCtx_cases {s : State} {c : Context} {core slot : Nat} (hcore : s.lowestCore c.id = some core)
    (hslot : s.supSlot core = some slot) :
    (s.createCtx c).state = s ∨ ∃ h, (s.createCtx c).state =
      (s.cleared c core slot).startSupervisor (s.supervised c core slot) h core slot := by
  unfold State.createCtx
  simp only [hcore, hslot]
  generalize State.gateRead _ _ _ _ = r
  cases r with
  | none => exact .inl rfl
  | some h =>
    dsimp only
    split_ifs
    · exact .inl rfl
    · exact .inl rfl
    · exact .inr ⟨h, rfl⟩

/-- The state in which a submitted CTX_CREATE runs. -/
def State.creating (s : State) : State := s.setMailbox s.arg.a (s.begunBox 0x10)

theorem State.creating_mem (s : State) : s.creating.mem = s.mem := rfl

/-- The context that CTX_CREATE's arguments ask for, where CTX_SETUP left c. -/
def State.askedContext (s : State) (c : Context) : Context :=
  let arg := (s.begunBox 0x10).arg
  { id := (arg 0).toNat, apBase := c.apBase, saveSize := c.saveSize, live := true, root := (arg 1).toNat
    saveAddr := (arg 2).toNat, qBase := dw (bits (arg 3).toNat 55 0)
    qLimit := dw (bits (arg 3).toNat 63 56 * 2 ^ 20), ring := arg 5, nextLid := 2 }

/-- CTX_CREATE is refused and leaves memory, or it builds the context that its arguments ask for. -/
theorem ctxCreate_mem {s s' : State} (hs : Submits s) (hpf : s.arg.a = 0) (h : execCtxCreate s = .next s') :
    s'.mem = s.mem ∨ ∃ c, s.ctx? ((s.begunBox 0x10).arg 0).toNat = some c ∧
      s'.mem = (s.creating.createCtx (s.askedContext c)).state.mem := by
  unfold execCtxCreate at h
  rw [hostCommand_mem hs hpf h]
  dsimp only
  split
  · exact .inl rfl
  · split
    · exact .inl rfl
    · rename_i c hc
      split
      · exact .inl rfl
      · exact .inr ⟨c, hc, rfl⟩

end Sys2Proof.Machine
end

section
/-! PROOFS. The refutation of O50: a context is built on a core that holds translations of its supervisor's estate array in a
partition's cache alone, over page tables that map nothing. -/

namespace Sys2Proof.Machine.Unmapped

open Sys2Proof.Claims

/-! ## The command and its state -/

/-- The supervisor's header: one team of 32 lanes with 64 registers and three estate entries, which
asks for no matrix engine. -/
def header : List Dword :=
  [dw (2 * 2 ^ 56 + 2 * 2 ^ 40 + 5 * 2 ^ 32 + 2 ^ 26 + 2 ^ 19), 0, dw (2 ^ 32 + 1), dw (2 ^ 32 + 1), dw (64 * 2 ^ 32 + 3), 0x111, 0, 0x1000,
   0, 0, 0, 0, 0, 0, 0, 0]

/-- The supervisor's handle, and where the module keeps its estate array. -/
def supervisor : Handle := mkHandle 0 0 31 1
noncomputable def array : Nat := (Config.estateBase 0 supervisor).toNat
noncomputable def arrayPage : Nat := array / 32 * 32

/-- The context after CTX_SETUP. -/
def newContext : Context := { id := 0, apBase := 0, saveSize := 0x1000000 }

/-- The two leaves that partition 0 holds: 2 GiB from w, and the array's surroundings. -/
def windowLeaf (w : Nat) : TlbEntry := { ctx := 0, va := w, size := 0x80000000, pa := 0, flags := 0x1F }
noncomputable def arrayLeaf : TlbEntry := { ctx := 0, va := arrayPage, size := 4096, pa := 0x40000000, flags := 0x1F }

/-- The arguments of CTX_CREATE: the root of the page tables, the save area, Q and its size, and the request ring. -/
def arguments (w : Nat) : List Dword := [0, 0x8000000, 0x7000000, dw (0x19 * 2 ^ 56 + w + 0x10000000), 0, dw (w + 0x9000000)]

/-- Memory: the header behind the ring, and a sector of ones where the array's leaf puts the array. -/
def memory : List Host.Cell :=
  memWrite (memWrite [] 0x9004080 (header.flatMap fun x => toBytes 8 x.toNat)) 0x40000000 (List.replicate 32 1)

/-- The host submits CTX_CREATE, with ring and Q in the window at w. -/
noncomputable def state (w : Nat) : State :=
  { State.reset with
    bringup := .ready, accepted := some 0, coresets := [(0, 1)], ctxs := [newContext], mem := memory
    cores := [(0, { first := [(0, [windowLeaf w, arrayLeaf])] })]
    mailboxes := [(0, { args := (arguments w).zipIdx.map Prod.swap })], arg := { a := 0 } }

/-- Where the leaves put an address. -/
noncomputable def place (w va : Nat) : Nat :=
  if w ≤ va ∧ va < w + 0x80000000 then va - w
  else if arrayPage ≤ va then 0x40000000 + (va - arrayPage) else va

/-- The two windows that the state is used with: wherever the module keeps the array, one of them lies apart from it. -/
def Window (w : Nat) : Prop := w = 0 ∨ w = 2 ^ 45

/-- The window and the array's leaf have no address in common. -/
def Apart (w : Nat) : Prop := arrayPage + 4096 ≤ w ∨ w + 0x80000000 ≤ arrayPage

theorem exists_window : ∃ w, Window w ∧ Apart w := by
  unfold Apart
  by_cases h : arrayPage < 2 ^ 40
  · exact ⟨2 ^ 45, .inr rfl, by omega⟩
  · exact ⟨0, .inl rfl, by omega⟩

/-! ## The statement's hypotheses -/

theorem submits (w : Nat) : Submits (state w) := ⟨rfl, by show (0 : Nat) ≤ 64; decide, rfl⟩

theorem soundContext {w : Nat} (hw : Window w) : SoundContext (state w) newContext := by
  rcases hw with rfl | rfl <;> exact ⟨by decide +kernel, by decide +kernel, by decide +kernel, by decide +kernel⟩

theorem lowest_state (w : Nat) : Claims.lowest (state w) newContext.id 0 :=
  ⟨by decide, by show (spRead (0 : BitVec 192) [(0, 1)] 0).getLsbD 0 = true; decide, fun j hj => absurd hj (Nat.not_lt_zero j)⟩

/-- The context that the statement says is built. -/
noncomputable def built (w : Nat) : Context := builtContext (state w) newContext (nextHandle (state w) 0 0 31)

theorem built_supervisor {w : Nat} (hw : Window w) : (built w).supervisor = supervisor := by
  rcases hw with rfl | rfl <;> decide +kernel

theorem built_array {w : Nat} (hw : Window w) : (Config.estateBase newContext.id (built w).supervisor).toNat = array := by
  rw [built_supervisor hw, newContext, array]

theorem built_port {w : Nat} (hw : Window w) : (gateOrigin (built w)).port = 0 := by
  show 8 * coreOf (built w).supervisor + partOf (built w).supervisor = 0
  rw [built_supervisor hw]
  decide

theorem leafCheck_low {w va : Nat} {e : TlbEntry} (hf : e.flags = 0x1F) (hpa : e.pa + (va - e.va) < 0x80000000) (acc : Acc) :
    leafCheck (state w) e va acc = .ok (e.pa + (va - e.va)) false := by
  have hmod : paModule (e.pa + (va - e.va)) = 0 := Nat.div_eq_of_lt (by omega)
  have hloc : paLocal (e.pa + (va - e.va)) = e.pa + (va - e.va) := Nat.mod_eq_of_lt (by omega)
  have hhbm : localHbm (e.pa + (va - e.va)) = true := by simp [localHbm]; omega
  have hhost : localHost (e.pa + (va - e.va)) = false := by simp [localHost]; omega
  have hown : (state w).moduleNumber = 0 := rfl
  cases acc <;> simp [leafCheck, hf, hmod, hloc, hhbm, hhost, hown, State.inDomain, State.reachable]

theorem sectorwise_place {w : Nat} (hw : Window w) : sectorwise (place w) := by
  intro a b h
  have hw : w % 32 = 0 := by rcases hw with rfl | rfl <;> rfl
  have hpage : arrayPage % 32 = 0 := Nat.mul_mod_left ..
  unfold place
  split_ifs <;> omega

theorem place_array {w j : Nat} (hapart : Apart w) (hj : j < 96) : place w (array + j) = 0x40000000 + (array % 32 + j) := by
  unfold Apart at hapart
  have hoff : ¬ (w ≤ array + j ∧ array + j < w + 0x80000000) := by unfold arrayPage at hapart; omega
  have hon : arrayPage ≤ array + j := by unfold arrayPage; omega
  rw [place, if_neg hoff, if_pos hon, arrayPage]
  omega

section
variable {w : Nat} (hw : Window w) (hapart : Apart w)
include hw

theorem stands_window {va : Nat} (h1 : w ≤ va) (h2 : va < w + 0x80000000) (acc : Acc) :
    byteStands (state w) (gateOrigin (built w)) va acc (place w va) := by
  refine ⟨⟨windowLeaf w, false, ?_, ?_⟩, fun _ => rfl⟩
  · rw [built_port hw]
    show tlbFind [windowLeaf w, arrayLeaf] newContext.id va = _
    simp [tlbFind, windowLeaf, newContext, h1, h2]
  · have hp : place w va = (windowLeaf w).pa + (va - (windowLeaf w).va) := by simp [place, windowLeaf, h1, h2]
    rw [hp]
    exact leafCheck_low rfl (by simp only [windowLeaf]; omega) acc

include hapart in
theorem stands_array {j : Nat} (hj : j < 96) :
    byteStands (state w) (gateOrigin (built w)) (array + j) .write (place w (array + j)) := by
  have hplace := place_array hapart hj
  have hva : array + j - arrayPage = array % 32 + j := by unfold arrayPage; omega
  have hpage : arrayPage ≤ array + j ∧ array + j < arrayPage + 4096 := by unfold arrayPage; omega
  refine ⟨⟨arrayLeaf, false, ?_, ?_⟩, fun h => by cases h⟩
  · rw [built_port hw]
    show tlbFind [windowLeaf w, arrayLeaf] newContext.id (array + j) = _
    have hoff : ¬ (w ≤ array + j ∧ array + j < w + 0x80000000) := by unfold Apart arrayPage at hapart; omega
    have hmiss : w ≤ array + j → w + 0x80000000 ≤ array + j := by omega
    simp [tlbFind, windowLeaf, arrayLeaf, newContext, hpage]
    omega
  · rw [hplace, ← hva]
    exact leafCheck_low rfl (by simp only [arrayLeaf]; omega) .write

theorem supHeader_eq : supHeader (state w) (place w) = header := by
  rcases hw with rfl | rfl <;> decide +kernel

theorem header_sound (n : Nat) : ¬ breaks ((state w).putCtx (built w)) (built w).id header True n := by
  intro h
  unfold breaks at h
  split at h
  case h_2 =>
    rcases h with h | ⟨-, k, h2, h5, h⟩
    · revert h; decide
    · interval_cases k <;> revert h <;> decide
  case h_9 => exact h
  case h_8 => exact absurd (h 0 (by decide)) (by rcases hw with rfl | rfl <;> decide +kernel)
  all_goals rcases hw with rfl | rfl <;> revert h <;> decide +kernel

include hapart in
theorem soundSupervisor : SoundSupervisor (state w) (built w) 0 (place w) := by
  have hring : (argOf (state w) 5).toNat = w + 0x9000000 := by rcases hw with rfl | rfl <;> decide +kernel
  have hestate : hEstate header = 3 := by decide
  constructor
  case slot => rcases hw with rfl | rfl <;> decide +kernel
  case new => rfl
  case order => exact sectorwise_place hw
  case reads => exact fun j hj => stands_window hw (by rw [hring]; omega) (by rw [hring]; omega) .read
  case valid => rw [supHeader_eq hw]; exact header_sound hw
  case single => rw [supHeader_eq hw]; decide
  case estate =>
    rw [supHeader_eq hw, hestate, built_supervisor hw]
    exact fun j hj => stands_array hw hapart hj
  case fits => rw [supHeader_eq hw]; rcases hw with rfl | rfl <;> decide +kernel

theorem stands_cleared : ∀ r ∈ clearedQ (built w), ∀ j < r.2.length,
    byteStands (state w) (gateOrigin (built w)) (r.1 + j) .write (place w (r.1 + j)) := by
  have hrange : ∀ r ∈ clearedQ (built w), w ≤ r.1 ∧ r.1 + r.2.length ≤ w + 0x80000000 := by
    rcases hw with rfl | rfl <;> decide +kernel
  intro r hr j hj
  obtain ⟨hlo, hhi⟩ := hrange r hr
  exact stands_window hw (by omega) (by omega) .write
end

/-! ## The memory that the command leaves -/

/-- The context that the arguments ask for, and the state in which its supervisor starts. -/
noncomputable def asked (w : Nat) : Context := (state w).askedContext newContext
noncomputable def beforeStart (w : Nat) : State := (state w).creating.cleared (asked w) 0 31

section
variable {w : Nat} (hw : Window w)
include hw

theorem root_beforeStart :
    ((beforeStart w).ctx? ((state w).creating.supervised (asked w) 0 31).id).map Context.root = some 0x8000000 := by
  rcases hw with rfl | rfl <;> decide +kernel

theorem table_beforeStart : ∀ p ∈ (beforeStart w).mem, p.1 < 0x8000000 ∨ 0x8000800 ≤ p.1 := by
  rcases hw with rfl | rfl <;> decide +kernel

theorem noTranslation_beforeStart : NoTranslation (beforeStart w) 0 ((state w).creating.supervised (asked w) 0 31).id := by
  constructor
  case first => rcases hw with rfl | rfl <;> decide +kernel
  case second => rcases hw with rfl | rfl <;> decide +kernel
  case table =>
    intro c hc i hi
    have hroot : c.root = 0x8000000 := by simpa [hc] using root_beforeStart hw
    rw [hroot]
    refine physDword_unlisted fun p hp => ?_
    have := table_beforeStart hw p hp
    omega

theorem ctx_beforeStart : (beforeStart w).ctx? ((state w).creating.supervised (asked w) 0 31).id =
    some ((state w).creating.supervised (asked w) 0 31) := by
  rcases hw with rfl | rfl <;> decide +kernel

theorem sector_beforeStart : ∀ r < 32, memByte (beforeStart w).mem (0x40000000 + r) = 1 := by
  rcases hw with rfl | rfl <;> decide +kernel

end

theorem lowestCore_creating {w : Nat} (hw : Window w) : (state w).creating.lowestCore (asked w).id = some 0 := by
  rcases hw with rfl | rfl <;> decide +kernel

theorem supSlot_creating {w : Nat} (hw : Window w) : (state w).creating.supSlot 0 = some 31 := by
  rcases hw with rfl | rfl <;> decide +kernel

theorem sector_state (w : Nat) : ∀ r < 32, memByte (state w).mem (0x40000000 + r) = 1 := by
  have hmemory : ∀ r < 32, memByte memory (0x40000000 + r) = 1 := by decide +kernel
  simpa only [state] using hmemory

/-- The command leaves the sector of the array as it was, whatever else it does. -/
theorem sector_kept {w : Nat} (hw : Window w) {s' : State} (h : exec .ctxCreate (state w) = .next s') {r : Nat} (hr : r < 32) :
    memByte s'.mem (0x40000000 + r) = 1 := by
  have hbefore := sector_beforeStart hw r hr
  have hstate := sector_state w r hr
  rcases ctxCreate_mem (submits w) rfl h with hmem | ⟨c, hc, hmem⟩
  · rw [hmem, hstate]
  · have hnew : c = newContext := (Option.some.inj hc).symm
    rw [hnew, ← asked] at hmem
    rcases createCtx_cases (lowestCore_creating hw) (supSlot_creating hw) with hkept | ⟨hd, hstart⟩
    · rw [hmem, hkept, State.creating_mem, hstate]
    · have hsup := (noTranslation_beforeStart hw).startSupervisor_mem (ctx_beforeStart hw) hd 31
      rw [hmem, hstart, ← beforeStart, hsup, hbefore]

end Sys2Proof.Machine.Unmapped

namespace Sys2Proof.Machine

open Sys2Proof.Claims

/-- Refutes O50: the supervisor's estate array is cleared by its core, which no partition's cache of translations serves
and which, where the page tables map nothing, leaves the array as it was: a byte of it that was one stays one, though the
statement, which takes the array's place from partition 0's cache, has it zero. -/
theorem not_contextsAreBuiltAndDestroyed : ¬ Obligations.ContextsAreBuiltAndDestroyed := by
  unfold Obligations.ContextsAreBuiltAndDestroyed
  rintro ⟨-, hcreate, -⟩
  obtain ⟨w, hw, hapart⟩ := Unmapped.exists_window
  obtain ⟨-, -, hbuild⟩ := hcreate (Unmapped.state w) (Unmapped.submits w) rfl
  obtain ⟨s', x, hexec, -, -, -, hmem, -⟩ := hbuild Unmapped.newContext 0 (Unmapped.place w) (by simp [Unmapped.state])
    (Unmapped.soundContext hw) rfl (Unmapped.lowest_state w) (Unmapped.soundSupervisor hw hapart) (Unmapped.stands_cleared hw)
  have hone : memByte s'.mem (0x40000000 + Unmapped.array % 32) = 1 :=
    Unmapped.sector_kept hw hexec (Nat.mod_lt _ (by decide))
  have hzero : memByte s'.mem (Unmapped.place w (Config.estateBase Unmapped.newContext.id (Unmapped.built w).supervisor).toNat) = 0 :=
    memWritten_zero (by rw [Unmapped.supHeader_eq hw]; decide) hmem
  have hplace : Unmapped.place w Unmapped.array = 0x40000000 + Unmapped.array % 32 :=
    Unmapped.place_array (j := 0) hapart (by decide)
  rw [Unmapped.built_array hw, hplace, hone] at hzero
  exact absurd hzero (by decide)

end Sys2Proof.Machine
end

section
/-! PROOFS. A vector instruction that a poised team issues, from its sources to its results (R61, R72, R117, R126, R157, R161,
R162): what reading its sources leaves, its draws, its datapath entry, and its completion by a rule of O12 to O15. -/

namespace Sys2Proof.Machine

open Sys2Proof.Claims

/-! ## What reading the sources leaves (R117, R118, R322) -/

/-- Reading sources takes from the ports of crews and from the team's queues, and ends a hold of the team. -/
structure ReadLeaves (s : State) (t : Team) (s1 : State) (t1 : Team) : Prop where
  state : s1 = { s with crews := s1.crews }
  team : t1 = { t with queues := t1.queues, held := t1.held }

theorem ReadLeaves.refl (s : State) (t : Team) : ReadLeaves s t s t := ⟨rfl, rfl⟩

theorem ReadLeaves.trans {s s1 s2 : State} {t t1 t2 : Team} (h : ReadLeaves s t s1 t1) (h' : ReadLeaves s1 t1 s2 t2) :
    ReadLeaves s t s2 t2 where
  state := by rw [h'.state, h.state]
  team := by rw [h'.team, h.team]

theorem readSrc_leaves {s s1 : State} {t t1 : Team} {c : Nat} {x : Src} (h : readSrc s t c = .inl (x, s1, t1)) :
    ReadLeaves s t s1 t1 := by
  simp only [readSrc] at h
  repeat' split at h
  all_goals cases h
  all_goals exact ⟨rfl, rfl⟩

theorem readAll_leaves {cs : List Nat} {s s1 : State} {t t1 : Team} {srcs : List Src}
    (h : readAll s t cs = .inl (srcs, s1, t1)) : ReadLeaves s t s1 t1 := by
  induction cs generalizing s t srcs with
  | nil => cases h; exact .refl _ _
  | cons c cs ih =>
    rw [readAll] at h
    split at h
    · cases h
    · rename_i hc
      split at h
      · cases h
      · rename_i hcs
        cases h
        exact (readSrc_leaves hc).trans (ih hcs)

theorem Poised.quiet {s : State} {t : Team} (h : Poised s t) : Quiet t := ⟨h.late, h.stepping, h.stays, h.yields⟩

theorem ReadLeaves.quiet {s s1 : State} {t t1 : Team} (h : ReadLeaves s t s1 t1) (hq : Quiet t) : Quiet t1 := by
  rw [h.team]
  exact ⟨hq.late, hq.stepping, hq.stays, hq.yields⟩

/-! ## Draws (R61, R72) -/

theorem getCtr_drew (t : Team) (ds : List (Nat × Nat)) (l : Nat) :
    (t.drew ds).getCtr l = t.getCtr l + ((ds.filter fun d => d.1 == l).map fun d => dw d.2).sum := by
  induction ds generalizing t with
  | nil => simp [Team.drew]
  | cons d ds ih =>
    have hstep : t.drew (d :: ds) = (t.drew [d]).drew ds := rfl
    have hone : (t.drew [d]).getCtr l = t.getCtr l + if d.1 = l then dw d.2 else 0 := by
      by_cases h0 : d.2 = 0
      · simp [Team.drew, Team.getCtr, h0, dw]
      · simp only [Team.drew, Team.getCtr, List.foldl_cons, List.foldl_nil, h0, if_false, spRead_spWrite]
        by_cases hl : l = d.1
        · simp [hl]
        · simp [hl, Ne.symm hl]
    rw [hstep, ih, hone]
    by_cases hl : d.1 = l
    · simp [hl, BitVec.add_assoc]
    · simp [hl]

/-- As many draws in each of some lanes. -/
theorem getCtr_drew_each {ls : List Nat} (hn : ls.Nodup) (t : Team) (n l : Nat) :
    (t.drew (ls.map fun l => (l, n))).getCtr l = t.getCtr l + BitVec.ofNat 64 (if l ∈ ls then n else 0) := by
  have hdraws : ((ls.map fun l => (l, n)).filter fun d => d.1 == l) = (ls.filter fun k => k == l).map fun l => (l, n) := by
    rw [List.filter_map]; rfl
  rw [getCtr_drew, hdraws, List.filter_beq, hn.count]
  split <;> simp [dw]

/-! ## The datapath entry (R157, R161, R178) -/

/-- What finishV puts into the datapath entry or the transform stage. -/
def VOut.entry (o : VOut) (sh : VShape) (dsts lanes : List Nat) (s : State) (t : Team) : Datapath :=
  let regs := (o.writes ++ o.counts).filter fun w => decide (w.reg < 384)
  { writes := regs, scalars := o.scalars, pushes := pushesOf t lanes (o.writes ++ o.counts) dsts, reads := sh.reads
    dests := distinct (regs.map LaneWrite.reg), readyAt := s.now t + sh.perPass * passes lanes + sh.tail }

theorem Team.gone_withResults (t : Team) (c : Sparse Dword) (x : BitVec 8) (d h : Option Datapath) :
    ({ t with ctr := c, fsr := x, datapath := d, hadamard := h } : Team).gone =
      { t.gone with ctr := c, fsr := x, datapath := d, hadamard := h } := by
  simp only [Team.gone, Team.advance]
  split
  · rfl
  · split <;> rfl

theorem Team.gone_withQueues (t : Team) (q : List Queue) (x : Sparse Dword) :
    ({ t with queues := q, s := x } : Team).gone = { t.gone with queues := q, s := x } := by
  simp only [Team.gone, Team.advance]
  split
  · rfl
  · split <;> rfl

/-- A quiet team's results, put into the stage that the shape names. -/
theorem finishV_quiet {s : State} {t : Team} (hq : Quiet t) (sh : VShape) (dsts lanes : List Nat) (o : VOut) :
    finishV sh dsts lanes o s t = s.setTeam { t.gone with
      ctr := (t.drew o.draws).ctr, fsr := t.fsr ||| orFlags (o.flags.flatMap Prod.snd)
      datapath := if sh.stage then t.datapath else some (o.entry sh dsts lanes s t)
      hadamard := if sh.stage then some (o.entry sh dsts lanes s t) else t.hadamard } := by
  rw [← Team.gone_withResults]
  refine Eq.trans ?_ (retire_quiet s _ hq.late hq.stepping hq.stays hq.yields)
  unfold finishV
  cases sh.stage <;> rfl

/-- An entry for each destination that names a queue, in field order (R161). -/
theorem pushesOf_eq (t : Team) (lanes : List Nat) (ws : List LaneWrite) (dsts : List Nat) :
    pushesOf t lanes ws dsts = (dsts.zipIdx.filter fun q => decide (384 ≤ q.1)).map fun q =>
      (q.1, (List.range t.width).map fun l =>
        if l ∈ lanes then
          (((ws.filter fun w => w.reg == q.1 && w.lane == l)[(dsts.take q.2).count q.1]?).map LaneWrite.val).getD 0
        else 0xFFFFFFFF#32) := by
  rw [← List.filterMap_eq_map, List.filterMap_filter, pushesOf]
  refine congrArg (List.filterMap · dsts.zipIdx) (funext fun q => ?_)
  by_cases hq : q.1 < 384
  · simp [hq, Nat.not_le.mpr hq]
  · simp [hq, Nat.not_lt.mp hq, queueEntry]

/-- With no lane active the entry is all ones. -/
theorem pushesOf_noLane (t : Team) (dsts : List Nat) :
    pushesOf t [] [] dsts =
      (dsts.filter fun q => decide (384 ≤ q)).map fun q => (q, List.replicate t.width 0xFFFFFFFF#32) := by
  have hfst : (dsts.zipIdx.filter fun q => decide (384 ≤ q.1)).map Prod.fst = dsts.filter fun q => decide (384 ≤ q) := by
    conv_rhs => rw [← List.zipIdx_map_fst 0 dsts, List.filter_map]
    rfl
  rw [pushesOf_eq, ← hfst]
  simp

theorem orFlags_eq (x : BitVec 8) (fs : List (BitVec 8)) : x ||| orFlags fs = fs.foldl (fun a f => a ||| f) x := by
  have : ∀ a b : BitVec 8, fs.foldl (fun a f => a ||| f) (a ||| b) = a ||| fs.foldl (fun a f => a ||| f) b := by
    induction fs with
    | nil => intro a b; rfl
    | cons f fs ih => intro a b; rw [List.foldl_cons, List.foldl_cons, BitVec.or_assoc, ih]
  simpa [orFlags] using (this x 0).symm

theorem pushQueues_eq (ps : List (Nat × List Word)) (t : Team) :
    ps.foldl Team.pushQueue t = { t with queues := (ps.foldl Team.pushQueue t).queues } :=
  List.foldlRecOn (motive := fun u : Team => u = { t with queues := u.queues }) ps _ rfl fun u hu p _ => by
    rw [hu]; rfl

theorem quiet_pushed {t : Team} (hq : Quiet t) (ps : List (Nat × List Word)) : Quiet (ps.foldl Team.pushQueue t) := by
  rw [pushQueues_eq]
  exact ⟨hq.late, hq.stepping, hq.stays, hq.yields⟩

theorem Team.setAll_s (t : Team) (ws : List (BitVec 7 × Dword)) :
    (t.setAll ws).s = ws.foldl (fun m w => spWrite 0 m w.1.toNat w.2) t.s := by
  induction ws generalizing t with
  | nil => rfl
  | cons w ws ih => exact ih (t.setS w.1.toNat w.2)

/-- Queue entries and scalar registers written, and the team gone on. -/
theorem pushed_setAll_gone (ps : List (Nat × List Word)) (ws : List (BitVec 7 × Dword)) (t : Team) :
    ((ps.foldl Team.pushQueue t).setAll ws).gone = { t.gone with
      queues := (ps.foldl Team.pushQueue t).queues, s := ws.foldl (fun m w => spWrite 0 m w.1.toNat w.2) t.s } := by
  rw [← Team.gone_withQueues, Team.setAll_eq, Team.setAll_s, pushQueues_eq]

/-- No load and no RPUT of a poised team waits to see the registers that it writes (R84, R109). -/
theorem ReadLeaves.noteWrites {s s1 : State} {t t1 : Team} (h : ReadLeaves s t s1 t1) (hp : Poised s t)
    (ps : List (Nat × List Word)) (rs : List (Nat × Nat)) :
    s1.noteWrites (ps.foldl Team.pushQueue t1).tid true rs = s1 := by
  have htid : (ps.foldl Team.pushQueue t1).tid = t.tid := by rw [pushQueues_eq, h.team]
  have hloads : s1.loadsPending t.tid = false := by rw [h.state]; exact hp.loads
  have hrputs : (s1.rputs.any fun r => r.tid == t.tid) = false := by rw [h.state]; exact hp.rputs
  rw [htid, noteWrites_noLoads hloads hrputs]

/-! ## Completion -/

/-- The shape of a rule. -/
def shapeOf (r : VRule) (pair weirs : Bool) : VShape where
  sources := r.sources
  reads := r.reads
  anyLane := r.anyLane
  perPass := r.perPass
  tail := r.tail
  pair := pair
  weirs := weirs
  stage := r.stage

/-- What is computed over the active lanes is what a rule states. -/
structure Computes (r : VRule) (s : State) (t : Team) (srcs : List Src) (o : VOut) : Prop where
  results : o.writes ++ o.counts = r.results s t srcs
  flags : o.flags.flatMap Prod.snd = r.flags s t srcs
  scalars : o.scalars = r.scalars s t srcs
  draws : ∀ l, (t.drew o.draws).getCtr l = t.getCtr l + BitVec.ofNat 64 (if l ∈ t.lanes then r.draws t l else 0)

section
variable {r : VRule} {s s1 : State} {t t1 : Team} {srcs : List Src} {pair weirs : Bool}
  {compute : State → Team → List Src → List Nat → VOut}

/-- With a lane active the results go into the datapath entry. -/
theorem runV_lanes (h : r.Ready s t srcs s1 t1) (hl : t.lanes ≠ []) :
    runV (shapeOf r pair weirs) r.dsts compute s t t =
      finishV (shapeOf r pair weirs) r.dsts t.lanes (compute s t srcs t.lanes) s1 t1 := by
  have hp := (poised_iff s t).mp h.poised
  have hread : readAll s t (shapeOf r pair weirs).sources = .inl (srcs, s1, t1) := h.sources
  have hclean : s.readsPoison t (shapeOf r pair weirs).reads
      (if (shapeOf r pair weirs).anyLane then List.range t.width else t.lanes) = false := h.clean
  simp only [runV, hp.datapath, hp.hadamard, hread, h.dest, hclean, List.isEmpty_iff, hl, Option.isSome_none,
    Bool.and_false, Bool.false_eq_true, if_false]
  rw [underWeirs_off hp.weirs hp.mark hp.here rfl]
  simp only [hread]

/-- With no lane active only queues and scalar registers act. -/
theorem runV_noLane (h : r.Ready s t srcs s1 t1) (hl : t.lanes = []) :
    runV (shapeOf r pair weirs) r.dsts compute s t t =
      s1.retireS ((pushesOf t [] [] r.dsts).foldl Team.pushQueue t1)
        ((compute s1 t srcs []).scalars.map fun w => (BitVec.ofNat 7 w.1, w.2)) := by
  have hp := (poised_iff s t).mp h.poised
  have hread : readAll s t (shapeOf r pair weirs).sources = .inl (srcs, s1, t1) := h.sources
  simp only [runV, hp.datapath, hp.hadamard, hread, h.dest, hl, List.isEmpty_nil, Option.isSome_none,
    Bool.and_false, Bool.false_eq_true, if_false, if_true]

theorem entry_of_computes (h : r.Ready s t srcs s1 t1) {o : VOut} (ho : Computes r s t srcs o) :
    r.Entry s t srcs (o.entry (shapeOf r pair weirs) r.dsts t.lanes s1 t1) := by
  have hleft := readAll_leaves h.sources
  have hnow : s1.now t1 = (s.core (coreOf t.tid)).cyc := by rw [hleft.state, hleft.team]; rfl
  have hwidth : t1.width = t.width := by rw [hleft.team]
  refine ⟨ho.scalars, rfl, rfl, ?_, ?_, ?_⟩
  · simp only [VOut.entry, hnow]; rfl
  · simp only [VOut.entry, ho.results]
  · simp only [VOut.entry, ho.results, pushesOf_eq, hwidth]

/-- An instruction that runs under a rule's shape and computes what the rule states completes as the rule says. -/
theorem completes_of_runV {i : Instr} (h : r.Ready s t srcs s1 t1)
    (he : exec i s = issueV r.op r.f s (runV (shapeOf r pair weirs) r.dsts compute))
    (hc : Computes r s t srcs (compute s t srcs t.lanes))
    (hs : t.lanes = [] → (compute s1 t srcs []).scalars = r.scalars s t srcs) : r.Completes i s t srcs s1 t1 := by
  have hp := (poised_iff s t).mp h.poised
  have hleft := readAll_leaves h.sources
  have hq := hleft.quiet hp.quiet
  rw [issueV_passes hp _ _ _ h.checks] at he
  refine ⟨fun hl => ?_, fun hl => ?_⟩
  · rw [runV_lanes h hl, finishV_quiet hq] at he
    refine ⟨_, _, he, entry_of_computes (pair := pair) (weirs := weirs) h hc, ?_, fun l => ?_⟩
    · have hfsr : t1.fsr = t.fsr := by rw [hleft.team]
      have hd : t1.datapath = none := by rw [hleft.team]; exact hp.datapath
      have hh : t1.hadamard = none := by rw [hleft.team]; exact hp.hadamard
      rw [hc.flags, hfsr, orFlags_eq, hd, hh]
      rfl
    · have hctr : (t1.drew (compute s t srcs t.lanes).draws).ctr = (t.drew (compute s t srcs t.lanes).draws).ctr := by
        rw [hleft.team]; rfl
      rw [← hc.draws l]
      exact congrArg (spRead 0 · l) hctr
  · have hteam := pushed_setAll_gone (pushesOf t [] [] r.dsts) ((r.scalars s t srcs).map fun w => (BitVec.ofNat 7 w.1, w.2)) t1
    have hnote := hleft.noteWrites hp (pushesOf t [] [] r.dsts)
      (((r.scalars s t srcs).map fun w => (BitVec.ofNat 7 w.1, w.2)).map fun w => (w.1.toNat, 0))
    rw [runV_noLane h hl, retireS_quiet (quiet_pushed hq _), hs hl, hnote, hteam] at he
    refine ⟨_, he, rfl, ?_, ?_⟩
    · simp only [pushesOf_noLane, List.foldl_map]
    · simp only [List.foldl_map, BitVec.toNat_ofNat]

end

end Sys2Proof.Machine
end

section
/-! PROOFS. Conversions and block quantisation (R66, R160, R173 to R176), reductions and running sums (R67 to R69, R177 to R180):
what each computes over the active lanes is what its rule states; O13. -/

namespace Sys2Proof.Machine

open Sys2Proof.Claims

/-! ## Results joined over lanes -/

theorem nthSrc_eq (srcs : List Src) (n : Nat) : nthSrc srcs n = source srcs n := rfl

theorem Team.lanes_nodup (t : Team) : t.lanes.Nodup := List.nodup_range.filter _

section
variable {r : VRule} {s : State} {t : Team} {srcs : List Src}

/-- Elements packed in each active lane, with as many draws in each. -/
theorem computes_packed {F : Fmt} {vd n : Nat} {rs : Nat → List (Nat × BitVec 8)}
    (hresults : r.results s t srcs = t.lanes.flatMap fun l => wordsAt vd l (packElems F ((rs l).map Prod.fst)))
    (hflags : r.flags s t srcs = t.lanes.flatMap fun l => (rs l).map Prod.snd)
    (hscalars : r.scalars s t srcs = []) (hdraws : ∀ l, r.draws t l = n) :
    Computes r s t srcs (joinOut (t.lanes.map fun l => packOut F vd l n (rs l))) where
  results := by simp [joinOut, packOut, List.flatMap_map, hresults]
  flags := by simp [joinOut, packOut, List.flatMap_map, List.flatMap_assoc, hflags]
  scalars := by simp [joinOut, packOut, hscalars]
  draws l := by
    have : (joinOut (t.lanes.map fun l => packOut F vd l n (rs l))).draws = t.lanes.map fun l => (l, n) := by
      simp only [joinOut, packOut, List.flatMap_map]
      exact List.map_eq_flatMap.symm
    rw [this, getCtr_drew_each t.lanes_nodup, hdraws]

/-- Slices written in each active lane, without flags and draws. -/
theorem computes_slices {w : Nat → List LaneWrite} (hresults : r.results s t srcs = t.lanes.flatMap w)
    (hflags : r.flags s t srcs = []) (hscalars : r.scalars s t srcs = []) (hdraws : ∀ l, r.draws t l = 0) :
    Computes r s t srcs (joinOut (t.lanes.map fun l => { writes := w l })) where
  results := by simp [joinOut, List.flatMap_map, hresults]
  flags := by simp [joinOut, hflags]
  scalars := by simp [joinOut, hscalars]
  draws l := by
    have : (joinOut (t.lanes.map fun l => { writes := w l })).draws = [] := by simp [joinOut]
    simp [this, Team.drew, hdraws]

end

/-! ## Conversions (R66, R173, R175) -/

theorem cvtCycles_eq (d a : Fmt) (e : Nat) :
    cvtCycles d a e = if d.width = 64 ∨ a.width = 64 then 4 else max (groupRegs d e) (groupRegs a e) := by
  simp [cvtCycles]

theorem shapeOf_conversionRule (op : Nat) (f : VFields) (sources reads : List Nat)
    (el : State → Team → List Src → Nat → Nat → Nat × BitVec 8) (pair : Bool) :
    shapeOf (conversionRule op f sources reads el) pair true =
      { sources, reads, perPass := cvtCycles (fmtF f) (srcF f) (cvtCount (fmtF f) (srcF f)), pair } := by
  simp only [shapeOf, conversionRule, cvtCycles_eq, cvtCount]

theorem conversion_completes {i : Instr} {op : Nat} {f : VFields} {sources reads : List Nat} {pair : Bool}
    {el : State → Team → List Src → Nat → Nat → Nat × BitVec 8} {s s1 : State} {t t1 : Team} {srcs : List Src}
    (h : (conversionRule op f sources reads el).Ready s t srcs s1 t1)
    (he : exec i s = issueV op f s (runV
      { sources, reads, perPass := cvtCycles (fmtF f) (srcF f) (cvtCount (fmtF f) (srcF f)), pair } [f.vd.toNat]
      fun s v srcs lanes => joinOut (lanes.map fun l =>
        packOut (fmtF f) f.vd.toNat l (rsrDraws v f (cvtCount (fmtF f) (srcF f)))
          ((List.range (cvtCount (fmtF f) (srcF f))).map (el s v srcs l))))) :
    (conversionRule op f sources reads el).Completes i s t srcs s1 t1 := by
  rw [← shapeOf_conversionRule op f sources reads el pair] at he
  refine completes_of_runV h he (computes_packed ?_ ?_ rfl fun _ => rfl) fun _ => rfl
  · simp only [List.map_map]; rfl
  · simp only [List.map_map]; rfl

theorem vcvt_completes {f : VFields} {r : VRule} {s s1 : State} {t t1 : Team} {srcs : List Src}
    (hr : convertRule (.vcvt f) = some r) (h : r.Ready s t srcs s1 t1) : r.Completes (.vcvt f) s t srcs s1 t1 := by
  cases hr
  exact conversion_completes (pair := (fmtF f).wide) h rfl

/-- A second source gives VDEQ its scale: the source's format has no scale of its own, and vB names one (R175). -/
theorem deq_scaled (f : VFields) :
    (decide (srcF f ≠ .e2m1) && decide (f.vb ≠ 448)) = (!(srcF f == .e2m1) && !(f.vb == 448)) := by
  simp only [decide_not]; rfl

theorem scaleBytes_eq (f : VFields) (a : Fmt) (s : State) (t : Team) (srcs : List Src) (l : Nat) :
    scaleBytes f a s t srcs l = deqScale f a s t srcs l := by
  unfold scaleBytes deqScale
  by_cases ha : a = .e2m1
  · simp only [ha, if_true, beq_self_eq_true, nthSrc_eq]
    cases source srcs 0 <;> simp
  · simp [ha]; rfl

theorem vdeq_completes {f : VFields} {r : VRule} {s s1 : State} {t t1 : Team} {srcs : List Src}
    (hr : convertRule (.vdeq f) = some r) (h : r.Ready s t srcs s1 t1) : r.Completes (.vdeq f) s t srcs s1 t1 := by
  cases hr
  refine conversion_completes (pair := false) h ?_
  have hsources : ∀ b : Bool, (if b then [f.va.toNat, f.vb.toNat] else [f.va.toNat]) =
      f.va.toNat :: (if b then [f.vb.toNat] else []) := fun b => by cases b <;> rfl
  simp only [scaleBytes_eq, deq_scaled, hsources]
  exact rfl

/-! ## Block quantisation (R174) -/

theorem mem_distinct {α : Type} [DecidableEq α] (l : List α) (a : α) : a ∈ distinct l ↔ a ∈ l := by
  induction l with
  | nil => simp [distinct]
  | cons b l ih =>
    by_cases hab : a = b
    · simp [distinct, hab]
    · simp [distinct, hab, ih]

theorem nodup_distinct {α : Type} [DecidableEq α] (l : List α) : (distinct l).Nodup := by
  induction l with
  | nil => simp [distinct]
  | cons b l ih => simpa [distinct] using ih.filter _

/-- Each lane stands in one block. -/
theorem blocksOf_nodup (n : Nat) {lanes : List Nat} (h : lanes.Nodup) : (blocksOf n lanes).flatten.Nodup := by
  refine List.nodup_flatten.mpr ⟨fun b hb => ?_, ?_⟩
  · obtain ⟨k, -, rfl⟩ := List.mem_map.mp hb
    exact h.filter _
  · refine List.pairwise_map.mpr ((nodup_distinct _).imp fun {k k'} hk l hl hl' => hk ?_)
    simp only [List.mem_filter, beq_iff_eq] at hl hl'
    rw [← hl.2, hl'.2]

theorem mem_blocksOf (n : Nat) (lanes : List Nat) (l : Nat) : l ∈ (blocksOf n lanes).flatten ↔ l ∈ lanes := by
  simp only [blocksOf, List.mem_flatten, List.mem_map, mem_distinct]
  constructor
  · rintro ⟨b, ⟨k, -, rfl⟩, hl⟩
    exact List.mem_of_mem_filter hl
  · exact fun hl => ⟨_, ⟨l / n, ⟨l, hl, rfl⟩, rfl⟩, by simp [hl]⟩

section
variable (f : VFields) (d a : Fmt) (e : Nat) (s : State) (t : Team) (x : Src) (ls : List Nat)

/-- A block's results are its lanes' results joined. -/
theorem quantBlock_eq : ∃ B xs, quantBlock f d a e s t x ls =
    joinOut (ls.zipIdx.map fun p => quantLane f d a e s t B xs p.2 p.1) := ⟨_, _, rfl⟩

theorem quantBlock_counts : (quantBlock f d a e s t x ls).counts = [] := by
  obtain ⟨B, xs, hB⟩ := quantBlock_eq f d a e s t x ls
  rw [hB]
  exact List.flatMap_eq_nil_iff.mpr (List.forall_mem_map.mpr fun _ _ => rfl)

theorem quantBlock_scalars : (quantBlock f d a e s t x ls).scalars = [] := by
  obtain ⟨B, xs, hB⟩ := quantBlock_eq f d a e s t x ls
  rw [hB]
  exact List.flatMap_eq_nil_iff.mpr (List.forall_mem_map.mpr fun _ _ => rfl)

/-- A block takes as many draws in each of its lanes, and none under e2m1 (R61, R174). -/
theorem quantBlock_draws : (quantBlock f d a e s t x ls).draws =
    ls.map fun l => (l, if d = .e2m1 then 0 else rsrDraws t f e) := by
  obtain ⟨B, xs, hB⟩ := quantBlock_eq f d a e s t x ls
  conv_rhs => rw [← List.zipIdx_map_fst 0 ls, List.map_map]
  simp only [hB, joinOut, quantLane, List.flatMap_map, beq_iff_eq]
  exact List.map_eq_flatMap.symm

end

/-- The blocks' results joined. -/
theorem computes_blocks {r : VRule} {s : State} {t : Team} {srcs : List Src} {f : VFields} {d a : Fmt} {e n : Nat} {x : Src}
    (hresults : r.results s t srcs = ((blocksOf n t.lanes).map (quantBlock f d a e s t x)).flatMap VOut.writes)
    (hflags : r.flags s t srcs = (((blocksOf n t.lanes).map (quantBlock f d a e s t x)).flatMap VOut.flags).flatMap Prod.snd)
    (hscalars : r.scalars s t srcs = [])
    (hdraws : ∀ l, r.draws t l = if d = .e2m1 then 0 else rsrDraws t f e) :
    Computes r s t srcs (joinOut ((blocksOf n t.lanes).map (quantBlock f d a e s t x))) where
  results := by
    have : (joinOut ((blocksOf n t.lanes).map (quantBlock f d a e s t x))).counts = [] := by
      simp [joinOut, quantBlock_counts]
    rw [this, hresults, List.append_nil]; rfl
  flags := hflags.symm
  scalars := by simp [joinOut, quantBlock_scalars, hscalars]
  draws l := by
    have : (joinOut ((blocksOf n t.lanes).map (quantBlock f d a e s t x))).draws =
        (blocksOf n t.lanes).flatten.map fun l => (l, if d = .e2m1 then 0 else rsrDraws t f e) := by
      simp only [joinOut, List.flatMap_map, quantBlock_draws, List.map_flatten]
      rfl
    rw [this, getCtr_drew_each (blocksOf_nodup n t.lanes_nodup), hdraws]
    simp only [mem_blocksOf]

theorem vquant_completes {f : VFields} {r : VRule} {s s1 : State} {t t1 : Team} {srcs : List Src}
    (hr : convertRule (.vquant f) = some r) (h : r.Ready s t srcs s1 t1) : r.Completes (.vquant f) s t srcs s1 t1 := by
  cases hr
  refine completes_of_runV (pair := false) (weirs := true) h (compute := fun s v srcs lanes =>
    joinOut ((blocksOf (32 / cvtCount (fmtF f) (srcF f)) lanes).map fun ls =>
      quantBlock f (fmtF f) (srcF f) (cvtCount (fmtF f) (srcF f)) s v (nthSrc srcs 0) ls))
    ?_ (computes_blocks rfl rfl rfl fun _ => ?_) fun _ => rfl
  · show execVquant f s = _
    simp only [execVquant, cvtCycles_eq]
    rfl
  · by_cases hd : fmtF f = .e2m1
    · simp [hd]
    · simp [hd, rsrDraws, cvtCount]

/-! ## The largest magnitude (R176) -/

/-- The greatest of a first magnitude and others. -/
def largest (m : Val) (ms : List Val) : Val := ms.foldl (fun a b => if ltVal a b then b else a) m

theorem foldl_amax_some (ms : List (Option Val)) (m : Val) :
    ms.foldl amax (some m) = some (largest m (ms.filterMap id)) := by
  induction ms generalizing m with
  | nil => rfl
  | cons x ms ih =>
    cases x with
    | none => exact ih m
    | some b =>
      have hstep : amax (some m) (some b) = some (if ltVal m b then b else m) := by
        simp only [amax]; split <;> rfl
      rw [List.foldl_cons, hstep, ih]; rfl

/-- NaN and absent values leave no mark on the largest magnitude. -/
theorem foldl_amax_none (ms : List (Option Val)) :
    ms.foldl amax none = match ms.filterMap id with | [] => none | m :: r => some (largest m r) := by
  induction ms with
  | nil => rfl
  | cons x ms ih =>
    cases x with
    | none => exact ih
    | some b => exact foldl_amax_some ms b

theorem vamax_completes {f : VFields} {r : VRule} {s s1 : State} {t t1 : Team} {srcs : List Src}
    (hr : convertRule (.vamax f) = some r) (h : r.Ready s t srcs s1 t1) : r.Completes (.vamax f) s t srcs s1 t1 := by
  cases hr
  refine completes_of_runV (pair := false) (weirs := true) h rfl ?_ fun _ => rfl
  refine computes_slices ?_ rfl rfl fun _ => rfl
  simp only [foldl_amax_none, sliceRule, nthSrc_eq]
  generalize List.filterMap id _ = ms
  cases ms <;> rfl

/-! ## Reductions (R67, R68, R177, R178) -/

theorem keptElems_eq {s u : State} {t : Team} (hu : u = s ∨ t.lanes = []) (x : Src) (F : Fmt) :
    keptElems u t x F t.lanes = kept F s t x := by
  rcases hu with rfl | hl
  · rfl
  · simp [keptElems, kept, hl]

theorem floatSum_eq {s u : State} {t : Team} (hu : u = s ∨ t.lanes = []) (x : Src) (F A : Fmt) (m : Mode) :
    floatSum u t x F A m t.lanes = floatSum s t x F A m t.lanes := by
  rcases hu with rfl | hl
  · rfl
  · have : ∀ p, passLeaves u t x F A [] p = passLeaves s t x F A [] p := fun p => by simp [passLeaves]
    rw [hl, floatSum, floatSum, funext this]

theorem scalarForm_eq (f : VFields) : (f.fn.toNat / 32 % 2 == 1) = f.fn.getLsbD 5 := getLsbD_eq_digit f.fn 5

/-- A reduction that gives a result runs with its rule's destinations. -/
theorem runV_reduceDsts (sh : VShape) (op : Nat) (f : VFields) (G : Fmt) (out : State → Team → Src → Nat × Nat × BitVec 8)
    (compute : State → Team → List Src → List Nat → VOut) :
    runV sh (reduceDsts f) compute = runV sh (reductionRule op f G true out).dsts compute := by
  have : reduceDsts f = (reductionRule op f G true out).dsts := by
    simp only [reduceDsts, reductionRule, ← scalarForm_eq, beq_iff_eq, if_true]
  rw [this]

/-- A reduction's result, kept count and flags, put where they go. -/
def placed (f : VFields) (G : Fmt) (withResult : Bool) (o : Nat × Nat × BitVec 8) (lanes : List Nat) : VOut :=
  reduceOut f G o.1 o.2.1 withResult o.2.2 lanes

section
variable {op : Nat} {f : VFields} {G : Fmt} {withResult : Bool} {out : State → Team → Src → Nat × Nat × BitVec 8}

/-- They go where the rule puts them (R178). -/
theorem computes_placed (s : State) (t : Team) (srcs : List Src) :
    Computes (reductionRule op f G withResult out) s t srcs
      (placed f G withResult (out s t (source srcs 0)) t.lanes) where
  results := by
    simp only [placed, reduceOut, reductionRule, scalarForm_eq]
    cases f.fn.getLsbD 5 with
    | true => rfl
    | false => cases withResult <;> simp
  flags := by
    simp only [placed, reduceOut, reductionRule, scalarForm_eq]
    cases f.fn.getLsbD 5 <;> cases t.lanes <;> rfl
  scalars := by
    simp only [placed, reduceOut, reductionRule, scalarForm_eq]
    cases f.fn.getLsbD 5 <;> rfl
  draws l := by
    have : (placed f G withResult (out s t (source srcs 0)) t.lanes).draws = [] := by
      simp only [placed, reduceOut]; split <;> rfl
    simp [this, Team.drew, reductionRule]

/-- A reduction whose outcome over the active lanes, which with none of them no state bears on, is its rule's. -/
theorem reduction_completes {i : Instr} {pair : Bool} {dsts : List Nat} {s s1 : State} {t t1 : Team} {srcs : List Src}
    {compute : State → Team → List Src → List Nat → VOut}
    (h : (reductionRule op f G withResult out).Ready s t srcs s1 t1)
    (he : exec i s = issueV op f s (runV (reduceShape f pair) dsts compute))
    (hdsts : runV (reduceShape f pair) dsts compute =
      runV (reduceShape f pair) (reductionRule op f G withResult out).dsts compute)
    (hc : ∀ u, u = s ∨ t.lanes = [] →
      compute u t srcs t.lanes = placed f G withResult (out s t (source srcs 0)) t.lanes) :
    (reductionRule op f G withResult out).Completes i s t srcs s1 t1 := by
  rw [hdsts] at he
  refine completes_of_runV (pair := pair) (weirs := true) h he ?_ fun hl => ?_
  · rw [hc s (.inl rfl)]
    exact computes_placed s t srcs
  · rw [← hl, hc s1 (.inr hl)]
    exact (computes_placed s t srcs).scalars

end

theorem vradd_completes {f : VFields} {r : VRule} {s s1 : State} {t t1 : Team} {srcs : List Src}
    (hr : reduceRule (.vradd f) = some r) (h : r.Ready s t srcs s1 t1) : r.Completes (.vradd f) s t srcs s1 t1 := by
  cases hr
  refine reduction_completes h rfl (runV_reduceDsts ..) fun u hu => ?_
  have hsum : ∀ es : List Nat, es.foldl (fun (a : Int) e => a + (fmtF f).int e) 0 = (es.map (fmtF f).int).sum :=
    fun es => by rw [List.sum_eq_foldl, List.foldl_map]
  simp only [nthSrc_eq, keptElems_eq hu, floatSum_eq hu, hsum]
  cases (fmtF f).isIN with
  | false => rfl
  | true => cases kept (fmtF f) s t (source srcs 0) with
    | nil => simp [placed]
    | cons e es => simp [placed]

theorem extreme_eq (F : Fmt) (least : Bool) (es : List Nat) : extreme F least es = extremeOf F least es := by
  cases es with
  | nil => rfl
  | cons e es => rfl

theorem extreme_placed {s u : State} {t : Team} (hu : u = s ∨ t.lanes = []) (f : VFields) (least : Bool) (x : Src) :
    reduceOut f (fmtF f) (extreme (fmtF f) least (keptElems u t x (fmtF f) t.lanes))
      (keptElems u t x (fmtF f) t.lanes).length true 0 t.lanes =
    placed f (fmtF f) true
      (extremeOf (fmtF f) least (kept (fmtF f) s t x), (kept (fmtF f) s t x).length, 0) t.lanes := by
  rw [keptElems_eq hu, extreme_eq]
  rfl

theorem vrmin_completes {f : VFields} {r : VRule} {s s1 : State} {t t1 : Team} {srcs : List Src}
    (hr : reduceRule (.vrmin f) = some r) (h : r.Ready s t srcs s1 t1) : r.Completes (.vrmin f) s t srcs s1 t1 := by
  cases hr
  exact reduction_completes h rfl (runV_reduceDsts ..) fun u hu => extreme_placed hu f true _

theorem vrmax_completes {f : VFields} {r : VRule} {s s1 : State} {t t1 : Team} {srcs : List Src}
    (hr : reduceRule (.vrmax f) = some r) (h : r.Ready s t srcs s1 t1) : r.Completes (.vrmax f) s t srcs s1 t1 := by
  cases hr
  exact reduction_completes h rfl (runV_reduceDsts ..) fun u hu => extreme_placed hu f false _

/-! ## The destination of a count in the scalar form (R178) -/

/-- One register as destination neither stops an instruction nor takes a queue entry. -/
theorem runV_register {d : Nat} (hd : d < 384) (sh : VShape) (compute : State → Team → List Src → List Nat → VOut) :
    runV sh [d] compute = runV sh [] compute := by
  have hstop : ∀ t : Team, dstsStop t [d] = dstsStop t [] := fun t => by simp [dstsStop, dstStop, hd]
  have hpush : ∀ (t : Team) ls ws, pushesOf t ls ws [d] = pushesOf t ls ws [] := fun t ls ws => by simp [pushesOf, hd]
  funext s t v
  simp only [runV, hstop, finishV, hpush]

/-- The operands of an instruction whose checks pass are in their places (R103, order 4). -/
theorem operand_of_passes {s : State} {t : Team} {op : Nat} {f : VFields} (hc : checkV s t op f = none) :
    (chkV s t op f).operand = false := by
  unfold checkV at hc
  split at hc
  · cases hc
  · by_contra ho
    simp only [Chk.cause, Bool.not_eq_false] at hc ho
    simp only [ho, if_true] at hc
    repeat' split at hc
    all_goals cases hc

theorem vrcount_vd_lt {f : VFields} {s : State} {t : Team} (hc : checkV s t 0x053 f = none) (hf : f.fn.getLsbD 5 = true) :
    f.vd.toNat < 128 := by
  have hchk : chkV s t 0x053 f = chkReduce t 0x053 f := rfl
  have hoperand := operand_of_passes hc
  simp only [hchk, chkReduce, scalarForm_eq, hf, Chk.and, chkScalar, if_true, Bool.or_eq_false_iff,
    decide_eq_false_iff_not] at hoperand
  obtain ⟨-, hvd, -⟩ := hoperand
  omega

theorem vrcount_completes {f : VFields} {r : VRule} {s s1 : State} {t t1 : Team} {srcs : List Src}
    (hr : reduceRule (.vrcount f) = some r) (h : r.Ready s t srcs s1 t1) : r.Completes (.vrcount f) s t srcs s1 t1 := by
  cases hr
  refine reduction_completes h rfl ?_ fun u hu => ?_
  · cases hf : f.fn.getLsbD 5 with
    | true =>
      have hvd : f.vd.toNat < 128 := vrcount_vd_lt h.checks hf
      rw [runV_register (by omega)]
      simp only [reductionRule, hf, if_true]
    | false => simp only [reductionRule, hf]; rfl
  · simp only [nthSrc_eq, keptElems_eq hu]; rfl

/-! ## Running sums (R179) -/

/-- Sums and counts written in each active lane. -/
theorem computes_scan {r : VRule} {s : State} {t : Team} {srcs : List Src} {F : Fmt} {vd : Nat} {vc : BitVec 9}
    {outs : List (Nat × Nat × Nat × BitVec 8)}
    (hresults : r.results s t srcs = (outs.flatMap fun o => wordsAt vd o.1 (packElems F [o.2.1])) ++
      (if vc = 448 then [] else outs.map fun o => { reg := vc.toNat, lane := o.1, val := BitVec.ofNat 32 o.2.2.1 }))
    (hflags : r.flags s t srcs = outs.map fun o => o.2.2.2) (hscalars : r.scalars s t srcs = [])
    (hdraws : ∀ l, r.draws t l = 0) :
    Computes r s t srcs (joinOut (outs.map fun o =>
      { writes := wordsAt vd o.1 (packElems F [o.2.1])
        counts := if vc = 448 then [] else wordsAt vc.toNat o.1 [BitVec.ofNat 32 o.2.2.1]
        flags := [(o.1, [o.2.2.2])] })) where
  results := by
    rw [hresults]
    simp only [joinOut, List.flatMap_map]
    split
    · simp
    · rw [List.map_eq_flatMap]; rfl
  flags := by
    simp only [hflags, joinOut, List.flatMap_map, List.flatMap_assoc]
    rw [List.map_eq_flatMap]; simp
  scalars := by
    rw [hscalars]
    exact List.flatMap_eq_nil_iff.mpr (List.forall_mem_map.mpr fun _ _ => rfl)
  draws l := by
    rw [hdraws, show (joinOut _).draws = [] from List.flatMap_eq_nil_iff.mpr (List.forall_mem_map.mpr fun _ _ => rfl)]
    simp [Team.drew]

theorem vscan_completes {f : VFields} {r : VRule} {s s1 : State} {t t1 : Team} {srcs : List Src}
    (hr : reduceRule (.vscan f) = some r) (h : r.Ready s t srcs s1 t1) : r.Completes (.vscan f) s t srcs s1 t1 := by
  cases hr
  have hexcl : f.fn.getLsbD 0 = (f.fn.toNat % 2 == 1) := by
    rw [← getLsbD_eq_digit]; simp
  refine completes_of_runV (pair := (fmtF f).wide) (weirs := true) h rfl ?_ fun _ => rfl
  refine computes_scan ?_ ?_ rfl fun _ => rfl
  · rw [hexcl]; rfl
  · rw [hexcl]; rfl

/-! ## O13 -/

theorem conversionGivesItsResults : Claims.ConversionGivesItsResults := by
  intro s s1 t t1 i r srcs hr h
  unfold convertRule at hr
  split at hr
  · exact vcvt_completes hr h
  · exact vdeq_completes hr h
  · exact vquant_completes hr h
  · exact vamax_completes hr h
  · cases hr

theorem reductionGivesItsResults : Claims.ReductionGivesItsResults := by
  intro s s1 t t1 i r srcs hr h
  unfold reduceRule at hr
  split at hr
  · exact vradd_completes hr h
  · exact vrmin_completes hr h
  · exact vrmax_completes hr h
  · exact vrcount_completes hr h
  · exact vscan_completes hr h
  · cases hr

/-- Settles O13: each runs under its rule's shape and computes, over the active lanes, what its rule states. -/
theorem conversionAndReductionGiveTheirResults : Obligations.ConversionAndReductionGiveTheirResults :=
  ⟨conversionGivesItsResults, reductionGivesItsResults⟩

end Sys2Proof.Machine
end

section
/-! PROOFS. The refutation of O21: CPY under a reserved SFMT code, which the statement takes for an element of one byte and
the engine for one of two (R199). -/

namespace Sys2Proof.Machine.ReservedSfmt

open Sys2Proof.Claims

/-- CPY of one byte from s[10] to s[11], its length in LIT, FMT f32, and SFMT 4, which R199 does not assign and
the decoder refuses (R103 order 1). -/
def word : VFields := { vd := 11, va := 10, vb := 448, vc := 0, fmt := 8, md := 0, fn := 4, lit := some 1 }

/-- A team in a clause, with a segment G from 0 on, at a copy between 0x2000 and 0x3000. -/
def copier : Team :=
  { tid := mkHandle 0 0 0 1, ctx := 0, lid := 1, plot := 1, index := 0, width := 32, regs := 64, run := .active, pc := 0x1000
    clause := some { addr := 0x1000, hdr := 0, body := [0, 0] }
    s := [(10, 0x2000), (11, 0x3000)], segs := [(0, { base := 0, limit := 0x10000 })] }

/-- The machine in which that team issues. -/
def state : State := { State.reset with cur := copier.tid, teams := [copier] }

/-- The statement's reading of the word: one row of one byte. -/
def rule : CRule := { op := 0x110, f := word, rows := 1, rowLen := 1, srcPitch := 0, dstPitch := 0 }

theorem copyRule_word : copyRule copier (.cpy word) = some rule := rfl

theorem ready : rule.Ready state copier where
  poised := by decide +kernel
  checks := by decide +kernel
  noFault := rfl
  some := by decide
  source := by decide +kernel
  target := by decide +kernel
  word := by decide +kernel

/-- One byte is no whole number of the engine's two-byte elements: the instruction traps, and no copy is handed over. -/
theorem exec_word : exec (.cpy word) state = .next (state.illegal copier) := by
  have hc : checkV state copier 0x110 word = none := ready.checks
  rw [exec, execCpy, copyInsn, issueV_passes ((poised_iff ..).mp ready.poised) _ _ _ hc]
  rfl

theorem copies_illegal : (state.illegal copier).copies = [] := by decide +kernel

end Sys2Proof.Machine.ReservedSfmt

namespace Sys2Proof.Machine

/-- Refutes O21: under SFMT 4 the statement counts one byte as one element, where the engine's elements are of two bytes,
so that CPY of one byte traps ILLEGAL_OPERAND and hands nothing over. -/
theorem not_copyIsHandedOverAndMoves : ¬ Obligations.CopyIsHandedOverAndMoves := by
  rintro ⟨hissue, -⟩
  obtain ⟨s', k, hexec, hs', -⟩ := (hissue _ _ _ _ ReservedSfmt.copyRule_word).1 ReservedSfmt.ready
  rw [ReservedSfmt.exec_word] at hexec
  have hcopies : ([] : List Copy) = [] ++ [k] :=
    ReservedSfmt.copies_illegal.symm.trans (congrArg State.copies ((Host.Outcome.next.inj hexec).trans hs'))
  simp at hcopies

end Sys2Proof.Machine
end

section
/-! PROOFS. The refutation of O34: an UNBALE at stage 2 of its work, which is a stage of BALE alone (R253, R254). -/

namespace Sys2Proof.Machine.UnbaleAtCommit

open Sys2Proof.Claims

/-- The team whose command it is. -/
def origin : Origin :=
  { tid := mkHandle 0 0 0 1, ctx := 0, lid := 1, core := 0, plot := 1, pc := 0x1000, iword := 0, lit := 0, issue := 0 }

/-- An UNBALE of no rows, without a completion word, that stands where a BALE would rewrite its commit word. -/
def command : Bale := { id := 1, origin, unbale := true, fresh := true, fmt := 8, block := 0x6000, fields := [], stage := 2 }

/-- A leaf that maps the first 2 GiB onto themselves for reads and writes. -/
def leaf : TlbEntry := { ctx := 0, va := 0, size := 0x80000000, pa := 0, flags := 0x1F }

/-- The baler is asked for one piece of the command's work. -/
def state : State :=
  { State.reset with
    bales := [command], cores := [(0, { first := [(0, [leaf])] })], arg := { a := 1, b := 1 } }

theorem stands {va : Nat} (h : va < 0x80000000) {acc : Acc} (hacc : acc = .read ∨ acc = .write) :
    byteStands state origin va acc va := by
  refine ⟨⟨leaf, false, ?_, ?_⟩, fun _ => rfl⟩
  · have hfirst : state.firstTlb origin.port = [leaf] := by decide +kernel
    rw [hfirst]
    simp [tlbFind, leaf, origin, h]
  · have hmod : paModule va = 0 := Nat.div_eq_of_lt (by omega)
    have hloc : paLocal va = va := Nat.mod_eq_of_lt (by omega)
    have hhbm : localHbm va = true := by simp [localHbm]; omega
    have hhost : localHost va = false := by simp [localHost]; omega
    have hown : state.moduleNumber = 0 := rfl
    rcases hacc with rfl | rfl <;>
      simp [leafCheck, leaf, hmod, hloc, hhbm, hhost, hown, State.inDomain, State.reachable]

theorem uses_low {va : Nat} (h : baleUses command va) : va < 0x80000000 := by
  have hblock : command.block + 56 + 8 ≤ 0x80000000 := by decide
  rcases h with ⟨r, hr, -⟩ | ⟨i, hi, -⟩ | ⟨-, h⟩ | ⟨h, -⟩ | ⟨-, h⟩
  · exact absurd hr (Nat.not_lt_zero r)
  · exact absurd hi (Nat.not_lt_zero i)
  · exact Nat.lt_of_lt_of_le h (by decide)
  · exact absurd rfl h
  · exact Nat.lt_of_lt_of_le h hblock

theorem runs : BaleRuns state command id where
  found := rfl
  begun := ⟨rfl, by decide⟩
  ready := by decide +kernel
  piece := ⟨rfl, rfl⟩
  untagged := rfl
  order a b _ := Nat.add_comm a b
  stands va h := ⟨stands (uses_low h) (.inl rfl), stands (uses_low h) (.inr rfl)⟩
  counts h := absurd rfl h
  pointers _ r hr := absurd hr (Nat.not_lt_zero r)

/-- The statement takes every stage of UNBALE but 0, 1 and 4 for its last piece, after which the command is gone. -/
theorem unpackRule_command (rd : Nat → Nat → List Byte) :
    unpackRule { command with asked := false } rd = ({ command with stage := 6 }, []) := rfl

/-- The engine rewrites the commit word, and the command stands before its pointers. -/
theorem exec_command : ∃ s', exec .unbaleComplete state = .next s' ∧
    (s'.bales.find? fun x => x.id == command.id) = some { command with stage := 3 } :=
  ⟨baleEvent true state, rfl, by decide +kernel⟩

end Sys2Proof.Machine.UnbaleAtCommit

namespace Sys2Proof.Machine

open UnbaleAtCommit in
/-- Refutes O34: an UNBALE that stands at stage 2 goes on to stage 3, where the statement has it finished. -/
theorem not_balerTakesCommandsAndWorks : ¬ Obligations.BalerTakesCommandsAndWorks := by
  rintro ⟨-, hworks, -⟩
  obtain ⟨s', hexec, -, -, hgone⟩ := hworks state command { command with stage := 6 } id [] .unbaleComplete runs
    (.inr ⟨rfl, rfl, (unpackRule_command _).symm⟩)
  obtain ⟨s'', hexec', hstands⟩ := exec_command
  obtain rfl : s' = s'' := Host.Outcome.next.inj (hexec.symm.trans hexec')
  rw [hstands] at hgone
  simp at hgone

end Sys2Proof.Machine
end

section
/-! PROOFS. Memory instructions as they issue (R186 to R192, R202): what each lane sends and where, the traps of R188, and the operation that starts; O16. -/

namespace Sys2Proof.Machine

open Sys2Proof.Claims

/-! ## The instruction's shape and its lanes' offsets (R186) -/

/-- The shape under which the instructions of a memory rule issue. -/
def memShape (r : MRule) (weirs : List Nat) : MemShape :=
  { op := r.op, kind := r.kind, scalar := r.scalar, strided := r.strided, weirs }

theorem exec_memoryRule {i : Instr} {r : MRule} (h : memoryRule i = some r) :
    ∃ weirs, ∀ s, exec i s = memInsn (memShape r weirs) r.f s := by
  cases i
  all_goals cases h
  all_goals exact ⟨_, fun _ => rfl⟩

/-- A register's word as a signed number, in the low 32 bits or as a dword. -/
theorem sext_word (x : Word) : sext 32 x.toNat = x.signExtend 64 := by
  have h := disp_eq { vd := 0, va := 0, vb := 0, vc := 0, fmt := 0, md := 0, fn := 0, lit := some x }
  exact h

theorem memOff_eq (t : Team) (f : VFields) (strided : Bool) (l : Nat) :
    memOff t f strided l = offsetOf f t false strided l := by
  simp only [memOff, memBase, offsetOf, disp_eq, sext_word, dw, Bool.false_eq_true, if_false]

theorem scalarOff_eq_offsetOf (t : Team) (f : VFields) (strided : Bool) (l : Nat) :
    scalarOff t f = offsetOf f t true strided l := by
  simp [scalarOff, memBase, offsetOf, disp_eq]

/-! ## Access sizes (R187) -/

/-- The combination of an instruction whose checks pass is not reserved (R103, order 5). -/
theorem combo_of_passes {s : State} {t : Team} {op : Nat} {f : VFields} (hc : checkV s t op f = none) :
    (chkV s t op f).combo = false := by
  unfold checkV at hc
  split at hc
  · cases hc
  · by_contra ho
    simp only [Chk.cause, Bool.not_eq_false] at hc ho
    simp only [ho, if_true] at hc
    repeat' split at hc
    all_goals cases hc

/-- SLD and SST have no WIDTH 1 (R187). -/
theorem scalarSize_eq {s : State} {t : Team} {op : Nat} {f : VFields} (hop : op = 0x104 ∨ op = 0x105)
    (hc : checkV s t op f = none) : accessBytes op f = (fmtF f).width / 8 := by
  have hwidth : mWidth f ≠ 1 := by
    have hchk : chkV s t op f = chkMemory s t op f := by rcases hop with rfl | rfl <;> rfl
    have hcombo := combo_of_passes hc
    rcases hop with rfl | rfl <;> simp_all [chkMemory, Chk.and]
  have h64 : f.fmt = 15 → (fmtF f).width = 64 := by
    intro hf
    simp only [fmtF, hf]
    generalize mW64 f = n
    rcases n with _ | _ | _ | n <;> rfl
  unfold accessBytes
  rw [if_neg hwidth]
  split
  · rename_i hf
    rw [h64 hf]
  · rfl

theorem accessBytes_eq {i : Instr} {r : MRule} (h : memoryRule i = some r) {s : State} {t : Team}
    (hc : checkV s t r.op r.f = none) : accessBytes r.op r.f = r.size := by
  cases i
  all_goals cases h
  case sld.refl f => exact scalarSize_eq (.inl rfl) hc
  case sst.refl f => exact scalarSize_eq (.inr rfl) hc
  all_goals rfl

/-! ## What a lane sends (R192, R202) -/

/-- The access of a lane, as the operation starts with it. -/
def startAccess (r : MRule) (t : Team) (l : Nat) : LaneAcc :=
  { lane := l, addr := addressOf r.f t r.scalar r.strided l, x := r.operand t l 0, y := r.operand t l 1
    bytes := r.bytes t l
    pieces := (sectors (addressOf r.f t r.scalar r.strided l) r.size).map fun p =>
      { off := p.1 - addressOf r.f t r.scalar r.strided l, len := p.2 } }

theorem shapeOff_eq (r : MRule) (t : Team) (l : Nat) :
    (if r.scalar then scalarOff t r.f else memOff t r.f r.strided l) = offsetOf r.f t r.scalar r.strided l := by
  cases h : r.scalar with
  | true => exact scalarOff_eq_offsetOf t r.f r.strided l
  | false => exact memOff_eq t r.f r.strided l

/-- No memory rule is PROBE's. -/
theorem kind_of_memoryRule {i : Instr} {r : MRule} (h : memoryRule i = some r) :
    r.kind = .load ∨ r.kind = .store ∨ r.kind = .atomic ∨ r.kind = .red ∨ r.kind = .amaxswap := by
  cases i
  all_goals cases h
  all_goals simp

theorem laneData_eq (r : MRule) (weirs : List Nat) (t : Team) (l : Nat) :
    laneData (memShape r weirs) r.f t l r.size = (r.operand t l 0, r.operand t l 1, r.bytes t l) := by
  unfold laneData MRule.operand MRule.bytes memShape
  cases r.kind <;> cases r.scalar <;> simp [dw, Team.dataBytes, laneBytes]

theorem laneAccess_eq (r : MRule) (weirs : List Nat) (t : Team) (l : Nat) :
    laneAccess (memShape r weirs) r.f t t r.size l = (offsetOf r.f t r.scalar r.strided l, startAccess r t l) := by
  have hoff : (if (memShape r weirs).scalar then scalarOff t r.f else memOff t r.f (memShape r weirs).strided l) =
      offsetOf r.f t r.scalar r.strided l := shapeOff_eq r t l
  simp only [laneAccess, laneData_eq, mkLane, hoff, segAddr]
  rfl

/-! ## What the shape does (R189, R192) -/

section
variable {i : Instr} {r : MRule} (hi : memoryRule i = some r) (weirs : List Nat)
include hi

theorem memShape_writes : (memShape r weirs).writes = r.writes := by
  rcases kind_of_memoryRule hi with h | h | h | h | h <;> simp [MemShape.writes, MRule.writes, memShape, h]

theorem memShape_atomic : (memShape r weirs).atomic = r.isAtomic := by
  rcases kind_of_memoryRule hi with h | h | h | h | h <;> simp [MemShape.atomic, MRule.isAtomic, memShape, h]

theorem memReads_memShape : memReads (memShape r weirs) r.f r.size =
    (if r.scalar ∨ r.strided ∨ r.f.va = 448 then [] else [r.f.va.toNat]) ++
      (if r.scalar ∨ r.kind = .load ∨ r.kind = .amaxswap then []
       else (List.range (r.size / 4)).map fun i => r.f.vd.toNat + i) := by
  rcases kind_of_memoryRule hi with h | h | h | h | h <;> cases hs : r.scalar <;>
    simp [memReads, MemShape.sends, memShape, h, hs, or_comm]
end

/-! ## Nothing keeps it from its checks -/

/-- The lanes' offsets, as the checks of R188 see them. -/
def startOffsets (r : MRule) (t : Team) : List (Nat × Dword) :=
  (r.lanes t).map fun l => (l, offsetOf r.f t r.scalar r.strided l)

/-- The operation that starts, with the next identifier. -/
def startedOp (r : MRule) (weirs : List Nat) (s : State) (t : Team) : MemOp :=
  mkOp (memShape r weirs) r.f { s with nextId := s.nextId + 1 } t s.nextId r.size ((r.lanes t).map (startAccess r t))

/-- A memory instruction that nothing keeps back: a trap of R188, a store's fault under `.pstore` (R198), or the start. -/
def startOrTrap (r : MRule) (weirs : List Nat) (s : State) (t : Team) : State :=
  match memTrap s t (mSeg r.f) r.size r.isAtomic r.writes (startOffsets r t) with
  | some x => s.takeTrap t x
  | none =>
    let bad := if r.kind == .store && hPstore (s.header t) && mSeg r.f != 1 then
      storeFaults s t ((r.lanes t).map (startAccess r t)) else []
    match bad with
    | b :: _ => s.trap t cStoreFault b.2.1 (dw (lowest (bad.map fun x => x.2.2))) (maskOf (bad.map Prod.fst))
    | [] => State.startOp { s with nextId := s.nextId + 1 } t (startedOp r weirs s t)

section
variable {s : State} {t : Team} {i : Instr} {r : MRule} (hi : memoryRule i = some r) (h : r.Ready s t)
include hi h

theorem exec_noLane (hl : r.lanes t = []) : exec i s = .next (s.retire t) := by
  obtain ⟨weirs, hexec⟩ := exec_memoryRule hi
  have hc : checkV s t (memShape r weirs).op r.f = none := h.checks
  have hlanes : (if (memShape r weirs).scalar then [0] else t.lanes) = [] := hl
  rw [hexec, memInsn, issueV_passes ((poised_iff ..).mp h.poised) _ _ _ hc]
  simp only [hlanes, List.isEmpty_nil, if_true]

/-- With an active lane nothing stands before the checks of R188. -/
theorem exec_lanes (hl : r.lanes t ≠ []) : ∃ weirs, exec i s = .next (startOrTrap r weirs s t) := by
  obtain ⟨weirs, hexec⟩ := exec_memoryRule hi
  have hp := (poised_iff ..).mp h.poised
  have hc : checkV s t (memShape r weirs).op r.f = none := h.checks
  have hlanes : (if (memShape r weirs).scalar then [0] else t.lanes) = r.lanes t := rfl
  have hsize : accessBytes (memShape r weirs).op r.f = r.size := accessBytes_eq hi h.checks
  have hempty : (r.lanes t).isEmpty = false := by simpa using hl
  have hrelease : (decide (2 ≤ mOrd r.f) && !s.releaseReady t (mScope r.f)) = false := by
    simpa using h.release
  have hroom : (r.writes && mSeg r.f != 1 && decide (bufferSize ≤ (s.core (coreOf t.tid)).buffer.length)) = false := by
    have hfree : r.writes = true → mSeg r.f ≠ 1 → ¬ bufferSize ≤ (s.core (coreOf t.tid)).buffer.length :=
      fun hw hs => Nat.not_le.mpr (h.room hw hs)
    simpa only [Bool.and_eq_false_imp, Bool.and_eq_true, bne_iff_ne, decide_eq_false_iff_not, and_imp] using hfree
  have hpick : ((r.lanes t).map (laneAccess (memShape r weirs) r.f t t r.size)).filter
      (fun a => (r.lanes t).contains a.2.lane) =
      (r.lanes t).map fun l => (offsetOf r.f t r.scalar r.strided l, startAccess r t l) := by
    rw [funext (laneAccess_eq r weirs t), List.filter_eq_self]
    simp [startAccess]
  refine ⟨weirs, ?_⟩
  rw [hexec, memInsn, issueV_passes hp _ _ _ hc]
  simp only [hlanes, hsize, hempty, h.noFault, memReads_memShape hi, h.clean, hrelease, memShape_writes hi,
    memShape_atomic hi, hroom, Option.isSome_none, Bool.false_eq_true, if_false]
  rw [underWeirs_off hp.weirs hp.mark hp.here rfl]
  simp only [hpick, List.isEmpty_map, hempty, Bool.false_eq_true, if_false, List.map_map]
  rfl
end

/-! ## The checks of R188 -/

section
variable (r : MRule) (t : Team)

theorem offsets_past_limit : (startOffsets r t).filter (fun p => !limitOk t (mSeg r.f) p.2 r.size) =
    ((r.lanes t).filter (r.passes t)).map fun l => (l, offsetOf r.f t r.scalar r.strided l) := by
  rw [startOffsets, List.filter_map]
  refine congrArg _ (List.filter_congr fun l _ => ?_)
  simp [limitOk, MRule.passes, ← decide_not]

theorem offsets_misaligned :
    (startOffsets r t).filter (fun p => decide ((segAddr t (mSeg r.f) p.2).toNat % r.size ≠ 0)) =
      ((r.lanes t).filter (r.misaligned t)).map fun l => (l, offsetOf r.f t r.scalar r.strided l) := by
  rw [startOffsets, List.filter_map]
  rfl

theorem limitTrap_within (h : (r.lanes t).filter (r.passes t) = []) :
    limitTrap t (mSeg r.f) r.size (startOffsets r t) = none := by
  simp only [limitTrap, offsets_past_limit, h, List.map_nil]

theorem limitTrap_past {l : Nat} {ls : List Nat} (h : (r.lanes t).filter (r.passes t) = l :: ls) :
    limitTrap t (mSeg r.f) r.size (startOffsets r t) =
      if mSeg r.f = 1 then
        some { cause := cScratch, detail := 1, info := offsetOf r.f t r.scalar r.strided l, mask := maskOf (l :: ls) }
      else some { cause := cSegLimit, detail := mSeg r.f, info := offsetOf r.f t r.scalar r.strided l } := by
  simp only [limitTrap, offsets_past_limit, h, List.map_cons, List.map_map, Function.comp_def, List.map_id']

theorem alignTrap_aligned (h : (r.lanes t).filter (r.misaligned t) = []) :
    alignTrap t (mSeg r.f) r.size (startOffsets r t) = none := by
  simp only [alignTrap, offsets_misaligned, h, List.map_nil]

theorem alignTrap_misaligned {l : Nat} {ls : List Nat} (h : (r.lanes t).filter (r.misaligned t) = l :: ls) :
    alignTrap t (mSeg r.f) r.size (startOffsets r t) =
      some { cause := cMisaligned, detail := mSeg r.f
             info := dw (lowest ((l :: ls).map (addressOf r.f t r.scalar r.strided))), mask := maskOf (l :: ls) } := by
  simp only [alignTrap, offsets_misaligned, h, List.map_cons, List.map_map, Function.comp_def, List.map_id']
  rfl
end

theorem foldl_min_spec (ls : List Nat) (a : Nat) :
    (ls.foldl min a = a ∨ ls.foldl min a ∈ ls) ∧ ls.foldl min a ≤ a ∧ ∀ b ∈ ls, ls.foldl min a ≤ b := by
  induction ls generalizing a with
  | nil => simp
  | cons b ls ih =>
    obtain ⟨hmem, hle, hall⟩ := ih (min a b)
    simp only [List.foldl_cons, List.mem_cons, forall_eq_or_imp]
    refine ⟨?_, by omega, by omega, hall⟩
    rcases hmem with h | h
    · rcases Nat.le_total a b with hab | hab
      · exact .inl (by rw [h, Nat.min_eq_left hab])
      · exact .inr (.inl (by rw [h, Nat.min_eq_right hab]))
    · exact .inr (.inr h)

/-- The lowest of some numbers is one of them and at most each of them. -/
theorem lowest_spec (a : Nat) (ls : List Nat) : lowest (a :: ls) ∈ a :: ls ∧ ∀ b ∈ a :: ls, lowest (a :: ls) ≤ b := by
  obtain ⟨hmem, hle, hall⟩ := foldl_min_spec ls a
  refine ⟨List.mem_cons.mpr hmem, ?_⟩
  simp only [List.mem_cons, forall_eq_or_imp]
  exact ⟨hle, hall⟩

section
variable {s : State} {t : Team} {r : MRule} {weirs : List Nat}

theorem startOrTrap_traps {x : TrapInfo}
    (hx : memTrap s t (mSeg r.f) r.size r.isAtomic r.writes (startOffsets r t) = some x) :
    startOrTrap r weirs s t = s.takeTrap t x := by
  simp only [startOrTrap, hx]

theorem startOrTrap_starts (hx : memTrap s t (mSeg r.f) r.size r.isAtomic r.writes (startOffsets r t) = none)
    (hp : r.kind = .store → mSeg r.f ≠ 1 → hPstore (s.header t) = false) :
    startOrTrap r weirs s t = State.startOp { s with nextId := s.nextId + 1 } t (startedOp r weirs s t) := by
  have hbad : (r.kind == .store && hPstore (s.header t) && mSeg r.f != 1) = false := by
    by_contra hb
    simp only [Bool.not_eq_false, Bool.and_eq_true, beq_iff_eq, bne_iff_ne] at hb
    obtain ⟨⟨hk, hps⟩, hs⟩ := hb
    rw [hp hk hs] at hps
    cases hps
  simp only [startOrTrap, hx, hbad, Bool.false_eq_true, if_false]
end

/-! ## An operation starts (R84, R113) -/

theorem Team.gone_withMark (t : Team) (x : Sparse Flag) (m : Nat) :
    ({ t with flags := x, lastMark := m } : Team).gone = { t.gone with flags := x, lastMark := m } := by
  simp only [Team.gone, Team.advance]
  split
  · rfl
  · split <;> rfl

theorem Team.raiseCount_eq (t : Team) (n : Option Nat) : t.raiseCount n = { t with flags := (t.raiseCount n).flags } := by
  cases n <;> rfl

/-- Going on to the next instruction leaves the flags, so that a count is raised before it or after. -/
theorem Team.gone_raised_flags (t : Team) (n : Option Nat) : (t.gone.raiseCount n).flags = (t.raiseCount n).flags := by
  have hgone : t.gone.flags = t.flags := by simp [Team.gone]
  cases n with
  | none => exact hgone
  | some n => simp only [Team.raiseCount, Team.modFlag, Team.flag, hgone]

theorem retire_marked {t : Team} (hq : Quiet t) (s : State) (n : Option Nat) (m : Nat) :
    s.retire ({ t with lastMark := m }.raiseCount n) = s.setTeam { t.gone.raiseCount n with lastMark := m } := by
  have hu : { t with lastMark := m }.raiseCount n = { t with flags := (t.raiseCount n).flags, lastMark := m } := by
    cases n <;> rfl
  rw [hu, t.gone.raiseCount_eq n, t.gone_raised_flags n]
  rw [← t.gone_withMark (t.raiseCount n).flags m]
  exact retire_quiet s _ hq.late hq.stepping hq.stays hq.yields

theorem startOp_eq (s : State) (t : Team) (o : MemOp) : ∃ (c b : Bool) (ps : List (Nat × Nat)), s.startOp t o =
    let s1 := (if c then s.countPerf (coreOf t.tid) t.ctx 11 o.bankCycles else s).noteWrites t.tid b ps
    { s1 with ops := s1.ops ++ [o] }.retire ({ t with lastMark := max t.lastMark o.mark }.raiseCount o.flag) :=
  ⟨_, _, _, rfl⟩

/-- A poised team starts an operation: beside the operation and the team, counters of bank cycles alone differ (R281). -/
theorem startOp_poised {s : State} {t : Team} (hp : Poised s t) (o : MemOp) :
    ∃ w, CountsOnly (coreOf t.tid) s w ∧ s.startOp t o =
      { w with ops := s.ops ++ [o] }.setTeam { t.gone.raiseCount o.flag with lastMark := max t.lastMark o.mark } := by
  obtain ⟨c, b, ps, hstart⟩ := startOp_eq s t o
  generalize hw : (if c then s.countPerf (coreOf t.tid) t.ctx 11 o.bankCycles else s) = w at hstart
  have hcounts : CountsOnly (coreOf t.tid) s w := by
    subst hw
    split
    · exact countPerf_countsOnly ..
    · exact .refl _ s
  have hnotes : w.noteWrites t.tid b ps = w := by
    refine noteWrites_noLoads ?_ ?_ b ps
    · rw [hcounts.frame]; exact hp.loads
    · rw [hcounts.frame]; exact hp.rputs
  have hops : w.ops = s.ops := by rw [hcounts.frame]
  refine ⟨w, hcounts, ?_⟩
  rw [hstart, hnotes, ← hops]
  exact retire_marked hp.quiet _ o.flag (max t.lastMark o.mark)

/-! ## O16 -/

section
variable {s : State} {t : Team} {i : Instr} {r : MRule} (hi : memoryRule i = some r) (h : r.Ready s t)
include hi h

/-- With an active lane, a trap of R188 is the instruction's whole effect. -/
theorem exec_memTrap (hl : r.lanes t ≠ []) {cause detail : Nat} {info : Dword} {mask : LaneMask}
    (hx : memTrap s t (mSeg r.f) r.size r.isAtomic r.writes (startOffsets r t) = some { cause, detail, info, mask }) :
    exec i s = .next (s.trap t cause detail info mask) := by
  obtain ⟨weirs, hexec⟩ := exec_lanes hi h hl
  rw [hexec, startOrTrap_traps hx]
  rfl
end

theorem lanes_ne_nil {r : MRule} {t : Team} {p : Nat → Bool} {l : Nat} {ls : List Nat}
    (h : (r.lanes t).filter p = l :: ls) : r.lanes t ≠ [] := by
  intro hn
  simp [hn] at h

theorem memoryInstructionTrapsBeforeAnyEffect : Claims.MemoryInstructionTrapsBeforeAnyEffect := by
  intro s t i r hi h
  refine ⟨fun l ls hl => ⟨fun hseg => ?_, fun hseg => ?_⟩, fun hin hatomic l ls hl => ?_,
    fun hin haligned hwrites hseg hsup l ls hl => ?_⟩
  · refine exec_memTrap hi h (lanes_ne_nil hl) ?_
    simp only [memTrap, limitTrap_past r t hl, if_pos hseg]
    rfl
  · refine exec_memTrap hi h (lanes_ne_nil hl) ?_
    simp only [memTrap, limitTrap_past r t hl, if_neg hseg]
    rfl
  · obtain ⟨hmem, hleast⟩ := lowest_spec (addressOf r.f t r.scalar r.strided l) (ls.map (addressOf r.f t r.scalar r.strided))
    refine ⟨_, hmem, hleast, exec_memTrap hi h (lanes_ne_nil hl) ?_⟩
    simp only [memTrap, limitTrap_within r t hin, hatomic, if_true, alignTrap_misaligned r t hl]
    rfl
  · have halign : (if r.isAtomic then alignTrap t (mSeg r.f) r.size (startOffsets r t) else none) = none := by
      split
      · exact alignTrap_aligned r t (haligned ‹_›)
      · rfl
    have hwrite : (r.writes && mSeg r.f == 3 && !s.isSup t) = true := by simp [hwrites, hseg, hsup]
    have hoff : ((startOffsets r t).map Prod.snd).headD 0 = offsetOf r.f t r.scalar r.strided l := by
      simp [startOffsets, hl]
    refine exec_memTrap hi h (by rw [hl]; exact List.cons_ne_nil l ls) ?_
    simp only [memTrap, limitTrap_within r t hin, halign, hwrite, hoff, if_true]
    rfl

/-- The next identifier is no part of what lets a team issue. -/
theorem Poised.withNextId {s : State} {t : Team} (h : Poised s t) (n : Nat) : Poised { s with nextId := n } t :=
  ⟨h.team, h.clause, h.may, h.divide, h.datapath, h.hadamard, h.loads, h.runs, h.weirs, h.late, h.stepping, h.stays,
    h.yields, h.rputs, h.mark⟩

/-- The flag that an operation's end lowers is FLAGA where a value comes back (R113, R190). -/
theorem startedOp_flag {i : Instr} {r : MRule} (hi : memoryRule i = some r) (weirs : List Nat) (s : State) (t : Team) :
    (startedOp r weirs s t).flag = if r.returns then t.flagA else none := by
  rcases kind_of_memoryRule hi with h | h | h | h | h <;>
    simp [startedOp, mkOp, MRule.returns, memShape, h]

/-- What an operation's faults and its release wait behind (R196, R309). -/
theorem startedOp_mark {i : Instr} {r : MRule} (hi : memoryRule i = some r) (weirs : List Nat) (s : State) (t : Team) :
    (startedOp r weirs s t).mark =
      if r.isAtomic ∨ 2 ≤ mOrd r.f then s.releaseMark t (decide (2 ≤ mOrd r.f)) (mScope r.f) else 0 := by
  simp only [startedOp, mkOp, memShape_atomic hi, Bool.or_eq_true, decide_eq_true_eq]
  rfl

theorem memoryInstructionStartsItsOperation : Claims.MemoryInstructionStartsItsOperation := by
  intro s t i r hi h
  have hp := (poised_iff ..).mp h.poised
  refine ⟨fun hl => ?_, fun hl hin haligned hsup hpstore => ?_⟩
  · exact (exec_noLane hi h hl).trans (congrArg _ (retire_poised hp))
  obtain ⟨weirs, hexec⟩ := exec_lanes hi h hl
  have hpass : memTrap s t (mSeg r.f) r.size r.isAtomic r.writes (startOffsets r t) = none := by
    have hlimit := limitTrap_within r t (List.filter_eq_nil_iff.mpr fun l hl => by simp [hin l hl])
    have halign : (if r.isAtomic then alignTrap t (mSeg r.f) r.size (startOffsets r t) else none) = none := by
      split
      · rename_i ha
        exact alignTrap_aligned r t (List.filter_eq_nil_iff.mpr fun l hl => by simp [haligned ha l hl])
      · rfl
    have hwrite : (r.writes && mSeg r.f == 3 && !s.isSup t) = false := by
      simpa using hsup
    simp only [memTrap, hlimit, halign, hwrite, Bool.false_eq_true, if_false]
  obtain ⟨w, hw, hstart⟩ := startOp_poised (hp.withNextId (s.nextId + 1)) (startedOp r weirs s t)
  rw [startOrTrap_starts hpass hpstore, hstart, startedOp_flag hi] at hexec
  have hteams : w.teams = s.teams := by rw [hw.frame]
  have hgone : t.gone.tid = t.tid := by simp [Team.gone]
  have hid : ({ t.gone.raiseCount (if r.returns then t.flagA else none) with
      lastMark := max t.lastMark (startedOp r weirs s t).mark } : Team).tid = t.tid := by
    rw [Team.raiseCount_eq]
    exact hgone
  refine ⟨_, startedOp r weirs s t, hexec, ?_, hw.perf, ?_, startedOp_mark hi weirs s t, fun k hk => ?_, rfl, rfl, rfl,
    rfl, rfl, rfl, rfl, rfl, rfl, rfl, startedOp_flag hi weirs s t, rfl, rfl⟩
  · rw [hw.frame]
    rfl
  · have hhere : w.team? t.tid = some t := by rw [State.team?, hteams]; exact hp.here
    exact team?_setTeam_at (s := { w with ops := s.ops ++ [startedOp r weirs s t] }) hhere hid
  · refine (State.team?_setTeam_ne _ _ (hid.symm ▸ hk)).trans ?_
    simp only [State.team?, hteams]

/-- Settles O16: the lanes' accesses are those of R186 and R192, and the checks of R188 stand before the start. -/
theorem memoryInstructionIssuesOrTraps : Obligations.MemoryInstructionIssuesOrTraps :=
  ⟨memoryInstructionStartsItsOperation, memoryInstructionTrapsBeforeAnyEffect⟩

end Sys2Proof.Machine
end

section
/-! PROOFS. Gleaner commands as they issue (R246 to R249, R321, R322): the queues they bind, the holds, and the hand-over; first part of O33. -/

namespace Sys2Proof.Machine

open Sys2Proof.Claims

/-! ## A command's lanes and offsets (R247, R249) -/

theorem acting_eq (g : Glean) (ix : List Word) : g.acting ix = actingLanes g ix := by
  cases h : g.affine with
  | true => simp [Glean.acting, actingLanes, h]
  | false =>
    simp only [Glean.acting, actingLanes, h, Bool.false_eq_true, if_false, Bool.false_or, indexAt]
    exact List.filter_congr fun l _ => by simp only [bne, ne_eq, decide_not, beq_eq_decide]

theorem offset_eq (g : Glean) (ix : List Word) (l : Nat) : g.offset ix l = gleanOff g ix g.next l := by
  simp only [Glean.offset, gleanOff, indexAt, sext_word, dw]

theorem memBase_disp (f : VFields) (t : Team) : memBase t f + disp f = syncOff f t := by
  rw [disp_eq]; rfl

/-- The command of GATHER and SCATTER as the instruction makes it, its identifier aside. -/
theorem gleanOf_eq (s : State) (t : Team) (scatter : Bool) (f : VFields) :
    { gleanOf scatter f t t t.lanes with id := s.nextId } = gleanRule.indexed s t scatter f := by
  have hq : ∀ c, queueOf c = queueCode c := fun _ => rfl
  simp only [gleanOf, gleanRule.indexed, memBase_disp, hq, Bool.and_eq_true, Option.isNone_iff_eq_none,
    Option.isSome_iff_ne_none]

/-! ## Whether the queues let a command through (R321) -/

theorem queueStop_eq (s : State) (t : Team) (queue indexQueue : Option Nat) (gleaner : Bool) :
    s.queueStop t queue indexQueue gleaner =
      if (queue.any fun q => !t.canBind q gleaner) || indexQueue.any fun q => !t.indexable q then some .illegal
      else if 16 ≤ t.gleans.length then some (.hold .gleanerSlot false)
      else if queue.any fun q => (t.queue? q).isNone && s.roomLacks t then some (.hold .gleanerRoom false)
      else none := by
  cases queue <;> cases indexQueue <;> rfl

section
variable {s : State} {t : Team} {g : Glean}

/-- A data queue bound the other way refuses the command. -/
theorem queueStop_refused {q : Nat} (hq : g.queue = some q) {x : Queue} (hx : t.queue? q = some x)
    (hd : x.producerGleaner = g.scatter) : s.queueStop t g.queue g.indexQueue (!g.scatter) = some .illegal := by
  have hbind : t.canBind q (!g.scatter) = false := by simp [Team.canBind, hx, hd]
  rw [queueStop_eq, hq, Option.any_some, hbind]
  rfl

/-- Both queues can take their directions. -/
def QueuesBind (t : Team) (g : Glean) : Prop :=
  (∀ q, g.queue = some q → match t.queue? q with | none => t.queues.length < 4 | some x => x.producerGleaner = !g.scatter) ∧
  ∀ q, g.indexQueue = some q → ∃ x, t.queue? q = some x ∧ x.producerGleaner = true

theorem queueStop_bound (h : QueuesBind t g) : s.queueStop t g.queue g.indexQueue (!g.scatter) =
    if 16 ≤ t.gleans.length then some (.hold .gleanerSlot false)
    else if g.queue.any fun q => (t.queue? q).isNone && s.roomLacks t then some (.hold .gleanerRoom false) else none := by
  obtain ⟨hdata, hindex⟩ := h
  have hbind : (g.queue.any fun q => !t.canBind q (!g.scatter)) = false := by
    rw [Option.any_eq_false]
    intro q hq
    have hq := hdata q hq
    unfold Team.canBind
    split <;> simp_all
  have hgives : (g.indexQueue.any fun q => !t.indexable q) = false := by
    rw [Option.any_eq_false]
    intro q hq
    obtain ⟨x, hx, hp⟩ := hindex q hq
    simp [Team.indexable, hx, hp]
  rw [queueStop_eq, hbind, hgives]
  rfl
end

/-! ## The hand-over (R247, R321) -/

theorem Team.gone_withGleans (t : Team) (x : Sparse Flag) (qs : List Queue) (gs : List Glean) :
    ({ t with flags := x, queues := qs, gleans := gs } : Team).gone = { t.gone with flags := x, queues := qs, gleans := gs } := by
  simp only [Team.gone, Team.advance]
  split
  · rfl
  · split <;> rfl

/-- The queues with a command's data queue bound. -/
def boundQueues (t : Team) (g : Glean) : List Queue :=
  match g.queue with
  | some q => (t.bindQueue q (!g.scatter)).queues
  | none => t.queues

/-- The flag that a command counts on. -/
def gleanFlag (t : Team) (g : Glean) : Option Nat := if g.lanes.isEmpty then none else t.flagB

/-- Binding a queue changes the queues alone, and a count and a command go beside it. -/
theorem commanded_eq {t u : Team} (hu : u = { t with queues := u.queues }) (n : Option Nat) (gs : List Glean) :
    { u.raiseCount n with gleans := u.gleans ++ gs } =
      { t with flags := (t.raiseCount n).flags, queues := u.queues, gleans := t.gleans ++ gs } := by
  rw [hu]
  cases n <;> rfl

theorem startGlean_eq (s : State) (t : Team) (g : Glean) : s.startGlean t g =
    State.retire { s with nextId := s.nextId + 1 } { t with
      flags := (t.raiseCount (gleanFlag t g)).flags, queues := boundQueues t g
      gleans := t.gleans ++ [{ g with id := s.nextId, flag := gleanFlag t g }] } := by
  cases hq : g.queue with
  | none =>
    simp only [State.startGlean, State.takeId, boundQueues, hq]
    exact congrArg _ (commanded_eq (t := t) rfl _ _)
  | some q =>
    have hbind : t.bindQueue q (!g.scatter) = { t with queues := (t.bindQueue q (!g.scatter)).queues } := by
      unfold Team.bindQueue
      split <;> rfl
    simp only [State.startGlean, State.takeId, boundQueues, hq]
    exact congrArg _ (commanded_eq hbind _ _)

/-- A poised team hands a command over and goes on. -/
theorem startGlean_poised {s : State} {t : Team} (hp : Poised s t) (g : Glean) :
    s.startGlean t g = { s with nextId := s.nextId + 1 }.setTeam { t.gone.raiseCount (gleanFlag t g) with
      gleans := t.gleans ++ [{ g with id := s.nextId, flag := gleanFlag t g }], queues := boundQueues t g } := by
  rw [startGlean_eq, t.gone.raiseCount_eq, t.gone_raised_flags, ← t.gone_withGleans]
  exact retire_quiet _ _ hp.late hp.stepping hp.stays hp.yields

/-! ## From the instruction to its queues (R103, R247, R249) -/

/-- An affine stream whose offsets all lie within the limit has no lane that passes it. -/
theorem affineBad_within {limit n l : Nat} {base stride : Int} (hn : 0 < n)
    (h : ∀ k < n, 0 ≤ base + k * stride + 4 * l ∧ base + k * stride + 4 * l + 4 ≤ limit) :
    affineBad limit base stride n l = none := by
  obtain ⟨h0, hl0⟩ := h 0 hn
  obtain ⟨h1, hl1⟩ := h (n - 1) (by omega)
  simp only [Nat.cast_zero, Int.zero_mul, Int.add_zero] at h0 hl0
  generalize hd : ((n - 1 : Nat) : Int) * stride = d at h1 hl1
  have a0 : ¬ (base + 4 * l < 0 ∨ (limit : Int) < base + 4 * l + 4) := by omega
  have a1 : ¬ (limit : Int) < base + 4 * l + d + 4 := by omega
  have a2 : ¬ base + 4 * l + d < 0 := by omega
  simp only [affineBad, Bool.or_eq_true, decide_eq_true_eq, hd, a0, a1, a2, if_false]

/-- Nothing before its queues keeps a command from its hand-over. -/
structure GleanIssues (s : State) (t : Team) (op : Nat) (f : VFields) (g : Glean) : Prop where
  poised : Poised s t
  checks : checkV s t op f = none
  noFault : t.acquireFault = none
  clean : ∀ p, s.plot? t.plot = some p → p.poison = []
  entries : 0 < g.entries
  lanes : g.scatter = true → g.queue = none → t.lanes ≠ []
  affine : g.affine = true → ∀ n < g.entries, ∀ l ∈ g.lanes,
    0 ≤ g.base.toInt + n * g.stride + 4 * l ∧ g.base.toInt + n * g.stride + 4 * l + 4 ≤ g.segLimit.toNat

/-- What is known of the lanes' offsets lies within the limit, and a scatter may write its segment. -/
structure GleanWithin (s : State) (t : Team) (g : Glean) : Prop where
  within : ∀ ix, g.index = some ix → ∀ l ∈ actingLanes g ix, (gleanOff g ix 0 l).toNat + 4 ≤ g.segLimit.toNat
  writes : g.scatter = true → g.seg = 3 → s.isSup t = true

theorem readsPoison_clean {s : State} {t : Team} (h : ∀ p, s.plot? t.plot = some p → p.poison = []) (regs lanes : List Nat) :
    s.readsPoison t regs lanes = false := by
  unfold State.readsPoison
  split
  · rfl
  · rename_i p hp
    simp [h p hp]

/-- The lanes whose offsets are known as a command issues. -/
def knownOffsets (g : Glean) : List (Nat × Dword) :=
  match g.index with
  | some ix => (g.acting ix).map fun l => (l, g.offset ix l)
  | none => []

theorem limitTrap_inside {t : Team} {seg n : Nat} {offs : List (Nat × Dword)}
    (h : ∀ p ∈ offs, p.2.toNat + n ≤ (t.seg seg).limit.toNat) : limitTrap t seg n offs = none := by
  have hin : offs.filter (fun p => !limitOk t seg p.2 n) = [] :=
    List.filter_eq_nil_iff.mpr fun p hp => by simp [limitOk, h p hp]
  simp only [limitTrap, hin]

theorem memTrap_within {s : State} {t : Team} {g : Glean} (h : GleanWithin s t g) (h0 : g.next = 0)
    (hlimit : g.segLimit = (t.seg g.seg).limit) :
    memTrap s t g.seg 4 false g.scatter (knownOffsets g) = none := by
  have hin : limitTrap t g.seg 4 (knownOffsets g) = none := by
    refine limitTrap_inside fun p hp => ?_
    unfold knownOffsets at hp
    split at hp
    · rename_i ix hix
      obtain ⟨l, hl, rfl⟩ := List.mem_map.mp hp
      rw [← hlimit, offset_eq, h0]
      exact h.within ix hix l (acting_eq g ix ▸ hl)
    · cases hp
  have hwrites : (g.scatter && g.seg == 3 && !s.isSup t) = false := by
    have hw := h.writes
    simpa using hw
  simp only [memTrap, hin, hwrites, Bool.false_eq_true, if_false]

section
variable {s : State} {t : Team} {f : VFields} {op : Nat} {g : Glean}

/-- GATHER and SCATTER get to their queues, and past them to the checks of R188. -/
theorem gleanInsn_issues {scatter : Bool} (hg : gleanRule.indexed s t scatter f = g) (h : GleanIssues s t op f g) :
    (∀ e, s.queueStop t g.queue g.indexQueue (!g.scatter) = some e →
      gleanInsn op scatter f s = .next (s.operandStop t e)) ∧
    (s.queueStop t g.queue g.indexQueue (!g.scatter) = none → GleanWithin s t g →
      gleanInsn op scatter f s = .next (s.startGlean t g)) := by
  obtain rfl := (gleanOf_eq s t scatter f).trans hg
  have hempty : (scatter && (queueCode f.vd).isNone && t.lanes.isEmpty) = false := by
    by_contra hb
    simp only [Bool.not_eq_false, Bool.and_eq_true, Option.isNone_iff_eq_none, List.isEmpty_iff] at hb
    obtain ⟨⟨hs, hq⟩, hl⟩ := hb
    exact h.lanes hs hq hl
  have hnone : t.acquireFault.isSome = false := by rw [h.noFault]; rfl
  have hpoison := fun regs => readsPoison_clean h.clean regs t.lanes
  rw [gleanInsn, issueV_passes h.poised _ _ _ h.checks]
  simp only [hnone, hempty, hpoison, Bool.false_eq_true, if_false]
  rw [underWeirs_off h.poised.weirs h.poised.mark h.poised.here rfl]
  refine ⟨fun e he => ?_, fun hn hw => ?_⟩
  · replace he : s.queueStop t (queueCode f.vd) (queueCode f.va) (!scatter) = some e := he
    simp only [he]
  · replace hn : s.queueStop t (queueCode f.vd) (queueCode f.va) (!scatter) = none := hn
    have hin : memTrap s t (mSeg f) 4 false scatter (knownOffsets (gleanOf scatter f t t t.lanes)) = none :=
      memTrap_within (g := { gleanOf scatter f t t t.lanes with id := s.nextId }) hw rfl rfl
    simp only [hn]
    show Host.Outcome.next (match memTrap s t (mSeg f) 4 false scatter (knownOffsets (gleanOf scatter f t t t.lanes)) with
      | some x => s.takeTrap t x
      | none => s.startGlean t (gleanOf scatter f t t t.lanes)) = _
    rw [hin]
    rfl

theorem signed_word (x : Word) : signed 32 x.toNat = x.toInt := by
  rw [BitVec.toInt_eq_msb_cond, BitVec.msb_eq_getLsbD_last]
  simp [signed, bit, BitVec.getLsbD]

/-- The stride of a stream: the upper half of its operand, signed. -/
theorem signed_upper (b : Dword) : signed 32 (b.toNat / 2 ^ 32) = (b.extractLsb' 32 32).toInt := by
  have hupper : (b.extractLsb' 32 32).toNat = b.toNat / 2 ^ 32 := by
    rw [BitVec.extractLsb'_toNat, Nat.shiftRight_eq_div_pow]
    omega
  rw [← signed_word, hupper]

/-- The count of a stream: the lower half of its operand. -/
theorem field_lower (b : Dword) : b.toNat % 2 ^ 32 = field b 31 0 := by
  simp [field, BitVec.extractLsb_toNat]

/-- DIR is bit 3 of FN. -/
theorem direction_eq (fn : BitVec 8) : decide (8 ≤ fn.toNat % 16) = fn.getLsbD 3 := by
  revert fn; decide

/-- The command of GLCFG. -/
def glcfgOf (s : State) (t : Team) (f : VFields) : Glean :=
  { id := s.nextId, origin := t.origin, width := t.width, scatter := decide (8 ≤ f.fn.toNat % 16), queue := some f.vd.toNat
    seg := f.fn.toNat % 8, segBase := (t.seg (f.fn.toNat % 8)).base, segLimit := (t.seg (f.fn.toNat % 8)).limit
    base := t.getS f.va.toNat + disp f, scale := 2, indexQueue := queueCode f.vc, affine := f.vc == 448
    stride := signed 32 ((t.getS f.vb.toNat).toNat / 2 ^ 32), entries := (t.getS f.vb.toNat).toNat % 2 ^ 32, lanes := t.lanes }

theorem glcfgOf_eq (hg : gleanRule s t (.glcfg f) = some (op, f, g)) : op = 0x122 ∧ g = glcfgOf s t f := by
  simp only [gleanRule, Option.some.injEq, Prod.mk.injEq, true_and] at hg
  obtain ⟨rfl, rfl⟩ := hg
  refine ⟨rfl, ?_⟩
  simp only [glcfgOf, direction_eq, disp_eq, signed_upper, field_lower]
  rfl

/-- GLCFG gets to its queues, and past them to the hand-over. -/
theorem glcfg_issues (hg : gleanRule s t (.glcfg f) = some (op, f, g)) (h : GleanIssues s t op f g) :
    (∀ e, s.queueStop t g.queue g.indexQueue (!g.scatter) = some e →
      execGlcfg f s = .next (s.operandStop t e)) ∧
    (s.queueStop t g.queue g.indexQueue (!g.scatter) = none →
      execGlcfg f s = .next (s.startGlean t g)) := by
  obtain ⟨rfl, rfl⟩ := glcfgOf_eq hg
  have hnone : t.acquireFault.isSome = false := by rw [h.noFault]; rfl
  have hentries : (t.getS f.vb.toNat).toNat % 2 ^ 32 ≠ 0 := Nat.pos_iff_ne_zero.mp h.entries
  have hbad : (if f.vc == 448 then
      t.lanes.filterMap fun l =>
        (affineBad (t.seg (f.fn.toNat % 8)).limit.toNat (t.getS f.va.toNat + disp f).toInt
          (signed 32 ((t.getS f.vb.toNat).toNat / 2 ^ 32)) ((t.getS f.vb.toNat).toNat % 2 ^ 32) l).map fun o => (l, o)
      else []) = [] := by
    split
    · rename_i ha
      refine List.filterMap_eq_nil_iff.mpr fun l hl => ?_
      exact congrArg (Option.map fun o => (l, o)) (affineBad_within h.entries fun k hk => h.affine ha k hk l hl)
    · rfl
  rw [execGlcfg, issueV_passes h.poised _ _ _ h.checks]
  simp only [hnone, hentries, hbad, Bool.false_eq_true, if_false]
  refine ⟨fun e he => ?_, fun hn => ?_⟩
  · replace he : s.queueStop t (some f.vd.toNat) (queueCode f.vc) (!decide (8 ≤ f.fn.toNat % 16)) = some e := he
    simp only [he]
  · replace hn : s.queueStop t (some f.vd.toNat) (queueCode f.vc) (!decide (8 ≤ f.fn.toNat % 16)) = none := hn
    simp only [hn]
    rfl
/-- An instruction of the gleaner gets to its queues, and past them to the checks of R188 and the hand-over. -/
theorem exec_glean {i : Instr} (hg : gleanRule s t i = some (op, f, g)) (h : GleanIssues s t op f g) :
    (∀ e, s.queueStop t g.queue g.indexQueue (!g.scatter) = some e → exec i s = .next (s.operandStop t e)) ∧
    (s.queueStop t g.queue g.indexQueue (!g.scatter) = none → GleanWithin s t g → exec i s = .next (s.startGlean t g)) := by
  cases i <;> cases hg
  case gather.refl => exact gleanInsn_issues rfl h
  case scatter.refl => exact gleanInsn_issues rfl h
  case glcfg.refl =>
    obtain ⟨hstop, hstart⟩ := glcfg_issues rfl h
    exact ⟨hstop, fun hn _ => hstart hn⟩
end

/-! ## The hand-over, stated -/

theorem boundQueues_bound {t : Team} {g : Glean} {q : Nat} (hq : g.queue = some q) {x : Queue} (hx : t.queue? q = some x) :
    boundQueues t g = t.queues := by
  simp only [boundQueues, hq, Team.bindQueue, hx]

theorem boundQueues_unbound {t : Team} {g : Glean} {q : Nat} (hq : g.queue = some q) (hx : t.queue? q = none) :
    boundQueues t g = t.queues ++ [{ code := q, producerGleaner := !g.scatter, entries := [] }] := by
  simp only [boundQueues, hq, Team.bindQueue, hx]

/-- What the rule's command has of the team. -/
theorem gleanRule_spec {s : State} {t : Team} {i : Instr} {op : Nat} {f : VFields} {g : Glean}
    (hg : gleanRule s t i = some (op, f, g)) : g.id = s.nextId ∧ g.lanes = t.lanes := by
  cases i <;> cases hg <;> exact ⟨rfl, rfl⟩

theorem gleanerCommandIsHandedOver : Claims.GleanerCommandIsHandedOver := by
  intro s t i op f g hg
  obtain ⟨hid, hlanes⟩ := gleanRule_spec hg
  refine ⟨fun h => ?_, fun hp hc hf hl ha hclean hentries => ⟨?_, ?_⟩⟩
  · have hp := (poised_iff ..).mp h.poised
    have hissues : GleanIssues s t op f g :=
      ⟨hp, h.checks, h.noFault, h.clean, h.entries, h.lanes, h.affine⟩
    have hbind : QueuesBind t g := by
      refine ⟨fun q hq => ?_, h.index⟩
      have hdata := h.data q hq
      split <;> simp_all
    have hroom : (g.queue.any fun q => (t.queue? q).isNone && s.roomLacks t) = false := by
      rw [Option.any_eq_false]
      intro q hq
      have hdata := h.data q hq
      split at hdata <;> simp_all
    have hfree : s.queueStop t g.queue g.indexQueue (!g.scatter) = none := by
      rw [queueStop_bound hbind, if_neg (Nat.not_le.mpr h.slot), hroom]
      rfl
    have hexec := (exec_glean hg hissues).2 hfree ⟨h.within, h.writes⟩
    rw [startGlean_poised hp] at hexec
    have hflag : gleanFlag t g = if t.lanes = [] then none else t.flagB := by simp [gleanFlag, hlanes]
    refine ⟨_, _, gleanFlag t g, hexec, hflag, rfl, team?_setTeam_at (h := t.tid) hp.here ?_, ?_, ?_, ?_, ?_⟩
    · rw [Team.raiseCount_eq]
      simp [Team.gone]
    · rw [← hid]
    · exact fun q x hq hx => boundQueues_bound hq hx
    · exact fun q hq hx => boundQueues_unbound hq hx
    · intro hq
      simp only [boundQueues, hq]
  all_goals
    have hissues : GleanIssues s t op f g :=
      ⟨(poised_iff ..).mp hp, hc, hf, hclean, hentries, fun _ _ => hl, fun h => by rw [ha] at h; cases h⟩
  · rintro ⟨q, x, hq, hx, hd⟩
    exact (exec_glean hg hissues).1 _ (queueStop_refused hq hx hd)
  · intro hdata hindex hfull
    have hstop := queueStop_bound (s := s) ⟨hdata, hindex⟩
    rw [if_pos hfull] at hstop
    obtain ⟨n, hn⟩ := holdAt_eq s t .gleanerSlot
    exact ⟨n, ((exec_glean hg hissues).1 _ hstop).trans (congrArg _ hn)⟩

end Sys2Proof.Machine
end

section
/-! PROOFS. What an engine's write leaves and what it changes (R247, R248, R283): bytes at places, translations and teams. -/

namespace Sys2Proof.Machine

open Sys2Proof.Claims

/-! ## What an engine's accesses leave -/

/-- Where a plot's scratchpad stands, and whether a team of the plot is left. -/
def Plot.extent (p : Plot) : Nat × Nat × Nat × List Nat := (p.scratchSlot, p.scratchGranules, p.teams, p.exited)

/-- State w translates as state s does, and its plots and team t stand as they stood. -/
structure EngineLeaves (t : Team) (s w : State) : Prop where
  team : s.team? t.tid = some t → w.team? t.tid = some t
  orphans : w.orphans = s.orphans
  arg : w.arg = s.arg
  first : ∀ port, w.firstTlb port = s.firstTlb port
  check : leafCheck w = leafCheck s
  plot : ∀ k, (w.plot? k).map Plot.extent = (s.plot? k).map Plot.extent

theorem EngineLeaves.refl (t : Team) (s : State) : EngineLeaves t s s := ⟨id, rfl, rfl, fun _ => rfl, rfl, fun _ => rfl⟩

theorem EngineLeaves.trans {t : Team} {s v w : State} (h : EngineLeaves t s v) (h' : EngineLeaves t v w) : EngineLeaves t s w where
  team := h'.team ∘ h.team
  orphans := h'.orphans.trans h.orphans
  arg := h'.arg.trans h.arg
  first port := (h'.first port).trans (h.first port)
  check := h'.check.trans h.check
  plot k := (h'.plot k).trans (h.plot k)

theorem EngineLeaves.fold {t : Team} {β : Type} {f : State → β → State} (hf : ∀ s b, EngineLeaves t s (f s b)) (l : List β)
    (s : State) : EngineLeaves t s (l.foldl f s) := by
  induction l generalizing s with
  | nil => exact .refl t s
  | cons b l ih => exact (hf s b).trans (ih _)

theorem engineLeaves_touchAt (t : Team) (s : State) (pa : Nat) (w : Bool) : EngineLeaves t s (s.touchAt pa w) := by
  unfold State.touchAt
  split
  · dsimp only
    split <;> exact ⟨id, rfl, rfl, fun _ => rfl, rfl, fun _ => rfl⟩
  · exact .refl t s

theorem engineLeaves_touchSlice (t : Team) (s : State) (pa n : Nat) (w : Bool) : EngineLeaves t s (s.touchSlice pa n w) :=
  .fold (fun s (p : Nat × Nat) => engineLeaves_touchAt t s p.1 w) _ s

theorem engineLeaves_writeThrough (t : Team) (s : State) (core pa : Nat) (bs : List Byte) :
    EngineLeaves t s (s.writeThrough core pa bs) where
  team := id
  orphans := rfl
  arg := rfl
  first port := by
    simp only [State.writeThrough, State.firstTlb, State.core_modCore]
    split <;> simp_all
  check := rfl
  plot _ := rfl

section
variable {t : Team} (hm : t.monitor = .none_)
include hm

theorem engineLeaves_endArm (s : State) (k : Handle) (n : Nat) : EngineLeaves t s (s.modTeam k fun u => u.endArm n) :=
  ⟨(beside_endArm hm s k n).team, rfl, rfl, fun _ => rfl, rfl, fun _ => rfl⟩

theorem engineLeaves_fireLine (s : State) (line n : Nat) : EngineLeaves t s (s.fireLine line n) := by
  have hdrop : EngineLeaves t s { s with arms := s.arms.filter fun a => !(a.line == line) } :=
    ⟨id, rfl, rfl, fun _ => rfl, rfl, fun _ => rfl⟩
  exact hdrop.trans (.fold (fun s (a : Arm) => engineLeaves_endArm hm s a.tid n) _ _)

theorem engineLeaves_homeWriteBy (s : State) (writer : Nat) (nc : Bool) (pa : Nat) (bs : List Byte) :
    EngineLeaves t s (s.homeWriteBy writer nc pa bs) := by
  have hheal : EngineLeaves t s ({ s with mem := memWrite s.mem pa bs }.healSectors writer pa bs.length) :=
    ⟨id, rfl, rfl, fun _ => rfl, rfl, fun _ => rfl⟩
  unfold State.homeWriteBy
  refine .trans ?_ (.fold (fun s l => engineLeaves_fireLine hm s l 0) _ _)
  split
  · exact hheal
  · exact hheal.trans (engineLeaves_touchSlice ..)
end

theorem extent_writeScratch (p : Plot) (writer a : Nat) (bs : List Byte) : (p.writeScratch writer a bs).extent = p.extent := by
  unfold Plot.writeScratch
  split <;> rfl

theorem id_writeScratch (p : Plot) (writer a : Nat) (bs : List Byte) : (p.writeScratch writer a bs).id = p.id := by
  unfold Plot.writeScratch
  split <;> rfl

theorem plot?_writeScratch_same (s : State) (writer plot a : Nat) (bs : List Byte) :
    (s.writeScratch writer plot a bs).plot? plot = (s.plot? plot).map fun p => p.writeScratch writer a bs :=
  find?_updFirst (fun x : Plot => x.id == plot) _ (fun p hp => by rw [id_writeScratch]; exact hp) s.plots

theorem plot?_writeScratch_ne (s : State) (writer : Nat) {plot k : Nat} (hk : k ≠ plot) (a : Nat) (bs : List Byte) :
    (s.writeScratch writer plot a bs).plot? k = s.plot? k :=
  find?_updFirst_ne (fun x : Plot => x.id == plot) (fun x => x.id == k) _ (fun p hp => by
    have hp : p.id = plot := by simpa using hp
    rw [id_writeScratch, hp]
    simpa using hk.symm) s.plots

theorem engineLeaves_writeScratch (t : Team) (s : State) (writer plot a : Nat) (bs : List Byte) :
    EngineLeaves t s (s.writeScratch writer plot a bs) where
  team := id
  orphans := rfl
  arg := rfl
  first _ := rfl
  check := rfl
  plot k := by
    by_cases hk : k = plot
    · subst hk
      rw [plot?_writeScratch_same, Option.map_map]
      exact congrArg (fun f => Option.map f (s.plot? k)) (funext fun p => extent_writeScratch p writer a bs)
    · rw [plot?_writeScratch_ne s writer hk]

/-! ## The bytes that a write puts (R248) -/

/-- Bytes put one by one in a scratchpad are a run of bytes written. -/
theorem putBytes_eq (bs : List Byte) (m : Sparse Byte) (a n : Nat) :
    (bs.zipIdx n).foldl (fun m x => spWrite 0 m (a + x.2) x.1) m = memWrite m (a + n) bs := by
  induction bs generalizing m n with
  | nil => rfl
  | cons b bs ih =>
    rw [List.zipIdx_cons, List.foldl_cons, ih]
    rfl

/-- A pool offset of a plot is a place of its scratchpad, one for one. -/
theorem scratchOff_eq_some {p : Plot} {a o : Nat} : p.scratchOff a = some o ↔
    o + Config.granuleBytes * p.scratchSlot = a ∧ o < Config.granuleBytes * p.scratchGranules := by
  simp only [Plot.scratchOff, Bool.and_eq_true, decide_eq_true_eq]
  split <;> simp only [Option.some.injEq, reduceCtorEq, false_iff] <;> omega

/-- The run of bytes at a place, over the byte that stood at another. -/
def overPlace (x : Place) (bs : List Byte) (y : Place) (b : Byte) : Byte :=
  if y.1 = x.1 ∧ x.2 ≤ y.2 ∧ y.2 < x.2 + bs.length then bs.getD (y.2 - x.2) 0 else b

theorem scratchByte_writeScratch {p : Plot} {a : Nat} {bs : List Byte} (h0 : 0 < bs.length)
    (hin : ∀ j < bs.length, (p.scratchOff (a + j)).isSome = true) (writer y : Nat) :
    (p.writeScratch writer a bs).scratchByte y = if a ≤ y ∧ y < a + bs.length then bs.getD (y - a) 0 else p.scratchByte y := by
  obtain ⟨o, ho⟩ := Option.isSome_iff_exists.mp (hin 0 h0)
  obtain ⟨hbase, -⟩ := scratchOff_eq_some.mp ho
  have hoff : ∀ z, (p.writeScratch writer a bs).scratchOff z = p.scratchOff z := by
    intro z
    unfold Plot.writeScratch
    split <;> rfl
  have hscratch : (p.writeScratch writer a bs).scratch = memWrite p.scratch o bs := by
    simp only [Plot.writeScratch, Nat.add_zero a ▸ ho]
    exact putBytes_eq bs p.scratch o 0
  have hread : ∀ k, spRead 0 (memWrite p.scratch o bs) k = if o ≤ k ∧ k < o + bs.length then bs.getD (k - o) 0 else spRead 0 p.scratch k :=
    fun k => memByte_memWrite p.scratch o k bs
  simp only [Plot.scratchByte, hoff, hscratch, hread]
  cases hy : p.scratchOff y with
  | some k =>
    obtain ⟨hk, -⟩ := scratchOff_eq_some.mp hy
    have hiff : (o ≤ k ∧ k < o + bs.length) ↔ (a ≤ y ∧ y < a + bs.length) := by omega
    have hsub : k - o = y - a := by omega
    simp only [hiff, hsub]
  | none =>
    have hout : ¬ (a ≤ y ∧ y < a + bs.length) := by
      intro hya
      have hj := hin (y - a) (by omega)
      rw [Nat.add_sub_cancel' hya.1, hy] at hj
      cases hj
    rw [if_neg hout]

/-- The bytes at a plot's places after a run is written in its scratchpad. -/
theorem byteAt_writeScratch {s : State} {plot a : Nat} {bs : List Byte} {p : Plot} (hp : s.plot? plot = some p)
    (h0 : 0 < bs.length) (hin : ∀ j < bs.length, (p.scratchOff (a + j)).isSome = true) (writer : Nat) (y : Place) :
    byteAt (s.writeScratch writer plot a bs) plot y = overPlace (true, a) bs y (byteAt s plot y) := by
  obtain ⟨b, y⟩ := y
  cases b with
  | false => simp [byteAt, overPlace, State.writeScratch, State.modCrewOps, State.modPlot]
  | true =>
    simp only [byteAt, plot?_writeScratch_same, hp, Option.map_some, if_true, overPlace, true_and]
    exact scratchByte_writeScratch h0 hin writer y

/-- The bytes at a plot's places after a run is written in memory. -/
theorem byteAt_of_memWrite {s w : State} {pa : Nat} {bs : List Byte} (hmem : w.mem = memWrite s.mem pa bs)
    (hplots : w.plots = s.plots) (plot : Nat) (y : Place) :
    byteAt w plot y = overPlace (false, pa) bs y (byteAt s plot y) := by
  obtain ⟨b, y⟩ := y
  cases b with
  | true => simp [byteAt, overPlace, State.plot?, hplots]
  | false => simp only [byteAt, hmem, memByte_memWrite, overPlace, Bool.false_eq_true, if_false, true_and]

/-! ## One access of an engine (R247, R248) -/

/-- A place stands on when an engine's accesses leave translations and plots: nothing is asked of poison to write. -/
theorem standsAt_leaves {t : Team} {s w : State} (h : EngineLeaves t s w) {o : Origin} {seg addr n : Nat} {x : Place}
    (hst : standsAt s o seg addr n .write x) : standsAt w o seg addr n .write x := by
  obtain ⟨h0, hsector, hscratch, hmem⟩ := hst
  refine ⟨h0, hsector, fun hs => ?_, fun hs => ?_⟩
  · obtain ⟨hx, ⟨p, hp, hin⟩, -⟩ := hscratch hs
    have hplot := h.plot o.plot
    rw [hp, Option.map_some] at hplot
    obtain ⟨q, hq, hqp⟩ := Option.map_eq_some_iff.mp hplot
    simp only [Plot.extent, Prod.mk.injEq] at hqp
    obtain ⟨hslot, hgranules, -, -⟩ := hqp
    refine ⟨hx, ⟨q, hq, fun j hj => ?_⟩, nofun⟩
    simpa only [Plot.scratchOff, hslot, hgranules] using hin j hj
  · obtain ⟨hx, -, e, nc, he, hok⟩ := hmem hs
    exact ⟨hx, nofun, e, nc, (h.first o.port).symm ▸ he, h.check.symm ▸ hok⟩

/-- The first-level cache gives the translation. -/
theorem translate_first {s : State} {port ctx va : Nat} {e : TlbEntry} (h : tlbFind (s.firstTlb port) ctx va = some e) (acc : Acc) :
    s.translate port ctx va acc = leafCheck s e va acc := by
  simp only [State.translate, State.leafOf, State.tlbHit, h]

theorem fillTlb_first {s : State} {port ctx va : Nat} {e : TlbEntry} (h : tlbFind (s.firstTlb port) ctx va = some e) :
    s.fillTlb port ctx va = s := by
  simp [State.fillTlb, h]

theorem outsideFault_none (s : State) (port ctx va pa : Nat) : s.outsideFault false port ctx va pa = none := rfl

/-- An engine writes a run of bytes at the place where it stands, and leaves translations, plots and the team. -/
theorem engWrites_stands {t : Team} (hm : t.monitor = .none_) {s : State} {o : Origin} {via : EngVia} {seg addr n : Nat} {x : Place}
    {bs : List Byte} (hn : bs.length = n) (herr : s.arg.hostErr = false) (hst : standsAt s o seg addr n .write x) :
    ∃ w, s.engWrites o via seg addr bs = (w, none) ∧ EngineLeaves t s w ∧
      ∀ y, byteAt w o.plot y = overPlace x bs y (byteAt s o.plot y) := by
  obtain ⟨h0, hsector, hscratch, hmem⟩ := hst
  subst hn
  have hone : s.engWrites o via seg addr bs = engWritesGo o via seg [(addr, bs)] s := by
    simp [State.engWrites, sectors_single h0 hsector]
  rw [hone]
  by_cases hs : seg = 1
  · obtain ⟨rfl, ⟨p, hp, hin⟩, -⟩ := hscratch hs
    refine ⟨s.writeScratch via.writer o.plot addr bs, ?_, engineLeaves_writeScratch .., byteAt_writeScratch hp h0 hin via.writer⟩
    simp [engWritesGo, State.engWrite, hs]
  · obtain ⟨hx, -, e, nc, he, hok⟩ := hmem hs
    obtain ⟨b, pa⟩ := x
    obtain rfl : b = false := hx
    have hlaid := engineLeaves_homeWriteBy hm s via.writer nc pa bs
    have hplots := (writesOnly_homeWriteBy s via.writer nc pa bs).plots
    have hbytes := State.homeWriteBy_mem s via.writer nc pa bs
    have hwrite : s.engWrite o via seg addr bs = .ok (if via.through
        then (s.homeWriteBy via.writer nc pa bs).writeThrough o.core pa bs else s.homeWriteBy via.writer nc pa bs) := by
      simp only [State.engWrite, if_neg hs, translate_first he, hok, herr, outsideFault_none, ite_self, fillTlb_first he]
    simp only [engWritesGo, hwrite]
    refine ⟨_, rfl, ?_, ?_⟩
    · split
      · exact hlaid.trans (engineLeaves_writeThrough ..)
      · exact hlaid
    · intro y
      refine byteAt_of_memWrite ?_ ?_ o.plot y
      · split <;> exact hbytes
      · split <;> exact hplots

end Sys2Proof.Machine
end

section
/-! PROOFS. The gleaner works through an entry's lanes (R247, R248): what a gather fetches and what a scatter writes. -/

namespace Sys2Proof.Machine

open Sys2Proof.Claims

/-! ## Slices of an entry -/

theorem slice_putSlice (ws : List (Nat × Word)) (l m : Nat) (x : Word) :
    slice (putSlice ws l x) m = if m = l then x else slice ws m := by
  unfold slice putSlice
  rw [List.find?_append, List.find?_filter]
  by_cases h : m = l
  · subst h
    have hnone : (ws.find? fun w => decide ((!(w.1 == m)) = true ∧ (w.1 == m) = true)) = none :=
      List.find?_eq_none.mpr fun w _ => by simp
    rw [hnone, if_pos rfl]
    simp
  · have hsame : (fun w : Nat × Word => decide ((!(w.1 == l)) = true ∧ (w.1 == m) = true)) = fun w => w.1 == m := by
      funext w
      by_cases hw : w.1 = m <;> simp [hw, h]
    have hlast : ([(l, x)] : List (Nat × Word)).find? (fun w => w.1 == m) = none := by simp [Ne.symm h]
    rw [hsame, hlast, Option.or_none, if_neg h]

theorem slice_map (ls : List Nat) (f : Nat → Word) {l : Nat} (h : l ∈ ls) : slice (ls.map fun l => (l, f l)) l = f l := by
  induction ls with
  | nil => cases h
  | cons a ls ih =>
    by_cases ha : a = l
    · simp [slice, ha]
    · have hl : l ∈ ls := by simpa [Ne.symm ha] using h
      have := ih hl
      simpa [slice, ha] using this

/-! ## A read (R247) -/

/-- Caches of lines aside, the state is as it was. -/
def SeenOnly (s w : State) : Prop := w = { s with dcache := w.dcache, plru := w.plru }

theorem SeenOnly.refl (s : State) : SeenOnly s s := rfl

theorem SeenOnly.trans {s v w : State} (h : SeenOnly s v) (h' : SeenOnly v w) : SeenOnly s w := by
  unfold SeenOnly at *
  rw [h', h]

theorem seenOnly_touchAt (s : State) (pa : Nat) (wr : Bool) : SeenOnly s (s.touchAt pa wr) := by
  unfold State.touchAt
  split
  · dsimp only
    split <;> rfl
  · rfl

theorem seenOnly_touchSlice (s : State) (pa n : Nat) (wr : Bool) : SeenOnly s (s.touchSlice pa n wr) :=
  List.foldlRecOn (motive := SeenOnly s) _ _ rfl fun _ h p _ => h.trans (seenOnly_touchAt _ p.1 wr)

/-- Nothing that a place stands on is in the caches of lines. -/
theorem SeenOnly.standsAt {s w : State} (h : SeenOnly s w) {o : Origin} {seg addr n : Nat} {acc : Acc} {x : Place}
    (hst : Claims.standsAt s o seg addr n acc x) : Claims.standsAt w o seg addr n acc x := by
  rw [h]
  exact hst

theorem SeenOnly.byteAt {s w : State} (h : SeenOnly s w) (plot : Nat) (x : Place) : Claims.byteAt w plot x = Claims.byteAt s plot x := by
  rw [h]
  rfl

/-- An engine's read leaves lines in the device cache, and no more. -/
theorem engSeen_stands {s : State} {o : Origin} {seg addr n : Nat} {x : Place} (hst : Claims.standsAt s o seg addr n .read x) :
    SeenOnly s (s.engSeen o seg addr n) := by
  obtain ⟨h0, hsector, -, hmem⟩ := hst
  unfold State.engSeen
  split
  · rfl
  · rename_i hs
    obtain ⟨-, -, e, nc, he, hok⟩ := hmem hs
    simp only [State.seen, sectors_single h0 hsector, List.foldl_cons, List.foldl_nil, fillTlb_first he, translate_first he, hok]
    split
    · rfl
    · exact seenOnly_touchSlice ..

/-- An engine reads the bytes where they stand. -/
theorem engReads_stands {s : State} {o : Origin} {seg addr n : Nat} {x : Place} (herr : s.arg.hostErr = false)
    (hst : Claims.standsAt s o seg addr n .read x) :
    s.engReads o seg addr n = .ok ((List.range n).map fun j => Claims.byteAt s o.plot (x.1, x.2 + j)) := by
  obtain ⟨h0, hsector, hscratch, hmem⟩ := hst
  have hone : ∀ bs, s.engRead o seg addr n = .ok bs → s.engReads o seg addr n = .ok bs := by
    intro bs h
    simp [State.engReads, sectors_single h0 hsector, h]
  refine hone _ ?_
  by_cases hs : seg = 1
  · obtain ⟨rfl, ⟨p, hp, -⟩, hclean⟩ := hscratch hs
    simp [State.engRead, hs, hclean rfl, State.readScratch, hp, byteAt]
  · obtain ⟨hx, hclean, e, nc, he, hok⟩ := hmem hs
    obtain ⟨b, pa⟩ := x
    obtain rfl : b = false := hx
    simp [State.engRead, hs, translate_first he, hok, herr, outsideFault_none, hclean rfl, memRead, byteAt]

/-! ## The lanes of an entry -/

/-- Lane l's access of an entry stands at a place, within the limit. -/
structure LaneStands (s : State) (g : Glean) (off : Nat → Dword) (acc : Acc) (place : Nat → Place) (l : Nat) : Prop where
  within : (off l).toNat + 4 ≤ g.segLimit.toNat
  stands : Claims.standsAt s g.origin g.seg (g.segBase + off l).toNat 4 acc (place l)

theorem gleanLane_gather {g : Glean} (hg : g.scatter = false) {s v : State} (hv : SeenOnly s v) (herr : s.arg.hostErr = false)
    {off : Nat → Dword} {place : Nat → Place} {l : Nat} (h : LaneStands s g off .read place l) (ws : List (Nat × Word)) :
    ∃ w, SeenOnly s w ∧ gleanLane g { state := v, words := ws } (l, off l) =
      { state := w, words := putSlice ws l (wordAtPlace s g.origin.plot (place l)) } := by
  have hw := hv.trans (engSeen_stands (hv.standsAt h.stands))
  have herrw : (v.engSeen g.origin g.seg (g.segBase + off l).toNat 4).arg.hostErr = false := by
    rw [hw]; exact herr
  have hread := engReads_stands herrw (hw.standsAt h.stands)
  simp only [hw.byteAt] at hread
  refine ⟨_, hw, ?_⟩
  simp only [gleanLane, Option.isSome_none, Bool.false_eq_true, if_false, Nat.not_lt.mpr h.within, hg, hread]
  rfl

/-- A gather fetches each lane's word where it stands. -/
theorem gleanLanes_gather {g : Glean} (hg : g.scatter = false) {s : State} (herr : s.arg.hostErr = false)
    {off : Nat → Dword} {place : Nat → Place} (ls : List Nat) (h : ∀ l ∈ ls, LaneStands s g off .read place l)
    {v : State} (hv : SeenOnly s v) (ws : List (Nat × Word)) :
    ∃ w xs, SeenOnly s w ∧
      (ls.map fun l => (l, off l)).foldl (gleanLane g) { state := v, words := ws } = { state := w, words := xs } ∧
      ∀ l, slice xs l = if l ∈ ls then wordAtPlace s g.origin.plot (place l) else slice ws l := by
  induction ls generalizing v ws with
  | nil => exact ⟨v, ws, hv, rfl, fun l => by simp⟩
  | cons a ls ih =>
    obtain ⟨ha, hls⟩ := List.forall_mem_cons.mp h
    obtain ⟨w, hw, hlane⟩ := gleanLane_gather hg hv herr ha ws
    obtain ⟨w', xs, hw', hfold, hslice⟩ := ih hls hw (putSlice ws a (wordAtPlace s g.origin.plot (place a)))
    refine ⟨w', xs, hw', ?_, fun l => ?_⟩
    · rw [List.map_cons, List.foldl_cons, hlane, hfold]
    · rw [hslice, slice_putSlice]
      by_cases hl : l ∈ ls
      · simp [hl]
      · by_cases hla : l = a <;> simp [hl, hla]

/-- A lane of a scatter writes its word at its place. -/
theorem gleanLane_scatter {g : Glean} (hg : g.scatter = true) {t : Team} (hm : t.monitor = .none_) {v : State}
    (herr : v.arg.hostErr = false) {off : Nat → Dword} {place : Nat → Place} {l : Nat} (h : LaneStands v g off .write place l)
    (ws : List (Nat × Word)) :
    ∃ w, gleanLane g { state := v, words := ws } (l, off l) = { state := w, words := ws } ∧ EngineLeaves t v w ∧
      ∀ y, byteAt w g.origin.plot y = overPlace (place l) (toBytes 4 (slice ws l).toNat) y (byteAt v g.origin.plot y) := by
  obtain ⟨w, hwrite, hleaves, hbytes⟩ := engWrites_stands (via := { writer := g.id, through := true })
    (bs := toBytes 4 (slice ws l).toNat) hm rfl herr h.stands
  refine ⟨w, ?_, hleaves, hbytes⟩
  simp only [gleanLane, Option.isSome_none, Bool.false_eq_true, if_false, Nat.not_lt.mpr h.within, hg, if_true, hwrite]

/-- After the lanes of ls, ascending, have written: each lane's bytes stand where no higher lane has written, and every other
byte is as it was (R248). -/
structure Scattered (plot : Nat) (place : Nat → Place) (word : Nat → Word) (ls : List Nat) (s w : State) : Prop where
  written : ∀ l ∈ ls, ∀ j < 4, (∀ m ∈ ls, l < m → ∀ k < 4, (place m).1 = (place l).1 → (place m).2 + k ≠ (place l).2 + j) →
    byteAt w plot ((place l).1, (place l).2 + j) = (toBytes 4 (word l).toNat).getD j 0
  others : ∀ y : Place, (∀ l ∈ ls, (place l).1 = y.1 → ∀ j < 4, (place l).2 + j ≠ y.2) → byteAt w plot y = byteAt s plot y

theorem overPlace_in {x : Place} {bs : List Byte} {j : Nat} (hj : j < bs.length) (b : Byte) :
    overPlace x bs (x.1, x.2 + j) b = bs.getD j 0 := by
  have hin : x.2 ≤ x.2 + j ∧ x.2 + j < x.2 + bs.length := by omega
  simp only [overPlace, true_and, if_pos hin, Nat.add_sub_cancel_left]

theorem overPlace_out {x y : Place} {bs : List Byte} (h : x.1 = y.1 → ∀ j < bs.length, x.2 + j ≠ y.2) (b : Byte) :
    overPlace x bs y b = b := by
  refine if_neg ?_
  rintro ⟨h1, h2, h3⟩
  exact h h1.symm (y.2 - x.2) (by omega) (by omega)

/-- One more lane below those that have written. -/
theorem Scattered.cons {plot : Nat} {place : Nat → Place} {word : Nat → Word} {a : Nat} {ls : List Nat} {s v w : State}
    (hlow : ∀ l ∈ ls, a < l)
    (hv : ∀ y, byteAt v plot y = overPlace (place a) (toBytes 4 (word a).toNat) y (byteAt s plot y))
    (h : Scattered plot place word ls v w) : Scattered plot place word (a :: ls) s w where
  written := by
    intro l hl j hj hover
    rcases List.mem_cons.mp hl with rfl | hl
    · rw [h.others ((place l).1, (place l).2 + j) fun m hm hb k hk => hover m (List.mem_cons_of_mem _ hm) (hlow m hm) k hk hb, hv]
      exact overPlace_in hj _
    · exact h.written l hl j hj fun m hm => hover m (List.mem_cons_of_mem _ hm)
  others := by
    intro y hy
    rw [h.others y fun l hl => hy l (List.mem_cons_of_mem _ hl), hv]
    exact overPlace_out (hy a List.mem_cons_self) _

/-- A scatter's lanes write their words, the highest standing where lanes overlap. -/
theorem gleanLanes_scatter {g : Glean} (hg : g.scatter = true) {t : Team} (hm : t.monitor = .none_)
    {off : Nat → Dword} {place : Nat → Place} {ws : List (Nat × Word)} (ls : List Nat) (horder : ls.Pairwise (· < ·)) {s : State}
    (herr : s.arg.hostErr = false) (h : ∀ l ∈ ls, LaneStands s g off .write place l) :
    ∃ w, (ls.map fun l => (l, off l)).foldl (gleanLane g) { state := s, words := ws } = { state := w, words := ws } ∧
      EngineLeaves t s w ∧ Scattered g.origin.plot place (slice ws) ls s w := by
  induction ls generalizing s with
  | nil => exact ⟨s, rfl, .refl t s, ⟨nofun, fun _ _ => rfl⟩⟩
  | cons a ls ih =>
    obtain ⟨ha, hls⟩ := List.forall_mem_cons.mp h
    obtain ⟨hlow, horder⟩ := List.pairwise_cons.mp horder
    obtain ⟨v, hlane, hv, hbytes⟩ := gleanLane_scatter hg hm herr ha ws
    have herrv : v.arg.hostErr = false := by rw [hv.arg]; exact herr
    obtain ⟨w, hfold, hw, hscattered⟩ := ih horder herrv fun l hl => ⟨(hls l hl).within, standsAt_leaves hv (hls l hl).stands⟩
    refine ⟨w, ?_, hv.trans hw, .cons hlow hbytes hscattered⟩
    rw [List.map_cons, List.foldl_cons, hlane, hfold]

end Sys2Proof.Machine
end

section
/-! PROOFS. An entry of a gleaner command from its beginning to its end (R247 to R249, R322): what is popped, what is pushed, and where the command stands then; O33. -/

namespace Sys2Proof.Machine

open Sys2Proof.Claims

/-! ## Where a queue's entries come from (R117, R247) -/

/-- The team without the oldest entry of a queue, where one is named. -/
def popBy (t : Team) (q : Option Nat) : Team :=
  match q with
  | none => t
  | some c => { t with queues := updFirst (fun x => x.code == c) (fun x => { x with entries := x.entries.tail }) t.queues }

theorem popBy_eq (t : Team) (q : Option Nat) : popBy t q = { t with queues := (popBy t q).queues } := by
  cases q <;> rfl

@[simp] theorem popBy_tid (t : Team) (q : Option Nat) : (popBy t q).tid = t.tid := by
  rw [popBy_eq]

/-- Entry e comes from a queue, or is what stands for it where none is named. -/
def Gives (t : Team) (q : Option Nat) (dflt e : List Word) : Prop :=
  (q = none ∧ e = dflt) ∨ ∃ c x r, q = some c ∧ t.queue? c = some x ∧ x.entries = e :: r

theorem popFor_eq {s : State} {t : Team} (ht : s.team? t.tid = some t) {q : Option Nat} {dflt e : List Word}
    (h : Gives t q dflt e) : s.popFor t.tid q dflt = some (e, s.setTeam (popBy t q)) := by
  rcases h with ⟨rfl, rfl⟩ | ⟨c, ⟨code, producer, entries⟩, r, rfl, hx, he⟩
  · simp only [State.popFor, popBy, setTeam_same ht]
  · obtain rfl : entries = e :: r := he
    have htail : updFirst (fun x => x.code == c) (fun x => { x with entries := r }) t.queues =
        updFirst (fun x => x.code == c) (fun x => { x with entries := x.entries.tail }) t.queues := updFirst_congr hx rfl
    simp only [State.popFor, ht, Team.popQueue, hx, htail, popBy]

theorem queue?_popBy_ne {t : Team} {q : Option Nat} {c : Nat} (h : q ≠ some c) : (popBy t q).queue? c = t.queue? c := by
  cases q with
  | none => rfl
  | some d =>
    have hd : d ≠ c := fun e => h (congrArg some e)
    refine find?_updFirst_ne _ _ _ (fun x hx => ?_) t.queues
    have hx : x.code = d := by simpa using hx
    simp [hx, hd]

theorem Gives.popBy_ne {t : Team} {p q : Option Nat} {dflt e : List Word} (h : Gives t q dflt e) (hne : ∀ c, p = some c → q ≠ some c) :
    Gives (popBy t p) q dflt e := by
  rcases h with h | ⟨c, x, r, hq, hx, he⟩
  · exact .inl h
  · exact .inr ⟨c, x, r, hq, (queue?_popBy_ne fun hp => hne c hp hq).trans hx, he⟩

/-! ## An entry begins -/

/-- The queue that a command's data come from. -/
def dataQueue (g : Glean) : Option Nat := if g.scatter then g.queue else none

/-- The entry as it begins: a scatter's slices, and each acting lane with its offset. -/
def entryOf (g : Glean) (ix data : List Word) : GleanEntry :=
  { words := if g.scatter then (g.acting ix).map fun l => (l, data.getD l 0) else []
    todo := (g.acting ix).map fun l => (l, g.offset ix l) }

/-- The command with its entry begun. -/
def begunGlean (g : Glean) (ix data : List Word) : Glean := { g with pending := some (entryOf g ix data) }

/-- The team with a command's entry begun. -/
def begunTeam (t : Team) (g : Glean) (ix data : List Word) : Team :=
  { popBy (popBy t g.indexQueue) (dataQueue g) with
    gleans := updFirst (fun x => x.id == g.id) (fun _ => begunGlean g ix data) t.gleans }

theorem begunTeam_eq (t : Team) (g : Glean) (ix data : List Word) : begunTeam t g ix data =
    { t with queues := (begunTeam t g ix data).queues, gleans := (begunTeam t g ix data).gleans } := by
  unfold begunTeam
  rw [popBy_eq (popBy t g.indexQueue), popBy_eq t]

/-- A change of the one team's command, where no command has lost its team. -/
theorem modGlean_eq {s : State} {t : Team} (ht : s.team? t.tid = some t) (ho : s.orphans = []) (id : Nat) (f : Glean → Glean) :
    s.modGlean t.tid id f = s.setTeam { t with gleans := updFirst (fun x => x.id == id) f t.gleans } := by
  unfold State.modGlean
  rw [modTeam_eq_setTeam ht rfl]
  have horphans : updFirst (fun x : Glean => x.id == id) f
      (s.setTeam { t with gleans := updFirst (fun x => x.id == id) f t.gleans }).orphans = s.orphans := by
    show updFirst _ f s.orphans = s.orphans
    rw [ho]
    rfl
  simp only [horphans]
  rfl

theorem beginEntry_eq {s : State} {t : Team} {g : Glean} (ht : s.team? t.tid = some t) (hid : g.origin.tid = t.tid)
    (ho : s.orphans = []) {ix data : List Word} (hix : Gives t g.indexQueue (g.index.getD []) ix)
    (hdata : Gives t (dataQueue g) g.data data) (hne : ∀ c, g.indexQueue = some c → dataQueue g ≠ some c) :
    s.beginEntry g = some (s.setTeam (begunTeam t g ix data), begunGlean g ix data, entryOf g ix data) := by
  have ht1 : (s.setTeam (popBy t g.indexQueue)).team? (popBy t g.indexQueue).tid = some (popBy t g.indexQueue) :=
    team?_setTeam_at (by rw [popBy_tid, ht]) rfl
  have hpop1 := popFor_eq ht hix
  have hpop2 := popFor_eq ht1 (hdata.popBy_ne hne)
  rw [popBy_tid] at hpop2
  rw [setTeam_setTeam _ (by simp)] at hpop2
  have ht2 : (s.setTeam (popBy (popBy t g.indexQueue) (dataQueue g))).team? (popBy (popBy t g.indexQueue) (dataQueue g)).tid =
      some (popBy (popBy t g.indexQueue) (dataQueue g)) := team?_setTeam_at (by simpa using ht) rfl
  have hgleans : (popBy (popBy t g.indexQueue) (dataQueue g)).gleans = t.gleans := by
    rw [popBy_eq (popBy t g.indexQueue), popBy_eq t]
  have hmod : (s.setTeam (popBy (popBy t g.indexQueue) (dataQueue g))).modGlean t.tid g.id (fun _ => begunGlean g ix data) =
      s.setTeam (begunTeam t g ix data) := by
    have htid : (popBy (popBy t g.indexQueue) (dataQueue g)).tid = t.tid := by simp
    rw [← htid, modGlean_eq ht2 ho, hgleans]
    exact setTeam_setTeam s (w := begunTeam t g ix data) rfl
  unfold dataQueue at hpop2
  simp only [State.beginEntry, hid, hpop1, hpop2]
  exact congrArg (fun v => some (v, begunGlean g ix data, entryOf g ix data)) hmod

/-! ## An entry is whole -/

/-- The team with a gather's entry in its queue. -/
def pushedTeam (u : Team) (g : Glean) (ws : List (Nat × Word)) : Team :=
  match g.scatter, g.queue with
  | false, some q => u.pushQueue (q, (List.range g.width).map (slice ws))
  | _, _ => u

/-- The team with an entry of a command done: the command finished after its last entry, else at the next. -/
def doneTeam (u : Team) (g : Glean) : Team :=
  if g.ends || decide (g.entries ≤ g.next + 1) then
    ({ u with gleans := u.gleans.filter fun x => !(x.id == g.id) }.lowerCount g.flag).unbindIdle
  else { u with gleans := updFirst (fun x => x.id == g.id) (fun x => { x with next := x.next + 1, pending := none }) u.gleans }

theorem freePlot_kept {s : State} {k : Nat} (h : ∀ p, s.plot? k = some p → p.exited.length < p.teams) : s.freePlot k = s := by
  unfold State.freePlot
  split
  · rfl
  · rename_i p hp
    have hleft : ¬ p.teams ≤ p.exited.length := Nat.not_le.mpr (h p hp)
    simp [hleft]

theorem lowerCount_eq (u : Team) (n : Option Nat) : u.lowerCount n = { u with flags := (u.lowerCount n).flags } := by
  cases n <;> rfl

theorem doneTeam_eq (u : Team) (g : Glean) : doneTeam u g =
    { u with flags := (doneTeam u g).flags, gleans := (doneTeam u g).gleans, queues := (doneTeam u g).queues } := by
  unfold doneTeam
  split
  · rw [lowerCount_eq]
    rfl
  · rfl

theorem pushedTeam_eq (u : Team) (g : Glean) (ws : List (Nat × Word)) :
    pushedTeam u g ws = { u with queues := (pushedTeam u g ws).queues } := by
  unfold pushedTeam
  split <;> rfl

/-- The state with a gather's entry in its queue. -/
def pushedState (s : State) (g : Glean) (ws : List (Nat × Word)) : State :=
  match g.scatter, g.queue with
  | false, some q => s.modTeam g.origin.tid fun t => t.pushQueue (q, (List.range g.width).map (slice ws))
  | _, _ => s

section
variable {s : State} {u : Team} {g : Glean} (hu : s.team? u.tid = some u) (hid : g.origin.tid = u.tid)
include hu hid

theorem pushedState_eq (ws : List (Nat × Word)) : pushedState s g ws = s.setTeam (pushedTeam u g ws) := by
  cases hs : g.scatter <;> cases hq : g.queue <;> simp only [pushedState, pushedTeam, hs, hq]
  case false.some q => rw [hid]; exact modTeam_eq_setTeam hu rfl
  all_goals exact (setTeam_same hu).symm

theorem finishGlean_eq (ho : s.orphans = []) (hplot : ∀ p, s.plot? g.origin.plot = some p → p.exited.length < p.teams) :
    s.finishGlean g =
      s.setTeam ({ u with gleans := u.gleans.filter fun x => !(x.id == g.id) }.lowerCount g.flag).unbindIdle := by
  unfold State.finishGlean
  have hkeep : (({ u with gleans := u.gleans.filter fun x => !(x.id == g.id) }.lowerCount g.flag).unbindIdle).tid = u.tid := by
    rw [lowerCount_eq]
    rfl
  rw [hid, modTeam_eq_setTeam hu hkeep]
  generalize ({ u with gleans := u.gleans.filter fun x => !(x.id == g.id) }.lowerCount g.flag).unbindIdle = v
  have horphans : { s.setTeam v with orphans := (s.setTeam v).orphans.filter fun x => !(x.id == g.id) } = s.setTeam v := by
    have hnone : (s.setTeam v).orphans = [] := ho
    rw [hnone, List.filter_nil, ← hnone]
  exact (congrArg (State.freePlot · g.origin.plot) horphans).trans (freePlot_kept hplot)

theorem completeEntry_eq (ho : s.orphans = []) (hplot : ∀ p, s.plot? g.origin.plot = some p → p.exited.length < p.teams)
    (e : GleanEntry) : s.completeEntry g e = s.setTeam (doneTeam (pushedTeam u g e.words) g) := by
  have hp : (pushedTeam u g e.words).tid = u.tid := by rw [pushedTeam_eq]
  have hu' : (s.setTeam (pushedTeam u g e.words)).team? (pushedTeam u g e.words).tid = some (pushedTeam u g e.words) :=
    State.team?_setTeam _ (hp.symm ▸ hu)
  have hcases : s.completeEntry g e = if g.ends || decide (g.entries ≤ g.next + 1) then (pushedState s g e.words).finishGlean g
      else (pushedState s g e.words).modGlean g.origin.tid g.id fun x => { x with next := x.next + 1, pending := none } := rfl
  have hdone : (doneTeam (pushedTeam u g e.words) g).tid = (pushedTeam u g e.words).tid := by rw [doneTeam_eq]
  rw [hcases, pushedState_eq hu hid, ← setTeam_setTeam s hdone]
  unfold doneTeam
  split
  · exact finishGlean_eq hu' (hid.trans hp.symm) ho hplot
  · rw [hid, ← hp]
    exact modGlean_eq hu' ho g.id _
end

/-! ## What the team has of its command and its queues then -/

theorem flag_lowerCount (t : Team) (f : Option Nat) (n : Nat) :
    (t.lowerCount f).flag n = if f = some n then { t.flag n with count := (t.flag n).count - 1 } else t.flag n := by
  cases f with
  | none => rfl
  | some m =>
    refine (spRead_spWrite {} t.flags m n _).trans ?_
    by_cases h : n = m
    · subst h
      rw [if_pos rfl, if_pos rfl]
    · rw [if_neg h, if_neg fun e => h (Option.some.inj e).symm]
      rfl

/-- The command that stood first goes on, or is finished (R247, R249). -/
theorem gleanGoesOn_doneTeam {t u : Team} {g : Glean} {r : List Glean} {ix data : List Word} (ht : t.gleans = g :: r)
    (hr : ∀ x ∈ r, x.id ≠ g.id) (hends : g.ends = false) (hpending : g.pending = none)
    (hu : u.gleans = begunGlean g ix data :: r) (hflags : u.flags = t.flags) :
    gleanGoesOn t (doneTeam u g) g := by
  have hdrop : t.gleans.drop 1 = r := by rw [ht]; rfl
  have hhead : (begunGlean g ix data).id = g.id := rfl
  refine ⟨fun hlast => ?_, fun hmore => ?_⟩
  · have hdone : doneTeam u g =
        ({ u with gleans := u.gleans.filter fun x => !(x.id == g.id) }.lowerCount g.flag).unbindIdle := by
      simp [doneTeam, hends, hlast]
    have hkept : u.gleans.filter (fun x => !(x.id == g.id)) = r := by
      rw [hu, List.filter_cons]
      simpa [hhead] using hr
    refine ⟨?_, fun n => ?_⟩
    · rw [hdone, lowerCount_eq, hdrop]
      exact hkept
    · have hflag : ∀ m, u.flag m = t.flag m := fun m => by simp only [Team.flag, hflags]
      rw [hdone, ← hflag n]
      exact flag_lowerCount { u with gleans := u.gleans.filter fun x => !(x.id == g.id) } g.flag n
  · have hdone : doneTeam u g =
        { u with gleans := updFirst (fun x => x.id == g.id) (fun x => { x with next := x.next + 1, pending := none }) u.gleans } := by
      simp [doneTeam, hends, hmore]
    rw [hdone, hdrop]
    refine ⟨?_, hflags⟩
    simp [hu, updFirst, begunGlean, hpending]

/-- What is found among all is found among those kept, if it is kept. -/
theorem find?_filter_of_find? {α : Type} {p q : α → Bool} {l : List α} {a : α} (h : l.find? q = some a) (ha : p a = true) :
    (l.filter p).find? q = some a := by
  induction l with
  | nil => cases h
  | cons b l ih =>
    by_cases hq : q b = true
    · rw [List.find?_cons_of_pos hq] at h
      obtain rfl := Option.some.inj h
      rw [List.filter_cons_of_pos ha, List.find?_cons_of_pos hq]
    · rw [List.find?_cons_of_neg hq] at h
      rw [List.filter_cons]
      split
      · rw [List.find?_cons_of_neg hq, ih h]
      · exact ih h

/-- A queue that holds an entry stays bound (R322). -/
theorem queue?_unbindIdle {u : Team} {q : Nat} {y : Queue} (hy : u.queue? q = some y) (he : y.entries ≠ []) :
    u.unbindIdle.queue? q = some y := by
  refine find?_filter_of_find? hy ?_
  simp [he]

theorem queue?_doneTeam {u : Team} {g : Glean} {q : Nat} {y : Queue} (hy : u.queue? q = some y) (he : y.entries ≠ []) :
    (doneTeam u g).queue? q = some y := by
  unfold doneTeam
  split
  · refine queue?_unbindIdle ?_ he
    rw [lowerCount_eq]
    exact hy
  · exact hy

theorem queue?_pushedTeam {u : Team} {g : Glean} {q : Nat} {x : Queue} (hs : g.scatter = false) (hq : g.queue = some q)
    (hx : u.queue? q = some x) (ws : List (Nat × Word)) :
    (pushedTeam u g ws).queue? q = some { x with entries := x.entries ++ [(List.range g.width).map (slice ws)] } := by
  simp only [pushedTeam, hs, hq, Team.pushQueue, Team.queue?]
  exact (find?_updFirst (fun x : Queue => x.code == q)
    (fun x => { x with entries := x.entries ++ [(List.range g.width).map (slice ws)] }) (fun _ h => h) u.queues).trans
      (congrArg (Option.map _) hx)

/-! ## An entry from its beginning to its end -/

section
variable {s : State} {t : Team} {g : Glean} {ix : List Word} {place : Nat → Place} (h : Gleans s t g ix place)
include h

theorem gleans_tid : t.tid = s.arg.tid := State.tid_of_team? h.team.1

theorem gleans_here : s.team? t.tid = some t := gleans_tid h ▸ h.team.1

theorem gleans_indices : Gives t g.indexQueue (g.index.getD []) ix := by
  rcases h.index with hi | ⟨q, x, r, hq, -, hx, he⟩
  · exact .inl hi
  · exact .inr ⟨q, x, r, hq, hx, he⟩

theorem gleans_dataQueue_ne (c : Nat) (hc : g.indexQueue = some c) : dataQueue g ≠ some c := by
  rcases h.index with ⟨hi, -⟩ | ⟨q, x, r, hq, hne, -, -⟩
  · rw [hi] at hc; cases hc
  · obtain rfl := Option.some.inj (hq.symm.trans hc)
    unfold dataQueue
    split
    · exact hne
    · nofun

/-- The team's oldest command begins its entry, and works on it. -/
theorem gleanStep_begins {data : List Word} (hdata : Gives t (dataQueue g) g.data data) :
    gleanStep g.scatter s =
      (s.setTeam (begunTeam t g ix data)).workEntry (begunGlean g ix data) (entryOf g ix data) := by
  obtain ⟨r, hgleans, -⟩ := h.head
  obtain ⟨hstopped, hends, hpending, hready⟩ := h.ready
  obtain ⟨hteam, -, hid⟩ := h.team
  have hhead : s.gleanHead s.arg.tid = some g := by simp only [State.gleanHead, hteam, hgleans, List.head?_cons]
  have hbegin := beginEntry_eq (gleans_here h) hid h.orphans (gleans_indices h) hdata (gleans_dataQueue_ne h)
  simp only [gleanStep, hhead, hstopped, hready, hpending, hbegin, bne_self_eq_false, Bool.not_true, Bool.or_false,
    Bool.false_eq_true, if_false]

/-- Each acting lane's access stands where the statement has it, whichever team is put back. -/
theorem gleans_lanes (u : Team) : ∀ l ∈ g.acting ix, LaneStands (s.setTeam u) g (g.offset ix)
    (if g.scatter then .write else .read) place l := by
  intro l hl
  rw [acting_eq] at hl
  refine ⟨?_, ?_⟩
  · rw [offset_eq]
    exact h.within l hl
  · rw [offset_eq]
    exact h.places l hl
/-- With its entry whole, the command goes on, and its team keeps its registers. -/
theorem gleans_completeEntry {data : List Word} {w : State} (hteam : w.team? t.tid = some (begunTeam t g ix data))
    (ho : w.orphans = []) (hplot : ∀ p, w.plot? g.origin.plot = some p → p.exited.length < p.teams) (e : GleanEntry)
    {u : Team} (hu : u = doneTeam (pushedTeam (begunTeam t g ix data) g e.words) g) :
    w.completeEntry (begunGlean g ix data) e = w.setTeam u ∧ (w.setTeam u).team? t.tid = some u ∧
      gleanGoesOn t u g ∧ u.s = t.s ∧ u.v = t.v := by
  obtain ⟨r, hgleans, hr⟩ := h.head
  obtain ⟨-, hends, hpending, -⟩ := h.ready
  obtain ⟨-, -, hid⟩ := h.team
  have hbegun := begunTeam_eq t g ix data
  have hpushed := pushedTeam_eq (begunTeam t g ix data) g e.words
  have htid : (begunTeam t g ix data).tid = t.tid := by rw [hbegun]
  have hheads : (begunTeam t g ix data).gleans = begunGlean g ix data :: r := by
    simp [begunTeam, hgleans, updFirst]
  have hdone : u.tid = t.tid := by rw [hu, doneTeam_eq, hpushed, hbegun]
  refine ⟨?_, team?_setTeam_at hteam hdone, ?_, ?_, ?_⟩
  · rw [hu]
    exact completeEntry_eq (htid.symm ▸ hteam) (hid.trans htid.symm) ho hplot e
  · rw [hu]
    refine gleanGoesOn_doneTeam (ix := ix) (data := data) hgleans hr hends hpending ?_ ?_
    · rw [hpushed]
      exact hheads
    · rw [hpushed, hbegun]
  · rw [hu, doneTeam_eq, hpushed, hbegun]
  · rw [hu, doneTeam_eq, hpushed, hbegun]
end

/-- An entry whose lanes have all been fetched or written is whole, where its queue has room. -/
theorem workEntry_whole {s w : State} {g : Glean} {e : GleanEntry} {xs : List (Nat × Word)}
    (hfold : e.todo.foldl (gleanLane g) { state := s, words := e.words } = { state := w, words := xs })
    (hroom : (g.scatter || w.roomToPush g) = true) : s.workEntry g e = w.completeEntry g { words := xs, todo := [] } := by
  simp only [State.workEntry, hfold, hroom, if_true]

/-- A plot that has a team left has it still. -/
theorem plotLeft_leaves {t : Team} {s w : State} (h : EngineLeaves t s w) {k : Nat}
    (hs : ∀ p, s.plot? k = some p → p.exited.length < p.teams) : ∀ p, w.plot? k = some p → p.exited.length < p.teams := by
  intro p hp
  have hplot := h.plot k
  rw [hp, Option.map_some] at hplot
  obtain ⟨q, hq, hqp⟩ := Option.map_eq_some_iff.mp hplot.symm
  simp only [Plot.extent, Prod.mk.injEq] at hqp
  obtain ⟨-, -, hteams, hexited⟩ := hqp
  rw [← hteams, ← hexited]
  exact hs q hq

/-! ## O33 -/

section
variable {s : State} {t : Team} {g : Glean} {ix : List Word} {place : Nat → Place} (h : Gleans s t g ix place)
include h

theorem gleans_indexQueue_ne {q : Nat} (hq : g.queue = some q) : g.indexQueue ≠ some q := by
  rcases h.index with ⟨hi, -⟩ | ⟨c, x, r, hc, hne, -, -⟩
  · rw [hi]; nofun
  · rw [hc]
    rintro ⟨rfl⟩
    exact hne hq

theorem gleans_begun {data : List Word} :
    (s.setTeam (begunTeam t g ix data)).team? t.tid = some (begunTeam t g ix data) :=
  team?_setTeam_at (gleans_here h) (by rw [begunTeam_eq])

/-- A gather's entry is fetched and pushed. -/
theorem gather_delivers {q : Nat} {x : Queue} (hs : g.scatter = false) (hq : g.queue = some q) (hx : t.queue? q = some x)
    (hroom : x.entries.length < 2) :
    ∃ s' u y, exec .gleanerDelivery s = .next s' ∧ s'.team? t.tid = some u ∧ s'.mem = s.mem ∧ u.queue? q = some y ∧
      y.entries = x.entries ++ [(List.range g.width).map fun l =>
        if l ∈ actingLanes g ix then wordAtPlace s g.origin.plot (place l) else 0xFFFFFFFF#32] ∧
      gleanGoesOn t u g ∧ u.s = t.s ∧ u.v = t.v := by
  have hnone : dataQueue g = none := by simp [dataQueue, hs]
  have hwords : (entryOf g ix g.data).words = [] := by simp [entryOf, hs]
  have hstep := gleanStep_begins h (data := g.data) (.inl ⟨hnone, rfl⟩)
  have hlanes := gleans_lanes h (begunTeam t g ix g.data)
  rw [hs] at hlanes
  obtain ⟨w, xs, hw, hfold, hslice⟩ := gleanLanes_gather (g := begunGlean g ix g.data) hs (s := s.setTeam (begunTeam t g ix g.data))
    h.plot.1 (g.acting ix) (fun l hl => ⟨(hlanes l hl).within, (hlanes l hl).stands⟩) (.refl _) []
  have hwteam : w.team? t.tid = some (begunTeam t g ix g.data) := by rw [hw]; exact gleans_begun h
  have hqueue : (begunTeam t g ix g.data).queue? q = some x :=
    (queue?_popBy_ne (by rw [hnone]; nofun)).trans ((queue?_popBy_ne (gleans_indexQueue_ne h hq)).trans hx)
  have hpush : ((begunGlean g ix g.data).scatter || w.roomToPush (begunGlean g ix g.data)) = true := by
    have hid : (begunGlean g ix g.data).origin.tid = t.tid := h.team.2.2
    have hnamed : (begunGlean g ix g.data).queue = some q := hq
    simp [State.roomToPush, hid, hwteam, hnamed, hqueue, hroom]
  obtain ⟨hdone, hu, hgoes, hsame⟩ := gleans_completeEntry h hwteam (by rw [hw]; exact h.orphans)
    (by rw [hw]; exact h.plot.2) { words := xs, todo := [] } rfl
  have hentry : (List.range g.width).map (slice xs) = (List.range g.width).map fun l =>
      if l ∈ actingLanes g ix then wordAtPlace s g.origin.plot (place l) else 0xFFFFFFFF#32 := by
    rw [funext hslice, acting_eq]
    rfl
  refine ⟨_, _, _, ?_, hu, ?_, queue?_doneTeam (queue?_pushedTeam hs hq hqueue xs) (by simp), ?_, hgoes, hsame⟩
  · rw [hs, workEntry_whole (hwords.symm ▸ hfold) hpush, hdone] at hstep
    exact congrArg Host.Outcome.next hstep
  · rw [hw]
    rfl
  · rw [← hentry]

/-- A scatter's entry is written. -/
theorem scatter_writes {data : List Word} (hs : g.scatter = true) (hdata : Gives t g.queue g.data data) :
    ∃ s' u, exec .gleanerScatterWrite s = .next s' ∧ s'.team? t.tid = some u ∧ gleanGoesOn t u g ∧ u.s = t.s ∧ u.v = t.v ∧
      Scattered g.origin.plot place (fun l => data.getD l 0) (actingLanes g ix) s s' := by
  have hqueue : dataQueue g = g.queue := by simp [dataQueue, hs]
  have hwords : (entryOf g ix data).words = (g.acting ix).map fun l => (l, data.getD l 0) := by simp [entryOf, hs]
  have hstep := gleanStep_begins h (data := data) (hqueue.symm ▸ hdata)
  have hlanes := gleans_lanes h (begunTeam t g ix data)
  rw [hs] at hlanes
  have htid : (begunTeam t g ix data).tid = t.tid := by rw [begunTeam_eq]
  have hmonitor : (begunTeam t g ix data).monitor = .none_ := by rw [begunTeam_eq]; exact h.team.2.1
  have horder : (g.acting ix).Pairwise (· < ·) := by rw [acting_eq]; exact h.order.filter _
  obtain ⟨w, hfold, hw, hwritten, hothers⟩ := gleanLanes_scatter (g := begunGlean g ix data) hs hmonitor
    (ws := (entryOf g ix data).words) (g.acting ix) horder (s := s.setTeam (begunTeam t g ix data)) h.plot.1
    (fun l hl => ⟨(hlanes l hl).within, (hlanes l hl).stands⟩)
  have hwteam : w.team? t.tid = some (begunTeam t g ix data) := htid ▸ hw.team (htid.symm ▸ gleans_begun h)
  have hroom : ((begunGlean g ix data).scatter || w.roomToPush (begunGlean g ix data)) = true := by
    have hscatter : (begunGlean g ix data).scatter = true := hs
    rw [hscatter, Bool.true_or]
  obtain ⟨hdone, hu, hgoes, hs', hv'⟩ := gleans_completeEntry h hwteam (hw.orphans.trans h.orphans)
    (plotLeft_leaves hw h.plot.2) { words := (entryOf g ix data).words, todo := [] } rfl
  refine ⟨_, _, ?_, hu, hgoes, hs', hv', ?_, ?_⟩
  · rw [hs, workEntry_whole hfold hroom, hdone] at hstep
    exact congrArg Host.Outcome.next hstep
  · rw [← acting_eq]
    intro l hl j hj hover
    have hword : slice (entryOf g ix data).words l = data.getD l 0 := by
      rw [hwords]
      exact slice_map (g.acting ix) (fun l => data.getD l 0) hl
    exact hword ▸ hwritten l hl j hj hover
  · rw [← acting_eq]
    exact hothers
end

theorem gleanerMovesItsEntries : Claims.GleanerMovesItsEntries := by
  intro s t g ix place h
  refine ⟨fun q x hs hq hx hroom => gather_delivers h hs hq hx hroom, fun data hs hdata => ?_⟩
  obtain ⟨s', u, hexec, hteam, hgoes, hss, hvs, hwritten, hothers⟩ := scatter_writes h hs hdata
  refine ⟨s', u, hexec, hteam, hgoes, hss, hvs, hwritten, fun x hx => ?_⟩
  exact hothers (false, x) hx

/-- Settles O33: a command stands last among its team's with what it captures, and each entry's lanes act where they stand. -/
theorem gleanerTakesCommandsAndMoves : Obligations.GleanerTakesCommandsAndMoves :=
  ⟨gleanerCommandIsHandedOver, gleanerMovesItsEntries⟩

end Sys2Proof.Machine
end

section
/-! PROOFS. Words written out from the encodings (R92, R93, R99): O55. -/

namespace Sys2Proof.Machine

/-- Parcels that the encoder writes for an instruction decode to it. -/
theorem decode_of_encode {i : Instr} {ps : List Word} (hps : ps = encode i) (hwf : i.wellFormed = true) :
    decode ps = .ok i ps.length := by
  rw [hps]
  simpa using encodeDecodeAgree i [] hwf

/-- Settles O55: the words of instructions are those that the encoder writes; the others name no instruction and a header. -/
theorem decodeReadsSpecWords : Obligations.DecodeReadsSpecWords := by
  refine ⟨?saddReg, ?saddImm, ?nop, ?vadd, ?unassigned, ?header⟩
  case saddReg => exact decode_of_encode (i := .saddReg 5 6 7) rfl rfl
  case saddImm => exact decode_of_encode (i := .saddImm 127 0 (-1)) rfl rfl
  case nop => exact decode_of_encode (i := .nop) rfl rfl
  case vadd => exact decode_of_encode (i := .vadd ⟨1, 2, 3, 0, 0, 0, 0, none⟩) rfl rfl
  case unassigned => rfl
  case header => rfl

end Sys2Proof.Machine
end

section
/-! PROOFS. The start of a clause (R88 to R91, R303): what a fetch reads and leaves, the checks, and CLAUSE_START's cases; O11. -/

namespace Sys2Proof.Machine

open Sys2Proof.Claims

/-! ## What a fetch leaves in the caches (R285, R295) -/

theorem sameButCaches_refl (s : State) : sameButCaches s s := ⟨rfl, fun _ => rfl⟩

theorem sameButCaches_trans {s v w : State} (h : sameButCaches s v) (h' : sameButCaches v w) : sameButCaches s w := by
  obtain ⟨hframe, hcore⟩ := h
  obtain ⟨hframe', hcore'⟩ := h'
  exact ⟨by rw [hframe', hframe], fun c => by rw [hcore' c, hcore c]⟩

theorem sameButCaches_fresh (s : State) (n : Nat) : sameButCaches s { s with fresh := n } := ⟨rfl, fun _ => rfl⟩

theorem SeenOnly.sameButCaches {s w : State} (h : SeenOnly s w) : sameButCaches s w := by
  rw [h]
  exact ⟨rfl, fun _ => rfl⟩

theorem CountsOnly.sameButCaches {core : Nat} {s w : State} (h : CountsOnly core s w) : sameButCaches s w := by
  refine ⟨?_, fun c => by rw [h.perf c]⟩
  rw [h.frame]

/-- A core changed in its caches alone. -/
theorem sameButCaches_modCore (s : State) (core : Nat) {f : Core → Core}
    (hf : ∀ c, f c = { c with tlb := (f c).tlb, first := (f c).first }) : sameButCaches s (s.modCore core f) := by
  refine ⟨rfl, fun c => ?_⟩
  rw [State.core_modCore]
  split
  · rename_i hc
    subst hc
    rw [hf]
  · rfl

theorem sameButCaches_keepIn {α : Type} (s : State) (size : Nat) (es : List α) (e : α) :
    sameButCaches s (s.keepIn size es e).2 := by
  unfold State.keepIn
  split
  · exact sameButCaches_refl s
  · exact sameButCaches_fresh s _

theorem sameButCaches_keepFirst (s : State) (port : Nat) (e : TlbEntry) : sameButCaches s (s.keepFirst port e) := by
  unfold State.keepFirst
  split
  · exact sameButCaches_refl s
  · exact sameButCaches_trans (sameButCaches_keepIn ..) (sameButCaches_modCore _ _ fun _ => rfl)

theorem sameButCaches_keepSecond (s : State) (core : Nat) (e : TlbEntry) : sameButCaches s (s.keepSecond core e) := by
  unfold State.keepSecond
  exact sameButCaches_trans (sameButCaches_keepIn ..) (sameButCaches_modCore _ _ fun _ => rfl)

theorem sameButCaches_fillTlb (s : State) (port ctx va : Nat) : sameButCaches s (s.fillTlb port ctx va) := by
  have counted := sameButCaches_trans (countPerf_countsOnly s (port / 8) ctx 7 1).sameButCaches
    (countPerf_countsOnly (s.countPerf (port / 8) ctx 7 1) (port / 8) ctx 8 1).sameButCaches
  unfold State.fillTlb
  split
  · exact sameButCaches_refl s
  · split
    · exact sameButCaches_keepFirst ..
    · dsimp only
      split
      · exact sameButCaches_trans (sameButCaches_trans counted (sameButCaches_keepSecond ..))
          (sameButCaches_keepFirst ..)
      · exact counted

theorem sameButCaches_fetchSeen (s : State) (t : Team) (va n : Nat) : sameButCaches s (s.fetchSeen t va n) := by
  refine List.foldlRecOn (motive := sameButCaches s) _ _ (sameButCaches_refl s) fun v hv p _ => ?_
  have hfill := sameButCaches_trans hv (sameButCaches_fillTlb v (portOf t.tid) t.ctx p.1)
  dsimp only
  split
  · split
    · exact hfill
    · exact sameButCaches_trans hfill (seenOnly_touchSlice ..).sameButCaches
  · exact hfill

/-! ## What a fetch reads (R6, R7, R91) -/

/-- The pieces of an access make up its size. -/
theorem sum_splitSectors {fuel n : Nat} (a : Nat) (h : n < fuel) : ((splitSectors fuel a n).map Prod.snd).sum = n := by
  induction fuel generalizing a n with
  | zero => omega
  | succ fuel ih =>
    rw [splitSectors]
    split
    · simp_all
    · have hpos : 0 < min n (32 - a % 32) := by omega
      simp only [List.map_cons, List.sum_cons]
      rw [ih _ (by omega)]
      omega

/-- A fetch that does not fail reads as many bytes as it asks for. -/
theorem length_fetchBytes {s : State} {t : Team} {va n : Nat} {bs : List Byte} (h : s.fetchBytes t va n = .inl bs) :
    bs.length = n := by
  rw [← sum_splitSectors va (Nat.lt_succ_self n)]
  unfold State.fetchBytes sectors at h
  generalize splitSectors (n + 1) va n = ps at h ⊢
  induction ps generalizing bs with
  | nil => cases h; rfl
  | cons p ps ih =>
    rw [List.foldr_cons] at h
    split at h
    · cases h
    · split at h
      · rename_i rest hrest
        cases h
        simp [memRead, ih hrest]
      · cases h

/-- A dword's high parcel comes first (R7). -/
theorem dw_parcels (p q : Word) : dw (p.toNat * 2 ^ 32 + q.toNat) = p ++ q := by
  apply BitVec.eq_of_toNat_eq
  have hp := p.isLt
  have hq := q.isLt
  rw [BitVec.toNat_append, ← Nat.shiftLeft_add_eq_or_of_lt hq, Nat.shiftLeft_eq, dw, BitVec.toNat_ofNat]
  exact Nat.mod_eq_of_lt (by omega)

/-- The header of eight bytes is their two parcels (R88). -/
theorem header_parcels {bs : List Byte} (h : bs.length = 8) : (wordsOf bs).getD 0 0 ++ (wordsOf bs).getD 1 0 = headerOf bs := by
  rw [← dw_parcels]
  match bs, h with
  | [a, b, c, d, e, f, g, i], _ =>
    have hfirst : ofBytes [a, b, c, d] < 2 ^ 32 := by simpa using ofBytes_lt [a, b, c, d]
    have hsecond : ofBytes [e, f, g, i] < 2 ^ 32 := by simpa using ofBytes_lt [e, f, g, i]
    simp only [wordsOf, List.getD_cons_zero, List.getD_cons_succ, BitVec.toNat_ofNat, Nat.mod_eq_of_lt hfirst,
      Nat.mod_eq_of_lt hsecond]
    rfl

/-! ## The fields and checks of a header (R88, R90) -/

theorem field_eq_dbits (x : Dword) (hi lo : Nat) : field x hi lo = dbits x hi lo := by
  rw [field, BitVec.extractLsb_toNat]
  rfl

theorem headerFault_of_kind {h : Dword} (hk : field h 63 62 ≠ 3) : headerFault h = some 1 := by
  rw [field_eq_dbits] at hk
  rw [headerFault, if_pos hk]

/-- WAIT of a header, as a mask of flags. -/
def waitMask (h : Dword) : BitVec 12 := h.extractLsb' 37 12

theorem toNat_waitMask (h : Dword) : (waitMask h).toNat = hdrWait h := by
  rw [waitMask, BitVec.extractLsb'_toNat]
  rfl

theorem getLsbD_waitMask (h : Dword) (k : Nat) : (waitMask h).getLsbD k = true ↔ k < 12 ∧ h.getLsbD (37 + k) = true := by
  rw [waitMask, BitVec.getLsbD_extractLsb', Bool.and_eq_true, decide_eq_true_eq]

theorem flagsSet_hdrWait_eq_false {t : Team} {h : Dword}
    (hc : ∀ k < 12, h.getLsbD (37 + k) = true → (t.flag k).count = 0 ∧ (t.flag k).soft = false) :
    t.flagsSet (hdrWait h) = false := by
  rw [← toNat_waitMask]
  refine flagsSet_eq_false fun k hk => ?_
  obtain ⟨hlt, hbit⟩ := (getLsbD_waitMask h k).mp hk
  exact hc k hlt hbit

theorem flagsSet_hdrWait_eq_true {t : Team} {h : Dword}
    (hc : ∃ k < 12, h.getLsbD (37 + k) = true ∧ ((t.flag k).count ≠ 0 ∨ (t.flag k).soft = true)) :
    t.flagsSet (hdrWait h) = true := by
  rw [← toNat_waitMask]
  obtain ⟨k, hlt, hbit, hset⟩ := hc
  exact flagsSet_eq_true ⟨k, (getLsbD_waitMask h k).mpr ⟨hlt, hbit⟩, hset⟩

theorem featureGone_of_accepted {s w : State} (h : w.accepted = s.accepted) : featureGone w = featureGone s := by
  have hfeature : ∀ n, w.feature n = s.feature n := fun n => by rw [State.feature, h]; rfl
  funext op
  simp only [featureGone, hfeature]

/-- The checks on a body ask of the state only which features were accepted (R404). -/
theorem bodyFault_of_accepted {s w : State} (h : w.accepted = s.accepted) (hdr : Dword) (body : List Word) :
    bodyFault w hdr body = bodyFault s hdr body := by
  have hclass : classOf w = classOf s := by
    funext p
    rw [classOf, featureGone_of_accepted h]
    rfl
  rw [bodyFault, hclass]
  rfl

/-! ## The start of a clause (R89 to R91, R303) -/

/-- The state once a team has read its registers: values are drawn for those that a delivery is still to write (R84). -/
def registersRead (s : State) (t : Team) : State := { s with fresh := s.fresh + (s.view t).2 }

theorem fetchBytes_registersRead (s : State) (t : Team) (va n : Nat) :
    (registersRead s t).fetchBytes t va n = s.fetchBytes t va n := rfl

/-- The state once a clause of a header has been fetched at a team's address. -/
def clauseSeen (s : State) (t : Team) (hdr : Dword) : State :=
  (registersRead s t).fetchSeen t t.pc.toNat (8 + 4 * hdrLen hdr)

/-- The state in which a fetched clause starts: a team that a launch has started, at its first clause, drops its core's
load cache (R303). -/
def clauseAcquired (s : State) (t : Team) (hdr : Dword) : State :=
  if t.retired = true ∨ s.isSup t = true then clauseSeen s t hdr else (clauseSeen s t hdr).dropCache (coreOf t.tid)

theorem sameButCaches_clauseSeen (s : State) (t : Team) (hdr : Dword) : sameButCaches s (clauseSeen s t hdr) :=
  sameButCaches_trans (sameButCaches_fresh s _) (sameButCaches_fetchSeen ..)

theorem isSup_clauseSeen (s : State) (t : Team) (hdr : Dword) : (clauseSeen s t hdr).isSup t = s.isSup t := by
  rw [(sameButCaches_clauseSeen s t hdr).1]
  rfl

theorem flagInRing_clauseSeen (s : State) (t : Team) (hdr : Dword) (mask : Nat) :
    (clauseSeen s t hdr).flagInRing t mask = s.flagInRing t mask := by
  rw [(sameButCaches_clauseSeen s t hdr).1]
  rfl

theorem bodyFault_clauseSeen (s : State) (t : Team) (hdr : Dword) (body : List Word) :
    bodyFault (clauseSeen s t hdr) hdr body = bodyFault s hdr body := by
  refine bodyFault_of_accepted ?_ hdr body
  rw [(sameButCaches_clauseSeen s t hdr).1]

theorem rputs_clauseAcquired (s : State) (t : Team) (hdr : Dword) : (clauseAcquired s t hdr).rputs = s.rputs := by
  have hseen : (clauseSeen s t hdr).rputs = s.rputs := by rw [(sameButCaches_clauseSeen s t hdr).1]
  unfold clauseAcquired
  split <;> exact hseen

/-- A fetched clause begins: its team stands at its first instruction. -/
def clauseBegun (s : State) (t : Team) (hdr : Dword) (body : List Word) (exempt : Bool) : State :=
  (clauseAcquired s t hdr).setTeam { t with clause := some { addr := t.pc, hdr, body }, held := none, exempt }

theorem flagsSeen_clauseBegun {s : State} {t : Team} (hr : ∀ r ∈ s.rputs, r.tid ≠ t.tid) (hdr : Dword) (body : List Word)
    (exempt : Bool) (mask : Nat) :
    (clauseBegun s t hdr body exempt).flagsSeen t.tid mask = clauseBegun s t hdr body exempt := by
  refine flagsSeen_of_noRputs ?_ mask
  rw [clauseBegun, State.setTeam_rputs, rputs_clauseAcquired]
  simpa using hr

theorem exec_clauseStart (s : State) : exec .clauseStart s = execClauseStart s := rfl

section
variable {s : State} {t : Team} (h : atHeader s t)
include h

/-- At a header that the team may issue, the body of CLAUSE_START runs. -/
theorem issue_atHeader (body : State → Team → Team → State) :
    issue s body = .next (body (registersRead s t) t (s.view t).1) := by
  obtain ⟨hteam, -, hmay, hdivide, hdatapath, -⟩ := h
  have hawaits : t.awaitsScalars = false := by simp [Team.awaitsScalars, hdatapath]
  simp [issue, hteam, hmay, hdivide, hawaits, registersRead]

theorem clause_atHeader : t.clause = none := by
  obtain ⟨-, hclause, -⟩ := h
  exact hclause

/-! The cases of CLAUSE_START. Each first names the header by its parcels, with 2 ^ 32 not computed: a product with that
literal, met inside a match, the kernel would unfold. -/

theorem clauseStart_headerUnfetched {e : Nat × Nat} (hf : (registersRead s t).fetchBytes t t.pc.toNat 8 = .inr e) :
    exec .clauseStart s = .next (((registersRead s t).fetchSeen t t.pc.toNat 8).trap t cFetch e.1 (dw e.2) 0) := by
  rw [exec_clauseStart, execClauseStart, issue_atHeader h]
  simp only [clause_atHeader h, hf]

variable {hb : List Byte} (hf : (registersRead s t).fetchBytes t t.pc.toNat 8 = .inl hb)
include hf

theorem clauseStart_headerFault {d : Nat} (hd : headerFault (headerOf hb) = some d) :
    exec .clauseStart s = .next ((registersRead s t).trap t cClause d t.pc 0) := by
  rw [exec_clauseStart, execClauseStart, issue_atHeader h]
  simp only [clause_atHeader h, dw_parcels, -Nat.reducePow]
  simp only [hf, header_parcels (length_fetchBytes hf), hd]

variable (hh : headerFault (headerOf hb) = none)
include hh

theorem clauseStart_bodyUnfetched {e : Nat × Nat}
    (he : (clauseSeen s t (headerOf hb)).fetchBytes t (t.pc.toNat + 8) (4 * hdrLen (headerOf hb)) = .inr e) :
    exec .clauseStart s = .next ((clauseSeen s t (headerOf hb)).trap t cFetch e.1 (dw e.2) 0) := by
  unfold clauseSeen at he ⊢
  rw [exec_clauseStart, execClauseStart, issue_atHeader h]
  simp only [clause_atHeader h, dw_parcels, -Nat.reducePow]
  simp only [hf, header_parcels (length_fetchBytes hf), hh, he]

variable {bb : List Byte}
  (hbody : (clauseSeen s t (headerOf hb)).fetchBytes t (t.pc.toNat + 8) (4 * hdrLen (headerOf hb)) = .inl bb)
include hbody

theorem clauseStart_bodyFault {d : Nat} (hd : bodyFault s (headerOf hb) (wordsOf bb) = some d) :
    exec .clauseStart s = .next ((clauseSeen s t (headerOf hb)).trap t cClause d t.pc 0) := by
  rw [← bodyFault_clauseSeen s t] at hd
  unfold clauseSeen at hbody hd ⊢
  rw [exec_clauseStart, execClauseStart, issue_atHeader h]
  simp only [clause_atHeader h, dw_parcels, -Nat.reducePow]
  simp only [hf, header_parcels (length_fetchBytes hf), hh, hbody, hd]

variable (hok : bodyFault s (headerOf hb) (wordsOf bb) = none) (hgo : t.stepHalts (headerOf hb) = false)
include hok hgo

theorem clauseStart_waits (hw : t.flagsSet (hdrWait (headerOf hb)) = true)
    (hr : s.flagInRing t (hdrWait (headerOf hb)) = false) :
    exec .clauseStart s = .next ((clauseSeen s t (headerOf hb)).holdAt t (.clauseWait (hdrWait (headerOf hb)))) := by
  rw [← bodyFault_clauseSeen s t] at hok
  rw [← flagInRing_clauseSeen s t (headerOf hb)] at hr
  unfold clauseSeen at hbody hok hr ⊢
  rw [exec_clauseStart, execClauseStart, issue_atHeader h]
  simp only [clause_atHeader h, dw_parcels, -Nat.reducePow]
  simp only [hf, header_parcels (length_fetchBytes hf), hh, hbody, hok, hgo, hw, hr, State.holdOrRetry, Bool.false_eq_true,
    if_false, if_true]

theorem clauseStart_begins (hw : t.flagsSet (hdrWait (headerOf hb)) = false) :
    ∃ x, exec .clauseStart s = .next (clauseBegun s t (headerOf hb) (wordsOf bb) x) := by
  obtain ⟨-, -, -, -, -, hrputs⟩ := id h
  have hsup := isSup_clauseSeen s t (headerOf hb)
  refine ⟨t.exempt && !(t.exempt && t.stepHalt && dbits t.haltRec 63 60 == 4), ?_⟩
  rw [← flagsSeen_clauseBegun hrputs _ _ _ (hdrWait (headerOf hb))]
  rw [← bodyFault_clauseSeen s t] at hok
  unfold clauseBegun clauseAcquired
  unfold clauseSeen at hbody hok hsup ⊢
  rw [exec_clauseStart, execClauseStart, issue_atHeader h]
  simp only [clause_atHeader h, dw_parcels, -Nat.reducePow]
  simp only [hf, header_parcels (length_fetchBytes hf), hh, hbody, hok, hgo, hw, hsup, Bool.false_eq_true, if_false,
    Bool.or_eq_true]

end

/-- Settles O11: each outcome of CLAUSE_START is one of its cases, and what is fetched shows in the caches alone. -/
theorem clauseStartsAsAWhole : Obligations.ClauseStartsAsAWhole := by
  intro s t h
  refine ⟨s.fresh + (s.view t).2, fun e he => ?headerUnfetched, fun hb hhb => ?headerFetched⟩
  case headerUnfetched =>
    have hf := (fetchBytes_registersRead s t _ _).trans he
    exact ⟨_, sameButCaches_trans (sameButCaches_fresh s _) (sameButCaches_fetchSeen ..), clauseStart_headerUnfetched h hf⟩
  case headerFetched =>
    have hf := (fetchBytes_registersRead s t _ _).trans hhb
    refine ⟨fun hk => ?kind, fun d hd => ?headerFaulty, fun hh => ⟨_, rfl, sameButCaches_clauseSeen s t (headerOf hb),
      fun e he => ?bodyUnfetched, fun bb hbody => ⟨fun d hd => ?bodyFaulty, fun hok hgo => ⟨fun hc => ?begins,
        fun hc hr => ?waits⟩⟩⟩⟩
    case kind => exact clauseStart_headerFault h hf (headerFault_of_kind hk)
    case headerFaulty => exact clauseStart_headerFault h hf hd
    case bodyUnfetched => exact clauseStart_bodyUnfetched h hf hh he
    case bodyFaulty => exact clauseStart_bodyFault h hf hh hbody hd
    case begins => exact clauseStart_begins h hf hh hbody hok hgo (flagsSet_hdrWait_eq_false hc)
    case waits =>
      rw [field_eq_dbits] at hr ⊢
      obtain ⟨n, hn⟩ := holdAt_eq (clauseSeen s t (headerOf hb)) t (.clauseWait (hdrWait (headerOf hb)))
      exact ⟨n, (clauseStart_waits h hf hh hbody hok hgo (flagsSet_hdrWait_eq_true hc) hr).trans (congrArg _ hn)⟩

end Sys2Proof.Machine
end

section
/-! PROOFS. The system registers and the segment registers (R60, R70, R100, R116, R119, R143): what SSET and SEGSET write; O6. -/

namespace Sys2Proof.Machine

open Sys2Proof.Claims

theorem retire_of_quiet (s : State) {u : Team} (hq : Quiet u) : s.retire u = s.setTeam u.gone :=
  retire_quiet s u hq.late hq.stepping hq.stays hq.yields

/-! ## SSET (R119, R143) -/

theorem ofNat_dbits (x : Dword) (n : Nat) : BitVec.ofNat (n + 1) (dbits x n 0) = x.setWidth (n + 1) := by
  apply BitVec.eq_of_toNat_eq
  simp [dbits, bits]

/-- The model's table of writes is the rule's; NBV is closed once an instruction has retired (R70). -/
theorem ssetRule_eq (t : Team) (x : Dword) (c : Nat) :
    ssetRule t x c = if c = 2 ∧ t.retired = true then none else t.sysWrite c x := by
  unfold ssetRule Team.sysWrite
  split
  case h_2 => simp [field_eq_dbits, ofNat_dbits x 2]
  case h_3 => cases t.retired <;> simp [field_eq_dbits, ofNat_dbits x 7]
  all_goals simp_all

/-- A system register bears on nothing by which a team retires. -/
theorem quiet_sysWrite {t u : Team} {x : Dword} {c : Nat} (h : t.sysWrite c x = some u) (hq : Quiet t) : Quiet u := by
  obtain ⟨hlate, hstep, hstay, hyield⟩ := hq
  unfold Team.sysWrite at h
  split at h
  case h_2 | h_3 =>
    simp only [Option.ite_none_right_eq_some, Option.some.injEq] at h
    obtain ⟨-, rfl⟩ := h
    exact ⟨hlate, hstep, hstay, hyield⟩
  case h_6 => cases h
  all_goals
    cases h
    exact ⟨hlate, hstep, hstay, hyield⟩

theorem sset_poised {s : State} {t : Team} (h : Poised s t) (a : BitVec 7) (c : BitVec 8) : exec (.sset a c) s = .next (
    if c.toNat = 9 ∧ s.isDbg t = false then s.trap t 0x06 0 0 0
    else if c.toNat = 2 ∧ t.retired = true then s.trap t 0x03 0 0 0
    else match t.sysWrite c.toNat (t.getS a.toNat) with
      | some u => s.retire u
      | none => s.trap t 0x03 0 0 0) := by
  have hd : (s.isDbg t = false) = ((!s.isDbg t) = true) := by simp
  simp only [hd]
  exact (show exec (.sset a c) s = execSset a c s from rfl).trans (issue_poised h _)

theorem systemRegisterIsWrittenAsPermitted : SystemRegisterIsWrittenAsPermitted := by
  intro s t a c hp
  have h := (poised_iff s t).mp hp
  have he := sset_poised h a c
  refine ⟨fun hd => he.trans (by rw [if_pos hd]), fun hd => ?permitted⟩
  case permitted =>
    rw [if_neg hd] at he
    rw [ssetRule_eq]
    by_cases hclosed : c.toNat = 2 ∧ t.retired = true
    · rw [if_pos hclosed] at he ⊢
      exact ⟨fun _ hu => (nomatch hu), fun _ => he⟩
    · rw [if_neg hclosed] at he ⊢
      refine ⟨fun u hu => ?_, fun hnone => ?_⟩
      · simp only [hu] at he
        rw [CompletesAs, he, retire_of_quiet s (quiet_sysWrite hu h.quiet)]
      · rw [he, hnone]

/-! ## SEGSET (R116) -/

theorem segmentOk_iff (s : State) (t : Team) (g : Nat) (b n : Dword) :
    s.segmentOk t g b n = true ↔ segmentAccepted s t g b n := by
  unfold State.segmentOk segmentAccepted insideRegion
  cases s.region t g <;> simp [Classical.or_iff_not_imp_left, and_assoc]

theorem Team.gone_segs (t : Team) (x : Sparse Segment) : ({ t with segs := x } : Team).gone = { t.gone with segs := x } := by
  have : ({ t with segs := x } : Team).advance = { t.advance with segs := x } := by
    cases t
    simp only [Team.advance]
    split
    · rfl
    · split <;> rfl
  rw [Team.gone, this]; rfl

theorem segset_poised {s : State} {t : Team} (h : Poised s t) (g : BitVec 3) (a b : BitVec 7) :
    exec (.segset g a b) s = .next (
      if (!s.isSup t) = true then s.trap t 0x06 0 0 0
      else if s.segmentOk t g.toNat (t.getS a.toNat) (t.getS b.toNat) = true then
        s.retire { t with segs := spWrite {} t.segs g.toNat { base := t.getS a.toNat, limit := t.getS b.toNat } }
      else s.trap t 0x03 0 0 0) :=
  (show exec (.segset g a b) s = execSegset g a b s from rfl).trans (issue_poised h _)

theorem segmentIsSetByTheSupervisor : SegmentIsSetByTheSupervisor := by
  intro s t g a b hp
  have h := (poised_iff s t).mp hp
  have he := segset_poised h g a b
  refine ⟨fun hsup hok => ?accepted, fun hsup hbad => ?refused, fun hsup => ?privilege⟩
  case privilege => simpa [hsup] using he
  all_goals simp only [hsup, Bool.not_true, Bool.false_eq_true, if_false] at he
  case refused =>
    rw [he, if_neg (mt (segmentOk_iff ..).mp hbad)]
  case accepted =>
    rw [if_pos ((segmentOk_iff ..).mpr hok)] at he
    refine ⟨_, he.trans (congrArg _ (retire_of_quiet s ⟨h.late, h.stepping, h.stays, h.yields⟩)), ?_, fun k => ?_⟩
    · rw [Team.gone_segs]
    · rw [Team.gone_segs, Team.seg, spRead_spWrite]
      rfl

/-- Settles O6: the checks of SSET and of SEGSET are the rules', and a permitted write retires at once. -/
theorem systemAndSegmentRegistersAreWritten : Obligations.SystemAndSegmentRegistersAreWritten :=
  ⟨systemRegisterIsWrittenAsPermitted, segmentIsSetByTheSupervisor⟩

end Sys2Proof.Machine
end

section
/-! PROOFS. The refutation of O44: a load's entry is replayed while the load's piece keeps the fault that it met (R190, R275). -/

namespace Sys2Proof.Machine.FaultKept

open Sys2Proof.Claims

/-! ## A load that waits for its entry's service -/

def loader : Handle := mkHandle 0 0 0 1
def supervisor : Handle := mkHandle 0 0 31 1

/-- The leaf that the partition of both teams holds: 2 GiB onto themselves, RD, W and X (R292). -/
def leaf : TlbEntry := { ctx := 0, va := 0, size := 0x80000000, pa := 0, flags := 0x1F }

/-- The load's one lane: its piece stands as it met its fault. -/
def piece : Piece :=
  { off := 0, len := 4, done := true, fault := some { cause := 1, page := 0x2000, pageSize := 4096, addr := 0x2000 } }
def lane : LaneAcc := { lane := 1, addr := 0x2000, pieces := [piece], bytes := List.replicate 4 0 }
def load : MemOp :=
  { id := 5, kind := .load, seg := 0, dest := 10, scalar := false, fmt := 6, size := 4, lanes := [lane]
    origin := { tid := loader, ctx := 0, lid := 2, core := 0, plot := 1, pc := 0, iword := 0, lit := 0, issue := 0 } }

/-- The retry-ring entry of the load, written and popped. -/
def entry : RetryEntry := { slot := 0, origin := 0, tid := loader, opId := 5, lanes := [1] }
def context : Context :=
  { id := 0, apBase := 0, saveSize := 0, live := true, qBase := 0x10000000, qLimit := 0x1900000, supervisor
    retry := [entry], written := 1, popped := 1 }

/-- The team that loads, parked for the entry. -/
def parked : Team :=
  { tid := loader, ctx := 0, lid := 2, plot := 1, index := 0, width := 32, regs := 64, run := .parked .retry none, pc := 0 }

/-- RDONE.replay of the entry whose Q offset stands in s[20], and the supervisor that stands at it. -/
def fields : VFields := { vd := 0, va := 20, vb := 0, vc := 0, fmt := 0, md := 0, fn := 1, lit := none }
def server : Team :=
  { parked with tid := supervisor, lid := 1, plot := 0, run := .active, s := [(20, 64)]
                clause := some { addr := 0, hdr := 0, body := encode (.rdoneReplay fields) } }

def state : State :=
  { State.reset with
    cur := supervisor, teams := [parked, server], ctxs := [context], ops := [load], bringup := .ready
    cores := [(0, { first := [(0, [leaf])] })] }

/-! ## The statement's hypotheses -/

/-- What the leaf covers stands at its own address. -/
theorem stands {o : Origin} (hctx : o.ctx = 0) (hport : o.port = 0) {va : Nat} (hva : va < 0x80000000) (acc : Acc) :
    byteStands state o va acc va := by
  refine ⟨⟨leaf, false, ?_, ?_⟩, fun _ => rfl⟩
  · rw [hctx, hport]
    show tlbFind [leaf] 0 va = some leaf
    simp [tlbFind, leaf, hva]
  · have hmod : paModule va = 0 := Nat.div_eq_of_lt (by omega)
    have hloc : paLocal va = va := Nat.mod_eq_of_lt (by omega)
    have hhbm : localHbm va = true := by simp [localHbm]; omega
    have hhost : localHost va = false := by simp [localHost]; omega
    have hown : state.moduleNumber = 0 := rfl
    cases acc <;> simp [leafCheck, leaf, hmod, hloc, hhbm, hhost, hown, State.inDomain, State.reachable]

theorem header_stands : qStands state context (fun va => va) 0 64 := by
  intro j hj
  have hbase : context.qBase.toNat = 0x10000000 := rfl
  rw [hbase]
  exact stands rfl (by decide +kernel) (by omega) .write

theorem resolves_entry : Resolves state server fields context entry load parked (fun va => va) where
  serves := ⟨by decide +kernel, by decide +kernel, by decide +kernel, fun a b _ => Nat.add_comm a b⟩
  header := header_stands
  entry := ⟨by unfold entryHere; decide +kernel, by decide, rfl⟩
  alone := by decide
  op := by decide +kernel
  team := by decide +kernel
  ready := by decide +kernel
  lives := fun _ hl => nomatch hl
  kept := rfl
  weirs := by decide +kernel
  rputs := fun _ hr => nomatch hr

/-- The load's fault is a new one after the replay, and the operation stays for it. -/
theorem load_stays {s' : State} (h : exec (.rdoneReplay fields) state = .next s') : s'.op? load.id ≠ none := by
  have hrun : (match exec (.rdoneReplay fields) state with | .next x => (x.op? load.id).isSome | _ => false) = true := by
    decide +kernel
  rw [h] at hrun
  exact Option.isSome_iff_ne_none.mp hrun

end Sys2Proof.Machine.FaultKept

namespace Sys2Proof.Machine

open Sys2Proof.Claims

/-- Refutes O44: `.replay` clears a lane's fault but not the fault of its pieces, which the statement leaves open. A load whose
piece keeps the fault that it met is sampled, and that fault is held again for the ring: the load stays, though the statement
has it ended. -/
theorem not_invalidationAndResolutionFreeTranslationsAndEntries :
    ¬ Obligations.InvalidationAndResolutionFreeTranslationsAndEntries := by
  unfold Obligations.InvalidationAndResolutionFreeTranslationsAndEntries
  rintro ⟨⟨-, -, -, -, hresolve, -⟩, -⟩
  obtain ⟨-, -, hreplay⟩ := hresolve _ _ _ _ _ _ _ _ FaultKept.resolves_entry
  obtain ⟨w, s', ⟨s'', a, hexec, -, -, -, -, hends, -⟩, -⟩ := hreplay FaultKept.lane FaultKept.piece 0x2000 rfl rfl rfl rfl rfl rfl
    rfl rfl rfl rfl rfl (by decide) (by decide) (FaultKept.stands rfl (by decide +kernel) (by decide) .read) (by decide +kernel)
    (fun hflag => nomatch hflag) (by decide +kernel) (by unfold frozenLane; decide +kernel) (by decide +kernel) (by decide +kernel)
    (by decide) (fun _ hr => nomatch hr)
  exact FaultKept.load_stays hexec hends

end Sys2Proof.Machine
end

section
/-! PROOFS. Teams that go on after a stop (R36, R317, R337, R363, R390): what wakes them changes, one team after another. -/

namespace Sys2Proof.Machine

open Sys2Proof.Claims

/-! ## One team among many -/

/-- A change of every team that keeps handles is seen in each team. -/
theorem team?_mapTeams (s : State) {g : Team → Team} (hg : ∀ u, (g u).tid = u.tid) (h : Handle) :
    ({ s with teams := s.teams.map g } : State).team? h = (s.team? h).map g := by
  have hp : ((fun u : Team => u.tid == h) ∘ g) = fun u => u.tid == h := funext fun u => by simp [hg]
  simp only [State.team?, List.find?_map, hp]

/-- Where no two teams have one handle, each is the team of its own. -/
theorem team?_of_mem {s : State} (hn : (s.teams.map Team.tid).Nodup) {w : Team} (hw : w ∈ s.teams) : s.team? w.tid = some w := by
  cases hf : s.team? w.tid with
  | none => exact absurd (List.find?_eq_none.mp hf w hw) (by simp)
  | some u => exact congrArg some (List.inj_on_of_nodup_map hn (List.mem_of_find?_eq_some hf) hw (State.tid_of_team? hf))

/-! ## What the service of a wake leaves (R283, R317) -/

/-- State w is state s but for its teams and for lines dropped from load caches. -/
structure TeamsWake (s w : State) : Prop where
  rest : w = { s with teams := w.teams, cores := w.cores }
  core : ∀ c, w.core c = s.core c ∨ w.core c = { s.core c with cache := [] }

theorem TeamsWake.refl (s : State) : TeamsWake s s := ⟨rfl, fun _ => .inl rfl⟩

theorem TeamsWake.trans {s v w : State} (h : TeamsWake s v) (h' : TeamsWake v w) : TeamsWake s w where
  rest := by
    rw [h'.rest]
    conv_lhs => rw [h.rest]
  core c := by
    rcases h.core c with hv | hv <;> rcases h'.core c with hw | hw <;> simp [hv, hw]

theorem teamsWake_setTeam (s : State) (u : Team) : TeamsWake s (s.setTeam u) := ⟨rfl, fun _ => .inl rfl⟩

theorem core_dropCache (s : State) (k c : Nat) :
    (s.dropCache k).core c = if c = k then { s.core k with cache := [] } else s.core c := s.core_modCore k c _

theorem teamsWake_dropCache (s : State) (k : Nat) : TeamsWake s (s.dropCache k) where
  rest := rfl
  core c := by
    rw [core_dropCache]
    split
    case isTrue hk => exact .inr (by rw [hk])
    case isFalse => exact .inl rfl

theorem TeamsWake.now {s w : State} (h : TeamsWake s w) (t : Team) : w.now t = s.now t := by
  unfold State.now
  rcases h.core (coreOf t.tid) with hc | hc <;> rw [hc]

theorem TeamsWake.cache {s w : State} (h : TeamsWake s w) {c : Nat} (hc : (s.core c).cache = []) : (w.core c).cache = [] := by
  rcases h.core c with hw | hw <;> simp [hw, hc]

/-! ## Teams served in turn -/

/-- The service of one team: it alone changes, as R says. -/
structure ServesTeam (R : Team → Team → Prop) (h : Handle) (s w : State) : Prop where
  wakes : TeamsWake s w
  mine : ∀ t, s.team? h = some t → ∃ u, w.team? h = some u ∧ R t u
  others : ∀ k, k ≠ h → w.team? k = s.team? k

/-- Teams served one after another, each once: each changes as R says, and no other team does. -/
theorem servesTeams_foldl {f : State → Handle → State} {R : Team → Team → Prop} {s : State} :
    ∀ (hs : List Handle) (v : State), hs.Nodup → TeamsWake s v → (∀ h ∈ hs, v.team? h = s.team? h) →
      (∀ (v : State), TeamsWake s v → ∀ h ∈ hs, v.team? h = s.team? h → ServesTeam R h v (f v h)) →
      TeamsWake v (hs.foldl f v) ∧ (∀ h ∈ hs, ∀ t, s.team? h = some t → ∃ u, (hs.foldl f v).team? h = some u ∧ R t u) ∧
        ∀ k ∉ hs, (hs.foldl f v).team? k = v.team? k
  | [], v, _, _, _, _ => ⟨.refl v, fun _ hh => (nomatch hh), fun _ _ => rfl⟩
  | h :: hs, v, hn, hv, hteams, hf => by
    obtain ⟨hnew, hn⟩ := List.nodup_cons.mp hn
    have hone := hf v hv h (by simp) (hteams h (by simp))
    have hne : ∀ k ∈ hs, k ≠ h := fun k hk e => hnew (e ▸ hk)
    obtain ⟨hwakes, hmine, hothers⟩ := servesTeams_foldl hs (f v h) hn (hv.trans hone.wakes)
      (fun k hk => (hone.others k (hne k hk)).trans (hteams k (by simp [hk]))) fun w hw k hk => hf w hw k (by simp [hk])
    refine ⟨hone.wakes.trans hwakes, fun k hk t ht => ?_, fun k hk => ?_⟩
    · rcases List.mem_cons.mp hk with rfl | hk
      · obtain ⟨u, hu, hR⟩ := hone.mine t ((hteams k (by simp)).trans ht)
        exact ⟨u, (hothers k hnew).trans hu, hR⟩
      · exact hmine k hk t ht
    · obtain ⟨hkh, hk⟩ := not_or.mp (mt List.mem_cons.mpr hk)
      exact (hothers k hk).trans (hone.others k hkh)

/-- The core of each team that was served has an empty load cache, where every service leaves one. -/
theorem cacheDropped_foldl {f : State → Handle → State} {R : Team → Team → Prop} {s : State} :
    ∀ (hs : List Handle) (v : State), hs.Nodup → TeamsWake s v → (∀ h ∈ hs, v.team? h = s.team? h) →
      (∀ (v : State), TeamsWake s v → ∀ h ∈ hs, v.team? h = s.team? h →
        ServesTeam R h v (f v h) ∧ ((f v h).core (coreOf h)).cache = []) →
      ∀ h ∈ hs, ((hs.foldl f v).core (coreOf h)).cache = []
  | [], _, _, _, _, _ => fun _ hh => (nomatch hh)
  | h :: hs, v, hn, hv, hteams, hf => by
    obtain ⟨hnew, hnd⟩ := List.nodup_cons.mp hn
    obtain ⟨hone, hdrops⟩ := hf v hv h (by simp) (hteams h (by simp))
    have hsame : ∀ k ∈ hs, (f v h).team? k = s.team? k := fun k hk =>
      (hone.others k fun e => hnew (e ▸ hk)).trans (hteams k (by simp [hk]))
    have hrest : ∀ (w : State), TeamsWake s w → ∀ k ∈ hs, w.team? k = s.team? k →
        ServesTeam R k w (f w k) ∧ ((f w k).core (coreOf k)).cache = [] := fun w hw k hk => hf w hw k (by simp [hk])
    intro k hk
    rcases List.mem_cons.mp hk with rfl | hk
    · exact (servesTeams_foldl hs (f v k) hnd (hv.trans hone.wakes) hsame fun w hw k hk e => (hrest w hw k hk e).1).1.cache hdrops
    · exact cacheDropped_foldl hs (f v h) hnd (hv.trans hone.wakes) hsame hrest k hk

/-! ## A team that comes back (R36, R390) -/

/-- A team that comes back where nothing but the retry ring can have ended its park: PENDING if it has. -/
def Team.backAt (t : Team) (now : Nat) : Team := if t.woken then t.toPending now else t

theorem wakeBack_plain {s : State} {h : Handle} {t : Team} (ht : s.team? h = some t) (hp : resumesPlainly t) :
    s.wakeBack h = if t.woken then (s.setTeam (t.toPending (s.now t))).dropCache (coreOf h) else s := by
  have hid := State.tid_of_team? ht
  have hback : (s.setTeam (t.toPending (s.now t))).team? h = some (t.toPending (s.now t)) := team?_setTeam_at ht hid
  cases hw : t.woken with
  | true =>
    simp only [State.wakeBack, ht, hp.2 hw, hw, if_true, State.wakeTo, hid, hback, State.acquireAt]
    rfl
  | false =>
    simp only [State.wakeBack, ht, hw, Bool.false_eq_true, if_false]
    split <;> rfl

theorem takeDeferred_none {s : State} {h : Handle} {t : Team} (ht : s.team? h = some t) (hd : t.deferred = []) :
    s.takeDeferred h = s := by
  simp [State.takeDeferred, ht, hd]

/-- The wake of a team that comes back, and the trap that it may take, for one that resumes plainly. -/
theorem comesBack {s : State} {h : Handle} {t : Team} (ht : s.team? h = some t) (hp : resumesPlainly t) :
    ServesTeam (fun t u => u = t.backAt (s.now t)) h s ((s.wakeBack h).takeDeferred h) ∧
      ((s.core (coreOf h)).cache = [] → (((s.wakeBack h).takeDeferred h).core (coreOf h)).cache = []) := by
  have hid := State.tid_of_team? ht
  rw [wakeBack_plain ht hp]
  cases hw : t.woken with
  | true =>
    have hback : ((s.setTeam (t.toPending (s.now t))).dropCache (coreOf h)).team? h = some (t.toPending (s.now t)) :=
      team?_setTeam_at ht hid
    have hwakes := (teamsWake_setTeam s (t.toPending (s.now t))).trans (teamsWake_dropCache _ (coreOf h))
    rw [if_pos rfl, takeDeferred_none hback hp.1]
    refine ⟨⟨hwakes, fun v hv => ⟨_, hback, ?_⟩, fun k hk => ?_⟩, hwakes.cache⟩
    · rw [← Option.some.inj (ht.symm.trans hv), Team.backAt, if_pos hw]
    · exact State.team?_setTeam_ne s (t.toPending (s.now t)) (by rw [show (t.toPending (s.now t)).tid = h from hid]; exact hk)
  | false =>
    rw [if_neg (by simp), takeDeferred_none ht hp.1]
    refine ⟨⟨.refl s, fun v hv => ⟨v, hv, ?_⟩, fun _ _ => rfl⟩, id⟩
    rw [← Option.some.inj (ht.symm.trans hv), Team.backAt, if_neg (by simp [hw])]

end Sys2Proof.Machine
end

section
/-! PROOFS. Debug instructions on halted teams (R267, R270, R271, R362, R368, R369): HRESUME, HKILL, LRELEASE, HSTEP and the ends of steps; O42. -/

namespace Sys2Proof.Machine

open Sys2Proof.Claims

/-! ## The target (R267) -/

theorem target_none {s : State} {t : Team} {r : BitVec 9} (h : namesNone s t r) :
    s.target (s.askerOf t) (t.getS r.toNat) = none := by
  unfold State.target
  split
  case h_1 u hu => exact if_neg (h u hu)
  case h_2 => rfl

theorem target_some {s : State} {t u : Team} {r : BitVec 9} (h : names s t r u) :
    s.target (s.askerOf t) (t.getS r.toNat) = some u := by
  obtain ⟨hteam, hctx⟩ := h
  simp only [State.target, hteam]
  exact if_pos hctx

theorem names_here {s : State} {t u : Team} {r : BitVec 9} (h : names s t r u) : s.team? u.tid = some u :=
  (State.tid_of_team? h.1).symm ▸ h.1

theorem haltedTarget_iff (u : Team) : u.haltedTarget = true ↔ halted u := by
  unfold Team.haltedTarget Team.isHalted halted
  rcases u.stop with _ | _ | _ <;> simp [and_comm]

theorem haltedTarget_eq_false {u : Team} (h : ¬ halted u) : u.haltedTarget = false :=
  Bool.eq_false_iff.mpr (mt (haltedTarget_iff u).mp h)

/-- A team that may issue is not halted. -/
theorem Poised.not_halted {s : State} {t : Team} (h : Poised s t) : ¬ halted t := by
  rintro ⟨hpre, -, hstop⟩
  simpa [Team.isActive, Team.running, hpre, hstop] using h.active

theorem Poised.tid_ne_of_halted {s : State} {t u : Team} (h : Poised s t) (hu : s.team? u.tid = some u) (hh : halted u) :
    u.tid ≠ t.tid :=
  tid_ne hu h.here fun e => h.not_halted (e ▸ hh)

/-! ## A debug instruction that acts at once -/

theorem ofNat_vd (f : VFields) : BitVec.ofNat 7 f.vd.toNat = vdReg f := BitVec.ofNat_toNat 7 f.vd

theorem debugInsn_eq {s : State} {t : Team} (h : Poised s t) {op : Nat} {f : VFields} {act : State → Asker → Team → Answer}
    (hc : checkV s t op f = none) {a : Answer} (ha : act s (s.askerOf t) t = a) (ht : a.state.team? t.tid = some t) :
    debugInsn op false f act s = .next (a.state.retireS t [(vdReg f, a.d)]) := by
  rw [debugInsn, issueV_passes h op f _ hc, ← ofNat_vd f]
  simp only [ha, ht]
  rfl

/-- State s' is state w with the issuing team gone on and its status written. -/
structure Answered (t : Team) (d : BitVec 7) (x : Dword) (w s' : State) : Prop where
  own : s'.team? t.tid = some (t.gone.setS d.toNat x)
  others : ∀ h, h ≠ t.tid → s'.team? h = w.team? h
  mem : s'.mem = w.mem
  launches : s'.launches = w.launches

theorem retireS_answered {w : State} {t : Team} (hq : Quiet t) (ht : w.team? t.tid = some t) (d : BitVec 7) (x : Dword) :
    Answered t d x w (w.retireS t [(d, x)]) := by
  have htid : (t.gone.setS d.toNat x).tid = t.tid := by rw [← Team.gone_setS]; exact Team.gone_tid _
  have hgone : (t.setAll [(d, x)]).gone = t.gone.setS d.toNat x := Team.gone_setS t d.toNat x
  have heq := retireS_quiet (s := w) hq [(d, x)]
  rw [hgone] at heq
  rw [heq]
  exact ⟨team?_setTeam_at ht htid, fun h hh => State.team?_setTeam_ne _ _ (htid.symm ▸ hh), rfl, rfl⟩

theorem debugInsn_answered {s : State} {t : Team} (h : Poised s t) {op : Nat} {f : VFields} {act : State → Asker → Team → Answer}
    {i : Instr} (hi : exec i s = debugInsn op false f act s) (hc : checkV s t op f = none) {w : State} {x : Dword}
    (ha : act s (s.askerOf t) t = { state := w, d := x }) (ht : w.team? t.tid = some t) :
    ∃ s', exec i s = .next s' ∧ Answered t (vdReg f) x w s' :=
  ⟨_, hi.trans (debugInsn_eq h hc ha ht), retireS_answered h.quiet ht _ _⟩

/-- An instruction that only tells a status. -/
theorem debugInsn_tells {s : State} {t : Team} (h : Poised s t) {op : Nat} {f : VFields} {act : State → Asker → Team → Answer}
    {i : Instr} (hi : exec i s = debugInsn op false f act s) (hc : checkV s t op f = none) {x : Dword}
    (ha : act s (s.askerOf t) t = { state := s, d := x }) : SetsScalar i s t (vdReg f) x :=
  setsScalar_of_retireS h (hi.trans (debugInsn_eq (a := { state := s, d := x }) h hc ha h.here))

/-! ## HKILL -/

/-- The parties of a team that is killed become abandoned: no team changes but in the park that it waits in (R211). -/
theorem abandon_teams (s : State) (t : Team) :
    ∃ g : Team → Team, (∀ u, g u = { u with run := (g u).run }) ∧ (∀ u, u.run = .active → g u = u) ∧
      (s.abandon t).teams = s.teams.map g := by
  unfold State.abandon
  extract_lets gang hit s1 s2 wakeUp
  refine ⟨wakeUp, fun u => ?_, fun u hu => ?_, ?_⟩
  · unfold wakeUp
    split
    · dsimp only
      split
      · split <;> rfl
      · split <;> rfl
    · rfl
  · unfold wakeUp
    rw [hu]
  · have hs : s2.teams = s.teams := by
      unfold s2
      split <;> rfl
    exact congrArg (List.map wakeUp) hs

theorem abandon_team? {s : State} {h : Handle} {u : Team} (hu : s.team? h = some u) (t : Team) :
    ∃ r, (s.abandon t).team? h = some { u with run := r } ∧ (u.run = .active → r = .active) := by
  obtain ⟨g, hrun, hactive, hteams⟩ := abandon_teams s t
  have hid : ∀ w, (g w).tid = w.tid := fun w => by rw [hrun w]
  have hmap := team?_mapTeams s hid h
  rw [hu] at hmap
  refine ⟨(g u).run, ?_, fun ha => by rw [hactive u ha, ha]⟩
  rw [← hrun u, State.team?, hteams]
  exact hmap

theorem acceptDeath_same {s : State} {h : Handle} {u : Team} (hu : s.team? h = some u) (hd : u.dying = none) (b : Bool) (g : Nat) :
    (s.acceptDeath h b g).team? h = some { u with
      dying := some { killed := b, group := g, inSave := s.launchSaving u }, held := none, reservedEntries := 0, arrived := none } := by
  simp only [State.acceptDeath]
  refine (State.team?_modTeam_same _ h _ fun t ht => ?_).trans ((congrArg (Option.map _) hu).trans ?_)
  · split <;> exact ht
  · rw [Option.map_some, hd]
    rfl

theorem kill_eq {s : State} {h : Handle} {u : Team} (hu : s.team? h = some u) (hd : u.dying = none) (g : Nat) :
    s.kill h g = (s.acceptDeath h true g).abandon u := by
  rw [State.kill, hu]
  simp [hd]

/-- A kill marks the team and leaves its estate to be conveyed. -/
theorem kill_marks {s : State} {h : Handle} {u : Team} (hu : s.team? h = some u) (hd : u.dying = none) (g : Nat) :
    ∃ w, (s.kill h g).team? h = some w ∧ w.dying = some { killed := true, group := g, inSave := s.launchSaving u } ∧
      w.estate = u.estate := by
  obtain ⟨r, hr, -⟩ := abandon_team? (acceptDeath_same hu hd true g) u
  rw [kill_eq hu hd]
  exact ⟨_, hr, rfl, rfl⟩

/-- A kill leaves an active team as it is. -/
theorem kill_active {s : State} {h k : Handle} {u t : Team} (hu : s.team? h = some u) (hd : u.dying = none) (hk : k ≠ h)
    (ht : s.team? k = some t) (ha : t.run = .active) (g : Nat) : (s.kill h g).team? k = some t := by
  obtain ⟨r, hr, hrun⟩ := abandon_team? ((acceptDeath_ne s true g hk).trans ht) u
  rw [kill_eq hu hd, hr, hrun ha, ← ha]

theorem Poised.run {s : State} {t : Team} (h : Poised s t) : t.run = .active := by
  have ha := h.active
  unfold Team.isActive at ha
  split at ha
  · assumption
  · simp at ha

theorem exec_hkill (f : VFields) (s : State) : exec (.hkill f) s =
    debugInsn 0x28E false f (fun s a v => s.hkill a (v.getS f.va.toNat)) s := rfl

theorem hkill_status {s : State} {t : Team} {f : VFields} (h : Poised s t) (hc : checkV s t 0x28E f = none) :
    (namesNone s t f.va → SetsScalar (.hkill f) s t (vdReg f) 16) ∧
    (∀ u, names s t f.va u → ¬ halted u → SetsScalar (.hkill f) s t (vdReg f) 17) := by
  refine ⟨fun hn => ?_, fun u hu hh => ?_⟩
  · refine debugInsn_tells h (exec_hkill f s) hc ?_
    rw [State.hkill, target_none hn]
  · refine debugInsn_tells h (exec_hkill f s) hc ?_
    rw [State.hkill, target_some hu]
    simp [haltedTarget_eq_false hh]

theorem hkill_acts {s : State} {t u : Team} {f : VFields} (h : Poised s t) (hc : checkV s t 0x28E f = none)
    (hu : names s t f.va u) (hh : halted u) : ∃ s' w, exec (.hkill f) s = .next s' ∧
      s'.team? t.tid = some (t.gone.setS (vdReg f).toNat 0) ∧ s'.team? u.tid = some w ∧
      w.dying = some { killed := true, group := s.nextId, inSave := s.launchSaving u } ∧
      w.estate = u.estate ∧ s'.mem = s.mem := by
  have hhere := names_here hu
  have hne := h.tid_ne_of_halted hhere hh
  obtain ⟨-, hdying, -⟩ := id hh
  have hact : s.hkill (s.askerOf t) (t.getS f.va.toNat) = { state := s.takeId.2.kill u.tid s.nextId, d := 0 } := by
    rw [State.hkill, target_some hu]
    simp [(haltedTarget_iff u).mpr hh, State.takeId]
  obtain ⟨w, hw, hmark, hestate⟩ := kill_marks (s := s.takeId.2) hhere hdying s.nextId
  obtain ⟨s', he, hans⟩ := debugInsn_answered h (exec_hkill f s) hc hact
    (kill_active (s := s.takeId.2) hhere hdying hne.symm h.here h.run s.nextId)
  exact ⟨s', w, he, hans.own, (hans.others _ hne).trans hw, hmark, hestate, hans.mem.trans (State.kill_mem ..)⟩

/-! ## LRELEASE -/

/-- The team with one lane's HOLD bit clear. -/
def Team.laneReleased (u : Team) (n : Nat) : Team := { u with hold := u.hold &&& ~~~(maskOf [n]) }

theorem getLsbD_releaseLane (m : LaneMask) (n l : Nat) :
    (m &&& ~~~(maskOf [n])).getLsbD l = if l = n then false else m.getLsbD l := by
  simp only [maskOf, List.foldl_cons, List.foldl_nil, BitVec.getLsbD_and, BitVec.getLsbD_not, BitVec.getLsbD_or,
    BitVec.getLsbD_shiftLeft]
  by_cases hl : l < 1024
  · by_cases hln : l = n
    · subst hln
      simp [hl]
    · have : ¬ (¬ l < n ∧ l - n = 0) := by omega
      simp [hl, hln]
      omega
  · rw [BitVec.getLsbD_of_ge m l (by omega)]
    simp

theorem exec_lrelease (f : VFields) (s : State) : exec (.lrelease f) s =
    debugInsn 0x28F false f (fun s a v => s.lrelease a (v.getS f.va.toNat) (v.getS f.vb.toNat)) s := rfl

theorem lrelease_status {s : State} {t : Team} {f : VFields} (h : Poised s t) (hc : checkV s t 0x28F f = none) :
    (namesNone s t f.va → SetsScalar (.lrelease f) s t (vdReg f) 16) ∧
    (∀ u, names s t f.va u → u.preempted = true → SetsScalar (.lrelease f) s t (vdReg f) 17) ∧
    (∀ u, names s t f.va u → u.preempted = false → u.width ≤ field (t.getS f.vb.toNat) 9 0 →
      SetsScalar (.lrelease f) s t (vdReg f) 18) := by
  refine ⟨fun hn => ?_, fun u hu hp => ?_, fun u hu hp hw => ?_⟩
  · refine debugInsn_tells h (exec_lrelease f s) hc ?_
    rw [State.lrelease, target_none hn]
  · refine debugInsn_tells h (exec_lrelease f s) hc ?_
    rw [State.lrelease, target_some hu]
    simp [hp]
  · refine debugInsn_tells h (exec_lrelease f s) hc ?_
    rw [State.lrelease, target_some hu]
    rw [field_eq_dbits] at hw
    simp [hp, hw]

theorem lrelease_acts {s : State} {t u : Team} {f : VFields} (h : Poised s t) (hc : checkV s t 0x28F f = none)
    (hu : names s t f.va u) (hp : u.preempted = false) (hw : field (t.getS f.vb.toNat) 9 0 < u.width) (hne : u.tid ≠ t.tid) :
    actsOn (.lrelease f) s t (vdReg f) 0 u (u.laneReleased (field (t.getS f.vb.toNat) 9 0)) := by
  have hhere := names_here hu
  have hact : s.lrelease (s.askerOf t) (t.getS f.va.toNat) (t.getS f.vb.toNat) =
      { state := s.setTeam (u.laneReleased (field (t.getS f.vb.toNat) 9 0)), d := 0 } := by
    rw [State.lrelease, target_some hu]
    rw [field_eq_dbits] at hw ⊢
    simp [hp, Nat.not_le.mpr hw, Team.laneReleased]
  obtain ⟨s', he, hans⟩ := debugInsn_answered h (exec_lrelease f s) hc hact ((State.team?_setTeam_ne s (u.laneReleased _) hne.symm).trans h.here)
  exact ⟨s', he, hans.own, (hans.others _ hne).trans (team?_setTeam_at hhere rfl), hans.mem,
    fun k hkt hku => (hans.others k hkt).trans (State.team?_setTeam_ne s (u.laneReleased _) hku)⟩

/-! ## HRESUME -/

theorem resumed_backAt (s : State) (w : Team) : (w.resumed (s.now w)).backAt (s.now w) = goesOn s w := by
  unfold Team.backAt goesOn
  rw [show (w.resumed (s.now w)).woken = w.woken from rfl]
  split <;> rfl

/-- Teams that go on: each of them comes back, and no other team changes. -/
theorem resumeAll_serves {s : State} (hn : (s.teams.map Team.tid).Nodup) {mine : Team → Bool}
    (hp : ∀ w ∈ s.teams, mine w = true → resumesPlainly w) :
    TeamsWake s (s.resumeAll mine) ∧
      (∀ w ∈ s.teams, mine w = true → (s.resumeAll mine).team? w.tid = some (goesOn s w)) ∧
      (∀ w ∈ s.teams, mine w = false → (s.resumeAll mine).team? w.tid = some w) := by
  unfold State.resumeAll
  extract_lets s1
  have hstart : TeamsWake s s1 := ⟨rfl, fun _ => .inl rfl⟩
  have hteam : ∀ w ∈ s.teams, s1.team? w.tid = some (if mine w then w.resumed (s.now w) else w) := fun w hw =>
    (team?_mapTeams s (fun u => by split <;> rfl) w.tid).trans (congrArg (Option.map _) (team?_of_mem hn hw))
  have hmem : ∀ h ∈ (s.teams.filter mine).map Team.tid, ∃ w ∈ s.teams, mine w = true ∧ w.tid = h := fun h hh => by
    obtain ⟨w, hw, rfl⟩ := List.mem_map.mp hh
    obtain ⟨hw, hm⟩ := List.mem_filter.mp hw
    exact ⟨w, hw, hm, rfl⟩
  obtain ⟨hwakes, hback, hothers⟩ := servesTeams_foldl (s := s1)
    (f := fun s h => (s.wakeBack h).takeDeferred h) (R := fun t u => u = t.backAt (s1.now t)) _ s1
    (hn.sublist (List.filter_sublist.map _)) (.refl s1) (fun _ _ => rfl) fun v hv h hh hsame => by
      obtain ⟨w, hw, hm, rfl⟩ := hmem h hh
      have hv' : v.team? w.tid = some (w.resumed (s.now w)) := hsame.trans ((hteam w hw).trans (by rw [if_pos hm]))
      obtain ⟨hserves, -⟩ := comesBack hv' (hp w hw hm)
      exact ⟨hserves.wakes, fun t ht => by simpa only [hv.now] using hserves.mine t ht, hserves.others⟩
  refine ⟨hstart.trans hwakes, fun w hw hm => ?_, fun w hw hm => ?_⟩
  · have hin : w.tid ∈ (s.teams.filter mine).map Team.tid := List.mem_map.mpr ⟨w, List.mem_filter.mpr ⟨hw, hm⟩, rfl⟩
    obtain ⟨u, hu, rfl⟩ := hback w.tid hin (w.resumed (s.now w)) ((hteam w hw).trans (by rw [if_pos hm]))
    exact hu.trans (congrArg some (resumed_backAt s w))
  · have hout : w.tid ∉ (s.teams.filter mine).map Team.tid := fun hin => by
      obtain ⟨u, hu, hmu, hid⟩ := hmem _ hin
      rw [List.inj_on_of_nodup_map hn hu hw hid, hm] at hmu
      cases hmu
    exact (hothers _ hout).trans ((hteam w hw).trans (by simp [hm]))

theorem exec_hresume (f : VFields) (s : State) : exec (.hresume f) s =
    debugInsn 0x28D false f (fun s a v => s.hresume a (f.fn.toNat % 4) (v.getS f.va.toNat)) s := rfl

theorem hresume_status {s : State} {t : Team} {f : VFields} (h : Poised s t) (hc : checkV s t 0x28D f = none) :
    (namesNone s t f.va → SetsScalar (.hresume f) s t (vdReg f) 16) ∧
    (∀ u, names s t f.va u → f.fn.toNat % 4 = 0 → ¬ halted u → SetsScalar (.hresume f) s t (vdReg f) 17) := by
  refine ⟨fun hn => ?_, fun u hu hscope hh => ?_⟩
  · refine debugInsn_tells h (exec_hresume f s) hc ?_
    rw [State.hresume, target_none hn]
  · refine debugInsn_tells h (exec_hresume f s) hc ?_
    rw [State.hresume, target_some hu]
    simp [hscope, haltedTarget_eq_false hh]

/-- HRESUME's unit is the halted teams of its scope. -/
theorem hresume_target {s : State} {a : Asker} {n : Nat} {x : Dword} {u : Team} (hu : s.target a x = some u) (hn : n < 3)
    (hh : n = 0 → halted u) : ∃ mine : Team → Bool, (∀ w, mine w = true ↔ halted w ∧ inScope n u w) ∧
      s.hresume a n x =
        { state := if 2 ≤ n then (s.resumeAll mine).modLaunch u.ctx u.lid (fun l => { l with haltMark := false }) else s.resumeAll mine
          d := dw (s.teams.filter mine).length } := by
  have hgoes : ¬ ((n == 0 && !u.haltedTarget) = true) := by
    simp only [Bool.and_eq_true, beq_iff_eq, Bool.not_eq_true', not_and, Bool.not_eq_false]
    exact fun h0 => (haltedTarget_iff u).mpr (hh h0)
  simp only [State.hresume, hu]
  rw [if_neg (by simpa using hgoes)]
  refine ⟨_, fun w => ?_, rfl⟩
  rw [Bool.and_eq_true, haltedTarget_iff]
  refine and_congr_right fun _ => ?_
  unfold inScope
  obtain rfl | rfl | rfl : n = 0 ∨ n = 1 ∨ n = 2 := by omega
  all_goals simp

theorem hresume_acts {s : State} {t u : Team} {f : VFields} (h : Poised s t) (hc : checkV s t 0x28D f = none) {hs : List Handle}
    (hu : names s t f.va u) (hscope : f.fn.toNat % 4 < 3) (hh : f.fn.toNat % 4 = 0 → halted u)
    (hn : (s.teams.map Team.tid).Nodup) (hp : ∀ w ∈ s.teams, w.tid ∈ hs → resumesPlainly w) (hnd : hs.Nodup)
    (hmem : ∀ h, h ∈ hs ↔ ∃ w ∈ s.teams, w.tid = h ∧ halted w ∧ inScope (f.fn.toNat % 4) u w) :
    ∃ s', exec (.hresume f) s = .next s' ∧ s'.mem = s.mem ∧
      s'.team? t.tid = some (t.gone.setS (vdReg f).toNat (BitVec.ofNat 64 hs.length)) ∧
      (∀ w ∈ s.teams, w.tid ∈ hs → s'.team? w.tid = some (goesOn s w)) ∧
      (∀ w ∈ s.teams, w.tid ∉ hs → w.tid ≠ t.tid → s'.team? w.tid = some w) ∧
      (f.fn.toNat % 4 = 2 → ∀ l, s'.launch? u.ctx u.lid = some l → l.haltMark = false) := by
  obtain ⟨mine, hmine, hact⟩ := hresume_target (target_some hu) hscope hh
  have hin : ∀ w ∈ s.teams, w.tid ∈ hs ↔ mine w = true := fun w hw => by
    rw [hmem, hmine]
    refine ⟨fun ⟨v, hv, hid, hv'⟩ => ?_, fun hw' => ⟨w, hw, rfl, hw'⟩⟩
    rwa [List.inj_on_of_nodup_map hn hv hw hid] at hv'
  have hperm : ((s.teams.filter mine).map Team.tid).Perm hs :=
    (List.perm_ext_iff_of_nodup (hn.sublist (List.filter_sublist.map _)) hnd).mpr fun k => by
      rw [List.mem_map, hmem]
      simp only [List.mem_filter, hmine]
      exact ⟨fun ⟨w, ⟨hw, hw'⟩, hid⟩ => ⟨w, hw, hid, hw'⟩, fun ⟨w, hw, hid, hw'⟩ => ⟨w, ⟨hw, hw'⟩, hid⟩⟩
  have hcount : (s.teams.filter mine).length = hs.length := List.length_map (f := Team.tid) ▸ hperm.length_eq
  obtain ⟨hwakes, hback, hothers⟩ := resumeAll_serves hn fun w hw hm => hp w hw ((hin w hw).mpr hm)
  have hmineT : mine t = false := Bool.eq_false_iff.mpr fun hm => h.not_halted ((hmine t).mp hm).1
  have hown := hothers t (List.mem_of_find?_eq_some h.here) hmineT
  have hteam : ∀ k, (if 2 ≤ f.fn.toNat % 4 then (s.resumeAll mine).modLaunch u.ctx u.lid (fun l => { l with haltMark := false })
      else s.resumeAll mine).team? k = (s.resumeAll mine).team? k := fun k => by split <;> rfl
  obtain ⟨s', he, hans⟩ := debugInsn_answered h (exec_hresume f s) hc hact ((hteam _).trans hown)
  refine ⟨s', he, hans.mem.trans ?_, ?_, fun w hw hm => ?_, fun w hw hm hne => ?_, fun htwo l hl => ?_⟩
  · rw [hwakes.rest]
    split <;> rfl
  · rw [hans.own, hcount]
    rfl
  · have hne : w.tid ≠ t.tid := h.tid_ne_of_halted (team?_of_mem hn hw) ((hmine w).mp ((hin w hw).mp hm)).1
    rw [hans.others _ hne, hteam, hback w hw ((hin w hw).mp hm)]
  · rw [hans.others _ hne, hteam, hothers w hw (Bool.eq_false_iff.mpr (mt (hin w hw).mpr hm))]
  · have hlaunch := launch?_modLaunch (s.resumeAll mine) u.ctx u.lid (f := fun l => { l with haltMark := false })
      fun _ => ⟨rfl, rfl⟩
    rw [State.launch?, hans.launches, if_pos htwo.ge] at hl
    obtain ⟨m, -, rfl⟩ := Option.map_eq_some_iff.mp (hlaunch.symm.trans hl)
    rfl

/-! ## HSTEP -/

/-- No step that the team has begun runs: HSTEP goes on at once. -/
def stepsNone (s : State) (t : Team) : Prop := ∀ u ∈ s.teams, ∀ st, u.stepping = some st → st.by_ ≠ some t.tid

theorem hstep_poised {s : State} {t : Team} {f : VFields} (h : Poised s t) (hc : checkV s t 0x28C f = none)
    (hfree : stepsNone s t) :
    exec (.hstep f) s = .next (match s.hstep (s.askerOf t) (vdReg f) (t.getS f.va.toNat) (t.getS f.vb.toNat) with
      | .inr n => s.retireS t [(vdReg f, dw n)]
      | .inl s1 => s1.holdAt t .debug) := by
  refine (show exec (.hstep f) s = execHstep f s from rfl).trans ((issueV_passes h 0x28C f _ hc).trans ?_)
  have hidle : (s.teams.any fun u => match u.stepping with | some st => st.by_ == some t.tid | none => false) = false :=
    List.any_eq_false.mpr fun u hu => by
      split
      case h_1 st hst => simpa using hfree u hu st hst
      case h_2 => simp
  rw [ofNat_vd f]
  exact congrArg _ (if_neg (ne_true_of_eq_false hidle))

theorem hstep_status {s : State} {t : Team} {f : VFields} (h : Poised s t) (hc : checkV s t 0x28C f = none)
    (hfree : stepsNone s t) :
    (namesNone s t f.va → SetsScalar (.hstep f) s t (vdReg f) 16) ∧
    (∀ u, names s t f.va u → ¬ halted u → SetsScalar (.hstep f) s t (vdReg f) 17) ∧
    (∀ u, names s t f.va u → halted u →
      (field (t.getS f.vb.toNat) 47 32 = 0 ∨ u.width ≤ field (t.getS f.vb.toNat) 9 0) →
      SetsScalar (.hstep f) s t (vdReg f) 18) := by
  have hp := hstep_poised h hc hfree
  refine ⟨fun hn => ?_, fun u hu hh => ?_, fun u hu hh hbad => ?_⟩
  · rw [State.hstep, target_none hn] at hp
    exact setsScalar_of_retireS h hp
  · rw [State.hstep, target_some hu] at hp
    simp only [haltedTarget_eq_false hh, Bool.not_false, if_true] at hp
    exact setsScalar_of_retireS h hp
  · rw [State.hstep, target_some hu] at hp
    simp only [field_eq_dbits] at hbad
    simp only [(haltedTarget_iff u).mpr hh, Bool.not_true, Bool.false_eq_true, if_false, if_pos hbad] at hp
    exact setsScalar_of_retireS h hp

/-- The step that HSTEP begins (R270). -/
def stepBegun (t u : Team) (sd : BitVec 7) (x : Dword) : Stepping :=
  { by_ := some t.tid, mailbox := 0, sd, focus := field x 9 0, left := field x 47 32
    outcome := match u.run with | .parked _ _ => if u.woken then none else some 4 | _ => none }

/-- The target resumed under a step. -/
def Team.stepsFrom (u : Team) (now : Nat) (st : Stepping) : Team := { u.resumed now with stepping := some st }

theorem hstep_begun {s : State} {t u : Team} {f : VFields} (hu : names s t f.va u) (hh : halted u)
    (hn : 0 < field (t.getS f.vb.toNat) 47 32) (hfocus : field (t.getS f.vb.toNat) 9 0 < u.width) :
    s.hstep (s.askerOf t) (vdReg f) (t.getS f.va.toNat) (t.getS f.vb.toNat) =
      .inl (((s.setTeam (u.stepsFrom (s.now u) (stepBegun t u (vdReg f) (t.getS f.vb.toNat)))).wakeBack
        u.tid).takeDeferred u.tid) := by
  have hgood : ¬ (dbits (t.getS f.vb.toNat) 47 32 = 0 ∨ u.width ≤ dbits (t.getS f.vb.toNat) 9 0) := by
    rw [← field_eq_dbits, ← field_eq_dbits]
    omega
  rw [State.hstep, target_some hu]
  simp only [(haltedTarget_iff u).mpr hh, Bool.not_true, Bool.false_eq_true, if_false, if_neg hgood, State.askerOf, Team.stepsFrom, stepBegun,
    field_eq_dbits]
  cases hrun : u.run with
  | parked p w => cases u.woken <;> rfl
  | pending => rfl
  | active => rfl

theorem hstep_acts {s : State} {t u : Team} {f : VFields} (h : Poised s t) (hc : checkV s t 0x28C f = none)
    (hfree : stepsNone s t) (hu : names s t f.va u) (hh : halted u) (hp : resumesPlainly u)
    (hn : 0 < field (t.getS f.vb.toNat) 47 32) (hfocus : field (t.getS f.vb.toNat) 9 0 < u.width) :
    ∃ s' n, exec (.hstep f) s = .next s' ∧ s'.team? t.tid = some { t with held := some (.debug, n) } ∧
      s'.team? u.tid = some { goesOn s u with stepping := some (stepBegun t u (vdReg f) (t.getS f.vb.toNat)) } := by
  have hhere := names_here hu
  have hne := h.tid_ne_of_halted hhere hh
  have he := hstep_poised h hc hfree
  rw [hstep_begun hu hh hn hfocus] at he
  generalize stepBegun t u (vdReg f) (t.getS f.vb.toNat) = st at he ⊢
  have hback : (s.setTeam (u.stepsFrom (s.now u) st)).team? u.tid =
      some (u.stepsFrom (s.now u) st) := team?_setTeam_at hhere rfl
  obtain ⟨hserves, -⟩ := comesBack hback hp
  obtain ⟨_, hw, rfl⟩ := hserves.mine _ hback
  have hown := (hserves.others t.tid hne.symm).trans ((State.team?_setTeam_ne s (u.stepsFrom (s.now u) st) hne.symm).trans h.here)
  obtain ⟨n, hheld⟩ := holdAt_eq (((s.setTeam (u.stepsFrom (s.now u) st)).wakeBack u.tid).takeDeferred u.tid) t .debug
  refine ⟨_, n, he.trans (congrArg _ hheld), team?_setTeam_at hown rfl,
    (State.team?_setTeam_ne _ { t with held := some (.debug, n) } hne).trans (hw.trans ?_)⟩
  rw [← resumed_backAt]
  unfold Team.backAt
  rw [show (u.stepsFrom (s.now u) st).woken = (u.resumed (s.now u)).woken from rfl]
  split <;> rfl

/-! ## The ends of steps, and stops (R270, R362, R368) -/

/-- A team that is not HALTED yet stops where it stands, with the record of the stop it was told, or the one given. -/
theorem haltWith_running {t : Team} (h : t.stop ≠ some .halted) (r : Dword) :
    t.haltWith r = { t.haltedNow with
      haltRec := match t.stop with | some (.stopping x _ _) => x | _ => r
      arrived := t.arrived, pcSeen := t.pcSeen && t.arrived.isSome } := by
  unfold Team.haltWith
  rcases hstop : t.stop with _ | _ | _
  · rfl
  · exact absurd hstop h
  · rfl

/-- The halt record that the end of a step gives a team that was not told to stop (R366). -/
def stepRecord (t : Team) (st : Stepping) : Nat → Dword
  | 0 => plainRecord 5 st.focus t.tid
  | 1 => plainRecord 6 st.focus t.tid
  | _ => t.haltRec

/-- The target of a step that is over. -/
def Team.stepOver (t : Team) (st : Stepping) (n : Nat) : Team :=
  { t.haltWith (stepRecord t st n) with stepping := none, stepHalt := t.stepHalt || decide (n ≤ 1) }

theorem hstepEnd_eq {s : State} {t : Team} {st : Stepping} {n : Nat} (ht : s.team? s.arg.tid = some t)
    (hst : t.stepping = some st) (hn : st.outcome = some n) :
    exec .hstepEnd s = .next (if (t.datapath.isSome || t.hadamard.isSome || s.dividing t) = true then s
      else (s.setTeam (t.stepOver st n)).stepReply st n) := by
  refine (show exec .hstepEnd s = execHstepEnd s from rfl).trans ?_
  rw [execHstepEnd, ht]
  simp only [hst, hn]
  rcases n with _ | _ | n
  · rfl
  · rfl
  · rfl

theorem atRest_iff (s : State) (t : Team) :
    atRest s t ↔ ¬ (t.datapath.isSome || t.hadamard.isSome || s.dividing t) = true := by
  simp [atRest, and_assoc]

theorem stepReply_eq {w : State} {a : Team} {st : Stepping} (hby : st.by_ = some a.tid) (ha : w.team? a.tid = some a) (n : Nat) :
    w.stepReply st n = w.retireS a [(st.sd, dw n)] := by
  simp only [State.stepReply, hby, ha]

theorem stepOver_eq {t : Team} (h : t.stop ≠ some .halted) (st : Stepping) (n : Nat) :
    t.stepOver st n = { t.haltedNow with
      haltRec := match t.stop with | some (.stopping x _ _) => x | _ => stepRecord t st n
      arrived := t.arrived, pcSeen := t.pcSeen && t.arrived.isSome, stepping := none
      stepHalt := t.stepHalt || decide (n ≤ 1) } := by
  rw [Team.stepOver, haltWith_running h]

theorem stepRecord_eq (t : Team) (st : Stepping) (n : Nat) : stepRecord t st n =
    if n = 0 ∨ n = 1 then BitVec.ofNat 64 ((5 + n) * 2 ^ 60 + st.focus * 2 ^ 38 + t.tid.toNat) else t.haltRec := by
  rcases n with _ | _ | n
  · rfl
  · rfl
  · exact (if_neg (by omega)).symm

theorem hstepEnd_ends {s : State} {t a : Team} {st : Stepping} {n : Nat} (ht : s.team? s.arg.tid = some t)
    (hst : t.stepping = some st) (hn : st.outcome = some n) (hby : st.by_ = some a.tid) (ha : s.team? a.tid = some a)
    (hne : a.tid ≠ t.tid) (hq : Quiet a) (hrun : t.stop ≠ some .halted) (hrest : atRest s t) :
    ∃ s', exec .hstepEnd s = .next s' ∧ s'.team? a.tid = some (a.gone.setS st.sd.toNat (BitVec.ofNat 64 n)) ∧
      s'.team? t.tid = some (t.stepOver st n) ∧ s'.mem = s.mem := by
  have he := hstepEnd_eq ht hst hn
  have hid : (t.stepOver st n).tid = t.tid := by rw [stepOver_eq hrun]; rfl
  have hother : (s.setTeam (t.stepOver st n)).team? a.tid = some a :=
    (State.team?_setTeam_ne s _ (hid.symm ▸ hne)).trans ha
  have hthere : s.team? t.tid = some t := (State.tid_of_team? ht).symm ▸ ht
  rw [if_neg ((atRest_iff s t).mp hrest), stepReply_eq hby hother] at he
  have hans := retireS_answered hq hother st.sd (dw n)
  exact ⟨_, he, hans.own, (hans.others _ hne.symm).trans (team?_setTeam_at hthere hid), hans.mem⟩

theorem stepLimit_ends {s : State} {t : Team} {st : Stepping} (ht : s.team? s.arg.tid = some t)
    (hst : t.stepping = some st) (hn : st.outcome = none) (hidle : 4096 ≤ st.idle) :
    CompletesAs .stepLimit s { t with stepping := some { st with outcome := some 1 } } := by
  refine (show exec .stepLimit s = execStepLimit s from rfl).trans ?_
  rw [execStepLimit, ht]
  simp only [hst, if_pos hidle, Team.endStep, hn, Option.getD_none]

theorem teamHaltStop_stops {s : State} {t : Team} {r : Dword} {n : Nat} {b : Bool} (ht : s.team? s.arg.tid = some t)
    (hstop : t.stop = some (.stopping r n b)) (hheld : t.held = none) (hdiv : s.dividing t = false)
    (hst : t.stepping = none) : CompletesAs .teamHaltStop s ({ t with stop := none }.haltWith r) := by
  refine (show exec .teamHaltStop s = execTeamHaltStop s from rfl).trans ?_
  rw [execTeamHaltStop, ht]
  simp only [hstop, hheld, hdiv, Bool.or_false, Bool.false_eq_true, if_false]
  refine congrArg (fun u => Host.Outcome.next (s.setTeam u)) (Team.endStep_quiet ?_ 3)
  exact hst

/-! ## The statements -/

theorem haltedTeamsAreResumedKilledAndReleased : HaltedTeamsAreResumedKilledAndReleased := by
  refine ⟨fun s t f hp hc => ?hresume, fun s t f hp hc => ?hkill, fun s t f hp hc => ?lrelease⟩
  all_goals have h := (poised_iff s t).mp hp
  case hresume =>
    obtain ⟨hnone, hrunning⟩ := hresume_status h hc
    exact ⟨hnone, hrunning, fun u hs hu hscope hh hn hplain hnd hmem => hresume_acts h hc hu hscope hh hn hplain hnd hmem⟩
  case hkill =>
    obtain ⟨hnone, hrunning⟩ := hkill_status h hc
    exact ⟨hnone, hrunning, fun u hu hh => hkill_acts h hc hu hh⟩
  case lrelease =>
    obtain ⟨hnone, hsaved, hwidth⟩ := lrelease_status h hc
    exact ⟨hnone, hsaved, hwidth, fun u hu hpre hlane hne =>
      ⟨_, lrelease_acts h hc hu hpre hlane hne, rfl, fun l => getLsbD_releaseLane u.hold _ l⟩⟩

theorem stepsAndStopsEndInHalts : StepsAndStopsEndInHalts := by
  refine ⟨fun s t f hp hc hfree => ?hstep, fun s t a st n ht hst hn hby ha hne hq hrun => ⟨fun hbusy => ?waits, fun hrest => ?ends⟩,
    fun s t st ht hst hn hidle => stepLimit_ends ht hst hn hidle, fun s t r n b ht hstop hheld hdiv hst => ?stop⟩
  case hstep =>
    have h := (poised_iff s t).mp hp
    obtain ⟨hnone, hrunning, hbad⟩ := hstep_status h hc hfree
    refine ⟨hnone, hrunning, hbad, fun u hu hh hplain hcount hfocus => ?_⟩
    obtain ⟨s', n, he, hown, htarget⟩ := hstep_acts h hc hfree hu hh hplain hcount hfocus
    exact ⟨s', _, n, he, hown, htarget, rfl, rfl⟩
  case waits =>
    rw [hstepEnd_eq ht hst hn, if_pos (not_not.mp (mt (atRest_iff s t).mpr hbusy))]
  case ends =>
    obtain ⟨s', he, hown, htarget, hmem⟩ := hstepEnd_ends ht hst hn hby ha hne hq hrun hrest
    rw [stepOver_eq hrun, stepRecord_eq] at htarget
    exact ⟨s', _, he, hown, htarget, rfl, rfl, rfl, rfl, rfl, rfl, hmem, rfl, rfl⟩
  case stop =>
    exact ⟨_, teamHaltStop_stops ht hstop hheld hdiv hst, rfl, rfl, rfl, rfl, rfl, rfl, rfl⟩

/-- Settles O42: each debug instruction on its target, found or refused; a team that resumes comes back as its park says; and
the ends of steps and stops leave a HALTED team with its record. -/
theorem haltedTeamsGoOnStepAndEnd : Obligations.HaltedTeamsGoOnStepAndEnd :=
  ⟨haltedTeamsAreResumedKilledAndReleased, stepsAndStopsEndInHalts⟩

end Sys2Proof.Machine
end

section
/-! PROOFS. Pre-emption, the save and the restore of launches (R299, R335, R336, R337, R389); O39. -/

namespace Sys2Proof.Machine

open Sys2Proof.Claims

/-! ## Places for images (R299, R389) -/

theorem takeRuns_sums (n : Nat) (free : List (Nat × Nat)) (h : n ≤ (free.map Prod.snd).sum) :
    ((takeRuns n free).1.map Prod.snd).sum = n ∧
      ((takeRuns n free).2.map Prod.snd).sum = (free.map Prod.snd).sum - n := by
  induction free generalizing n with
  | nil =>
    obtain rfl : n = 0 := by simpa using h
    exact ⟨rfl, rfl⟩
  | cons r rest ih =>
    rw [List.map_cons, List.sum_cons] at h ⊢
    unfold takeRuns
    split
    case isTrue h0 => simp [h0]
    case isFalse =>
      split
      case isTrue hle =>
        obtain ⟨htook, hleft⟩ := ih (n - r.2) (by omega)
        refine ⟨?_, ?_⟩
        · rw [List.map_cons, List.sum_cons, htook]
          omega
        · rw [hleft]
          omega
      case isFalse hlt => exact ⟨by simp, by simp only [List.map_cons, List.sum_cons]; omega⟩

/-- Where the free runs have room for all records, each record gets the bytes that it has. -/
theorem placeImage_sums {free : List (Nat × Nat)} {recs : List (ImageOf × Nat)}
    (h : (recs.map Prod.snd).sum ≤ (free.map Prod.snd).sum) {p : ImagePart} (hp : p ∈ placeImage free recs) :
    ∃ r ∈ recs, p.of_ = r.1 ∧ (p.runs.map Prod.snd).sum = r.2 := by
  induction recs generalizing free with
  | nil => exact nomatch hp
  | cons r rest ih =>
    rw [List.map_cons, List.sum_cons] at h
    obtain ⟨htook, hleft⟩ := takeRuns_sums r.2 free (by omega)
    rw [placeImage] at hp
    rcases List.mem_cons.mp hp with rfl | hp
    · exact ⟨r, by simp, rfl, htook⟩
    · obtain ⟨q, hq, hof, hsum⟩ := ih (by omega) hp
      exact ⟨q, by simp [hq], hof, hsum⟩

theorem imageRecords_sizes {s : State} {v : Launch} {r : ImageOf × Nat} (h : r ∈ s.imageRecords v) :
    r.2 = recordBytes v.header r.1 := by
  obtain ⟨p, -, hr⟩ := List.mem_flatMap.mp h
  split at hr
  case h_1 => exact nomatch hr
  case h_2 =>
    rcases List.mem_cons.mp hr with rfl | hr
    · rfl
    · rcases List.mem_append.mp hr with hr | hr
      · obtain ⟨c, -, rfl⟩ := List.mem_map.mp hr
        rfl
      · obtain ⟨t, -, rfl⟩ := List.mem_map.mp hr
        rfl

/-! ## The request (R335) -/

theorem startSave_saves {s : State} {v : Launch} (hv : isLaunch s v) (hfits : s.imageFits v = true) :
    (s.startSave v).mem = s.mem ∧ (s.startSave v).teams = (s.teams.map fun t => if ofLaunch t v then t.endArm 2 else t) ∧
      ∃ m, (s.startSave v).launch? v.ctx v.lid = some m ∧
        m = { v with phase := .saving, midPlacement := m.midPlacement, image := m.image } ∧
        (m.midPlacement = true ↔ v.placed < hPlots v.header) ∧
        ∀ p ∈ m.image, (p.runs.map Prod.snd).sum = recordBytes v.header p.of_ := by
  refine ⟨rfl, rfl, _, launch?_modLaunch_some hv _ fun _ => ⟨rfl, rfl⟩, rfl, decide_eq_true_iff, fun p hp => ?_⟩
  unfold State.imageFits at hfits
  split at hfits
  case h_1 => exact nomatch hfits
  case h_2 c hc =>
    simp only [hc] at hp
    obtain ⟨r, hr, hof, hsum⟩ := placeImage_sums (of_decide_eq_true hfits) hp
    rw [hsum, hof, imageRecords_sizes hr]

/-- What makes a launch one that a head launch may displace. -/
theorem victims_spec {s : State} {l v : Launch} (h : v ∈ s.victims l) :
    (v.phase = .running ∨ v.phase = .placing) ∧ (s.plotsOf v.ctx v.lid).isEmpty = false ∧ s.isSupLaunch v.ctx v.lid = false := by
  have hm := (List.mem_filter.mp h).2
  simp only [Bool.and_eq_true, Bool.not_eq_true'] at hm
  obtain ⟨⟨⟨⟨⟨-, hphase⟩, hplots⟩, hsup⟩, -⟩, -⟩ := hm
  refine ⟨?_, hplots, hsup⟩
  split at hphase
  · exact .inl ‹_›
  · exact .inr ‹_›
  · exact nomatch hphase

theorem requestPreempt_fits {s : State} {l v : Launch} (hv : isLaunch s v) (hvictim : v ∈ s.victims l)
    (hfits : s.imageFits v = true) : s.requestPreempt v.ctx v.lid = s.startSave v := by
  obtain ⟨hphase, hplots, hsup⟩ := victims_spec hvictim
  have hfound : s.launch? v.ctx v.lid = some v := hv
  unfold State.requestPreempt
  rw [hfound]
  rcases hphase with hp | hp <;> simp [hp, hplots, hsup, hfits]

/-- The launch that a head launch takes: the youngest whose image fits. -/
def youngestFit (s : State) (l : Launch) : Option Launch :=
  minBy (fun (v : Launch) => l.seq + 2 ^ 64 - v.seq) ((s.victims l).filter s.imageFits)

theorem youngestFit_eq {s : State} {l v : Launch} (hvictim : v ∈ s.victims l) (hfits : s.imageFits v = true)
    (hyoungest : ∀ w ∈ s.victims l, w = v ∨ w.seq < v.seq) (hseq : v.seq < 2 ^ 64) : youngestFit s l = some v :=
  minBy_eq (List.mem_filter.mpr ⟨hvictim, hfits⟩) fun w hw =>
    (hyoungest w (List.mem_filter.mp hw).1).imp_right fun hlt => by omega

theorem youngestFit_none {s : State} {l : Launch} (h : ∀ v ∈ s.victims l, s.imageFits v = false) : youngestFit s l = none := by
  rw [youngestFit, List.filter_eq_nil_iff.mpr fun v hv => by simp [h v hv]]
  rfl

/-- What the headgate does for a head launch, given the launch to take if any: younger ones are reported (R299, R335). -/
def State.displace (s : State) (l : Launch) (best : Option Launch) : State :=
  let younger := fun (v : Launch) => match best with | some b => decide (b.seq < v.seq) | none => true
  let s1 := ((s.victims l).filter fun v => !s.imageFits v && younger v).foldl (fun (s : State) v => s.report v.ctx 4 0 0 0 v.lid) s
  match best with
  | some v => s1.requestPreempt v.ctx v.lid
  | none => s1

theorem headgatePreemption_early {s : State} {l : Launch} (hl : s.launch? s.arg.a s.arg.b = some l)
    (hearly : (s.core 0).cyc < l.since + 32000) : exec .headgatePreemption s = .next s := by
  refine (show exec .headgatePreemption s = execHeadgatePreemption s from rfl).trans ?_
  unfold execHeadgatePreemption
  rw [hl]
  simp [Nat.not_le.mpr hearly]

theorem headgatePreemption_due {s : State} {l : Launch} (hl : s.launch? s.arg.a s.arg.b = some l)
    (hphase : l.phase = .queued ∨ l.phase = .placing) (hhead : s.isHead l = true)
    (hdue : l.since + 32000 ≤ (s.core 0).cyc) :
    exec .headgatePreemption s = .next (s.displace l (youngestFit s l)) := by
  refine (show exec .headgatePreemption s = execHeadgatePreemption s from rfl).trans ?_
  unfold execHeadgatePreemption
  rw [hl]
  rcases hphase with hp | hp
  · simp only [hp, hhead, hdue, decide_true, Bool.and_self, if_true]
    rfl
  · simp only [hp, hhead, hdue, decide_true, Bool.and_self, if_true]
    rfl

/-- Where none is younger than the launch to take, none is reported. -/
theorem displace_youngest {s : State} {l v : Launch} (hold : ∀ w ∈ s.victims l, w = v ∨ w.seq < v.seq) :
    s.displace l (some v) = s.requestPreempt v.ctx v.lid := by
  have hnone : ((s.victims l).filter fun w => !s.imageFits w && decide (v.seq < w.seq)) = [] :=
    List.filter_eq_nil_iff.mpr fun w hw => by
      rcases hold w hw with rfl | hlt
      · simp
      · simp [Nat.not_lt.mpr hlt.le]
  simp only [State.displace, hnone, List.foldl_nil]

/-- Where no image fits, each launch that would make room is reported. -/
theorem displace_none {s : State} {l : Launch} (hfits : ∀ v ∈ s.victims l, s.imageFits v = false) :
    s.displace l none = (s.victims l).foldl (fun (x : State) v => x.report v.ctx 4 0 0 0 v.lid) s := by
  have hall : ((s.victims l).filter fun w => !s.imageFits w && true) = s.victims l :=
    List.filter_eq_self.mpr fun w hw => by simp [hfits w hw]
  simp only [State.displace, hall]

/-! ## The save (R336) -/

/-- The team goes along with a pre-emption unless its death was accepted before. -/
theorem toSave_iff (t : Team) : t.toSave = true ↔ goesAlong t := by
  unfold Team.toSave goesAlong
  cases t.dying <;> simp

theorem fireLine_unarmed {s : State} (h : s.arms = []) (line n : Nat) : s.fireLine line n = s := by
  simp only [State.fireLine, h, List.filter_nil, List.foldl_nil]
  rw [← h]

/-- With no monitor armed, a write at home changes memory and heals its sectors. -/
theorem homeWriteBy_unarmed {s : State} (h : s.arms = []) (writer pa : Nat) (bs : List Byte) :
    s.homeWriteBy writer true pa bs = { s with mem := memWrite s.mem pa bs }.healSectors writer pa bs.length := by
  have hfold : ∀ (ls : List Nat) (v : State), v.arms = [] → ls.foldl (fun st l => st.fireLine l 0) v = v := by
    intro ls v hv
    induction ls with
    | nil => rfl
    | cons l ls ih => rw [List.foldl_cons, fireLine_unarmed hv, ih]
  exact hfold _ _ h

/-- Bytes away from some places keep their values, and no team, plot, crew or launch changes. -/
structure WritesWithin (away : Nat → Prop) (s w : State) : Prop where
  mem : ∀ x, away x → memByte w.mem x = memByte s.mem x
  teams : w.teams = s.teams
  plots : w.plots = s.plots
  launches : w.launches = s.launches
  arms : w.arms = s.arms

theorem WritesWithin.refl (away : Nat → Prop) (s : State) : WritesWithin away s s := ⟨fun _ _ => rfl, rfl, rfl, rfl, rfl⟩

theorem WritesWithin.trans {away : Nat → Prop} {s v w : State} (h : WritesWithin away s v) (h' : WritesWithin away v w) :
    WritesWithin away s w :=
  ⟨fun x hx => (h'.mem x hx).trans (h.mem x hx), h'.teams.trans h.teams, h'.plots.trans h.plots,
    h'.launches.trans h.launches, h'.arms.trans h.arms⟩

theorem WritesWithin.weaken {away near : Nat → Prop} {s w : State} (h : WritesWithin near s w) (hx : ∀ x, away x → near x) :
    WritesWithin away s w :=
  ⟨fun x ha => h.mem x (hx x ha), h.teams, h.plots, h.launches, h.arms⟩

theorem WritesWithin.fold {α : Type} {away : Nat → Prop} {f : State → α → State} (l : List α) (s : State) (ha : s.arms = [])
    (hf : ∀ s, s.arms = [] → ∀ a ∈ l, WritesWithin away s (f s a)) : WritesWithin away s (l.foldl f s) := by
  induction l generalizing s with
  | nil => exact .refl away s
  | cons a l ih =>
    have hone := hf s ha a (by simp)
    exact hone.trans (ih _ (hone.arms.trans ha) fun v hv b hb => hf v hv b (by simp [hb]))

theorem writeRecord_within {s : State} (ha : s.arms = []) (p : ImagePart) :
    WritesWithin (fun x => ∀ r ∈ p.runs, x < r.1 ∨ r.1 + r.2 ≤ x) s (s.writeRecord p) := by
  refine .fold p.runs s ha fun v hv r hr => ?_
  have hwrite := homeWriteBy_unarmed (s := (v.drawBytes r.2).2) hv 0 r.1 (v.drawBytes r.2).1
  rw [hwrite]
  refine ⟨fun x hx => ?_, rfl, rfl, rfl, rfl⟩
  refine (memByte_memWrite _ _ _ _).trans (if_neg ?_)
  have hlen : (v.drawBytes r.2).1.length = r.2 := by simp [State.drawBytes]
  have := hx r hr
  omega

theorem splitOps_none {s : State} {ks : List Crew} (h : ∀ k ∈ ks, s.crewRuns k = none) :
    ks.foldl (fun s k => s.splitOp k) s = s := by
  induction ks with
  | nil => rfl
  | cons k ks ih =>
    have hk : s.splitOp k = s := by rw [State.splitOp, h k (by simp)]
    rw [List.foldl_cons, hk, ih fun c hc => h c (by simp [hc])]

/-- Saving leaves a team in its plot, and whether its death was accepted. -/
theorem saved_stays (t : Team) : t.saved.plot = t.plot ∧ t.saved.dying = t.dying := by
  unfold Team.saved
  dsimp only
  split
  case h_1 r n b hstop => rw [haltWith_running (by rw [hstop]; simp)]; exact ⟨rfl, rfl⟩
  case h_2 => exact ⟨rfl, rfl⟩

theorem mem_unsaved {s : State} {ctx lid : Nat} {p : Plot} : p ∈ s.unsaved ctx lid ↔
    p ∈ s.plots ∧ p.ctx = ctx ∧ p.lid = lid ∧ p.saved = false ∧ ∃ t ∈ s.teams, t.plot = p.id ∧ goesAlong t := by
  have hteams : (!(s.savedTeams p).isEmpty) = true ↔ ∃ t ∈ s.teams, t.plot = p.id ∧ goesAlong t := by
    simp only [State.savedTeams, Bool.not_eq_true', List.isEmpty_eq_false_iff_exists_mem, List.mem_filter, Bool.and_eq_true,
      beq_iff_eq, toSave_iff]
  simp only [State.unsaved, State.plotsOf, List.mem_filter, Bool.and_eq_true, beq_iff_eq, hteams, Bool.not_eq_true', and_assoc]

/-- Plots of a launch that the save takes on the core that it is at. -/
def State.takenIds (s : State) (l : Launch) : List Nat :=
  ((s.unsaved l.ctx l.lid).filter fun p => p.core == s.arg.c).map Plot.id

/-- The save takes the team. -/
def State.takesTeam (s : State) (l : Launch) (t : Team) : Bool := (s.takenIds l).contains t.plot && t.toSave

/-- Teams and plots that the save in state s takes, taken in state w. -/
def State.takeInto (s : State) (l : Launch) (w : State) : State :=
  { w with
    teams := w.teams.map fun (t : Team) => if s.takesTeam l t then t.saved else t
    plots := w.plots.map fun (p : Plot) => if (s.takenIds l).contains p.id then { p with saved := true } else p }

/-- The same, and with the last core the launch is pre-empted. -/
def State.saveInto (s : State) (l : Launch) (w : State) : State :=
  if ((s.takeInto l w).unsaved l.ctx l.lid).isEmpty then (s.takeInto l w).modLaunch l.ctx l.lid fun m => { m with phase := .preempted }
  else s.takeInto l w

/-- The save of a core whose teams have nothing under way, and none of whose crews has an operation that runs. -/
theorem preemptionSave_eq {s : State} {l : Launch} (hl : isLaunch s l) (ha : s.arg.a = l.ctx) (hb : s.arg.b = l.lid)
    (hphase : l.phase = .saving) (hsavable : ∀ t ∈ s.teams, s.takesTeam l t = true → s.savable t = true)
    (hcrews : ∀ k ∈ s.crews, s.crewRuns k = none) (harms : s.arms = []) :
    ∃ w, exec .preemptionSave s = .next (s.saveInto l w) ∧
      WritesWithin (fun x => ∀ p ∈ l.image, ∀ r ∈ p.runs, x < r.1 ∨ r.1 + r.2 ≤ x) s w := by
  have hfound : s.launch? l.ctx l.lid = some l := hl
  have hall : ((s.teams.filter (s.takesTeam l)).all s.savable) = true :=
    List.all_eq_true.mpr fun t ht => hsavable t (List.mem_filter.mp ht).1 (List.mem_filter.mp ht).2
  have hidle : ∀ q : Crew → Bool, ∀ k ∈ s.crews.filter q, s.crewRuns k = none := fun q k hk => hcrews k (List.mem_filter.mp hk).1
  have hnone : ((s.crews.filter fun k => (s.takenIds l).contains k.plot).any fun k => (s.crewRuns k).isSome) = false :=
    List.any_eq_false.mpr fun k hk => by simp [hidle _ k hk]
  have heq := (show exec .preemptionSave s = execPreemptionSave s from rfl)
  unfold execPreemptionSave at heq
  simp only [ha, hb, hfound, hphase] at heq
  unfold State.takesTeam at hall
  rw [if_pos ?_, splitOps_none (hidle _)] at heq
  · exact ⟨_, heq, .fold _ s harms fun v hv p hp => (writeRecord_within hv p).weaken fun x hx =>
      hx p (List.mem_filter.mp hp).1⟩
  · simp only [Bool.and_eq_true, Bool.not_eq_true', Bool.and_eq_false_iff]
    exact ⟨⟨trivial, hall⟩, .inr hnone⟩

theorem eq_of_getElem?_map {α β : Type} {f : α → β} {l : List α} {n : Nat} {a : α} {b : β} (ha : l[n]? = some a)
    (hb : (l.map f)[n]? = some b) : b = f a := by
  rw [List.getElem?_map, ha] at hb
  exact (Option.some.inj hb).symm

section
variable {s : State} {l : Launch}

/-- A plot that the save takes. -/
def taken (s : State) (l : Launch) (p : Plot) : Prop :=
  p.ctx = l.ctx ∧ p.lid = l.lid ∧ p.saved = false ∧ p.core = s.arg.c ∧ ∃ t ∈ s.teams, t.plot = p.id ∧ goesAlong t

theorem takenIds_iff (i : Nat) : (s.takenIds l).contains i = true ↔ ∃ p ∈ s.plots, taken s l p ∧ i = p.id := by
  simp only [List.contains_eq_mem, decide_eq_true_eq, State.takenIds, List.mem_map, List.mem_filter, mem_unsaved, beq_iff_eq, taken]
  constructor
  · rintro ⟨p, ⟨⟨hp, hctx, hlid, hsaved, hteam⟩, hcore⟩, rfl⟩
    exact ⟨p, hp, ⟨hctx, hlid, hsaved, hcore, hteam⟩, rfl⟩
  · rintro ⟨p, hp, ⟨hctx, hlid, hsaved, hcore, hteam⟩, rfl⟩
    exact ⟨p, ⟨⟨hp, hctx, hlid, hsaved, hteam⟩, hcore⟩, rfl⟩

theorem takesTeam_iff (t : Team) : s.takesTeam l t = true ↔ (∃ p ∈ s.plots, taken s l p ∧ t.plot = p.id) ∧ goesAlong t := by
  rw [State.takesTeam, Bool.and_eq_true, takenIds_iff, toSave_iff]

/-- Of plots with identifiers of their own, those are taken whose identifiers are. -/
theorem takenIds_of_unique {p : Plot} (hp : p ∈ s.plots) (hone : ∀ x ∈ s.plots, x.id = p.id → x = p) :
    (s.takenIds l).contains p.id = true ↔ taken s l p := by
  rw [takenIds_iff]
  constructor
  · rintro ⟨x, hx, htaken, hid⟩
    rwa [hone x hx hid.symm] at htaken
  · exact fun htaken => ⟨p, hp, htaken, rfl⟩

/-- A team saved or not stands in the same plot and goes along or not as before. -/
theorem goesAlong_ite_saved (b : Bool) (t : Team) (i : Nat) :
    ((if b then t.saved else t).plot = i ∧ goesAlong (if b then t.saved else t)) ↔ t.plot = i ∧ goesAlong t := by
  obtain ⟨hplot, hdying⟩ := saved_stays t
  cases b with
  | false => exact Iff.rfl
  | true => simp [goesAlong, hplot, hdying]

/-- What the save of one core leaves to be saved. -/
theorem takeInto_unsaved {w : State} (hteams : w.teams = s.teams) (hplots : w.plots = s.plots) (p : Plot) :
    p ∈ (s.takeInto l w).unsaved l.ctx l.lid ↔ p ∈ s.unsaved l.ctx l.lid ∧ (s.takenIds l).contains p.id = false := by
  have hteam : (∃ t ∈ (s.takeInto l w).teams, t.plot = p.id ∧ goesAlong t) ↔ ∃ t ∈ s.teams, t.plot = p.id ∧ goesAlong t := by
    simp only [State.takeInto, hteams, List.mem_map, exists_exists_and_eq_and, goesAlong_ite_saved]
  have hplot : (p ∈ (s.takeInto l w).plots ∧ p.saved = false) ↔
      (p ∈ s.plots ∧ p.saved = false) ∧ (s.takenIds l).contains p.id = false := by
    simp only [State.takeInto, hplots, List.mem_map]
    constructor
    · rintro ⟨⟨x, hx, rfl⟩, hsaved⟩
      split at hsaved
      · exact nomatch hsaved
      · rename_i hout
        rw [if_neg hout]
        exact ⟨⟨hx, hsaved⟩, Bool.eq_false_iff.mpr hout⟩
    · rintro ⟨⟨hp, hsaved⟩, hout⟩
      exact ⟨⟨p, hp, if_neg (ne_true_of_eq_false hout)⟩, hsaved⟩
  rw [mem_unsaved, mem_unsaved, hteam]
  tauto

end

theorem saveInto_fields (s : State) (l : Launch) (w : State) : (s.saveInto l w).mem = w.mem ∧
    (s.saveInto l w).teams = (w.teams.map fun (t : Team) => if s.takesTeam l t then t.saved else t) ∧
    (s.saveInto l w).plots = (w.plots.map fun (p : Plot) => if (s.takenIds l).contains p.id then { p with saved := true } else p) := by
  unfold State.saveInto
  split <;> exact ⟨rfl, rfl, rfl⟩

theorem saveInto_launch? {s w : State} {l : Launch} (hl : isLaunch s l) (hw : w.launches = s.launches) :
    (s.saveInto l w).launch? l.ctx l.lid =
      some (if ((s.takeInto l w).unsaved l.ctx l.lid).isEmpty then { l with phase := .preempted } else l) := by
  have hfound : (s.takeInto l w).launch? l.ctx l.lid = some l := by
    rw [State.launch?, show (s.takeInto l w).launches = s.launches from hw]
    exact hl
  unfold State.saveInto
  split
  · exact launch?_modLaunch_some hfound _ fun _ => ⟨rfl, rfl⟩
  · exact hfound

/-! ## The restore (R337, R390) -/

/-- A team as it comes back from an image: as it was saved, or PENDING where no place is free. -/
def State.backFrom (s : State) (t : Team) : Team :=
  { t with
    preempted := false, since := s.now t
    run := match t.run with | .active => if s.placeFree (coreOf t.tid) (partOf t.tid) then .active else .pending | r => r }

theorem backFrom_woken (s : State) (t : Team) : (s.backFrom t).woken = t.woken := by
  unfold State.backFrom Team.woken
  rcases t.run with _ | _ | ⟨p, w⟩
  · rfl
  · cases s.placeFree (coreOf t.tid) (partOf t.tid) <;> rfl
  · rfl

/-- A restored team, as R337 and R36 have it. -/
def restoredAs (s : State) (t u : Team) : Prop :=
  (t.woken = false → u = { t with preempted := false, since := s.now t, run := u.run } ∧
    (u.run = t.run ∨ t.run = .active ∧ u.run = .pending)) ∧
  (t.woken = true → u = { t with preempted := false, since := s.now t, run := .pending, leaveAtEnd := false })

theorem backFrom_restored (s : State) (t : Team) : restoredAs s t ((s.backFrom t).backAt (s.now t)) := by
  unfold Team.backAt
  rw [backFrom_woken]
  refine ⟨fun hw => ?_, fun hw => ?_⟩
  · rw [if_neg (by simp [hw])]
    refine ⟨rfl, ?_⟩
    unfold State.backFrom
    dsimp only
    split
    · split
      · exact .inl (Eq.symm ‹t.run = .active›)
      · exact .inr ⟨‹t.run = .active›, rfl⟩
    · exact .inl rfl
  · rw [if_pos hw]
    rfl

/-- A team that its launch's restore brings back without a trap. -/
structure Restorable (t : Team) : Prop where
  saved : t.preempted = true
  deferred : t.deferred = []
  stop : t.stop = none
  dying : t.dying = none
  wakes : t.woken = true → t.run = .parked .retry (some .done)

theorem restoreTeam_eq {s : State} {h : Handle} {t : Team} (ht : s.team? h = some t) (hr : Restorable t) :
    s.restoreTeam h = (((s.setTeam (s.backFrom t)).dropCache (coreOf h)).wakeBack h).takeDeferred h := by
  have hid := State.tid_of_team? ht
  unfold State.restoreTeam
  rw [ht]
  dsimp -zeta only
  extract_lets back room placed s1
  have hplaced : placed = s.backFrom t := by
    unfold State.backFrom
    rw [hid]
    unfold placed room back
    dsimp only
    split
    · split <;> simp_all
    · simp_all
  have hgoes : (placed.stop.isSome || placed.dying.isSome) = false := by
    rw [hplaced]
    simp [State.backFrom, hr.stop, hr.dying]
  rw [if_neg (ne_true_of_eq_false hgoes)]
  unfold s1
  rw [hplaced]

theorem restoreTeam_restores {s : State} {h : Handle} {t : Team} (ht : s.team? h = some t) (hr : Restorable t) :
    ServesTeam (restoredAs s) h s (s.restoreTeam h) ∧ ((s.restoreTeam h).core (coreOf h)).cache = [] := by
  have hid := State.tid_of_team? ht
  have hstart : TeamsWake s ((s.setTeam (s.backFrom t)).dropCache (coreOf h)) :=
    (teamsWake_setTeam s _).trans (teamsWake_dropCache _ _)
  have hback : ((s.setTeam (s.backFrom t)).dropCache (coreOf h)).team? h = some (s.backFrom t) := team?_setTeam_at ht hid
  have hplain : resumesPlainly (s.backFrom t) := ⟨hr.deferred, fun hw => by
    have hrun := hr.wakes (backFrom_woken s t ▸ hw)
    simp [State.backFrom, hrun]⟩
  obtain ⟨hserves, hcache⟩ := comesBack hback hplain
  rw [restoreTeam_eq ht hr]
  refine ⟨⟨hstart.trans hserves.wakes, fun v hv => ?_, fun k hk => ?_⟩, hcache ?_⟩
  · obtain rfl := Option.some.inj (ht.symm.trans hv)
    obtain ⟨u, hu, rfl⟩ := hserves.mine _ hback
    refine ⟨_, hu, ?_⟩
    rw [hstart.now]
    exact backFrom_restored s t
  · exact (hserves.others k hk).trans (State.team?_setTeam_ne s (s.backFrom t) (by rw [show (s.backFrom t).tid = h from hid]; exact hk))
  · rw [core_dropCache, if_pos rfl]

/-- A launch in its turn for a restore, before its teams come back. -/
def State.restoring (s : State) (l : Launch) : State :=
  ({ s with
    plots := s.plots.map fun (p : Plot) => if ((s.plotsOf l.ctx l.lid).map Plot.id).contains p.id then { p with saved := false } else p
    lastCtx := l.ctx }.modCtx l.ctx fun c => { c with lastQueue := l.queue }).modLaunch l.ctx l.lid fun m =>
      { m with phase := if m.midPlacement then .placing else .running, midPlacement := false, image := [] }

/-- Teams that a restore brings back. -/
def State.restored (s : State) (l : Launch) : List Handle :=
  (s.teams.filter fun (t : Team) => t.ctx == l.ctx && t.lid == l.lid && t.preempted).map Team.tid

theorem restorePoisons_none {s : State} {ps : List ImagePart} (h : ∀ p ∈ ps, s.poisonedParts p = []) :
    ps.foldl State.restorePoison s = s := by
  induction ps with
  | nil => rfl
  | cons p ps ih =>
    have hp : s.restorePoison p = s := by rw [State.restorePoison, h p (by simp)]
    rw [List.foldl_cons, hp, ih fun q hq => h q (by simp [hq])]

/-- A launch that teams live in does not end. -/
theorem finishLaunch_living {s : State} {ctx lid : Nat} {m : Launch} (hm : s.launch? ctx lid = some m) (hl : m.living ≠ 0) :
    s.finishLaunch ctx lid = s := by
  unfold State.finishLaunch
  rw [hm]
  simp [hl]

theorem restoring_launch? {s : State} {l : Launch} (hl : isLaunch s l) : (s.restoring l).launch? l.ctx l.lid =
    some { l with phase := if l.midPlacement then .placing else .running, midPlacement := false, image := [] } := by
  refine (launch?_modLaunch _ l.ctx l.lid ?_).trans ?_
  · exact fun _ => ⟨rfl, rfl⟩
  · exact congrArg (Option.map _) (show s.launch? l.ctx l.lid = some l from hl)

theorem restore_eq {s : State} {l : Launch} (hl : isLaunch s l) (ha : s.arg.a = l.ctx) (hb : s.arg.b = l.lid)
    (hphase : l.phase = .preempted) (hturn : s.hasTurn l = true) (hfree : s.restorable l = true) (hbefore : s.before l = [])
    (hpoison : ∀ p ∈ l.image, s.poisonedParts p = []) :
    exec .restore s =
      .next (((s.restored l).foldl (fun (s : State) h => s.restoreTeam h) (s.restoring l)).finishLaunch l.ctx l.lid) := by
  have hfound : s.launch? l.ctx l.lid = some l := hl
  have heq := (show exec .restore s = execRestore s from rfl)
  unfold execRestore at heq
  simp only [ha, hb, hfound, hphase] at heq
  have hpoisons : l.image.foldl State.restorePoison (s.restoring l) = s.restoring l := restorePoisons_none hpoison
  unfold State.restoring at hpoisons
  rw [if_pos (by simp [hturn, hfree, hbefore]), hpoisons] at heq
  exact heq

section
variable {s : State} {l : Launch} (hn : (s.teams.map Team.tid).Nodup)
  (hback : ∀ t ∈ s.teams, ofLaunch t l = true → Restorable t)
include hn hback

/-- The teams of a launch come back one after another, each on its own core, and no other team changes. -/
theorem restoredTeams :
    let w := (s.restored l).foldl (fun (s : State) h => s.restoreTeam h) (s.restoring l)
    TeamsWake (s.restoring l) w ∧ ∀ t ∈ s.teams, ∃ u, w.team? t.tid = some u ∧ (ofLaunch t l = false → u = t) ∧
      (ofLaunch t l = true → (w.core (coreOf t.tid)).cache = [] ∧ restoredAs s t u) := by
  have hmem : ∀ h ∈ s.restored l, ∃ t ∈ s.teams, ofLaunch t l = true ∧ t.tid = h := fun h hh => by
    obtain ⟨t, ht, rfl⟩ := List.mem_map.mp hh
    obtain ⟨ht, hmine⟩ := List.mem_filter.mp ht
    exact ⟨t, ht, (Bool.and_eq_true_iff.mp hmine).1, rfl⟩
  have hnd : (s.restored l).Nodup := hn.sublist (List.filter_sublist.map _)
  have hteam : ∀ t ∈ s.teams, (s.restoring l).team? t.tid = some t := fun t ht => team?_of_mem hn ht
  have hserve : ∀ v, TeamsWake (s.restoring l) v → ∀ h ∈ s.restored l, v.team? h = (s.restoring l).team? h →
      ServesTeam (restoredAs s) h v (v.restoreTeam h) ∧ ((v.restoreTeam h).core (coreOf h)).cache = [] := by
    intro v hv h hh hsame
    obtain ⟨t, ht, hmine, rfl⟩ := hmem h hh
    obtain ⟨hserves, hcache⟩ := restoreTeam_restores (hsame.trans (hteam t ht)) (hback t ht hmine)
    have hnow : ∀ t, v.now t = s.now t := hv.now
    refine ⟨⟨hserves.wakes, fun t' ht' => ?_, hserves.others⟩, hcache⟩
    have hmine' := hserves.mine t' ht'
    unfold restoredAs at hmine' ⊢
    rwa [hnow t'] at hmine'
  intro w
  obtain ⟨hwakes, hmine, hothers⟩ := servesTeams_foldl (s.restored l) (s.restoring l) hnd (.refl _) (fun _ _ => rfl)
    fun v hv h hh e => (hserve v hv h hh e).1
  have hcache := cacheDropped_foldl (s.restored l) (s.restoring l) hnd (.refl _) (fun _ _ => rfl) hserve
  refine ⟨hwakes, fun t ht => ?_⟩
  cases hl : ofLaunch t l with
  | true =>
    have hin : t.tid ∈ s.restored l := List.mem_map.mpr ⟨t, List.mem_filter.mpr ⟨ht, Bool.and_eq_true_iff.mpr
      ⟨hl, (hback t ht hl).saved⟩⟩, rfl⟩
    obtain ⟨u, hu, hR⟩ := hmine t.tid hin t (hteam t ht)
    exact ⟨u, hu, fun h => (nomatch h), fun _ => ⟨hcache t.tid hin, hR⟩⟩
  | false =>
    have hout : t.tid ∉ s.restored l := fun hin => by
      obtain ⟨u, hu, hmine, hid⟩ := hmem _ hin
      rw [List.inj_on_of_nodup_map hn hu ht hid, hl] at hmine
      cases hmine
    exact ⟨t, (hothers _ hout).trans (hteam t ht), fun _ => rfl, fun h => (nomatch h)⟩

end

/-! ## The statement -/

theorem launchIsTaken {s : State} {l : Launch} (hl : isLaunch s l) (ha : s.arg.a = l.ctx) (hb : s.arg.b = l.lid)
    (hphase : l.phase = .queued ∨ l.phase = .placing) (hhead : s.isHead l = true) (hdue : l.since + 32000 ≤ (s.core 0).cyc) :
    (∀ v, isLaunch s v → v ∈ s.victims l → s.imageFits v = true → (∀ w ∈ s.victims l, w = v ∨ w.seq < v.seq) →
      v.seq < 2 ^ 64 → ∃ s' m, exec .headgatePreemption s = .next s' ∧ s'.mem = s.mem ∧
        s'.teams = (s.teams.map fun t => if ofLaunch t v then t.endArm 2 else t) ∧
        s'.launch? v.ctx v.lid = some m ∧
        m = { v with phase := .saving, midPlacement := m.midPlacement, image := m.image } ∧
        (m.midPlacement = true ↔ v.placed < hPlots v.header) ∧
        ∀ p ∈ m.image, (p.runs.map Prod.snd).sum = recordBytes v.header p.of_) ∧
    ((∀ v ∈ s.victims l, s.imageFits v = false) → exec .headgatePreemption s = .next
      ((s.victims l).foldl (fun (x : State) v => x.report v.ctx 4 0 0 0 v.lid) s)) := by
  have he := headgatePreemption_due (show s.launch? s.arg.a s.arg.b = some l by rw [ha, hb]; exact hl) hphase hhead hdue
  refine ⟨fun v hv hvictim hfits hold hseq => ?_, fun hfits => ?_⟩
  · obtain ⟨hmem, hteams, m, hm⟩ := startSave_saves hv hfits
    rw [youngestFit_eq hvictim hfits hold hseq, displace_youngest hold, requestPreempt_fits hv hvictim hfits] at he
    exact ⟨_, m, he, hmem, hteams, hm⟩
  · rw [he, youngestFit_none hfits, displace_none hfits]

theorem launchIsSaved {s : State} {l : Launch} (hl : isLaunch s l) (ha : s.arg.a = l.ctx) (hb : s.arg.b = l.lid)
    (hphase : l.phase = .saving)
    (hsavable : ∀ t ∈ s.teams, (∃ p ∈ s.plots, taken s l p ∧ t.plot = p.id) → goesAlong t → s.savable t = true)
    (hcrews : ∀ k ∈ s.crews, s.crewRuns k = none) (harms : s.arms = []) : ∃ s', exec .preemptionSave s = .next s' ∧
      (∀ x, (∀ p ∈ l.image, ∀ r ∈ p.runs, x < r.1 ∨ r.1 + r.2 ≤ x) → memByte s'.mem x = memByte s.mem x) ∧
      s'.teams.length = s.teams.length ∧ s'.plots.length = s.plots.length ∧
      (∀ (n : Nat) (t u : Team), s.teams[n]? = some t → s'.teams[n]? = some u →
        ((∃ p ∈ s.plots, taken s l p ∧ t.plot = p.id) ∧ goesAlong t → u = savedAs t) ∧
        (¬ ((∃ p ∈ s.plots, taken s l p ∧ t.plot = p.id) ∧ goesAlong t) → u = t)) ∧
      (∀ (n : Nat) (p q : Plot), s.plots[n]? = some p → s'.plots[n]? = some q → (∀ x ∈ s.plots, x.id = p.id → x = p) →
        (taken s l p → q = { p with saved := true }) ∧ (¬ taken s l p → q = p)) ∧
      ((∀ p ∈ s.plots, p.ctx = l.ctx → p.lid = l.lid → p.saved = false → (∃ t ∈ s.teams, t.plot = p.id ∧ goesAlong t) →
          p.core = s.arg.c) → s'.launch? l.ctx l.lid = some { l with phase := .preempted }) ∧
      ((∃ p ∈ s.plots, p.ctx = l.ctx ∧ p.lid = l.lid ∧ p.saved = false ∧ p.core ≠ s.arg.c ∧
          (∀ x ∈ s.plots, x.id = p.id → x = p) ∧ ∃ t ∈ s.teams, t.plot = p.id ∧ goesAlong t) →
        s'.launch? l.ctx l.lid = some l) := by
  obtain ⟨w, he, hw⟩ := preemptionSave_eq hl ha hb hphase
    (fun t ht hmine => hsavable t ht ((takesTeam_iff t).mp hmine).1 ((takesTeam_iff t).mp hmine).2) hcrews harms
  obtain ⟨hmem, hteams, hplots⟩ := saveInto_fields s l w
  rw [hw.teams] at hteams
  rw [hw.plots] at hplots
  have hlaunch := saveInto_launch? hl hw.launches
  have hleft := fun p => takeInto_unsaved (s := s) (l := l) hw.teams hw.plots p
  refine ⟨_, he, fun x hx => (congrArg (memByte · x) hmem).trans (hw.mem x hx), by rw [hteams, List.length_map],
    by rw [hplots, List.length_map], fun n t u ht hu => ?teams, fun n p q hp hq hone => ?plots, fun hall => ?last, ?more⟩
  case teams =>
    rw [hteams] at hu
    obtain rfl := eq_of_getElem?_map ht hu
    exact ⟨fun h => if_pos ((takesTeam_iff t).mpr h), fun h => if_neg (mt (takesTeam_iff t).mp h)⟩
  case plots =>
    rw [hplots] at hq
    obtain rfl := eq_of_getElem?_map hp hq
    have hiff := takenIds_of_unique (l := l) (List.mem_of_getElem? hp) hone
    exact ⟨fun h => if_pos (hiff.mpr h), fun h => if_neg (mt hiff.mp h)⟩
  case last =>
    refine hlaunch.trans (congrArg some (if_pos ?_))
    refine List.isEmpty_iff.mpr (List.eq_nil_iff_forall_not_mem.mpr fun p hp => ?_)
    obtain ⟨hp, hout⟩ := (hleft p).mp hp
    obtain ⟨hin, hctx, hlid, hsaved, hteam⟩ := mem_unsaved.mp hp
    exact ne_true_of_eq_false hout
      ((takenIds_iff p.id).mpr ⟨p, hin, ⟨hctx, hlid, hsaved, hall p hin hctx hlid hsaved hteam, hteam⟩, rfl⟩)
  case more =>
    rintro ⟨p, hp, hctx, hlid, hsaved, hcore, hone, hteam⟩
    have hout : (s.takenIds l).contains p.id = false := Bool.eq_false_iff.mpr fun h => by
      obtain ⟨-, -, -, hhere, -⟩ := (takenIds_of_unique hp hone).mp h
      exact hcore hhere
    have hin := (hleft p).mpr ⟨mem_unsaved.mpr ⟨hp, hctx, hlid, hsaved, hteam⟩, hout⟩
    exact hlaunch.trans (congrArg some (if_neg fun hempty => List.not_mem_nil (List.isEmpty_iff.mp hempty ▸ hin)))

theorem launchIsRestored {s : State} {l : Launch} {c : Context} (hl : isLaunch s l) (ha : s.arg.a = l.ctx)
    (hb : s.arg.b = l.lid) (hphase : l.phase = .preempted) (hc : s.ctx? l.ctx = some c) (hturn : s.hasTurn l = true)
    (hfree : s.restorable l = true) (hbefore : s.before l = []) (hliving : l.living ≠ 0) (hn : (s.teams.map Team.tid).Nodup)
    (hpoison : ∀ p ∈ l.image, s.poisonedParts p = []) (hback : ∀ t ∈ s.teams, ofLaunch t l = true → Restorable t) :
    ∃ s' m, exec .restore s = .next s' ∧ s'.mem = s.mem ∧ s'.launch? l.ctx l.lid = some m ∧
      m = { l with phase := if l.midPlacement then .placing else .running, midPlacement := false, image := [] } ∧
      s'.lastCtx = l.ctx ∧ s'.ctx? l.ctx = some { c with lastQueue := l.queue } ∧
      s'.plots = (s.plots.map fun p => if p.id ∈ (s.plotsOf l.ctx l.lid).map Plot.id then { p with saved := false } else p) ∧
      ∀ t ∈ s.teams, ∃ u, s'.team? t.tid = some u ∧ (ofLaunch t l = false → u = t) ∧
        (ofLaunch t l = true → (s'.core (coreOf t.tid)).cache = [] ∧ restoredAs s t u) := by
  have he := restore_eq hl ha hb hphase hturn hfree hbefore hpoison
  obtain ⟨hwakes, hteams⟩ := restoredTeams hn hback
  have hlaunch : (State.launch? ((s.restored l).foldl (fun (s : State) h => s.restoreTeam h) (s.restoring l)) l.ctx l.lid) =
      some { l with phase := if l.midPlacement then .placing else .running, midPlacement := false, image := [] } := by
    rw [hwakes.rest]
    exact restoring_launch? hl
  rw [finishLaunch_living hlaunch hliving] at he
  refine ⟨_, _, he, by rw [hwakes.rest]; rfl, hlaunch, rfl, by rw [hwakes.rest]; rfl, ?_, ?_, hteams⟩
  · rw [hwakes.rest]
    refine (find?_updFirst (fun x : Context => x.id == l.ctx) _ ?_ s.ctxs).trans ?_
    · exact fun _ hx => hx
    · exact congrArg (Option.map _) hc
  · rw [hwakes.rest]
    exact List.map_congr_left fun p _ => by simp only [List.contains_eq_mem, decide_eq_true_eq]

/-- Settles O39: the request takes the youngest launch that fits and gives its image places; the save of a core writes in them
alone; the restore brings each team back as it was saved. -/
theorem launchIsPreemptedAndRestored : Obligations.LaunchIsPreemptedAndRestored := by
  unfold Obligations.LaunchIsPreemptedAndRestored
  refine ⟨fun s l hl ha hb hphase hhead => ?request, fun s l tk hl ha hb hphase htaken hsavable hcrews harms => ?save,
    fun s l c hl ha hb hphase hc hturn hfree hbefore hliving hn hpoison hback => ?restore⟩
  case request =>
    exact ⟨headgatePreemption_early (by rw [ha, hb]; exact hl), launchIsTaken hl ha hb hphase hhead⟩
  case save =>
    obtain rfl : tk = taken s l := funext fun p => propext (htaken p)
    exact launchIsSaved hl ha hb hphase hsavable hcrews harms
  case restore =>
    exact launchIsRestored hl ha hb hphase hc hturn hfree hbefore hliving hn hpoison fun t ht hmine => by
      obtain ⟨hsaved, hdeferred, hstop, hdying, hwoken⟩ := hback t ht hmine
      exact ⟨hsaved, hdeferred, hstop, hdying, hwoken⟩

end Sys2Proof.Machine
end

section
/-! PROOFS. Collective matrix instructions (R112, R226, R227, R228, R234, R235, R237): arrivals, agreement, acceptance; O31. -/

namespace Sys2Proof.Machine

open Sys2Proof.Claims

/-! ## What a collective instruction does (R226) -/

theorem exec_collective {i : Instr} {op : Nat} {f : VFields} (hi : collectiveRule i = some (op, f)) (s : State) :
    exec i s = collective op f s := by
  unfold collectiveRule at hi
  split at hi
  case h_6 => exact nomatch hi
  all_goals
    cases hi
    rfl

/-- The team held at its collective instruction. -/
def Team.crewHeld (t : Team) (a : CrewArrival) (n : Nat) : Team := { t with arrived := some a, held := some (.collective, n) }

theorem arrives_eq (s : State) (t : Team) (a : CrewArrival) :
    ∃ n, s.holdAt { t with arrived := some a } .collective = s.setTeam (t.crewHeld a n) := ⟨_, rfl⟩

section
variable {s : State} {t : Team} {c : Crew} {op : Nat} {f : VFields} (h : InCrew s t c op f)
include h

theorem collective_broken (hb : c.broken = true) : collective op f s = .next (s.trap t 0x1A 0 0 0) := by
  rw [collective, issueV_passes ((poised_iff s t).mp h.poised) op f _ h.checks]
  simp only [h.crew, hb, if_true]
  rfl

theorem collective_waits (hb : c.broken = false)
    (hw : (s.holdAt { t with arrived := some (arrivalOf t op f) } .collective).arrivedAll c = none) :
    collective op f s = .next ((s.holdAt { t with arrived := some (arrivalOf t op f) } .collective).modTeam t.tid fun u => u.endStep 4) := by
  rw [collective, issueV_passes ((poised_iff s t).mp h.poised) op f _ h.checks]
  unfold arrivalOf at hw ⊢
  simp only [h.crew, hb, Bool.false_eq_true, if_false, hw]

theorem collective_accepts (hb : c.broken = false) {ms : List (Team × CrewArrival)}
    (hw : (s.holdAt { t with arrived := some (arrivalOf t op f) } .collective).arrivedAll c = some ms) {s' : State}
    (hs : (s.holdAt { t with arrived := some (arrivalOf t op f) } .collective).acceptAll c ms = s') {u : Team}
    (hu : s'.team? t.tid = some u) (hgone : u.arrived = none) : collective op f s = .next s' := by
  rw [collective, issueV_passes ((poised_iff s t).mp h.poised) op f _ h.checks]
  unfold arrivalOf at hw hs
  simp only [h.crew, hb, Bool.false_eq_true, if_false, hw, hs, hu, hgone, Option.isSome_none]

end

/-! ## Who has arrived -/

/-- One team put back among others. -/
def putBack (w u : Team) : Team := if u.tid = w.tid then w else u

/-- A search that no change of the team bears on finds the team put back where it found the team. -/
theorem find?_putBack {p : Team → Bool} {us : List Team} {t w : Team} (ht : us.find? (fun u => u.tid == w.tid) = some t)
    (hp : p w = p t) (hone : ∀ u, us.find? p = some u → u.tid = w.tid → u = t) :
    (updFirst (fun u => u.tid == w.tid) (fun _ => w) us).find? p = (us.find? p).map (putBack w) := by
  induction us with
  | nil => exact nomatch ht
  | cons a us ih =>
    by_cases ha : a.tid = w.tid
    · rw [List.find?_cons_of_pos (by simpa using ha)] at ht
      obtain rfl := Option.some.inj ht
      rw [show updFirst (fun u : Team => u.tid == w.tid) (fun _ => w) (a :: us) = w :: us by simp [updFirst, ha]]
      cases hpa : p a with
      | true => rw [List.find?_cons_of_pos (hp.trans hpa), List.find?_cons_of_pos hpa, Option.map_some, putBack, if_pos ha]
      | false =>
        rw [List.find?_cons_of_neg (by simp [hp, hpa]), List.find?_cons_of_neg (by simp [hpa])]
        rw [List.find?_cons_of_neg (by simp [hpa])] at hone
        cases hf : us.find? p with
        | none => rfl
        | some u =>
          have hu : u.tid ≠ w.tid := fun e => by
            rw [hone u hf e] at hf
            simpa [hpa] using List.find?_some hf
          rw [Option.map_some, putBack, if_neg hu]
    · rw [List.find?_cons_of_neg (by simpa using ha)] at ht
      rw [show updFirst (fun u : Team => u.tid == w.tid) (fun _ => w) (a :: us) =
        a :: updFirst (fun u => u.tid == w.tid) (fun _ => w) us by simp [updFirst, ha]]
      cases hpa : p a with
      | true => rw [List.find?_cons_of_pos hpa, List.find?_cons_of_pos hpa, Option.map_some, putBack, if_neg ha]
      | false =>
        rw [List.find?_cons_of_neg (by simp [hpa])] at hone
        rw [List.find?_cons_of_neg (by simp [hpa]), List.find?_cons_of_neg (by simp [hpa])]
        exact ih ht hone

theorem members_putBack {s : State} {t w : Team} {c : Crew} (ht : s.team? w.tid = some t)
    (hp : w.plot = t.plot ∧ w.index = t.index) (hone : ∀ u ∈ s.members c, u.tid = w.tid → u = t) :
    (s.setTeam w).members c = (s.members c).map (putBack w) := by
  rw [State.members, State.members, List.map_filterMap]
  refine List.filterMap_congr fun i hi => ?_
  refine find?_putBack ht (by rw [hp.1, hp.2]) fun u hu hid => hone u ?_ hid
  exact List.mem_filterMap.mpr ⟨i, hi, hu⟩

/-- With a member that has not arrived, not all have. -/
theorem arrivedAll_none {s : State} {c : Crew} {k : Nat} (hk : k < c.size)
    (hn : ∀ u ∈ s.teams, u.plot = c.plot → u.index = c.first + k → u.arrived = none) : s.arrivedAll c = none := by
  refine if_neg (Nat.ne_of_lt ?_)
  rw [State.members, List.filterMap_filterMap]
  refine lt_of_lt_of_eq (List.length_filterMap_lt_length_iff_exists.mpr ⟨k, List.mem_range.mpr hk, ?_⟩) (List.length_range)
  cases hf : s.teams.find? fun t => t.plot == c.plot && t.index == c.first + k with
  | none => rfl
  | some u =>
    obtain ⟨hplot, hindex⟩ : u.plot = c.plot ∧ u.index = c.first + k := by simpa using List.find?_some hf
    simp [hn u (List.mem_of_find?_eq_some hf) hplot hindex]

/-- With every member at its arrival, the arrivals are theirs. -/
theorem arrivedAll_some {s : State} {c : Crew} {ms : List (Team × CrewArrival)} (hm : s.members c = ms.map Prod.fst)
    (hn : ms.length = c.size) (hin : ∀ m ∈ ms, m.1.running = true ∧ m.1.dying = none ∧ m.1.arrived = some m.2) :
    s.arrivedAll c = some ms := by
  have hms : (s.members c).filterMap (fun m => if m.running && m.dying.isNone then m.arrived.map fun a => (m, a) else none) = ms := by
    rw [hm, List.filterMap_map]
    refine (List.filterMap_congr fun m h => ?_).trans List.filterMap_some
    obtain ⟨hrun, hdying, harrived⟩ := hin m h
    simp [hrun, hdying, harrived]
  unfold State.arrivedAll
  extract_lets members arrivals
  rw [show arrivals = ms from hms]
  exact if_pos hn

/-- A team put back among teams is one of them or the one put back. -/
theorem mem_setTeam {s : State} {w u : Team} (h : u ∈ (s.setTeam w).teams) : u = w ∨ u ∈ s.teams := by
  suffices hl : ∀ us : List Team, u ∈ updFirst (fun t => t.tid == w.tid) (fun _ => w) us → u = w ∨ u ∈ us from hl s.teams h
  intro us
  induction us with
  | nil => exact fun hu => .inr hu
  | cons a us ih =>
    intro hu
    unfold updFirst at hu
    split at hu
    · exact (List.mem_cons.mp hu).imp_right fun h => by simp [h]
    · rcases List.mem_cons.mp hu with rfl | hu
      · exact .inr (by simp)
      · exact (ih hu).imp_right fun h => by simp [h]

theorem memberWaits {s : State} {t : Team} {c : Crew} {op : Nat} {f : VFields} (h : InCrew s t c op f) (hb : c.broken = false)
    {k : Nat} (hk : k < c.size) (hn : ∀ u ∈ s.teams, u.plot = c.plot → u.index = c.first + k → u.tid ≠ t.tid ∧ u.arrived = none) :
    ∃ n, collective op f s = .next (s.setTeam (t.crewHeld (arrivalOf t op f) n)) := by
  obtain ⟨n, hs⟩ := arrives_eq s t (arrivalOf t op f)
  have hp := (poised_iff s t).mp h.poised
  have hw := collective_waits h hb
  rw [hs] at hw
  have hthere : (s.setTeam (t.crewHeld (arrivalOf t op f) n)).team? t.tid = some (t.crewHeld (arrivalOf t op f) n) :=
    team?_setTeam_at hp.here rfl
  have hstep : (t.crewHeld (arrivalOf t op f) n).endStep 4 = t.crewHeld (arrivalOf t op f) n :=
    Team.endStep_quiet (t := t.crewHeld (arrivalOf t op f) n) hp.stepping 4
  refine ⟨n, (hw (arrivedAll_none hk fun u hu hplot hindex => ?_)).trans (congrArg _ ?_)⟩
  · rcases mem_setTeam hu with rfl | hu
    · exact absurd rfl (hn t (List.mem_of_find?_eq_some hp.here) hplot hindex).1
    · exact (hn u hu hplot hindex).2
  · rw [modTeam_eq_setTeam hthere (by rw [hstep]; rfl), hstep, setTeam_setTeam]
    rfl

/-! ## The last arrival -/

/-- The arrivals, with the last member held at its own. -/
def arrivalsWith (w : Team) (ms : List (Team × CrewArrival)) : List (Team × CrewArrival) := ms.map fun m => (putBack w m.1, m.2)

/-- Members that stand at their arrivals, each once. -/
structure Standing (s : State) (ms : List (Team × CrewArrival)) : Prop where
  distinct : (ms.map fun m => m.1.tid).Nodup
  here : ∀ m ∈ ms, s.team? m.1.tid = some m.1
  quiet : ∀ m ∈ ms, Quiet m.1

theorem putBack_tid (w u : Team) : (putBack w u).tid = u.tid := by
  unfold putBack
  split
  case isTrue h => exact h.symm
  case isFalse => rfl

section
variable {s : State} {t : Team} {c : Crew} {op : Nat} {f : VFields} {ms : List (Team × CrewArrival)}
  (h : LastArrival s t c op f ms)
include h

/-- The member that arrives last stands in the list once, with its own arrival. -/
theorem lastArrival_own {m : Team × CrewArrival} (hm : m ∈ ms) (hid : m.1.tid = t.tid) : m = (t, arrivalOf t op f) :=
  List.inj_on_of_nodup_map h.distinct hm h.self hid

theorem lastArrival_putBack {w : Team} (hw : w.tid = t.tid) {m : Team × CrewArrival} (hm : m ∈ ms) :
    putBack w m.1 = w ∧ m = (t, arrivalOf t op f) ∨ putBack w m.1 = m.1 ∧ m.1.tid ≠ t.tid := by
  unfold putBack
  split
  case isTrue hid => exact .inl ⟨rfl, lastArrival_own h hm (hid.trans hw)⟩
  case isFalse hid => exact .inr ⟨rfl, fun e => hid (e.trans hw.symm)⟩

theorem lastArrival_standing (n : Nat) :
    Standing (s.setTeam (t.crewHeld (arrivalOf t op f) n)) (arrivalsWith (t.crewHeld (arrivalOf t op f) n) ms) where
  distinct := by
    simpa only [arrivalsWith, List.map_map, Function.comp_def, putBack_tid] using h.distinct
  here := fun m' hm' => by
    obtain ⟨m, hm, rfl⟩ := List.mem_map.mp hm'
    obtain ⟨hhere, -, -, -, -⟩ := h.others m hm
    rcases lastArrival_putBack h (w := t.crewHeld (arrivalOf t op f) n) rfl hm with ⟨hput, rfl⟩ | ⟨hput, hne⟩
    · rw [hput]
      exact team?_setTeam_at hhere rfl
    · rw [hput]
      exact (State.team?_setTeam_ne s (t.crewHeld (arrivalOf t op f) n) hne).trans hhere
  quiet := fun m' hm' => by
    obtain ⟨m, hm, rfl⟩ := List.mem_map.mp hm'
    obtain ⟨-, -, -, hq, -⟩ := h.others m hm
    rcases lastArrival_putBack h (w := t.crewHeld (arrivalOf t op f) n) rfl hm with ⟨hput, rfl⟩ | ⟨hput, -⟩
    · rw [hput]
      exact ⟨hq.late, hq.stepping, hq.stays, hq.yields⟩
    · rw [hput]
      exact hq

/-- With the last member every one has arrived. -/
theorem lastArrival_all (n : Nat) : (s.setTeam (t.crewHeld (arrivalOf t op f) n)).arrivedAll c =
    some (arrivalsWith (t.crewHeld (arrivalOf t op f) n) ms) := by
  obtain ⟨-, hsize, hmembers⟩ := h.whole
  refine arrivedAll_some ?_ (by simp [arrivalsWith, hsize]) fun m' hm' => ?_
  · rw [members_putBack (t := t) (w := t.crewHeld (arrivalOf t op f) n) ((poised_iff s t).mp h.member.poised).here ⟨rfl, rfl⟩,
      hmembers]
    · simp [arrivalsWith]
    · intro u hu hid
      rw [hmembers] at hu
      obtain ⟨m, hm, rfl⟩ := List.mem_map.mp hu
      rw [lastArrival_own h hm hid]
  · obtain ⟨m, hm, rfl⟩ := List.mem_map.mp hm'
    obtain ⟨-, hrun, hdying, -, harrived⟩ := h.others m hm
    rcases lastArrival_putBack h (w := t.crewHeld (arrivalOf t op f) n) rfl hm with ⟨hput, rfl⟩ | ⟨hput, hne⟩
    · rw [hput]
      exact ⟨hrun, hdying, rfl⟩
    · rw [hput]
      exact ⟨hrun, hdying, harrived hne⟩

/-- The instruction of the last member does what the acceptance does, where that lets it go. -/
theorem lastArrival_accepts : ∃ n, ∀ s' u,
    (s.setTeam (t.crewHeld (arrivalOf t op f) n)).acceptAll c (arrivalsWith (t.crewHeld (arrivalOf t op f) n) ms) = s' →
      s'.team? t.tid = some u → u.arrived = none → collective op f s = .next s' := by
  obtain ⟨n, hs⟩ := arrives_eq s t (arrivalOf t op f)
  refine ⟨n, fun s' u hacc hu hgone => ?_⟩
  exact collective_accepts h.member h.whole.1 (by rw [hs]; exact lastArrival_all h n) (by rw [hs]; exact hacc) hu hgone

end

/-! ## What every member does: traps and retirements -/

theorem trapAll_eq (s : State) (us : List Team) (x : TrapInfo) : s.trapAll us x =
    us.foldl (fun s m => match s.team? m.tid with | some t => s.takeTrap t x | none => s) s := rfl

theorem haltedNow_eq_trapped (t : Team) : t.haltedNow = trapped t := by
  unfold Team.haltedNow trapped
  cases t.run <;> rfl

/-- Contexts differ in deliveries that have been posted alone. -/
def PostsOnly (s w : State) : Prop :=
  ∀ n, ∃ ds, w.ctx? n = (s.ctx? n).map fun c => { c with pending := c.pending ++ ds }

theorem PostsOnly.refl (s : State) : PostsOnly s s := fun n => ⟨[], by simp⟩

theorem PostsOnly.trans {s v w : State} (h : PostsOnly s v) (h' : PostsOnly v w) : PostsOnly s w := fun n => by
  obtain ⟨ds, hv⟩ := h n
  obtain ⟨es, hw⟩ := h' n
  exact ⟨ds ++ es, by simp [hw, hv, Option.map_map, Function.comp_def]⟩

theorem PostsOnly.isSup {s w : State} (h : PostsOnly s w) (t : Team) : w.isSup t = s.isSup t := by
  obtain ⟨ds, hds⟩ := h t.ctx
  unfold State.isSup
  rw [hds]
  cases s.ctx? t.ctx <;> rfl

theorem postsOnly_post (s : State) (ctx : Nat) (d : Delivery) : PostsOnly s (s.post ctx d) := fun n => by
  by_cases hn : n = ctx
  · exact ⟨[d], by rw [hn, ctx?_post]⟩
  · refine ⟨[], ?_⟩
    have hne := find?_updFirst_ne (fun c : Context => c.id == ctx) (fun c => c.id == n)
      (fun c => { c with pending := c.pending ++ [d] }) (fun c hc => by
        have : c.id = ctx := by simpa using hc
        simp [this, Ne.symm hn]) s.ctxs
    rw [State.post, State.ctx?, State.modCtx, hne]
    simp [State.ctx?]

/-- What stays pending. -/
theorem PostsOnly.pending {s w : State} (h : PostsOnly s w) {n : Nat} {c : Context} (hc : s.ctx? n = some c) :
    ∃ c', w.ctx? n = some c' ∧ ∀ d ∈ c.pending, d ∈ c'.pending := by
  obtain ⟨ds, hds⟩ := h n
  rw [hc] at hds
  exact ⟨_, hds, fun d hd => List.mem_append_left ds hd⟩

/-- A trap of one quiet team that is no supervisor. -/
theorem takeTrap_posts {s : State} {m : Team} (hm : s.team? m.tid = some m) (hq : Quiet m) (hs : s.isSup m = false) (cause : Nat) :
    PostsOnly s (s.takeTrap m { cause }) ∧ trapsAs s (s.takeTrap m { cause }) m cause 0 ∧
      ∀ k, k ≠ m.tid → (s.takeTrap m { cause }).team? k = s.team? k := by
  have heq : s.takeTrap m { cause } = (s.setTeam (trapped m)).post m.ctx
      { cause, detail := 0, tid := m.tid, lid := m.lid, pc := m.insnPc, issue := m.issueNo, info := 0, mask := 0 } := by
    rw [State.takeTrap, trap_posts hs, Team.endStep_quiet (by exact hq.stepping), haltedNow_eq_trapped]
  rw [heq]
  refine ⟨postsOnly_post (s.setTeam (trapped m)) m.ctx _, ⟨State.team?_setTeam (trapped m) hm, fun c hc => ?_⟩,
    fun k hk => State.team?_setTeam_ne s (trapped m) hk⟩
  exact ⟨_, (ctx?_post _ _ _).trans (congrArg (Option.map _) hc), rfl⟩

/-- Every member of a crew traps, each at its own instruction. -/
theorem trapAll_traps {s : State} {us : List Team} (hn : (us.map Team.tid).Nodup) (hhere : ∀ u ∈ us, s.team? u.tid = some u)
    (hq : ∀ u ∈ us, Quiet u) (hs : ∀ u ∈ us, s.isSup u = false) (cause : Nat) :
    PostsOnly s (s.trapAll us { cause }) ∧ (∀ k ∉ us.map Team.tid, (s.trapAll us { cause }).team? k = s.team? k) ∧
      allTrap s (s.trapAll us { cause }) us cause := by
  induction us generalizing s with
  | nil => exact ⟨.refl s, fun _ _ => rfl, fun m hm => (nomatch hm)⟩
  | cons m us ih =>
    obtain ⟨hnew, hn⟩ := List.nodup_cons.mp hn
    have hm := hhere m (by simp)
    obtain ⟨hposts, htraps, hother⟩ := takeTrap_posts hm (hq m (by simp)) (hs m (by simp)) cause
    have hne : ∀ u ∈ us, u.tid ≠ m.tid := fun u hu e => hnew (e ▸ List.mem_map_of_mem hu)
    obtain ⟨hrest, hkeeps, hall⟩ := ih (s := s.takeTrap m { cause }) hn
      (fun u hu => (hother _ (hne u hu)).trans (hhere u (by simp [hu]))) (fun u hu => hq u (by simp [hu]))
      fun u hu => (hposts.isSup u).trans (hs u (by simp [hu]))
    have hstep : s.trapAll (m :: us) { cause } = (s.takeTrap m { cause }).trapAll us { cause } := by
      rw [trapAll_eq, List.foldl_cons, hm]
      rfl
    rw [hstep]
    refine ⟨hposts.trans hrest, fun k hk => ?_, fun u hu => ?_⟩
    · obtain ⟨hkm, hk⟩ := not_or.mp (mt List.mem_cons.mpr hk)
      exact (hkeeps k hk).trans (hother k hkm)
    · rcases List.mem_cons.mp hu with rfl | hu
      · obtain ⟨hteam, hctx⟩ := htraps
        refine ⟨(hkeeps _ hnew).trans hteam, fun x hx => ?_⟩
        obtain ⟨y, hy, hpending⟩ := hctx x hx
        obtain ⟨z, hz, hkept⟩ := hrest.pending hy
        exact ⟨z, hz, hkept _ (by rw [hpending]; simp)⟩
      · obtain ⟨hteam, hctx⟩ := hall u hu
        refine ⟨hteam, fun x hx => ?_⟩
        obtain ⟨y, hy, -⟩ := hposts.pending hx
        exact hctx y hy

/-- The team gone on past its collective instruction. -/
def Team.collectiveGone (m : Team) : Team := ({ m with fenced := false } : Team).gone

theorem collectiveGone_eq (m : Team) : m.collectiveGone = { m.gone with fenced := false } := by
  have hadvance : ({ m with fenced := false } : Team).advance = { m.advance with fenced := false } := by
    cases m
    simp only [Team.advance]
    split
    · rfl
    · split <;> rfl
  rw [Team.collectiveGone, Team.gone, hadvance]
  rfl

/-- What a member's arrival leaves is gone with the instruction. -/
theorem collectiveGone_crewHeld (t : Team) (a : CrewArrival) (n : Nat) :
    (t.crewHeld a n).collectiveGone = t.collectiveGone := by
  have hadvance : ({ t.crewHeld a n with fenced := false } : Team).advance =
      ({ t with fenced := false } : Team).advance.crewHeld a n := by
    cases t
    simp only [Team.advance, Team.crewHeld]
    split
    · rfl
    · split <;> rfl
  rw [Team.collectiveGone, Team.gone, hadvance]
  rfl

/-- A member retires its collective instruction. -/
def State.goPast (s : State) (h : Handle) : State :=
  match s.team? h with
  | some t => s.retire { t with fenced := false }
  | none => s

/-- Every member of a crew goes on, and nothing else changes. -/
theorem retireAll_retires {s : State} {us : List Team} (hn : (us.map Team.tid).Nodup) (hhere : ∀ u ∈ us, s.team? u.tid = some u)
    (hq : ∀ u ∈ us, Quiet u) :
    TeamsWake s (s.retireAll us) ∧ ∀ u ∈ us, (s.retireAll us).team? u.tid = some u.collectiveGone := by
  have heq : s.retireAll us = (us.map Team.tid).foldl State.goPast s := by
    rw [List.foldl_map]
    rfl
  obtain ⟨hwakes, hmine, -⟩ := servesTeams_foldl (s := s) (R := fun t u => u = t.collectiveGone) (us.map Team.tid) s hn (.refl s)
    (fun _ _ => rfl) (f := State.goPast) fun v _ h hh hsame => by
        obtain ⟨u, hu, rfl⟩ := List.mem_map.mp hh
        have hv : v.team? u.tid = some u := hsame.trans (hhere u hu)
        have hid : u.collectiveGone.tid = u.tid := by rw [collectiveGone_eq]; exact u.gone_tid
        have hquiet : Quiet ({ u with fenced := false } : Team) :=
          ⟨(hq u hu).late, (hq u hu).stepping, (hq u hu).stays, (hq u hu).yields⟩
        simp only [State.goPast, hv, retire_of_quiet v hquiet]
        refine ⟨teamsWake_setTeam v u.collectiveGone, fun t ht => ⟨_, team?_setTeam_at hv hid, ?_⟩, fun k hk => ?_⟩
        · exact congrArg Team.collectiveGone (Option.some.inj (hv.symm.trans ht))
        · exact State.team?_setTeam_ne v u.collectiveGone (hid.symm ▸ hk)
  rw [heq]
  refine ⟨hwakes, fun u hu => ?_⟩
  obtain ⟨w, hw, rfl⟩ := hmine u.tid (List.mem_map_of_mem hu) u (hhere u hu)
  exact hw

/-! ## Agreement (R227) -/

theorem agree_iff (a b : CrewArrival) : agree a b = true ↔ agrees a b := by
  simp only [agree, agrees, Bool.and_eq_true, beq_iff_eq, and_assoc]

theorem agrees_symm {a b : CrewArrival} (h : agrees a b) : agrees b a := by
  obtain ⟨hpc, hop, hf, hoff, hmap, hnbv⟩ := h
  exact ⟨hpc.symm, hop.symm, hf.symm, hoff.symm, hmap.symm, hnbv.symm⟩

theorem agrees_trans {a b d : CrewArrival} (h : agrees a b) (h' : agrees b d) : agrees a d := by
  obtain ⟨hpc, hop, hf, hoff, hmap, hnbv⟩ := h
  obtain ⟨hpc', hop', hf', hoff', hmap', hnbv'⟩ := h'
  exact ⟨hpc.trans hpc', hop.trans hop', hf.trans hf', hoff.trans hoff', hmap.trans hmap', hnbv.trans hnbv'⟩

/-- Where two members disagree, one of the others disagrees with the first. -/
theorem disagrees_with_first {m : Team × CrewArrival} {ms : List (Team × CrewArrival)}
    (h : ∃ x ∈ m :: ms, ∃ y ∈ m :: ms, ¬ agrees x.2 y.2) : (ms.any fun x => !agree m.2 x.2) = true := by
  by_contra hany
  have hall : ∀ x ∈ m :: ms, agrees m.2 x.2 := by
    intro x hx
    rcases List.mem_cons.mp hx with rfl | hx
    · exact ⟨rfl, rfl, rfl, rfl, rfl, rfl⟩
    · rw [← agree_iff]
      by_contra hno
      exact hany (List.any_eq_true.mpr ⟨x, hx, by simpa using hno⟩)
  obtain ⟨x, hx, y, hy, hno⟩ := h
  exact hno (agrees_trans (agrees_symm (hall x hx)) (hall y hy))

theorem agrees_with_first {m : Team × CrewArrival} {ms : List (Team × CrewArrival)}
    (h : ∀ x ∈ m :: ms, ∀ y ∈ m :: ms, agrees x.2 y.2) : (ms.any fun x => !agree m.2 x.2) = false :=
  List.any_eq_false.mpr fun x hx => by simp [(agree_iff m.2 x.2).mpr (h m (by simp) x (by simp [hx]))]

/-! ## Acceptance (R112, R228) -/

section
variable {s : State} {c : Crew} {t : Team} {a : CrewArrival} {rest : List (Team × CrewArrival)}

theorem acceptAll_mismatch {ms : List (Team × CrewArrival)} (h : ∃ x ∈ ms, ∃ y ∈ ms, ¬ agrees x.2 y.2) :
    s.acceptAll c ms = s.trapAll (ms.map Prod.fst) { cause := 0x19 } := by
  rcases ms with _ | ⟨⟨t, a⟩, rest⟩
  · obtain ⟨x, hx, -⟩ := h
    exact nomatch hx
  · simp only [State.acceptAll, disagrees_with_first h, if_true]
    rfl

variable (hagree : ∀ x ∈ (t, a) :: rest, ∀ y ∈ (t, a) :: rest, agrees x.2 y.2)
include hagree

theorem acceptAll_multiply (hop : a.op = 0x1C2 ∨ a.op = 0x1C3 ∨ a.op = 0x1C4) (htrap : multiplyTrap t a = none)
    (hroom : c.multiplies < 4) (hbound : bindNames false (collNames a.op a.f) c = some c) :
    s.acceptAll c ((t, a) :: rest) = s.acceptMultiply c ((t, a) :: rest) t a := by
  have hmul : (a.op == 0x1C2 || a.op == 0x1C3 || a.op == 0x1C4) = true := by
    rcases hop with h | h | h <;> simp [h]
  have hnew : (a.op == 0x1C7) = false := by
    rcases hop with h | h | h <;> simp [h]
  simp only [State.acceptAll, agrees_with_first hagree, hmul, hnew, if_true, htrap, Bool.true_and, decide_eq_true_eq,
    Nat.not_le.mpr hroom, if_false, hbound, Bool.false_eq_true]

theorem acceptAll_clear {c1 : Crew} (hop : a.op = 0x1C6 ∨ a.op = 0x1C7)
    (hbound : bindNames (a.op == 0x1C7) (collNames a.op a.f) c = some c1) :
    s.acceptAll c ((t, a) :: rest) = s.acceptClear c1 (((t, a) :: rest).map Prod.fst) (a.f.vd.toNat % 16) := by
  have hmul : (a.op == 0x1C2 || a.op == 0x1C3 || a.op == 0x1C4) = false := by
    rcases hop with h | h <;> simp [h]
  simp only [State.acceptAll, agrees_with_first hagree, hmul, Bool.false_and, Bool.false_eq_true, if_false, hbound]

end

theorem bindNames_bound {c : Crew} {ns : List Nat} (h : ∀ n ∈ ns, (c.bound n).isSome = true) : bindNames false ns c = some c := by
  induction ns with
  | nil => rfl
  | cons n ns ih =>
    rw [bindNames, if_pos (by simp [h n (by simp)])]
    exact ih fun k hk => h k (by simp [hk])

/-- The crew with a name bound to a tile, which is cleared (R112). -/
def Crew.bind (c : Crew) (n k : Nat) : Crew :=
  { c with names := spWrite none c.names n (some k), tiles := spWrite {} c.tiles k {} }

/-- With no operation outstanding, a tile that no name holds and no stream reads is found. -/
theorem freeTile_free {c : Crew} (hops : c.ops = []) (hfree : ∃ k < c.tileCount, (∀ n ∈ c.names, n.2 ≠ some k) ∧ c.drains k = false) :
    ∃ k, c.freeTile = some k ∧ k < c.tileCount ∧ (∀ n ∈ c.names, n.2 ≠ some k) ∧ c.drains k = false := by
  have hsome : c.freeTile.isSome = true := by
    obtain ⟨k, hlt, hunheld, hdrains⟩ := hfree
    refine List.find?_isSome.mpr ⟨k, List.mem_range.mpr hlt, ?_⟩
    simpa [hops, hdrains] using hunheld
  obtain ⟨k, hk⟩ := Option.isSome_iff_exists.mp hsome
  have hp := List.find?_some hk
  simp only [hops, List.any_nil, Bool.not_false, Bool.and_true, Bool.and_eq_true, Bool.not_eq_true', List.any_eq_false,
    beq_iff_eq] at hp
  exact ⟨k, hk, List.mem_range.mp (List.mem_of_find?_eq_some hk), hp.1, hp.2⟩

theorem multiplies_eq (c : Crew) : c.multiplies = (c.ops.filter fun o => decide (o.kind ≠ .zero)).length := by
  unfold Crew.multiplies
  congr 2
  funext o
  cases o.kind <;> rfl

/-- A crew put in the place of one with its identifier. -/
theorem crew?_modCrew {s : State} {c d : Crew} (hc : s.crew? c.id = some c) (hd : d.id = c.id) :
    (s.modCrew c.id fun _ => d).crew? c.id = some d :=
  (find?_updFirst (fun x : Crew => x.id == c.id) (fun _ => d) (fun _ _ => by simp [hd]) s.crews).trans
    (congrArg (Option.map fun _ => d) hc)

/-! ## A multiply operation (R223 to R225, R228, R234, R235) -/

theorem poisonedMembers_none {s : State} {o : MatrixOp} {k : Nat} {us : List Team} (hclean : ∀ p, s.plot? k = some p → p.poison = [])
    (hin : ∀ u ∈ us, u.plot = k) : s.poisonedMembers o k us = [] := by
  have hscratch : ∀ a n, s.scratchPoisoned k a n = false := fun a n => by
    unfold State.scratchPoisoned
    split
    case h_1 => rfl
    case h_2 p hp =>
      split
      · rfl
      · simp [hclean p hp]
  have hregs : ∀ u ∈ us, ∀ rs ls, s.readsPoison u rs ls = false := fun u hu rs ls => by
    unfold State.readsPoison
    rw [hin u hu]
    split
    case h_1 => rfl
    case h_2 p hp => simp [hclean p hp]
  refine List.filter_eq_nil_iff.mpr fun u hu => ?_
  simp [hscratch, hregs u hu]

section
variable {s : State} {c : Crew} {ms : List (Team × CrewArrival)} (hs : Standing s ms) (hc : s.crew? c.id = some c)
include hs hc

/-- A crew is changed and its members go on. -/
theorem modCrew_retireAll {s1 : State} (hteams : ∀ h, s1.team? h = s.team? h) (hcrews : s1.crews = s.crews) {d : Crew} (hd : d.id = c.id) :
    ((s1.modCrew c.id fun _ => d).retireAll (ms.map Prod.fst)).crew? c.id = some d ∧
      ∀ m ∈ ms, ((s1.modCrew c.id fun _ => d).retireAll (ms.map Prod.fst)).team? m.1.tid = some m.1.collectiveGone := by
  have hcrew : s1.crew? c.id = some c := by
    rw [State.crew?, hcrews]
    exact hc
  obtain ⟨hwakes, hgone⟩ := retireAll_retires (s := s1.modCrew c.id fun _ => d) (us := ms.map Prod.fst)
    (by simpa only [List.map_map, Function.comp_def] using hs.distinct)
    (fun u hu => by
      obtain ⟨m, hm, rfl⟩ := List.mem_map.mp hu
      exact (hteams _).trans (hs.here m hm))
    (fun u hu => by
      obtain ⟨m, hm, rfl⟩ := List.mem_map.mp hu
      exact hs.quiet m hm)
  refine ⟨?_, fun m hm => hgone m.1 (List.mem_map_of_mem hm)⟩
  rw [hwakes.rest]
  exact crew?_modCrew hcrew hd

theorem acceptMultiply_accepts (hclean : ∀ p, s.plot? c.plot = some p → p.poison = []) (hin : ∀ m ∈ ms, m.1.plot = c.plot)
    (t : Team) (a : CrewArrival) :
    (s.acceptMultiply c ms t a).crew? c.id = some { c with ops := c.ops ++ [matrixOpOf s c s.nextId ms t a] } ∧
      ∀ m ∈ ms, (s.acceptMultiply c ms t a).team? m.1.tid = some m.1.collectiveGone := by
  have hnone : s.takeId.2.poisonedMembers (matrixOpOf s.takeId.2 c s.nextId ms t a) c.plot (ms.map Prod.fst) = [] :=
    poisonedMembers_none hclean fun u hu => by
      obtain ⟨m, hm, rfl⟩ := List.mem_map.mp hu
      exact hin m hm
  have heq : s.acceptMultiply c ms t a = (s.takeId.2.modCrew c.id fun _ =>
      { c with ops := c.ops ++ [matrixOpOf s c s.nextId ms t a] }).retireAll (ms.map Prod.fst) := by
    unfold State.acceptMultiply
    rw [show s.takeId = (s.nextId, s.takeId.2) from rfl]
    dsimp only
    rw [hnone]
    rfl
  rw [heq]
  refine modCrew_retireAll hs hc (s1 := s.takeId.2) ?_ ?_ ?_
  · exact fun _ => rfl
  · rfl
  · rfl

/-- A clearing on an idle engine acts at once (R237). -/
theorem acceptClear_clears {d : Crew} (hid : d.id = c.id) (hops : d.ops = []) (name k : Nat) (hk : d.bound name = some k) :
    ∃ e, (s.acceptClear d (ms.map Prod.fst) name).crew? c.id = some e ∧ e.names = d.names ∧ e.ops = [] ∧
      e.tiles = spWrite {} d.tiles k {} ∧
      ∀ m ∈ ms, (s.acceptClear d (ms.map Prod.fst) name).team? m.1.tid = some m.1.collectiveGone := by
  have heq : s.acceptClear d (ms.map Prod.fst) name = (s.takeId.2.modCrew c.id fun _ =>
      ({ d with ops := [{ id := s.nextId, kind := .zero, tiles := [k] }] } : Crew).settle).retireAll (ms.map Prod.fst) := by
    simp only [State.acceptClear, State.takeId, hid, hops, hk, Option.getD_some, List.nil_append]
  rw [heq]
  obtain ⟨hcrew, hteams⟩ := modCrew_retireAll hs hc (s1 := s.takeId.2) (fun _ => rfl) rfl
    (d := ({ d with ops := [{ id := s.nextId, kind := .zero, tiles := [k] }] } : Crew).settle) hid
  exact ⟨_, hcrew, rfl, rfl, rfl, hteams⟩

end

theorem arrivalsWith_agree {ms : List (Team × CrewArrival)} (hagree : ∀ m ∈ ms, ∀ n ∈ ms, agrees m.2 n.2) (w : Team) :
    ∀ x ∈ arrivalsWith w ms, ∀ y ∈ arrivalsWith w ms, agrees x.2 y.2 := fun x hx y hy => by
  obtain ⟨m, hm, rfl⟩ := List.mem_map.mp hx
  obtain ⟨n, hn, rfl⟩ := List.mem_map.mp hy
  exact hagree m hm n hn

theorem shareOf_eq (u : Team) (va n : Nat) (e2 : Bool) : u.shareOf va n e2 = shareRule u va n e2 := by
  cases e2 <;> simp [Team.shareOf, shareRule]

theorem imageRegs_eq (n width : Nat) (e2 : Bool) : runLength n width e2 true / 2 = imageRegs n width e2 := by
  rw [runLength, if_pos rfl, Nat.mul_div_cancel _ (by decide)]
  rfl

theorem fmt_eq_iff (f : VFields) : f.fmt.toNat = 13 ↔ f.fmt = 13 := by
  rw [← BitVec.toNat_inj]
  rfl

theorem sizeA_eq (f : VFields) : sizeA f.fmt.toNat = if f.fmt = 13 then 18432 else 16384 := by
  simp only [sizeA, fmt_eq_iff]

/-- No trap of extents where the images lie inside the segment (R230, R235). -/
theorem multiplyTrap_none {u : Team} {a : CrewArrival} (hA : a.aOffset + sizeA a.f.fmt.toNat ≤ (u.seg 1).limit.toNat)
    (hmap : a.op = 0x1C4 → a.bitmap % 64 = 0 ∧ a.bitmap + 16 * matrixK a.f.fmt.toNat (srcFmt a.f) ≤ (u.seg 1).limit.toNat) :
    multiplyTrap u a = none := by
  unfold multiplyTrap
  dsimp only
  rw [if_neg (Nat.not_lt.mpr hA)]
  split
  case isTrue => rfl
  case isFalse hsparse =>
    obtain ⟨halign, hfits⟩ := hmap (not_not.mp hsparse)
    rw [if_neg (not_not.mpr halign), if_neg (Nat.not_lt.mpr hfits)]

theorem fmt_beq (f : VFields) : (f.fmt.toNat == 13) = decide (f.fmt = 13) := by
  simp only [Bool.beq_eq_decide_eq, fmt_eq_iff]

section
variable {s : State} {t : Team} {c : Crew} {op : Nat} {f : VFields} {ms : List (Team × CrewArrival)}
  (h : LastArrival s t c op f ms)
include h

/-- A member as it stands when all have arrived differs in its arrival alone. -/
theorem arrivalsWith_held {n : Nat} {m : Team × CrewArrival} (hm : m ∈ ms) :
    ∃ x y, putBack (t.crewHeld (arrivalOf t op f) n) m.1 = { m.1 with arrived := x, held := y } := by
  rcases lastArrival_putBack h (w := t.crewHeld (arrivalOf t op f) n) rfl hm with ⟨hput, rfl⟩ | ⟨hput, -⟩
  · exact ⟨_, _, hput⟩
  · exact ⟨_, _, hput⟩

theorem arrivalsWith_gone {n : Nat} {m : Team × CrewArrival} (hm : m ∈ ms) :
    (putBack (t.crewHeld (arrivalOf t op f) n) m.1).collectiveGone = { m.1.gone with fenced := false } := by
  rw [← collectiveGone_eq]
  rcases lastArrival_putBack h (w := t.crewHeld (arrivalOf t op f) n) rfl hm with ⟨hput, rfl⟩ | ⟨hput, -⟩
  · rw [hput, collectiveGone_crewHeld]
  · rw [hput]

/-- What every member's arrival is, where they agree: the last one's, but for the first register of its run and its fence. -/
theorem agreed (hagree : ∀ m ∈ ms, ∀ n ∈ ms, agrees m.2 n.2) {u : Team} {a : CrewArrival} (hm : (u, a) ∈ ms) :
    a.op = op ∧ a.f.vd = f.vd ∧ a.f.fmt = f.fmt ∧ a.f.md = f.md ∧ a.f.fn = f.fn ∧ a.nbv = t.nbv := by
  obtain ⟨-, hop, hf, -, -, hnbv⟩ := hagree _ hm _ h.self
  exact ⟨hop, congrArg (fun x => x.vd) hf, congrArg (fun x => x.fmt) hf, congrArg (fun x => x.md) hf,
    congrArg (fun x => x.fn) hf, hnbv⟩

/-- All members go on as they stand in the instruction. -/
theorem membersGone {n : Nat} {s' : State} (hs : ∀ m ∈ arrivalsWith (t.crewHeld (arrivalOf t op f) n) ms,
    s'.team? m.1.tid = some m.1.collectiveGone) : ∀ m ∈ ms, s'.team? m.1.tid = some { m.1.gone with fenced := false } := by
  intro m hm
  have hmine := hs _ (List.mem_map_of_mem hm)
  dsimp only at hmine
  rwa [putBack_tid, arrivalsWith_gone h hm] at hmine

/-- Arrivals that disagree trap every member. -/
theorem mismatch_traps (hsup : ∀ m ∈ ms, s.isSup m.1 = false) (hno : ∃ m ∈ ms, ∃ n ∈ ms, ¬ agrees m.2 n.2) :
    ∃ s', collective op f s = .next s' ∧ allTrap s s' (ms.map Prod.fst) 0x19 := by
  obtain ⟨n, hacc⟩ := lastArrival_accepts h
  have hst := lastArrival_standing h n
  have hwith : ∀ u ∈ (arrivalsWith (t.crewHeld (arrivalOf t op f) n) ms).map Prod.fst,
      ∃ m ∈ arrivalsWith (t.crewHeld (arrivalOf t op f) n) ms, m.1 = u := fun u hu => List.mem_map.mp hu
  obtain ⟨-, -, hall⟩ := trapAll_traps (us := (arrivalsWith (t.crewHeld (arrivalOf t op f) n) ms).map Prod.fst)
    (by simpa only [List.map_map, Function.comp_def] using hst.distinct)
    (fun u hu => by
      obtain ⟨m, hm, rfl⟩ := hwith u hu
      exact hst.here m hm)
    (fun u hu => by
      obtain ⟨m, hm, rfl⟩ := hwith u hu
      exact hst.quiet m hm)
    (fun u hu => by
      obtain ⟨m', hm', rfl⟩ := hwith u hu
      obtain ⟨m, hm, rfl⟩ := List.mem_map.mp hm'
      obtain ⟨x, y, hxy⟩ := arrivalsWith_held h (n := n) hm
      dsimp only
      rw [hxy]
      exact hsup m hm) 0x19
  have hmine : ∀ m ∈ ms, _ := fun m hm => hall _ (List.mem_map_of_mem (List.mem_map_of_mem hm))
  have hmismatch := acceptAll_mismatch (s := s.setTeam (t.crewHeld (arrivalOf t op f) n)) (c := c)
    (ms := arrivalsWith (t.crewHeld (arrivalOf t op f) n) ms) (by
      obtain ⟨x, hx, y, hy, hxy⟩ := hno
      exact ⟨_, List.mem_map_of_mem hx, _, List.mem_map_of_mem hy, hxy⟩)
  obtain ⟨hown, -⟩ := hmine _ h.self
  refine ⟨_, hacc _ _ hmismatch ((putBack_tid _ t) ▸ hown) rfl, fun u hu => ?_⟩
  obtain ⟨m, hm, rfl⟩ := List.mem_map.mp hu
  obtain ⟨hteam, hctx⟩ := hmine m hm
  obtain ⟨x, y, hxy⟩ := arrivalsWith_held h (n := n) hm
  dsimp only at hteam hctx
  rw [hxy] at hteam hctx
  exact ⟨hteam, hctx⟩

/-- Where all agree, MZERO and MNEW are accepted with the name bound. -/
theorem accepts_clear (hagree : ∀ m ∈ ms, ∀ n ∈ ms, agrees m.2 n.2) (hop : op = 0x1C6 ∨ op = 0x1C7) {c1 : Crew}
    (hbound : bindNames (op == 0x1C7) [f.vd.toNat % 16] c = some c1) (v : State) (w : Team) :
    v.acceptAll c (arrivalsWith w ms) = v.acceptClear c1 ((arrivalsWith w ms).map Prod.fst) (f.vd.toNat % 16) := by
  have hall := arrivalsWith_agree hagree w
  rcases hms : ms with _ | ⟨⟨t0, a0⟩, rest⟩
  · exact absurd (hms ▸ h.self) (by simp)
  · rw [hms] at hall
    obtain ⟨hop0, hvd, -⟩ := agreed h hagree (u := t0) (a := a0) (by simp [hms])
    have hnames : collNames a0.op a0.f = [f.vd.toNat % 16] := by
      rw [collNames, hop0, hvd, if_neg (by rcases hop with rfl | rfl <;> decide)]
    have heq := acceptAll_clear (s := v) (c := c) hall (c1 := c1) (by rw [hop0]; exact hop) (by rw [hnames, hop0]; exact hbound)
    rw [hvd] at heq
    exact heq

/-- MZERO on a bound name with nothing outstanding clears its tile (R237). -/
theorem mzero_clears (hop : op = 0x1C6) (hc : s.crew? c.id = some c) (hagree : ∀ m ∈ ms, ∀ n ∈ ms, agrees m.2 n.2)
    (hops : c.ops = []) {k : Nat} (hk : spRead none c.names (f.vd.toNat % 16) = some k) :
    ∃ s' c', collective op f s = .next s' ∧ (∀ m ∈ ms, s'.team? m.1.tid = some { m.1.gone with fenced := false }) ∧
      s'.crew? c.id = some c' ∧ c'.names = c.names ∧ c'.ops = [] ∧
      ∀ j, spRead {} c'.tiles j = if j = k then {} else spRead {} c.tiles j := by
  obtain ⟨n, hacc⟩ := lastArrival_accepts h
  have hst := lastArrival_standing h n
  obtain ⟨e, hcrew, hnames, hnone, htiles, hteams⟩ := acceptClear_clears hst hc rfl hops (f.vd.toNat % 16) k hk
  have heq : (s.setTeam (t.crewHeld (arrivalOf t op f) n)).acceptAll c (arrivalsWith (t.crewHeld (arrivalOf t op f) n) ms) =
      (s.setTeam (t.crewHeld (arrivalOf t op f) n)).acceptClear c
        ((arrivalsWith (t.crewHeld (arrivalOf t op f) n) ms).map Prod.fst) (f.vd.toNat % 16) := by
    refine accepts_clear h hagree (.inl hop) ?_ _ _
    subst hop
    exact bindNames_bound fun m hm => by
      rw [List.mem_singleton.mp hm, Crew.bound, hk]
      rfl
  have hgone := membersGone h hteams
  refine ⟨_, e, hacc _ _ heq (hgone _ h.self) rfl, hgone, hcrew, hnames, hnone, fun j => ?_⟩
  rw [htiles, spRead_spWrite]

/-- MNEW with nothing outstanding binds its name to a free tile and clears it (R112, R237). -/
theorem mnew_binds (hop : op = 0x1C7) (hc : s.crew? c.id = some c) (hagree : ∀ m ∈ ms, ∀ n ∈ ms, agrees m.2 n.2)
    (hops : c.ops = []) (hfree : ∃ k < c.tileCount, (∀ n ∈ c.names, n.2 ≠ some k) ∧ c.drains k = false) :
    ∃ s' c' k, collective op f s = .next s' ∧ (∀ m ∈ ms, s'.team? m.1.tid = some { m.1.gone with fenced := false }) ∧
      s'.crew? c.id = some c' ∧ k < c.tileCount ∧ (∀ n ∈ c.names, n.2 ≠ some k) ∧ c.drains k = false ∧
      (∀ n, spRead none c'.names n = if n = f.vd.toNat % 16 then some k else spRead none c.names n) ∧
      ∀ j, spRead {} c'.tiles j = if j = k then {} else spRead {} c.tiles j := by
  obtain ⟨k, htile, hlt, hunheld, hdrains⟩ := freeTile_free hops hfree
  obtain ⟨n, hacc⟩ := lastArrival_accepts h
  have hst := lastArrival_standing h n
  obtain ⟨e, hcrew, hnames, -, htiles, hteams⟩ := acceptClear_clears hst hc
    (d := c.bind (f.vd.toNat % 16) k) rfl hops (f.vd.toNat % 16) k (by rw [Crew.bound, Crew.bind, spRead_spWrite, if_pos rfl])
  have heq : (s.setTeam (t.crewHeld (arrivalOf t op f) n)).acceptAll c (arrivalsWith (t.crewHeld (arrivalOf t op f) n) ms) =
      (s.setTeam (t.crewHeld (arrivalOf t op f) n)).acceptClear (c.bind (f.vd.toNat % 16) k)
        ((arrivalsWith (t.crewHeld (arrivalOf t op f) n) ms).map Prod.fst) (f.vd.toNat % 16) := by
    refine accepts_clear h hagree (.inr hop) ?_ _ _
    simp [bindNames, hop, htile, Crew.bind]
  have hgone := membersGone h hteams
  refine ⟨_, e, k, hacc _ _ heq (hgone _ h.self) rfl, hgone, hcrew, hlt, hunheld, hdrains, fun m => ?_, fun j => ?_⟩
  · rw [hnames, Crew.bind, spRead_spWrite]
  · rw [htiles, spRead_spWrite, Crew.bind, spRead_spWrite]
    split <;> rfl

/-- Where all agree and no extent of an image passes its segment, the engine takes a multiply operation on bound names. -/
theorem accepts_multiply (hagree : ∀ m ∈ ms, ∀ n ∈ ms, agrees m.2 n.2) (hop : op = 0x1C2 ∨ op = 0x1C3 ∨ op = 0x1C4)
    (hroom : (c.ops.filter fun o => decide (o.kind ≠ .zero)).length < 4)
    (hext : ∀ m ∈ ms, m.2.aOffset + (if f.fmt = 13 then 18432 else 16384) ≤ (m.1.seg 1).limit.toNat ∧
      (op = 0x1C4 → m.2.bitmap % 64 = 0 ∧ m.2.bitmap + 16 * matrixK f.fmt.toNat (srcFmt f) ≤ (m.1.seg 1).limit.toNat))
    (hbound : ∀ k, k = f.vd.toNat % 16 ∨ (op = 0x1C3 ∧ k = f.vd.toNat % 16 + 1) → (spRead none c.names k).isSome = true)
    {t0 : Team} {a0 : CrewArrival} {rest : List (Team × CrewArrival)} (hms : ms = (t0, a0) :: rest) (v : State) (n : Nat) :
    v.acceptAll c (arrivalsWith (t.crewHeld (arrivalOf t op f) n) ms) = v.acceptMultiply c
      (arrivalsWith (t.crewHeld (arrivalOf t op f) n) ms) (putBack (t.crewHeld (arrivalOf t op f) n) t0) a0 := by
  have hfirst : (t0, a0) ∈ ms := by simp [hms]
  obtain ⟨hop0, hvd, hfmt, -, hfn, -⟩ := agreed h hagree hfirst
  obtain ⟨x, y, hxy⟩ := arrivalsWith_held h (n := n) hfirst
  obtain ⟨hA, hmap⟩ := hext _ hfirst
  have hsrc : srcFmt a0.f = srcFmt f := by rw [srcFmt, srcFmt, hfn]
  have hnames : bindNames false (collNames a0.op a0.f) c = some c := bindNames_bound fun k hk => by
    rw [collNames, hop0, hvd] at hk
    refine hbound k ?_
    split at hk
    case isTrue htwin => simpa [htwin] using hk
    case isFalse => exact .inl (by simpa using hk)
  have htrap : multiplyTrap (putBack (t.crewHeld (arrivalOf t op f) n) t0) a0 = none := by
    have hseg : (putBack (t.crewHeld (arrivalOf t op f) n) t0).seg 1 = t0.seg 1 := by rw [hxy]; rfl
    refine multiplyTrap_none (by rw [hseg, hfmt, sizeA_eq]; exact hA) fun hsparse => ?_
    rw [hseg, hfmt, hsrc]
    exact hmap (hop0.symm.trans hsparse)
  have hall := arrivalsWith_agree hagree (t.crewHeld (arrivalOf t op f) n)
  rw [hms] at hall ⊢
  exact acceptAll_multiply hall (by rw [hop0]; exact hop) htrap (by rw [multiplies_eq]; exact hroom) hnames

/-- The B image: the members' shares one after another (R224, R225). -/
theorem shares_eq (n half len : Nat) (e2 : Bool) :
    ((arrivalsWith (t.crewHeld (arrivalOf t op f) n) ms).flatMap fun m => m.1.shareOf (m.2.f.va.toNat + half * len) c.size e2) =
      ms.flatMap fun m => shareRule m.1 (m.2.f.va.toNat + half * len) c.size e2 := by
  rw [arrivalsWith, List.flatMap_map]
  refine List.flatMap_congr fun m hm => ?_
  obtain ⟨x, y, hxy⟩ := arrivalsWith_held h (n := n) hm
  dsimp only
  rw [hxy, shareOf_eq]
  rfl

/-- A multiply operation of members that agree: its formats, mode, names and operand images (R223 to R225, R234, R235). -/
theorem acceptedOp (hagree : ∀ m ∈ ms, ∀ n ∈ ms, agrees m.2 n.2) (hop : op = 0x1C2 ∨ op = 0x1C3 ∨ op = 0x1C4)
    (hbound : ∀ k, k = f.vd.toNat % 16 ∨ (op = 0x1C3 ∧ k = f.vd.toNat % 16 + 1) → (spRead none c.names k).isSome = true)
    {t0 : Team} {a0 : CrewArrival} {rest : List (Team × CrewArrival)} (hms : ms = (t0, a0) :: rest) (n : Nat) {o : MatrixOp}
    (ho : o = matrixOpOf (s.setTeam (t.crewHeld (arrivalOf t op f) n)) c s.nextId
      (arrivalsWith (t.crewHeld (arrivalOf t op f) n) ms) (putBack (t.crewHeld (arrivalOf t op f) n) t0) a0) :
    o.id = s.nextId ∧
    o.kind = (if op = 0x1C2 then .mma else if op = 0x1C3 then .mmat else .mmasp) ∧
    o.fmtA = f.fmt.toNat ∧ o.fmtB = srcFmt f ∧ o.mode = f.md.toNat % 4 ∧ o.nbv = t.nbv.toNat ∧
    o.tiles.map some = (if op = 0x1C3 then
      [spRead none c.names (f.vd.toNat % 16), spRead none c.names (f.vd.toNat % 16 + 1)]
      else [spRead none c.names (f.vd.toNat % 16)]) ∧
    o.wild = ms.any (fun m => !m.2.fenced) ∧
    (∀ m, ms.head? = some m → o.imgA = s.readScratch c.plot ((m.1.seg 1).base + BitVec.ofNat 64 m.2.aOffset).toNat
      (if f.fmt = 13 then 18432 else 16384)) ∧
    (op ≠ 0x1C3 → o.imgB = ms.flatMap fun m => shareRule m.1 m.2.f.va.toNat c.size (decide (f.fmt = 13))) ∧
    (op = 0x1C3 → ∀ h, ms.head? = some h → o.imgB =
      (ms.flatMap fun m => shareRule m.1 m.2.f.va.toNat c.size (decide (f.fmt = 13))) ++
      ms.flatMap fun m => shareRule m.1 (m.2.f.va.toNat + imageRegs c.size h.1.width (decide (f.fmt = 13))) c.size
        (decide (f.fmt = 13))) ∧
    (op ≠ 0x1C4 → o.bitmaps = []) ∧
    (op = 0x1C4 → ∀ m, ms.head? = some m → o.bitmaps =
      s.readScratch c.plot ((m.1.seg 1).base + BitVec.ofNat 64 m.2.bitmap).toNat (16 * matrixK f.fmt.toNat (srcFmt f))) := by
  have hfirst : (t0, a0) ∈ ms := by simp [hms]
  have hhead : ∀ m, ms.head? = some m → m = (t0, a0) := fun m hm => by
    rw [hms] at hm
    exact (Option.some.inj hm).symm
  obtain ⟨hop0, hvd, hfmt, hmd, hfn, hnbv⟩ := agreed h hagree hfirst
  obtain ⟨x, y, hxy⟩ := arrivalsWith_held h (n := n) hfirst
  have hsrc : srcFmt a0.f = srcFmt f := by rw [srcFmt, srcFmt, hfn]
  have hseg : ∀ off, segAddr (putBack (t.crewHeld (arrivalOf t op f) n) t0) 1 off = (t0.seg 1).base + off := fun off => by
    rw [hxy]
    rfl
  have hwidth : (putBack (t.crewHeld (arrivalOf t op f) n) t0).width = t0.width := by rw [hxy]
  have hwild : ((arrivalsWith (t.crewHeld (arrivalOf t op f) n) ms).any fun m => !m.2.fenced) = ms.any fun m => !m.2.fenced := by
    rw [arrivalsWith, List.any_map]
    rfl
  have hread : ∀ k a n', (s.setTeam (t.crewHeld (arrivalOf t op f) n)).readScratch k a n' = s.readScratch k a n' := fun _ _ _ => rfl
  have hshare : ∀ half len, ((arrivalsWith (t.crewHeld (arrivalOf t op f) n) ms).flatMap fun m =>
      m.1.shareOf (m.2.f.va.toNat + half * len) c.size (decide (f.fmt = 13))) =
      ms.flatMap fun m => shareRule m.1 (m.2.f.va.toNat + half * len) c.size (decide (f.fmt = 13)) :=
    fun half len => shares_eq h n half len _
  have htiles : ((collNames op f).map fun n => (c.bound n).getD 0).map some = (if op = 0x1C3 then
      [spRead none c.names (f.vd.toNat % 16), spRead none c.names (f.vd.toNat % 16 + 1)]
      else [spRead none c.names (f.vd.toNat % 16)]) := by
    have hname : ∀ k, (spRead none c.names k).isSome = true → some ((c.bound k).getD 0) = spRead none c.names k := fun k hk => by
      obtain ⟨p, hp⟩ := Option.isSome_iff_exists.mp hk
      rw [Crew.bound, hp]
      rfl
    unfold collNames
    split
    case isTrue htwin => simp [hname _ (hbound _ (.inl rfl)), hname _ (hbound _ (.inr ⟨htwin, rfl⟩))]
    case isFalse => simp [hname _ (hbound _ (.inl rfl))]
  have hcoll : collNames op a0.f = collNames op f := by rw [collNames, collNames, hvd]
  subst ho
  simp only [matrixOpOf, hop0, hfmt, hsrc, hmd, hnbv, hcoll, htiles, hwild, hseg, hwidth, hread, fmt_beq, hshare, sizeA_eq]
  refine ⟨trivial, ?kind, trivial, trivial, trivial, trivial, trivial, trivial, fun m hm => ?imageA, fun hne => ?imageB,
    fun htwin m hm => ?twin, fun hne => if_neg (by simpa using hne), fun hsparse m hm => ?bitmaps⟩
  case kind => rcases hop with rfl | rfl | rfl <;> rfl
  case imageA =>
    rw [hhead m hm]
    rfl
  case imageB => simp only [beq_iff_eq, if_neg hne, Nat.zero_mul, Nat.add_zero]
  case twin =>
    rw [hhead m hm]
    simp only [htwin, beq_self_eq_true, if_true, Nat.zero_mul, Nat.add_zero, Nat.one_mul, imageRegs_eq]
  case bitmaps =>
    rw [hhead m hm, if_pos (by simp [hsparse])]
    rfl

theorem multiply_accepted (hc : s.crew? c.id = some c) (hagree : ∀ m ∈ ms, ∀ n ∈ ms, agrees m.2 n.2)
    (hop : op = 0x1C2 ∨ op = 0x1C3 ∨ op = 0x1C4)
    (hroom : (c.ops.filter fun o => decide (o.kind ≠ .zero)).length < 4)
    (hext : ∀ m ∈ ms, m.2.aOffset + (if f.fmt = 13 then 18432 else 16384) ≤ (m.1.seg 1).limit.toNat ∧
      (op = 0x1C4 → m.2.bitmap % 64 = 0 ∧ m.2.bitmap + 16 * matrixK f.fmt.toNat (srcFmt f) ≤ (m.1.seg 1).limit.toNat))
    (hbound : ∀ k, k = f.vd.toNat % 16 ∨ (op = 0x1C3 ∧ k = f.vd.toNat % 16 + 1) → (spRead none c.names k).isSome = true)
    (hclean : ∀ p, s.plot? c.plot = some p → p.poison = []) (hin : ∀ m ∈ ms, m.1.plot = c.plot) :
    ∃ (n : Nat) (t0 : Team) (a0 : CrewArrival) (rest : List (Team × CrewArrival)) (s' : State), ms = (t0, a0) :: rest ∧
      collective op f s = .next s' ∧ (∀ m ∈ ms, s'.team? m.1.tid = some { m.1.gone with fenced := false }) ∧
      s'.crew? c.id = some { c with ops := c.ops ++ [matrixOpOf (s.setTeam (t.crewHeld (arrivalOf t op f) n)) c s.nextId
        (arrivalsWith (t.crewHeld (arrivalOf t op f) n) ms) (putBack (t.crewHeld (arrivalOf t op f) n) t0) a0] } := by
  obtain ⟨n, hacc⟩ := lastArrival_accepts h
  have hst := lastArrival_standing h n
  obtain ⟨⟨t0, a0⟩, rest, hms⟩ := List.exists_cons_of_ne_nil (List.ne_nil_of_mem h.self)
  have heq := accepts_multiply h hagree hop hroom hext hbound hms (s.setTeam (t.crewHeld (arrivalOf t op f) n)) n
  obtain ⟨hcrew, hteams⟩ := acceptMultiply_accepts hst hc hclean (fun m' hm' => by
    obtain ⟨m, hm, rfl⟩ := List.mem_map.mp hm'
    obtain ⟨x, y, hxy⟩ := arrivalsWith_held h (n := n) hm
    dsimp only
    rw [hxy]
    exact hin m hm) (putBack (t.crewHeld (arrivalOf t op f) n) t0) a0
  have hgone := membersGone h hteams
  exact ⟨n, t0, a0, rest, _, hms, hacc _ _ heq (hgone _ h.self) rfl, hgone, hcrew⟩

end

/-! ## The statement -/

theorem multiply_of_lt {i : Instr} {op : Nat} {f : VFields} (hi : collectiveRule i = some (op, f)) (hlt : op < 0x1C6) :
    op = 0x1C2 ∨ op = 0x1C3 ∨ op = 0x1C4 := by
  unfold collectiveRule at hi
  split at hi
  case h_6 => exact nomatch hi
  all_goals
    cases hi
    omega

/-- Settles O31: a member waits for its crew; the last arrival traps every member, or has the operation accepted and every
member go on. -/
theorem collectiveIsAcceptedWithItsCrew : Obligations.CollectiveIsAcceptedWithItsCrew := by
  unfold Obligations.CollectiveIsAcceptedWithItsCrew
  intro i op f hi
  simp only [CompletesAs, exec_collective hi]
  refine ⟨fun s t c h => ⟨fun hb => ?broken, fun hb ⟨k, hk, hn⟩ => ?waits⟩, fun s t c ms h hc hsup => ⟨fun hno => ?mismatch,
    fun hagree => ⟨fun hlt hroom hext hbound hclean hin => ?multiply, fun hop hops k hk => ?mzero, fun hop hops hfree => ?mnew⟩⟩⟩
  case broken => exact collective_broken h hb
  case waits => exact memberWaits h hb hk hn
  case mismatch => exact mismatch_traps h hsup hno
  case multiply =>
    have hmul := multiply_of_lt hi hlt
    obtain ⟨n, t0, a0, rest, s', hms, he, hteams, hcrew⟩ := multiply_accepted h hc hagree hmul hroom hext hbound hclean hin
    exact ⟨s', _, _, he, hteams, hcrew, rfl, acceptedOp h hagree hmul hbound hms n rfl⟩
  case mzero => exact mzero_clears h hop hc hagree hops hk
  case mnew => exact mnew_binds h hop hc hagree hops hfree

end Sys2Proof.Machine
end

section
/-! PROOFS. Float, integer, bit, random and special-function instructions (R160 to R169, R181 to R184): each computes an element
from the elements of its sources at the same place, or draws it, and what it computes is what its rule states; O12. -/

namespace Sys2Proof.Machine

open Sys2Proof.Claims

/-! ## Instructions of elements, under their rules -/

/-- The opcodes that neither read lanes beside the active ones nor take cycles after the last pass (R158, R165, R171). -/
abbrev Elementwise (op : Nat) : Prop := op ∉ [0x002, 0x004, 0x031, 0x032, 0x04B]

theorem readAll_length {cs : List Nat} {s s1 : State} {t t1 : Team} {srcs : List Src}
    (h : readAll s t cs = .inl (srcs, s1, t1)) : srcs.length = cs.length := by
  induction cs generalizing s t srcs with
  | nil => cases h; rfl
  | cons c cs ih =>
    rw [readAll] at h
    split at h
    · cases h
    · split at h
      · cases h
      · rename_i hcs
        cases h
        exact congrArg (· + 1) (ih hcs)

theorem elemShape_of_elementwise {op : Nat} (hop : Elementwise op) (f : VFields) (pair : Bool) :
    elemShape op f pair =
      { sources := sourceCodes op f, reads := sourceRegs op f, perPass := passCycles op f, pair } := by
  simp only [Elementwise, List.mem_cons, List.not_mem_nil, or_false, not_or] at hop
  obtain ⟨h02, h04, h31, h32, h4B⟩ := hop
  simp [elemShape, h02, h04, h31, h32, h4B]

theorem elemDraws_eq (t : Team) (f : VFields) (rounds : Bool) (n : Nat) :
    (if rounds then rsrDraws t f n else 0) = if rounds && roundCode t f == 5 then n else 0 := by
  cases rounds <;> simp [rsrDraws]

section
variable {op : Nat} {f : VFields} {i : Instr} {s s1 : State} {t t1 : Team} {srcs : List Src}

/-- An instruction whose function agrees with its rule's on as many elements as the instruction has sources. -/
theorem elementRule_completes {rounds : Bool} {g g' : Mode → List Nat → Nat × BitVec 8} (hop : Elementwise op)
    (h : (elementRule op f rounds g').Ready s t srcs s1 t1) (he : exec i s = mapElems op f rounds g s)
    (hg : ∀ m xs, xs.length = (sourceCodes op f).length → g m xs = g' m xs) :
    (elementRule op f rounds g').Completes i s t srcs s1 t1 := by
  have hagree : ∀ m (el : Src → Nat), g m (srcs.map el) = g' m (srcs.map el) := fun m el =>
    hg m _ ((List.length_map el).trans (readAll_length h.sources))
  simp only [mapElems, elemShape_of_elementwise hop] at he
  refine completes_of_runV (pair := (fmtF f).wide) (weirs := true) h he (computes_packed ?_ ?_ rfl fun l => ?_) fun _ => rfl
  · simp only [hagree, List.map_map]; rfl
  · simp only [hagree, List.map_map]; rfl
  · exact (elemDraws_eq t f rounds _).symm

/-- The rule of elements that raise no flag, as many draws being taken in each lane. -/
def unflaggedRule (op : Nat) (f : VFields) (n : Nat) (el : State → Team → List Src → Nat → Nat → Nat) : VRule :=
  { sliceRule op f false 0 fun s t srcs l => packElems (fmtF f) ((List.range (fmtF f).perLane).map (el s t srcs l)) with
    draws := fun _ _ => n }

theorem foldl_or_zeros (fs : List (BitVec 8)) (hz : ∀ x ∈ fs, x = 0) (x : BitVec 8) :
    fs.foldl (fun a f => a ||| f) x = x :=
  List.foldlRecOn (motive := fun a => a = x) fs _ rfl fun a ha f hf => by simp [ha, hz f hf]

/-- Whether an instruction may issue does not turn on its rule's flags. -/
theorem ready_withFlags {r : VRule} (h : r.Ready s t srcs s1 t1) (fl : State → Team → List Src → List (BitVec 8)) :
    VRule.Ready { r with flags := fl } s t srcs s1 t1 :=
  ⟨h.poised, h.checks, h.sources, h.dest, h.clean⟩

/-- Flags that are all clear may be left out of a rule. -/
theorem completes_withoutFlags {r : VRule} {fl : State → Team → List Src → List (BitVec 8)}
    (h : VRule.Completes { r with flags := fl } i s t srcs s1 t1) (hz : ∀ x ∈ fl s t srcs, x = 0)
    (hr : r.flags s t srcs = []) : r.Completes i s t srcs s1 t1 := by
  obtain ⟨hsome, hnone⟩ := h
  refine ⟨fun hl => ?_, hnone⟩
  obtain ⟨u, d, he, hd, hu, hctr⟩ := hsome hl
  refine ⟨u, d, he, hd, ?_, hctr⟩
  rw [foldl_or_zeros _ hz] at hu
  rw [hr]
  exact hu

theorem unflaggedRule_completes {n : Nat} {el : State → Team → List Src → Nat → Nat → Nat} (hop : Elementwise op)
    (h : (unflaggedRule op f n el).Ready s t srcs s1 t1)
    (he : exec i s = issueV op f s (runV (elemShape op f (fmtF f).wide) [f.vd.toNat] fun s v srcs lanes =>
      joinOut (lanes.map fun l => packOut (fmtF f) f.vd.toNat l n
        ((List.range (fmtF f).perLane).map fun j => (el s v srcs l j, 0))))) :
    (unflaggedRule op f n el).Completes i s t srcs s1 t1 := by
  rw [elemShape_of_elementwise hop] at he
  have h' := ready_withFlags h fun _ t _ => t.lanes.flatMap fun _ => (List.range (fmtF f).perLane).map fun _ => 0
  refine completes_withoutFlags (completes_of_runV (pair := (fmtF f).wide) (weirs := true) h' he
    (computes_packed ?_ ?_ rfl fun _ => rfl) fun _ => rfl) (by simp) rfl
  · simp only [List.map_map]; rfl
  · simp only [List.map_map]; rfl

end

/-! ## Float instructions (R53, R63, R69, R166, R167) -/

theorem valAt_map {xs : List Nat} {n : Nat} (hn : n < xs.length) (F : Fmt) :
    valAt (xs.map (floatVal F)) n = floatVal F (xs.getD n 0) := by
  simp [valAt, hn]

/-- A float operation of two values. -/
theorem floatOp_eq {f : VFields} (g : Mode → Val → Val → Res) (m : Mode) {xs : List Nat} (hx : xs.length = 2) :
    floatOp (fmtF f) (modSat f) (fun m v => g m (valAt v 0) (valAt v 1)) m xs =
      floatResult f (fun m a b _ => g m a b) m xs := by
  simp only [floatOp, floatResult, List.any_map]
  rw [valAt_map (by omega), valAt_map (by omega)]
  rfl

theorem curNbv_of_poised {s : State} {t : Team} (h : Poised s t) : s.curNbv = t.nbv.toNat := by
  rw [State.curNbv, h.team]

/-- A product and a sum, the product rounded first under NBV 1; its sign is changed where it is valid (R69, R70). -/
theorem fused_eq {f : VFields} {s : State} {t : Team} (hp : Poised s t) (negProduct negAddend : Bool) (m : Mode)
    {xs : List Nat} (hx : xs.length = 3) :
    fused (fmtF f) (modSat f) s.curNbv negProduct negAddend m xs = fusedResult f t negProduct negAddend m xs := by
  have hnbv : (t.nbv.toNat = 1) = (t.nbv = 1) := propext ⟨fun h => BitVec.eq_of_toNat_eq h, fun h => by rw [h]; rfl⟩
  simp only [fused, fusedResult, List.any_map, curNbv_of_poised hp, hnbv]
  rw [valAt_map (by omega), valAt_map (by omega), valAt_map (by omega)]
  generalize mulVal _ _ = p
  cases p with
  | val x => cases negProduct <;> rfl
  | invalid => cases negProduct <;> rfl

theorem exactFloat_eq (f : VFields) (g : Nat → Nat → Nat → Nat) (m : Mode) (xs : List Nat) :
    exactFloat (fmtF f) (fun x => g (opnd x 0) (opnd x 1) (opnd x 2)) m xs = exactResult f g m xs := by
  simp only [exactFloat, exactResult, List.any_map]
  rfl

section
variable {i : Instr} {op : Nat} {f : VFields} {s s1 : State} {t t1 : Team} {srcs : List Src}

/-- A sum, a difference or a product. -/
theorem floatOp_completes {g : Mode → Val → Val → Res} (hop : Elementwise op) (hn : (sourceCodes op f).length = 2)
    (h : (elementRule op f true (floatResult f fun m a b _ => g m a b)).Ready s t srcs s1 t1)
    (he : exec i s = mapElems op f true (floatOp (fmtF f) (modSat f) fun m v => g m (valAt v 0) (valAt v 1)) s) :
    (elementRule op f true (floatResult f fun m a b _ => g m a b)).Completes i s t srcs s1 t1 :=
  elementRule_completes hop h he fun m _ hx => floatOp_eq g m (hx.trans hn)

theorem fused_completes {negProduct negAddend : Bool} (hop : Elementwise op) (hn : (sourceCodes op f).length = 3)
    (h : (elementRule op f true (fusedResult f t negProduct negAddend)).Ready s t srcs s1 t1)
    (he : exec i s = mapElems op f true (fused (fmtF f) (modSat f) s.curNbv negProduct negAddend) s) :
    (elementRule op f true (fusedResult f t negProduct negAddend)).Completes i s t srcs s1 t1 :=
  elementRule_completes hop h he fun m _ hx =>
    fused_eq ((poised_iff s t).mp h.poised) negProduct negAddend m (hx.trans hn)

/-- An operation without rounding. -/
theorem exactFloat_completes {g : Nat → Nat → Nat → Nat} (hop : Elementwise op)
    (h : (elementRule op f false (exactResult f g)).Ready s t srcs s1 t1)
    (he : exec i s = mapElems op f false (exactFloat (fmtF f) fun x => g (opnd x 0) (opnd x 1) (opnd x 2)) s) :
    (elementRule op f false (exactResult f g)).Completes i s t srcs s1 t1 :=
  elementRule_completes hop h he fun m xs _ => exactFloat_eq f g m xs

end

theorem floatInstructionGivesItsResults : Claims.FloatInstructionGivesItsResults := by
  intro s s1 t t1 i r srcs hr h
  cases i <;> cases hr
  case vadd f => exact floatOp_completes (g := fun m a b => sumVals m.down [a, b]) (by decide) rfl h rfl
  case vsub f => exact floatOp_completes (g := fun m a b => sumVals m.down [a, negVal b]) (by decide) rfl h rfl
  case vmul f => exact floatOp_completes (g := fun _ a b => mulVal a b) (by decide) rfl h rfl
  case vfma f => exact fused_completes (by decide) rfl h rfl
  case vfms f => exact fused_completes (by decide) rfl h rfl
  case vfnma f => exact fused_completes (by decide) rfl h rfl
  case vmin f => exact exactFloat_completes (by decide) h rfl
  case vmax f => exact exactFloat_completes (by decide) h rfl
  case vabs f => exact exactFloat_completes (by decide) h rfl
  case vneg f => exact exactFloat_completes (by decide) h rfl
  case vclamp f => exact exactFloat_completes (by decide) h rfl

/-! ## Integer and bit instructions (R53, R57, R168, R169) -/

theorem intAt_map (F : Fmt) (xs : List Nat) (n : Nat) : intAt (xs.map F.int) n = F.int (xs.getD n 0) := by
  have hzero : F.int 0 = 0 := by simp [Fmt.int, signed, bit]
  by_cases hn : n < xs.length
  · simp [intAt, hn]
  · simp [intAt, hn, hzero]

theorem intOp_eq (F : Fmt) (sat : Bool) (g : Int → Int → Int → Int) (m : Mode) (xs : List Nat) :
    intOp F sat (fun z => g (intAt z 0) (intAt z 1) (intAt z 2)) m xs = integerResult F sat g m xs := by
  simp only [intOp, integerResult, intAt_map]

section
variable {i : Instr} {op : Nat} {f : VFields} {s s1 : State} {t t1 : Team} {srcs : List Src}

theorem intOp_completes {sat : Bool} {g : Int → Int → Int → Int} (hop : Elementwise op)
    (h : (elementRule op f false (integerResult (fmtF f) sat g)).Ready s t srcs s1 t1)
    (he : exec i s = mapElems op f false (intOp (fmtF f) sat fun z => g (intAt z 0) (intAt z 1) (intAt z 2)) s) :
    (elementRule op f false (integerResult (fmtF f) sat g)).Completes i s t srcs s1 t1 :=
  elementRule_completes hop h he fun m xs _ => intOp_eq (fmtF f) sat g m xs

/-- A pattern of bits. -/
theorem bitOp_completes {g : Nat → Nat → Nat → Nat → Nat} {b : Nat → List Nat → Nat} (hop : Elementwise op)
    (h : (elementRule op f false (patternResult f g)).Ready s t srcs s1 t1)
    (he : exec i s = mapElems op f false (bitOp (fmtF f) b) s)
    (hb : ∀ n xs, b n xs = g n (opnd xs 0) (opnd xs 1) (opnd xs 2)) :
    (elementRule op f false (patternResult f g)).Completes i s t srcs s1 t1 :=
  elementRule_completes hop h he fun _ xs _ => by simp only [bitOp, hb]; rfl

end

theorem integerRule_completes {i : Instr} {r : VRule} {s s1 : State} {t t1 : Team} {srcs : List Src}
    (hr : integerRule i = some r) (h : r.Ready s t srcs s1 t1) : r.Completes i s t srcs s1 t1 := by
  cases i <;> cases hr
  case viadd f => exact intOp_completes (by decide) h rfl
  case visub f => exact intOp_completes (by decide) h rfl
  case vimul f => exact intOp_completes (by decide) h rfl
  case vimulh f => exact intOp_completes (by decide) h rfl
  case vimad f => exact intOp_completes (by decide) h rfl
  case vshl f => exact bitOp_completes (by decide) h rfl fun n xs => by simp only [Nat.shiftLeft_eq]
  case vshr f => exact bitOp_completes (by decide) h rfl fun n xs => by simp only [Nat.shiftRight_eq_div_pow]
  case vsar f => exact bitOp_completes (by decide) h rfl fun _ _ => rfl
  case vand f => exact bitOp_completes (by decide) h rfl fun _ _ => rfl
  case vor f => exact bitOp_completes (by decide) h rfl fun _ _ => rfl
  case vxor f => exact bitOp_completes (by decide) h rfl fun _ _ => rfl
  case vnot f => exact bitOp_completes (by decide) h rfl fun _ _ => rfl
  case vclz f => exact bitOp_completes (by decide) h rfl fun _ _ => rfl
  case vpop f => exact bitOp_completes (by decide) h rfl fun _ _ => rfl
  case vbfx f => exact bitOp_completes (by decide) h rfl fun _ _ => rfl

/-- VBFI, whose elements raise no flag and are not drawn (R53). -/
theorem vbfi_completes {f : VFields} {s s1 : State} {t t1 : Team} {srcs : List Src}
    (h : (insertFieldRule f).Ready s t srcs s1 t1) : (insertFieldRule f).Completes (.vbfi f) s t srcs s1 t1 :=
  unflaggedRule_completes (op := 0x02F) (n := 0) (by decide) h rfl

theorem integerAndBitInstructionGivesItsResults : Claims.IntegerAndBitInstructionGivesItsResults :=
  ⟨fun _ _ _ _ _ _ _ hr h => integerRule_completes hr h, fun _ _ _ _ _ _ h => vbfi_completes h⟩

/-! ## Random numbers (R72, R183, R184) -/

/-- The leading n of k bits, cut from the rest before or after the shift. -/
theorem leadingBits_eq (m : Nat) {n k : Nat} (hn : n ≤ k) : m / 2 ^ (k - n) % 2 ^ n = m % 2 ^ k / 2 ^ (k - n) := by
  rw [← Nat.mod_mul_right_div_self, ← Nat.pow_add, Nat.sub_add_cancel hn]

/-- x of 2^n parts, rounded to nearest (R184). -/
def fractionOf (F : Fmt) (n x : Nat) : Nat := (roundFloat F .rne false { neg := false, m := x, e := -(n : Int) }).1

/-- Under a format of class FL; the other formats VRANDF refuses (R159, R184). -/
theorem uniform_eq_fraction {F : Fmt} (hF : F.isFL = true) : uniform F = fraction F := by
  funext m
  cases F <;> cases hF
  case f32 => exact congrArg (fractionOf .f32 24) (leadingBits_eq m (k := 32) (by decide))
  case f16 => exact congrArg (fractionOf .f16 11) (leadingBits_eq m (k := 32) (by decide))
  case bf16 => exact congrArg (fractionOf .bf16 8) (leadingBits_eq m (k := 32) (by decide))
  case f64 => exact congrArg (fractionOf .f64 53) (leadingBits_eq m (k := 64) (by decide))

theorem vrand_completes {f : VFields} {r : VRule} {s s1 : State} {t t1 : Team} {srcs : List Src}
    (hr : randomAndSpecialRule (.vrand f) = some r) (h : r.Ready s t srcs s1 t1) :
    r.Completes (.vrand f) s t srcs s1 t1 := by
  cases hr
  exact unflaggedRule_completes (by decide) h rfl

/-- VRANDF has a float format of class FL (R159). -/
theorem vrandf_isFL {f : VFields} {s : State} {t : Team} (hc : checkV s t 0x059 f = none) : (fmtF f).isFL = true := by
  have hchk : chkV s t 0x059 f = chkElem s t 0x059 f := rfl
  have hcombo := combo_of_passes hc
  simp only [hchk, chkElem, elemFormat, Chk.and, Bool.or_eq_false_iff, Bool.not_eq_false'] at hcombo
  obtain ⟨⟨⟨hformat, -⟩, -⟩, -⟩ := hcombo
  exact hformat

theorem vrandf_completes {f : VFields} {r : VRule} {s s1 : State} {t t1 : Team} {srcs : List Src}
    (hr : randomAndSpecialRule (.vrandf f) = some r) (h : r.Ready s t srcs s1 t1) :
    r.Completes (.vrandf f) s t srcs s1 t1 := by
  cases hr
  have hchecks : checkV s t 0x059 f = none := h.checks
  have hexec : exec (.vrandf f) s = randElems 0x059 f (fraction (fmtF f)) s := by
    rw [← uniform_eq_fraction (vrandf_isFL hchecks)]; rfl
  exact unflaggedRule_completes (by decide) h hexec

/-! ## Special functions (R181, R182) -/

theorem special_completes {i : Instr} {f : VFields} {s s1 : State} {t t1 : Team} {srcs : List Src} (fn : SpecialFn)
    (h : (elementRule (0x200 + fn.num) f fn.correct fun m x =>
      specialElem f.fmt.toNat (fmtF f) fn m (modSat f) (x.getD 0 0)).Ready s t srcs s1 t1)
    (he : exec i s = special fn f s) :
    (elementRule (0x200 + fn.num) f fn.correct fun m x =>
      specialElem f.fmt.toNat (fmtF f) fn m (modSat f) (x.getD 0 0)).Completes i s t srcs s1 t1 := by
  have hop : Elementwise (0x200 + fn.num) := by
    simp only [Elementwise, List.mem_cons, List.not_mem_nil, or_false]
    omega
  exact elementRule_completes hop h he fun _ _ _ => rfl

theorem randomAndSpecialInstructionGivesItsResults : Claims.RandomAndSpecialInstructionGivesItsResults := by
  intro s s1 t t1 i r srcs hr h
  cases i
  case vrand f => exact vrand_completes hr h
  case vrandf f => exact vrandf_completes hr h
  all_goals cases hr
  case vrcp f => exact special_completes .rcp h rfl
  case vrsq f => exact special_completes .rsq h rfl
  case vsqrt f => exact special_completes .sqrt h rfl
  case vexp2 f => exact special_completes .exp2 h rfl
  case vlog2 f => exact special_completes .log2 h rfl
  case vsin f => exact special_completes .sin h rfl
  case vcos f => exact special_completes .cos h rfl
  case vtanh f => exact special_completes .tanh h rfl
  case vlogi f => exact special_completes .logi h rfl

/-- Settles O12: each instruction runs its function on the elements of its sources, or on draws, and that function is its
rule's on as many elements as the instruction has sources. -/
theorem arithmeticInstructionGivesItsResults : Obligations.ArithmeticInstructionGivesItsResults :=
  ⟨floatInstructionGivesItsResults, integerAndBitInstructionGivesItsResults, randomAndSpecialInstructionGivesItsResults⟩

end Sys2Proof.Machine
end

section
/-! PROOFS. The refutation of O17: a PROBE whose word has ORD 3, which R195 excludes and the decoder refuses (R103 order 1), but
which the statement's hypotheses allow (R195, R308). -/

namespace Sys2Proof.Machine.OrderedProbe

open Sys2Proof.Claims

/-- PROBE into v4 through segment G with no base and no index, FMT z32, ORD 3 and SCOPE 4. -/
def word : VFields := { vd := 4, va := 448, vb := 3, vc := 0, fmt := 6, md := 12, fn := 0, lit := none }

/-- A team with lane 0 enabled, after a core-local release that found write 1 in the release buffer (R304). -/
def prober : Team :=
  { tid := mkHandle 0 0 0 1, ctx := 0, lid := 1, plot := 1, index := 0, width := 32, regs := 64, run := .active, pc := 0x1000
    clause := some { addr := 0x1000, hdr := 0, body := [0, 0] }, s := [(0, 1)], fenceMark := 1 }

/-- The machine in which that team issues. -/
def state : State := { State.reset with cur := prober.tid, teams := [prober] }

theorem poised : state.poised prober = true := by decide +kernel

theorem checks : checkV state prober 0x113 word = none := by decide +kernel

/-- The machine when that instruction has issued. -/
def after : State :=
  match exec (.probe word) state with
  | .next s => s
  | _ => state

theorem exec_word : exec (.probe word) state = .next after := rfl

theorem lastMark_after : (after.team? prober.tid).map Team.lastMark = some 1 := by decide +kernel

theorem lastMark_claimed : (prober.gone.raiseCount prober.flagA).lastMark = 0 := by decide +kernel

end Sys2Proof.Machine.OrderedProbe

namespace Sys2Proof.Machine

open Sys2Proof.Claims OrderedProbe in
/-- Refutes O17: with ORD 3, which the statement does not exclude, PROBE makes the operation a release, and the team's mark of
its latest core-local release moves on, where the statement leaves it as it was. -/
theorem not_probeHintsDrainAndFenceAct : ¬ Obligations.ProbeHintsDrainAndFenceAct := by
  rintro ⟨hprobe, -⟩
  obtain ⟨s', o, hexec, hteam, -⟩ :=
    ((hprobe state prober word poised).1 checks rfl (by decide +kernel)).2 (by decide +kernel)
  obtain rfl := Host.Outcome.next.inj (exec_word.symm.trans hexec)
  have hmark := lastMark_after
  rw [hteam] at hmark
  exact absurd (lastMark_claimed.symm.trans (Option.some.inj hmark)) (by decide)

end Sys2Proof.Machine
end

section
/-! PROOFS. What a translation reads of the machine (R292 to R296, R405): two states that agree there translate alike. -/

namespace Sys2Proof.Machine

/-- Two states agree in all that a translation reads: memory, the cores' caches, the contexts, the features and the routes. -/
structure SameMaps (s w : State) : Prop where
  mem : w.mem = s.mem
  cores : w.cores = s.cores
  ctxs : w.ctxs = s.ctxs
  accepted : w.accepted = s.accepted
  moduleNumber : w.moduleNumber = s.moduleNumber
  routes : w.routes = s.routes
  links : w.links = s.links

namespace SameMaps

variable {s w : State} (h : SameMaps s w)
include h

theorem physDword (a : Nat) : w.physDword a = s.physDword a := by
  unfold State.physDword; rw [h.mem]

theorem core (k : Nat) : w.core k = s.core k := by unfold State.core; rw [h.cores]

theorem ctx? (k : Nat) : w.ctx? k = s.ctx? k := by unfold State.ctx?; rw [h.ctxs]

theorem feature (k : Nat) : w.feature k = s.feature k := by unfold State.feature; rw [h.accepted]

theorem tableOk (a : Nat) : w.tableOk a = s.tableOk a := by unfold State.tableOk; rw [h.moduleNumber]

theorem pteOk (table lv idx e : Nat) : pteOk w table lv idx e = pteOk s table lv idx e := by
  simp only [Machine.pteOk, h.physDword]

theorem walkFrom (ctx va : Nat) : ∀ (levels : List (Nat × Nat)) (table : Nat),
    walkFrom w ctx va levels table = walkFrom s ctx va levels table
  | [], _ => rfl
  | (lv, sh) :: rest, table => by
    simp only [Machine.walkFrom, h.tableOk, h.physDword, h.pteOk, walkFrom ctx va rest]

theorem walk (ctx va : Nat) : walk w ctx va = walk s ctx va := by
  simp only [Machine.walk, h.ctx?, h.walkFrom]

theorem tlbHit (port ctx va : Nat) : w.tlbHit port ctx va = s.tlbHit port ctx va := by
  simp only [State.tlbHit, State.firstTlb, h.core]

theorem leafOf (port ctx va : Nat) : w.leafOf port ctx va = s.leafOf port ctx va := by
  simp only [State.leafOf, h.tlbHit, h.walk]

theorem inDomain (m : Nat) : w.inDomain m = s.inDomain m := by
  simp only [State.inDomain, h.moduleNumber, h.feature, h.routes]

theorem linkUp (m : Nat) : w.linkUp m = s.linkUp m := by
  simp only [State.linkUp, State.linkFor, h.routes, h.links]

theorem reachable (pa : Nat) : w.reachable pa = s.reachable pa := by
  simp only [State.reachable, h.moduleNumber, h.linkUp]

theorem leafCheck (e : TlbEntry) (va : Nat) (a : Acc) : leafCheck w e va a = leafCheck s e va a := by
  simp only [Machine.leafCheck, h.inDomain, h.feature, h.reachable]

theorem translate (port ctx va : Nat) (a : Acc) : w.translate port ctx va a = s.translate port ctx va a := by
  simp only [State.translate, h.leafOf, h.leafCheck]

end SameMaps

/-- A leaf's translation that succeeds is the leaf's base and the offset in its page (R294). -/
theorem leafCheck_ok {s : State} {e : TlbEntry} {va pa : Nat} {a : Acc} {nc : Bool} (h : leafCheck s e va a = .ok pa nc) :
    pa = e.pa + (va - e.va) := by
  unfold leafCheck at h
  dsimp only at h
  split at h
  · simp at h
  · iterate 3 (rw [ite_eq_iff] at h; obtain ⟨-, h⟩ | ⟨-, h⟩ := h; · simp at h)
    exact (Xlat.ok.inj h).1.symm

/-- A translation that succeeds goes by a leaf (R292). -/
theorem translate_ok {s : State} {port ctx va pa : Nat} {a : Acc} {nc : Bool} (h : s.translate port ctx va a = .ok pa nc) :
    ∃ e, s.leafOf port ctx va = .leaf e ∧ pa = e.pa + (va - e.va) := by
  unfold State.translate at h
  split at h
  · next e he => exact ⟨e, he, leafCheck_ok h⟩
  · cases h

/-! ## What a write at its home slice can change (R208, R285, R291) -/

/-- State w is state s up to memory, what the slices hold of it, arms and teams. -/
def HomeOnly (s w : State) : Prop :=
  w = { s with
    mem := w.mem, poison := w.poison, dcache := w.dcache, plru := w.plru, covered := w.covered, arms := w.arms, teams := w.teams }

theorem HomeOnly.refl (s : State) : HomeOnly s s := rfl

theorem HomeOnly.trans {s v w : State} (h : HomeOnly s v) (h' : HomeOnly v w) : HomeOnly s w := by
  unfold HomeOnly at *
  rw [h', h]

theorem homeOnly_fold {β : Type} {f : State → β → State} (hf : ∀ s b, HomeOnly s (f s b)) (l : List β) (s : State) :
    HomeOnly s (l.foldl f s) :=
  List.foldlRecOn (motive := HomeOnly s) l f (.refl s) fun _ h b _ => h.trans (hf _ b)

theorem homeOnly_touchAt (s : State) (pa : Nat) (wr : Bool) : HomeOnly s (s.touchAt pa wr) := by
  have h := seenOnly_touchAt s pa wr
  unfold SeenOnly at h
  unfold HomeOnly
  rw [h]

theorem homeOnly_fireLine (s : State) (line n : Nat) : HomeOnly s (s.fireLine line n) := by
  have hdrop : HomeOnly s { s with arms := s.arms.filter fun a => !(a.line == line) } := rfl
  exact hdrop.trans (homeOnly_fold (f := fun (st : State) (a : Arm) => st.modTeam a.tid fun t => t.endArm n) (fun _ _ => rfl) _ _)

theorem homeOnly_homeWriteBy (s : State) (writer : Nat) (nc : Bool) (pa : Nat) (bs : List Byte) :
    HomeOnly s (s.homeWriteBy writer nc pa bs) := by
  unfold State.homeWriteBy
  refine .trans ?_ (homeOnly_fold (fun s l => homeOnly_fireLine s l 0) _ _)
  split
  · rfl
  · have hheal : HomeOnly s ({ s with mem := memWrite s.mem pa bs }.healSectors writer pa bs.length) := rfl
    exact hheal.trans (homeOnly_fold (fun s (p : Nat × Nat) => homeOnly_touchAt s p.1 true) _ _)

/-! ## A launch with a team left does not end (R264) -/

theorem launchLives_of_launches {s w : State} (h : w.launches = s.launches) {ctx lid : Nat} (hl : Claims.launchLives s ctx lid) :
    Claims.launchLives w ctx lid := by
  simpa only [Claims.launchLives, State.launch?, h] using hl

theorem finishLaunch_of_lives {s : State} {ctx lid : Nat} (h : Claims.launchLives s ctx lid) : s.finishLaunch ctx lid = s := by
  cases hm : s.launch? ctx lid with
  | none => simp only [State.finishLaunch, hm]
  | some m => exact finishLaunch_living hm (h m hm)

end Sys2Proof.Machine
end

section
/-! PROOFS. Monitors (R207, R208, R310): MARM, MWAIT, the end of a budget, and the write that ends an arm; O22. -/

namespace Sys2Proof.Machine

open Sys2Proof.Claims

/-! ## MARM (R207) -/

/-- Requests at the home slices without a team's arms on their way (R207). -/
def requestsDisarmed (s : State) (h : Handle) : List Req := s.reqs.filter fun x => !(x.tid == h && decide (x.kind = .marm))

theorem disarm_reqs (s : State) (h : Handle) : (s.disarm h).reqs = requestsDisarmed s h := by
  refine List.filter_congr fun r _ => ?_
  cases r.kind <;> rfl

theorem sameMaps_disarm (s : State) (h : Handle) : SameMaps s (s.disarm h) := ⟨rfl, rfl, rfl, rfl, rfl, rfl, rfl⟩

theorem team?_disarm {s : State} {t : Team} (ht : s.team? t.tid = some t) :
    (s.disarm t.tid).team? t.tid = some { t with monitor := .none_ } :=
  (State.team?_modTeam_same { s with arms := _, reqs := _ } t.tid (fun t => { t with monitor := .none_ }) fun _ h => h).trans
    (congrArg (Option.map _) ht)

theorem quiet_monitor {t : Team} (h : Quiet t) (m : Monitor) : Quiet { t with monitor := m } :=
  ⟨h.late, h.stepping, h.stays, h.yields⟩

theorem quiet_setS_monitor {t : Team} (h : Quiet t) (m : Monitor) (n : Nat) (x : Dword) :
    Quiet { t.setS n x with monitor := m } :=
  ⟨h.late, h.stepping, h.stays, h.yields⟩

theorem Team.gone_monitor (t : Team) (m : Monitor) : ({ t with monitor := m } : Team).gone = { t.gone with monitor := m } := by
  cases t with
  | mk => simp only [Team.gone, Team.advance]; split <;> [rfl; (split <;> rfl)]

/-- The end of MARM: the team goes on with what its monitor then is, whatever else MARM has sent. -/
theorem team?_retire_monitor {s w : State} {t : Team} (hq : Quiet t) (ht : s.team? t.tid = some t)
    (hw : w.teams = (s.disarm t.tid).teams) (m : Monitor) :
    (w.retire { t with monitor := m }).team? t.tid = some { t.gone with monitor := m } := by
  rw [retire_of_quiet w (quiet_monitor hq m), Team.gone_monitor]
  exact team?_setTeam_at ((team?_of_teams hw _).trans (team?_disarm ht)) t.gone_tid

/-- The arm that MARM sends for a line of module memory (R207). -/
def armRequest (s : State) (t : Team) (f : VFields) (pa : Nat) : Req :=
  { id := s.nextId, slice := paModule pa * Config.slices + homeSlice pa, core := coreOf t.tid, tid := t.tid
    va := syncAddr f t 0, pa, kind := .marm }

section
variable {s : State} {t : Team} {f : VFields} (h : Poised s t) (hc : checkV s t 0x180 f = none) (hf : t.acquireFault = none)
  (hl : (syncOff f t).toNat < (t.seg 0).limit.toNat)
include h hc hf hl

/-- What MARM does once its checks have passed: it goes by the translation of its line. -/
theorem exec_marm : exec (.marm f) s = .next (
    match s.leafOf (portOf t.tid) t.ctx (syncAddr f t 0).toNat,
      s.translate (portOf t.tid) t.ctx (syncAddr f t 0).toNat .read with
    | .leaf e, .ok pa _ =>
      if localHost (paLocal (e.pa + ((syncAddr f t 0).toNat - e.va))) then (s.disarm t.tid).retire { t with monitor := .none_ }
      else State.retire
        { s.disarm t.tid with nextId := s.nextId + 1, reqs := (s.disarm t.tid).reqs ++ [armRequest s t f pa] }
        { t with monitor := .armed (lineOf pa) }
    | _, _ => (s.disarm t.tid).retire { t with monitor := .none_ }) := by
  rw [exec, execMarm, issueV_passes h _ _ _ hc]
  have hclear : t.acquireFault.isSome = false := by rw [hf]; rfl
  simp only [hclear, Bool.false_eq_true, if_false, scalarOff_eq]
  rw [underWeirs_off h.weirs h.mark h.here rfl]
  simp only [limitTrap_none (n := 1) hl, (sameMaps_disarm s t.tid).leafOf, (sameMaps_disarm s t.tid).translate]
  rfl

theorem marm_arms {pa : Nat} {nc : Bool} (hm : s.translate (portOf t.tid) t.ctx (syncAddr f t 0).toNat .read = .ok pa nc)
    (hh : localHost (paLocal pa) = false) :
    exec (.marm f) s = .next (State.retire
      { s.disarm t.tid with nextId := s.nextId + 1, reqs := (s.disarm t.tid).reqs ++ [armRequest s t f pa] }
      { t with monitor := .armed (lineOf pa) }) := by
  obtain ⟨e, he, hpa⟩ := translate_ok hm
  rw [exec_marm h hc hf hl, hm, he]
  simp only [← hpa, hh, Bool.false_eq_true, if_false]

theorem marm_armsNothing (hm : ∀ pa nc, s.translate (portOf t.tid) t.ctx (syncAddr f t 0).toNat .read = .ok pa nc →
    localHost (paLocal pa) = true) :
    exec (.marm f) s = .next ((s.disarm t.tid).retire { t with monitor := .none_ }) := by
  rw [exec_marm h hc hf hl]
  cases hx : s.translate (portOf t.tid) t.ctx (syncAddr f t 0).toNat .read with
  | fault x => cases s.leafOf (portOf t.tid) t.ctx (syncAddr f t 0).toNat <;> rfl
  | ok pa nc =>
    obtain ⟨e, he, hpa⟩ := translate_ok hx
    simp only [he, ← hpa, hm pa nc hx, if_true]
end

/-! ## MWAIT (R208) -/

section
variable {s : State} {t : Team} {f : VFields} (h : Poised s t) (hc : checkV s t 0x181 f = none)
include h hc

theorem mwait_unarmed (hm : t.monitor = .none_) : CompletesAs (.mwait f) s (t.gone.setS (dReg f) 4) := by
  rw [CompletesAs, exec, execMwait, issueV_passes h _ _ _ hc]
  simp only [hm]
  exact congrArg _ ((retireS_poised h _).trans (congrArg s.setTeam (Team.gone_setS t _ _)))

theorem mwait_ended {n : Nat} (hm : t.monitor = .ended n) :
    CompletesAs (.mwait f) s { t.gone.setS (dReg f) (BitVec.ofNat 64 n) with monitor := .none_ } := by
  rw [CompletesAs, exec, execMwait, issueV_passes h _ _ _ hc]
  conv_lhs => simp only [hm]
  rw [State.retireS, noteWrites_noLoads h.loads h.rputs]
  refine congrArg Host.Outcome.next ((retire_of_quiet s (quiet_setS_monitor h.quiet _ _ _)).trans ?_)
  rw [Team.gone_monitor, Team.gone_setS]
  rfl

theorem mwait_parks {l : Nat} (hm : t.monitor = .armed l) : CompletesAs (.mwait f) s { t with
    held := none
    run := .parked (.monitor (f.vd.setWidth 7) (if (t.getS f.va.toNat).toNat = 0 then none
      else some (s.now t + (t.getS f.va.toNat).toNat))) none } := by
  rw [CompletesAs, exec, execMwait, issueV_passes h _ _ _ hc]
  conv_lhs => simp only [hm]
  exact congrArg _ (park_quiet h.quiet _)
end

/-! ## The end of an arm (R208) -/

/-- A parked MWAIT gets its wake notice; another team goes on as it was (R208). -/
def Run.told (status : Nat) : Run → Run
  | .parked (.monitor d b) none => .parked (.monitor d b) (some (.status status))
  | r => r

theorem Team.endArm_armed {t : Team} {l : Nat} (h : t.monitor = .armed l) (n : Nat) :
    t.endArm n = { t with monitor := .ended n, run := t.run.told n } := by
  unfold Team.endArm
  conv_lhs => simp only [h]
  rfl

theorem Team.endArm_ended {t : Team} {m : Nat} (h : t.monitor = .ended m) (n : Nat) : t.endArm n = t := by
  simp [Team.endArm, h]

theorem budgetExpiry_ends {s : State} {t : Team} {d : BitVec 7} {n l : Nat} (ht : s.team? s.arg.tid = some t)
    (hr : t.run = .parked (.monitor d (some n)) none) (hm : t.monitor = .armed l) (hn : n ≤ s.now t) :
    exec .mwaitBudgetExpiry s = .next ((s.disarm t.tid).modTeam t.tid fun u => ({ u with monitor := .armed l }).endArm 1) := by
  simp only [exec, execMwaitBudgetExpiry, ht, hr, hm, hn, if_true]

/-- The end of its budget ends a parked team's arm with status 1. -/
theorem budgetExpiry_status {s : State} {t : Team} {d : BitVec 7} {n l : Nat} (ht : s.team? s.arg.tid = some t)
    (hr : t.run = .parked (.monitor d (some n)) none) (hm : t.monitor = .armed l) (hn : n ≤ s.now t) :
    ∃ s', exec .mwaitBudgetExpiry s = .next s' ∧ (∀ x ∈ s'.arms, x.tid ≠ t.tid) ∧
      s'.team? t.tid = some { t with
        monitor := .ended 1, run := .parked (.monitor d (some n)) (some (.status 1)) } := by
  have hid : t.tid = s.arg.tid := State.tid_of_team? ht
  have ht' : s.team? t.tid = some t := hid ▸ ht
  refine ⟨_, budgetExpiry_ends ht hr hm hn, fun x hx => ?_, ?_⟩
  · have hx' : x ∈ s.arms.filter fun a => !(a.tid == t.tid) := hx
    simpa using (List.mem_filter.mp hx').2
  · refine (State.team?_modTeam_same _ t.tid (fun u => ({ u with monitor := .armed l }).endArm 1) fun u hu => ?_).trans ?_
    · exact (Team.endArm_tid _ 1).trans hu
    · rw [team?_disarm ht', Option.map_some, Team.endArm_armed rfl, hr]
      rfl

theorem team?_endArm_ended {s : State} {u : Team} {m : Nat} (hu : u.monitor = .ended m) (hs : s.team? u.tid = some u)
    (k : Handle) (n : Nat) : (s.modTeam k fun t => t.endArm n).team? u.tid = some u := by
  by_cases hk : k = u.tid
  · subst hk
    rw [State.team?_modTeam_same _ _ _ fun t ht => (Team.endArm_tid t n).trans ht, hs, Option.map_some, Team.endArm_ended hu]
  · rw [State.team?_modTeam_ne _ _ (Ne.symm hk) fun t ht => (Team.endArm_tid t n).trans ht, hs]

theorem foldEndArm_ended {u : Team} {m : Nat} (hu : u.monitor = .ended m) (arms : List Arm) (n : Nat) {s : State}
    (hs : s.team? u.tid = some u) : (arms.foldl (fun st a => st.modTeam a.tid fun t => t.endArm n) s).team? u.tid = some u :=
  List.foldlRecOn (motive := fun (st : State) => st.team? u.tid = some u) arms _ hs fun _ h a _ => team?_endArm_ended hu h a.tid n

/-- Of arms that end, one of a team's ends its arm, and the others leave it so. -/
theorem foldEndArm_armed {t : Team} {l : Nat} (hm : t.monitor = .armed l) (n : Nat) : ∀ (arms : List Arm) {s : State},
    s.team? t.tid = some t → (∃ a ∈ arms, a.tid = t.tid) →
    (arms.foldl (fun st a => st.modTeam a.tid fun t => t.endArm n) s).team? t.tid = some (t.endArm n)
  | [], _, _, ha => by simp at ha
  | a :: arms, s, hs, ha => by
    rw [List.foldl_cons]
    by_cases hk : a.tid = t.tid
    · have hend : (s.modTeam a.tid fun t => t.endArm n).team? t.tid = some (t.endArm n) := by
        rw [hk, State.team?_modTeam_same _ _ _ fun t ht => (Team.endArm_tid t n).trans ht, hs]; rfl
      rw [← Team.endArm_tid t n] at hend ⊢
      exact foldEndArm_ended (m := n) (by rw [Team.endArm_armed hm]) arms n hend
    · refine foldEndArm_armed hm n arms ?_ (by simpa [hk] using ha)
      rw [State.team?_modTeam_ne _ _ (Ne.symm hk) fun t ht => (Team.endArm_tid t n).trans ht, hs]

/-- An event on the line of an arm ends it. -/
theorem team?_fireLine_armed {s : State} {t : Team} {l : Nat} (hs : s.team? t.tid = some t) (hm : t.monitor = .armed l)
    (ha : { line := l, tid := t.tid : Arm } ∈ s.arms) (n : Nat) : (s.fireLine l n).team? t.tid = some (t.endArm n) :=
  foldEndArm_armed hm n _ hs ⟨_, List.mem_filter.mpr ⟨ha, by simp⟩, rfl⟩

theorem team?_fireLine_ended {s : State} {u : Team} {m : Nat} (hu : u.monitor = .ended m) (hs : s.team? u.tid = some u)
    (l n : Nat) : (s.fireLine l n).team? u.tid = some u :=
  foldEndArm_ended hu _ n hs

theorem linesOf_cons {n : Nat} (hn : n ≠ 0) (pa : Nat) : ∃ ls, linesOf pa n = pa / 64 :: ls := by
  unfold linesOf
  rw [if_neg hn, List.range_succ_eq_map, List.map_cons]
  exact ⟨_, rfl⟩

/-- A write to the first line that it touches ends an arm there (R208). -/
theorem team?_homeWriteBy_armed {s : State} {t : Team} {pa : Nat} (hs : s.team? t.tid = some t)
    (hm : t.monitor = .armed (pa / 64)) (ha : { line := pa / 64, tid := t.tid : Arm } ∈ s.arms) {bs : List Byte} (hbs : bs ≠ [])
    (writer : Nat) (nc : Bool) : (s.homeWriteBy writer nc pa bs).team? t.tid = some (t.endArm 0) := by
  obtain ⟨ls, hls⟩ := linesOf_cons (mt List.length_eq_zero_iff.mp hbs) pa
  have hwritten : ∀ v : State, v.arms = s.arms → v.team? t.tid = some t →
      ((linesOf pa bs.length).foldl (fun st l => st.fireLine l 0) v).team? t.tid = some (t.endArm 0) := by
    intro v harms hv
    rw [hls, List.foldl_cons]
    have hfirst := team?_fireLine_armed hv hm (harms ▸ ha) 0
    rw [← Team.endArm_tid t 0] at hfirst ⊢
    exact List.foldlRecOn (motive := fun (st : State) => st.team? (t.endArm 0).tid = some (t.endArm 0)) ls _ hfirst
      fun _ h l _ => team?_fireLine_ended (u := t.endArm 0) (m := 0) (by rw [Team.endArm_armed hm]) h l 0
  unfold State.homeWriteBy
  split
  · exact hwritten _ rfl hs
  · have hseen := seenOnly_touchSlice ({ s with mem := memWrite s.mem pa bs }.healSectors writer pa bs.length) pa bs.length true
    refine hwritten _ ?_ ?_ <;> (unfold SeenOnly at hseen; rw [hseen])
    · rfl
    · exact hs

/-- The drain of a core's oldest write. -/
theorem exec_drain {s : State} {w : BufWrite} {rest : List BufWrite} (hb : (s.core s.arg.a).buffer = w :: rest)
    (hl : launchLives s w.ctx w.lid) : exec .releaseBufferDrain s = .next
      ((s.modCore s.arg.a fun c => { c with buffer := rest }).storeHome s.arg.a w.opId w.nc w.pa w.bytes).dropTags := by
  have hlives : launchLives
      ((s.modCore s.arg.a fun c => { c with buffer := rest }).storeHome s.arg.a w.opId w.nc w.pa w.bytes).dropTags w.ctx w.lid :=
    launchLives_of_launches (writesOnly_homeWriteBy (s.modCore s.arg.a fun c => { c with buffer := rest }) w.opId w.nc w.pa
      w.bytes).launches hl
  simp only [exec, execReleaseBufferDrain, hb]
  rw [finishLaunch_of_lives hlives]

/-- The drain of a write to an armed line tells status 0. -/
theorem drain_status {s : State} {w : BufWrite} {rest : List BufWrite} {t : Team} (hb : (s.core s.arg.a).buffer = w :: rest)
    (hl : launchLives s w.ctx w.lid) (hbs : w.bytes ≠ []) (ha : { line := w.pa / 64, tid := t.tid : Arm } ∈ s.arms)
    (ht : s.team? t.tid = some t) (hm : t.monitor = .armed (w.pa / 64)) :
    ∃ s', exec .releaseBufferDrain s = .next s' ∧
      s'.team? t.tid = some { t with monitor := .ended 0, run := t.run.told 0 } :=
  ⟨_, exec_drain hb hl, (team?_homeWriteBy_armed (s := s.modCore s.arg.a fun c => { c with buffer := rest }) ht hm ha hbs
    w.opId w.nc).trans (congrArg some (Team.endArm_armed hm 0))⟩

/-- Settles O22: MARM goes by the translation of its line, MWAIT by its team's monitor, and an arm ends for its team by the
first event, whose later ones change nothing. -/
theorem monitorTellsItsFirstEvent : Obligations.MonitorTellsItsFirstEvent := by
  refine ⟨fun s t f hp hc hf hl => ⟨fun pa nc hm hh => ?_, fun hm => ?_⟩, fun s t f hp hc => ⟨fun hm => ?_, fun n hm => ?_,
    fun l hm => ?_⟩, fun s t d n l ht hr hm hn => budgetExpiry_status ht hr hm hn, ?_⟩
  · have h := (poised_iff s t).mp hp
    refine ⟨_, armRequest s t f pa, marm_arms h hc hf hl hm hh, team?_retire_monitor h.quiet h.here (by rfl) _, ?_, ?_, rfl, rfl, rfl,
      rfl, ?_⟩ <;> rw [retire_of_quiet _ (quiet_monitor h.quiet _)]
    · exact congrArg (· ++ _) (disarm_reqs s t.tid)
    · rfl
    · rfl
  · have h := (poised_iff s t).mp hp
    refine ⟨_, marm_armsNothing h hc hf hl hm, team?_retire_monitor h.quiet h.here (by rfl) _, ?_, ?_⟩ <;>
      rw [retire_of_quiet _ (quiet_monitor h.quiet _)] <;> rfl
  · exact mwait_unarmed ((poised_iff s t).mp hp) hc hm
  · exact mwait_ended ((poised_iff s t).mp hp) hc hm
  · refine ⟨_, mwait_parks ((poised_iff s t).mp hp) hc hm, ?_⟩
    simp only [← BitVec.toNat_inj]
    rfl
  · rintro s w rest t l hb hl hbs rfl ha ht hm
    obtain ⟨s', he, hteam⟩ := drain_status hb hl hbs ha ht hm
    refine ⟨s', he, hteam.trans ?_⟩
    unfold Run.told
    rfl

end Sys2Proof.Machine
end

section
/-! PROOFS. Memory operations as they stand and end (R190, R196, R264): what changing one, ending it, or leaving its faults
changes besides. -/

namespace Sys2Proof.Machine

open Sys2Proof.Claims

/-! ## Operations -/

theorem State.id_of_op? {s : State} {i : Nat} {o : MemOp} (h : s.op? i = some o) : o.id = i := by
  simpa using List.find?_some h

theorem State.op?_modOp (s : State) (i : Nat) {f : MemOp → MemOp} (hf : ∀ o, (f o).id = o.id) :
    (s.modOp i f).op? i = (s.op? i).map f :=
  find?_updFirst (fun o : MemOp => o.id == i) f (fun o ho => by rw [hf]; exact ho) s.ops

theorem MemOp.modLane_id (o : MemOp) (l : Nat) (f : LaneAcc → LaneAcc) : (o.modLane l f).id = o.id := rfl

/-- Changing a lane is putting what it becomes in its place. -/
theorem MemOp.modLane_const {o : MemOp} {l : Nat} {a : LaneAcc} (h : (o.lanes.find? fun b => b.lane == l) = some a)
    (f : LaneAcc → LaneAcc) : o.modLane l f = o.modLane l fun _ => f a := by
  unfold MemOp.modLane
  rw [updFirst_congr h (g := fun _ => f a) rfl]

theorem State.modOp_congr {s : State} {i : Nat} {o : MemOp} (h : s.op? i = some o) {f g : MemOp → MemOp} (hfg : f o = g o) :
    s.modOp i f = s.modOp i g := by
  unfold State.modOp
  rw [updFirst_congr h hfg]

theorem mem_updFirst_other {α : Type} {p : α → Bool} {b : α} (hb : p b = false) (f : α → α) {l : List α} (h : b ∈ l) :
    b ∈ updFirst p f l := by
  induction l with
  | nil => exact h
  | cons c l ih =>
    unfold updFirst
    split
    · rename_i hc
      rcases List.mem_cons.mp h with rfl | hr
      · rw [hb] at hc; cases hc
      · exact List.mem_cons_of_mem _ hr
    · rcases List.mem_cons.mp h with rfl | hr
      · exact List.mem_cons_self
      · exact List.mem_cons_of_mem _ (ih hr)

/-- A lane beside a changed one stands as it stood. -/
theorem MemOp.mem_modLane_other {o : MemOp} {b : LaneAcc} {l : Nat} (h : b ∈ o.lanes) (hl : b.lane ≠ l) (f : LaneAcc → LaneAcc) :
    b ∈ (o.modLane l f).lanes :=
  mem_updFirst_other (by simpa using hl) f h

/-- A lane beside a changed one that is open stays so. -/
theorem any_open_modLane {o : MemOp} {l : Nat} (h : othersOpen o l) (f : LaneAcc → LaneAcc) :
    (o.modLane l f).lanes.any LaneAcc.open_ = true := by
  obtain ⟨b, hb, hne, hopen⟩ := h
  exact List.any_eq_true.mpr ⟨b, MemOp.mem_modLane_other hb hne f, hopen⟩

/-! ## The end of an operation -/

theorem freePlot_frame (s : State) (k : Nat) : s.freePlot k =
    { s with plots := (s.freePlot k).plots, crews := (s.freePlot k).crews, launches := (s.freePlot k).launches } := by
  unfold State.freePlot
  split
  · rfl
  · split <;> rfl

/-- The state without an operation and its requests, its flag's count with it. -/
def withoutOp (s : State) (o : MemOp) : State :=
  State.modTeam { s with
    ops := s.ops.filter fun q => !(q.id == o.id)
    reqs := s.reqs.filter fun r => !(match r.kind with | .atomic i _ => i == o.id | _ => false) } o.origin.tid
    fun t => t.lowerCount o.flag

theorem endOp_eq {s : State} {o : MemOp} (hl : launchLives s o.origin.ctx o.origin.lid) :
    s.endOp o = (withoutOp s o).freePlot o.origin.plot :=
  congrArg (State.freePlot · o.origin.plot) (finishLaunch_of_lives (s := withoutOp s o) (launchLives_of_launches rfl hl))

theorem updFirst_id {α : Type} (p : α → Bool) (l : List α) : updFirst p (fun a => a) l = l := by
  induction l with
  | nil => rfl
  | cons a l ih => simp only [updFirst, ih, ite_self]

/-- State w is state v with an operation that holds no flag over, or its faults waiting: operations, requests, plots,
launches and contexts aside, it is as it was. -/
def OverIn (v w : State) : Prop :=
  w = { v with
    ops := w.ops, reqs := w.reqs, plots := w.plots, crews := w.crews, launches := w.launches, ctxs := w.ctxs }

theorem endOp_overIn {s : State} {o : MemOp} (hl : launchLives s o.origin.ctx o.origin.lid) (hf : o.flag = none) :
    OverIn s (s.endOp o) := by
  have hteams : updFirst (fun t : Team => t.tid == o.origin.tid) (fun t => t.lowerCount o.flag) s.teams = s.teams := by
    rw [hf]; exact updFirst_id _ _
  unfold OverIn
  rw [endOp_eq hl, freePlot_frame]
  simp only [withoutOp, State.modTeam, hteams]

theorem op?_endOp {s : State} {o : MemOp} (hl : launchLives s o.origin.ctx o.origin.lid) : (s.endOp o).op? o.id = none := by
  rw [endOp_eq hl, freePlot_frame]
  refine List.find?_eq_none.mpr fun q hq => ?_
  have := (List.mem_filter.mp hq).2
  simpa using this

theorem raiseFaults_overIn (s : State) {o : MemOp} (ha : o.isAcquire = false) (ps : List (Nat × List LaneAcc)) :
    OverIn s (s.raiseFaults o ps) := by
  unfold State.raiseFaults
  rw [ha]
  rfl

/-- A store's end, or the faults it leaves, changes no team, no memory and no core. -/
theorem finishStore_overIn {s : State} {i : Nat} {o : MemOp} (ho : s.op? i = some o) (hk : o.kind = .store)
    (hl : launchLives s o.origin.ctx o.origin.lid) (hf : o.flag = none) (ha : o.isAcquire = false) :
    OverIn s (s.finishStore i) := by
  unfold State.finishStore
  simp only [ho]
  split
  · rfl
  · split
    · exact endOp_overIn hl hf
    · split
      · simp only [hk, Bool.false_and, Bool.false_eq_true, if_false]
        exact raiseFaults_overIn s ha _
      · exact raiseFaults_overIn s ha _

theorem finishStore_open {s : State} {i : Nat} {o : MemOp} (ho : s.op? i = some o) (h : o.lanes.any LaneAcc.open_ = true) :
    s.finishStore i = s := by
  unfold State.finishStore
  simp [ho, h]

theorem faultPages_none {ls : List LaneAcc} (h : ∀ a ∈ ls, a.faults = []) : faultPages ls = [] := by
  have hnone : (ls.filter fun a => !a.resolved).flatMap LaneAcc.faults = [] :=
    List.flatMap_eq_nil_iff.mpr fun a ha => h a (List.mem_filter.mp ha).1
  simp [faultPages, hnone]

theorem finishStore_whole {s : State} {i : Nat} {o : MemOp} (ho : s.op? i = some o) (hk : o.kind = .store) (hd : o.delivered = false)
    (hopen : o.lanes.any LaneAcc.open_ = false) (hfaults : ∀ a ∈ o.lanes, a.faults = []) : s.finishStore i = s.endOp o := by
  have hr : o.returns = false := by simp [MemOp.returns, hk]
  unfold State.finishStore
  simp [ho, hr, hd, hopen, faultPages_none hfaults]

/-- The plots stand as they stood while the operation's own has a team left. -/
theorem finishStore_plots {s : State} {i : Nat} {o : MemOp} (ho : s.op? i = some o) (hk : o.kind = .store)
    (hl : launchLives s o.origin.ctx o.origin.lid) (hp : ∀ p, s.plot? o.origin.plot = some p → p.exited.length < p.teams) :
    (s.finishStore i).plots = s.plots := by
  have hraise : ∀ ps, (s.raiseFaults o ps).plots = s.plots := by
    intro ps
    unfold State.raiseFaults
    split <;> rfl
  unfold State.finishStore
  simp only [ho]
  split
  · rfl
  · split
    · rw [endOp_eq hl, freePlot_kept (s := withoutOp s o) hp]
      rfl
    · split
      · simp only [hk, Bool.false_and, Bool.false_eq_true, if_false]
        exact hraise _
      · exact hraise _

end Sys2Proof.Machine
end

section
/-! PROOFS. A store's pieces at their places, the release buffer's drain and the reply to a promoted acquire (R192, R308, R311,
R314); O20. -/

namespace Sys2Proof.Machine

open Sys2Proof.Claims

/-! ## A piece is over -/

/-- The state with a piece of a store over: performed, or with the fault that it met. -/
def pieceOver (v : State) (o : MemOp) (a : LaneAcc) (k : Nat) (f : Option LaneFault) : State :=
  (v.modOp o.id fun q => q.modLane a.lane fun b =>
    { b with pieces := updAt (fun r => { r with done := true, fault := f }) b.pieces k }).finishStore o.id

/-- The state before the end of the store, if it ends. -/
def pieceDone (v : State) (o : MemOp) (a : LaneAcc) (k : Nat) (f : Option LaneFault) : State :=
  v.modOp o.id fun q => q.modLane a.lane fun _ => performed a k f

theorem updFirst_only {α : Type} {p : α → Bool} {a : α} (h : p a = true) (b : α) : updFirst p (fun _ => b) [a] = [b] := by
  simp [updFirst, h]

section
variable {s v : State} {o : MemOp} {a : LaneAcc} {k : Nat} {p : Piece} (h : Performs s o a k p) (hops : v.ops = s.ops)
  (hlaunches : v.launches = s.launches)
include h

theorem performs_own : s.op? o.id = some o := (State.id_of_op? h.op).symm ▸ h.op

theorem exec_performs : exec .storePerform s = .next (s.performPiece o a k p s.arg.flag) := by
  obtain ⟨hb, hlane⟩ := h.lane
  obtain ⟨hc, hpiece, hdone⟩ := h.part
  simp only [exec, execStorePerform, h.op, h.kind, hb, hlane, hc, hpiece, hdone, h.ready, Bool.not_true, Bool.or_self,
    Bool.false_eq_true, if_false]

theorem length_pieceBytes : (pieceBytes a p).length = p.len := by
  have := h.size
  simp only [pieceBytes, List.length_take, List.length_drop]
  omega

include hops

theorem pieceOver_eq (f : Option LaneFault) : pieceOver v o a k f = (pieceDone v o a k f).finishStore o.id := by
  have hop : v.op? o.id = some o := by unfold State.op?; rw [hops]; exact performs_own h
  refine congrArg (State.finishStore · o.id) (State.modOp_congr hop ?_)
  exact MemOp.modLane_const h.first _

theorem pieceDone_op (f : Option LaneFault) :
    (pieceDone v o a k f).op? o.id = some (o.modLane a.lane fun _ => performed a k f) := by
  have hop : v.op? o.id = some o := by unfold State.op?; rw [hops]; exact performs_own h
  rw [pieceDone, State.op?_modOp _ _ fun q => MemOp.modLane_id q _ _, hop]
  rfl

include hlaunches

theorem pieceOver_overIn (f : Option LaneFault) : OverIn (pieceDone v o a k f) (pieceOver v o a k f) := by
  rw [pieceOver_eq h hops]
  exact finishStore_overIn (pieceDone_op h hops f) h.kind
    (launchLives_of_launches hlaunches h.lives) h.posted.1 h.posted.2

/-- The store stands with the piece over while another lane is open, and is over with its last piece. -/
theorem pieceOver_stands (f : Option LaneFault) : standsWith (pieceOver v o a k f) o a (performed a k f) := by
  rw [pieceOver_eq h hops]
  refine ⟨fun hothers => ?_, fun hlanes hclosed hfaults => ?_⟩
  · rw [finishStore_open (pieceDone_op h hops f) (any_open_modLane hothers _)]
    exact pieceDone_op h hops f
  · have hlast : (o.modLane a.lane fun _ => performed a k f).lanes = [performed a k f] := by
      simp only [MemOp.modLane, hlanes]
      exact updFirst_only (p := fun b : LaneAcc => b.lane == a.lane) (beq_self_eq_true a.lane) _
    rw [finishStore_whole (pieceDone_op h hops f) h.kind h.waits
      (by rw [hlast]; simpa using hclosed) (by rw [hlast]; simpa using hfaults)]
    exact op?_endOp (o := o.modLane a.lane fun _ => performed a k f) (launchLives_of_launches hlaunches h.lives)

theorem pieceOver_teams (f : Option LaneFault) : (pieceOver v o a k f).teams = v.teams := by
  rw [show OverIn _ _ from pieceOver_overIn h hops hlaunches f]; rfl

theorem pieceOver_mem (f : Option LaneFault) : (pieceOver v o a k f).mem = v.mem := by
  rw [show OverIn _ _ from pieceOver_overIn h hops hlaunches f]; rfl

theorem pieceOver_core (f : Option LaneFault) (c : Nat) : (pieceOver v o a k f).core c = v.core c := by
  rw [show OverIn _ _ from pieceOver_overIn h hops hlaunches f]; rfl
end

/-! ## The places of a piece -/

section
variable {s : State} {o : MemOp} {a : LaneAcc} {k : Nat} {p : Piece} (h : Performs s o a k p)
include h

/-- Where a store's piece goes through memory, once its page is translated. -/
def storeSeen (s : State) (o : MemOp) (a : LaneAcc) (p : Piece) : State :=
  (s.fillTlb (portOf o.origin.tid) o.origin.ctx (a.addr + p.off)).spoilEstate o (a.addr + p.off) p.len

theorem storePerform_scratch (hseg : o.seg = 1) : exec .storePerform s =
    .next (pieceOver (s.writeScratch o.id o.origin.plot (a.addr + p.off) (pieceBytes a p)) o a k none) := by
  rw [exec_performs h, State.performPiece]
  simp only [h.noRace, Bool.false_eq_true, if_false, hseg, if_true]
  rfl

theorem storePerform_fault (hseg : o.seg ≠ 1) {f : LaneFault}
    (hm : s.translate (portOf o.origin.tid) o.origin.ctx (a.addr + p.off) .write = .fault f) : exec .storePerform s =
    .next (pieceOver (s.fillTlb (portOf o.origin.tid) o.origin.ctx (a.addr + p.off)) o a k
      (some { f with addr := a.addr + p.off })) := by
  rw [exec_performs h, State.performPiece]
  simp only [h.noRace, Bool.false_eq_true, if_false, hseg, hm]
  rfl

variable (hseg : o.seg ≠ 1) {pa : Nat} {nc : Bool}
  (hm : s.translate (portOf o.origin.tid) o.origin.ctx (a.addr + p.off) .write = .ok pa nc)
include hseg hm

theorem storePerform_refused (hhost : s.isHost pa = false) {e : LaneFault}
    (he : s.outsideFault s.arg.hostErr (portOf o.origin.tid) o.origin.ctx (a.addr + p.off) pa = some e) :
    exec .storePerform s = .next (pieceOver (storeSeen s o a p) o a k (some e)) := by
  rw [exec_performs h, State.performPiece]
  simp only [h.noRace, Bool.false_eq_true, if_false, hseg, hm, hhost, he, Option.isSome_some, if_true]
  rfl

variable (hgoes : s.arg.hostErr = false ∨ s.isHost pa = true ∨ s.outsideCause pa = none)
include hgoes

omit h hseg nc hm in
theorem storeGoes : (if s.isHost pa then none
    else s.outsideFault s.arg.hostErr (portOf o.origin.tid) o.origin.ctx (a.addr + p.off) pa) = none := by
  split
  · rfl
  · rename_i hhost
    rcases hgoes with herr | hh | hout
    · simp [State.outsideFault, herr]
    · exact absurd hh hhost
    · simp [State.outsideFault, hout]

theorem storePerform_home (hvia : s.arg.flag = false) (hmeets : s.bufMeets (coreOf o.origin.tid) pa p.len = false)
    (horder : (s.isHost pa && s.hostBuffered (coreOf o.origin.tid) o.origin.tid) = false) : exec .storePerform s =
    .next (pieceOver (((storeSeen s o a p).storeHome (coreOf o.origin.tid) o.id nc pa (pieceBytes a p)).tagLine (lineOf pa)
      (coreOf o.origin.tid) o.mark) o a k none) := by
  rw [exec_performs h, State.performPiece]
  simp only [h.noRace, Bool.false_eq_true, if_false, hseg, hm, storeGoes hgoes, Option.isSome_none, hvia, hmeets,
    horder, Bool.or_self]
  rfl

/-- The write that a store's piece puts into its core's release buffer. -/
def bufferedWrite (s : State) (o : MemOp) (a : LaneAcc) (p : Piece) (pa : Nat) (nc : Bool) : BufWrite :=
  { seq := s.nextId, pa, bytes := pieceBytes a p, opId := o.id, tid := o.origin.tid, ctx := o.origin.ctx
    lid := o.origin.lid, nc }

/-- The state with that write in the buffer. -/
def storeBuffered (s : State) (o : MemOp) (a : LaneAcc) (p : Piece) (w : BufWrite) : State :=
  State.modCore { storeSeen s o a p with nextId := (storeSeen s o a p).nextId + 1 } (coreOf o.origin.tid) fun c =>
    { c with buffer := c.buffer ++ [w] }

theorem storePerform_buffer (hvia : (s.arg.flag || s.bufMeets (coreOf o.origin.tid) pa p.len ||
      (s.isHost pa && s.hostBuffered (coreOf o.origin.tid) o.origin.tid)) = true)
    (hroom : (s.core (coreOf o.origin.tid)).buffer.length < 64) : exec .storePerform s = .next (pieceOver
      (storeBuffered s o a p { bufferedWrite s o a p pa nc with seq := (storeSeen s o a p).nextId }) o a k none) := by
  have hroom' : ¬ bufferSize ≤ (s.core (coreOf o.origin.tid)).buffer.length := Nat.not_le.mpr hroom
  rw [exec_performs h, State.performPiece]
  simp only [h.noRace, Bool.false_eq_true, if_false, hseg, hm, storeGoes hgoes, Option.isSome_none, hvia, if_true,
    hroom']
  rfl

theorem storePerform_full (hvia : (s.arg.flag || s.bufMeets (coreOf o.origin.tid) pa p.len ||
      (s.isHost pa && s.hostBuffered (coreOf o.origin.tid) o.origin.tid)) = true)
    (hfull : 64 ≤ (s.core (coreOf o.origin.tid)).buffer.length) : exec .storePerform s = .next s := by
  have hfull' : bufferSize ≤ (s.core (coreOf o.origin.tid)).buffer.length := hfull
  rw [exec_performs h, State.performPiece]
  simp only [h.noRace, Bool.false_eq_true, if_false, hseg, hm, storeGoes hgoes, Option.isSome_none, hvia, if_true,
    hfull']
end

/-! ## What a piece in its page's translation leaves -/

section
variable (s : State) (o : MemOp) (a : LaneAcc) (p : Piece)

theorem storeSeen_frame : storeSeen s o a p =
    { s with
      cores := (storeSeen s o a p).cores, fresh := (storeSeen s o a p).fresh, teams := (storeSeen s o a p).teams } := by
  have hfill : CoresOnly s _ := coresOnly_fillTlb s (portOf o.origin.tid) o.origin.ctx (a.addr + p.off)
  unfold CoresOnly at hfill
  unfold storeSeen State.spoilEstate
  split
  · rw [hfill]; rfl
  · rw [hfill]

theorem storeSeen_buffer (c : Nat) : ((storeSeen s o a p).core c).buffer = (s.core c).buffer := by
  have hfill := (sameButCaches_fillTlb s (portOf o.origin.tid) o.origin.ctx (a.addr + p.off)).2 c
  have hcore : (storeSeen s o a p).core c = (s.fillTlb (portOf o.origin.tid) o.origin.ctx (a.addr + p.off)).core c := by
    unfold storeSeen State.spoilEstate
    split <;> rfl
  rw [hcore, hfill]

theorem fillTlb_teams (port ctx va : Nat) : (s.fillTlb port ctx va).teams = s.teams := by
  rw [show CoresOnly s _ from coresOnly_fillTlb s port ctx va]

variable {s o a p}

/-- Only the supervisor's own stores through E spoil entries of an estate (R341). -/
theorem storeSeen_teams (h : o.seg ≠ 3) : (storeSeen s o a p).teams = s.teams := by
  unfold storeSeen State.spoilEstate
  rw [if_neg h, fillTlb_teams]

theorem storeSeen_team? {g : Handle} (h : o.seg ≠ 3 ∨ g ≠ o.origin.tid) : (storeSeen s o a p).team? g = s.team? g := by
  by_cases hseg : o.seg = 3
  · have hne : g ≠ o.origin.tid := h.resolve_left fun hn => hn hseg
    unfold storeSeen State.spoilEstate
    rw [if_pos hseg]
    refine (State.team?_modTeam_ne _ _ hne ?_).trans (team?_of_teams (fillTlb_teams ..) g)
    exact fun _ ht => ht
  · exact team?_of_teams (storeSeen_teams hseg) g
end

/-- A store at its home is a write of memory. -/
theorem storeHome_mem (s : State) (core writer : Nat) (nc : Bool) (pa : Nat) (bs : List Byte) :
    (s.storeHome core writer nc pa bs).mem = memWrite s.mem pa bs := State.homeWriteBy_mem s writer nc pa bs

theorem storeHome_ops (s : State) (core writer : Nat) (nc : Bool) (pa : Nat) (bs : List Byte) :
    (s.storeHome core writer nc pa bs).ops = s.ops := by
  have h : HomeOnly s (s.homeWriteBy writer nc pa bs) := homeOnly_homeWriteBy ..
  refine (show (s.storeHome core writer nc pa bs).ops = (s.homeWriteBy writer nc pa bs).ops from rfl).trans ?_
  rw [h]

theorem storeHome_launches (s : State) (core writer : Nat) (nc : Bool) (pa : Nat) (bs : List Byte) :
    (s.storeHome core writer nc pa bs).launches = s.launches :=
  (writesOnly_homeWriteBy s writer nc pa bs).launches

theorem storeHome_team? {s : State} {h : Handle} {t : Team} (ht : s.team? h = some t) (hm : t.monitor = .none_)
    (core writer : Nat) (nc : Bool) (pa : Nat) (bs : List Byte) : (s.storeHome core writer nc pa bs).team? h = some t := by
  obtain rfl := State.tid_of_team? ht
  exact (engineLeaves_homeWriteBy hm s writer nc pa bs).team ht

theorem storeHome_buffer (s : State) (core writer : Nat) (nc : Bool) (pa : Nat) (bs : List Byte) (c : Nat) :
    ((s.storeHome core writer nc pa bs).core c).buffer = (s.core c).buffer := by
  have h : HomeOnly s (s.homeWriteBy writer nc pa bs) := homeOnly_homeWriteBy ..
  have hcores : (s.homeWriteBy writer nc pa bs).core c = s.core c := by unfold State.core; rw [h]
  rw [← hcores]
  unfold State.storeHome State.writeThrough
  rw [State.core_modCore]
  split <;> rename_i hc
  · rw [hc]
  · rfl

section
variable {s : State} {o : MemOp} {a : LaneAcc} {k : Nat} {p : Piece} (h : Performs s o a k p)
include h

/-- A piece performed at its physical address. -/
theorem storePiece_home (hseg : o.seg ≠ 1) {pa : Nat} {nc : Bool}
    (hm : s.translate (portOf o.origin.tid) o.origin.ctx (a.addr + p.off) .write = .ok pa nc)
    (hgoes : s.arg.hostErr = false ∨ s.isHost pa = true ∨ s.outsideCause pa = none) (hvia : s.arg.flag = false)
    (hmeets : s.bufMeets (coreOf o.origin.tid) pa p.len = false)
    (horder : ¬(s.isHost pa = true ∧ s.hostBuffered (coreOf o.origin.tid) o.origin.tid = true)) :
    ∃ s', exec .storePerform s = .next s' ∧ memAs s s' pa (pieceBytes a p) ∧ standsWith s' o a (performed a k) ∧
      ∀ g t, s.team? g = some t → t.monitor = .none_ → o.seg ≠ 3 ∨ g ≠ o.origin.tid → s'.team? g = some t := by
  have hops : (storeSeen s o a p).ops = s.ops := by rw [storeSeen_frame]
  have hlaunches : (storeSeen s o a p).launches = s.launches := by rw [storeSeen_frame]
  have hmem : (storeSeen s o a p).mem = s.mem := by rw [storeSeen_frame]
  have hhome := storeHome_ops (storeSeen s o a p) (coreOf o.origin.tid) o.id nc pa (pieceBytes a p)
  have hhomel := storeHome_launches (storeSeen s o a p) (coreOf o.origin.tid) o.id nc pa (pieceBytes a p)
  have hhomem := storeHome_mem (storeSeen s o a p) (coreOf o.origin.tid) o.id nc pa (pieceBytes a p)
  have hteam := fun g t (hg : (storeSeen s o a p).team? g = some t) hmon =>
    storeHome_team? hg hmon (coreOf o.origin.tid) o.id nc pa (pieceBytes a p)
  refine ⟨_, storePerform_home h hseg hm hgoes hvia hmeets (by simpa using horder), ?_⟩
  generalize (storeSeen s o a p).storeHome (coreOf o.origin.tid) o.id nc pa (pieceBytes a p) = v at hhome hhomel hhomem hteam ⊢
  have htag := tagLine_frame v (lineOf pa) (coreOf o.origin.tid) o.mark
  have hopsv : (v.tagLine (lineOf pa) (coreOf o.origin.tid) o.mark).ops = s.ops := by rw [htag]; exact hhome.trans hops
  have hlv : (v.tagLine (lineOf pa) (coreOf o.origin.tid) o.mark).launches = s.launches := by
    rw [htag]; exact hhomel.trans hlaunches
  refine ⟨fun x => ?_, pieceOver_stands h hopsv hlv none, fun g t ht hmon hown => ?_⟩
  · rw [pieceOver_mem h hopsv hlv, htag]
    exact (congrArg (memByte · x) (hhomem.trans (congrArg (memWrite · _ _) hmem))).trans (memByte_memWrite ..)
  · have hv : (v.tagLine (lineOf pa) (coreOf o.origin.tid) o.mark).teams = v.teams := by rw [htag]
    exact (team?_of_teams ((pieceOver_teams h hopsv hlv none).trans hv) g).trans (hteam g t ((storeSeen_team? hown).trans ht) hmon)

/-- A piece put into its core's release buffer. -/
theorem storePiece_buffer (hseg : o.seg ≠ 1) {pa : Nat} {nc : Bool}
    (hm : s.translate (portOf o.origin.tid) o.origin.ctx (a.addr + p.off) .write = .ok pa nc)
    (hgoes : s.arg.hostErr = false ∨ s.isHost pa = true ∨ s.outsideCause pa = none)
    (hvia : (s.arg.flag || s.bufMeets (coreOf o.origin.tid) pa p.len ||
      (s.isHost pa && s.hostBuffered (coreOf o.origin.tid) o.origin.tid)) = true)
    (hroom : (s.core (coreOf o.origin.tid)).buffer.length < 64) :
    ∃ s', exec .storePerform s = .next s' ∧ s'.mem = s.mem ∧ standsWith s' o a (performed a k) ∧
      (s'.core (coreOf o.origin.tid)).buffer = (s.core (coreOf o.origin.tid)).buffer ++ [bufferedWrite s o a p pa nc] := by
  have hframe := storeSeen_frame s o a p
  have hnext : (storeSeen s o a p).nextId = s.nextId := by rw [hframe]
  have hops : (storeSeen s o a p).ops = s.ops := by rw [hframe]
  have hlaunches : (storeSeen s o a p).launches = s.launches := by rw [hframe]
  have hmem : (storeSeen s o a p).mem = s.mem := by rw [hframe]
  refine ⟨_, storePerform_buffer h hseg hm hgoes hvia hroom, ?_⟩
  rw [hnext]
  refine ⟨(pieceOver_mem (v := storeBuffered s o a p (bufferedWrite s o a p pa nc)) h hops hlaunches none).trans hmem,
    pieceOver_stands (v := storeBuffered s o a p (bufferedWrite s o a p pa nc)) h hops hlaunches none, ?_⟩
  refine (congrArg Core.buffer
    (pieceOver_core (v := storeBuffered s o a p (bufferedWrite s o a p pa nc)) h hops hlaunches none _)).trans ?_
  rw [storeBuffered, State.core_modCore, if_pos rfl]
  exact congrArg (· ++ [bufferedWrite s o a p pa nc]) (storeSeen_buffer s o a p _)

/-- A piece that fails changes nothing but its lane. -/
theorem storePiece_fails {v : State} {e : LaneFault} (he : exec .storePerform s = .next (pieceOver v o a k (some e)))
    (hmem : v.mem = s.mem) (hteams : v.teams = s.teams) (hops : v.ops = s.ops) (hlaunches : v.launches = s.launches) :
    ∃ s', exec .storePerform s = .next s' ∧ s'.mem = s.mem ∧ s'.teams = s.teams ∧ standsWith s' o a (performed a k (some e)) :=
  ⟨_, he, (pieceOver_mem h hops hlaunches _).trans hmem, (pieceOver_teams h hops hlaunches _).trans hteams,
    pieceOver_stands h hops hlaunches _⟩

theorem storePiece_faults (hseg : o.seg ≠ 1) {f : LaneFault}
    (hm : s.translate (portOf o.origin.tid) o.origin.ctx (a.addr + p.off) .write = .fault f) :
    ∃ s', exec .storePerform s = .next s' ∧ s'.mem = s.mem ∧ s'.teams = s.teams ∧
      standsWith s' o a (performed a k (some { f with addr := a.addr + p.off })) := by
  have hfill : CoresOnly s _ := coresOnly_fillTlb s (portOf o.origin.tid) o.origin.ctx (a.addr + p.off)
  exact storePiece_fails h (storePerform_fault h hseg hm) (by rw [hfill]) (by rw [hfill]) (by rw [hfill]) (by rw [hfill])

theorem storePiece_refused (hseg : o.seg ≠ 1) (hown : o.seg ≠ 3) {pa : Nat} {nc : Bool}
    (hm : s.translate (portOf o.origin.tid) o.origin.ctx (a.addr + p.off) .write = .ok pa nc)
    (herr : s.arg.hostErr = true) (hpeer : s.outsideCause pa = some 9) :
    ∃ s' e, exec .storePerform s = .next s' ∧ s'.mem = s.mem ∧ s'.teams = s.teams ∧ e.cause = 9 ∧ e.addr = a.addr + p.off ∧
      standsWith s' o a (performed a k (some e)) := by
  have hhost : s.isHost pa = false := by
    cases hh : s.isHost pa with
    | false => rfl
    | true => simp [State.outsideCause, hh] at hpeer
  obtain ⟨e, he, hcause, haddr⟩ : ∃ e, s.outsideFault s.arg.hostErr (portOf o.origin.tid) o.origin.ctx (a.addr + p.off) pa =
      some e ∧ e.cause = 9 ∧ e.addr = a.addr + p.off := by
    simp [State.outsideFault, herr, hpeer]
  have hframe := storeSeen_frame s o a p
  obtain ⟨s', hexec, hmem, hteams, hstands⟩ := storePiece_fails h (storePerform_refused h hseg hm hhost he)
    (by rw [hframe]) (storeSeen_teams hown) (by rw [hframe]) (by rw [hframe])
  exact ⟨s', e, hexec, hmem, hteams, hcause, haddr, hstands⟩

theorem pieceOver_plots {v : State} (hops : v.ops = s.ops) (hlaunches : v.launches = s.launches)
    (hp : ∀ q, v.plot? o.origin.plot = some q → q.exited.length < q.teams) (f : Option LaneFault) :
    (pieceOver v o a k f).plots = v.plots := by
  rw [pieceOver_eq h hops]
  exact finishStore_plots (pieceDone_op h hops f) h.kind (launchLives_of_launches hlaunches h.lives) hp
end

/-- A run of bytes written in a plot's scratchpad. -/
theorem scratch_writeScratch {w : Plot} {x off : Nat} (hoff : w.scratchOff x = some off) (writer : Nat) (bs : List Byte)
    (y : Nat) : spRead 0 (w.writeScratch writer x bs).scratch y =
      if off ≤ y ∧ y < off + bs.length then bs.getD (y - off) 0 else spRead 0 w.scratch y := by
  have hscratch : (w.writeScratch writer x bs).scratch = memWrite w.scratch off bs := by
    simp only [Plot.writeScratch, hoff]
    exact putBytes_eq bs w.scratch off 0
  rw [hscratch]
  exact memByte_memWrite w.scratch off y bs

theorem storePiece_scratch {s : State} {o : MemOp} {a : LaneAcc} {k : Nat} {p : Piece} (h : Performs s o a k p) {w : Plot}
    {off : Nat} (hseg : o.seg = 1) (hp : s.plot? o.origin.plot = some w)
    (hlives : w.exited.length < w.teams) (hoff : w.scratchOff (a.addr + p.off) = some off) :
    ∃ s' w', exec .storePerform s = .next s' ∧ s'.mem = s.mem ∧ s'.teams = s.teams ∧ standsWith s' o a (performed a k) ∧
      s'.plot? o.origin.plot = some w' ∧
      ∀ y, spRead 0 w'.scratch y =
        if off ≤ y ∧ y < off + p.len then (pieceBytes a p).getD (y - off) 0 else spRead 0 w.scratch y := by
  have hplot := (plot?_writeScratch_same s o.id o.origin.plot (a.addr + p.off) (pieceBytes a p)).trans
    (congrArg (Option.map _) hp)
  refine ⟨_, w.writeScratch o.id (a.addr + p.off) (pieceBytes a p), storePerform_scratch h hseg, ?_⟩
  generalize hv : s.writeScratch o.id o.origin.plot (a.addr + p.off) (pieceBytes a p) = v at hplot ⊢
  have hops : v.ops = s.ops := by rw [← hv]; rfl
  have hlaunches : v.launches = s.launches := by rw [← hv]; rfl
  have hmem : v.mem = s.mem := by rw [← hv]; rfl
  have hteams : v.teams = s.teams := by rw [← hv]; rfl
  have hleft : ∀ q, v.plot? o.origin.plot = some q → q.exited.length < q.teams := by
    intro q hq
    have hext := extent_writeScratch w o.id (a.addr + p.off) (pieceBytes a p)
    obtain rfl := Option.some.inj (hplot.symm.trans hq)
    simp only [Plot.extent, Prod.mk.injEq] at hext
    rw [hext.2.2.1, hext.2.2.2]
    exact hlives
  refine ⟨(pieceOver_mem h hops hlaunches none).trans hmem, (pieceOver_teams h hops hlaunches none).trans hteams,
    pieceOver_stands h hops hlaunches none, ?_, fun y => ?_⟩
  · have hplots := pieceOver_plots h hops hlaunches hleft none
    unfold State.plot? at hplot ⊢
    rw [hplots]
    exact hplot
  · rw [scratch_writeScratch hoff, length_pieceBytes h]

theorem storePieceIsPerformedAtItsPlace : Claims.StorePieceIsPerformedAtItsPlace := by
  refine fun s o a k p h => ⟨fun pa nc hseg hgoes hm => ⟨fun hvia hmeets horder => ?_, fun hvia => ⟨fun hroom => ?_,
    fun hfull => ?_⟩⟩, fun f hseg hm => storePiece_faults h hseg hm, fun pa nc hseg hown hm herr hpeer => ?_,
    fun w off hseg hp hlives hoff => storePiece_scratch h hseg hp hlives hoff⟩
  · exact storePiece_home h hseg hm hgoes hvia hmeets horder
  · exact storePiece_buffer h hseg hm hgoes (by simpa [or_assoc] using hvia) hroom
  · exact storePerform_full h hseg hm hgoes (by simpa [or_assoc] using hvia) hfull
  · exact storePiece_refused h hseg hown hm herr hpeer

/-! ## The release buffer's drain (R308) -/

theorem drain_performs {s : State} {w : BufWrite} {rest : List BufWrite} (hb : (s.core s.arg.a).buffer = w :: rest)
    (hl : launchLives s w.ctx w.lid) : ∃ s', exec .releaseBufferDrain s = .next s' ∧ memAs s s' w.pa w.bytes ∧
      (s'.core s.arg.a).buffer = rest ∧ s'.ops = s.ops ∧
      ∀ h t, s.team? h = some t → t.monitor = .none_ → s'.team? h = some t := by
  refine ⟨_, exec_drain hb hl, fun x => ?_, ?_, ?_, fun h t ht hm => ?_⟩
  · exact (congrArg (memByte · x) (storeHome_mem _ s.arg.a ..)).trans (memByte_memWrite ..)
  · refine (storeHome_buffer _ _ _ _ _ _ _).trans ?_
    rw [State.core_modCore, if_pos rfl]
  · exact storeHome_ops _ s.arg.a ..
  · exact storeHome_team? (s := s.modCore s.arg.a fun c => { c with buffer := rest }) ht hm s.arg.a ..

/-! ## The reply to a promoted acquire (R309) -/

theorem countPerfIf_countsOnly (s : State) (c : Prop) [Decidable c] (core ctx code n : Nat) :
    CountsOnly core s (if c then s.countPerf core ctx code n else s) := by
  split
  · exact countPerf_countsOnly ..
  · exact .refl core s

section
variable {s : State} {o : MemOp} (ho : s.op? s.arg.a = some o) (hk : o.kind = .load) (hp : o.promoted = true)
  (hd : o.delivered = false) (hpairs : s.arg.pairs = []) (hflag : s.arg.flag = false)
include ho hp

theorem reply_waits (hw : ∃ a ∈ o.lanes, a.open_ = true ∧ ∃ p ∈ a.pieces, p.done = false ∧
    s.mustPromote (coreOf o.origin.tid) o.scope o.isAcquire (s.pieceAt o a p) = true) : exec .promotedAcquireReply s = .next s := by
  obtain ⟨a, ha, hopen, p, hpiece, hdone, hmust⟩ := hw
  have hwaits : (o.lanes.any fun a => a.open_ && a.pieces.any fun p => !p.done &&
      s.mustPromote (coreOf o.origin.tid) o.scope o.isAcquire (s.pieceAt o a p)) = true :=
    List.any_eq_true.mpr ⟨a, ha, by
      rw [hopen, Bool.true_and]
      exact List.any_eq_true.mpr ⟨p, hpiece, by rw [hdone, hmust]; rfl⟩⟩
  have hsame : s.answerOp o = s := by
    simp only [State.answerOp, hwaits, Bool.or_true, if_true]
  have hown : s.op? o.id = some o := (State.id_of_op? ho).symm ▸ ho
  simp only [exec, execPromotedAcquireReply, ho, hsame, hown, hp, Bool.not_true, Bool.and_false, Bool.false_eq_true, if_false]

include hk hd hpairs hflag

theorem reply_answers (hno : ∀ a ∈ o.lanes, ∀ p ∈ a.pieces,
    s.mustPromote (coreOf o.origin.tid) o.scope o.isAcquire (s.pieceAt o a p) = false) :
    ∃ r s', exec .loadDelivery (s.modOp o.id fun q => { q with promoted := false }) = .next r ∧
      exec .promotedAcquireReply s = .next s' ∧ s' = { r with cores := s'.cores } ∧
      ∀ c, s'.core c = { r.core c with perf := (s'.core c).perf } := by
  have hid : o.id = s.arg.a := State.id_of_op? ho
  have hasked : (s.modOp o.id fun q => { q with promoted := false }).op? s.arg.a = some { o with promoted := false } := by
    rw [← hid] at ho ⊢
    exact (State.op?_modOp s o.id (f := fun q => { q with promoted := false }) fun _ => rfl).trans (congrArg (Option.map _) ho)
  have hload : exec .loadDelivery (s.modOp o.id fun q => { q with promoted := false }) =
      .next ((s.modOp o.id fun q => { q with promoted := false }).samplePieces o.id false o.allPieces) := by
    simp only [exec, execLoadDelivery, State.modOp_arg, hasked, hk, hd, hpairs, hflag, List.isEmpty_nil, if_true,
      Bool.false_eq_true, if_false]
    rfl
  have hwaits : (o.lanes.any fun a => a.open_ && a.pieces.any fun p => !p.done &&
      s.mustPromote (coreOf o.origin.tid) o.scope o.isAcquire (s.pieceAt o a p)) = false := by
    refine List.any_eq_false.mpr fun a ha => ?_
    have : (a.pieces.any fun p => !p.done &&
        s.mustPromote (coreOf o.origin.tid) o.scope o.isAcquire (s.pieceAt o a p)) = false :=
      List.any_eq_false.mpr fun p hpiece => by rw [hno a ha p hpiece]; simp
    rw [this]
    simp
  have hanswer : s.answerOp o = (s.modOp o.id fun q => { q with promoted := false }).samplePieces o.id false o.allPieces := by
    simp only [State.answerOp, hwaits, hp, Bool.not_true, Bool.or_self, Bool.false_eq_true, if_false]
  have hreply : exec .promotedAcquireReply s = .next (
      if !(match ((s.modOp o.id fun q => { q with promoted := false }).samplePieces o.id false o.allPieces).op? o.id with
        | some q => q.promoted
        | none => false)
      then ((s.modOp o.id fun q => { q with promoted := false }).samplePieces o.id false o.allPieces).countPerf o.origin.core
        o.origin.ctx 10 1
      else (s.modOp o.id fun q => { q with promoted := false }).samplePieces o.id false o.allPieces) := by
    simp only [exec, execPromotedAcquireReply, ho, hanswer, hp, Bool.true_and] <;> rfl
  refine ⟨_, _, hload, hreply, ?_⟩
  exact ⟨(countPerfIf_countsOnly ..).frame, (countPerfIf_countsOnly ..).perf⟩
end

/-- Settles O20: a piece of a store goes where its translation, the event and the buffer say, and its lane shows that it is
over; the drain performs the oldest write; a promoted acquire is answered as a load. -/
theorem storesArePerformedAndBuffersDrain : Obligations.StoresArePerformedAndBuffersDrain :=
  ⟨storePieceIsPerformedAtItsPlace, fun _ _ _ hb hl => drain_performs hb hl, fun _ _ ho hk hp hd hpairs hflag =>
    ⟨reply_answers ho hk hp hd hpairs hflag, reply_waits ho hp⟩⟩

end Sys2Proof.Machine
end

section
/-! PROOFS. A load samples its pieces (R191, R283, R308, R311). -/

namespace Sys2Proof.Machine

open Sys2Proof.Claims

/-! ## What a translation leaves in a core (R295) -/

/-- State w is state s up to translation caches, counters and the draws of free values. -/
structure TlbOnly (s w : State) : Prop where
  frame : w = { s with cores := w.cores, fresh := w.fresh }
  core : ∀ c, w.core c = { s.core c with tlb := (w.core c).tlb, first := (w.core c).first, perf := (w.core c).perf }

theorem TlbOnly.refl (s : State) : TlbOnly s s := ⟨rfl, fun _ => rfl⟩

theorem TlbOnly.trans {s v w : State} (h : TlbOnly s v) (h' : TlbOnly v w) : TlbOnly s w :=
  ⟨by rw [h'.frame, h.frame], fun c => by rw [h'.core c, h.core c]⟩

theorem CountsOnly.tlbOnly {core : Nat} {s w : State} (h : CountsOnly core s w) : TlbOnly s w :=
  ⟨by rw [h.frame], fun c => by rw [h.perf c]⟩

theorem tlbOnly_modCore (s : State) (core : Nat) {f : Core → Core}
    (hf : ∀ c, f c = { c with tlb := (f c).tlb, first := (f c).first }) : TlbOnly s (s.modCore core f) := by
  refine ⟨rfl, fun c => ?_⟩
  rw [State.core_modCore]
  split
  · rename_i hc
    rw [hc, hf]
  · rfl

theorem tlbOnly_keepIn {α : Type} (s : State) (size : Nat) (es : List α) (e : α) : TlbOnly s (s.keepIn size es e).2 := by
  unfold State.keepIn
  split
  · exact .refl s
  · exact ⟨rfl, fun _ => rfl⟩

theorem tlbOnly_keepFirst (s : State) (port : Nat) (e : TlbEntry) : TlbOnly s (s.keepFirst port e) := by
  unfold State.keepFirst
  split
  · exact .refl s
  · exact (tlbOnly_keepIn ..).trans (tlbOnly_modCore _ _ fun _ => rfl)

theorem tlbOnly_keepSecond (s : State) (core : Nat) (e : TlbEntry) : TlbOnly s (s.keepSecond core e) := by
  unfold State.keepSecond
  exact (tlbOnly_keepIn ..).trans (tlbOnly_modCore _ _ fun _ => rfl)

theorem tlbOnly_fillTlb (s : State) (port ctx va : Nat) : TlbOnly s (s.fillTlb port ctx va) := by
  have counted := (countPerf_countsOnly s (port / 8) ctx 7 1).tlbOnly.trans
    (countPerf_countsOnly (s.countPerf (port / 8) ctx 7 1) (port / 8) ctx 8 1).tlbOnly
  unfold State.fillTlb
  split
  · exact .refl s
  · split
    · exact tlbOnly_keepFirst ..
    · dsimp only
      split
      · exact (counted.trans (tlbOnly_keepSecond ..)).trans (tlbOnly_keepFirst ..)
      · exact counted

theorem TlbOnly.sameButCaches {s w : State} (h : TlbOnly s w) : sameButCaches s w :=
  ⟨by rw [h.frame], fun c => by rw [h.core c]⟩

theorem TlbOnly.cached {s w : State} (h : TlbOnly s w) (core line : Nat) : w.cached core line = s.cached core line := by
  unfold State.cached
  rw [h.core core]

theorem TlbOnly.bufferOver {s w : State} (h : TlbOnly s w) (core pa : Nat) (bs : List Byte) :
    w.bufferOver core pa bs = s.bufferOver core pa bs := by
  unfold State.bufferOver
  rw [h.core core]

/-! ## Caches beside the state -/

theorem sameButCaches_modOp {s w : State} (h : sameButCaches s w) (i : Nat) (f : MemOp → MemOp) :
    sameButCaches (s.modOp i f) (w.modOp i f) := by
  obtain ⟨hframe, hcore⟩ := h
  refine ⟨?_, hcore⟩
  have hops : w.ops = s.ops := by rw [hframe]
  unfold State.modOp
  rw [hops, hframe]

theorem sameButCaches_fillLine (s : State) (core pa : Nat) : sameButCaches s (s.fillLine core pa) := by
  unfold State.fillLine
  dsimp only
  split
  · exact sameButCaches_refl s
  · refine sameButCaches_trans (sameButCaches_keepIn ..) ⟨rfl, fun c => ?_⟩
    rw [State.core_modCore]
    split
    · rename_i hc
      rw [hc]
    · rfl

theorem sameButCaches_loadSlice (s : State) (pa n : Nat) (nc : Bool) (burst : Nat) :
    sameButCaches s (s.loadSlice pa n nc burst) := by
  unfold State.loadSlice
  split
  · exact sameButCaches_refl s
  · exact (seenOnly_touchSlice ..).sameButCaches

/-! ## One piece of a load -/

section
variable {s : State} {o : MemOp} {a : LaneAcc} {k : Nat} {p : Piece} (h : Samples s o a k p)
include h

theorem samples_own : s.op? o.id = some o := (State.id_of_op? h.op).symm ▸ h.op

theorem samples_plain : o.isAcquire = false := by simp [MemOp.isAcquire, h.ordinary]

/-- With another lane open, an operation with this lane changed is not delivered. -/
theorem deliverIfDone_waits {v : State} (hops : v.ops = s.ops) (b : LaneAcc) :
    (v.modOp o.id fun q => q.modLane a.lane fun _ => b).deliverIfDone o.id =
      v.modOp o.id fun q => q.modLane a.lane fun _ => b := by
  have hop : v.op? o.id = some o := by unfold State.op?; rw [hops]; exact samples_own h
  have hput : (v.modOp o.id fun q => q.modLane a.lane fun _ => b).op? o.id = some (o.modLane a.lane fun _ => b) := by
    rw [State.op?_modOp _ _ fun q => MemOp.modLane_id q _ _, hop]
    rfl
  unfold State.deliverIfDone
  simp only [hput, any_open_modLane h.others, Bool.not_true, Bool.and_false, Bool.false_eq_true, if_false]

/-- The lane of a load's piece takes what the sample gives it. -/
theorem modLane_own {v : State} (hops : v.ops = s.ops) (f : LaneAcc → LaneAcc) :
    (v.modOp o.id fun q => q.modLane a.lane f) = v.modOp o.id fun q => q.modLane a.lane fun _ => f a := by
  have hop : v.op? o.id = some o := by unfold State.op?; rw [hops]; exact samples_own h
  exact State.modOp_congr hop (MemOp.modLane_const h.first f)

theorem loadDelivery_piece : exec .loadDelivery s = .next ((s.samplePiece o.id s.arg.flag (a.lane, k)).deliverIfDone o.id) := by
  simp only [exec, execLoadDelivery, h.op, h.kind, h.waits.1, h.piece, List.isEmpty_cons, Bool.false_eq_true, if_false,
    State.samplePieces, List.foldl_cons, List.foldl_nil]

omit h in
theorem mustPromote_plain (s : State) (core scope : Nat) (x : Option (Bool × Nat)) : s.mustPromote core scope false x = false := by
  unfold State.mustPromote
  split <;> simp

theorem sample_eq (e : Bool) : s.sample o a p e = s.sampleAt o a p e := by
  unfold State.sample
  simp only [h.noRace, Bool.false_eq_true, if_false]
  split <;> rfl

theorem loadPiece_bytes {bs : List Byte} {w : State} (hs : s.sampleAt o a p s.arg.flag = (.bytes bs, w)) (hops : w.ops = s.ops) :
    exec .loadDelivery s = .next (w.modOp o.id fun q => q.modLane a.lane fun _ => readAs a p k bs) := by
  have hstrong : o.isStrongRead = false := by simp [MemOp.isStrongRead, h.kind, samples_plain h]
  have hsample : s.samplePiece o.id s.arg.flag (a.lane, k) = w.modOp o.id fun q => q.modLane a.lane fun b => readAs b p k bs := by
    simp only [State.samplePiece, samples_own h, h.lane, h.part.1, h.kind, h.part.2, h.waits.2, h.ready, Bool.not_true,
      Bool.or_self, Bool.false_eq_true, if_false, mustPromote_plain, sample_eq h, hs, samples_plain h, State.noteTags, hstrong]
    split <;> rfl
  rw [loadDelivery_piece h, hsample, modLane_own h hops, deliverIfDone_waits h hops]

theorem loadPiece_fault {e : LaneFault} {w : State} (hs : s.sampleAt o a p s.arg.flag = (.fault e, w)) (hops : w.ops = s.ops) :
    exec .loadDelivery s = .next (w.modOp o.id fun q => q.modLane a.lane fun _ => { a with fault := some e }) := by
  have hsample : s.samplePiece o.id s.arg.flag (a.lane, k) =
      w.modOp o.id fun q => q.modLane a.lane fun a => { a with fault := some e } := by
    simp only [State.samplePiece, samples_own h, h.lane, h.part.1, h.kind, h.part.2, h.waits.2, h.ready, Bool.not_true,
      Bool.or_self, Bool.false_eq_true, if_false, samples_plain h, mustPromote_plain, sample_eq h, hs]
  rw [loadDelivery_piece h, hsample, modLane_own h hops, deliverIfDone_waits h hops]
/-- A load of a team without posted stores takes none of its own bytes (R191). -/
theorem ownStores_alone {v : State} (hops : v.ops = s.ops) (x : Bool × Nat) (bs : List Byte) : v.ownStores o x bs = bs := by
  unfold State.ownStores
  rw [List.filter_eq_nil_iff.mpr]
  · rfl
  · rw [hops]
    intro q hq
    by_cases hid : q.origin.tid = o.origin.tid
    · have := h.alone q hq hid
      cases hk : q.kind <;> simp_all
    · simp [hid]

theorem sampleAt_scratch {t : Team} (hseg : o.seg = 1) (ht : s.team? o.origin.tid = some t)
    (hclean : s.scratchPoisoned t.plot (a.addr + p.off) p.len = false) (e : Bool) :
    s.sampleAt o a p e = (.bytes (s.readScratch t.plot (a.addr + p.off) p.len), s) := by
  simp only [State.sampleAt, hseg, if_true, ht, hclean, Bool.false_eq_true, if_false, ownStores_alone h rfl]

omit h in
theorem sampleAt_fault (hseg : o.seg ≠ 1) {f : LaneFault}
    (hm : s.translate (portOf o.origin.tid) o.origin.ctx (a.addr + p.off) .read = .fault f) (e : Bool) :
    s.sampleAt o a p e = (.fault { f with addr := a.addr + p.off },
      s.fillTlb (portOf o.origin.tid) o.origin.ctx (a.addr + p.off)) := by
  simp only [State.sampleAt, hseg, if_false, hm]

section
variable (hseg : o.seg ≠ 1) {pa : Nat} {nc : Bool}
  (hm : s.translate (portOf o.origin.tid) o.origin.ctx (a.addr + p.off) .read = .ok pa nc)
  (hbuf : (s.core (coreOf o.origin.tid)).buffer = [])
include hseg hm hbuf

/-- The state in which the page of a load's piece has been translated. -/
def loadSeen (s : State) (o : MemOp) (a : LaneAcc) (p : Piece) : State :=
  s.fillTlb (portOf o.origin.tid) o.origin.ctx (a.addr + p.off)

omit h hseg hm hbuf in
theorem loadSeen_tlbOnly (s : State) (o : MemOp) (a : LaneAcc) (p : Piece) : TlbOnly s (loadSeen s o a p) := tlbOnly_fillTlb ..

omit hseg hm in
/-- What stands over the bytes of a place where no store of the team and no buffered write stands. -/
theorem laid_eq {v : State} (hv : TlbOnly s v) (bs : List Byte) :
    v.ownStores o (false, pa) (v.bufferOver (coreOf o.origin.tid) pa bs) = bs := by
  rw [ownStores_alone h (by rw [hv.frame]), hv.bufferOver]
  unfold State.bufferOver
  rw [hbuf]
  rfl

theorem sampleAt_cached (hnc : nc = false) (hhost : localHost (paLocal pa) = false) {c : CacheLine}
    (hc : s.cached (coreOf o.origin.tid) (lineOf pa) = some c) (e : Bool) :
    s.sampleAt o a p e = (.bytes ((c.bytes.drop (pa % 64)).take p.len), loadSeen s o a p) := by
  have htlb := loadSeen_tlbOnly s o a p
  have hcached := (htlb.cached (coreOf o.origin.tid) (lineOf pa)).trans hc
  have hlaid := laid_eq (pa := pa) h hbuf htlb ((c.bytes.drop (pa % 64)).take p.len)
  unfold loadSeen at hcached hlaid ⊢
  simp only [State.sampleAt, hseg, if_false, hm, cacheable, hnc, hhost, samples_plain h, Bool.not_false, Bool.and_true,
    Bool.false_and, if_true, hcached, hlaid]

/-- The state in which a load's miss has been counted (R376). -/
def missSeen (s : State) (o : MemOp) (a : LaneAcc) (p : Piece) (pa : Nat) (nc : Bool) : State :=
  if cacheable pa nc then (loadSeen s o a p).countPerf (coreOf o.origin.tid) o.origin.ctx 6 1 else loadSeen s o a p

omit h hseg hm hbuf in
theorem missSeen_tlbOnly (s : State) (o : MemOp) (a : LaneAcc) (p : Piece) (pa : Nat) (nc : Bool) :
    TlbOnly s (missSeen s o a p pa nc) := by
  unfold missSeen
  split
  · exact (loadSeen_tlbOnly ..).trans (countPerf_countsOnly ..).tlbOnly
  · exact loadSeen_tlbOnly ..

variable (hmiss : nc = true ∨ localHost (paLocal pa) = true ∨ s.cached (coreOf o.origin.tid) (lineOf pa) = none)
include hmiss

omit h hseg hm hbuf in
/-- The load cache does not serve the piece. -/
theorem notCached : (if cacheable pa nc && !(o.isAcquire && decide (3 ≤ o.scope)) then
    (loadSeen s o a p).cached (coreOf o.origin.tid) (lineOf pa) else none) = none := by
  rcases hmiss with rfl | hhost | hnone
  · simp [cacheable]
  · simp [cacheable, hhost]
  · rw [(loadSeen_tlbOnly s o a p).cached, hnone]
    split <;> rfl

/-- Beyond the load cache, the piece is read at its home slice, or ended with an error (R391). -/
theorem sampleAt_home (e : Bool) : s.sampleAt o a p e =
    match (missSeen s o a p pa nc).outsideFault e (portOf o.origin.tid) o.origin.ctx (a.addr + p.off) pa with
    | some f => (.fault f, missSeen s o a p pa nc)
    | none =>
      if s.poisoned pa then (.poison (some pa), missSeen s o a p pa nc)
      else (.bytes (memRead s.mem pa p.len),
        if cacheable pa nc then ((missSeen s o a p pa nc).loadSlice pa p.len nc o.burst).fillLine (coreOf o.origin.tid) pa
        else (missSeen s o a p pa nc).loadSlice pa p.len nc o.burst) := by
  have htlb := missSeen_tlbOnly s o a p pa nc
  have hnone := notCached (o := o) (a := a) (p := p) hmiss
  have hlaid := laid_eq (pa := pa) h hbuf (loadSeen_tlbOnly s o a p) (memRead s.mem pa p.len)
  have hmem : (missSeen s o a p pa nc).mem = s.mem := by rw [htlb.frame]
  have hpoison : (missSeen s o a p pa nc).poisoned pa = s.poisoned pa := by rw [htlb.frame]; rfl
  unfold missSeen loadSeen at *
  simp only [samples_plain h, Bool.false_and, Bool.not_false, Bool.and_true] at hnone
  simp only [State.sampleAt, hseg, if_false, hm, samples_plain h, Bool.false_and, Bool.not_false, Bool.and_true, hnone]
  rw [hmem, hpoison, hlaid] <;> rfl

/-- The state in which a load's piece has been read at its home slice, and its line filled where the page lets one stand. -/
def homeSeen (s : State) (o : MemOp) (a : LaneAcc) (p : Piece) (pa : Nat) (nc : Bool) : State :=
  if cacheable pa nc then ((missSeen s o a p pa nc).loadSlice pa p.len nc o.burst).fillLine (coreOf o.origin.tid) pa
  else (missSeen s o a p pa nc).loadSlice pa p.len nc o.burst

omit h hseg hm hbuf hmiss in
theorem homeSeen_sameButCaches (s : State) (o : MemOp) (a : LaneAcc) (p : Piece) (pa : Nat) (nc : Bool) :
    sameButCaches s (homeSeen s o a p pa nc) := by
  have hslice := sameButCaches_trans (missSeen_tlbOnly s o a p pa nc).sameButCaches
    (sameButCaches_loadSlice _ pa p.len nc o.burst)
  unfold homeSeen
  split
  · exact sameButCaches_trans hslice (sameButCaches_fillLine ..)
  · exact hslice

/-- A piece that the home slice serves takes the bytes at its physical address. -/
theorem loadPiece_home (hgoes : s.arg.flag = false ∨ s.outsideCause pa = none) (hclean : s.poisoned pa = false) :
    ∃ s', exec .loadDelivery s = .next s' ∧ sameButCaches (s.modOp o.id fun q => q.modLane a.lane fun _ =>
      readAs a p k (memRead s.mem pa p.len)) s' := by
  have hcause : (missSeen s o a p pa nc).outsideCause pa = s.outsideCause pa := by
    rw [(missSeen_tlbOnly s o a p pa nc).frame]; rfl
  have hnone : (missSeen s o a p pa nc).outsideFault s.arg.flag (portOf o.origin.tid) o.origin.ctx (a.addr + p.off) pa = none := by
    unfold State.outsideFault
    rcases hgoes with hflag | hout
    · simp [hflag]
    · simp [hcause, hout]
  have hsame := homeSeen_sameButCaches s o a p pa nc
  refine ⟨_, loadPiece_bytes h (w := homeSeen s o a p pa nc) ?_ (by rw [hsame.1]), sameButCaches_modOp hsame _ _⟩
  rw [sampleAt_home h hseg hm hbuf hmiss, hnone]
  simp only [hclean, Bool.false_eq_true, if_false]
  rfl

/-- A piece that the host or a peer ends with an error faults. -/
theorem loadPiece_refused {c : Nat} (hflag : s.arg.flag = true) (hout : s.outsideCause pa = some c) :
    ∃ s' e, exec .loadDelivery s = .next s' ∧ e.cause = c ∧ e.addr = a.addr + p.off ∧ sameButCaches (s.modOp o.id fun q =>
      q.modLane a.lane fun _ => { a with fault := some e }) s' := by
  have hcause : (missSeen s o a p pa nc).outsideCause pa = s.outsideCause pa := by
    rw [(missSeen_tlbOnly s o a p pa nc).frame]; rfl
  obtain ⟨e, he, hc, haddr⟩ : ∃ e, (missSeen s o a p pa nc).outsideFault s.arg.flag (portOf o.origin.tid) o.origin.ctx
      (a.addr + p.off) pa = some e ∧ e.cause = c ∧ e.addr = a.addr + p.off := by
    simp [State.outsideFault, hflag, hcause, hout]
  have hsame := (missSeen_tlbOnly s o a p pa nc).sameButCaches
  refine ⟨_, e, loadPiece_fault h (w := missSeen s o a p pa nc) ?_ (by rw [hsame.1]), hc, haddr, sameButCaches_modOp hsame _ _⟩
  rw [sampleAt_home h hseg hm hbuf hmiss, he]
end
end

theorem loadPieceTakesItsBytes : Claims.LoadPieceTakesItsBytes := by
  refine fun s o a k p h => ⟨fun t hseg ht hclean => loadPiece_bytes h (sampleAt_scratch h hseg ht hclean _) rfl,
    fun pa nc hseg hm hbuf => ⟨fun c hnc hhost hc => ?_, fun hmiss => ⟨fun hgoes hclean => ?_, fun c hflag hout => ?_⟩⟩,
    fun f hseg hm => ?_⟩
  · have hsame := (loadSeen_tlbOnly s o a p).sameButCaches
    exact ⟨_, loadPiece_bytes h (sampleAt_cached h hseg hm hbuf hnc hhost hc _) (by rw [hsame.1]), sameButCaches_modOp hsame _ _⟩
  · exact loadPiece_home h hseg hm hbuf hmiss hgoes hclean
  · exact loadPiece_refused h hseg hm hbuf hmiss hflag hout
  · have hsame := (loadSeen_tlbOnly s o a p).sameButCaches
    exact ⟨_, loadPiece_fault h (w := loadSeen s o a p) (sampleAt_fault hseg hm _) (by rw [hsame.1]),
      sameButCaches_modOp hsame _ _⟩

end Sys2Proof.Machine
end

section
/-! PROOFS. What a delivery writes (R108, R187, R190, R206): words of lanes in vector registers, or a scalar. -/

namespace Sys2Proof.Machine

open Sys2Proof.Claims

/-! ## Words of a run of bytes (R6) -/

theorem bytesToWords_getElem? (bs : List Byte) (i : Nat) :
    (bytesToWords bs)[i]? = if 4 * i + 4 ≤ bs.length then some (wordOf bs i) else none := by
  induction bs using bytesToWords.induct generalizing i with
  | case1 a b c d r ih =>
    cases i with
    | zero => simp [bytesToWords, wordOf]
    | succ i =>
      have hdrop : (a :: b :: c :: d :: r).drop (4 * (i + 1)) = r.drop (4 * i) := by
        rw [Nat.mul_succ]
        rfl
      have hiff : 4 * (i + 1) + 4 ≤ (a :: b :: c :: d :: r).length ↔ 4 * i + 4 ≤ r.length := by
        simp only [List.length_cons]; omega
      simp only [bytesToWords, List.getElem?_cons_succ, ih, hiff, wordOf, hdrop]
  | case2 bs h =>
    have hshort : bs.length < 4 := by
      match bs, h with
      | [], _ => simp
      | [_], _ => simp
      | [_, _], _ => simp
      | [_, _, _], _ => simp
      | a :: b :: c :: d :: r, h => exact absurd rfl (h a b c d r)
    rw [bytesToWords, if_neg (by omega)]
    · rfl
    · exact h

/-! ## Vector registers written in order (R108) -/

theorem Team.setLanes_eq (t : Team) (ws : List LaneWrite) : t.setLanes ws = { t with v := (t.setLanes ws).v } := by
  induction ws generalizing t with
  | nil => rfl
  | cons w ws ih => exact ih (t.setV w.reg w.lane w.val)

theorem Team.getV_setLanes_other {ws : List LaneWrite} {r l : Nat} (h : ∀ w ∈ ws, ¬ (w.reg = r ∧ w.lane = l)) (t : Team) :
    (t.setLanes ws).getV r l = t.getV r l := by
  induction ws generalizing t with
  | nil => rfl
  | cons w ws ih =>
    have hw := h w List.mem_cons_self
    refine (ih (fun x hx => h x (List.mem_cons_of_mem _ hx)) (t.setV w.reg w.lane w.val)).trans ?_
    rw [Team.getV_setV, if_neg fun e => hw ⟨e.1.symm, e.2.symm⟩]

/-- Of writes to one slice that agree, the slice has the value. -/
theorem Team.getV_setLanes_same {ws : List LaneWrite} {r l : Nat} {x : Word} (h : ∀ w ∈ ws, w.reg = r → w.lane = l → w.val = x)
    (hx : ∃ w ∈ ws, w.reg = r ∧ w.lane = l) (t : Team) : (t.setLanes ws).getV r l = x := by
  induction ws generalizing t with
  | nil => simp at hx
  | cons w ws ih =>
    by_cases hrest : ∃ w ∈ ws, w.reg = r ∧ w.lane = l
    · exact ih (fun y hy => h y (List.mem_cons_of_mem _ hy)) hrest (t.setV w.reg w.lane w.val)
    · have hw : w.reg = r ∧ w.lane = l := by
        obtain ⟨y, hy, hyr⟩ := hx
        rcases List.mem_cons.mp hy with rfl | hin
        · exact hyr
        · exact absurd ⟨y, hin, hyr⟩ hrest
      refine (Team.getV_setLanes_other (fun y hy e => hrest ⟨y, hy, e⟩) (t.setV w.reg w.lane w.val)).trans ?_
      rw [Team.getV_setV, if_pos ⟨hw.1.symm, hw.2.symm⟩]
      exact h w List.mem_cons_self hw.1 hw.2

/-! ## The writes of a delivery (R187, R364) -/

/-- The words that the lanes of a delivery put into its destination, in order: none for a lane frozen since the issue. -/
def destWrites (o : MemOp) (t : Team) (good : List LaneAcc) : List LaneWrite :=
  (good.filter fun a => !t.hold.getLsbD a.lane || o.thawed.contains a.lane).flatMap fun a =>
    (bytesToWords a.bytes).zipIdx.map fun x => { reg := o.dest + x.2, lane := a.lane, val := x.1 }

theorem unfrozen_iff (o : MemOp) (t : Team) (l : Nat) :
    (!t.hold.getLsbD l || o.thawed.contains l) = true ↔ ¬ frozenLane o t l := by
  unfold frozenLane
  by_cases h : l ∈ o.thawed <;> simp [h]

theorem mem_destWrites {o : MemOp} {t : Team} {good : List LaneAcc} {w : LaneWrite} : w ∈ destWrites o t good ↔
    ∃ a ∈ good, ¬ frozenLane o t a.lane ∧ ∃ i, 4 * i + 4 ≤ a.bytes.length ∧
      w = { reg := o.dest + i, lane := a.lane, val := wordOf a.bytes i } := by
  simp only [destWrites, List.mem_flatMap, List.mem_filter, unfrozen_iff, List.mem_map, List.mem_zipIdx_iff_getElem?,
    bytesToWords_getElem?, Prod.exists]
  constructor
  · rintro ⟨a, ⟨ha, hf⟩, x, i, hx, rfl⟩
    split at hx
    · exact ⟨a, ha, hf, i, ‹_›, by rw [Option.some.inj hx]⟩
    · cases hx
  · rintro ⟨a, ha, hf, i, hi, rfl⟩
    exact ⟨a, ⟨ha, hf⟩, wordOf a.bytes i, i, by rw [if_pos hi], rfl⟩

section
variable {o : MemOp} {t : Team} {good : List LaneAcc} (hn : (good.map LaneAcc.lane).Nodup)
  (hsize : ∀ a ∈ good, a.bytes.length = o.size) (hfour : o.size % 4 = 0)
include hsize hfour

include hn in
/-- A lane of a delivery has its words in the destination (R187). -/
theorem getV_delivered {a : LaneAcc} (ha : a ∈ good) (hf : ¬ frozenLane o t a.lane) {i : Nat} (hi : i < o.size / 4) :
    (t.setLanes (destWrites o t good)).getV (o.dest + i) a.lane = wordOf a.bytes i := by
  refine Team.getV_setLanes_same (fun w hw hr hl => ?_) ⟨_, mem_destWrites.mpr ⟨a, ha, hf, i, ?_, rfl⟩, rfl, rfl⟩ t
  · obtain ⟨b, hb, -, j, -, rfl⟩ := mem_destWrites.mp hw
    obtain rfl : b = a := List.inj_on_of_nodup_map hn hb ha hl
    obtain rfl : j = i := Nat.add_left_cancel hr
    rfl
  · rw [hsize a ha]
    omega

/-- Beside the words of its lanes a delivery writes nothing (R108, R364). -/
theorem getV_undelivered {r l : Nat} (h : r < o.dest ∨ o.dest + o.size / 4 ≤ r ∨ frozenLane o t l ∨ ∀ a ∈ good, a.lane ≠ l) :
    (t.setLanes (destWrites o t good)).getV r l = t.getV r l := by
  refine Team.getV_setLanes_other (fun w hw => ?_) t
  obtain ⟨a, ha, hf, i, hi, rfl⟩ := mem_destWrites.mp hw
  rintro ⟨hr, hl : a.lane = l⟩
  rw [hsize a ha] at hi
  rcases h with h | h | h | h
  · exact absurd hr (by simp only; omega)
  · exact absurd hr (by simp only; omega)
  · exact hf (hl ▸ h)
  · exact h a ha hl
end

/-! ## The delivery (R190) -/

theorem keepWrites_kept {o : MemOp} (h : o.overwritten = []) (s : State) (ws : List LaneWrite) : keepWrites o s ws = (s, ws) := by
  induction ws with
  | nil => rfl
  | cons w ws ih => simp [keepWrites, h, ih]

/-- The team as a delivery of some lanes leaves its registers. -/
def writtenTeam (o : MemOp) (t : Team) (good : List LaneAcc) : Team :=
  if o.scalar then
    match good with
    | [] => t
    | a :: _ => t.setS o.dest (o.scalarValue a.bytes)
  else t.setLanes (destWrites o t good)

theorem writtenTeam_eq (o : MemOp) (t : Team) (good : List LaneAcc) : writtenTeam o t good =
    { t with v := (writtenTeam o t good).v, s := (writtenTeam o t good).s } := by
  unfold writtenTeam
  split
  · split <;> rfl
  · rw [Team.setLanes_eq]

/-- State w is state s but for team t, which is u there, and for what registers' words keep of poison and matrices. -/
structure Written (s w : State) (t u : Team) : Prop where
  frame : w = { s with teams := w.teams, plots := w.plots, crews := w.crews }
  team : w.team? t.tid = some u

theorem putLanes_written {s : State} {t : Team} (ht : s.team? t.tid = some t) (ws : List LaneWrite) :
    Written s (s.putLanes t.tid ws) t (t.setLanes ws) := by
  unfold State.putLanes
  rw [ht]
  refine ⟨rfl, ?_⟩
  refine (State.team?_modTeam_same s t.tid (fun t => t.setLanes ws) fun u hu => ?_).trans (congrArg (Option.map _) ht)
  rw [Team.setLanes_eq]
  exact hu

section
variable {s : State} {o : MemOp} {t : Team} (h : Delivers s o t)
include h

theorem delivers_tid : o.origin.tid = t.tid := (State.tid_of_team? h.team).symm

theorem delivers_own : s.op? o.id = some o := (State.id_of_op? h.op).symm ▸ h.op

theorem delivers_team : s.team? t.tid = some t := delivers_tid h ▸ h.team

theorem writeDest_written (good : List LaneAcc) : Written s (s.writeDest o good) t (writtenTeam o t good) := by
  have htid := delivers_tid h
  have hteam := delivers_team h
  unfold State.writeDest writtenTeam
  split
  · split
    · exact ⟨rfl, hteam⟩
    · rename_i a _
      simp only [h.kept, List.isEmpty_nil, if_true, htid]
      exact ⟨rfl, (State.team?_modTeam_same s t.tid (fun t => t.setS o.dest (o.scalarValue a.bytes)) fun _ hu => hu).trans
        (congrArg (Option.map _) hteam)⟩
  · simp only [h.team, keepWrites_kept h.kept]
    rw [htid]
    exact putLanes_written hteam _

/-- Weirs that are off do nothing at a delivery (R358). -/
theorem deliveryWeirs_none {w : State} {u : Team} (hw : Written s w t u) (hu : u.tid = t.tid) (good : List LaneAcc) :
    w.deliveryWeirs o good = w := by
  have hteam : w.team? o.origin.tid = some u := delivers_tid h ▸ hw.team
  have hoff : ∀ c, w.weirsOff { u with clause := c } = true := by
    intro c
    have hcores : w.cores = s.cores := by rw [hw.frame]
    have := h.weirs
    unfold State.weirsOff State.weir State.core at this ⊢
    simp only [hcores, hu]
    exact this
  unfold State.deliveryWeirs
  simp only [hteam, evalWeirs_off (hoff _)]
  rfl

/-- With nothing open the event delivers the operation. -/
theorem exec_delivers : exec .loadDelivery s = .next (s.deliver o) := by
  have hclosed : ∀ x : Nat × Nat, s.samplePiece o.id s.arg.flag x = s := by
    intro x
    have hnone : (o.lanes.find? fun a => a.lane == x.1 && a.open_) = none :=
      List.find?_eq_none.mpr fun a ha => by rw [h.closed a ha]; simp
    simp only [State.samplePiece, delivers_own h, hnone]
  have hdone : s.deliverIfDone o.id = s.deliver o := by
    have hany : o.lanes.any LaneAcc.open_ = false := List.any_eq_false.mpr fun a ha => by rw [h.closed a ha]; simp
    simp only [State.deliverIfDone, delivers_own h, h.returns, h.waits, hany, Bool.not_false, Bool.and_self, if_true]
  have hsampled : s.samplePieces o.id s.arg.flag o.allPieces = s.deliver o := by
    rw [State.samplePieces, foldl_fixed _ s _ fun x _ => hclosed x, hdone]
  simp only [exec, execLoadDelivery, h.op, h.pieces, List.isEmpty_nil, if_true, h.waits, Bool.false_eq_true, if_false, hdone,
    hsampled]
  split <;> rfl

/-- The state in which the lanes that passed have been written. -/
def deliveredIn (s : State) (o : MemOp) : State := s.writeDest o (o.lanes.filter fun a => a.fault.isNone)

theorem deliveredIn_written : Written s (deliveredIn s o) t (writtenTeam o t (o.lanes.filter fun a => a.fault.isNone)) :=
  writeDest_written h _

theorem deliveredIn_weirs : (deliveredIn s o).deliveryWeirs o (o.lanes.filter fun a => a.fault.isNone) = deliveredIn s o :=
  deliveryWeirs_none h (deliveredIn_written h) (by rw [writtenTeam_eq]) _

/-- The state in which an acquire has dropped its core's load cache (R283). -/
def acquiredIn (s : State) (o : MemOp) (t : Team) : State :=
  if o.isAcquire then (deliveredIn s o).acquireAt (coreOf t.tid) o.scope else deliveredIn s o

theorem faults_of_lane {a : LaneAcc} (ha : a ∈ o.lanes) : a.faults = a.fault.toList := by
  have hnone : a.pieces.filterMap Piece.fault = [] := List.filterMap_eq_nil_iff.mpr (h.faults a ha)
  rw [LaneAcc.faults, hnone, List.append_nil]

/-- Without a fault the delivery ends the operation. -/
theorem deliver_whole (hw : whole o) : s.deliver o = (acquiredIn s o t).endOp o := by
  have hcause : ∀ a ∈ o.lanes, a.cause = 0 := fun a ha => by rw [LaneAcc.cause, (hw a ha).1]
  have hpages : ∀ ls : List LaneAcc, (∀ a ∈ ls, a ∈ o.lanes) → faultPages ls = [] := fun ls hls =>
    faultPages_none fun a ha => by rw [faults_of_lane h (hls a ha), (hw a (hls a ha)).1]; rfl
  have hdefer : ∀ v : State, v.deferErrors o = v := by
    intro v
    have hnone : (o.lanes.filter fun a => decide (8 ≤ a.cause)) = [] :=
      List.filter_eq_nil_iff.mpr fun a ha => by rw [hcause a ha]; decide
    unfold State.deferErrors
    simp only [hnone]
  have hlanes : faultPages (if s.saving o then o.lanes.filter fun a => decide (a.cause < 8) else o.lanes) = [] := by
    split
    · exact hpages _ fun a ha => (List.mem_filter.mp ha).1
    · exact hpages _ fun a ha => ha
  have hweirs := deliveredIn_weirs h
  unfold deliveredIn at hweirs
  unfold State.deliver
  simp only [h.team, hweirs, hdefer, hlanes, ite_self]
  rfl

/-- With faults an operation without an acquire leaves them waiting (R325). -/
theorem deliver_faulted (hsup : s.isSup t = false) (hsave : s.saving o = false) (hacq : o.isAcquire = false)
    (hsome : faultPages o.lanes ≠ []) : s.deliver o = (deliveredIn s o).raiseFaults o (faultPages o.lanes) := by
  have hweirs := deliveredIn_weirs h
  unfold deliveredIn at hweirs
  unfold State.deliver
  simp only [h.team, hweirs, hacq, hsave, Bool.false_eq_true, if_false]
  split
  · exact absurd ‹_› hsome
  · rename_i p ps hpages
    rw [hsup, hpages]
    rfl
end

/-! ## The end of an operation, for its team -/

theorem team?_endOp {s : State} {o : MemOp} {u : Team} (hl : launchLives s o.origin.ctx o.origin.lid)
    (hu : s.team? o.origin.tid = some u) : (s.endOp o).team? o.origin.tid = some (u.lowerCount o.flag) := by
  rw [endOp_eq hl, freePlot_frame]
  refine (State.team?_modTeam_same _ o.origin.tid (fun t => t.lowerCount o.flag) fun t ht => ?_).trans
    (congrArg (Option.map _) hu)
  rw [lowerCount_eq]
  exact ht

theorem endOp_mem {s : State} {o : MemOp} (hl : launchLives s o.origin.ctx o.origin.lid) : (s.endOp o).mem = s.mem := by
  rw [endOp_eq hl, freePlot_frame]
  rfl

theorem endOp_core {s : State} {o : MemOp} (hl : launchLives s o.origin.ctx o.origin.lid) (c : Nat) :
    (s.endOp o).core c = s.core c := by
  rw [endOp_eq hl, freePlot_frame]
  rfl

/-! ## The pages of faults (R294, R388) -/

theorem mem_addTo {k x : Nat} {l : List Nat} : x ∈ addTo k l ↔ x = k ∨ x ∈ l := by
  induction l with
  | nil => simp [addTo]
  | cons j r ih =>
    unfold addTo
    split
    · subst_vars; simp
    · split
      · simp
      · simp only [List.mem_cons, ih]
        tauto

theorem pairwise_addTo {k : Nat} {l : List Nat} (h : l.Pairwise (· < ·)) : (addTo k l).Pairwise (· < ·) := by
  induction l with
  | nil => simp [addTo]
  | cons j r ih =>
    have hj := List.pairwise_cons.mp h
    unfold addTo
    split
    · exact h
    · split
      · rename_i hlt
        exact List.pairwise_cons.mpr ⟨fun x hx => (List.mem_cons.mp hx).elim (fun e => e ▸ hlt)
          fun hr => hlt.trans (hj.1 x hr), h⟩
      · rename_i hne hnlt
        refine List.pairwise_cons.mpr ⟨fun x hx => ?_, ih hj.2⟩
        rcases mem_addTo.mp hx with rfl | hr
        · omega
        · exact hj.1 x hr

/-- The pages of some faults, ascending. -/
def pagesOf (fs : List LaneFault) : List Nat := fs.foldl (fun l f => addTo f.page l) []

theorem mem_foldl_addTo (fs : List LaneFault) (l : List Nat) (x : Nat) :
    x ∈ fs.foldl (fun l f => addTo f.page l) l ↔ x ∈ l ∨ ∃ f ∈ fs, f.page = x := by
  induction fs generalizing l with
  | nil => simp
  | cons f fs ih =>
    rw [List.foldl_cons, ih, mem_addTo]
    simp only [List.mem_cons, exists_eq_or_imp]
    tauto

theorem mem_pagesOf {fs : List LaneFault} {x : Nat} : x ∈ pagesOf fs ↔ ∃ f ∈ fs, f.page = x := by
  rw [pagesOf, mem_foldl_addTo]
  simp

theorem pairwise_pagesOf (fs : List LaneFault) : (pagesOf fs).Pairwise (· < ·) :=
  List.foldlRecOn (motive := fun l : List Nat => l.Pairwise (· < ·)) fs _ List.Pairwise.nil fun _ h _ _ => pairwise_addTo h

/-- The lanes whose fault is on a page, each with the fault it met there. -/
def lanesOn (as : List LaneAcc) (p : Nat) : List LaneAcc :=
  as.filterMap fun a => (a.faults.find? fun f => f.page == p).map fun f => { a with fault := some f }

theorem faultPages_unresolved {as : List LaneAcc} (h : ∀ a ∈ as, a.resolved = false) :
    faultPages as = (pagesOf (as.flatMap LaneAcc.faults)).map fun p => (p, lanesOn as p) := by
  have hlive : as.filter (fun a => !a.resolved) = as := List.filter_eq_self.mpr fun a ha => by rw [h a ha]; rfl
  simp only [faultPages, hlive]
  rfl

theorem map_lane_lanesOn {as : List LaneAcc} (h : ∀ a ∈ as, a.faults = a.fault.toList) (p : Nat) :
    (lanesOn as p).map LaneAcc.lane = (as.filter fun a => faultPage a == some p).map LaneAcc.lane := by
  induction as with
  | nil => rfl
  | cons a as ih =>
    have hrest := ih fun b hb => h b (List.mem_cons_of_mem _ hb)
    unfold lanesOn at hrest ⊢
    rw [List.filterMap_cons, List.filter_cons, h a List.mem_cons_self]
    cases hf : a.fault with
    | none => simpa [faultPage, hf] using hrest
    | some f =>
      by_cases hp : f.page = p
      · simpa [faultPage, hf, hp] using hrest
      · simpa [faultPage, hf, hp] using hrest

theorem mem_pagesOf_lanes {as : List LaneAcc} (h : ∀ a ∈ as, a.faults = a.fault.toList) {p : Nat} :
    p ∈ pagesOf (as.flatMap LaneAcc.faults) ↔ ∃ a ∈ as, faultPage a = some p := by
  rw [mem_pagesOf]
  constructor
  · rintro ⟨f, hf, rfl⟩
    obtain ⟨a, ha, hfa⟩ := List.mem_flatMap.mp hf
    rw [h a ha, Option.mem_toList] at hfa
    exact ⟨a, ha, by rw [faultPage, hfa]; rfl⟩
  · rintro ⟨a, ha, hp⟩
    obtain ⟨f, hf, rfl⟩ := Option.map_eq_some_iff.mp hp
    exact ⟨f, List.mem_flatMap.mpr ⟨a, ha, by rw [h a ha, hf]; simp⟩, rfl⟩

/-! ## What the team has then -/

section
variable {s : State} {o : MemOp} {t : Team} (h : Delivers s o t)
include h

omit h in
theorem acquiredIn_eq (s : State) (o : MemOp) (t : Team) : acquiredIn s o t = { deliveredIn s o with cores := (acquiredIn s o t).cores } := by
  unfold acquiredIn State.acquireAt
  split
  · split <;> rfl
  · rfl

omit h in
theorem whole_good (hw : whole o) : (o.lanes.filter fun a => a.fault.isNone) = o.lanes :=
  List.filter_eq_self.mpr fun a ha => by rw [(hw a ha).1]; rfl

/-- A whole operation's delivery, and its end. -/
theorem delivery_whole (hw : whole o) : ∃ s', exec .loadDelivery s = .next s' ∧
    s'.team? t.tid = some ((writtenTeam o t o.lanes).lowerCount o.flag) ∧ s'.op? o.id = none ∧ s'.mem = s.mem ∧
    (o.isAcquire = true → 3 ≤ o.scope → (s'.core (coreOf t.tid)).cache = []) := by
  have hwritten := deliveredIn_written h
  rw [whole_good hw] at hwritten
  have heq := acquiredIn_eq s o t
  have hlives : launchLives (acquiredIn s o t) o.origin.ctx o.origin.lid :=
    launchLives_of_launches (s := s) (by rw [heq, hwritten.frame]) h.lives
  have hteam : (acquiredIn s o t).team? o.origin.tid = some (writtenTeam o t o.lanes) := by
    rw [heq, delivers_tid h]
    exact hwritten.team
  refine ⟨_, (exec_delivers h).trans (congrArg _ (deliver_whole h hw)), delivers_tid h ▸ team?_endOp hlives hteam,
    op?_endOp hlives, ?_, fun hacq hscope => ?_⟩
  · rw [endOp_mem hlives, heq, hwritten.frame]
  · rw [endOp_core hlives]
    unfold acquiredIn State.acquireAt
    rw [if_pos hacq, if_pos hscope, core_dropCache, if_pos rfl]

omit h in
theorem scalarValue_eq (o : MemOp) (a : LaneAcc) : o.scalarValue a.bytes =
    if o.kind = .load ∧ o.format.isS = true then sext (8 * o.size) (ofBytes a.bytes) else BitVec.ofNat 64 (ofBytes a.bytes) := by
  unfold MemOp.scalarValue
  cases o.kind <;> simp [dw]

/-- The entries of a delivery with faults, one for each page. -/
def entriesOf (o : MemOp) : List Held := (faultPages o.lanes).map o.heldFor

theorem mem_entriesOf (hres : ∀ a ∈ o.lanes, a.resolved = false) {e : Held} : e ∈ entriesOf o ↔
    ∃ p, (∃ a ∈ o.lanes, faultPage a = some p) ∧ e = o.heldFor (p, lanesOn o.lanes p) := by
  rw [entriesOf, faultPages_unresolved hres]
  simp only [List.mem_map, exists_exists_and_eq_and, mem_pagesOf_lanes fun a ha => faults_of_lane h ha]
  exact exists_congr fun p => and_congr_right fun _ => eq_comm

omit h in
theorem entriesOf_pages (hres : ∀ a ∈ o.lanes, a.resolved = false) : ((entriesOf o).map Held.page).Pairwise (· < ·) := by
  have hpages : (entriesOf o).map Held.page = pagesOf (o.lanes.flatMap LaneAcc.faults) := by
    rw [entriesOf, faultPages_unresolved hres, List.map_map, List.map_map]
    exact List.map_id _
  rw [hpages]
  exact pairwise_pagesOf _

theorem entry_says (hres : ∀ a ∈ o.lanes, a.resolved = false) {e : Held} (he : e ∈ entriesOf o) :
    e.store = false ∧ e.opId = o.id ∧ e.lanes ≠ [] ∧
      e.lanes = (o.lanes.filter fun a => faultPage a == some e.page).map LaneAcc.lane := by
  obtain ⟨p, ⟨a, ha, hp⟩, rfl⟩ := (mem_entriesOf h hres).mp he
  have hlanes := map_lane_lanesOn (fun a ha => faults_of_lane h ha) p
  have hstore : (o.heldFor (p, lanesOn o.lanes p)).store = false := by
    have := h.returns
    unfold MemOp.returns at this
    unfold MemOp.heldFor
    cases hk : o.kind <;> simp_all
  refine ⟨hstore, rfl, ?_, hlanes⟩
  refine (show (o.heldFor (p, lanesOn o.lanes p)).lanes = _ from hlanes) ▸ List.ne_nil_of_mem
    (List.mem_map.mpr ⟨a, List.mem_filter.mpr ⟨ha, by simp [hp]⟩, rfl⟩)

/-- A delivery with faults: the lanes that passed are written, and the entries wait. -/
theorem delivery_faulted {c : Context} (hsup : s.isSup t = false) (hsave : s.saving o = false)
    (hc : s.ctx? o.origin.ctx = some c) (hsome : ∃ a ∈ o.lanes, a.fault ≠ none) (hres : ∀ a ∈ o.lanes, a.resolved = false)
    (hacq : o.isAcquire = false) : ∃ s', exec .loadDelivery s = .next s' ∧
    s'.team? t.tid = some (writtenTeam o t (o.lanes.filter fun a => a.fault.isNone)) ∧ s'.mem = s.mem ∧
    s'.op? o.id = some { o with delivered := true, unwritten := (entriesOf o).length } ∧
    s'.ctx? o.origin.ctx = some { c with held := c.held ++ entriesOf o } := by
  have hwritten := deliveredIn_written h
  have hpages : faultPages o.lanes ≠ [] := by
    obtain ⟨a, ha, hf⟩ := hsome
    obtain ⟨f, hf⟩ := Option.ne_none_iff_exists'.mp hf
    have hpage : f.page ∈ pagesOf (o.lanes.flatMap LaneAcc.faults) :=
      (mem_pagesOf_lanes fun a ha => faults_of_lane h ha).mpr ⟨a, ha, by rw [faultPage, hf]; rfl⟩
    rw [faultPages_unresolved hres]
    exact List.ne_nil_of_mem (List.mem_map_of_mem hpage)
  refine ⟨_, (exec_delivers h).trans (congrArg _ (deliver_faulted h hsup hsave hacq hpages)), ?_⟩
  have hop : (deliveredIn s o).op? o.id = some o := by
    have hown := delivers_own h
    rw [hwritten.frame]
    exact hown
  have hctx : (deliveredIn s o).ctx? o.origin.ctx = some c := by
    rw [hwritten.frame]
    exact hc
  have hmem : (deliveredIn s o).mem = s.mem := by rw [hwritten.frame]
  have hteam := hwritten.team
  generalize deliveredIn s o = v at hop hctx hmem hteam ⊢
  have hraise : v.raiseFaults o (faultPages o.lanes) =
      (v.modCtx o.origin.ctx fun c => { c with held := c.held ++ entriesOf o }).modOp o.id fun q =>
        { q with delivered := true, unwritten := (faultPages o.lanes).length } := by
    unfold State.raiseFaults
    rw [hacq]
    rfl
  have hlen : (faultPages o.lanes).length = (entriesOf o).length := (List.length_map _).symm
  rw [hraise, hlen]
  refine ⟨hteam, hmem, ?_, ?_⟩
  · refine (State.op?_modOp (v.modCtx o.origin.ctx fun c => { c with held := c.held ++ entriesOf o }) o.id
      (f := fun q => { q with delivered := true, unwritten := (entriesOf o).length }) fun _ => rfl).trans ?_
    exact congrArg (Option.map _) hop
  · refine (find?_updFirst (fun c : Context => c.id == o.origin.ctx) (fun c => { c with held := c.held ++ entriesOf o })
      (fun _ hc => hc) v.ctxs).trans ?_
    exact congrArg (Option.map _) hctx

end

theorem loadDeliversItsLanes : Claims.LoadDeliversItsLanes := by
  refine fun s o t h => ⟨fun hw => ?_, fun c hsup hsave hc hsome hres hvec hacq => ?_⟩
  · obtain ⟨s', hexec, hteam, hop, hmem, hcache⟩ := delivery_whole h hw
    refine ⟨s', _, hexec, hteam, hop, hmem, ?_, fun n => ?_, hcache, fun a hs hlanes => ?_, fun hs hsize hfour => ?_⟩
    · rw [lowerCount_eq, writtenTeam_eq]
    · rw [flag_lowerCount, writtenTeam_eq]
      rfl
    · have hone : writtenTeam o t o.lanes = t.setS o.dest (o.scalarValue a.bytes) := by
        unfold writtenTeam
        rw [if_pos hs, hlanes]
      rw [hone, lowerCount_eq]
      refine ⟨rfl, fun n => ?_⟩
      rw [← scalarValue_eq]
      exact Team.getS_setS t o.dest n _
    · have hvec : writtenTeam o t o.lanes = t.setLanes (destWrites o t o.lanes) := by
        unfold writtenTeam
        rw [if_neg (by simp [hs])]
      rw [hvec, lowerCount_eq]
      refine ⟨by rw [Team.setLanes_eq], fun a ha hf i hi => ?_, fun r l hr => ?_⟩
      · exact getV_delivered h.lanes hsize hfour ha hf hi
      · exact getV_undelivered hsize hfour hr
  · obtain ⟨s', hexec, hteam, hmem, hop, hctx⟩ := delivery_faulted h hsup hsave hc hsome hres hacq
    have hone : writtenTeam o t (o.lanes.filter fun a => a.fault.isNone) =
        t.setLanes (destWrites o t (o.lanes.filter fun a => a.fault.isNone)) := by
      unfold writtenTeam
      rw [if_neg (by simp [hvec])]
    refine ⟨s', _, entriesOf o, hexec, hteam, hmem, by rw [writtenTeam_eq], hop, hctx, entriesOf_pages hres,
      fun a ha g hg => ⟨_, (mem_entriesOf h hres).mpr ⟨g, ⟨a, ha, hg⟩, rfl⟩, rfl⟩, fun e he => entry_says h hres he,
      fun hsize hfour => ⟨fun a ha hnone hf i hi => ?_, fun a ha hor r => ?_⟩⟩ <;> rw [hone]
    · refine getV_delivered ?_ (fun b hb => hsize b (List.mem_filter.mp hb).1) hfour
        (List.mem_filter.mpr ⟨ha, by rw [hnone]; rfl⟩) hf hi
      exact h.lanes.sublist (List.filter_sublist.map _)
    · refine getV_undelivered (fun b hb => hsize b (List.mem_filter.mp hb).1) hfour (.inr (.inr ?_))
      rcases hor with hfault | hfrozen
      · refine .inr fun b hb hl => hfault ?_
        obtain ⟨hbl, hbn⟩ := List.mem_filter.mp hb
        obtain rfl : b = a := List.inj_on_of_nodup_map h.lanes hbl ha hl
        simpa using hbn
      · exact .inl hfrozen

/-- Settles O18: a piece's sample is what its translation, the load cache and its home give it; a delivery writes the lanes
that passed, and ends the operation or leaves an entry for each page that faulted. -/
theorem loadTakesAndDeliversItsBytes : Obligations.LoadTakesAndDeliversItsBytes :=
  ⟨loadPieceTakesItsBytes, loadDeliversItsLanes⟩

end Sys2Proof.Machine
end

section
/-! PROOFS. An atomic acts on its location lane by lane (R203 to R206, R391); O19. -/

namespace Sys2Proof.Machine

open Sys2Proof.Claims

/-! ## Lanes changed one after another -/

/-- Change lanes of an operation in turn. -/
def MemOp.modAll {β : Type} (o : MemOp) (l : β → Nat) (g : β → LaneAcc → LaneAcc) (xs : List β) : MemOp :=
  xs.foldl (fun q x => q.modLane (l x) (g x)) o

section
variable {β : Type} {l : β → Nat} {g : β → LaneAcc → LaneAcc} (hg : ∀ x a, (g x a).lane = a.lane)

theorem MemOp.modAll_frame (o : MemOp) (xs : List β) : o.modAll l g xs = { o with lanes := (o.modAll l g xs).lanes } := by
  induction xs generalizing o with
  | nil => rfl
  | cons x xs ih => exact ih (o.modLane (l x) (g x))

theorem length_updFirst {α : Type} (p : α → Bool) (f : α → α) (as : List α) : (updFirst p f as).length = as.length := by
  induction as with
  | nil => rfl
  | cons a as ih => simp only [updFirst]; split <;> simp [ih]

theorem MemOp.modAll_length (o : MemOp) (xs : List β) : (o.modAll l g xs).lanes.length = o.lanes.length := by
  induction xs generalizing o with
  | nil => rfl
  | cons x xs ih => exact (ih (o.modLane (l x) (g x))).trans (length_updFirst ..)

theorem MemOp.mem_modAll_other {o : MemOp} {b : LaneAcc} (hb : b ∈ o.lanes) {xs : List β} (hl : ∀ x ∈ xs, b.lane ≠ l x) :
    b ∈ (o.modAll l g xs).lanes := by
  induction xs generalizing o with
  | nil => exact hb
  | cons x xs ih =>
    exact ih (MemOp.mem_modLane_other hb (hl x List.mem_cons_self) _) fun y hy => hl y (List.mem_cons_of_mem _ hy)

theorem mem_updFirst_same {α : Type} {p : α → Bool} {b : α} (f : α → α) {as : List α} (h : b ∈ as)
    (hp : ∀ a ∈ as, p a = true ↔ a = b) : f b ∈ updFirst p f as := by
  induction as with
  | nil => cases h
  | cons a as ih =>
    unfold updFirst
    split
    · rename_i ha
      obtain rfl := (hp a List.mem_cons_self).mp ha
      exact List.mem_cons_self
    · rename_i ha
      rcases List.mem_cons.mp h with rfl | hr
      · exact absurd ((hp b List.mem_cons_self).mpr rfl) ha
      · exact List.mem_cons_of_mem _ (ih hr fun c hc => hp c (List.mem_cons_of_mem _ hc))

theorem MemOp.mem_modLane_same {o : MemOp} {b : LaneAcc} (hn : (o.lanes.map LaneAcc.lane).Nodup) (hb : b ∈ o.lanes)
    (f : LaneAcc → LaneAcc) : f b ∈ (o.modLane b.lane f).lanes :=
  mem_updFirst_same f hb fun a ha => by
    rw [beq_iff_eq]
    exact ⟨fun e => List.inj_on_of_nodup_map hn ha hb e, fun e => by rw [e]⟩

include hg

theorem map_lane_modLane (o : MemOp) (k : Nat) (x : β) : (o.modLane k (g x)).lanes.map LaneAcc.lane = o.lanes.map LaneAcc.lane := by
  unfold MemOp.modLane
  dsimp only
  induction o.lanes with
  | nil => rfl
  | cons a as ih => simp only [updFirst]; split <;> simp [hg, ih]

theorem MemOp.modAll_mapLane (o : MemOp) (xs : List β) : (o.modAll l g xs).lanes.map LaneAcc.lane = o.lanes.map LaneAcc.lane := by
  induction xs generalizing o with
  | nil => rfl
  | cons x xs ih => exact (ih (o.modLane (l x) (g x))).trans (map_lane_modLane hg o _ x)

/-- Of changes to different lanes, each lane shows its own. -/
theorem MemOp.mem_modAll_same {o : MemOp} {b : LaneAcc} (hn : (o.lanes.map LaneAcc.lane).Nodup) (hb : b ∈ o.lanes)
    {pre : List β} {x : β} {post : List β} (hx : l x = b.lane) (hpre : ∀ y ∈ pre, b.lane ≠ l y) (hpost : ∀ y ∈ post, b.lane ≠ l y) :
    g x b ∈ (o.modAll l g (pre ++ x :: post)).lanes := by
  have hsplit : o.modAll l g (pre ++ x :: post) = ((o.modAll l g pre).modLane (l x) (g x)).modAll l g post := by
    unfold MemOp.modAll
    rw [List.foldl_append, List.foldl_cons]
  rw [hsplit]
  refine MemOp.mem_modAll_other ?_ fun y hy => by rw [hg]; exact hpost y hy
  rw [hx]
  exact MemOp.mem_modLane_same ((MemOp.modAll_mapLane hg o pre).symm ▸ hn) (MemOp.mem_modAll_other hb hpre) (g x)
end

/-- An operation changed lane by lane in the state. -/
theorem foldl_modOp {β : Type} {s : State} {i : Nat} {o : MemOp} (ho : s.op? i = some o) (l : β → Nat)
    (g : β → LaneAcc → LaneAcc) (xs : List β) :
    (xs.foldl (fun s x => s.modOp i fun q => q.modLane (l x) (g x)) s).op? i = some (o.modAll l g xs) := by
  induction xs generalizing s o with
  | nil => exact ho
  | cons x xs ih =>
    refine ih (o := o.modLane (l x) (g x)) ?_
    rw [State.op?_modOp _ _ fun q => MemOp.modLane_id q _ _, ho]
    rfl

theorem foldl_modOp_frame {β : Type} (s : State) (i : Nat) (l : β → Nat) (g : β → LaneAcc → LaneAcc) (xs : List β) :
    xs.foldl (fun s x => s.modOp i fun q => q.modLane (l x) (g x)) s =
      { s with ops := (xs.foldl (fun s x => s.modOp i fun q => q.modLane (l x) (g x)) s).ops } := by
  induction xs generalizing s with
  | nil => rfl
  | cons x xs ih => exact ih (s.modOp i fun q => q.modLane (l x) (g x))

/-! ## The rule of an atomic (R204, R206) -/

theorem applyAtomic_eq (F : Fmt) {aop : Nat} (h : aop ≤ 7) (m x y : Nat) : applyAtomic aop F m x y = atomicRule F aop m x y := by
  interval_cases aop <;> rfl

theorem applyLane_eq {o : MemOp} (h : o.aop ≤ 7) (a : LaneAcc) (m : Nat) : o.applyLane a m = laneRule o m a := by
  unfold MemOp.applyLane laneRule
  cases o.kind <;> simp [applyAtomic_eq o.format h]

/-- What each of some lanes finds at the location, one after another. -/
def finds (o : MemOp) : Nat → List LaneAcc → List (Nat × Nat)
  | _, [] => []
  | m, a :: as => (a.lane, m) :: finds o (laneRule o m a).1 as

theorem map_fst_finds (o : MemOp) (m : Nat) (as : List LaneAcc) : (finds o m as).map Prod.fst = as.map LaneAcc.lane := by
  induction as generalizing m with
  | nil => rfl
  | cons a as ih => simp [finds, ih]

theorem afterLanes_start (o : MemOp) (m : Nat) (fl : BitVec 8) (as : List LaneAcc) :
    as.foldl (fun x a => ((laneRule o x.1 a).1, x.2 ||| (laneRule o x.1 a).2)) (m, fl) =
      ((afterLanes o m as).1, fl ||| (afterLanes o m as).2) := by
  unfold afterLanes
  induction as using List.reverseRecOn with
  | nil => simp
  | append_singleton as a ih => simp [List.foldl_append, ih, BitVec.or_assoc]

theorem afterLanes_cons (o : MemOp) (m : Nat) (a : LaneAcc) (as : List LaneAcc) :
    afterLanes o m (a :: as) = ((afterLanes o (laneRule o m a).1 as).1,
      (laneRule o m a).2 ||| (afterLanes o (laneRule o m a).1 as).2) := by
  refine (afterLanes_start o (laneRule o m a).1 (0#8 ||| (laneRule o m a).2) as).trans ?_
  rw [BitVec.zero_or]

theorem applyLanes_start {o : MemOp} (h : o.aop ≤ 7) (m : Nat) (fl : BitVec 8) (acc : List (Nat × Nat)) (as : List LaneAcc) :
    as.foldl (fun x a => ((o.applyLane a x.1).1, x.2.1 ||| (o.applyLane a x.1).2, x.2.2 ++ [(a.lane, x.1)])) (m, fl, acc) =
      ((afterLanes o m as).1, fl ||| (afterLanes o m as).2, acc ++ finds o m as) := by
  induction as generalizing m fl acc with
  | nil => simp [afterLanes, finds]
  | cons a as ih =>
    rw [List.foldl_cons, ih, afterLanes_cons, finds, applyLane_eq h, BitVec.or_assoc, List.append_assoc]
    rfl

/-- The lanes of an address one after another (R205). -/
theorem applyLanes_eq {o : MemOp} (h : o.aop ≤ 7) (as : List LaneAcc) (m : Nat) :
    applyLanes o as m = ((afterLanes o m as).1, (afterLanes o m as).2, finds o m as) := by
  refine (applyLanes_start h m 0#8 [] as).trans ?_
  rw [BitVec.zero_or, List.nil_append]

theorem finds_append (o : MemOp) (m : Nat) (pre : List LaneAcc) (b : LaneAcc) (post : List LaneAcc) :
    ∃ rest, finds o m (pre ++ b :: post) = finds o m pre ++ (b.lane, (afterLanes o m pre).1) :: rest ∧
      rest.map Prod.fst = post.map LaneAcc.lane := by
  induction pre generalizing m with
  | nil => exact ⟨_, rfl, map_fst_finds ..⟩
  | cons a pre ih =>
    obtain ⟨rest, hrest, hmap⟩ := ih (laneRule o m a).1
    refine ⟨rest, ?_, hmap⟩
    rw [List.cons_append, finds, hrest, finds, afterLanes_cons]
    rfl

/-! ## The lanes of an address have been performed -/

/-- Flags of an operation go to its team, or to its launch's summary word (R392), as `State.atomicDone` has it. -/
def flagsTo (s : State) (h : Handle) (ctx lid : Nat) (fl : BitVec 8) : State :=
  if fl = 0 then s
  else
    match s.team? h with
    | some t =>
      if t.dying.isSome then s.orFlagsum (portOf h) ctx lid h fl
      else s.modTeam h fun u => { u with fsr := u.fsr ||| fl }
    | none => s.orFlagsum (portOf h) ctx lid h fl

theorem atomicDone_eq (s : State) (o : MemOp) (r : Nat × BitVec 8 × List (Nat × Nat)) : s.atomicDone o r =
    (flagsTo (s.modOp o.id fun q => r.2.2.foldl (fun q x => q.modLane x.1 fun a =>
      { a with pieces := a.pieces.map fun p => { p with done := true }, bytes := toBytes o.size x.2 }) q)
      o.origin.tid o.origin.ctx o.origin.lid r.2.1).finishStore o.id := rfl

/-- Flags go to the FSR of a team that lives (R392). -/
theorem flagsTo_living {s : State} {h : Handle} {u : Team} (hu : s.team? h = some u) (hd : u.dying = none) (ctx lid : Nat)
    (fl : BitVec 8) : flagsTo s h ctx lid fl = { s with teams := (flagsTo s h ctx lid fl).teams } ∧
      (flagsTo s h ctx lid fl).team? h = some { u with fsr := u.fsr ||| fl } := by
  have hlives : ¬ u.dying.isSome = true := by rw [hd]; simp
  unfold flagsTo
  split
  · rename_i hzero
    refine ⟨rfl, ?_⟩
    rw [hu, hzero]
    simp
  · simp only [hu, if_neg hlives]
    exact ⟨rfl, (State.team?_modTeam_same s h (fun u => { u with fsr := u.fsr ||| fl }) fun _ ht => ht).trans
      (congrArg (Option.map _) hu)⟩

section
variable {s : State} {o : MemOp} {a : LaneAcc} {same : List LaneAcc} {t : Team} (h : Atomic s o a same t)
include h

theorem atomic_own : s.op? o.id = some o := (State.id_of_op? h.op).symm ▸ h.op

theorem atomic_tid : o.origin.tid = t.tid := (State.tid_of_team? h.team.1).symm

theorem atomic_team : s.team? t.tid = some t := atomic_tid h ▸ h.team.1

theorem atomic_nodup : (o.lanes.map LaneAcc.lane).Nodup := h.ascending.imp fun hlt => Nat.ne_of_lt hlt

theorem atomic_sublist : same.Sublist o.lanes := h.same ▸ List.filter_sublist

theorem atomic_nodup_same : (same.map LaneAcc.lane).Nodup := (atomic_nodup h).sublist ((atomic_sublist h).map _)

theorem lane_ne_of_notMem {b : LaneAcc} (hb : b ∈ o.lanes) (hs : b ∉ same) {c : LaneAcc} (hc : c ∈ same) : b.lane ≠ c.lane :=
  fun e => hs (List.inj_on_of_nodup_map (atomic_nodup h) hb ((atomic_sublist h).mem hc) e ▸ hc)

theorem exec_atomic : exec .atomicPerform s = .next (s.sendAtomic o.id s.arg.b) := by
  obtain ⟨hk, -⟩ := h.kind
  simp only [exec, execAtomicPerform, h.op]
  rcases hk with hk | hk | hk <;> rw [hk]

theorem atomic_sameAddress : o.sameAddress s.arg.b = some (a.addr, same) := by
  obtain ⟨hb, hlane⟩ := h.lane
  rw [MemOp.sameAddress, hb, hlane, h.same]
  rfl

/-- A lane at another address keeps the operation from its end (R190). -/
theorem atomic_waits {β : Type} {l : β → Nat} {g : β → LaneAcc → LaneAcc} {xs : List β}
    (hl : ∀ x ∈ xs, ∃ c ∈ same, l x = c.lane) {v : State} (hv : v.op? o.id = some (o.modAll l g xs)) : v.finishStore o.id = v := by
  obtain ⟨b, hb, hne, hopen⟩ := h.others
  have hout : b ∉ same := by
    rw [h.same]
    intro hin
    have hwhere := (List.mem_filter.mp hin).2
    rw [Bool.and_eq_true, beq_iff_eq] at hwhere
    exact hne hwhere.1
  refine finishStore_open hv (List.any_eq_true.mpr ⟨b, MemOp.mem_modAll_other hb fun x hx => ?_, hopen⟩)
  obtain ⟨c, hc, hx⟩ := hl x hx
  rw [hx]
  exact lane_ne_of_notMem h hb hout hc

/-- The operation with each lane of an address answered by what it found there. -/
def answeredOp (o : MemOp) (m : Nat) (same : List LaneAcc) : MemOp :=
  o.modAll Prod.fst (fun x a => answered o a x.2) (finds o m same)

theorem answeredOp_inOrder (m : Nat) : answeredInOrder o (answeredOp o m same) same m := by
  have hfst : ∀ xs : List (Nat × Nat), ∀ ls : List LaneAcc, xs.map Prod.fst = ls.map LaneAcc.lane →
      ∀ x ∈ xs, ∃ c ∈ ls, x.1 = c.lane := by
    intro xs ls hmap x hx
    obtain ⟨c, hc, hcx⟩ := List.mem_map.mp (hmap ▸ List.mem_map_of_mem (f := Prod.fst) hx)
    exact ⟨c, hc, hcx.symm⟩
  refine ⟨MemOp.modAll_frame o _, MemOp.modAll_length o _, fun b hb hout => ?_, fun pre b post hsplit => ?_⟩
  · refine MemOp.mem_modAll_other hb fun x hx => ?_
    obtain ⟨c, hc, hxc⟩ := hfst _ _ (map_fst_finds o m same) x hx
    rw [hxc]
    exact lane_ne_of_notMem h hb hout hc
  · obtain ⟨rest, hrest, hmap⟩ := finds_append o m pre b post
    have hn := atomic_nodup_same h
    rw [hsplit, List.map_append, List.map_cons, List.nodup_append, List.nodup_cons] at hn
    obtain ⟨-, ⟨hpost, -⟩, hpre⟩ := hn
    have hb : b ∈ o.lanes := (atomic_sublist h).mem (by rw [hsplit]; simp)
    rw [answeredOp, hsplit, hrest]
    refine MemOp.mem_modAll_same (g := fun (x : Nat × Nat) a => answered o a x.2) (fun _ _ => rfl) (atomic_nodup h) hb
      (x := (b.lane, (afterLanes o m pre).1)) rfl (fun y hy => ?_) fun y hy => ?_
    · obtain ⟨c, hc, hyc⟩ := hfst _ _ (map_fst_finds o m pre) y hy
      rw [hyc]
      exact fun e => hpre c.lane (List.mem_map_of_mem hc) b.lane List.mem_cons_self e.symm
    · obtain ⟨c, hc, hyc⟩ := hfst _ _ hmap y hy
      rw [hyc]
      exact fun e => hpost (e ▸ List.mem_map_of_mem hc)

/-- The lanes of an address are done: their operation, their team's flags, and nothing else. -/
theorem atomicDone_shows {w : State} {u : Team} (hops : w.ops = s.ops) (hu : w.team? t.tid = some u) (hd : u.dying = none)
    (x m : Nat) (fl : BitVec 8) :
    (w.atomicDone o (x, fl, finds o m same)).op? o.id = some (answeredOp o m same) ∧
      (w.atomicDone o (x, fl, finds o m same)).mem = w.mem ∧
      (w.atomicDone o (x, fl, finds o m same)).plots = w.plots ∧
      (w.atomicDone o (x, fl, finds o m same)).team? t.tid = some { u with fsr := u.fsr ||| fl } := by
  have hop : w.op? o.id = some o := by unfold State.op?; rw [hops]; exact atomic_own h
  let v := w.modOp o.id fun q => q.modAll Prod.fst (fun (x : Nat × Nat) a => answered o a x.2) (finds o m same)
  have hvop : v.op? o.id = some (answeredOp o m same) :=
    (State.op?_modOp w o.id fun q => by rw [MemOp.modAll_frame]).trans (congrArg (Option.map _) hop)
  obtain ⟨hframe, hzteam⟩ := flagsTo_living (s := v) (h := t.tid) hu hd o.origin.ctx o.origin.lid fl
  generalize hz : flagsTo v t.tid o.origin.ctx o.origin.lid fl = z at hframe hzteam
  have hzops : z.ops = v.ops := by rw [hframe]
  have hzmem : z.mem = w.mem := by rw [hframe]; rfl
  have hzplots : z.plots = w.plots := by rw [hframe]; rfl
  have hzop : z.op? o.id = some (answeredOp o m same) := by unfold State.op?; rw [hzops]; exact hvop
  have hdone : w.atomicDone o (x, fl, finds o m same) = z := by
    rw [← atomic_tid h] at hz
    refine (atomicDone_eq ..).trans ((congrArg (State.finishStore · o.id) hz).trans (atomic_waits h (fun y hy => ?_) hzop))
    obtain ⟨c, hc, hyc⟩ := List.mem_map.mp (map_fst_finds o m same ▸ List.mem_map_of_mem (f := Prod.fst) hy)
    exact ⟨c, hc, hyc.symm⟩
  rw [hdone]
  exact ⟨hzop, hzmem, hzplots, hzteam⟩

/-! ## At a physical address (R205) -/

omit h in
theorem noteTags_shows {w : State} {u : Team} {k : Handle} (hk : o.origin.tid = k) (hu : w.team? k = some u) (pa : Nat) :
    (w.noteTags o pa).ops = w.ops ∧ (w.noteTags o pa).mem = w.mem ∧
      ∃ tags, (w.noteTags o pa).team? k = some { u with readTags := tags } := by
  unfold State.noteTags
  split
  · unfold State.noteRead
    dsimp only
    split
    · exact ⟨rfl, rfl, u.readTags, hu⟩
    · subst hk
      exact ⟨rfl, rfl, _, (State.team?_modTeam_same w o.origin.tid (fun t => { t with
        readTags := t.readTags ++ w.tagsOn (lineOf pa) (coreOf o.origin.tid) }) fun _ ht => ht).trans (congrArg (Option.map _) hu)⟩
  · exact ⟨rfl, rfl, u.readTags, hu⟩

/-- State v is state s but for translations, numbers and the requests at the home slices. -/
def TurnOnly (s v : State) : Prop :=
  v = { s with cores := v.cores, fresh := v.fresh, nextId := v.nextId, reqs := v.reqs, lastServed := v.lastServed }

omit h in
theorem length_toBytes (n x : Nat) : (toBytes n x).length = n := by simp [toBytes]

/-- The state in which an atomic has written its location, and its line has been tagged (R308). -/
def atomicWritten (v : State) (o : MemOp) (pa : Nat) (bs : List Byte) : State :=
  ((((v.homeWrite pa bs).dropLine (coreOf o.origin.tid) (lineOf pa)).tagLine (lineOf pa) (coreOf o.origin.tid) o.mark).noteTags o pa)

theorem atomicWritten_shows {v : State} (hv : TurnOnly s v) (pa : Nat) (bs : List Byte) :
    (atomicWritten v o pa bs).ops = s.ops ∧ (atomicWritten v o pa bs).mem = memWrite s.mem pa bs ∧
      ∃ tags, (atomicWritten v o pa bs).team? t.tid = some { t with readTags := tags } := by
  have hteam : (v.homeWrite pa bs).team? t.tid = some t :=
    (engineLeaves_homeWriteBy h.team.2.2 v 0 false pa bs).team ((team?_of_teams (by rw [hv]) _).trans (atomic_team h))
  have hops : (v.homeWrite pa bs).ops = s.ops :=
    (show (v.homeWrite pa bs).ops = v.ops by rw [show HomeOnly v (v.homeWrite pa bs) from homeOnly_homeWriteBy ..]).trans
      (by rw [hv])
  have hmem : (v.homeWrite pa bs).mem = memWrite s.mem pa bs :=
    (State.homeWrite_mem v pa bs).trans (by rw [show v.mem = s.mem by rw [hv]])
  unfold atomicWritten
  have htag := tagLine_frame ((v.homeWrite pa bs).dropLine (coreOf o.origin.tid) (lineOf pa)) (lineOf pa) (coreOf o.origin.tid) o.mark
  generalize ((v.homeWrite pa bs).dropLine (coreOf o.origin.tid) (lineOf pa)).tagLine (lineOf pa) (coreOf o.origin.tid) o.mark = w
    at htag
  have hw : w.team? t.tid = some t := (team?_of_teams (by rw [htag]; rfl) _).trans hteam
  obtain ⟨hnops, hnmem, hnteam⟩ := noteTags_shows (atomic_tid h) hw pa
  exact ⟨hnops.trans ((by rw [htag]; rfl : w.ops = _).trans hops), hnmem.trans ((by rw [htag]; rfl : w.mem = _).trans hmem), hnteam⟩

/-- The lanes of an address performed at a physical address: each is answered, and the location holds the last result. -/
theorem atomicAt_shows {v : State} (hv : TurnOnly s v) {pa : Nat} (hclean : s.poisoned pa = false) :
    (v.atomicAt o same pa).op? o.id = some (answeredOp o (ofBytes (memRead s.mem pa o.size)) same) ∧
      (v.atomicAt o same pa).mem =
        memWrite s.mem pa (toBytes o.size (afterLanes o (ofBytes (memRead s.mem pa o.size)) same).1) ∧
      ∃ tags, (v.atomicAt o same pa).team? t.tid = some { t with
        fsr := t.fsr ||| (afterLanes o (ofBytes (memRead s.mem pa o.size)) same).2, readTags := tags } := by
  have hpoison : v.poisoned pa = false := by rw [hv]; exact hclean
  have hmem : v.mem = s.mem := by rw [hv]
  obtain ⟨hops, hwmem, tags, hteam⟩ := atomicWritten_shows h hv pa
    (toBytes o.size (afterLanes o (ofBytes (memRead s.mem pa o.size)) same).1)
  have hat : v.atomicAt o same pa = State.atomicDone
      (if o.isAcquire then (atomicWritten v o pa (toBytes o.size (afterLanes o (ofBytes (memRead s.mem pa o.size)) same).1)).acquireAt
        (coreOf o.origin.tid) o.scope
       else atomicWritten v o pa (toBytes o.size (afterLanes o (ofBytes (memRead s.mem pa o.size)) same).1)) o
      ((afterLanes o (ofBytes (memRead s.mem pa o.size)) same).1, (afterLanes o (ofBytes (memRead s.mem pa o.size)) same).2,
        finds o (ofBytes (memRead s.mem pa o.size)) same) := by
    unfold State.atomicAt
    simp only [hpoison, Bool.false_eq_true, if_false, applyLanes_eq h.kind.2, hmem]
    rfl
  rw [hat]
  generalize atomicWritten v o pa (toBytes o.size (afterLanes o (ofBytes (memRead s.mem pa o.size)) same).1) = w
    at hops hwmem hteam
  have hacq : ∀ z : State, z = (if o.isAcquire then w.acquireAt (coreOf o.origin.tid) o.scope else w) →
      z = { w with cores := z.cores } := by
    intro z hz
    rw [hz]
    unfold State.acquireAt
    split
    · split <;> rfl
    · rfl
  have hframe := hacq _ rfl
  generalize (if o.isAcquire then w.acquireAt (coreOf o.origin.tid) o.scope else w) = z at hframe
  obtain ⟨hop, hdmem, -, hdteam⟩ := atomicDone_shows h (w := z) (by rw [hframe]; exact hops)
    ((team?_of_teams (by rw [hframe]) _).trans hteam) h.team.2.1
    (afterLanes o (ofBytes (memRead s.mem pa o.size)) same).1 (ofBytes (memRead s.mem pa o.size))
    (afterLanes o (ofBytes (memRead s.mem pa o.size)) same).2
  exact ⟨hop, hdmem.trans ((by rw [hframe] : z.mem = w.mem).trans hwmem), tags, hdteam⟩

/-! ## The turn of a request (R40) -/

omit h in
theorem find?_of_all_eq {α : Type} {p : α → Bool} {r : α} {l : List α} (hl : ∀ x ∈ l, x = r) (hne : l ≠ []) (hp : p r = true) :
    l.find? p = some r := by
  cases l with
  | nil => exact absurd rfl hne
  | cons x l =>
    obtain rfl := hl x List.mem_cons_self
    rw [List.find?_cons_of_pos hp]

omit h in
/-- The only request at a slice is its next (R40). -/
theorem nextCore_only {v : State} {rs : List Req} {r : Req} (hv : v.reqs = rs ++ [r]) (hrs : ∀ x ∈ rs, x.slice ≠ r.slice)
    (hcore : r.core < 192) (hp : r.promoted = false) : v.nextCore r.slice = some r := by
  have hhead : ∀ i, (v.reqs.find? fun x => x.slice == r.slice && x.core == (spRead 0 v.lastServed r.slice + 1 + i) % 192) =
      if r.core = (spRead 0 v.lastServed r.slice + 1 + i) % 192 then some r else none := by
    intro i
    have hnone : (rs.find? fun x => x.slice == r.slice && x.core == (spRead 0 v.lastServed r.slice + 1 + i) % 192) = none :=
      List.find?_eq_none.mpr fun x hx => by simp [hrs x hx]
    rw [hv, List.find?_append, hnone, Option.none_or]
    by_cases hc : r.core = (spRead 0 v.lastServed r.slice + 1 + i) % 192 <;> simp [hc]
  unfold State.nextCore
  simp only [hhead]
  refine find?_of_all_eq (fun x hx => ?_) ?_ (by rw [hp]; rfl)
  · obtain ⟨i, -, hi⟩ := List.mem_filterMap.mp hx
    split at hi
    · exact (Option.some.inj hi).symm
    · cases hi
  · obtain ⟨i, hi, hlast⟩ : ∃ i, i < 192 ∧ r.core = (spRead 0 v.lastServed r.slice + 1 + i) % 192 :=
      ⟨(r.core + 192 - (spRead 0 v.lastServed r.slice + 1) % 192) % 192, by omega, by omega⟩
    exact List.ne_nil_of_mem (List.mem_filterMap.mpr ⟨i, List.mem_range.mpr hi, if_pos hlast⟩)

/-- A request that is its slice's next is performed. -/
theorem atomicTurn_serves {v : State} (hops : v.ops = s.ops) {r : Req} (hnext : v.nextCore r.slice = some r)
    (hgoes : v.reqPromotes r = false) : v.atomicTurn r o.id s.arg.b = (v.takeReq r).atomicAt o same r.pa := by
  have hop : (v.takeReq r).op? o.id = some o := by
    unfold State.op?
    rw [show (v.takeReq r).ops = s.ops from hops]
    exact atomic_own h
  simp only [State.atomicTurn, hnext, ne_eq, not_true_eq_false, if_false, hgoes, Bool.false_eq_true, State.serveAtomic, hop,
    atomic_sameAddress h]

omit h in
theorem mustPromote_of_tlbOnly {s v : State} (hv : TlbOnly s v) (core scope : Nat) (acq : Bool) (x : Option (Bool × Nat)) :
    v.mustPromote core scope acq x = s.mustPromote core scope acq x := by
  have htags : ∀ line c, v.tagsOn line c = s.tagsOn line c := by
    intro line c
    have hbuf : ∀ k mark, v.bufOpen k mark = s.bufOpen k mark := by
      intro k mark
      unfold State.bufOpen
      rw [hv.core k]
    have hsame : v.tags = s.tags := by rw [hv.frame]
    simp only [State.tagsOn, hbuf, hsame]
  unfold State.mustPromote
  simp only [htags]

/-- The request of an atomic for its lanes at an address (R40). -/
def atomicRequest (v : State) (o : MemOp) (addr lane pa : Nat) : Req :=
  { id := v.nextId, slice := sliceAt pa, core := coreOf o.origin.tid, tid := o.origin.tid, va := dw addr, pa
    kind := .atomic o.id lane, acquire := if o.isAcquire then some o.scope else none }

/-- The state in which that request has arrived. -/
def requested (v : State) (o : MemOp) (addr lane pa : Nat) : State :=
  { v with nextId := v.nextId + 1, reqs := v.reqs ++ [atomicRequest v o addr lane pa] }

/-- What ATOMIC_PERFORM does with an atomic that has no request yet, once it may go. -/
theorem sendAtomic_new (hseg : o.seg ≠ 1) (hnone : s.atomicReq? o same = none) (hready : s.atomicReady o a.addr = true) :
    exec .atomicPerform s = .next (s.atomicTo o same a.addr fun v pa =>
      (requested v o a.addr s.arg.b pa).atomicTurn (atomicRequest v o a.addr s.arg.b pa) o.id s.arg.b) := by
  rw [exec_atomic h]
  simp only [State.sendAtomic, atomic_own h, atomic_sameAddress h, hnone, hready, Bool.not_true, Bool.false_eq_true, if_false,
    hseg]
  rfl

/-- A new request at a home slice where no other stands, for a line that is not tagged, is performed at once. -/
theorem newRequest_performs {v : State} (hv : TlbOnly s v) {pa : Nat} (hcore : coreOf o.origin.tid < 192)
    (hreqs : ∀ r ∈ s.reqs, r.slice ≠ sliceAt pa)
    (htags : s.mustPromote (coreOf o.origin.tid) o.scope o.isAcquire (some (false, pa)) = false) :
    (requested v o a.addr s.arg.b pa).atomicTurn (atomicRequest v o a.addr s.arg.b pa) o.id s.arg.b =
      ((requested v o a.addr s.arg.b pa).takeReq (atomicRequest v o a.addr s.arg.b pa)).atomicAt o same pa := by
  have hnext : (requested v o a.addr s.arg.b pa).nextCore (atomicRequest v o a.addr s.arg.b pa).slice =
      some (atomicRequest v o a.addr s.arg.b pa) := by
    refine nextCore_only (rs := v.reqs) rfl (fun x hx => ?_) hcore rfl
    rw [show v.reqs = s.reqs by rw [hv.frame]] at hx
    exact hreqs x hx
  have hgoes : (requested v o a.addr s.arg.b pa).reqPromotes (atomicRequest v o a.addr s.arg.b pa) = false := by
    refine (show _ = v.mustPromote (coreOf o.origin.tid) ((atomicRequest v o a.addr s.arg.b pa).acquire.getD 0)
      (atomicRequest v o a.addr s.arg.b pa).acquire.isSome (some (false, pa)) from rfl).trans ?_
    rw [mustPromote_of_tlbOnly hv]
    unfold atomicRequest
    cases hacq : o.isAcquire with
    | true => simpa [hacq] using htags
    | false => simp [mustPromote_plain]
  exact atomicTurn_serves h (v := requested v o a.addr s.arg.b pa) (show v.ops = s.ops by rw [hv.frame]) hnext hgoes

/-- An atomic that is performed now is performed at its physical address, on a state that shows what the event found. -/
theorem served_performs (hseg : o.seg ≠ 1) {pa : Nat} (hs : ServedAt s o a same pa) :
    ∃ v, TurnOnly s v ∧ exec .atomicPerform s = .next (v.atomicAt o same pa) := by
  rcases hs with ⟨hnone, hready, ⟨nc, hm⟩, hmeets, herr, hplace⟩ | ⟨r, hr, rfl, hp, hnext, hgoes⟩
  · have hv := tlbOnly_fillTlb s (portOf o.origin.tid) o.origin.ctx a.addr
    have hout : s.outsideFault s.arg.hostErr (portOf o.origin.tid) o.origin.ctx a.addr pa = none := by
      unfold State.outsideFault
      rcases herr with herr | herr <;> simp [herr]
    rw [sendAtomic_new h hseg hnone hready]
    simp only [State.atomicTo, hm, hmeets, Bool.false_eq_true, if_false, hout]
    generalize s.fillTlb (portOf o.origin.tid) o.origin.ctx a.addr = v at hv
    rcases hplace with hhost | ⟨hcore, hreqs, htags⟩
    · rw [if_pos hhost]
      exact ⟨v, by unfold TurnOnly; rw [hv.frame], rfl⟩
    · split
      · exact ⟨v, by unfold TurnOnly; rw [hv.frame], rfl⟩
      · rw [newRequest_performs h hv hcore hreqs htags]
        exact ⟨_, by unfold TurnOnly requested State.takeReq; rw [hv.frame], rfl⟩
  · rw [exec_atomic h]
    simp only [State.sendAtomic, atomic_own h, atomic_sameAddress h, hr, hp, Bool.false_eq_true, if_false]
    rw [atomicTurn_serves h rfl hnext hgoes]
    exact ⟨s.takeReq r, rfl, rfl⟩

/-! ## In the scratchpad, and the faults (R282, R391) -/

theorem scratchAtomic_shows {w : Plot} (hp : s.plot? o.origin.plot = some w)
    (hclean : s.scratchPoisoned o.origin.plot a.addr o.size = false) :
    let m := ofBytes (s.readScratch o.origin.plot a.addr o.size)
    let bs := toBytes o.size (afterLanes o m same).1
    (s.scratchAtomic o same a.addr).op? o.id = some (answeredOp o m same) ∧ (s.scratchAtomic o same a.addr).mem = s.mem ∧
      (s.scratchAtomic o same a.addr).team? t.tid = some { t with fsr := t.fsr ||| (afterLanes o m same).2 } ∧
      (s.scratchAtomic o same a.addr).plot? o.origin.plot = some (w.writeScratch o.id a.addr bs) := by
  intro m bs
  have hdo : s.scratchAtomic o same a.addr = (s.writeScratch o.id o.origin.plot a.addr bs).atomicDone o
      ((afterLanes o m same).1, (afterLanes o m same).2, finds o m same) := by
    simp only [State.scratchAtomic, hclean, Bool.false_eq_true, if_false, applyLanes_eq h.kind.2]
    rfl
  obtain ⟨hop, hmem, hplots, hteam⟩ := atomicDone_shows h (w := s.writeScratch o.id o.origin.plot a.addr bs) rfl
    (show s.team? t.tid = some t from atomic_team h) h.team.2.1 (afterLanes o m same).1 m (afterLanes o m same).2
  rw [hdo]
  refine ⟨hop, hmem, hteam, ?_⟩
  unfold State.plot?
  rw [hplots]
  exact (plot?_writeScratch_same s o.id o.origin.plot a.addr bs).trans (congrArg (Option.map _) hp)

/-- Lanes that have met a fault hold it, and the rest stands. -/
theorem atomicFault_shows {v : State} (hops : v.ops = s.ops) (f : LaneFault) : ∃ o', (v.atomicFault o same f).op? o.id = some o' ∧
    (v.atomicFault o same f).mem = v.mem ∧ (v.atomicFault o same f).teams = v.teams ∧
    ∀ b ∈ o.lanes, (b ∉ same → b ∈ o'.lanes) ∧ (b ∈ same → { b with fault := some f } ∈ o'.lanes) := by
  have hop : v.op? o.id = some o := by unfold State.op?; rw [hops]; exact atomic_own h
  have hmod := foldl_modOp hop LaneAcc.lane (fun _ b => { b with fault := some f }) same
  have hframe := foldl_modOp_frame v o.id LaneAcc.lane (fun _ b => { b with fault := some f }) same
  have hwaits : v.atomicFault o same f =
      same.foldl (fun s a => s.modOp o.id fun q => q.modLane a.lane fun b => { b with fault := some f }) v :=
    atomic_waits h (fun x hx => ⟨x, hx, rfl⟩) hmod
  rw [hwaits]
  refine ⟨_, hmod, by rw [hframe], by rw [hframe], fun b hb => ⟨fun hout => ?_, fun hin => ?_⟩⟩
  · exact MemOp.mem_modAll_other hb fun x hx => lane_ne_of_notMem h hb hout hx
  · obtain ⟨pre, post, hsplit⟩ := List.append_of_mem hin
    have hn := atomic_nodup_same h
    rw [hsplit, List.map_append, List.map_cons, List.nodup_append, List.nodup_cons] at hn
    obtain ⟨-, ⟨hpost, -⟩, hpre⟩ := hn
    rw [hsplit]
    exact MemOp.mem_modAll_same (g := fun _ b => { b with fault := some f }) (fun _ _ => rfl) (atomic_nodup h) hb (x := b) rfl
      (fun y hy e => hpre y.lane (List.mem_map_of_mem hy) b.lane List.mem_cons_self e.symm)
      fun y hy e => hpost (e ▸ List.mem_map_of_mem hy)
end

/-- Settles O19: the lanes of an address act one after another at its place, where each finds what those before it left; a
fault stands in each of them. -/
theorem atomicActsOnItsLocation : Obligations.AtomicActsOnItsLocation := by
  refine fun s o a same t h => ⟨fun pa hseg hs hclean => ?_, fun w off hseg hnone hready hp hoff hclean => ?_,
    fun f hseg hnone hready hm => ?_, fun pa nc c hseg hnone hready hm hmeets herr hout => ?_⟩
  · obtain ⟨v, hv, hexec⟩ := served_performs h hseg hs
    obtain ⟨hop, hmem, tags, hteam⟩ := atomicAt_shows h hv hclean
    refine ⟨_, _, _, hexec, hop, answeredOp_inOrder h _, fun x => ?_, hteam, rfl, rfl⟩
    rw [hmem]
    exact memByte_memWrite ..
  · obtain ⟨hop, hmem, hteam, hplot⟩ := scratchAtomic_shows h hp hclean
    have hexec : exec .atomicPerform s = .next (s.scratchAtomic o same a.addr) := by
      rw [exec_atomic h]
      simp only [State.sendAtomic, atomic_own h, atomic_sameAddress h, hnone, hready, Bool.not_true, Bool.false_eq_true,
        if_false, hseg, if_true]
    refine ⟨_, _, _, hexec, hop, hmem, answeredOp_inOrder h _, hteam, hplot, fun y => ?_⟩
    rw [scratch_writeScratch hoff, length_toBytes]
  · have hv := tlbOnly_fillTlb s (portOf o.origin.tid) o.origin.ctx a.addr
    obtain ⟨o', hop, hmem, hteams, hlanes⟩ := atomicFault_shows h (v := s.fillTlb (portOf o.origin.tid) o.origin.ctx a.addr)
      (by rw [hv.frame]) { f with addr := a.addr }
    refine ⟨_, o', ?_, hop, hmem.trans (by rw [hv.frame]), hteams.trans (by rw [hv.frame]), hlanes⟩
    rw [sendAtomic_new h hseg hnone hready]
    simp only [State.atomicTo, hm]
  · have hv := tlbOnly_fillTlb s (portOf o.origin.tid) o.origin.ctx a.addr
    obtain ⟨e, he, hcause, haddr⟩ : ∃ e, s.outsideFault s.arg.hostErr (portOf o.origin.tid) o.origin.ctx a.addr pa = some e ∧
        e.cause = c ∧ e.addr = a.addr := by
      simp [State.outsideFault, herr, hout]
    obtain ⟨o', hop, hmem, hteams, hlanes⟩ := atomicFault_shows h (v := s.fillTlb (portOf o.origin.tid) o.origin.ctx a.addr)
      (by rw [hv.frame]) e
    refine ⟨_, o', e, ?_, hop, hmem.trans (by rw [hv.frame]), hteams.trans (by rw [hv.frame]), hcause, haddr, hlanes⟩
    rw [sendAtomic_new h hseg hnone hready]
    simp only [State.atomicTo, hm, hmeets, Bool.false_eq_true, if_false, he]

end Sys2Proof.Machine
end

section
/-! PROOFS. Scratchpad barriers (R209 to R211): the word, an arrival, and the end of a wait. -/

namespace Sys2Proof.Machine

open Sys2Proof.Claims

/-! ## A barrier word in a scratchpad -/

theorem memRead_memWrite (m : List Host.Cell) (pa : Nat) (bs : List Byte) : memRead (memWrite m pa bs) pa bs.length = bs := by
  refine List.ext_getElem (by simp [memRead]) fun i hi hb => ?_
  simp only [memRead, List.getElem_map, List.getElem_range, memByte_memWrite]
  rw [if_pos ⟨Nat.le_add_right _ _, Nat.add_lt_add_left hb _⟩, Nat.add_sub_cancel_left, List.getD_eq_getElem _ _ hb]

/-- The barrier word at an offset of a plot's scratchpad. -/
def plotWord (p : Plot) (off : Nat) : Nat := ofBytes (memRead p.scratch off 8)

theorem barrierWord_scratch {s : State} {k : Nat} {p : Plot} (hp : s.plot? k = some p) (off : Nat) :
    s.barrierWord (.scratch k off) = plotWord p off := by
  simp only [State.barrierWord, hp]
  rfl

theorem plotWord_lt (p : Plot) (off : Nat) : plotWord p off < 2 ^ 64 := by
  have hlt := ofBytes_lt (memRead p.scratch off 8)
  simpa [plotWord, memRead] using hlt

/-- The plot with its barrier word written. -/
def withWord (p : Plot) (off w : Nat) : Plot := p.writeScratch 0 (Config.granuleBytes * p.scratchSlot + off) (toBytes 8 w)

theorem withWord_keeps (p : Plot) (off w : Nat) :
    (withWord p off w).extent = p.extent ∧ (withWord p off w).abandoned = p.abandoned ∧ (withWord p off w).id = p.id := by
  unfold withWord Plot.writeScratch
  split <;> exact ⟨rfl, rfl, rfl⟩

/-- The offset is a place of the plot's scratchpad. -/
def inScratch (p : Plot) (off : Nat) : Prop := off < Config.granuleBytes * p.scratchGranules

theorem inScratch_withWord {p : Plot} {off : Nat} (h : inScratch p off) (w : Nat) : inScratch (withWord p off w) off := by
  have hext := (withWord_keeps p off w).1
  simp only [Plot.extent, Prod.mk.injEq] at hext
  rw [inScratch, hext.2.1]
  exact h

theorem plotWord_withWord {p : Plot} {off w : Nat} (h : inScratch p off) (hw : w < 2 ^ 64) : plotWord (withWord p off w) off = w := by
  have hoff : p.scratchOff (Config.granuleBytes * p.scratchSlot + off) = some off :=
    scratchOff_eq_some.mpr ⟨Nat.add_comm _ _, h⟩
  have hscratch : (withWord p off w).scratch = memWrite p.scratch off (toBytes 8 w) := by
    simp only [withWord, Plot.writeScratch, hoff]
    exact putBytes_eq _ p.scratch off 0
  have hread := memRead_memWrite p.scratch off (toBytes 8 w)
  rw [show (toBytes 8 w).length = 8 by simp [toBytes]] at hread
  rw [plotWord, hscratch, hread, ofBytes_toBytes]
  exact Nat.mod_eq_of_lt hw

theorem plot?_setBarrier {s : State} {k : Nat} {p : Plot} (hp : s.plot? k = some p) (off w : Nat) :
    (s.setBarrier (.scratch k off) w).plot? k = some (withWord p off w) :=
  (find?_updFirst (fun x : Plot => x.id == k) (fun q => withWord q off w)
    (fun q hq => by rw [(withWord_keeps q off w).2.2]; exact hq) s.plots).trans (congrArg (Option.map _) hp)

/-! ## The notice of a barrier (R39, R211) -/

/-- The team as a notice leaves it. -/
def notified (for_ : Park → Bool) (w : Wake) (t : Team) : Team :=
  match t.run with
  | .parked p v => { t with run := .parked p (if for_ p && v.isNone then some w else v) }
  | _ => t

theorem notified_tid (for_ : Park → Bool) (w : Wake) (t : Team) : (notified for_ w t).tid = t.tid := by
  unfold notified
  split <;> rfl

theorem notify_teams (s : State) (h : Handle) (for_ : Park → Bool) (w : Wake) :
    (s.notify h for_ w).teams = (s.modTeam h (notified for_ w)).teams := rfl

theorem team?_notify (s : State) (h k : Handle) (for_ : Park → Bool) (w : Wake) :
    (s.notify h for_ w).team? k = if k = h then (s.team? k).map (notified for_ w) else s.team? k := by
  refine (team?_of_teams (notify_teams s h for_ w) k).trans ?_
  split
  · rename_i hk
    subst hk
    exact State.team?_modTeam_same s k _ fun t ht => (notified_tid for_ w t).trans ht
  · rename_i hk
    exact State.team?_modTeam_ne s _ hk fun t ht => (notified_tid for_ w t).trans ht

section
variable {for_ : Park → Bool} {w : Wake} {u : Team} {p : Park}

theorem notified_waiting (hu : u.run = .parked p none) (hp : for_ p = true) :
    notified for_ w u = { u with run := .parked p (some w) } := by
  unfold notified
  conv_lhs => simp only [hu]
  simp [hp]

theorem notified_woken {v : Wake} (hu : u.run = .parked p (some v)) : notified for_ w u = u := by
  unfold notified
  rw [hu]
  cases u
  simp_all

theorem foldNotify_woken {v : Wake} (hu : u.run = .parked p (some v)) (hs : List Handle) {s : State}
    (h : s.team? u.tid = some u) : (hs.foldl (fun s k => s.notify k for_ w) s).team? u.tid = some u :=
  List.foldlRecOn (motive := fun (s : State) => s.team? u.tid = some u) hs _ h fun s h k _ => by
    rw [team?_notify, h, Option.map_some, notified_woken hu, ite_self]

/-- Of notices to some teams, a team among them that waits for it gets its wake. -/
theorem foldNotify_wakes (hu : u.run = .parked p none) (hp : for_ p = true) : ∀ (hs : List Handle) {s : State},
    s.team? u.tid = some u → u.tid ∈ hs →
    (hs.foldl (fun s k => s.notify k for_ w) s).team? u.tid = some { u with run := .parked p (some w) }
  | [], _, _, hin => by cases hin
  | k :: hs, s, h, hin => by
    rw [List.foldl_cons]
    have hstep := team?_notify s k u.tid for_ w
    by_cases hk : u.tid = k
    · rw [if_pos hk, h, Option.map_some, notified_waiting hu hp] at hstep
      exact foldNotify_woken (u := { u with run := .parked p (some w) }) rfl hs hstep
    · rw [if_neg hk, h] at hstep
      exact foldNotify_wakes hu hp hs hstep ((List.mem_cons.mp hin).resolve_left hk)
end

theorem mem_tids_of_team? {s : State} {u : Team} (h : s.team? u.tid = some u) : u.tid ∈ s.teams.map Team.tid :=
  List.mem_map_of_mem (List.mem_of_find?_eq_some h)

/-! ## An arrival (R211) -/

/-- State w is state s with a team as u, and the barrier word of a plot as x: waiters aside, whose wakes may have come. -/
structure WordIs (s w : State) (u : Team) (k off : Nat) (p : Plot) (x : Nat) : Prop where
  beside : Beside u s w
  plot : ∃ q, w.plot? k = some q ∧ plotWord q off = x ∧ q.extent = p.extent ∧ q.abandoned = p.abandoned ∧ inScratch q off

/-- A park that waits at the word of a barrier. -/
def Barrier.waitedBy (b : Barrier) : Park → Bool
  | .barrier l _ _ _ => l == b.loc
  | _ => false

section
variable {s : State} {b : Barrier} {k off w : Nat} {p : Plot} (hloc : b.loc = .scratch k off) (hp : s.plot? k = some p)
  (hw : plotWord p off = w)
include hloc hp hw

theorem completePlot_waits (hc : ¬ (0 < expectedOf s b w ∧ expectedOf s b w ≤ w / 2 ^ 16 % 2 ^ 16)) :
    s.completeBarrier b = s := by
  have hword : s.barrierWord b.loc = w := by rw [hloc, barrierWord_scratch hp, hw]
  simp only [State.completeBarrier, hword]
  exact if_pos ((completeTest_iff s b w).mpr hc)

/-- The word of a phase that has completed: no arrivals, and the next phase. -/
def nextPhase (w : Nat) : Nat := w / 2 ^ 32 * 2 ^ 32 + (w + 1) % 2 ^ 16

/-- The state in which the word of a completed phase has advanced, before the wakes. -/
def phaseAdvanced (s : State) (b : Barrier) (w : Nat) : State :=
  { s.setBarrier b.loc (nextPhase w) with
    barriers := (s.setBarrier b.loc (nextPhase w)).barriers.filter fun x => !(x.loc == b.loc) }

theorem completePlot_eq (hc : 0 < expectedOf s b w ∧ expectedOf s b w ≤ w / 2 ^ 16 % 2 ^ 16) :
    s.completeBarrier b = ((phaseAdvanced s b w).teams.map Team.tid).foldl (fun s h =>
      s.notify h b.waitedBy (.barrier false)) (phaseAdvanced s b w) := by
  have hword : s.barrierWord b.loc = w := by rw [hloc, barrierWord_scratch hp, hw]
  simp only [State.completeBarrier, hword]
  rw [if_neg fun h => (completeTest_iff s b w).mp h hc, advanced_word]
  rfl

/-- Every waiter's wake comes with the phase (R211). -/
theorem completePlot_wakes (hc : 0 < expectedOf s b w ∧ expectedOf s b w ≤ w / 2 ^ 16 % 2 ^ 16) {u : Team} {va : Dword}
    {sd : Option (BitVec 7)} {sc : Nat} (hu : s.team? u.tid = some u) (hr : u.run = .parked (.barrier b.loc va sd sc) none) :
    (s.completeBarrier b).team? u.tid = some { u with run := .parked (.barrier b.loc va sd sc) (some (.barrier false)) } := by
  have hteams : (phaseAdvanced s b w).teams = s.teams := by unfold phaseAdvanced; rw [hloc]; rfl
  have hu' : (phaseAdvanced s b w).team? u.tid = some u := (team?_of_teams hteams _).trans hu
  rw [completePlot_eq hloc hp hw hc]
  exact foldNotify_wakes hr (show b.waitedBy (.barrier b.loc va sd sc) = true from beq_self_eq_true b.loc) _ hu'
    (mem_tids_of_team? hu')

theorem completePlot_advances (hin : inScratch p off) {t : Team} (hr : t.run = .active)
    (hc : 0 < expectedOf s b w ∧ expectedOf s b w ≤ w / 2 ^ 16 % 2 ^ 16) :
    WordIs s (s.completeBarrier b) t k off p (nextPhase w) := by
  have hplot := plot?_setBarrier hp off (nextPhase w)
  have hkeeps := withWord_keeps p off (nextPhase w)
  have hlt : nextPhase w < 2 ^ 64 := by
    have := plotWord_lt p off
    unfold nextPhase
    omega
  rw [completePlot_eq hloc hp hw hc]
  refine ⟨?_, withWord p off (nextPhase w), ?_, plotWord_withWord hin hlt, hkeeps.1, hkeeps.2.1, inScratch_withWord hin _⟩
  · have hset : Beside t s (phaseAdvanced s b w) := by
      unfold phaseAdvanced
      rw [hloc]
      exact .of_eq rfl rfl rfl rfl rfl
    exact hset.trans (Beside.fold (fun s h => beside_notify hr s h _ _) _ _)
  · have hplots : ∀ (hs : List Handle) (v : State), (hs.foldl (fun s h => s.notify h
        b.waitedBy (.barrier false)) v).plots = v.plots := by
      intro hs v
      induction hs generalizing v with
      | nil => rfl
      | cons h hs ih => rw [List.foldl_cons, ih]; rfl
    unfold State.plot?
    rw [hplots]
    rw [← hplot, ← hloc]
    rfl
end

/-- The record that an arrival at a plot's word leaves. -/
def plotArrival (k off w : Nat) (va : Dword) : Arrival := { loc := .scratch k off, va, phase := w % 2 ^ 16 }

/-- The team with the record of its arrival at a word of its plot. -/
def arrivedAtPlot (t : Team) (k off : Nat) (p : Plot) (va : Dword) : Team := t.withArrival (plotArrival k off (plotWord p off) va)

/-- The state in which an arrival is recorded and counted, its barrier noted, and no phase advanced. -/
def State.countPlotArrival (s : State) (u : Team) (b : Barrier) (w : Nat) : State :=
  let s2 := (s.setTeam u).setBarrier b.loc (countedWord w)
  { s2 with barriers := b :: s2.barriers.filter fun x => !(x.loc == b.loc) }

theorem arrivePlot_eq {s : State} {t : Team} (ht : s.team? t.tid = some t) {k off w : Nat} (hw : s.barrierWord (.scratch k off) = w)
    (va : Dword) {b : Barrier} (hb : b = { loc := .scratch k off, ctx := t.ctx, lid := t.lid, plot := t.plot }) :
    s.arriveBarrier t (.scratch k off) va =
      (s.countPlotArrival (t.withArrival (plotArrival k off w va)) b w).completeBarrier b := by
  have hput : s.modTeam t.tid (fun v => v.withArrival (plotArrival k off w va)) =
      s.setTeam (t.withArrival (plotArrival k off w va)) := modTeam_eq_setTeam ht rfl
  subst hb
  rw [State.countPlotArrival, ← hput, countedWord, ← arrived_word, ← hw]
  rfl

theorem beside_countPlotArrival (u : Team) (s : State) {b : Barrier} {k off : Nat} (hloc : b.loc = .scratch k off) (w : Nat) :
    Beside u (s.setTeam u) (s.countPlotArrival u b w) := by
  unfold State.countPlotArrival
  rw [hloc]
  exact .of_eq rfl rfl rfl rfl rfl

theorem expectedOf_plot {s v : State} {b : Barrier} {k off w w' : Nat} {p q : Plot} (hloc : b.loc = .scratch k off)
    (hp : s.plot? k = some p) (hq : v.plot? k = some q) (he : q.extent = p.extent) (hw : w' / 2 ^ 32 = w / 2 ^ 32) :
    expectedOf v b w' = expectedOf s b w := by
  simp only [Plot.extent, Prod.mk.injEq] at he
  simp only [expectedOf, State.parties, hloc, hp, hq, hw, he]

/-- State v is state s after an active team's arrival at a word of its plot: waiters, whose wakes may have come, aside. -/
structure PlotArrived (s v : State) (t : Team) (k off : Nat) (p : Plot) (va : Dword) (b : Barrier) : Prop where
  word : WordIs (s.setTeam (arrivedAtPlot t k off p va)) v (arrivedAtPlot t k off p va) k off p
    (arriveWord s b (plotWord p off))
  wakes : completes s b (plotWord p off) → ∀ u va' sd sc, s.team? u.tid = some u → u.tid ≠ t.tid →
    u.run = .parked (.barrier b.loc va' sd sc) none →
    v.team? u.tid = some { u with run := .parked (.barrier b.loc va' sd sc) (some (.barrier false)) }

theorem plotArrived_arriveBarrier {s : State} {t : Team} {k off : Nat} {p : Plot} (ht : s.team? t.tid = some t)
    (hr : t.run = .active) (hp : s.plot? k = some p) (hin : inScratch p off) (va : Dword) {b : Barrier}
    (hb : b = { loc := .scratch k off, ctx := t.ctx, lid := t.lid, plot := t.plot }) :
    PlotArrived s (s.arriveBarrier t (.scratch k off) va) t k off p va b := by
  rw [arrivePlot_eq ht (barrierWord_scratch hp off) va hb]
  have hloc : b.loc = .scratch k off := hb ▸ rfl
  have hur : (arrivedAtPlot t k off p va).run = .active := hr
  change PlotArrived s ((s.countPlotArrival (arrivedAtPlot t k off p va) b (plotWord p off)).completeBarrier b) t k off p va b
  have hc := beside_countPlotArrival (arrivedAtPlot t k off p va) s hloc (plotWord p off)
  have hplot : (s.countPlotArrival (arrivedAtPlot t k off p va) b (plotWord p off)).plot? k = some (withWord p off (countedWord (plotWord p off))) := by
    rw [State.countPlotArrival, hloc]
    exact plot?_setBarrier (s := s.setTeam (arrivedAtPlot t k off p va)) hp off _
  have hothers : ∀ x : Team, s.team? x.tid = some x → x.tid ≠ t.tid →
      (s.countPlotArrival (arrivedAtPlot t k off p va) b (plotWord p off)).team? x.tid = some x := by
    intro x hx hne
    rw [State.countPlotArrival, hloc]
    exact (State.team?_setTeam_ne s (arrivedAtPlot t k off p va) hne).trans hx
  generalize s.countPlotArrival (arrivedAtPlot t k off p va) b (plotWord p off) = v at hc hplot hothers ⊢
  have hkeeps := withWord_keeps p off (countedWord (plotWord p off))
  have hword := plotWord_withWord hin (countedWord_lt (plotWord_lt p off))
  have hin' := inScratch_withWord hin (countedWord (plotWord p off))
  generalize withWord p off (countedWord (plotWord p off)) = q at hplot hkeeps hword hin'
  have hcompletes : (0 < expectedOf v b (countedWord (plotWord p off)) ∧
      expectedOf v b (countedWord (plotWord p off)) ≤ countedWord (plotWord p off) / 2 ^ 16 % 2 ^ 16) ↔
      completes s b (plotWord p off) := by
    rw [expectedOf_plot hloc hp hplot hkeeps.1 (countedWord_high _), countedWord_count]; rfl
  by_cases hd : completes s b (plotWord p off)
  · obtain ⟨hbeside, q', hq', hx, he, hab, hqin⟩ := completePlot_advances hloc hplot hword hin' hur (hcompletes.mpr hd)
    refine ⟨⟨hc.trans hbeside, q', hq', hx.trans ?_, he.trans hkeeps.1, hab.trans hkeeps.2.1, hqin⟩, fun _ x va' sd sc hx hne hrun =>
      completePlot_wakes hloc hplot hword (hcompletes.mpr hd) (hothers x hx hne) hrun⟩
    have hphase : (countedWord (plotWord p off) + 1) % 2 ^ 16 = (plotWord p off % 2 ^ 16 + 1) % 2 ^ 16 := by
      have := countedWord_phase (plotWord p off)
      omega
    rw [nextPhase, countedWord_high, hphase, arriveWord, if_pos hd]
  · rw [completePlot_waits hloc hplot hword fun h => hd (hcompletes.mp h)]
    refine ⟨⟨hc, q, hplot, hword.trans ?_, hkeeps.1, hkeeps.2.1, hin'⟩, fun h => absurd h hd⟩
    rw [arriveWord, if_neg hd, countedWord, Nat.add_assoc]

/-! ## The end of a wait, from any state of its team (R211) -/

/-- The team without its record for a word. -/
def Team.withoutArrival (t : Team) (l : BarLoc) : Team := { t with arrivals := t.arrivals.filter fun x => !(x.loc == l) }

theorem quiet_withoutArrival {t : Team} (h : Quiet t) (l : BarLoc) : Quiet (t.withoutArrival l) :=
  ⟨h.late, h.stepping, h.stays, h.yields⟩

/-- A trap of a quiet team is reported as its context's newest delivery, in whatever state it stands. -/
theorem trap_trapsAs_quiet {s : State} {t u : Team} (ht : s.team? t.tid = some u) (hq : Quiet t) (hsup : s.isSup t = false)
    (cause : Nat) (info : Dword) : trapsAs s (s.trap t cause 0 info 0) t cause info := by
  rw [trap_posts hsup, haltedNow_eq_trapped, Team.endStep_quiet (t := trapped t) hq.stepping]
  refine ⟨State.team?_setTeam (trapped t) ht, fun c hc => ⟨_, (ctx?_post _ _ _).trans (congrArg (Option.map _) hc), rfl⟩⟩

/-- What the end of a wait comes to: the record goes, and the team with its status, or by its trap. -/
theorem endWait_ends {s : State} {t u : Team} (ht : s.team? t.tid = some u) (hq : Quiet t) (hsup : s.isSup t = false)
    (l : BarLoc) (va : Dword) (sd : Option (BitVec 7)) (scope : Nat) (ab : Bool) :
    waitOver s (s.endWait t l va sd scope ab) t (t.withoutArrival l) va (sd.map BitVec.toNat) ab ∧
      (s.endWait t l va sd scope ab).mem = s.mem ∧ (s.endWait t l va sd scope ab).plots = s.plots := by
  have hqw := quiet_withoutArrival hq l
  have hend : s.endWait t l va sd scope ab = match sd with
      | some d => (s.acquireAt (coreOf t.tid) scope).retireS (t.withoutArrival l) [(d, if ab then 1 else 0)]
      | none => if ab then (s.acquireAt (coreOf t.tid) scope).trap (t.withoutArrival l) 0x18 0 va 0
          else (s.acquireAt (coreOf t.tid) scope).retire (t.withoutArrival l) := rfl
  have hacq : ∃ cs, s.acquireAt (coreOf t.tid) scope = { s with cores := cs } := by
    unfold State.acquireAt
    split
    · exact ⟨_, rfl⟩
    · exact ⟨s.cores, rfl⟩
  obtain ⟨cs, hcs⟩ := hacq
  rw [hend, hcs]
  have ht1 : ({ s with cores := cs } : State).team? t.tid = some u := ht
  have hsup1 : ({ s with cores := cs } : State).isSup (t.withoutArrival l) = false := hsup
  cases sd with
  | some d =>
    simp only [retireS_quiet hqw]
    refine ⟨?_, rfl, rfl⟩
    refine Eq.trans (team?_setTeam_at (h := t.tid) ((team?_of_teams (s := s) rfl _).trans ht1) (Team.gone_tid _)) ?_
    exact congrArg some (Team.gone_setS (t.withoutArrival l) d.toNat _)
  | none =>
    cases ab with
    | false =>
      simp only [Bool.false_eq_true, if_false, retire_of_quiet _ hqw]
      exact ⟨team?_setTeam_at ht1 (Team.gone_tid _), rfl, rfl⟩
    | true =>
      refine ⟨⟨rfl, trap_trapsAs_quiet (t := t.withoutArrival l) ht1 hqw hsup1 _ _⟩, ?_⟩
      simp only [if_true, trap_posts hsup1]
      exact ⟨rfl, rfl⟩

end Sys2Proof.Machine
end

section
/-! PROOFS. BARV, BARW and the end of a park (R39, R209 to R211); O23. -/

namespace Sys2Proof.Machine

open Sys2Proof.Claims

/-! ## A wait at a word of a plot (R211) -/

section
variable {s : State} {u : Team} {k off : Nat} {p : Plot} {a : Arrival} (hu : s.team? u.tid = some u) (hq : Quiet u)
  (hp : s.plot? k = some p) (ha : u.arrival? (.scratch k off) = some a)
include hu hq hp ha

/-- A phase that has moved on, or abandoned parties, end the wait. -/
theorem waitPlot_ends (hsup : s.isSup u = false) (h : a.phase ≠ plotWord p off % 2 ^ 16 ∨ p.abandoned = true) (va : Dword)
    (sd : Option (BitVec 7)) (sc : Nat) :
    waitOver s (s.waitBarrier u.tid (.scratch k off) va sd sc) u (u.withoutArrival (.scratch k off)) va (sd.map BitVec.toNat)
        p.abandoned ∧
      (s.waitBarrier u.tid (.scratch k off) va sd sc).mem = s.mem ∧
      (s.waitBarrier u.tid (.scratch k off) va sd sc).plots = s.plots := by
  have hab : s.partiesAbandoned u (.scratch k off) = p.abandoned := by simp only [State.partiesAbandoned, hp]
  have hover : s.waitBarrier u.tid (.scratch k off) va sd sc = s.endWait u (.scratch k off) va sd sc p.abandoned := by
    simp only [State.waitBarrier, hu, ha, barrierWord_scratch hp, hab]
    by_cases hm : a.phase ≠ plotWord p off % 2 ^ 16
    · exact if_pos (decide_eq_true hm)
    · rw [h.resolve_left hm]
      exact (if_neg (Bool.eq_false_iff.mp (decide_eq_false hm))).trans (if_pos rfl)
  rw [hover]
  exact endWait_ends hu hq hsup _ va sd sc _

/-- Else the team parks. -/
theorem waitPlot_parks (hm : a.phase = plotWord p off % 2 ^ 16) (h : p.abandoned = false) (va : Dword)
    (sd : Option (BitVec 7)) (sc : Nat) :
    s.waitBarrier u.tid (.scratch k off) va sd sc = s.setTeam (parkedAt u (.scratch k off) va sd sc) := by
  have hab : s.partiesAbandoned u (.scratch k off) = false := by simp only [State.partiesAbandoned, hp, h]
  simp only [State.waitBarrier, hu, ha, barrierWord_scratch hp, hab, hm, ne_eq, not_true_eq_false, decide_false,
    Bool.false_eq_true, if_false, State.catchUp_same hu rfl, park_quiet hq]
  rfl
end

/-! ## The instruction (R209, R210) -/

theorem barScope_one (f : VFields) : barScope 1 f = barrierScope 1 f := by
  simp only [barScope, syncScope, barrierScope]
  split <;> simp

theorem toNat_waitReg (f : VFields) : ((waitReg f).map (BitVec.ofNat 7)).map BitVec.toNat = waitReg f := by
  unfold waitReg dReg
  split
  · simp
  · rfl

/-- The instruction arrives: BARV, and a BARW without a record for the word (R211). -/
def barrierArrives (wait : Bool) (t : Team) (va : Dword) : Bool := !wait || !t.arrivedAt true va

/-- What the instruction does at its word, its checks made (R211). -/
def atBarrierWord (s : State) (t : Team) (wait : Bool) (l : BarLoc) (va : Dword) (sd : Option (BitVec 7)) (sc : Nat) : State :=
  if barrierArrives wait t va && (t.arrivedAt true va || decide (4 ≤ t.arrivals.length)) then s.trap t 0x03 0 0 0
  else
    let v := if barrierArrives wait t va then s.arriveBarrier t l va else s
    if wait then v.waitBarrier t.tid l va sd sc
    else
      match v.team? t.tid with
      | some u => v.retire u
      | none => v

section
variable {s : State} {t : Team} {op : Nat} {f : VFields} {p : Plot} {off : Nat} (h : AtBarrier s t op f p off)
include h

theorem inScratch_of_atBarrier : inScratch p off := (scratchOff_eq_some.mp h.place.1).2

theorem scratchBarrier_at (wait : Bool)
    (hr : barrierArrives wait t (syncAddr f t 1) = true → s.releaseReady t (barrierScope 1 f) = true) :
    scratchBarrier op wait f s = .next (atBarrierWord s t wait (.scratch t.plot off) (syncAddr f t 1)
      ((waitReg f).map (BitVec.ofNat 7)) (barrierScope 1 f)) := by
  have hp := (poised_iff s t).mp h.poised
  have hfault : t.acquireFault.isSome = false := by rw [h.noFault]; rfl
  have hready : (barrierArrives wait t (syncAddr f t 1) && !s.releaseReady t (barrierScope 1 f)) = false := by
    cases ha : barrierArrives wait t (syncAddr f t 1)
    · rfl
    · rw [hr ha]; rfl
  have hlimit : limitTrap t 1 8 [(0, syncOff f t)] = none := by simp [limitTrap, limitOk, h.inside.1]
  have halign : alignTrap t 1 8 [(0, syncOff f t)] = none := by
    have : (segAddr t 1 (syncOff f t)).toNat % 8 = 0 := h.inside.2
    simp [alignTrap, this]
  have hoff : (syncAddr f t 1).toNat - Config.granuleBytes * p.scratchSlot = off := by
    have := (scratchOff_eq_some.mp h.place.1).1
    omega
  rw [scratchBarrier, issueV_passes hp _ _ _ h.checks]
  simp only [hfault, Bool.false_eq_true, if_false, segAddr_eq, barScope_one]
  refine congrArg Host.Outcome.next ((if_neg (Bool.eq_false_iff.mp hready)).trans ?_)
  rw [underWeirs_off hp.weirs hp.mark hp.here rfl]
  simp only [scalarOff_eq, hlimit, halign, Option.or_none, h.clean, Bool.false_eq_true, if_false, h.plot, hoff,
    setTeam_same hp.here, barStatus_eq]
  rfl
end

/-! ## BARV (R211) -/

section
variable {s : State} {t : Team} {op : Nat} {f : VFields} {p : Plot} {off : Nat} {va : Dword}

/-- A team that may arrive has no record for the word. -/
theorem arrivedAt_of_mayArrive {l : BarLoc} (hm : mayArrive s t f va l) : t.arrivedAt true va = false := by
  simp only [Team.arrivedAt, List.any_eq_false, Bool.and_eq_true, beq_iff_eq, not_and, Bool.not_eq_true]
  exact fun a ha => (hm.2.1 a ha).1

theorem atBarrierWord_arrives {l : BarLoc} (hm : mayArrive s t f va l) (wait : Bool) (sd : Option (BitVec 7)) (sc : Nat) :
    atBarrierWord s t wait l va sd sc =
      if wait then (s.arriveBarrier t l va).waitBarrier t.tid l va sd sc
      else match (s.arriveBarrier t l va).team? t.tid with
        | some u => (s.arriveBarrier t l va).retire u
        | none => s.arriveBarrier t l va := by
  have hnone := arrivedAt_of_mayArrive hm
  have hroom := hm.2.2
  have harrives : barrierArrives wait t va = true := by simp [barrierArrives, hnone]
  simp only [atBarrierWord, harrives, hnone, Bool.false_or, Bool.true_and, decide_eq_true_eq, if_true]
  rw [if_neg (by omega)]

theorem PlotArrived.team {k : Nat} {v : State} {b : Barrier} (ha : PlotArrived s v t k off p va b)
    (ht : s.team? t.tid = some t) : v.team? t.tid = some (arrivedAtPlot t k off p va) :=
  ha.word.beside.team (team?_setTeam_at ht rfl)

theorem PlotArrived.barrierWord {k : Nat} {v : State} {b : Barrier} (ha : PlotArrived s v t k off p va b) :
    v.barrierWord (.scratch k off) = arriveWord s b (plotWord p off) := by
  obtain ⟨q, hq, hx, -⟩ := ha.word.plot
  rw [barrierWord_scratch hq, hx]

/-- The arrival keeps memory, and BARV's team goes on with its record. -/
theorem barv_arrives (h : AtBarrier s t 0x184 f p off) (hm : mayArrive s t f (syncAddr f t 1) (.scratch t.plot off)) {b : Barrier}
    (hb : b = { loc := .scratch t.plot off, ctx := t.ctx, lid := t.lid, plot := t.plot }) :
    ∃ s', exec (.barv f) s = .next s' ∧ s'.mem = s.mem ∧
      s'.barrierWord (.scratch t.plot off) = arriveWord s b (plotWord p off) ∧
      s'.team? t.tid = some { t.gone with
        arrivals := t.arrivals ++ [plotArrival t.plot off (plotWord p off) (syncAddr f t 1)] } ∧
      (completes s b (plotWord p off) → ∀ u va sd sc, s.team? u.tid = some u → u.tid ≠ t.tid →
        u.run = .parked (.barrier b.loc va sd sc) none →
        s'.team? u.tid = some { u with run := .parked (.barrier b.loc va sd sc) (some (.barrier false)) }) := by
  have hp := (poised_iff s t).mp h.poised
  have ha := plotArrived_arriveBarrier hp.here hp.run h.plot (inScratch_of_atBarrier h) (syncAddr f t 1) hb
  refine ⟨_, scratchBarrier_at h false fun _ => hm.1, ?_⟩
  rw [atBarrierWord_arrives hm]
  simp only [Bool.false_eq_true, if_false, ha.team hp.here]
  have hqa : Quiet (arrivedAtPlot t t.plot off p (syncAddr f t 1)) :=
    ⟨hp.quiet.late, hp.quiet.stepping, hp.quiet.stays, hp.quiet.yields⟩
  rw [retire_of_quiet _ hqa]
  refine ⟨ha.word.beside.mem, ha.barrierWord, ?_, fun hc u va' sd sc hu hne hrun => ?_⟩
  · rw [← Team.gone_withArrival]
    exact team?_setTeam_at (ha.team hp.here) (Team.gone_tid _)
  · refine (State.team?_setTeam_ne _ _ ?_).trans (ha.wakes hc u va' sd sc hu hne hrun)
    exact fun he => hne (he.trans (Team.gone_tid _))

/-- A fifth record, or a second for one word, traps. -/
theorem barv_traps (h : AtBarrier s t 0x184 f p off) (hr : s.releaseReady t (barrierScope 1 f) = true)
    (hbad : t.arrivals.length = 4 ∨ ∃ a ∈ t.arrivals, a.va = syncAddr f t 1 ∧ a.loc.isScratch = true) :
    exec (.barv f) s = .next (s.trap t 0x03 0 0 0) := by
  refine (scratchBarrier_at h false fun _ => hr).trans (congrArg _ (if_pos ?_))
  have htest : (t.arrivedAt true (syncAddr f t 1) || decide (4 ≤ t.arrivals.length)) = true := by
    rcases hbad with hlen | ⟨a, hin, hva, hsc⟩
    · simp [hlen]
    · have : t.arrivedAt true (syncAddr f t 1) = true := List.any_eq_true.mpr ⟨a, hin, by simp [hva, hsc]⟩
      simp [this]
  rw [htest]
  rfl

/-! ## BARW (R211) -/

theorem withoutArrival_arrivedAtPlot {k : Nat} (hnew : ∀ x ∈ t.arrivals, x.loc ≠ .scratch k off) :
    (arrivedAtPlot t k off p va).withoutArrival (.scratch k off) = t := by
  have hkeep : t.arrivals.filter (fun x => !(x.loc == BarLoc.scratch k off)) = t.arrivals :=
    List.filter_eq_self.mpr fun x hx => by simp [hnew x hx]
  simp [Team.withoutArrival, arrivedAtPlot, Team.withArrival, plotArrival, List.filter_append, hkeep]

section
variable (h : AtBarrier s t 0x185 f p off) (hsup : s.isSup t = false)
include h hsup

/-- BARW without a record arrives first, and then waits with the record it has made. -/
theorem barw_arrives (hm : mayArrive s t f (syncAddr f t 1) (.scratch t.plot off)) {b : Barrier}
    (hb : b = { loc := .scratch t.plot off, ctx := t.ctx, lid := t.lid, plot := t.plot }) :
    ∃ s', exec (.barw f) s = .next s' ∧ s'.barrierWord (.scratch t.plot off) = arriveWord s b (plotWord p off) ∧
      ((completes s b (plotWord p off) ∨ p.abandoned = true) →
        waitOver s s' t t (syncAddr f t 1) (waitReg f) p.abandoned) ∧
      (¬ completes s b (plotWord p off) → p.abandoned = false → s'.team? t.tid = some
        (parkedAt (arrivedAtPlot t t.plot off p (syncAddr f t 1)) (.scratch t.plot off) (syncAddr f t 1)
          ((waitReg f).map (BitVec.ofNat 7)) (barrierScope 1 f))) := by
  have hp := (poised_iff s t).mp h.poised
  have hnew : ∀ x ∈ t.arrivals, x.loc ≠ .scratch t.plot off := fun x hx => (hm.2.1 x hx).2
  have ha := plotArrived_arriveBarrier hp.here hp.run h.plot (inScratch_of_atBarrier h) (syncAddr f t 1) hb
  have hteam := ha.team hp.here
  have hword := ha.barrierWord
  have hqa : Quiet (arrivedAtPlot t t.plot off p (syncAddr f t 1)) :=
    ⟨hp.quiet.late, hp.quiet.stepping, hp.quiet.stays, hp.quiet.yields⟩
  obtain ⟨q, hplot, hx, -, hab, -⟩ := ha.word.plot
  have hrec : (arrivedAtPlot t t.plot off p (syncAddr f t 1)).arrival? (.scratch t.plot off) =
      some (plotArrival t.plot off (plotWord p off) (syncAddr f t 1)) :=
    arrival?_withArrival (a := plotArrival t.plot off (plotWord p off) (syncAddr f t 1)) hnew
  have hmoved := arriveWord_phase s b (plotWord p off)
  rw [← hx] at hmoved
  refine ⟨_, (scratchBarrier_at h true fun _ => hm.1).trans (congrArg _ (atBarrierWord_arrives hm _ _ _)), ?_⟩
  simp only [if_true]
  by_cases hover : completes s b (plotWord p off) ∨ p.abandoned = true
  · obtain ⟨hw, -, hplots⟩ := waitPlot_ends hteam hqa hplot hrec ((ha.word.beside.isSup _).trans hsup)
      (by rwa [hab, ← hmoved] at *) (syncAddr f t 1) ((waitReg f).map (BitVec.ofNat 7)) (barrierScope 1 f)
    rw [withoutArrival_arrivedAtPlot hnew, toNat_waitReg, hab] at hw
    refine ⟨?_, fun _ => waitOver_of_shown ha.word.beside.ctx hw, fun hc hb => by simp [hc, hb] at hover⟩
    rw [← hword]
    simp only [State.barrierWord, State.plot?]
    rw [show t.tid = (arrivedAtPlot t t.plot off p (syncAddr f t 1)).tid from rfl, hplots]
  · obtain ⟨hc, hb'⟩ := not_or.mp hover
    have hb'' : q.abandoned = false := hab.trans (Bool.eq_false_iff.mpr hb')
    have hpark := waitPlot_parks hteam hqa hplot hrec (not_ne_iff.mp fun hne => hc (hmoved.mp hne)) hb'' (syncAddr f t 1)
      ((waitReg f).map (BitVec.ofNat 7)) (barrierScope 1 f)
    rw [show t.tid = (arrivedAtPlot t t.plot off p (syncAddr f t 1)).tid from rfl, hpark]
    exact ⟨hword, fun h => absurd h hover, fun _ _ => team?_setTeam_at hteam rfl⟩

/-- BARW with a record waits with it. -/
theorem barw_waits {a : Arrival} (hrec : t.arrival? (.scratch t.plot off) = some a) (hva : a.va = syncAddr f t 1) :
    ∃ s', exec (.barw f) s = .next s' ∧ s'.barrierWord (.scratch t.plot off) = plotWord p off ∧
      ((a.phase ≠ plotWord p off % 2 ^ 16 ∨ p.abandoned = true) →
        waitOver s s' t (t.withoutArrival (.scratch t.plot off)) (syncAddr f t 1) (waitReg f) p.abandoned) ∧
      (a.phase = plotWord p off % 2 ^ 16 → p.abandoned = false → s'.team? t.tid = some
        (parkedAt t (.scratch t.plot off) (syncAddr f t 1) ((waitReg f).map (BitVec.ofNat 7)) (barrierScope 1 f))) := by
  have hp := (poised_iff s t).mp h.poised
  have hloc : a.loc = .scratch t.plot off := by simpa using List.find?_some hrec
  have harrived : t.arrivedAt true (syncAddr f t 1) = true :=
    List.any_eq_true.mpr ⟨a, List.mem_of_find?_eq_some hrec, by simp [hva, hloc, BarLoc.isScratch]⟩
  have hnot : barrierArrives true t (syncAddr f t 1) = false := by simp [barrierArrives, harrived]
  have hat : atBarrierWord s t true (.scratch t.plot off) (syncAddr f t 1) ((waitReg f).map (BitVec.ofNat 7)) (barrierScope 1 f) =
      s.waitBarrier t.tid (.scratch t.plot off) (syncAddr f t 1) ((waitReg f).map (BitVec.ofNat 7)) (barrierScope 1 f) := by
    simp [atBarrierWord, hnot]
  refine ⟨_, (scratchBarrier_at h true fun ha => by simp [hnot] at ha).trans (congrArg _ hat), ?_⟩
  by_cases hover : a.phase ≠ plotWord p off % 2 ^ 16 ∨ p.abandoned = true
  · obtain ⟨hw, -, hplots⟩ := waitPlot_ends hp.here hp.quiet h.plot hrec hsup hover (syncAddr f t 1)
      ((waitReg f).map (BitVec.ofNat 7)) (barrierScope 1 f)
    rw [toNat_waitReg] at hw
    refine ⟨barrierWord_scratch (p := p) ?_ off, fun _ => hw, fun hph hb => by simp [hph, hb] at hover⟩
    rw [State.plot?, hplots]
    exact h.plot
  · obtain ⟨hph, hb⟩ := not_or.mp hover
    rw [waitPlot_parks hp.here hp.quiet h.plot hrec (not_ne_iff.mp hph) (Bool.eq_false_iff.mpr hb)]
    exact ⟨barrierWord_scratch (p := p) h.plot off, fun h => absurd h hover, fun _ _ => team?_setTeam_at hp.here rfl⟩
end
end

theorem plotBarrierCountsAndReleases : PlotBarrierCountsAndReleases := by
  rintro s t f p off l w b rfl rfl rfl
  refine ⟨fun h => ?_, fun h hsup => ?_⟩
  · rw [barrierWord_scratch h.plot off]
    exact ⟨fun hm => barv_arrives h hm rfl, barv_traps h⟩
  · rw [barrierWord_scratch h.plot off]
    refine ⟨fun hm => ?_, fun a hrec hva => ?_⟩
    · obtain ⟨s', he, hword, hover, hpark⟩ := barw_arrives h hsup hm rfl
      exact ⟨s', he, hword, hover, fun hc hb => ⟨_, hpark hc hb⟩⟩
    · obtain ⟨s', he, hword, hover, hpark⟩ := barw_waits h hsup hrec hva
      exact ⟨s', he, hword, hover, fun hph hb => ⟨_, hpark hph hb⟩⟩

/-! ## The end of a park (R36, R39) -/

/-- The team that leaves PARKED, ACTIVE where a place of its partition is free, else PENDING (R36). -/
def unparked (s : State) (t : Team) : Team :=
  { t with since := s.now t, run := if s.placeFree (coreOf t.tid) (partOf t.tid) = true then .active else .pending }

theorem unpark_quiet {s : State} {t : Team} (hq : Quiet t) : s.unpark t = s.setTeam (unparked s t) := by
  have hstays := hq.stays
  unfold State.unpark unparked Team.toPending
  split <;> (cases t; simp_all)

theorem quiet_unparked {s : State} {t : Team} (hq : Quiet t) : Quiet (unparked s t) :=
  ⟨hq.late, hq.stepping, hq.stays, hq.yields⟩

section
variable {s : State} {t : Team} (ht : s.team? t.tid = some t) (hq : Quiet t)
include ht hq

/-- A retirement after a team has left PARKED. -/
theorem unparked_retires : ((s.setTeam (unparked s t)).retire (unparked s t)).team? t.tid = some (unparked s t).gone ∧
    ((s.setTeam (unparked s t)).retire (unparked s t)).mem = s.mem := by
  have hteam : (s.setTeam (unparked s t)).team? t.tid = some (unparked s t) := team?_setTeam_at ht rfl
  rw [retire_of_quiet _ (quiet_unparked hq)]
  exact ⟨team?_setTeam_at hteam (Team.gone_tid _), rfl⟩

/-- A retirement of MWAIT after a team has left PARKED: its monitor as given, its register written, its core's load cache
dropped (R208, R283). -/
theorem unparked_retiresMonitor (m : Monitor) (d : BitVec 7) (x : Dword) :
    let v := ((s.setTeam (unparked s t)).dropCache (coreOf t.tid)).retireS { unparked s t with monitor := m } [(d, x)]
    v.team? t.tid = some { (unparked s t).gone.setS d.toNat x with monitor := m } ∧ (v.core (coreOf t.tid)).cache = [] ∧
      v.mem = s.mem := by
  have hteam : (s.setTeam (unparked s t)).team? t.tid = some (unparked s t) := team?_setTeam_at ht rfl
  dsimp only
  rw [retireS_quiet (quiet_monitor (quiet_unparked hq) m)]
  refine ⟨?_, ?_, rfl⟩
  · refine (team?_setTeam_at (t := unparked s t) ?_ (Team.gone_tid _)).trans ?_
    · exact (team?_of_teams (s := s.setTeam (unparked s t)) rfl _).trans hteam
    · exact congrArg some ((Team.gone_setS _ _ _).trans (congrArg (Team.setS · d.toNat x) (Team.gone_monitor _ m)))
  · have hcore := core_dropCache (s.setTeam (unparked s t)) (coreOf t.tid) (coreOf t.tid)
    rw [if_pos rfl] at hcore
    exact congrArg Core.cache hcore
end

end Sys2Proof.Machine
end

section
/-! PROOFS. TEAM_WAKE (R36, R39, R208, R211); O23. -/

namespace Sys2Proof.Machine

open Sys2Proof.Claims

section
variable {s : State} {t : Team} (ht : s.team? t.tid = some t) (hq : Quiet t)
include ht hq

/-- What a park's instruction does once its team has left PARKED. -/
theorem wake_barrier (l : BarLoc) (va : Dword) (sd : Option (BitVec 7)) (sc : Nat) (ab : Bool) :
    s.wakeFrom t (.barrier l va sd sc) (some (.barrier ab)) =
      (s.setTeam (unparked s t)).endWait (unparked s t) l va sd sc (ab || s.partiesAbandoned t l) := by
  have hteam : (s.setTeam (unparked s t)).team? t.tid = some (unparked s t) := team?_setTeam_at ht rfl
  have hab : (s.setTeam (unparked s t)).partiesAbandoned (unparked s t) l = s.partiesAbandoned t l := by cases l <;> rfl
  simp only [State.wakeFrom, State.wakeTo, unpark_quiet hq, hteam, hab]

theorem wake_monitor (d : BitVec 7) (b : Option Nat) (n : Nat) : s.wakeFrom t (.monitor d b) (some (.status n)) =
    ((s.setTeam (unparked s t)).dropCache (coreOf t.tid)).retireS { unparked s t with monitor := .none_ }
      [(d, BitVec.ofNat 64 n)] := by
  have hteam : (s.setTeam (unparked s t)).team? t.tid = some (unparked s t) := team?_setTeam_at ht rfl
  simp only [State.wakeFrom, State.wakeTo, unpark_quiet hq, hteam]
  rfl

theorem wake_done {k : Park} {pa : Nat} (hk : k = .lock pa ∨ k = .permit pa ∨ k = .promise pa) :
    s.wakeFrom t k (some .done) = (s.setTeam (unparked s t)).retire (unparked s t) := by
  have hteam : (s.setTeam (unparked s t)).team? t.tid = some (unparked s t) := team?_setTeam_at ht rfl
  rcases hk with rfl | rfl | rfl <;> simp only [State.wakeFrom, State.wakeTo, unpark_quiet hq, hteam]

theorem wake_copy (id : Nat) (a : Dword) : s.wakeFrom t (.copy id a) (some .done) =
    (s.setTeam (unparked s t)).setTeam ((unparked s t).jumpTo a).retired1 := by
  have hteam : (s.setTeam (unparked s t)).team? t.tid = some (unparked s t) := team?_setTeam_at ht rfl
  have hu := quiet_unparked (s := s) hq
  rw [← retireAt_quiet _ (unparked s t) a hu.late hu.stepping hu.stays hu.yields]
  simp only [State.wakeFrom, State.wakeTo, unpark_quiet hq, hteam]

theorem wake_retry : s.wakeFrom t .retry (some .done) = (s.setTeam (unparked s t)).dropCache (coreOf t.tid) := by
  have hteam : (s.setTeam (unparked s t)).team? t.tid = some (unparked s t) := team?_setTeam_at ht rfl
  simp only [State.wakeFrom, State.wakeTo, unpark_quiet hq, hteam, State.acquireAt]
  rfl

/-- A wake writes no memory: it retires the team's instruction, ends its wait, or leaves it to issue again. -/
theorem wake_mem (hsup : s.isSup t = false) (k : Park) (w : Option Wake) : (s.wakeFrom t k w).mem = s.mem := by
  have hteam : (s.setTeam (unparked s t)).team? t.tid = some (unparked s t) := team?_setTeam_at ht rfl
  have hretire := (unparked_retires ht hq).2
  have hmonitor := fun m d x => (unparked_retiresMonitor ht hq m d x).2.2
  have hu := quiet_unparked (s := s) hq
  simp only [State.wakeFrom, State.wakeTo, unpark_quiet hq, hteam]
  split
  · exact hmonitor _ _ _
  · split
    · exact hmonitor _ _ _
    · exact hmonitor (unparked s t).monitor _ _
    · rfl
  · exact hretire
  · exact hretire
  · exact hretire
  · exact (endWait_ends (t := unparked s t) hteam hu hsup _ _ _ _ _).2.1
  · rw [retireAt_quiet _ _ _ hu.late hu.stepping hu.stays hu.yields]
    rfl
  · rfl
  · rfl
end

theorem wakeEndsThePark : WakeEndsThePark := by
  rintro s t v k w hs hrun hrunning hdying hsaving hq hsup rfl
  have hid : t.tid = s.arg.tid := State.tid_of_team? hs
  have ht : s.team? t.tid = some t := hid ▸ hs
  have hteam : (s.setTeam (unparked s t)).team? t.tid = some (unparked s t) := team?_setTeam_at ht rfl
  have hexec : exec .teamWake s = .next (s.wakeFrom t k w) := by
    simp [exec, execTeamWake, hs, hrun, hrunning, hdying, hsaving]
  refine ⟨_, hexec, wake_mem ht hq hsup k w, ?_, ?_, ?_, ?_, ?_⟩
  · rintro d b n rfl rfl
    rw [wake_monitor ht hq]
    obtain ⟨hmon, hcache, -⟩ := unparked_retiresMonitor ht hq .none_ d (BitVec.ofNat 64 n)
    exact ⟨hmon, hcache⟩
  · rintro pa hk rfl
    rw [wake_done ht hq hk]
    exact (unparked_retires ht hq).1
  · rintro l va sd sc ab rfl rfl
    rw [wake_barrier ht hq]
    exact (endWait_ends (t := unparked s t) hteam (quiet_unparked hq) hsup l va sd sc _).1
  · rintro id a rfl rfl
    rw [wake_copy ht hq]
    exact team?_setTeam_at hteam (by rfl)
  · rintro rfl rfl
    rw [wake_retry ht hq]
    have hcore := core_dropCache (s.setTeam (unparked s t)) (coreOf t.tid) (coreOf t.tid)
    rw [if_pos rfl] at hcore
    exact ⟨(team?_of_teams (s := s.setTeam (unparked s t)) rfl _).trans hteam, congrArg Core.cache hcore⟩

/-- Settles O23: a plot's word and its team's record follow the arrival, and a wait ends by `endWait` whether it ends at
issue or at the wake. -/
theorem barriersCountAndWaitsEnd : Obligations.BarriersCountAndWaitsEnd :=
  ⟨plotBarrierCountsAndReleases, wakeEndsThePark⟩

end Sys2Proof.Machine
end

section
/-! PROOFS. Writes of the hardware into segment Q (R311, R384): pieces within sectors, and the bytes that stand after them. -/

namespace Sys2Proof.Machine

open Sys2Proof.Claims

/-! ## Bytes at their places -/

/-- A byte of memory after bytes were written at places in order, a later one over an earlier one. -/
def overAll (ps : List (Nat × Byte)) (x : Nat) (v : Byte) : Byte := ps.foldl (fun v p => if p.1 = x then p.2 else v) v

theorem overAll_append (ps qs : List (Nat × Byte)) (x : Nat) (v : Byte) : overAll (ps ++ qs) x v = overAll qs x (overAll ps x v) :=
  List.foldl_append

/-- The bytes of a run from its n-th on, each with its place. -/
def placedRun (place : Nat → Nat) (va n : Nat) (bs : List Byte) : List (Nat × Byte) :=
  (bs.zipIdx n).map fun b => (place (va + b.2), b.1)

theorem placedRun_append (place : Nat → Nat) (va n : Nat) (as bs : List Byte) :
    placedRun place va n (as ++ bs) = placedRun place va n as ++ placedRun place va (n + as.length) bs := by
  simp only [placedRun, List.zipIdx_append, List.map_append]

theorem memWritten_iff {s w : State} {place : Nat → Nat} {ws : List (Nat × List Byte)} : memWritten s w place ws ↔
    ∀ x, memByte w.mem x = overAll (ws.flatMap fun r => placedRun place r.1 0 r.2) x (memByte s.mem x) := Iff.rfl

theorem memWritten_refl {s w : State} (h : w.mem = s.mem) (place : Nat → Nat) : memWritten s w place [] := fun x => by
  rw [h]; rfl

theorem memWritten_append {s v w : State} {place : Nat → Nat} {as bs : List (Nat × List Byte)} (h : memWritten s v place as)
    (h' : memWritten v w place bs) : memWritten s w place (as ++ bs) := by
  rw [memWritten_iff] at *
  intro x
  rw [h' x, h x, List.flatMap_append, overAll_append]

/-- A run that is written where its bytes have their places. -/
theorem memByte_memWrite_placed {place : Nat → Nat} {va : Nat} (x : Nat) : ∀ (bs : List Byte) {n pa : Nat} (m : List Host.Cell),
    (∀ j < bs.length, place (va + (n + j)) = pa + j) →
    memByte (memWrite m pa bs) x = overAll (placedRun place va n bs) x (memByte m x)
  | [], _, _, _, _ => rfl
  | b :: bs, n, pa, m, h => by
    have hfirst : place (va + n) = pa := h 0 (Nat.zero_lt_succ _)
    have hrest : ∀ j < bs.length, place (va + (n + 1 + j)) = pa + 1 + j := fun j hj => by
      rw [Nat.add_assoc n, Nat.add_assoc pa, Nat.add_comm 1 j]
      exact h (j + 1) (Nat.succ_lt_succ hj)
    rw [memWrite, memByte_memWrite_placed x bs _ hrest, memByte_memPut]
    simp only [placedRun, List.zipIdx_cons, List.map_cons, overAll, List.foldl_cons, hfirst, eq_comm (a := x)]

/-! ## What a write into Q leaves -/

/-- State w is state s after runs of bytes were written at their homes. -/
structure RunsWritten (s w : State) (place : Nat → Nat) (ws : List (Nat × List Byte)) : Prop where
  home : HomeOnly s w
  teams : UnarmedTeams s.teams w.teams
  mem : memWritten s w place ws

theorem RunsWritten.refl (s : State) (place : Nat → Nat) : RunsWritten s s place [] :=
  ⟨.refl s, .refl _, memWritten_refl rfl place⟩

theorem RunsWritten.trans {s v w : State} {place : Nat → Nat} {as bs : List (Nat × List Byte)} (h : RunsWritten s v place as)
    (h' : RunsWritten v w place bs) : RunsWritten s w place (as ++ bs) :=
  ⟨h.home.trans h'.home, h.teams.trans h'.teams, memWritten_append h.mem h'.mem⟩

/-- Translations of a partition, and the checks at a leaf, stand as they stood. -/
structure PlacesStay (s w : State) : Prop where
  first : ∀ port, w.firstTlb port = s.firstTlb port
  check : leafCheck w = leafCheck s

theorem placesStay_of_homeOnly {s w : State} (h : HomeOnly s w) : PlacesStay s w := by
  unfold HomeOnly at h
  rw [h]
  exact ⟨fun _ => rfl, rfl⟩

theorem PlacesStay.trans {s v w : State} (h : PlacesStay s v) (h' : PlacesStay v w) : PlacesStay s w :=
  ⟨fun port => (h'.first port).trans (h.first port), h'.check.trans h.check⟩

theorem PlacesStay.byteStands {s w : State} (h : PlacesStay s w) {o : Origin} {va pa : Nat}
    (hs : Claims.byteStands s o va .write pa) : Claims.byteStands w o va .write pa := by
  obtain ⟨⟨e, nc, he, hok⟩, -⟩ := hs
  exact ⟨⟨e, nc, by rw [h.first]; exact he, by rw [h.check]; exact hok⟩, nofun⟩

theorem HomeOnly.ctx? {s w : State} (h : HomeOnly s w) (n : Nat) : w.ctx? n = s.ctx? n := by
  unfold HomeOnly at h
  rw [h]
  rfl

theorem HomeOnly.core {s w : State} (h : HomeOnly s w) (k : Nat) : w.core k = s.core k := by
  unfold HomeOnly at h
  rw [h]
  rfl

/-! ## Pieces within sectors (R311) -/

theorem homeWriteBy_mem (s : State) (writer : Nat) (nc : Bool) (pa : Nat) (bs : List Byte) :
    (s.homeWriteBy writer nc pa bs).mem = memWrite s.mem pa bs := by
  have hfire : ∀ (ls : List Nat) (v : State), (ls.foldl (fun st l => st.fireLine l 0) v).mem = v.mem := fun ls v =>
    List.foldlRecOn (motive := fun (st : State) => st.mem = v.mem) ls _ rfl fun st h l _ => by
      refine Eq.trans ?_ h
      exact List.foldlRecOn (motive := fun (u : State) => u.mem = st.mem) _ _ rfl fun _ hu _ _ => hu
  unfold State.homeWriteBy
  rw [hfire]
  split
  · rfl
  · have hseen := seenOnly_touchSlice ({ s with mem := memWrite s.mem pa bs }.healSectors writer pa bs.length) pa bs.length true
    unfold SeenOnly at hseen
    rw [hseen]
    rfl

/-- A run whose bytes can be written has no fault. -/
theorem firstFault_stands {s : State} {o : Origin} {place : Nat → Nat} {va n : Nat}
    (hst : ∀ j < n, byteStands s o (va + j) .write (place (va + j))) : s.firstFault o.port o.ctx va n .write = none := by
  have hsectors : ∀ {fuel k m : Nat}, k + m ≤ n → ∀ p ∈ splitSectors fuel (va + k) m,
      ∃ pa nc, s.translate o.port o.ctx p.1 .write = .ok pa nc := by
    intro fuel
    induction fuel with
    | zero => intro k m _ p hp; cases hp
    | succ fuel ih =>
      intro k m hk p hmem
      rw [splitSectors] at hmem
      split at hmem
      · cases hmem
      · rcases List.mem_cons.mp hmem with rfl | hrest
        · obtain ⟨⟨e, nc, he, hok⟩, -⟩ := hst k (by omega)
          exact ⟨_, nc, (translate_first he .write).trans hok⟩
        · rw [Nat.add_assoc] at hrest
          exact ih (by omega) p hrest
  unfold State.firstFault
  refine List.findSome?_eq_none_iff.mpr fun p hmem => ?_
  obtain ⟨pa, nc, h⟩ := hsectors (k := 0) (Nat.zero_add _).le p hmem
  rw [h]

section
variable {s : State} {o : Origin} {place : Nat → Nat} (hp : sectorwise place) {va : Nat} {bs : List Byte}
  (hst : ∀ j < bs.length, byteStands s o (va + j) .write (place (va + j)))
include hp hst

/-- The pieces of a run from its k-th byte on, each written at its home. -/
theorem writePieces {k fuel n : Nat} {v : State} (hf : n < fuel) (hk : k + n = bs.length)
    (hv : ∀ port, v.firstTlb port = s.firstTlb port) :
    let w := (splitSectors fuel (va + k) n).foldl (fun st p => match s.translate o.port o.ctx p.1 .write with
      | .ok pa nc => (st.fillTlb o.port o.ctx p.1).homeWriteBy 0 nc pa ((bs.drop (p.1 - va)).take p.2)
      | .fault _ => st) v
    HomeOnly v w ∧ UnarmedTeams v.teams w.teams ∧
      ∀ x, memByte w.mem x = overAll (placedRun place va k (bs.drop k)) x (memByte v.mem x) := by
  induction fuel generalizing k n v with
  | zero => omega
  | succ fuel ih =>
    by_cases hn : n = 0
    · subst hn
      have hdrop : bs.drop k = [] := List.drop_eq_nil_of_le (by omega)
      simp only [splitSectors, if_true, List.foldl_nil, hdrop]
      exact ⟨.refl v, .refl _, fun _ => rfl⟩
    · obtain ⟨⟨e, nc, he, hok⟩, -⟩ := hst k (by omega)
      have htr : s.translate o.port o.ctx (va + k) .write = .ok (place (va + k)) nc := (translate_first he .write).trans hok
      have hfill : v.fillTlb o.port o.ctx (va + k) = v := fillTlb_first (e := e) (by rw [hv]; exact he)
      rw [splitSectors, if_neg hn]
      generalize hm : min n (32 - (va + k) % 32) = m
      have hlen : ((bs.drop k).take m).length = m := by
        rw [List.length_take, List.length_drop]
        omega
      simp only [List.foldl_cons, htr, hfill, Nat.add_sub_cancel_left]
      generalize hu : v.homeWriteBy 0 nc (place (va + k)) ((bs.drop k).take m) = u
      have huv : HomeOnly v u := hu ▸ homeOnly_homeWriteBy ..
      have hut : UnarmedTeams v.teams u.teams := hu ▸ (writesOnly_homeWriteBy ..).teams
      have humem : u.mem = memWrite v.mem (place (va + k)) ((bs.drop k).take m) := hu ▸ homeWriteBy_mem ..
      obtain ⟨hw, hwt, hwm⟩ := ih (k := k + m) (n := n - m) (v := u) (by omega) (by omega) fun port =>
        ((placesStay_of_homeOnly huv).first port).trans (hv port)
      rw [← Nat.add_assoc] at hw hwt hwm
      refine ⟨huv.trans hw, hut.trans hwt, fun x => ?_⟩
      have hsplit : bs.drop k = (bs.drop k).take m ++ bs.drop (k + m) := by
        rw [← List.drop_drop, List.take_append_drop]
      rw [hwm x, humem, hsplit, placedRun_append, overAll_append, hlen, ← hsplit]
      refine congrArg _ (memByte_memWrite_placed x _ _ fun j hj => ?_)
      rw [hlen] at hj
      have hsame := hp (va + k) (va + (k + j)) (by omega)
      omega

theorem vWrite_stands : ∃ w, s.vWrite o.port o.ctx va bs = .inl w ∧ RunsWritten s w place [(va, bs)] := by
  have hnone := firstFault_stands hst
  obtain ⟨f, hf, -⟩ | ⟨-, hw⟩ := vWrite_cases s o.port o.ctx va bs
  · rw [hnone] at hf; cases hf
  · obtain ⟨h1, h2, h3⟩ := writePieces hp hst (k := 0) (v := s) (Nat.lt_succ_self bs.length) (Nat.zero_add _) fun _ => rfl
    refine ⟨_, hw, h1, h2, memWritten_iff.mpr fun x => (h3 x).trans ?_⟩
    simp
end

end Sys2Proof.Machine
end

section
/-! PROOFS. The retry ring and the store-fault ring: entries, records and headers as they are written (R324, R325, R385, R387). -/

namespace Sys2Proof.Machine

open Sys2Proof.Claims

/-! ## The words of an entry and of a record -/

section
variable {m n : Nat} (x : BitVec m)

/-- A field of n bits below others. -/
theorem toNat_append_ofNat {k : Nat} (hk : k < 2 ^ n) : (x ++ BitVec.ofNat n k).toNat = x.toNat * 2 ^ n + k := by
  have hlt : (BitVec.ofNat n k).toNat < 2 ^ n := BitVec.isLt _
  rw [BitVec.toNat_append, ← Nat.shiftLeft_add_eq_or_of_lt hlt, Nat.shiftLeft_eq, BitVec.toNat_ofNat, Nat.mod_eq_of_lt hk]

theorem toNat_append_zero : (x ++ (0 : BitVec n)).toNat = x.toNat * 2 ^ n := by
  simpa using toNat_append_ofNat (n := n) x (k := 0) (by positivity)

theorem toNat_append_ofBool (b : Bool) : (x ++ BitVec.ofBool b).toNat = x.toNat * 2 + if b then 1 else 0 := by
  have := toNat_append_ofNat (n := 1) x (k := if b then 1 else 0) (by split <;> decide)
  cases b <;> simpa using this
end

theorem toNat_ofNat64 {k : Nat} (h : k < 2 ^ 64) : (BitVec.ofNat 64 k).toNat = k := by
  rw [BitVec.toNat_ofNat, Nat.mod_eq_of_lt h]

/-- The first word of an entry and of a record: the team and its launch. -/
theorem toNat_launchWord (h : Handle) {lid : Nat} (hl : lid < 2 ^ 32) :
    (h ++ BitVec.ofNat 32 lid).toNat = h.toNat * 2 ^ 32 + lid := toNat_append_ofNat h hl

section
variable {e : Held} (h : fieldsFit e)
include h

theorem entryRule_toNat : (entryRule e).map BitVec.toNat =
    [e.origin.tid.toNat * 2 ^ 32 + e.origin.lid, e.origin.pc.toNat, e.origin.iword.toNat,
     e.origin.lit.toNat * 2 ^ 32 + e.cause * 2 ^ 24 + e.originCode * 2 ^ 20 + e.origin.issue * 2 ^ 14
       + (if decide (3 ≤ e.originCode) then 0 else e.lanes.length),
     e.page, if decide (3 ≤ e.originCode) then 0 else e.dest, if decide (3 ≤ e.originCode) then e.engAddr else 0, 0] := by
  obtain ⟨hlid, hissue, hcause, horigin, hlanes, -, hdest, hpage, haddr⟩ := h
  have hcount : (if decide (3 ≤ e.originCode) = true then 0 else e.lanes.length) < 2 ^ 11 := by split <;> omega
  have hdest' : (if decide (3 ≤ e.originCode) = true then 0 else e.dest) < 2 ^ 64 := by split <;> omega
  have haddr' : (if decide (3 ≤ e.originCode) = true then e.engAddr else 0) < 2 ^ 64 := by split <;> omega
  simp only [entryRule, List.map_cons, List.map_nil, toNat_launchWord _ hlid, toNat_ofNat64 hpage, toNat_ofNat64 hdest',
    toNat_ofNat64 haddr', toNat_append_ofNat _ hcount, toNat_append_zero, toNat_append_ofNat _ (show e.origin.issue < 2 ^ 6 from hissue),
    toNat_append_ofNat _ (show e.originCode < 2 ^ 4 by omega), toNat_append_ofNat _ (show e.cause < 2 ^ 8 from hcause)]
  generalize (if decide (3 ≤ e.originCode) = true then 0 else e.lanes.length) = n
  rw [show ((((e.origin.lit.toNat * 2 ^ 8 + e.cause) * 2 ^ 4 + e.originCode) * 2 ^ 6 + e.origin.issue) * 2 ^ 3) * 2 ^ 11 + n =
    e.origin.lit.toNat * 2 ^ 32 + e.cause * 2 ^ 24 + e.originCode * 2 ^ 20 + e.origin.issue * 2 ^ 14 + n by omega]
  rfl

/-- What the model writes of an entry is the rule's. -/
theorem parts_eq : e.parts = entryWrites e := by
  simp only [Held.parts, Held.head, entryWrites, entryRule_toNat h, decide_eq_true_eq]

theorem recordRule_toNat (s : State) : (recordRule s e).map BitVec.toNat =
    [e.origin.tid.toNat * 2 ^ 32 + e.origin.lid, e.origin.pc.toNat, e.engAddr,
     e.cause * 2 ^ 56 + e.lane * 2 ^ 46 + e.origin.issue * 2 ^ 40
       + (if (match s.team? e.origin.tid with
          | some t => (match t.dying with | some d => d.killed | none => false)
          | none => s.exited.any fun x => x.tid == e.origin.tid && x.killed) then 2 ^ 33 else 0)
       + (if (s.team? e.origin.tid).isNone then 2 ^ 32 else 0) + e.lanes.length,
     e.origin.iword.toNat, 0, 0, 0] := by
  obtain ⟨hlid, hissue, hcause, -, hlanes, hlane, -, -, haddr⟩ := h
  have hword : ∀ k g : Bool, (BitVec.ofNat 8 e.cause ++ BitVec.ofNat 10 e.lane ++ BitVec.ofNat 6 e.origin.issue ++ (0 : BitVec 6) ++
      BitVec.ofBool k ++ BitVec.ofBool g ++ (0 : BitVec 21) ++ BitVec.ofNat 11 e.lanes.length).toNat =
      e.cause * 2 ^ 56 + e.lane * 2 ^ 46 + e.origin.issue * 2 ^ 40 + (if k then 2 ^ 33 else 0) + (if g then 2 ^ 32 else 0) +
        e.lanes.length := by
    intro k g
    have hc : (BitVec.ofNat 8 e.cause).toNat = e.cause := by
      rw [BitVec.toNat_ofNat, Nat.mod_eq_of_lt hcause]
    rw [toNat_append_ofNat _ (show e.lanes.length < 2 ^ 11 by omega), toNat_append_zero, toNat_append_ofBool, toNat_append_ofBool,
      toNat_append_zero, toNat_append_ofNat _ (show e.origin.issue < 2 ^ 6 from hissue),
      toNat_append_ofNat _ (show e.lane < 2 ^ 10 from hlane), hc]
    cases k <;> cases g <;> simp only [Bool.false_eq_true, if_true, if_false] <;> omega
  simp only [recordRule, List.map_cons, List.map_nil, toNat_launchWord _ hlid, toNat_ofNat64 haddr, hword] <;> rfl

theorem record_eq {s v : State} (hteams : v.teams = s.teams) (hexited : v.exited = s.exited) :
    e.record v = dwordBytes ((recordRule s e).map BitVec.toNat) := by
  rw [recordRule_toNat h]
  simp only [Held.record, State.team?, hteams, hexited] <;> rfl
end

/-! ## Writes at Q offsets (R384) -/

theorem portOf_gateOrigin (c : Context) : (gateOrigin c).port = portOf c.supervisor := by
  simp only [gateOrigin, Origin.port, coreOf, partOf, portOf]
  omega

theorem PlacesStay.qStands {s w : State} (h : PlacesStay s w) {c c' : Context} (hsup : c'.supervisor = c.supervisor)
    (hid : c'.id = c.id) (hbase : c'.qBase = c.qBase) {place : Nat → Nat} {off n : Nat} (hq : Claims.qStands s c place off n) :
    Claims.qStands w c' place off n := by
  intro j hj
  unfold gateOrigin
  rw [hsup, hid, hbase]
  exact h.byteStands (hq j hj)

theorem qStands_part {s : State} {c : Context} {place : Nat → Nat} {off n : Nat} (h : qStands s c place off n) {k m : Nat}
    (hk : k + m ≤ n) : qStands s c place (off + k) m := by
  intro j hj
  have := h (k + j) (by omega)
  rw [show c.qBase.toNat + (off + k) + j = c.qBase.toNat + off + (k + j) by omega]
  exact this

section
variable {s : State} {c : Context} {place : Nat → Nat} (hc : s.ctx? c.id = some c)
include hc

theorem qFault_stands {off n : Nat} (hq : qStands s c place off n) : s.qFault c.id off n = none := by
  simp only [State.qFault, hc]
  rw [← portOf_gateOrigin]
  exact firstFault_stands (o := gateOrigin c) hq

variable (hp : sectorwise place)
include hp

theorem qWrite_stands {off : Nat} {bs : List Byte} (hq : qStands s c place off bs.length) :
    RunsWritten s (s.qWrite c.id off bs) place [(c.qBase.toNat + off, bs)] := by
  obtain ⟨w, hw, hruns⟩ := vWrite_stands hp (o := gateOrigin c) (bs := bs) hq
  rw [portOf_gateOrigin, show (gateOrigin c).ctx = c.id from rfl] at hw
  simp only [State.qWrite, hc, hw]
  exact hruns

/-- Runs that a ring's hardware writes at offsets of a run that can be written. -/
theorem qWrites_stand {off n : Nat} (hq : qStands s c place off n) (ws : List (Nat × List Byte))
    (hws : ∀ r ∈ ws, r.1 + r.2.length ≤ n) :
    RunsWritten s (ws.foldl (fun (v : State) r => v.qWrite c.id (off + r.1) r.2) s) place (atQ c off ws) := by
  induction ws generalizing s with
  | nil => exact .refl s place
  | cons r ws ih =>
    have hfirst := qWrite_stands hc hp (qStands_part hq (hws r List.mem_cons_self))
    have hrest := ih ((hfirst.home.ctx? _).trans hc)
      ((placesStay_of_homeOnly hfirst.home).qStands rfl rfl rfl hq) fun x hx => hws x (List.mem_cons_of_mem _ hx)
    rw [← Nat.add_assoc] at hfirst
    exact hfirst.trans hrest

theorem retryHeader_stands (hq : qStands s c place 0 64) :
    RunsWritten s (s.retryHeader c.id) place [(c.qBase.toNat, retryBytes c)] := by
  have h := qWrite_stands hc hp (bs := retryBytes c) (off := 0) hq
  simp only [State.retryHeader, hc]
  exact h

theorem storeHeader_stands (hq : qStands s c place 0x1800040 64) :
    RunsWritten s (s.storeHeader c.id) place [(c.qBase.toNat + 0x1800040, storeBytes c)] := by
  have h := qWrite_stands hc hp (bs := storeBytes c) (off := 0x1800040) hq
  simp only [State.storeHeader, hc]
  exact h
end

theorem placesStay_modCtx (s : State) (k : Nat) (f : Context → Context) : PlacesStay s (s.modCtx k f) := ⟨fun _ => rfl, rfl⟩

theorem ctx?_modCtx {s : State} {k : Nat} {c : Context} (hc : s.ctx? k = some c) {f : Context → Context}
    (hf : ∀ c : Context, (f c).id = c.id) : (s.modCtx k f).ctx? k = some (f c) :=
  (find?_updFirst (fun c : Context => c.id == k) f (fun c h => by rw [hf]; exact h) s.ctxs).trans (congrArg (Option.map f) hc)

theorem id_of_ctx? {s : State} {k : Nat} {c : Context} (h : s.ctx? k = some c) : c.id = k := by
  simpa using List.find?_some h

/-! ## The writes of faults (R325) -/

/-- What a fault's write leaves of its operation: memory and contexts stand as they stood. -/
theorem faultWritten_keeps {s : State} {e : Held}
    (h : e.store = true → ∀ o, s.op? e.opId = some o → launchLives s o.origin.ctx o.origin.lid) :
    (s.faultWritten e).mem = s.mem ∧ (s.faultWritten e).ctxs = s.ctxs := by
  have hop := State.op?_modOp s e.opId (f := fun o => { o with unwritten := o.unwritten - 1 }) fun _ => rfl
  unfold State.faultWritten
  dsimp only
  rw [hop]
  cases ho : s.op? e.opId with
  | none => exact ⟨rfl, rfl⟩
  | some o =>
    simp only [Option.map_some]
    split
    · rename_i hend
      simp only [Bool.and_eq_true] at hend
      have hl := launchLives_of_launches (w := s.modOp e.opId fun o => { o with unwritten := o.unwritten - 1 }) rfl (h hend.1 o ho)
      rw [endOp_eq (o := { o with unwritten := o.unwritten - 1 }) hl, freePlot_frame]
      exact ⟨rfl, rfl⟩
    · exact ⟨rfl, rfl⟩

/-- The context without a fault that is written now. -/
def unheld (c : Context) (i : Nat) : Context := { c with held := eraseAt c.held i }

section
variable {s : State} {c : Context} {e : Held} {store : Bool} {put : State → Context → Nat → Held → State}

/-- A fault whose turn has come, with room for it. -/
theorem writeFault_puts (h : Waits s c e store) (hroom : c.ringFull store = false) :
    writeFault store put s = (put (s.modCtx c.id fun c => unheld c s.arg.b) c s.arg.b e).faultWritten e := by
  obtain ⟨hfound, hstore⟩ := h.found
  simp [writeFault, h.context, hfound, hstore, h.due, hroom, h.first, unheld]

theorem writeFault_full (hc : s.ctx? s.arg.a = some c) (he : c.held[s.arg.b]? = some e) (hdue : s.recordDue e = true)
    (hs : e.store = store) (hfull : c.ringFull store = true) : writeFault store put s = s.countHeld c.id s.arg.b e := by
  simp [writeFault, hc, he, hdue, hs, hfull]
end

/-- The context with its new entry in slot i. -/
def withEntry (c : Context) (i : Nat) (e : Held) : Context :=
  { c with
    written := c.written + 1, retryOrder := c.retryOrder ++ [i]
    retry := c.retry ++ [{ slot := i, origin := e.originCode, tid := e.origin.tid, opId := e.opId, lanes := e.lanes }] }

/-- A retry-ring entry is written, and then its header. -/
theorem putEntry_writes {s : State} {c d : Context} {e : Held} {i : Nat} {place : Nat → Nat} (k : Nat) (hd : s.ctx? d.id = some d)
    (hid : d.id = c.id) (hfit : fieldsFit e) (hfree : c.freeSlot = some i) (hp : sectorwise place)
    (hq : qStands s d place (64 + 24576 * i) 24576) (hlen : ∀ w ∈ entryWrites e, w.1 + w.2.length ≤ 24576)
    (hhead : qStands s d place 0 64) : (putEntry s c k e).ctx? d.id = some (withEntry d i e) ∧
      memWritten s (putEntry s c k e) place
        (atQ d (64 + 24576 * i) (entryWrites e) ++ [(d.qBase.toNat, retryBytes (withEntry d i e))]) := by
  have hoff : retryOff i = 64 + 24576 * i := rfl
  have hfault : s.qFault c.id (retryOff i) 24576 = none := hid ▸ qFault_stands hd hq
  have hparts := qWrites_stand hd hp hq (entryWrites e) hlen
  rw [← parts_eq hfit] at hparts
  generalize hv : e.parts.foldl (fun (v : State) r => v.qWrite d.id (64 + 24576 * i + r.1) r.2) s = v at hparts
  have hvd : v.ctx? d.id = some d := (hparts.home.ctx? _).trans hd
  generalize hw : v.modCtx d.id (fun c => withEntry c i e) = w
  have hwd : w.ctx? (withEntry d i e).id = some (withEntry d i e) := by
    rw [← hw]
    exact ctx?_modCtx (f := fun c => withEntry c i e) hvd fun _ => rfl
  have hstay : PlacesStay s w := (placesStay_of_homeOnly hparts.home).trans (hw ▸ placesStay_modCtx v d.id _)
  have hheader := retryHeader_stands (c := withEntry d i e) hwd hp (hstay.qStands rfl rfl rfl hhead)
  have heq : putEntry s c k e = (w.retryHeader d.id).countPerf e.origin.core d.id 9 1 := by
    rw [← hw, ← hv, hid, ← hoff]
    unfold putEntry
    rw [hfree]
    dsimp only
    rw [hfault]
    rfl
  have hcount := (countPerf_countsOnly (w.retryHeader d.id) e.origin.core d.id 9 1).frame
  rw [heq, hcount]
  refine ⟨(hheader.home.ctx? _).trans hwd, ?_⟩
  rw [← parts_eq hfit]
  have hvw : memWritten v w place [] := memWritten_refl (by rw [← hw]; rfl) place
  exact memWritten_append (memWritten_append hparts.mem hvw |> fun h => by simpa using h) hheader.mem

/-- A store-fault record is written, and then its header. -/
theorem putRecord_writes {s : State} {c d : Context} {e : Held} {place : Nat → Nat} (k : Nat) (hd : s.ctx? d.id = some d)
    (hid : d.id = c.id) (hwritten : d.sfWritten = c.sfWritten) (hp : sectorwise place)
    (hlen : (e.record s).length = 64)
    (hq : qStands s d place (0x1800080 + 64 * (c.sfWritten % 4096)) 64) (hhead : qStands s d place 0x1800040 64) :
    (putRecord s c k e).ctx? d.id = some { d with sfWritten := c.sfWritten + 1 } ∧
      (putRecord s c k e).launches = s.launches ∧ (putRecord s c k e).ops = s.ops ∧
      memWritten s (putRecord s c k e) place (atQ d (0x1800080 + 64 * (c.sfWritten % 4096)) [(0, e.record s)] ++
        [(d.qBase.toNat + 0x1800040, storeBytes { d with sfWritten := c.sfWritten + 1 })]) := by
  have hoff : sfOff c.sfWritten = 0x1800080 + 64 * (c.sfWritten % 4096) := rfl
  have hfault : s.qFault c.id (sfOff c.sfWritten) 64 = none := hid ▸ qFault_stands hd hq
  have hrec := qWrite_stands hd hp (bs := e.record s) (off := 0x1800080 + 64 * (c.sfWritten % 4096)) (by rw [hlen]; exact hq)
  generalize hv : s.qWrite d.id (0x1800080 + 64 * (c.sfWritten % 4096)) (e.record s) = v at hrec
  have hvd : v.ctx? d.id = some d := (hrec.home.ctx? _).trans hd
  generalize hw : v.modCtx d.id (fun c => { c with sfWritten := c.sfWritten + 1 }) = w
  have hwd : w.ctx? d.id = some { d with sfWritten := c.sfWritten + 1 } := by
    rw [← hw, ← hwritten]
    exact ctx?_modCtx (f := fun c => { c with sfWritten := c.sfWritten + 1 }) hvd fun _ => rfl
  have hstay : PlacesStay s w := (placesStay_of_homeOnly hrec.home).trans (hw ▸ placesStay_modCtx v d.id _)
  have hheader := storeHeader_stands (c := { d with sfWritten := c.sfWritten + 1 }) hwd hp (hstay.qStands rfl rfl rfl hhead)
  have heq : putRecord s c k e = w.storeHeader d.id := by
    simp only [putRecord, hfault]
    rw [← hw, ← hv, hid]
    rfl
  have hlaunches : v.launches = s.launches ∧ v.ops = s.ops := by
    have hh := hrec.home
    unfold HomeOnly at hh
    rw [hh]
    exact ⟨rfl, rfl⟩
  rw [heq]
  have hhome := hheader.home
  refine ⟨(hhome.ctx? _).trans hwd, ?_, ?_, ?_⟩
  · unfold HomeOnly at hhome
    rw [hhome, ← hlaunches.1, ← hw]
    rfl
  · unfold HomeOnly at hhome
    rw [hhome, ← hlaunches.2, ← hw]
    rfl
  · have hvw : memWritten v w place [] := memWritten_refl (by rw [← hw]; rfl) place
    exact memWritten_append (memWritten_append hrec.mem hvw |> fun h => by simpa [atQ] using h) hheader.mem

end Sys2Proof.Machine
end

section
/-! PROOFS. RETRY_ENTRY_WRITE, STORE_FAULT_RECORD_WRITE, RRPOP and SFPOP (R275, R324, R325); O43. -/

namespace Sys2Proof.Machine

open Sys2Proof.Claims

/-! ## The faults that are written, and those that find no room (R325) -/

section
variable {s : State} {c : Context} {e : Held} {place : Nat → Nat}

theorem retryEntry_written {i : Nat} (h : Waits s c e false) (hfit : fieldsFit e) (hroom : c.written - c.resolved < 1024)
    (hfree : c.freeSlot = some i) (hp : sectorwise place) (hq : qStands s c place (64 + 24576 * i) 24576)
    (hlen : ∀ w ∈ entryWrites e, w.1 + w.2.length ≤ 24576) (hhead : qStands s c place 0 64) :
    ∃ s', exec .retryEntryWrite s = .next s' ∧ s'.ctx? c.id = some (withEntry (unheld c s.arg.b) i e) ∧
      memWritten s s' place (atQ c (64 + 24576 * i) (entryWrites e) ++
        [(c.qBase.toNat, retryBytes (withEntry (unheld c s.arg.b) i e))]) := by
  have hid : c.id = s.arg.a := id_of_ctx? h.context
  have hd : (s.modCtx c.id fun c => unheld c s.arg.b).ctx? (unheld c s.arg.b).id = some (unheld c s.arg.b) :=
    ctx?_modCtx (hid ▸ h.context) fun _ => rfl
  have hstay := placesStay_modCtx s c.id fun c => unheld c s.arg.b
  obtain ⟨hctx, hmem⟩ := putEntry_writes (c := c) (e := e) s.arg.b hd rfl hfit hfree hp (hstay.qStands rfl rfl rfl hq) hlen
    (hstay.qStands rfl rfl rfl hhead)
  obtain ⟨-, hstore⟩ := h.found
  obtain ⟨hm, hc⟩ := faultWritten_keeps (s := putEntry (s.modCtx c.id fun c => unheld c s.arg.b) c s.arg.b e) (e := e)
    fun hs => by rw [hstore] at hs; cases hs
  refine ⟨_, congrArg Host.Outcome.next (writeFault_puts h (by simpa [Context.ringFull] using hroom)), ?_, ?_⟩
  · rw [State.ctx?, hc]
    exact hctx
  · rw [memWritten_iff] at hmem ⊢
    rw [hm]
    exact hmem

theorem storeRecord_written (h : Waits s c e true) (hfit : fieldsFit e) (hroom : c.sfWritten - c.sfResolved < 4096)
    (hp : sectorwise place) (hq : qStands s c place (0x1800080 + 64 * (c.sfWritten % 4096)) 64)
    (hhead : qStands s c place 0x1800040 64)
    (hl : ∀ o, s.op? e.opId = some o → launchLives s o.origin.ctx o.origin.lid) :
    ∃ s', exec .storeFaultRecordWrite s = .next s' ∧
      s'.ctx? c.id = some { unheld c s.arg.b with sfWritten := c.sfWritten + 1 } ∧
      memWritten s s' place (atQ c (0x1800080 + 64 * (c.sfWritten % 4096))
        [(0, dwordBytes ((recordRule s e).map BitVec.toNat))] ++
        [(c.qBase.toNat + 0x1800040, storeBytes { unheld c s.arg.b with sfWritten := c.sfWritten + 1 })]) := by
  have hid : c.id = s.arg.a := id_of_ctx? h.context
  have hd : (s.modCtx c.id fun c => unheld c s.arg.b).ctx? (unheld c s.arg.b).id = some (unheld c s.arg.b) :=
    ctx?_modCtx (hid ▸ h.context) fun _ => rfl
  have hstay := placesStay_modCtx s c.id fun c => unheld c s.arg.b
  have hrecord : e.record (s.modCtx c.id fun c => unheld c s.arg.b) = dwordBytes ((recordRule s e).map BitVec.toNat) :=
    record_eq hfit rfl rfl
  have hlen : (e.record (s.modCtx c.id fun c => unheld c s.arg.b)).length = 64 := by
    simp [hrecord, recordRule, dwordBytes, toBytes]
  obtain ⟨hctx, hlaunches, hops, hmem⟩ := putRecord_writes (c := c) s.arg.b hd rfl rfl hp hlen (hstay.qStands rfl rfl rfl hq)
    (hstay.qStands rfl rfl rfl hhead)
  rw [hrecord] at hmem
  obtain ⟨hm, hc⟩ := faultWritten_keeps (s := putRecord (s.modCtx c.id fun c => unheld c s.arg.b) c s.arg.b e) (e := e)
    fun _ o ho => launchLives_of_launches hlaunches (hl o
      ((congrArg (List.find? fun q : MemOp => q.id == e.opId) hops).symm.trans ho))
  refine ⟨_, congrArg Host.Outcome.next (writeFault_puts h (by simpa [Context.ringFull] using hroom)), ?_, ?_⟩
  · rw [State.ctx?, hc]
    exact hctx
  · rw [memWritten_iff] at hmem ⊢
    rw [hm]
    exact hmem

/-- The context with a fault counted in HELD. -/
def heldCounted (c : Context) (i : Nat) : Context :=
  { c with heldCount := c.heldCount + 1, held := updAt (fun (x : Held) => { x with counted := true }) c.held i }

theorem countHeld_counts (hc : s.ctx? c.id = some c) (hs : e.store = false) (hn : e.counted = false) (hp : sectorwise place)
    (hq : qStands s c place 0 64) (i : Nat) : (s.countHeld c.id i e).ctx? c.id = some (heldCounted c i) ∧
      memWritten s (s.countHeld c.id i e) place [(c.qBase.toNat, retryBytes (heldCounted c i))] := by
  have heq : s.countHeld c.id i e = (s.modCtx c.id fun c => heldCounted c i).retryHeader c.id := by
    simp only [State.countHeld, hs, hn, Bool.false_eq_true, if_false]
    rfl
  have hd : (s.modCtx c.id fun c => heldCounted c i).ctx? (heldCounted c i).id = some (heldCounted c i) :=
    ctx?_modCtx hc fun _ => rfl
  have hheader := retryHeader_stands hd hp ((placesStay_modCtx s c.id fun c => heldCounted c i).qStands rfl rfl rfl hq)
  rw [heq]
  exact ⟨(hheader.home.ctx? _).trans hd, hheader.mem⟩

theorem countHeld_again (hn : e.counted = true) (k i : Nat) : s.countHeld k i e = s := by
  simp [State.countHeld, hn]
end

theorem faultsAreWrittenToTheirRings : FaultsAreWrittenToTheirRings := by
  refine ⟨fun s c e i place h hfit hroom hfree hp hq hlen hhead => ?_, fun s c e place h hfit hroom hp hq hhead hl => ?_,
    fun s c e hc he hdue => ⟨fun hs hfull hn => ?_, fun hs hfull hn => ?_, fun place hs hfull hn hp hq => ?_⟩⟩
  · obtain ⟨s', hexec, hctx, hmem⟩ := retryEntry_written h hfit hroom hfree hp hq hlen hhead
    exact ⟨s', _, hexec, hctx, rfl, hmem⟩
  · obtain ⟨s', hexec, hctx, hmem⟩ := storeRecord_written h hfit hroom hp hq hhead hl
    exact ⟨s', _, hexec, hctx, rfl, hmem⟩
  · exact congrArg Host.Outcome.next ((writeFault_full hc he hdue hs (by simpa [Context.ringFull] using hfull)).trans (countHeld_again hn _ _))
  · exact congrArg Host.Outcome.next ((writeFault_full hc he hdue hs (by simpa [Context.ringFull] using hfull)).trans (countHeld_again hn _ _))
  · obtain ⟨hctx, hmem⟩ := countHeld_counts (e := e) (id_of_ctx? hc ▸ hc) hs hn hp hq s.arg.b
    exact ⟨_, _, congrArg Host.Outcome.next (writeFault_full hc he hdue hs (by simpa [Context.ringFull] using hfull)), hctx, rfl, hmem⟩

/-! ## RRPOP and SFPOP (R275) -/

/-- A team among teams whose monitors may have ended. -/
theorem unarmedTeams_find {us ws : List Team} (h : UnarmedTeams us ws) {k : Handle} {t : Team}
    (ht : us.find? (fun u => u.tid == k) = some t) : ∃ w, ws.find? (fun u => u.tid == k) = some w ∧ Unarmed t w := by
  induction h with
  | nil => cases ht
  | @cons u w us ws huw _ ih =>
    have htid : w.tid = u.tid := by rw [huw.1]
    rw [List.find?_cons] at ht ⊢
    rw [htid]
    split at ht
    · cases ht
      exact ⟨w, rfl, huw⟩
    · exact ih ht

/-- A service instruction's end after its writes into Q: the supervisor goes on with its value (R275). -/
theorem serviced_of_runs {i : Instr} {s v : State} {t : Team} {c' : Context} {place : Nat → Nat} {ws : List (Nat × List Byte)}
    {d : BitVec 7} {x : Dword} (hq : Quiet t) (ht : s.team? t.tid = some t) (hteams : UnarmedTeams s.teams v.teams)
    (hctx : v.ctx? t.ctx = some c') (hmem : memWritten s v place ws) (hcache : (v.core (coreOf t.tid)).cache = [])
    (hexec : exec i s = .next (v.retireS (v.catchUp t) [(d, x)])) : serviced i s t (some (d, x)) c' place ws := by
  obtain ⟨u, hu, humonitor⟩ := unarmedTeams_find hteams ht
  have hcatch : v.catchUp t = { t with monitor := u.monitor } := by
    unfold State.catchUp State.team?
    rw [hu]
  have hteam : v.team? t.tid = some u := hu
  rw [hcatch, retireS_quiet (quiet_monitor hq u.monitor)] at hexec
  refine ⟨_, { t.gone.setS d.toNat x with monitor := u.monitor }, hexec, ?_, hctx, ?_, rfl, fun n => ?_, fun hn => ?_, ?_⟩
  · refine (team?_setTeam_at (t := u) ?_ (Team.gone_tid _)).trans ?_
    · exact (team?_of_teams (s := v) rfl _).trans hteam
    · exact congrArg some ((Team.gone_setS _ _ _).trans (congrArg (Team.setS · d.toNat x) (Team.gone_monitor t _)))
  · rw [memWritten_iff] at hmem ⊢
    exact hmem
  · refine (Team.getS_setS t.gone d.toNat n x).trans ?_
    have hs : t.gone.s = t.s := by rw [Team.gone, Team.advance_eq]; rfl
    rw [Team.getS, hs]
    rfl
  · rw [humonitor.2 hn]
    exact hn
  · rintro k rfl -
    exact hcache

section
variable {s : State} {t : Team} {op : Nat} {f : VFields} {c : Context} {place : Nat → Nat} (h : Serves s t op f c place)
include h

/-- The state in which the acquire of a service instruction has dropped its core's load cache, and its context is as given. -/
def popped (s : State) (t : Team) (g : Context → Context) : State := (s.dropCache (coreOf t.tid)).modCtx t.ctx g

omit h in
theorem placesStay_popped (s : State) (t : Team) (g : Context → Context) : PlacesStay s (popped s t g) where
  first port := by
    simp only [popped, State.firstTlb]
    rw [show ((s.dropCache (coreOf t.tid)).modCtx t.ctx g).core (port / 8) = (s.dropCache (coreOf t.tid)).core (port / 8) from rfl,
      core_dropCache]
    split <;> simp_all
  check := rfl

omit h in
theorem cache_popped (s : State) (t : Team) (g : Context → Context) : ((popped s t g).core (coreOf t.tid)).cache = [] := by
  have hcore := core_dropCache s (coreOf t.tid) (coreOf t.tid)
  rw [if_pos rfl] at hcore
  exact congrArg Core.cache hcore

theorem serves_id : c.id = t.ctx := id_of_ctx? h.context.1

theorem serves_poised : Poised s t := (poised_iff s t).mp h.poised

/-- A pop after which the retry ring's header is written. -/
theorem serviced_retryHeader {i : Instr} {g : Context → Context} {d : BitVec 7} {x : Dword} (hq : qStands s c place 0 64)
    (hid : ∀ c : Context, (g c).id = c.id) (hsup : (g c).supervisor = c.supervisor) (hbase : (g c).qBase = c.qBase)
    (hexec : exec i s = .next (((popped s t g).retryHeader t.ctx).retireS (((popped s t g).retryHeader t.ctx).catchUp t) [(d, x)])) :
    serviced i s t (some (d, x)) (g c) place [(c.qBase.toNat, retryBytes (g c))] := by
  have hp := serves_poised h
  have hctx : (popped s t g).ctx? (g c).id = some (g c) := by
    rw [hid, serves_id h]
    exact ctx?_modCtx (s := s.dropCache (coreOf t.tid)) h.context.1 hid
  have hheader := retryHeader_stands hctx h.order ((placesStay_popped s t g).qStands hsup (hid c) hbase hq)
  rw [hid, serves_id h] at hheader hctx
  rw [hbase] at hheader
  refine serviced_of_runs hp.quiet hp.here hheader.teams ((hheader.home.ctx? _).trans hctx) ?_ ?_ hexec
  · exact hheader.mem
  · rw [hheader.home.core]
    exact cache_popped s t g

/-- A pop after which the store-fault header is written. -/
theorem serviced_storeHeader {i : Instr} {g : Context → Context} {d : BitVec 7} {x : Dword} (hq : qStands s c place 0x1800040 64)
    (hid : ∀ c : Context, (g c).id = c.id) (hsup : (g c).supervisor = c.supervisor) (hbase : (g c).qBase = c.qBase)
    (hexec : exec i s = .next (((popped s t g).storeHeader t.ctx).retireS (((popped s t g).storeHeader t.ctx).catchUp t) [(d, x)])) :
    serviced i s t (some (d, x)) (g c) place [(c.qBase.toNat + 0x1800040, storeBytes (g c))] := by
  have hp := serves_poised h
  have hctx : (popped s t g).ctx? (g c).id = some (g c) := by
    rw [hid, serves_id h]
    exact ctx?_modCtx (s := s.dropCache (coreOf t.tid)) h.context.1 hid
  have hheader := storeHeader_stands hctx h.order ((placesStay_popped s t g).qStands hsup (hid c) hbase hq)
  rw [hid, serves_id h] at hheader hctx
  rw [hbase] at hheader
  refine serviced_of_runs hp.quiet hp.here hheader.teams ((hheader.home.ctx? _).trans hctx) ?_ ?_ hexec
  · exact hheader.mem
  · rw [hheader.home.core]
    exact cache_popped s t g
end

theorem vdReg_eq (f : VFields) : BitVec.ofNat 7 f.vd.toNat = vdReg f := by
  simp [vdReg]

/-- The context after RRPOP of slot i's entry. -/
def retryPopped (r : List Nat) (c : Context) : Context := { c with retryOrder := r, popped := c.popped + 1 }

/-- The context after SFPOP: the last record is freed, and the next taken. -/
def storePopped (more : Bool) (c : Context) : Context :=
  { c with sfResolved := c.sfPopped, sfPopped := if more then c.sfPopped + 1 else c.sfPopped }

section
variable {s : State} {t : Team} {f : VFields} {c : Context} {place : Nat → Nat}

theorem rrpop_none (h : Serves s t 0x290 f c place) (hn : c.retryOrder = []) :
    serviced (.rrpop f) s t (some (vdReg f, BitVec.allOnes 64)) c place [] := by
  have hp := serves_poised h
  refine serviced_of_runs (v := s.dropCache (coreOf t.tid)) hp.quiet hp.here (.refl _) h.context.1 (memWritten_refl rfl place)
    (cache_popped s t id) ?_
  rw [State.catchUp_same (s := s.dropCache (coreOf t.tid)) hp.here rfl, exec, execRrpop, issueV_passes hp _ _ _ h.checks]
  simp only [h.context.1, hn, vdReg_eq]
  rfl

theorem rrpop_entry (h : Serves s t 0x290 f c place) {i : Nat} {r : List Nat} (hn : c.retryOrder = i :: r)
    (hq : qStands s c place 0 64) : serviced (.rrpop f) s t (some (vdReg f, BitVec.ofNat 64 (64 + 24576 * i))) (retryPopped r c)
      place [(c.qBase.toNat, retryBytes (retryPopped r c))] := by
  refine serviced_retryHeader h hq (fun _ => rfl) rfl rfl ?_
  rw [exec, execRrpop, issueV_passes (serves_poised h) _ _ _ h.checks]
  simp only [h.context.1, hn, vdReg_eq, serves_id h]
  rfl

theorem sfpop_record (h : Serves s t 0x293 f c place) (hq : qStands s c place 0x1800040 64) :
    serviced (.sfpop f) s t (some (vdReg f, if decide (c.sfPopped < c.sfWritten) then
        BitVec.ofNat 64 (0x1800080 + 64 * (c.sfPopped % 4096)) else BitVec.allOnes 64))
      (storePopped (decide (c.sfPopped < c.sfWritten)) c) place
      [(c.qBase.toNat + 0x1800040, storeBytes (storePopped (decide (c.sfPopped < c.sfWritten)) c))] := by
  refine serviced_storeHeader h hq (fun _ => rfl) rfl rfl ?_
  rw [exec, execSfpop, issueV_passes (serves_poised h) _ _ _ h.checks]
  simp only [h.context.1, vdReg_eq, serves_id h]
  rfl
end

theorem ringsArePoppedInOrder : RingsArePoppedInOrder := by
  refine ⟨fun s t f c place h => ⟨rrpop_none h, fun i r hn hq => rrpop_entry h hn hq⟩, fun s t f c place h hq =>
    ⟨fun hn => ?_, fun hn => ?_⟩⟩ <;> have hpop := sfpop_record h hq
  · rw [decide_eq_false (by omega)] at hpop
    exact hpop
  · rw [decide_eq_true hn] at hpop
    exact hpop

/-- Settles O43: an entry, a record and a header are each a run written at its place, and the supervisor that pops goes on
with its value. -/
theorem faultRingsAreWrittenAndPopped : Obligations.FaultRingsAreWrittenAndPopped :=
  ⟨faultsAreWrittenToTheirRings, ringsArePoppedInOrder⟩

end Sys2Proof.Machine
end

section
/-! PROOFS. What the service of a request at its home slice does to estates, words, waiters and teams (R40, R213 to R219, R341). -/

namespace Sys2Proof.Machine

open Sys2Proof.Claims

/-! ## States that agree in what a write through page tables reads (R295) -/

/-- Two states agree in all that a translation and its caching read. -/
structure SameStore (s w : State) : Prop where
  maps : SameMaps s w
  fresh : w.fresh = s.fresh

theorem SameStore.refl (s : State) : SameStore s s := ⟨⟨rfl, rfl, rfl, rfl, rfl, rfl, rfl⟩, rfl⟩

theorem HomeOnly.stays {s w : State} (h : HomeOnly s w) : w.cores = s.cores ∧ w.ctxs = s.ctxs ∧ w.accepted = s.accepted ∧
    w.moduleNumber = s.moduleNumber ∧ w.routes = s.routes ∧ w.links = s.links ∧ w.fresh = s.fresh := by
  unfold HomeOnly at h
  refine ⟨?_, ?_, ?_, ?_, ?_, ?_, ?_⟩ <;> rw [h]

namespace SameStore

variable {s w : State} (h : SameStore s w)
include h

theorem homeWriteBy (n : Nat) (nc : Bool) (pa : Nat) (bs : List Byte) :
    SameStore (s.homeWriteBy n nc pa bs) (w.homeWriteBy n nc pa bs) := by
  obtain ⟨s1, s2, s3, s4, s5, s6, s7⟩ := (homeOnly_homeWriteBy s n nc pa bs).stays
  obtain ⟨w1, w2, w3, w4, w5, w6, w7⟩ := (homeOnly_homeWriteBy w n nc pa bs).stays
  refine ⟨⟨?_, ?_, ?_, ?_, ?_, ?_, ?_⟩, ?_⟩
  · rw [homeWriteBy_mem, homeWriteBy_mem, h.maps.mem]
  · rw [w1, s1, h.maps.cores]
  · rw [w2, s2, h.maps.ctxs]
  · rw [w3, s3, h.maps.accepted]
  · rw [w4, s4, h.maps.moduleNumber]
  · rw [w5, s5, h.maps.routes]
  · rw [w6, s6, h.maps.links]
  · rw [w7, s7, h.fresh]

theorem modCore (k : Nat) (f : Core → Core) : SameStore (s.modCore k f) (w.modCore k f) := by
  refine ⟨⟨h.maps.mem, ?_, h.maps.ctxs, h.maps.accepted, h.maps.moduleNumber, h.maps.routes, h.maps.links⟩, h.fresh⟩
  simp only [State.modCore, State.core, h.maps.cores]

theorem keepIn {α : Type} (size : Nat) (es : List α) (e : α) : (w.keepIn size es e).1 = (s.keepIn size es e).1 ∧
    SameStore (s.keepIn size es e).2 (w.keepIn size es e).2 := by
  unfold State.keepIn
  split
  · exact ⟨rfl, h⟩
  · refine ⟨?_, ⟨h.maps.mem, h.maps.cores, h.maps.ctxs, h.maps.accepted, h.maps.moduleNumber, h.maps.routes, h.maps.links⟩, ?_⟩
    · simp only [State.drawBelow, State.drawFree, h.fresh]
    · simp only [State.drawBelow, State.drawFree, h.fresh]

theorem keepFirst (port : Nat) (e : TlbEntry) : SameStore (s.keepFirst port e) (w.keepFirst port e) := by
  have hfirst : w.firstTlb port = s.firstTlb port := by simp only [State.firstTlb, h.maps.core]
  unfold State.keepFirst
  split
  · exact h
  · rw [hfirst]
    obtain ⟨heq, hkept⟩ := h.keepIn tlbSizes.1 (s.firstTlb port) e
    dsimp only
    rw [heq]
    exact hkept.modCore _ _

theorem keepSecond (core : Nat) (e : TlbEntry) : SameStore (s.keepSecond core e) (w.keepSecond core e) := by
  unfold State.keepSecond
  rw [h.maps.core]
  obtain ⟨heq, hkept⟩ := h.keepIn tlbSizes.2 (s.core core).tlb e
  dsimp only
  rw [heq]
  exact hkept.modCore _ _

theorem countPerf (core ctx code n : Nat) : SameStore (s.countPerf core ctx code n) (w.countPerf core ctx code n) := by
  unfold State.countPerf
  rw [h.maps.core]
  split
  · exact h
  · exact h.modCore _ _

theorem fillTlb (port ctx va : Nat) : SameStore (s.fillTlb port ctx va) (w.fillTlb port ctx va) := by
  have hfirst : w.firstTlb port = s.firstTlb port := by simp only [State.firstTlb, h.maps.core]
  have hcount := (h.countPerf (port / 8) ctx 7 1).countPerf (port / 8) ctx 8 1
  unfold State.fillTlb
  rw [hfirst, h.maps.core, h.maps.walk]
  split
  · exact h
  · split
    · exact h.keepFirst _ _
    · split
      · exact (hcount.keepSecond _ _).keepFirst _ _
      · exact hcount

theorem firstFault (port ctx va n : Nat) (a : Acc) : w.firstFault port ctx va n a = s.firstFault port ctx va n a := by
  simp only [State.firstFault, h.maps.translate]

theorem dropLine (core line : Nat) : SameStore (s.dropLine core line) (w.dropLine core line) := h.modCore _ _
end SameStore

/-- A relation of states that agree at least in what a translation reads, and that writes through page tables keep. -/
structure FollowsStores (R : State → State → Prop) : Prop where
  store : ∀ {s w : State}, R s w → SameStore s w
  fillTlb : ∀ {s w : State}, R s w → ∀ port ctx va, R (s.fillTlb port ctx va) (w.fillTlb port ctx va)
  homeWriteBy : ∀ {s w : State}, R s w → ∀ n nc pa bs, R (s.homeWriteBy n nc pa bs) (w.homeWriteBy n nc pa bs)
  dropLine : ∀ {s w : State}, R s w → ∀ core line, R (s.dropLine core line) (w.dropLine core line)

theorem followsStores_sameStore : FollowsStores SameStore where
  store h := h
  fillTlb h := h.fillTlb
  homeWriteBy h := h.homeWriteBy
  dropLine h := h.dropLine

section
variable {R : State → State → Prop} (hR : FollowsStores R) {s w : State} (h : R s w)
include hR h

/-- A write through page tables and what it leaves, from states that agree in what it reads: it fails in both, or in neither. -/
theorem FollowsStores.vWrite (port ctx va : Nat) (bs : List Byte) :
    (∃ f, s.vWrite port ctx va bs = .inr f ∧ w.vWrite port ctx va bs = .inr f) ∨
    ∃ a b, s.vWrite port ctx va bs = .inl a ∧ w.vWrite port ctx va bs = .inl b ∧ R a b := by
  unfold State.vWrite
  rw [(hR.store h).firstFault]
  cases s.firstFault port ctx va bs.length .write with
  | some f => exact .inl ⟨f, rfl, rfl⟩
  | none =>
    refine .inr ⟨_, _, rfl, rfl, List.foldl_rel (r := R) h fun p _ a b hab => ?_⟩
    rw [(hR.store h).maps.translate]
    cases s.translate port ctx p.1 .write with
    | ok pa nc => exact hR.homeWriteBy (hR.fillTlb hab _ _ _) _ _ _ _
    | fault f => exact hab

theorem FollowsStores.writeEstate {t u : Team} (hid : u.tid = t.tid) (hctx : u.ctx = t.ctx)
    (hsegs : u.segs = t.segs) (old new : List Estate) : R (s.writeEstate t old new) (w.writeEstate u old new) := by
  have hseg : u.seg 3 = t.seg 3 := by rw [Team.seg, hsegs, Team.seg]
  refine List.foldl_rel (r := R) h fun i _ a b hab => ?_
  rw [hseg, hid, hctx]
  split
  · exact hab
  · dsimp only
    generalize dwordBytes _ = bs
    obtain ⟨f, ha, hb⟩ | ⟨x, y, ha, hb, hxy⟩ := hR.vWrite hab (portOf t.tid) t.ctx ((t.seg 3).base.toNat + 32 * i) bs
    · rw [ha, hb]
      exact hab
    · rw [ha, hb]
      refine List.foldl_rel (r := R) hxy fun p _ c d hcd => ?_
      rw [(hR.store hab).maps.translate]
      cases a.translate (portOf t.tid) t.ctx p.1 .write with
      | ok pa nc => exact hR.dropLine hcd _ _
      | fault f => exact hcd
end

/-- A change of an estate, from states that agree in what it reads, of teams that agree in their estates and where they stand
in E. -/
theorem SameStore.setEstate {s w : State} (h : SameStore s w) {k : Handle} {t u : Team} (ht : s.team? k = some t)
    (hu : w.team? k = some u) (hctx : u.ctx = t.ctx) (hsegs : u.segs = t.segs) (hestate : u.estate = t.estate)
    {f g : List Estate → List Estate} (hfg : g t.estate = f t.estate) : SameStore (s.setEstate k f) (w.setEstate k g) := by
  have hid : u.tid = t.tid := (State.tid_of_team? hu).trans (State.tid_of_team? ht).symm
  simp only [State.setEstate, ht, hu, hestate, hfg]
  obtain ⟨⟨h1, h2, h3, h4, h5, h6, h7⟩, h8⟩ := followsStores_sameStore.writeEstate h hid hctx hsegs t.estate (f t.estate)
  exact ⟨⟨h1, h2, h3, h4, h5, h6, h7⟩, h8⟩

/-- The memory that it leaves. -/
theorem SameStore.setEstate_mem {s w : State} (h : SameStore s w) {k : Handle} {t u : Team} (ht : s.team? k = some t)
    (hu : w.team? k = some u) (hctx : u.ctx = t.ctx) (hsegs : u.segs = t.segs) (hestate : u.estate = t.estate)
    {f g : List Estate → List Estate} (hfg : g t.estate = f t.estate) : (w.setEstate k g).mem = (s.setEstate k f).mem :=
  (h.setEstate ht hu hctx hsegs hestate hfg).maps.mem

/-! ## What a change of an estate leaves -/

/-- State w is state s up to memory, what the slices and the cores hold of it, arms and teams. -/
def StoreOnly (s w : State) : Prop :=
  w = { s with
    mem := w.mem, poison := w.poison, dcache := w.dcache, plru := w.plru, covered := w.covered, arms := w.arms, teams := w.teams
    cores := w.cores, fresh := w.fresh }

theorem StoreOnly.refl (s : State) : StoreOnly s s := rfl

theorem StoreOnly.trans {s v w : State} (h : StoreOnly s v) (h' : StoreOnly v w) : StoreOnly s w := by
  unfold StoreOnly at *
  rw [h', h]

theorem StoreOnly.fold {β : Type} {f : State → β → State} (hf : ∀ s b, StoreOnly s (f s b)) (l : List β) (s : State) :
    StoreOnly s (l.foldl f s) :=
  List.foldlRecOn (motive := StoreOnly s) l f (.refl s) fun _ h b _ => h.trans (hf _ b)

theorem HomeOnly.storeOnly {s w : State} (h : HomeOnly s w) : StoreOnly s w := by
  unfold HomeOnly at h
  unfold StoreOnly
  rw [h]

theorem CoresOnly.storeOnly {s w : State} (h : CoresOnly s w) : StoreOnly s w := by
  unfold CoresOnly at h
  unfold StoreOnly
  rw [h]

theorem storeOnly_vWrite {s w : State} {port ctx va : Nat} {bs : List Byte} (h : s.vWrite port ctx va bs = .inl w) :
    StoreOnly s w := by
  rcases vWrite_cases s port ctx va bs with ⟨f, -, hf⟩ | ⟨-, hw⟩
  · rw [hf] at h; cases h
  · rw [hw] at h
    cases h
    refine StoreOnly.fold (fun v p => ?_) _ _
    split
    · exact (coresOnly_fillTlb v ..).storeOnly.trans (homeOnly_homeWriteBy ..).storeOnly
    · exact .refl v

theorem storeOnly_writeEstate (s : State) (t : Team) (old new : List Estate) : StoreOnly s (s.writeEstate t old new) := by
  refine StoreOnly.fold (fun v i => ?_) _ _
  split
  · exact .refl v
  · dsimp only
    split
    · rename_i w hw
      refine (storeOnly_vWrite hw).trans (StoreOnly.fold (fun u p => ?_) _ _)
      split
      · exact (coresOnly_modCore ..).storeOnly
      · exact .refl u
    · exact .refl v

theorem writesOnly_writeEstate (s : State) (t : Team) (old new : List Estate) : WritesOnly s (s.writeEstate t old new) := by
  refine WritesOnly.fold (fun v i => ?_) _ _
  split
  · exact .refl v
  · dsimp only
    split
    · rename_i w hw
      refine (writesOnly_vWrite hw).trans (WritesOnly.fold (fun u p => ?_) _ _)
      split
      · exact (coresOnly_modCore ..).writesOnly
      · exact .refl u
    · exact .refl v

theorem storeOnly_modTeam (s : State) (k : Handle) (f : Team → Team) : StoreOnly s (s.modTeam k f) := rfl

theorem storeOnly_setEstate (s : State) (k : Handle) (f : List Estate → List Estate) : StoreOnly s (s.setEstate k f) := by
  unfold State.setEstate
  split
  · exact .refl s
  · exact (storeOnly_writeEstate ..).trans (storeOnly_modTeam ..)

theorem storeOnly_setWord (s : State) (pa w : Nat) : StoreOnly s (s.setWord pa w) := (homeOnly_homeWriteBy ..).storeOnly

theorem acquireAt_coresOnly (s : State) (core scope : Nat) : CoresOnly s (s.acquireAt core scope) := by
  unfold State.acquireAt
  split <;> rfl

theorem acquireAt_teams (s : State) (core scope : Nat) : (s.acquireAt core scope).teams = s.teams := by
  unfold State.acquireAt
  split <;> rfl

/-! ## Teams -/

/-- A team without a monitor stands as it stood after writes. -/
theorem team?_of_unarmed {s w : State} (h : UnarmedTeams s.teams w.teams) {k : Handle} {u : Team} (hu : s.team? k = some u)
    (hm : u.monitor = .none_) : w.team? k = some u := by
  obtain ⟨v, hv, -, hsame⟩ := unarmedTeams_find h hu
  rw [State.team?, hv, hsame hm]

section
variable {s : State} {k : Handle} {u : Team} (hu : s.team? k = some u) (hm : u.monitor = .none_)
include hu hm

theorem team?_setWord (pa w : Nat) : (s.setWord pa w).team? k = some u :=
  team?_of_unarmed (writesOnly_homeWriteBy ..).teams hu hm

theorem team?_homeWrite (pa : Nat) (bs : List Byte) : (s.homeWrite pa bs).team? k = some u :=
  team?_of_unarmed (writesOnly_homeWriteBy ..).teams hu hm

theorem team?_setEstate (f : List Estate → List Estate) :
    (s.setEstate k f).team? k = some { u with estate := f u.estate } := by
  have hid : u.tid = k := State.tid_of_team? hu
  have hkept := team?_of_unarmed (writesOnly_writeEstate s u u.estate (f u.estate)).teams hu hm
  simp only [State.setEstate, hu]
  refine (State.team?_modTeam_same _ k (fun v => { v with estate := f u.estate }) fun v hv => hv).trans ?_
  rw [hkept]
  rfl

theorem team?_setEstate_ne {h : Handle} (hk : k ≠ h) (f : List Estate → List Estate) : (s.setEstate h f).team? k = some u := by
  unfold State.setEstate
  split
  · exact hu
  · rename_i t ht
    rw [State.team?_modTeam_ne _ (fun v => { v with estate := f t.estate }) hk fun v hv => hv]
    exact team?_of_unarmed (writesOnly_writeEstate s t t.estate (f t.estate)).teams hu hm
end

theorem team?_acquireAt (s : State) (core scope : Nat) (k : Handle) : (s.acquireAt core scope).team? k = s.team? k :=
  team?_of_teams (acquireAt_teams s core scope) k

theorem setEstate_congr {s : State} {k : Handle} {t : Team} (ht : s.team? k = some t) {f g : List Estate → List Estate}
    (h : f t.estate = g t.estate) : s.setEstate k f = s.setEstate k g := by
  simp only [State.setEstate, ht, h]

/-! ## Grants and replies (R39, R40) -/

/-- What the service of a request leaves: launches, tags, queues, and what contexts show. -/
structure Tended (s w : State) : Prop where
  launches : w.launches = s.launches
  tags : w.tags = s.tags
  lockQ : w.lockQ = s.lockQ
  permitQ : w.permitQ = s.permitQ
  promiseQ : w.promiseQ = s.promiseQ
  ctx : ∀ n, (w.ctx? n).map Context.shown = (s.ctx? n).map Context.shown

theorem Tended.refl (s : State) : Tended s s := ⟨rfl, rfl, rfl, rfl, rfl, fun _ => rfl⟩

theorem Tended.trans {s v w : State} (h : Tended s v) (h' : Tended v w) : Tended s w :=
  ⟨h'.launches.trans h.launches, h'.tags.trans h.tags, h'.lockQ.trans h.lockQ, h'.permitQ.trans h.permitQ,
    h'.promiseQ.trans h.promiseQ, fun n => (h'.ctx n).trans (h.ctx n)⟩

theorem StoreOnly.tended {s w : State} (h : StoreOnly s w) : Tended s w := by
  unfold StoreOnly at h
  constructor <;> intros <;> rw [h]
  rfl

theorem Tended.isSup {s w : State} (h : Tended s w) (u : Team) : w.isSup u = s.isSup u := by
  have hctx := h.ctx u.ctx
  unfold State.isSup
  cases hw : w.ctx? u.ctx <;> cases hs : s.ctx? u.ctx <;> simp_all [Context.shown]

theorem Tended.header {s w : State} (h : Tended s w) (u : Team) : w.header u = s.header u := by
  simp only [State.header, State.launch?, h.launches]

/-- Contexts that are changed in what they do not show. -/
theorem ctx?_mapCtxs_shown (s : State) {g : Context → Context} (hid : ∀ c, (g c).id = c.id)
    (hshown : ∀ c, (g c).shown = c.shown) (n : Nat) :
    (({ s with ctxs := s.ctxs.map g } : State).ctx? n).map Context.shown = (s.ctx? n).map Context.shown := by
  have hp : (fun x : Context => x.id == n) ∘ g = fun x => x.id == n := funext fun c => by simp [hid]
  simp only [State.ctx?, List.find?_map, Option.map_map, hp]
  exact congrArg (Option.map · _) (funext hshown)

theorem tended_notify (s : State) (k : Handle) (for_ : Park → Bool) (w : Wake) : Tended s (s.notify k for_ w) where
  launches := rfl
  tags := rfl
  lockQ := rfl
  permitQ := rfl
  promiseQ := rfl
  ctx n := by
    refine ctx?_mapCtxs_shown (s.modTeam k (notified for_ w)) ?_ ?_ n
    · intro c; split <;> rfl
    · intro c; split <;> rfl

theorem tended_grant (s : State) (k : Handle) (ws : List (BitVec 7 × Dword)) (scope : Nat) (for_ : Park → Bool) :
    Tended s (s.grant k ws scope for_) := by
  have hnote : Tended s (s.noteWrites k true (ws.map fun w => (w.1.toNat, 0))) := ⟨rfl, rfl, rfl, rfl, rfl, fun _ => rfl⟩
  exact ((hnote.trans (storeOnly_modTeam ..).tended).trans (acquireAt_coresOnly ..).storeOnly.tended).trans (tended_notify ..)

theorem grant_mem (s : State) (k : Handle) (ws : List (BitVec 7 × Dword)) (scope : Nat) (for_ : Park → Bool) :
    (s.grant k ws scope for_).mem = s.mem := by
  unfold State.grant State.acquireAt
  dsimp only
  split <;> rfl

theorem team?_grant (s : State) (k : Handle) (ws : List (BitVec 7 × Dword)) (scope : Nat) (for_ : Park → Bool) (h : Handle) :
    (s.grant k ws scope for_).team? h =
      if h = k then (s.team? h).map fun u => notified for_ .done (u.setAll ws) else s.team? h := by
  have hset : ∀ u : Team, (u.setAll ws).tid = u.tid := fun u => by rw [Team.setAll_eq]
  refine (team?_notify _ k h for_ .done).trans ?_
  rw [team?_acquireAt]
  split
  · rename_i hk
    subst hk
    have hmod := State.team?_modTeam_same (s.noteWrites h true (ws.map fun w => (w.1.toNat, 0))) h (fun u => u.setAll ws)
      fun u hu => (hset u).trans hu
    exact (congrArg (Option.map (notified for_ .done)) hmod).trans (Option.map_map ..)
  · rename_i hk
    exact State.team?_modTeam_ne (s.noteWrites k true (ws.map fun w => (w.1.toNat, 0))) (fun u => u.setAll ws) hk
      fun u hu => (hset u).trans hu

section
variable {s : State} {k : Handle} {u : Team} (hu : s.team? k = some u) (hq : Quiet u)
include hu hq

theorem replyWith_eq (ws : List (BitVec 7 × Dword)) : s.replyWith k ws =
    (s.noteWrites u.tid true (ws.map fun w => (w.1.toNat, 0))).setTeam (u.setAll ws).gone := by
  simp only [State.replyWith, hu]
  exact retireS_quiet hq ws

theorem team?_replyWith (ws : List (BitVec 7 × Dword)) : (s.replyWith k ws).team? k = some (u.setAll ws).gone := by
  have hset : (u.setAll ws).tid = u.tid := by rw [Team.setAll_eq]
  have hid : (u.setAll ws).gone.tid = k := (Team.gone_tid _).trans (hset.trans (State.tid_of_team? hu))
  rw [replyWith_eq hu hq]
  exact team?_setTeam_at ((team?_of_teams (s := s) rfl _).trans hu) hid

theorem team?_replyWith_ne (ws : List (BitVec 7 × Dword)) {h : Handle} (hh : h ≠ k) : (s.replyWith k ws).team? h = s.team? h := by
  have hset : (u.setAll ws).tid = u.tid := by rw [Team.setAll_eq]
  have hid : (u.setAll ws).gone.tid = k := (Team.gone_tid _).trans (hset.trans (State.tid_of_team? hu))
  rw [replyWith_eq hu hq, State.team?_setTeam_ne _ _ (hid ▸ hh)]
  rfl

theorem replyWith_mem (ws : List (BitVec 7 × Dword)) : (s.replyWith k ws).mem = s.mem := by
  rw [replyWith_eq hu hq]; rfl

theorem replyWith_core (ws : List (BitVec 7 × Dword)) (c : Nat) : (s.replyWith k ws).core c = s.core c := by
  rw [replyWith_eq hu hq]; rfl

theorem tended_replyWith (ws : List (BitVec 7 × Dword)) : Tended s (s.replyWith k ws) := by
  rw [replyWith_eq hu hq]
  exact ⟨rfl, rfl, rfl, rfl, rfl, fun _ => rfl⟩
end

/-! ## The service (R40) -/

/-- What the service of an object's request does, its frame aside (R213 to R219). -/
def serviceOf (r : Req) (t : Team) : ReqKind → Option (State → State)
  | .hold sd claim heir h => some fun v => serveHold v r t sd claim heir h
  | .hrel => some fun v => serveHrel v r t
  | .hclrb => some fun v => serveHclrb v r t
  | .hclrbPool => some fun v => (v.setWord r.pa (v.physDword r.pa % 2 ^ 32)).replyWith t.tid []
  | .pmake heir h => some fun v => servePmake v r t heir h
  | .pfulfil x => some fun v => servePfulfil v r t x
  | .pwait sd fl => some fun v => servePwait v r t sd fl
  | .permget sd n heir h fl => some fun v => servePermget v r t sd n heir h fl
  | .permput n => some fun v => servePermput v r t n
  | .convey sd => some fun v => serveConvey v r t sd
  | _ => none

/-- The state in which a request has left its queue and the entries of its object have been used. -/
def takenUp (s : State) (r : Req) : State := (s.takeReq r).useEntries r.pa

theorem slice_of_nextCore {s : State} {k : Nat} {r : Req} (h : s.nextCore k = some r) : r.slice = k := by
  obtain ⟨i, -, hi⟩ := List.mem_filterMap.mp (List.mem_of_find?_eq_some h)
  have := List.find?_some hi
  simp only [Bool.and_eq_true, beq_iff_eq] at this
  exact this.1

section
variable {s : State} {t : Team} {r : Req} (hs : Served s r t)
include hs

theorem takenUp_eq : ∃ o, takenUp s r = { served s r with syncOrder := o } := by
  have hslice := slice_of_nextCore hs.next
  obtain ⟨o, ho⟩ := useEntries_eq (s.takeReq r) r.pa
  refine ⟨o, ?_⟩
  rw [takenUp, ho, State.takeReq, hslice]
  rfl

theorem takenUp_team : (takenUp s r).team? t.tid = some t := (beside_taken t s r).team (tid_of_served hs ▸ hs.team)

theorem tended_takenUp : Tended s (takenUp s r) := by
  obtain ⟨o, ho⟩ := takenUp_eq hs
  rw [ho]
  exact ⟨rfl, rfl, rfl, rfl, rfl, fun _ => rfl⟩

theorem takenUp_team? (k : Handle) : (takenUp s r).team? k = s.team? k := by
  obtain ⟨o, ho⟩ := takenUp_eq hs
  rw [ho]; rfl

theorem takenUp_mem : (takenUp s r).mem = s.mem := by
  obtain ⟨o, ho⟩ := takenUp_eq hs
  rw [ho]; rfl

theorem takenUp_physDword (pa : Nat) : (takenUp s r).physDword pa = s.physDword pa := by
  rw [State.physDword, takenUp_mem hs, State.physDword]

theorem sameStore_takenUp : SameStore (served s r) (takenUp s r) := by
  obtain ⟨o, ho⟩ := takenUp_eq hs
  rw [ho]
  exact ⟨⟨rfl, rfl, rfl, rfl, rfl, rfl, rfl⟩, rfl⟩

theorem serveReq_of {f : State → State} (hf : serviceOf r t r.kind = some f) :
    s.serveReq r = ((f (takenUp s r)).tagLine (lineOf r.pa) r.core r.mark).noteRead r.tid r.pa := by
  have hteam := takenUp_team hs
  have hclean : (takenUp s r).poisoned r.pa = false := by
    rw [State.poisoned, takenUp, poison_taken]; exact hs.clean
  have htaken : (s.takeReq r).team? r.tid = some t := hs.team
  have hcatch := State.catchUp_same hteam rfl
  unfold takenUp at hcatch hclean ⊢
  cases hk : r.kind <;> rw [hk] at hf <;> cases hf <;>
    simp only [State.serveReq, hk, htaken, Req.heap?, hcatch, hclean, Bool.false_eq_true, if_false]

/-- The service of an object's request, its frame resolved: the tag of its line aside it is what it does at its object. -/
theorem exec_serves {f : State → State} (hf : serviceOf r t r.kind = some f) {w : State} (hw : f (takenUp s r) = w)
    (htags : w.tags = s.tags) : ∃ ts, exec .homeSliceServe s = .next { w with tags := ts } := by
  have hexec : exec .homeSliceServe s = .next (s.serveReq r) := by
    rw [show exec .homeSliceServe s = execHomeSliceServe s from rfl]
    simp only [execHomeSliceServe, hs.next, hs.ready, Bool.false_eq_true, if_false]
  refine ⟨(w.tagLine (lineOf r.pa) r.core r.mark).tags, hexec.trans (congrArg Host.Outcome.next ?_)⟩
  rw [serveReq_of hs hf, hw, hs.core, noteRead_tagLine (htags.trans hs.tags)]
  exact tagLine_frame w _ _ _

/-- A service that ends in a trap of its team, as it then stands. -/
theorem servesTrap_of {f : State → State} (hf : serviceOf r t r.kind = some f) {v : State} {u : Team} {cause : Nat}
    (hw : f (takenUp s r) = v.replyTrap r cause) (hv : Tended s v) (hu : v.team? t.tid = some u) (hq : Quiet u)
    (hsup : v.isSup u = false) : servesTrap s u cause r.va := by
  have hid : u.tid = t.tid := State.tid_of_team? hu
  have htid := tid_of_served hs
  have htrap : v.replyTrap r cause = v.trap u cause 0 r.va 0 := by
    rw [htid] at hu
    simp only [State.replyTrap, hu]
  have hposts := trap_trapsAs_quiet (t := u) (hid.symm ▸ hu) hq hsup cause r.va
  obtain ⟨ts, hexec⟩ := exec_serves hs hf (hw.trans htrap) (by rw [trap_posts hsup]; exact hv.tags)
  refine ⟨_, hexec, hposts.1, fun c hc => ?_⟩
  have hshown := hv.ctx u.ctx
  rw [hc, Option.map_some, Option.map_eq_some_iff] at hshown
  obtain ⟨c', hc', hsame⟩ := hshown
  obtain ⟨x, hx, hpend⟩ := hposts.2 c' hc'
  exact ⟨x, hx, by rw [hpend]; exact congrArg (fun p => p.2 ++ _) hsame⟩

/-- A service that traps at once. -/
theorem servesTrap_atOnce {f : State → State} (hf : serviceOf r t r.kind = some f) {cause : Nat}
    (hw : f (takenUp s r) = (takenUp s r).replyTrap r cause) : servesTrap s t cause r.va :=
  servesTrap_of hs hf hw (tended_takenUp hs) (takenUp_team hs) hs.quiet
    (((tended_takenUp hs).isSup t).trans hs.alive.2.2)
end

end Sys2Proof.Machine
end

section
/-! PROOFS. Locks at their home slice (R213 to R215, R343): HOLD, HREL and HCLRB; O25. -/

namespace Sys2Proof.Machine

open Sys2Proof.Claims

/-! ## Words -/

theorem lockTo_eq (w : Nat) (h : Handle) : lockTo w h false = lockWord h (w.testBit 31) (w + 1) := by
  simp only [lockTo, lockWord, bit, lockBereaved, Bool.false_or]

/-- ORPHAN beside a lock's word that shows it clear. -/
theorem lockWord_or_orphan (h : Handle) (b : Bool) (n : Nat) : lockWord h b n ||| lockOrphan = lockWord h b n + 2 ^ 30 := by
  have hlow : n % 2 ^ 16 < 2 ^ 30 := lt_of_lt_of_le (Nat.mod_lt _ (by decide)) (by decide)
  have hword : lockWord h b n = 2 ^ 31 * (h.toNat * 2 + if b then 1 else 0) + n % 2 ^ 16 := by
    unfold lockWord
    split <;> omega
  have hparts := Nat.two_pow_add_eq_or_of_lt (i := 31) (show n % 2 ^ 16 < 2 ^ 31 by omega) (h.toNat * 2 + if b then 1 else 0)
  have horphan := Nat.two_pow_add_eq_or_of_lt (i := 30) hlow 1
  have hall := Nat.two_pow_add_eq_or_of_lt (i := 31) (show 2 ^ 30 * 1 + n % 2 ^ 16 < 2 ^ 31 by omega)
    (h.toNat * 2 + if b then 1 else 0)
  rw [hword, hparts, Nat.or_assoc, Nat.or_comm (n % 2 ^ 16), show lockOrphan = 2 ^ 30 * 1 from rfl, ← horphan, ← hall, ← hparts]
  omega

/-! ## Estates -/

theorem entry?_isSome (t : Team) (k : EKind) (va : Dword) : (t.entry? k va).isSome = owns t k va := by
  refine Bool.eq_iff_iff.mpr ?_
  simp [Team.entry?, owns, List.find?_isSome]

theorem estateFull_iff {s v : State} (h : Tended s v) (t : Team) : v.estateFull t = true ↔ ¬ roomy s t := by
  simp only [State.estateFull, roomy, h.header, decide_eq_true_eq, not_lt]

theorem Team.gone_estate (t : Team) (es : List Estate) : ({ t with estate := es } : Team).gone = { t.gone with estate := es } := by
  cases t with
  | mk => simp only [Team.gone, Team.advance]; split <;> [rfl; (split <;> rfl)]

theorem quiet_estate {t : Team} (h : Quiet t) (es : List Estate) : Quiet { t with estate := es } :=
  ⟨h.late, h.stepping, h.stays, h.yields⟩

/-! ## A team that waits in an object's queue (R213, R216, R217) -/

/-- State w is state s up to the tables of the slices, arms and teams. -/
def TableOnly (s w : State) : Prop :=
  w = { s with arms := w.arms, teams := w.teams, syncOrder := w.syncOrder, spilled := w.spilled }

theorem TableOnly.trans {s v w : State} (h : TableOnly s v) (h' : TableOnly v w) : TableOnly s w := by
  unfold TableOnly at *
  rw [h', h]

theorem TableOnly.tended {s w : State} (h : TableOnly s w) : Tended s w := by
  unfold TableOnly at h
  constructor <;> intros <;> rw [h]
  rfl

theorem tableOnly_evictArms (slice n : Nat) (s : State) : TableOnly s (evictArms slice n s) := by
  induction n generalizing s with
  | zero => rfl
  | succ n ih =>
    unfold evictArms
    split
    · rfl
    · split
      · rfl
      · rename_i a _
        have hend : TableOnly s ({ s with arms := s.arms.erase a }.modTeam a.tid fun t => t.endArm 3) := rfl
        exact hend.trans (ih _)

theorem tableOnly_spillEntry (s : State) (slice : Nat) : TableOnly s (s.spillEntry slice) := by
  unfold State.spillEntry
  dsimp only
  split <;> rfl

theorem tableOnly_needEntry (s : State) (kind pa : Nat) : TableOnly s (s.needEntry kind pa) := by
  have huse : ∀ v : State, TableOnly v (v.useEntry (kind, pa)) := fun v => rfl
  have hevict := tableOnly_evictArms (sliceOf pa) s.arms.length s
  unfold State.needEntry
  dsimp only
  refine .trans ?_ (huse _)
  split
  · split
    · rfl
    · exact tableOnly_spillEntry ..
  · split
    · exact hevict
    · exact hevict.trans (tableOnly_spillEntry ..)

/-- A team parked in an object's queue, an entry of its estate reserved or not. -/
def waitingTeam (t : Team) (p : Park) (reserve : Bool) : Team :=
  { t with held := none, run := .parked p none, reservedEntries := t.reservedEntries + (if reserve then 1 else 0) }

theorem parkReq_eq {v : State} {t : Team} (hv : v.team? t.tid = some t) (hq : Quiet t) (hm : t.monitor = .none_) (hd : t.dying = none)
    (r : Req) (kind : Nat) (p : Park) (reserve : Bool) {enqueue : State → State} (he : ∀ s, (enqueue s).teams = s.teams) :
    v.parkReq r t kind p reserve enqueue = (enqueue (v.needEntry kind r.pa)).setTeam (waitingTeam t p reserve) := by
  have hteam : (enqueue (v.needEntry kind r.pa)).team? t.tid = some t :=
    (team?_of_teams (he _) _).trans ((beside_needEntry hm v kind r.pa).team hv)
  have hqw : Quiet { t with reservedEntries := t.reservedEntries + (if reserve then 1 else 0) } :=
    ⟨hq.late, hq.stepping, hq.stays, hq.yields⟩
  have hliving : t.dying.isSome = false := by rw [hd]; rfl
  unfold State.parkReq
  rw [hliving]
  simp only [Bool.false_eq_true, if_false, State.catchUp_same hteam rfl]
  exact park_quiet hqw p

section
variable {s : State} {t : Team} {r : Req} (hs : Served s r t)
include hs

/-- The service parks its team as the last in the object's queue. -/
theorem serves_parks {f : State → State} (hf : serviceOf r t r.kind = some f) {kind : Nat} {p : Park} {reserve : Bool}
    {enqueue : State → State} (hw : f (takenUp s r) = (takenUp s r).parkReq r t kind p reserve enqueue)
    (he : ∀ s : State, (enqueue s).teams = s.teams ∧ (enqueue s).mem = s.mem ∧ (enqueue s).tags = s.tags) :
    ∃ w ts, exec .homeSliceServe s = .next { w with tags := ts } ∧ w.mem = s.mem ∧
      w.team? t.tid = some (waitingTeam t p reserve) ∧ ∃ v, Tended s v ∧
        w = (enqueue v).setTeam (waitingTeam t p reserve) := by
  have hteam := takenUp_team hs
  rw [parkReq_eq hteam hs.quiet hs.alive.2.1 hs.alive.1 r kind p reserve fun s => (he s).1] at hw
  have hneed := beside_needEntry (t := t) hs.alive.2.1 (takenUp s r) kind r.pa
  have htable := tableOnly_needEntry (takenUp s r) kind r.pa
  have htended : Tended s ((takenUp s r).needEntry kind r.pa) :=
    (tended_takenUp hs).trans htable.tended
  have htags : ((enqueue ((takenUp s r).needEntry kind r.pa)).setTeam (waitingTeam t p reserve)).tags = s.tags :=
    ((he _).2.2).trans htended.tags
  obtain ⟨ts, hexec⟩ := exec_serves hs hf hw htags
  refine ⟨_, ts, hexec, ((he _).2.1).trans (hneed.mem.trans (takenUp_mem hs)), ?_, _, htended, rfl⟩
  exact team?_setTeam_at ((team?_of_teams (he _).1 _).trans (hneed.team hteam)) rfl

/-- The service answers: its team, as its object's change has left it, retires with its registers written. -/
theorem serves_replies {f : State → State} (hf : serviceOf r t r.kind = some f) {v : State} {u : Team}
    {ws : List (BitVec 7 × Dword)} (hw : f (takenUp s r) = v.replyWith t.tid ws) (hv : v.tags = s.tags)
    (hu : v.team? t.tid = some u) (hq : Quiet u) :
    ∃ ts, exec .homeSliceServe s = .next { v.replyWith t.tid ws with tags := ts } ∧
      (v.replyWith t.tid ws).team? t.tid = some (u.setAll ws).gone ∧ (v.replyWith t.tid ws).mem = v.mem ∧
      ∀ h, h ≠ t.tid → (v.replyWith t.tid ws).team? h = v.team? h := by
  obtain ⟨ts, hexec⟩ := exec_serves hs hf hw ((tended_replyWith hu hq ws).tags.trans hv)
  exact ⟨ts, hexec, team?_replyWith hu hq ws, replyWith_mem hu hq ws, fun h hh => team?_replyWith_ne hu hq ws hh⟩
end

theorem acquireAt_mem (s : State) (core scope : Nat) : (s.acquireAt core scope).mem = s.mem := by
  unfold State.acquireAt
  split <;> rfl

/-! ## HOLD (R213) -/

/-- The entry that a team's hold makes. -/
def lockEntry (r : Req) (heir : BitVec 4) (h : Handle) : Estate := { obj := r.va, pa := r.pa, kind := .lock, heir, handle := h }

section
variable {s : State} {t : Team} {r : Req} (hs : Served s r t) {sd : BitVec 7} {claim : Bool} {heir : BitVec 4} {h : Handle}
  (hk : r.kind = .hold sd claim heir h)
include hs hk

omit hs in
theorem hold_service : serviceOf r t r.kind = some fun v => serveHold v r t sd claim heir h := by rw [hk]; rfl

theorem hold_ownTraps (hw : s.physDword r.pa / 2 ^ 32 = t.tid.toNat ∨ owns t .lock r.va = true) : servesTrap s t 0x03 r.va := by
  refine servesTrap_atOnce hs (hold_service hk) ?_
  simp only [serveHold, takenUp_physDword hs, entry?_isSome]
  exact if_pos (by simpa using hw)

variable (hfree : s.physDword r.pa / 2 ^ 32 ≠ t.tid.toNat) (hown : owns t .lock r.va = false)
include hfree hown

omit hk in
/-- Without its own hold, HOLD goes by the room of the estate and by the word. -/
theorem serveHold_eq : serveHold (takenUp s r) r t sd claim heir h =
    if (takenUp s r).estateFull t then (takenUp s r).replyTrap r 0x15
    else if s.physDword r.pa / 2 ^ 32 = 0 ∨ ((s.physDword r.pa).testBit 30 = true ∧ claim = true) then
      ((((takenUp s r).setWord r.pa (lockWord t.tid ((s.physDword r.pa).testBit 31) (s.physDword r.pa + 1))).setEstate t.tid
        fun es => es ++ [lockEntry r heir h]).acquireAt r.core (r.acquire.getD 4)).replyWith t.tid
        [(sd, BitVec.ofNat 64 (lockWord t.tid ((s.physDword r.pa).testBit 31) (s.physDword r.pa + 1) +
          if s.physDword r.pa / 2 ^ 32 = 0 then 0 else 2 ^ 30))]
    else (takenUp s r).parkReq r t 0 (.lock r.pa) true fun s => { s with lockQ := s.lockQ ++
      [{ pa := r.pa, tid := t.tid, va := r.va, sd, claim, heir, handle := h, scope := r.acquire.getD 4 }] } := by
  have hreg : dw (if s.physDword r.pa / 2 ^ 32 = 0 then lockWord t.tid ((s.physDword r.pa).testBit 31) (s.physDword r.pa + 1)
      else lockWord t.tid ((s.physDword r.pa).testBit 31) (s.physDword r.pa + 1) ||| lockOrphan) =
      BitVec.ofNat 64 (lockWord t.tid ((s.physDword r.pa).testBit 31) (s.physDword r.pa + 1) +
        if s.physDword r.pa / 2 ^ 32 = 0 then 0 else 2 ^ 30) := by
    rw [lockWord_or_orphan]
    split <;> simp only [dw, Nat.add_zero]
  simp only [serveHold, takenUp_physDword hs, entry?_isSome, hown, hfree, decide_false, Bool.or_self, Bool.false_eq_true, if_false,
    lockTo_eq, hreg, bit, Bool.or_eq_true, decide_eq_true_eq, Bool.and_eq_true, cEstateFull]
  rfl

theorem hold_fullTraps (hroom : ¬ roomy s t) : servesTrap s t 0x15 r.va :=
  servesTrap_atOnce hs (hold_service hk)
    ((serveHold_eq (sd := sd) (claim := claim) (heir := heir) (h := h) hs hfree hown).trans (if_pos ((estateFull_iff (tended_takenUp hs) t).mpr hroom)))

variable (hroom : roomy s t)
include hroom

theorem hold_takes (hw : s.physDword r.pa / 2 ^ 32 = 0 ∨ ((s.physDword r.pa).testBit 30 = true ∧ claim = true)) :
    ∃ s', exec .homeSliceServe s = .next s' ∧
      s'.mem = (((served s r).setWord r.pa (lockWord t.tid ((s.physDword r.pa).testBit 31) (s.physDword r.pa + 1))).setEstate t.tid
        fun _ => t.estate ++ [lockEntry r heir h]).mem ∧
      s'.team? t.tid = some { t.gone.setS sd.toNat (BitVec.ofNat 64
          (lockWord t.tid ((s.physDword r.pa).testBit 31) (s.physDword r.pa + 1) +
            if s.physDword r.pa / 2 ^ 32 = 0 then 0 else 2 ^ 30)) with estate := t.estate ++ [lockEntry r heir h] } := by
  have hfull : (takenUp s r).estateFull t = false :=
    Bool.eq_false_iff.mpr fun hf => (estateFull_iff (tended_takenUp hs) t).mp hf hroom
  have heq := serveHold_eq (sd := sd) (claim := claim) (heir := heir) (h := h) hs hfree hown
  rw [hfull, if_neg Bool.false_ne_true, if_pos hw] at heq
  generalize hword : lockWord t.tid ((s.physDword r.pa).testBit 31) (s.physDword r.pa + 1) = word at heq
  have hm := hs.alive.2.1
  have hset := team?_setWord (takenUp_team hs) hm r.pa word
  have hestate := team?_setEstate hset hm fun es => es ++ [lockEntry r heir h]
  have hstore := (storeOnly_setWord (takenUp s r) r.pa word).trans
    ((storeOnly_setEstate _ t.tid fun es => es ++ [lockEntry r heir h]).trans
      (acquireAt_coresOnly _ r.core (r.acquire.getD 4)).storeOnly)
  obtain ⟨ts, hexec, hteam, hmem, -⟩ := serves_replies hs (hold_service hk) heq
    ((hstore.tended.tags).trans (tended_takenUp hs).tags) ((team?_acquireAt ..).trans hestate) (quiet_estate hs.quiet _)
  refine ⟨_, hexec, ?_, hteam.trans (congrArg some ?_)⟩
  · refine (hmem.trans (acquireAt_mem ..)).trans ?_
    exact ((sameStore_takenUp hs).homeWriteBy 0 false r.pa (toBytes 8 word)).setEstate_mem
      (f := fun _ => t.estate ++ [lockEntry r heir h])
      (team?_setWord (s := served s r) (tid_of_served hs ▸ hs.team) hm r.pa word) hset rfl rfl rfl rfl
  · refine (Team.gone_setS _ _ _).trans ?_
    rw [Team.gone_estate]
    rfl

theorem hold_waits (hheld : s.physDword r.pa / 2 ^ 32 ≠ 0) (hw : (s.physDword r.pa).testBit 30 = false ∨ claim = false) :
    ∃ s', exec .homeSliceServe s = .next s' ∧ s'.mem = s.mem ∧ s'.lockQ = s.lockQ ++
        [{ pa := r.pa, tid := t.tid, va := r.va, sd, claim, heir, handle := h, scope := r.acquire.getD 4 }] ∧
      s'.team? t.tid = some (waitingTeam t (.lock r.pa) true) := by
  have hfull : (takenUp s r).estateFull t = false :=
    Bool.eq_false_iff.mpr fun hf => (estateFull_iff (tended_takenUp hs) t).mp hf hroom
  have hno : ¬ (s.physDword r.pa / 2 ^ 32 = 0 ∨ ((s.physDword r.pa).testBit 30 = true ∧ claim = true)) := by
    rintro (h0 | ⟨h1, h2⟩)
    · exact hheld h0
    · rcases hw with h | h <;> simp_all
  have heq := serveHold_eq (sd := sd) (claim := claim) (heir := heir) (h := h) hs hfree hown
  rw [hfull, if_neg Bool.false_ne_true, if_neg hno] at heq
  obtain ⟨w, ts, hexec, hmem, hteam, v, hv, rfl⟩ := serves_parks hs (hold_service hk) heq fun s => ⟨rfl, rfl, rfl⟩
  refine ⟨_, hexec, hmem, ?_, hteam⟩
  rw [← hv.lockQ]
  rfl
end

end Sys2Proof.Machine
end

section
/-! PROOFS. HREL and HCLRB at the home slice (R214, R215); O25. -/

namespace Sys2Proof.Machine

open Sys2Proof.Claims

/-- Memory after one run has been written. -/
theorem memAs_setWord {s v w : State} {pa x : Nat} (hv : v.mem = s.mem) (hw : w.mem = (v.setWord pa x).mem) :
    memAs s w pa (toBytes 8 x) := fun a => by
  rw [hw, State.setWord, State.homeWrite, homeWriteBy_mem, memByte_memWrite, hv]

/-! ## HREL (R214) -/

/-- The team that has taken the lock that it waited for: the entry, the register, and the wake (R213). -/
def lockGiven (y : Team) (x : LockWaiter) (word : Nat) : Team :=
  { y.setS x.sd.toNat (BitVec.ofNat 64 word) with
    estate := y.estate ++ [{ obj := x.va, pa := x.pa, kind := .lock, heir := x.heir, handle := x.handle }]
    reservedEntries := y.reservedEntries - 1, run := .parked (.lock x.pa) (some .done) }

section
variable {s : State} {x : LockWaiter}

/-- The lock goes to a waiter. -/
theorem team?_giveLock {y : Team} (hy : s.team? x.tid = some y) (hr : y.run = .parked (.lock x.pa) none) (hm : y.monitor = .none_)
    (word : Nat) : (s.giveLock x word 0).team? x.tid = some (lockGiven y x word) := by
  have hset := team?_setWord (s := { s with lockQ := s.lockQ.filter fun z => !(z.tid == x.tid) }) hy hm x.pa word
  have hunreserve : ((State.setWord { s with lockQ := s.lockQ.filter fun z => !(z.tid == x.tid) } x.pa word).unreserve
      x.tid).team? x.tid = some { y with reservedEntries := y.reservedEntries - 1 } :=
    (State.team?_modTeam_same _ x.tid (fun t => { t with reservedEntries := t.reservedEntries - 1 }) fun _ h => h).trans
      (congrArg (Option.map _) hset)
  have hestate := team?_setEstate hunreserve hm fun es =>
    es ++ [{ obj := x.va, pa := x.pa, kind := .lock, heir := x.heir, handle := x.handle }]
  refine (team?_grant ..).trans ?_
  rw [if_pos rfl, hestate, Option.map_some, Nat.or_zero]
  exact congrArg some (notified_waiting (u := { y.setS x.sd.toNat (dw word) with
    estate := y.estate ++ [{ obj := x.va, pa := x.pa, kind := .lock, heir := x.heir, handle := x.handle }]
    reservedEntries := y.reservedEntries - 1 }) hr (show Park.isLock x.pa (.lock x.pa) = true from beq_self_eq_true x.pa))

theorem team?_giveLock_ne {k : Handle} {u : Team} (hk : k ≠ x.tid) (hu : s.team? k = some u) (hm : u.monitor = .none_) (word : Nat) :
    (s.giveLock x word 0).team? k = some u := by
  have hset := team?_setWord (s := { s with lockQ := s.lockQ.filter fun z => !(z.tid == x.tid) }) hu hm x.pa word
  refine (team?_grant ..).trans ((if_neg hk).trans (team?_setEstate_ne ?_ hm hk _))
  exact (State.team?_modTeam_ne _ (fun t => { t with reservedEntries := t.reservedEntries - 1 }) hk fun _ h => h).trans hset

theorem giveLock_queues (s : State) (x : LockWaiter) (word : Nat) : (s.giveLock x word 0).tags = s.tags ∧
    (s.giveLock x word 0).lockQ = s.lockQ.filter fun z => !(z.tid == x.tid) := by
  have hstore := (storeOnly_setWord { s with lockQ := s.lockQ.filter fun z => !(z.tid == x.tid) } x.pa word).trans
    ((storeOnly_modTeam _ x.tid fun t => { t with reservedEntries := t.reservedEntries - 1 }).trans
      (storeOnly_setEstate _ x.tid fun es =>
        es ++ [{ obj := x.va, pa := x.pa, kind := .lock, heir := x.heir, handle := x.handle }]))
  have h := hstore.tended.trans (tended_grant _ x.tid [(x.sd, dw (word ||| 0))] x.scope (Park.isLock x.pa))
  exact ⟨h.tags, h.lockQ⟩
end

section
variable {s : State} {t : Team} {r : Req} (hs : Served s r t)
include hs

theorem hrel_traps (hk : r.kind = .hrel) (hw : s.physDword r.pa / 2 ^ 32 ≠ t.tid.toNat) : servesTrap s t 0x03 r.va := by
  refine servesTrap_atOnce hs (f := fun v => serveHrel v r t) (by rw [hk]; rfl) ?_
  simp only [serveHrel, takenUp_physDword hs]
  exact if_pos hw

/-- The state in which a team has left its entry, before its object changes. -/
def entryDropped (s : State) (r : Req) (t : Team) (k : EKind) : State := (takenUp s r).setEstate t.tid (dropEntry k r.va)

theorem entryDropped_team (k : EKind) : (entryDropped s r t k).team? t.tid = some { t with estate := without t k r.va } :=
  team?_setEstate (takenUp_team hs) hs.alive.2.1 _

theorem entryDropped_team_ne (k : EKind) {h : Handle} {u : Team} (hh : h ≠ t.tid) (hu : s.team? h = some u)
    (hm : u.monitor = .none_) : (entryDropped s r t k).team? h = some u :=
  team?_setEstate_ne ((takenUp_team? hs h).trans hu) hm hh _

theorem tended_entryDropped (k : EKind) : Tended s (entryDropped s r t k) :=
  (tended_takenUp hs).trans (storeOnly_setEstate ..).tended

theorem entryDropped_mem (k : EKind) :
    (entryDropped s r t k).mem = ((served s r).setEstate t.tid fun _ => without t k r.va).mem :=
  (sameStore_takenUp hs).setEstate_mem (f := fun _ => without t k r.va) (show (served s r).team? t.tid = some t from
    tid_of_served hs ▸ hs.team) (takenUp_team hs) rfl rfl rfl rfl

theorem serveHrel_eq (hw : s.physDword r.pa / 2 ^ 32 = t.tid.toNat) :
    serveHrel (takenUp s r) r t = ((entryDropped s r t .lock).releaseLock r.pa).replyWith t.tid [] := by
  simp only [serveHrel, takenUp_physDword hs]
  exact if_neg (not_not.mpr hw)

/-- Without a waiter the lock is free. -/
theorem hrel_frees (hk : r.kind = .hrel) (hw : s.physDword r.pa / 2 ^ 32 = t.tid.toNat) {m : State}
    (hm : m = (served s r).setEstate t.tid fun _ => without t .lock r.va) (hq : ∀ x ∈ s.lockQ, x.pa ≠ r.pa) :
    ∃ s', exec .homeSliceServe s = .next s' ∧ memAs m s' r.pa (toBytes 8 (m.physDword r.pa % 2 ^ 32)) ∧
      s'.team? t.tid = some { t.gone with estate := without t .lock r.va } := by
  have hmem : (entryDropped s r t .lock).mem = m.mem := hm ▸ entryDropped_mem hs .lock
  have hword : (entryDropped s r t .lock).physDword r.pa = m.physDword r.pa := by
    rw [State.physDword, hmem, State.physDword]
  have htended := tended_entryDropped hs .lock
  have hnone : (entryDropped s r t .lock).lockQ.find? (fun x => x.pa == r.pa) = none := by
    rw [htended.lockQ]
    exact List.find?_eq_none.mpr fun x hx => by simpa using hq x hx
  have hfree : (entryDropped s r t .lock).releaseLock r.pa =
      (entryDropped s r t .lock).setWord r.pa (m.physDword r.pa % 2 ^ 32) := by
    simp only [State.releaseLock, hnone, hword]
  have heq := serveHrel_eq hs hw
  rw [hfree] at heq
  obtain ⟨ts, hexec, hteam, hmem', -⟩ := serves_replies hs (f := fun v => serveHrel v r t) (by rw [hk]; rfl) heq
    ((storeOnly_setWord ..).tended.tags.trans htended.tags)
    (team?_setWord (entryDropped_team hs .lock) hs.alive.2.1 _ _) (quiet_estate hs.quiet _)
  exact ⟨_, hexec, memAs_setWord hmem hmem', hteam.trans (congrArg some (Team.gone_estate t _))⟩

/-- With waiters the first of them takes it. -/
theorem hrel_hands (hk : r.kind = .hrel) (hw : s.physDword r.pa / 2 ^ 32 = t.tid.toNat) {m : State}
    (hm : m = (served s r).setEstate t.tid fun _ => without t .lock r.va) {x : LockWaiter} {y : Team}
    (hx : (s.lockQ.find? fun x => x.pa == r.pa) = some x) (hy : s.team? x.tid = some y) (hne : x.tid ≠ t.tid)
    (hr : y.run = .parked (.lock r.pa) none) (hym : y.monitor = .none_) :
    ∃ s', exec .homeSliceServe s = .next s' ∧ (∀ z ∈ s'.lockQ, z.tid ≠ x.tid) ∧
      s'.team? t.tid = some { t.gone with estate := without t .lock r.va } ∧
      s'.team? x.tid = some (lockGiven y x (lockWord x.tid ((m.physDword r.pa).testBit 31) (m.physDword r.pa + 1))) := by
  have hmem : (entryDropped s r t .lock).mem = m.mem := hm ▸ entryDropped_mem hs .lock
  have hword : (entryDropped s r t .lock).physDword r.pa = m.physDword r.pa := by
    rw [State.physDword, hmem, State.physDword]
  have htended := tended_entryDropped hs .lock
  have hpa : x.pa = r.pa := by simpa using List.find?_some hx
  generalize hn : lockWord x.tid ((m.physDword r.pa).testBit 31) (m.physDword r.pa + 1) = n
  have hgive : (entryDropped s r t .lock).releaseLock r.pa = (entryDropped s r t .lock).giveLock x n 0 := by
    simp only [State.releaseLock, htended.lockQ, hx, hword, lockTo_eq, hn]
  have heq := serveHrel_eq hs hw
  rw [hgive] at heq
  obtain ⟨htags, hqueue⟩ := giveLock_queues (entryDropped s r t .lock) x n
  have hgone := team?_giveLock_ne (Ne.symm hne) (entryDropped_team hs .lock) hs.alive.2.1 n
  obtain ⟨ts, hexec, hteam, -, hothers⟩ := serves_replies hs (f := fun v => serveHrel v r t) (by rw [hk]; rfl) heq
    (htags.trans htended.tags) hgone (quiet_estate hs.quiet _)
  refine ⟨_, hexec, fun z hz => ?_, hteam.trans (congrArg some (Team.gone_estate t _)), (hothers x.tid hne).trans ?_⟩
  · have hz' : z ∈ ((entryDropped s r t .lock).giveLock x n 0).lockQ := by
      rw [← (tended_replyWith hgone (quiet_estate hs.quiet _) []).lockQ]
      exact hz
    rw [hqueue] at hz'
    simpa using (List.mem_filter.mp hz').2
  · exact team?_giveLock (entryDropped_team_ne hs .lock hne hy hym) (hpa ▸ hr) hym n

/-! ## HCLRB (R215) -/

/-- The team whose inherited object is repaired is bereaved of one object less (R120). -/
def repaired (t : Team) (fewer : Bool) : Team :=
  if fewer then { t with bereaved := BitVec.ofNat 8 (t.bereaved.toNat - 1) } else t

omit hs in
theorem bereaved_pred (x : BitVec 8) : (if x = 0 then 0 else x - 1) = BitVec.ofNat 8 (x.toNat - 1) := by
  split
  · rename_i h
    subst h
    rfl
  · rename_i h
    have : x.toNat ≠ 0 := fun h0 => h (BitVec.eq_of_toNat_eq h0)
    apply BitVec.eq_of_toNat_eq
    simp
    omega

omit hs in
theorem gone_bereaved (t : Team) (n : BitVec 8) : ({ t with bereaved := n } : Team).gone = { t.gone with bereaved := n } := by
  cases t with
  | mk => simp only [Team.gone, Team.advance]; split <;> [rfl; (split <;> rfl)]

/-- A word is written and the team goes on, its instruction's state as given. -/
theorem serves_word {f : State → State} (hf : serviceOf r t r.kind = some f) {x : Nat} {g : Team → Team}
    (hw : f (takenUp s r) = (((takenUp s r).setWord r.pa x).modTeam t.tid g).replyWith t.tid []) (hg : ∀ u : Team, (g u).tid = u.tid)
    (hq : Quiet (g t)) : ∃ s', exec .homeSliceServe s = .next s' ∧ memAs s s' r.pa (toBytes 8 x) ∧
      s'.team? t.tid = some (g t).gone := by
  have hset := team?_setWord (takenUp_team hs) hs.alive.2.1 r.pa x
  have hmod : (((takenUp s r).setWord r.pa x).modTeam t.tid g).team? t.tid = some (g t) :=
    (State.team?_modTeam_same _ t.tid g fun u hu => (hg u).trans hu).trans (congrArg (Option.map g) hset)
  obtain ⟨ts, hexec, hteam, hmem, -⟩ := serves_replies hs hf hw
    ((storeOnly_setWord (takenUp s r) r.pa x).tended.tags.trans (tended_takenUp hs).tags) hmod hq
  exact ⟨_, hexec, memAs_setWord (takenUp_mem hs) hmem, hteam⟩

omit hs in
theorem modTeam_id (s : State) (h : Handle) : s.modTeam h (fun u => u) = s := by
  simp only [State.modTeam, updFirst_id]

theorem hclrb_lock (hk : r.kind = .hclrb) {e : Estate} (he : t.entry? .lock r.va = some e) :
    ∃ s', exec .homeSliceServe s = .next s' ∧
      memAs s s' r.pa (toBytes 8 (if (s.physDword r.pa).testBit 31 then s.physDword r.pa - 2 ^ 31 else s.physDword r.pa)) ∧
      s'.team? t.tid = some (repaired t ((s.physDword r.pa).testBit 31 && e.inherited)).gone := by
  have hq : Quiet (repaired t ((s.physDword r.pa).testBit 31 && e.inherited)) := by
    unfold repaired
    split
    · exact ⟨hs.quiet.late, hs.quiet.stepping, hs.quiet.stays, hs.quiet.yields⟩
    · exact hs.quiet
  refine serves_word hs (f := fun v => serveHclrb v r t) (by rw [hk]; rfl)
    (g := fun u => repaired u ((s.physDword r.pa).testBit 31 && e.inherited)) ?_ (fun u => ?_) hq
  · have hbereaved : lockBereaved = 2 ^ 31 := rfl
    simp only [serveHclrb, takenUp_physDword hs, he, bit]
    rw [hbereaved]
    cases (s.physDword r.pa).testBit 31 && e.inherited with
    | true => simp only [repaired, if_true, bereaved_pred]
    | false => simp only [repaired, Bool.false_eq_true, if_false, modTeam_id]
  · unfold repaired
    split <;> rfl

theorem hclrb_promise (hk : r.kind = .hclrb) (he : t.entry? .lock r.va = none) :
    ∃ s', exec .homeSliceServe s = .next s' ∧
      memAs s s' r.pa (toBytes 8 (if (s.physDword r.pa).testBit 27 then s.physDword r.pa - 2 ^ 27 else s.physDword r.pa)) ∧
      s'.team? t.tid = some t.gone := by
  refine serves_word hs (f := fun v => serveHclrb v r t) (by rw [hk]; rfl) (g := fun u => u) ?_ (fun _ => rfl) hs.quiet
  simp only [serveHclrb, takenUp_physDword hs, he, bit, modTeam_id]

theorem hclrbPool_clears (hk : r.kind = .hclrbPool) : ∃ s', exec .homeSliceServe s = .next s' ∧
    memAs s s' r.pa (toBytes 8 (s.physDword r.pa % 2 ^ 32)) ∧ s'.team? t.tid = some t.gone := by
  refine serves_word hs (f := fun v => (v.setWord r.pa (v.physDword r.pa % 2 ^ 32)).replyWith t.tid []) (by rw [hk]; rfl)
    (g := fun u => u) ?_ (fun _ => rfl) hs.quiet
  simp only [takenUp_physDword hs, modTeam_id]
end

/-- Settles O25: each service is its change of the object, of the team's estate, and a trap, a park or a reply. -/
theorem lockIsTakenReleasedAndRepaired : Obligations.LockIsTakenReleasedAndRepaired := by
  rintro s t r w hs rfl
  refine ⟨fun sd claim heir h hk => ⟨hold_ownTraps hs hk, fun hfree hown => ⟨hold_fullTraps hs hk hfree hown,
    fun hroom hw => ?_, fun hroom hheld hw => ?_⟩⟩, fun hk => ⟨hrel_traps hs hk, fun hw m hm => ⟨hrel_frees hs hk hw hm,
    fun x y hx hy hne hr hym => ?_⟩⟩, fun hk => ⟨fun e he => ?_, hclrb_promise hs hk⟩, hclrbPool_clears hs⟩
  · obtain ⟨s', hexec, hmem, hteam⟩ := hold_takes hs hk hfree hown hroom hw
    exact ⟨s', _, hexec, rfl, hmem, hteam⟩
  · obtain ⟨s', hexec, hmem, hqueue, hteam⟩ := hold_waits hs hk hfree hown hroom hheld hw
    exact ⟨s', _, hexec, hmem, hqueue, rfl, rfl, rfl, rfl, rfl, rfl, hteam⟩
  · obtain ⟨s', hexec, hqueue, hteam, hgiven⟩ := hrel_hands hs hk hw hm hx hy hne hr hym
    have hpa : x.pa = r.pa := by simpa using List.find?_some hx
    refine ⟨s', _, rfl, hexec, hqueue, hteam, hgiven.trans ?_⟩
    rw [lockGiven, hpa]
  · obtain ⟨s', hexec, hmem, hteam⟩ := hclrb_lock hs hk he
    refine ⟨s', hexec, hmem, hteam.trans (congrArg some ?_)⟩
    by_cases hb : (s.physDword r.pa).testBit 31 = true ∧ e.inherited = true
    · rw [repaired, if_pos (Bool.and_eq_true_iff.mpr hb), if_pos hb]
      exact gone_bereaved t _
    · rw [repaired, if_neg (mt Bool.and_eq_true_iff.mp hb), if_neg hb]
      exact gone_bereaved t t.bereaved

end Sys2Proof.Machine
end

section
/-! PROOFS. ESTATE and HEIR (R212, R215, R218); O27. -/

namespace Sys2Proof.Machine

open Sys2Proof.Claims

/-! ## ESTATE (R218) -/

/-- The three dwords that ESTATE writes of an entry, or of none (R218). -/
def entryWord (e : Option Estate) (i : Nat) : Dword :=
  match e with
  | some e =>
    [BitVec.ofNat 64 (e.obj.toNat / 8 * 8 + e.kind.code), BitVec.ofNat 64 (e.count * 2 ^ 32 + e.heir.toNat),
      if e.heir = 5 then e.handle.setWidth 64 else 0].getD i 0
  | none => 0

theorem estate_vd_lt {f : VFields} {s : State} {t : Team} (hc : checkV s t 0x191 f = none) : f.vd.toNat < 126 := by
  have hchk : chkV s t 0x191 f = chkSync s t 0x191 f := rfl
  have hoperand := operand_of_passes hc
  simp only [hchk, chkSync, Chk.and, chkScalar, Bool.or_eq_false_iff, decide_eq_false_iff_not] at hoperand
  omega

theorem exec_estate {s : State} {t : Team} {f : VFields} (h : Poised s t) (hc : checkV s t 0x191 f = none) :
    exec (.estate f) s = .next (s.retireS t [(sdOf f, entryWord t.estate[(t.getS f.va.toNat).toNat]? 0),
      (sdOf f + 1, entryWord t.estate[(t.getS f.va.toNat).toNat]? 1),
      (sdOf f + 2, entryWord t.estate[(t.getS f.va.toNat).toNat]? 2)]) := by
  rw [exec, execEstate, issueV_passes h _ _ _ hc]
  cases t.estate[(t.getS f.va.toNat).toNat]? with
  | none => rfl
  | some e =>
    have hhandle : dw (if e.heir = 5 then e.handle.toNat else 0) = if e.heir = 5 then e.handle.setWidth 64 else 0 := by
      split
      · exact BitVec.ofNat_toNat 64 e.handle
      · rfl
    simp only [entryWord, List.getD_cons_zero, List.getD_cons_succ, ← hhandle]
    rfl

/-- Three registers from D on. -/
theorem getS_setAll_three (t : Team) {d : BitVec 7} (hd : d.toNat < 126) (x y z : Dword) (n : Nat) :
    (t.setAll [(d, x), (d + 1, y), (d + 2, z)]).getS n =
      if n = d.toNat + 2 then z else if n = d.toNat + 1 then y else if n = d.toNat then x else t.getS n := by
  have h1 : (d + 1).toNat = d.toNat + 1 := by
    rw [BitVec.toNat_add, Nat.mod_eq_of_lt (by simp; omega)]; rfl
  have h2 : (d + 2).toNat = d.toNat + 2 := by
    rw [BitVec.toNat_add, Nat.mod_eq_of_lt (by simp; omega)]; rfl
  simp only [Team.setAll, List.foldl_cons, List.foldl_nil, Team.getS_setS, h1, h2]

theorem estate_reads {s : State} {t : Team} {f : VFields} (h : Poised s t) (hc : checkV s t 0x191 f = none) :
    ∃ u, CompletesAs (.estate f) s u ∧ t.writesS u fun n => if dReg f ≤ n ∧ n ≤ dReg f + 2 then
      some (entryWord t.estate[(t.getS f.va.toNat).toNat]? (n - dReg f)) else none := by
  have hvd := estate_vd_lt hc
  have hreg : (sdOf f).toNat = dReg f := by simp [sdOf, dReg]
  have hlt : (sdOf f).toNat < 126 := by
    rw [hreg, dReg]
    omega
  refine ⟨_, (exec_estate h hc).trans (congrArg _ (retireS_poised h _)), ?_, fun n => ?_⟩
  · conv_lhs => rw [Team.setAll_eq]
    conv_rhs => rw [Team.setAll_eq]
    rw [Team.gone_s]
  · rw [Team.gone_getS, getS_setAll_three t hlt, hreg]
    by_cases h2 : n = dReg f + 2
    · subst h2
      simp
    · by_cases h1 : n = dReg f + 1
      · subst h1
        simp
      · by_cases h0 : n = dReg f
        · subst h0
          simp
        · rw [if_neg h2, if_neg h1, if_neg h0]
          dsimp only
          rw [if_neg (by omega)]
          rfl

theorem entryWord_some (e : Estate) :
    entryWord (some e) 0 = BitVec.ofNat 64 (e.obj.toNat / 8 * 8 + (match e.kind with | .lock => 1 | .promise => 2 | .permit => 3)) ∧
      entryWord (some e) 1 = BitVec.ofNat 64 (e.count * 2 ^ 32 + e.heir.toNat) ∧
      entryWord (some e) 2 = if e.heir = 5 then e.handle.setWidth 64 else 0 := by
  refine ⟨?_, rfl, rfl⟩
  cases hk : e.kind <;> simp [entryWord, EKind.code, hk]

/-! ## HEIR (R212, R215) -/

theorem find?_split {α : Type} {p : α → Bool} {a b : List α} {e : α} (ha : ∀ x ∈ a, p x = false) (he : p e = true) :
    (a ++ e :: b).find? p = some e := by
  rw [List.find?_append, List.find?_eq_none.mpr fun x hx => by simp [ha x hx], List.find?_cons_of_pos he]
  rfl

theorem updFirst_split {α : Type} {p : α → Bool} (f : α → α) {a b : List α} {e : α} (ha : ∀ x ∈ a, p x = false) (he : p e = true) :
    updFirst p f (a ++ e :: b) = a ++ f e :: b := by
  induction a with
  | nil => simp [updFirst, he]
  | cons x a ih =>
    rw [List.cons_append, updFirst, ha x List.mem_cons_self, if_neg Bool.false_ne_true,
      ih fun y hy => ha y (List.mem_cons_of_mem _ hy), List.cons_append]

/-- An object whose operands are refused (R212). -/
theorem objectInsn_refused {s : State} {t : Team} {f : VFields} {sh : SyncShape} {scope : Nat} (h : Unhindered sh scope f s t)
    {needRelease : Team → Team → Bool} {size : Team → Dword → Option Nat} {refused : State → Team → Team → Bool}
    {go : State → Team → Team → Dword → Nat → State} {n : Nat} (hsize : size t (syncAddr f t 0) = some n)
    (hlimit : (syncOff f t).toNat + n ≤ (t.seg 0).limit.toNat) (halign : (syncAddr f t 0).toNat % n = 0)
    (hrefused : refused s t t = true) :
    objectInsn sh scope f needRelease size refused go s = .next (s.trap t cOperand 0 (syncAddr f t 0) 0) := by
  rw [objectInsn, issueV_passes h.poised _ _ _ h.checks]
  simp only [h.noRequest, h.noFault, Option.isSome_none, Bool.false_eq_true, if_false, h.released, segAddr_eq, h.before.1,
    h.before.2, List.isEmpty_nil, Bool.not_true]
  rw [underWeirs_off h.poised.weirs h.poised.mark h.poised.here rfl]
  simp only [hsize, scalarOff_eq, limitTrap_none hlimit, alignTrap_none halign, Option.or_none, hrefused, if_true]

/-- What HEIR makes of an entry (R215). -/
def withHeir (e : Estate) (f : VFields) (t : Team) : Estate := { e with heir := BitVec.ofNat 4 (mHeir f), handle := heirHandle f t }

/-- HEIR's size of the object, from the team's own entry (R215). -/
def heirSize (t : Team) (va : Dword) : Option Nat :=
  (t.estate.find? fun e => e.obj == va).map fun e => match e.kind with | .promise => 16 | _ => 8

/-- HEIR's operands are refused: a handle of another launch, or `.pool` of another kind (R212). -/
def heirRefused (f : VFields) (s : State) (t v : Team) : Bool :=
  s.foreignHeir t f v || (mHeir f == 3 && !(t.entry? .permit (segAddr t 0 (scalarOff v f))).isSome)

/-- HEIR's change of its team's estate. -/
def heirGoes (f : VFields) (s : State) (t v : Team) (va : Dword) (_ : Nat) : State :=
  let s1 := s.setEstate t.tid (updFirst (fun e => e.obj == va) fun e => withHeir e f v)
  match s1.team? t.tid with
  | some u => s1.retire { s1.catchUp t with estate := u.estate }
  | none => s1

theorem exec_heir (f : VFields) (s : State) : exec (.heir f) s =
    objectInsn { op := 0x18A, size := 8 } 4 f (fun _ _ => false) heirSize (heirRefused f) (heirGoes f) s := rfl

section
variable {s : State} {t : Team} {f : VFields} (hp : s.poised t = true) (hc : checkV s t 0x18A f = none)
  (hnf : t.acquireFault = none) (hfree : ∀ q ∈ s.reqs, q.tid = t.tid → q.holds = false)
  (hb : settled s t (syncAddr f t 0).toNat 8)
include hp hc hnf hfree hb

theorem heir_unhindered : Unhindered { op := 0x18A, size := 8 } 4 f s t :=
  { poised := (poised_iff s t).mp hp, checks := hc, free := hfree, noFault := hnf, release := nofun, before := hb }

/-- Without an entry for the object HEIR traps. -/
theorem heir_unowned (hn : ∀ e ∈ t.estate, e.obj ≠ syncAddr f t 0) :
    exec (.heir f) s = .next (s.trap t 0x03 0 (syncAddr f t 0) 0) := by
  rw [exec_heir]
  refine objectInsn_unowned (heir_unhindered hp hc hnf hfree hb) ?_
  rw [heirSize, List.find?_eq_none.mpr fun e he => by simpa using hn e he]
  rfl

variable {a b : List Estate} {e : Estate} (hestate : t.estate = a ++ e :: b) (he : e.obj = syncAddr f t 0)
  (ha : ∀ x ∈ a, x.obj ≠ syncAddr f t 0)
  (halign : (syncAddr f t 0).toNat % (if e.kind = .promise then 16 else 8) = 0)
  (hlimit : (syncOff f t).toNat + (if e.kind = .promise then 16 else 8) ≤ (t.seg 0).limit.toNat)
include hestate he ha

omit hp hc hnf hfree hb in
theorem heirSize_eq : heirSize t (syncAddr f t 0) = some (if e.kind = .promise then 16 else 8) := by
  rw [heirSize, hestate, find?_split (fun x hx => by simpa using ha x hx) (by simpa using he), Option.map_some]
  cases hk : e.kind <;> simp

include halign hlimit

theorem heir_refused (hr : heirRefused f s t t = true) : exec (.heir f) s = .next (s.trap t 0x03 0 (syncAddr f t 0) 0) := by
  rw [exec_heir]
  exact objectInsn_refused (heir_unhindered hp hc hnf hfree hb) (heirSize_eq hestate he ha) hlimit halign hr

theorem heir_rewrites (hm : t.monitor = .none_) {pa : Nat} {nc : Bool}
    (hmap : s.translate (portOf t.tid) t.ctx (syncAddr f t 0).toNat (.atomic false) = .ok pa nc)
    (hr : heirRefused f s t t = false) : ∃ s', exec (.heir f) s = .next s' ∧
      s'.team? t.tid = some { t.gone with estate := a ++ withHeir e f t :: b } := by
  have h := (poised_iff s t).mp hp
  have hteam : (s.fillTlb (portOf t.tid) t.ctx (syncAddr f t 0).toNat).team? t.tid = some t := by
    have hframe := coresOnly_fillTlb s (portOf t.tid) t.ctx (syncAddr f t 0).toNat
    unfold CoresOnly at hframe
    rw [hframe]
    exact h.here
  have hset := team?_setEstate hteam hm (updFirst (fun e => e.obj == syncAddr f t 0) fun e => withHeir e f t)
  refine ⟨_, ((exec_heir f s).trans (objectInsn_goes (heir_unhindered hp hc hnf hfree hb) (heirSize_eq hestate he ha) hlimit
    halign hr hmap)), ?_⟩
  rw [hestate, updFirst_split _ (fun x hx => by simpa using ha x hx) (by simpa using he)] at hset
  simp only [heirGoes, hset, State.catchUp_same hset rfl]
  rw [retire_of_quiet _ (quiet_estate h.quiet _)]
  refine (team?_setTeam_at hset ?_).trans ?_
  · exact Team.gone_tid _
  · exact congrArg some (Team.gone_estate t _)
end

/-- The handle of a team of another launch is refused (R212). -/
theorem foreignHeir_of_team {s : State} {t u : Team} {f : VFields} (h5 : mHeir f = 5) (hu : s.team? (heirHandle f t) = some u)
    (hne : u.ctx ≠ t.ctx ∨ u.lid ≠ t.lid) : s.foreignHeir t f t = true := by
  simp only [State.foreignHeir, heirOf_eq, h5, hu]
  rcases hne with h | h <;> simp [h]

theorem heirRefused_eq {s : State} {t : Team} {f : VFields} :
    heirRefused f s t t = (s.foreignHeir t f t || (mHeir f == 3 && !owns t .permit (syncAddr f t 0))) := by
  rw [heirRefused, entry?_isSome, segAddr_eq]

end Sys2Proof.Machine
end

section
/-! PROOFS. CONVEY at the home slice (R219, R346, R350); O27. -/

namespace Sys2Proof.Machine

open Sys2Proof.Claims

/-! ## The receiver of an entry (R348) -/

/-- State w is state s up to the requests at the slices and the order in which their entries were used. -/
def SliceOnly (s w : State) : Prop := w = { s with reqs := w.reqs, lastServed := w.lastServed, syncOrder := w.syncOrder }

theorem sliceOnly_takenUp {s : State} {t : Team} {r : Req} (hs : Served s r t) : SliceOnly s (takenUp s r) := by
  obtain ⟨o, ho⟩ := takenUp_eq hs
  rw [ho]
  rfl

theorem receiverGo_of_sliceOnly {s w : State} (h : SliceOnly s w) (d : Team) (e : Estate) :
    ∀ (fuel depth c : Nat) (org : Option (Nat × Nat)) (tried : List Handle),
      receiverGo w d e fuel depth c org tried = receiverGo s d e fuel depth c org tried
  | 0, _, _, _, _ => rfl
  | fuel + 1, depth, c, org, tried => by
    have ih := receiverGo_of_sliceOnly h d e fuel
    unfold SliceOnly at h
    unfold receiverGo
    simp only [ih]
    rw [h]
    rfl

theorem receiver_takenUp {s : State} {t : Team} {r : Req} (hs : Served s r t) (e : Estate) :
    (takenUp s r).receiver t e = s.receiver t e := by
  have h := sliceOnly_takenUp hs
  have hheader : (takenUp s r).header t = s.header t := (tended_takenUp hs).header t
  simp only [State.receiver, hheader, receiverGo_of_sliceOnly h]

/-! ## What a conveyance leaves -/

theorem dropEntry_split {k : EKind} {va : Dword} {a b : List Estate} {e : Estate} (hk : e.kind = k) (he : e.obj = va)
    (ha : ∀ x ∈ a, x.kind = k → x.obj ≠ va) (hb : ∀ x ∈ b, x.kind = k → x.obj ≠ va) :
    dropEntry k va (a ++ e :: b) = a ++ b := by
  have hkeeps : ∀ l : List Estate, (∀ x ∈ l, x.kind = k → x.obj ≠ va) →
      l.filter (fun x => !(x.kind == k && x.obj == va)) = l := fun l hl => List.filter_eq_self.mpr fun x hx => by
    by_cases hxk : x.kind = k
    · simp [hl x hx hxk]
    · simp [hxk]
  rw [dropEntry, List.filter_append, List.filter_cons_of_neg (by simp [hk, he]), hkeeps a ha, hkeeps b hb]

/-- The words of an object that the supervisor has stored over, as a conveyance leaves them (R341). -/
def spoilWords (s : State) (e : Estate) : State :=
  (List.range (match e.kind with | .promise => 2 | _ => 1)).foldl (fun s i =>
    let d := s.drawFree
    d.2.setWord (e.pa + 8 * i) d.1.toNat) s

theorem passEntry_eq (s : State) (e : Estate) (r : Receiver) (sender : Handle) (death : Bool) :
    s.passEntry e r sender death =
      if e.spoiled then spoilWords (s.passSound e r sender death) e else s.passSound e r sender death := rfl

theorem storeOnly_spoilWords (s : State) (e : Estate) : StoreOnly s (spoilWords s e) :=
  StoreOnly.fold (fun v _ => (show StoreOnly v v.drawFree.2 from rfl).trans (storeOnly_setWord ..)) _ _

theorem unarmedTeams_spoilWords (s : State) (e : Estate) : UnarmedTeams s.teams (spoilWords s e).teams :=
  List.foldlRecOn (motive := fun v : State => UnarmedTeams s.teams v.teams) _ _ (.refl _) fun v h _ _ =>
    h.trans (writesOnly_homeWriteBy v.drawFree.2 ..).teams

/-- What a team is left with of the service: launches, tags and the like stand, and these teams as they are given. -/
structure Passed (s w : State) (t y : Team) : Prop where
  tended : Tended s w
  sender : w.team? t.tid = some t
  receiver : w.team? y.tid = some y

section
variable {s : State} {t y : Team} {e : Estate} (hy : s.team? y.tid = some y) (hym : y.monitor = .none_)
  (ht : s.team? t.tid = some t) (htm : t.monitor = .none_) (hne : y.tid ≠ t.tid)
include hy hym ht htm hne

/-- A change of the receiver's estate and an acquire for it. -/
theorem passed_addEntry (x : Estate) (scope : Nat) :
    Passed s ((s.setEstate y.tid (addEntry x)).acquireAt (coreOf y.tid) scope) t { y with estate := addEntry x y.estate } where
  tended := (storeOnly_setEstate ..).tended.trans (acquireAt_coresOnly ..).storeOnly.tended
  sender := (team?_acquireAt ..).trans (team?_setEstate_ne ht htm hne.symm _)
  receiver := (team?_acquireAt ..).trans (team?_setEstate hy hym _)

/-- The object's word as the conveyance writes it, where it does (R343, R344, R346). -/
def conveyWord (s : State) (e : Estate) (h : Handle) : State :=
  match e.kind with
  | .lock => s.setWord e.pa (lockWord h ((s.physDword e.pa).testBit 31) (s.physDword e.pa + 1))
  | .promise => s.setWord e.pa (h.toNat * 2 ^ 32 + 2 ^ 28 + if (s.physDword e.pa).testBit 27 then 2 ^ 27 else 0)
  | .permit => s

omit hy hym ht htm hne in
theorem storeOnly_conveyWord (s : State) (e : Estate) (h : Handle) : StoreOnly s (conveyWord s e h) := by
  unfold conveyWord
  split
  · exact storeOnly_setWord ..
  · exact storeOnly_setWord ..
  · exact .refl s

omit hy hym ht htm hne in
theorem team?_conveyWord (s : State) (e : Estate) (h : Handle) {k : Handle} {u : Team} (hu : s.team? k = some u)
    (hm : u.monitor = .none_) : (conveyWord s e h).team? k = some u := by
  unfold conveyWord
  split
  · exact team?_setWord hu hm _ _
  · exact team?_setWord hu hm _ _
  · exact hu

omit hy hym ht htm hne in
theorem SameStore.conveyWord {s w : State} (h : SameStore s w) (e : Estate) (k : Handle) :
    SameStore (conveyWord s e k) (conveyWord w e k) := by
  unfold Machine.conveyWord
  rw [h.maps.physDword]
  split
  · exact h.homeWriteBy ..
  · exact h.homeWriteBy ..
  · exact h

omit hy hym ht htm hne in
/-- To a team, that waits for no lock, an entry passes with its word, into its estate (R346, R350). -/
theorem passSound_team (hq : ∀ x ∈ s.lockQ, x.tid ≠ y.tid) : s.passSound e (.team y.tid) t.tid false =
    ((conveyWord s e y.tid).setEstate y.tid (addEntry (e.passed t.tid))).acquireAt (coreOf y.tid) 4 := by
  have hnone : s.lockQ.find? (fun x => x.tid == y.tid && x.pa == e.pa) = none :=
    List.find?_eq_none.mpr fun x hx => by simp [hq x hx]
  cases hk : e.kind with
  | lock => simp only [State.passSound, hk, State.lockToTeam, hnone, lockTo_eq, Bool.false_eq_true, if_false, conveyWord]
  | promise =>
    simp only [State.passSound, hk, promiseWord, bit, Bool.false_or, Nat.one_mul, conveyWord]
  | permit => simp only [State.passSound, hk, conveyWord]

theorem passed_passEntry (hq : ∀ x ∈ s.lockQ, x.tid ≠ y.tid) :
    Passed s (s.passEntry e (.team y.tid) t.tid false) t { y with estate := addEntry (e.passed t.tid) y.estate } := by
  have hword := storeOnly_conveyWord s e y.tid
  have hadd := passed_addEntry (team?_conveyWord s e y.tid hy hym) hym (team?_conveyWord s e y.tid ht htm) htm hne (e.passed t.tid) 4
  rw [passEntry_eq, passSound_team hq]
  generalize ((conveyWord s e y.tid).setEstate y.tid (addEntry (e.passed t.tid))).acquireAt (coreOf y.tid) 4 = w at hadd
  have htended : Tended s w := hword.tended.trans hadd.tended
  split
  · exact ⟨htended.trans (storeOnly_spoilWords w e).tended, team?_of_unarmed (unarmedTeams_spoilWords w e) hadd.sender htm,
      team?_of_unarmed (unarmedTeams_spoilWords w e) hadd.receiver hym⟩
  · exact ⟨htended, hadd.sender, hadd.receiver⟩
end

/-! ## CONVEY (R219) -/

section
variable {s : State} {t : Team} {r : Req} (hs : Served s r t) {sd : BitVec 7} (hk : r.kind = .convey sd) {a b : List Estate}
  {e : Estate} (hestate : t.estate = a ++ e :: b) (he : e.obj = r.va) (ha : ∀ x ∈ a, x.obj ≠ r.va)
include hs hestate he ha

omit hs in
theorem convey_finds : t.estate.find? (fun e => e.obj == r.va) = some e := by
  rw [hestate]
  exact find?_split (fun x hx => by simpa using ha x hx) (by simpa using he)

include hk

/-- With no receiver the register is all ones, and the estate stays. -/
theorem convey_nobody (hr : (s.receiver t e).1 = .nobody) : ∃ s', exec .homeSliceServe s = .next s' ∧ s'.mem = s.mem ∧
    s'.team? t.tid = some (t.gone.setS sd.toNat 0xFFFFFFFFFFFFFFFF) := by
  have heq : serveConvey (takenUp s r) r t sd = (takenUp s r).replyWith t.tid [(sd, 0xFFFFFFFFFFFFFFFF)] := by
    simp only [serveConvey, convey_finds hestate he ha, receiver_takenUp hs, hr]
  have hservice : serviceOf r t r.kind = some fun v => serveConvey v r t sd := by rw [hk]; rfl
  have hserved := serves_replies hs hservice heq (tended_takenUp hs).tags (takenUp_team hs) hs.quiet
  generalize (takenUp s r).replyWith t.tid [(sd, 0xFFFFFFFFFFFFFFFF)] = w at hserved
  obtain ⟨ts, hexec, hteam, hmem, -⟩ := hserved
  exact ⟨_, hexec, hmem.trans (takenUp_mem hs), hteam.trans (congrArg some (Team.gone_setS t sd.toNat 0xFFFFFFFFFFFFFFFF))⟩

variable (hb : ∀ x ∈ b, x.kind = e.kind → x.obj ≠ r.va)
include hb

omit hs hk in
theorem without_entry : without t e.kind r.va = a ++ b := by
  have := dropEntry_split rfl he (fun x hx _ => ha x hx) hb
  rw [← hestate] at this
  exact this

/-- To a team: it has the entry, the word names it, and the conveyor has the entry no more. -/
theorem convey_team {y : Team} (hy : s.team? y.tid = some y) (hne : y.tid ≠ t.tid) (hym : y.monitor = .none_)
    (hr : (s.receiver t e).1 = .team y.tid) (hq : ∀ x ∈ s.lockQ, x.tid ≠ y.tid) :
    ∃ s', exec .homeSliceServe s = .next s' ∧
      s'.team? t.tid = some { t.gone.setS sd.toNat (y.tid.setWidth 64) with estate := a ++ b } ∧
      s'.team? y.tid = some { y with estate := addEntry (e.passed t.tid) y.estate } ∧
      ∀ m, m = (served s r).setEstate t.tid (fun _ => a ++ b) → e.spoiled = false →
        s'.mem = ((conveyWord m e y.tid).setEstate y.tid fun _ => addEntry (e.passed t.tid) y.estate).mem := by
  have hwithout := without_entry hestate he ha hb
  have hdropped := entryDropped_team hs e.kind
  rw [hwithout] at hdropped
  have htended := tended_entryDropped hs e.kind
  have hreceiver := entryDropped_team_ne hs e.kind hne hy hym
  have hpassed := passed_passEntry (t := { t with estate := a ++ b }) (e := e) hreceiver hym hdropped hs.alive.2.1 hne
    (by rw [htended.lockQ]; exact hq)
  have heq : serveConvey (takenUp s r) r t sd =
      ((entryDropped s r t e.kind).passEntry e (.team y.tid) t.tid false).replyWith t.tid [(sd, y.tid.setWidth 64)] := by
    simp only [serveConvey, convey_finds hestate he ha, receiver_takenUp hs, hr]
    rfl
  obtain ⟨ts, hexec, hteam, hmem, hothers⟩ := serves_replies hs (f := fun v => serveConvey v r t sd) (by rw [hk]; rfl) heq
    (hpassed.tended.tags.trans htended.tags) hpassed.sender (quiet_estate hs.quiet _)
  refine ⟨_, hexec, hteam.trans (congrArg some ?_), (hothers _ hne).trans hpassed.receiver, ?_⟩
  · refine (Team.gone_setS _ _ _).trans ?_
    rw [Team.gone_estate]
    rfl
  · rintro m rfl hsound
    have hbase : (served s r).team? t.tid = some t := tid_of_served hs ▸ hs.team
    have hstore : SameStore ((served s r).setEstate t.tid fun _ => a ++ b) (entryDropped s r t e.kind) :=
      (sameStore_takenUp hs).setEstate hbase (takenUp_team hs) rfl rfl rfl hwithout
    have hym' := team?_setEstate_ne (s := served s r) hy hym hne fun _ => a ++ b
    refine hmem.trans ?_
    rw [passEntry_eq, hsound, if_neg Bool.false_ne_true, passSound_team (t := t) (by rw [htended.lockQ]; exact hq), acquireAt_mem]
    exact (hstore.conveyWord e y.tid).setEstate_mem (f := fun _ => addEntry (e.passed t.tid) y.estate)
      (team?_conveyWord _ e y.tid hym' hym) (team?_conveyWord _ e y.tid hreceiver hym) rfl rfl rfl rfl

/-- To the pool: permits are given back. -/
theorem convey_pool (hr : (s.receiver t e).1 = .pool) (hkind : e.kind = .permit) (hsound : e.spoiled = false)
    (hq : ∀ x ∈ s.permitQ, x.pa ≠ e.pa) {m : State} (hm : m = (served s r).setEstate t.tid fun _ => a ++ b) :
    ∃ s', exec .homeSliceServe s = .next s' ∧
      memAs m s' e.pa (toBytes 8 (min (m.physDword e.pa / 2 ^ 32) (2 ^ 32 - 1) * 2 ^ 32 + (m.physDword e.pa + e.count) % 2 ^ 32)) ∧
      s'.team? t.tid = some { t.gone.setS sd.toNat 0 with estate := a ++ b } := by
  have hwithout := without_entry hestate he ha hb
  have hdropped := entryDropped_team hs e.kind
  rw [hwithout] at hdropped
  have htended := tended_entryDropped hs e.kind
  have hmem : (entryDropped s r t e.kind).mem = m.mem := by rw [hm, ← hwithout]; exact entryDropped_mem hs e.kind
  have hword : (entryDropped s r t e.kind).physDword e.pa = m.physDword e.pa := by
    rw [State.physDword, hmem, State.physDword]
  generalize hx : min (m.physDword e.pa / 2 ^ 32) (2 ^ 32 - 1) * 2 ^ 32 + (m.physDword e.pa + e.count) % 2 ^ 32 = x
  have hset := (storeOnly_setWord (entryDropped s r t e.kind) e.pa x).tended
  have hgrant : ((entryDropped s r t e.kind).setWord e.pa x).grantPool e.pa = (entryDropped s r t e.kind).setWord e.pa x := by
    have hnone : ((entryDropped s r t e.kind).setWord e.pa x).permitQ.find?
        (fun y => y.pa == e.pa && !((entryDropped s r t e.kind).setWord e.pa x).isDying y.tid) = none := by
      rw [hset.permitQ, htended.permitQ]
      exact List.find?_eq_none.mpr fun y hy => by simp [hq y hy]
    simp only [State.grantPool, grantPermits, hnone]
  have hpass : (entryDropped s r t e.kind).passEntry e .pool t.tid false = (entryDropped s r t e.kind).setWord e.pa x := by
    rw [passEntry_eq, hsound, if_neg Bool.false_ne_true, ← hgrant]
    simp only [State.passSound, hkind, poolWord, Bool.false_eq_true, if_false, Nat.add_zero]
    rw [hkind] at hword
    rw [hword, hx]
  have heq : serveConvey (takenUp s r) r t sd = ((entryDropped s r t e.kind).setWord e.pa x).replyWith t.tid [(sd, 0)] := by
    rw [← hpass]
    simp only [serveConvey, convey_finds hestate he ha, receiver_takenUp hs, hr]
    rfl
  obtain ⟨ts, hexec, hteam, hmem', -⟩ := serves_replies hs (f := fun v => serveConvey v r t sd) (by rw [hk]; rfl) heq
    (hset.tags.trans htended.tags) (team?_setWord hdropped hs.alive.2.1 _ _) (quiet_estate hs.quiet _)
  refine ⟨_, hexec, memAs_setWord hmem hmem', hteam.trans (congrArg some ?_)⟩
  refine (Team.gone_setS _ _ _).trans ?_
  rw [Team.gone_estate]
  rfl
end

/-! ## Entries of a receiver -/

theorem addEntry_new {e : Estate} {es : List Estate} (h : e.kind ≠ .permit ∨ (es.any fun x => x.kind == .permit && x.obj == e.obj) = false) :
    addEntry e es = es ++ [e] := by
  unfold addEntry
  split
  · rename_i hk
    rw [h.resolve_left (not_not.mpr hk), if_neg Bool.false_ne_true]
  · rfl

theorem addEntry_more {e x : Estate} {c d : List Estate} (hk : e.kind = .permit) (hx : x.kind = .permit) (ho : x.obj = e.obj)
    (hc : ∀ z ∈ c, z.kind = .permit → z.obj ≠ e.obj) :
    addEntry e (c ++ x :: d) = c ++ { x with count := x.count + e.count } :: d := by
  have hany : ((c ++ x :: d).any fun x => x.kind == .permit && x.obj == e.obj) = true :=
    List.any_eq_true.mpr ⟨x, by simp, by simp [hx, ho]⟩
  simp only [addEntry, hk, hany, if_true]
  exact updFirst_split _ (fun z hz => by simpa using hc z hz) (by simp [hx, ho])

/-- Settles O27: ESTATE writes an entry's three dwords, HEIR rewrites one entry in its place, and CONVEY passes one to the
receiver that its heirs give. -/
theorem estateIsReadRewrittenAndConveyed : Obligations.EstateIsReadRewrittenAndConveyed := by
  refine ⟨fun s t f hp hc => ?_, ?_, ?_, ?_⟩
  · obtain ⟨u, hu, hw⟩ := estate_reads ((poised_iff s t).mp hp) hc
    refine ⟨u, hu, _, hw, fun e he => ?_, fun he n _ => ?_⟩
    · rw [he]
      exact entryWord_some e
    · rw [he]
      rfl
  · rintro s t f va pa nc n a b e hp hc hnf hm hfree hb rfl hestate he ha rfl halign hlimit hmap
    refine ⟨fun h5 h3 => ?_, fun u h5 hu hne => ?_, fun h3 hown => ?_⟩
    · refine heir_rewrites hp hc hnf hfree hb hestate he ha halign hlimit hm hmap ?_
      rw [heirRefused_eq, foreignHeir_eq_false h5]
      by_cases h : mHeir f = 3
      · simp [h3 h]
      · simp [h]
    · refine heir_refused hp hc hnf hfree hb hestate he ha halign hlimit ?_
      rw [heirRefused_eq, foreignHeir_of_team h5 hu hne]
      rfl
    · refine heir_refused hp hc hnf hfree hb hestate he ha halign hlimit ?_
      rw [heirRefused_eq, h3, hown]
      simp
  · rintro s t f va hp hc hnf hfree hb rfl hn
    exact heir_unowned hp hc hnf hfree hb hn
  · rintro s t r sd a b e hs hk hestate he ha hb
    refine ⟨convey_nobody hs hk hestate he ha, ?_, fun hr hkind hsound hq m hm =>
      convey_pool hs hk hestate he ha hb hr hkind hsound hq hm⟩
    rintro y e' hy hne hym hr hq rfl
    obtain ⟨s', hexec, hteam, hreceiver, hmem⟩ := convey_team hs hk hestate he ha hb hy hne hym hr hq
    refine ⟨s', _, hexec, hteam, hreceiver, fun hnew => addEntry_new hnew, fun c x d hkind hes hx ho hc => ?_, ?_⟩
    · rw [hes]
      exact addEntry_more (e := e.passed t.tid) hkind hx ho hc
    · rintro m w hm rfl hsound
      refine (hmem m hm hsound).trans ?_
      cases hkind : e.kind <;> simp only [conveyWord, hkind]

end Sys2Proof.Machine
end

section
/-! PROOFS. Promises at their home slice (R216, R344): PMAKE, PFULFIL and PWAIT; O26. -/

namespace Sys2Proof.Machine

open Sys2Proof.Claims

/-! ## Teams whose operation on a flag has ended (R113) -/

theorem lowerCount_tid (u : Team) (f : Option Nat) : (u.lowerCount f).tid = u.tid := by rw [lowerCount_eq]

theorem lowerCount_run (u : Team) (f : Option Nat) : (u.lowerCount f).run = u.run := by rw [lowerCount_eq]

theorem lowerCount_estate (u : Team) (f : Option Nat) : (u.lowerCount f).estate = u.estate := by rw [lowerCount_eq]

theorem lowerCount_monitor (u : Team) (f : Option Nat) : (u.lowerCount f).monitor = u.monitor := by rw [lowerCount_eq]

theorem gone_lowerCount (u : Team) (f : Option Nat) : (u.lowerCount f).gone = u.gone.lowerCount f := by
  cases f with
  | none => rfl
  | some n =>
    have hflags : u.gone.flags = u.flags := by simp [Team.gone]
    refine (Team.gone_flags u _).trans ?_
    simp only [Team.lowerCount, Team.modFlag, Team.flag, hflags]

theorem quiet_lowerCount {u : Team} (h : Quiet u) (f : Option Nat) : Quiet (u.lowerCount f) := by
  rw [lowerCount_eq]
  exact ⟨h.late, h.stepping, h.stays, h.yields⟩

theorem quiet_setAll {u : Team} (h : Quiet u) (ws : List (BitVec 7 × Dword)) : Quiet (u.setAll ws) := by
  rw [Team.setAll_eq]
  exact ⟨h.late, h.stepping, h.stays, h.yields⟩

theorem quiet_notified {u : Team} (h : Quiet u) (for_ : Park → Bool) (w : Wake) : Quiet (notified for_ w u) := by
  unfold notified
  split
  · exact ⟨h.late, h.stepping, h.stays, h.yields⟩
  · exact h

theorem team?_lowered {s : State} {h : Handle} {u : Team} (hu : s.team? h = some u) (f : Option Nat) :
    (s.modTeam h fun u => u.lowerCount f).team? h = some (u.lowerCount f) :=
  (State.team?_modTeam_same s h _ fun v hv => (lowerCount_tid v f).trans hv).trans (congrArg (Option.map _) hu)

/-- Two registers from D on, as a waiter gets them. -/
theorem setAll_pair (u : Team) {d : BitVec 7} (hd : d.toNat < 127) (x y : Dword) :
    u.setAll [(d, x), (d + 1, y)] = (u.setS d.toNat x).setS (d.toNat + 1) y := by
  have h1 : (d + 1).toNat = d.toNat + 1 := by
    rw [BitVec.toNat_add, Nat.mod_eq_of_lt (by simp; omega)]
    rfl
  simp only [Team.setAll, List.foldl_cons, List.foldl_nil, h1]

/-! ## The wake of a promise's waiters (R216) -/

/-- A waiter's team with the value and word 0, its count lowered and its wake come. -/
def wokenBy (pa v w : Nat) (x : PromiseWaiter) (u : Team) : Team :=
  notified (Park.isPromise pa) .done ((u.lowerCount x.flag).setAll [(x.sd, dw v), (x.sd + 1, dw w)])

/-- One waiter's wake. -/
def wakeWaiter (pa : Nat) (s : State) (x : PromiseWaiter) : State :=
  (s.modTeam x.tid fun t => t.lowerCount x.flag).grant x.tid
    [(x.sd, dw (s.physDword (pa + 8))), (x.sd + 1, dw (s.physDword pa))] x.scope (Park.isPromise pa)

theorem wakePromise_eq (s : State) (pa : Nat) : s.wakePromise pa =
    (s.promiseQ.filter fun x => x.pa == pa).foldl (wakeWaiter pa)
      { s with promiseQ := s.promiseQ.filter fun x => !(x.pa == pa) } := rfl

theorem tended_wakeWaiter (pa : Nat) (s : State) (x : PromiseWaiter) : Tended s (wakeWaiter pa s x) :=
  (storeOnly_modTeam ..).tended.trans (tended_grant ..)

theorem wakeWaiter_mem (pa : Nat) (s : State) (x : PromiseWaiter) : (wakeWaiter pa s x).mem = s.mem := grant_mem ..

theorem team?_wakeWaiter (pa : Nat) (s : State) (x : PromiseWaiter) (h : Handle) : (wakeWaiter pa s x).team? h =
    if h = x.tid then (s.team? h).map (wokenBy pa (s.physDword (pa + 8)) (s.physDword pa) x) else s.team? h := by
  refine (team?_grant ..).trans ?_
  split
  · rename_i hh
    subst hh
    rw [State.team?_modTeam_same s x.tid (fun t => t.lowerCount x.flag) fun v hv => (lowerCount_tid v x.flag).trans hv,
      Option.map_map]
    rfl
  · rename_i hh
    exact State.team?_modTeam_ne s _ hh fun v hv => (lowerCount_tid v x.flag).trans hv

section
variable (pa : Nat) (l : List PromiseWaiter) (s : State)

theorem tended_wakes : Tended s (l.foldl (wakeWaiter pa) s) :=
  List.foldlRecOn (motive := Tended s) l _ (.refl s) fun _ h x _ => h.trans (tended_wakeWaiter pa _ x)

theorem wakes_mem : (l.foldl (wakeWaiter pa) s).mem = s.mem :=
  List.foldlRecOn (motive := fun w : State => w.mem = s.mem) l _ rfl fun w h x _ => (wakeWaiter_mem pa w x).trans h

variable {l s}

theorem team?_wakes_ne {h : Handle} (hl : ∀ x ∈ l, x.tid ≠ h) : (l.foldl (wakeWaiter pa) s).team? h = s.team? h :=
  List.foldlRecOn (motive := fun w : State => w.team? h = s.team? h) l _ rfl fun w hw x hx =>
    (team?_wakeWaiter pa w x h).trans ((if_neg fun he => hl x hx he.symm).trans hw)

/-- A team stays quiet whatever wakes come. -/
theorem quiet_wakes {h : Handle} {u : Team} (hu : s.team? h = some u) (hq : Quiet u) :
    ∃ v, (l.foldl (wakeWaiter pa) s).team? h = some v ∧ Quiet v :=
  List.foldlRecOn (motive := fun w : State => ∃ v, w.team? h = some v ∧ Quiet v) l _ ⟨u, hu, hq⟩ fun w hw x _ => by
    obtain ⟨v, hv, hqv⟩ := hw
    rw [team?_wakeWaiter, hv, Option.map_some]
    split
    · exact ⟨_, rfl, quiet_notified (quiet_setAll (quiet_lowerCount hqv x.flag) _) _ _⟩
    · exact ⟨v, rfl, hqv⟩

/-- The one waiter of its team, told once. -/
theorem team?_wakes {x : PromiseWaiter} (hx : x ∈ l) (hone : l.count x = 1) (hown : ∀ z ∈ l, z.tid = x.tid → z = x) :
    (l.foldl (wakeWaiter pa) s).team? x.tid =
      (s.team? x.tid).map (wokenBy pa (s.physDword (pa + 8)) (s.physDword pa) x) := by
  obtain ⟨a, b, rfl⟩ := List.append_of_mem hx
  rw [List.count_append, List.count_cons_self] at hone
  have ha : ∀ z ∈ a, z.tid ≠ x.tid := fun z hz he => by
    have hzx := hown z (by simp [hz]) he
    exact List.count_eq_zero.mp (by omega) (hzx ▸ hz)
  have hb : ∀ z ∈ b, z.tid ≠ x.tid := fun z hz he => by
    have hzx := hown z (by simp [hz]) he
    exact List.count_eq_zero.mp (by omega) (hzx ▸ hz)
  rw [List.foldl_append, List.foldl_cons, team?_wakes_ne pa hb, team?_wakeWaiter, if_pos rfl, team?_wakes_ne pa ha,
    State.physDword, State.physDword, wakes_mem]
  rfl
end

theorem wokenBy_waiting {y : Team} {pa : Nat} (hr : y.run = .parked (.promise pa) none) (v w : Nat) {x : PromiseWaiter}
    (hd : x.sd.toNat < 127) : wokenBy pa v w x y =
      { ((y.lowerCount x.flag).setS x.sd.toNat (dw v)).setS (x.sd.toNat + 1) (dw w) with
        run := .parked (.promise pa) (some .done) } := by
  rw [wokenBy, setAll_pair _ hd]
  exact notified_waiting (u := ((y.lowerCount x.flag).setS x.sd.toNat (dw v)).setS (x.sd.toNat + 1) (dw w))
    ((lowerCount_run y x.flag).trans hr) (show Park.isPromise pa (.promise pa) = true from beq_self_eq_true pa)

/-! ## Words (R344) -/

theorem promiseState_eq (w : Nat) : promiseState w = w / 2 ^ 28 % 16 := bits_eq w 31 28

theorem promiseWord_pending (h : Handle) : promiseWord h 1 false = h.toNat * 2 ^ 32 + 2 ^ 28 := by simp [promiseWord]

theorem promiseWord_fulfilled (w : Nat) : promiseWord 0 2 (bit w 27) = 2 * 2 ^ 28 + if w.testBit 27 then 2 ^ 27 else 0 := by
  rw [promiseWord, bit, show (0 : Handle).toNat = 0 from rfl, Nat.zero_mul, Nat.zero_add]

/-! ## PMAKE -/

/-- The entry that a team's promise makes. -/
def promiseEntry (r : Req) (heir : BitVec 4) (h : Handle) : Estate :=
  { obj := r.va, pa := r.pa, kind := .promise, heir, handle := h }

section
variable {s : State} {t : Team} {r : Req} (hs : Served s r t) {heir : BitVec 4} {h : Handle} (hk : r.kind = .pmake heir h)
include hs hk

omit hs in
theorem pmake_service : serviceOf r t r.kind = some fun v => servePmake v r t heir h := by rw [hk]; rfl

theorem pmake_traps (hw : s.physDword r.pa / 2 ^ 28 % 16 = 1 ∨ 4 ≤ s.physDword r.pa / 2 ^ 28 % 16) :
    servesTrap s t 0x03 r.va := by
  refine servesTrap_atOnce hs (pmake_service hk) ?_
  simp only [servePmake, takenUp_physDword hs, promiseState_eq]
  exact if_pos (by simpa using hw)

variable (hpending : s.physDword r.pa / 2 ^ 28 % 16 ≠ 1) (hstate : s.physDword r.pa / 2 ^ 28 % 16 < 4)
include hpending hstate

omit hk in
theorem servePmake_eq : servePmake (takenUp s r) r t heir h =
    if (takenUp s r).estateFull t then (takenUp s r).replyTrap r 0x15
    else (((takenUp s r).setWord r.pa (t.tid.toNat * 2 ^ 32 + 2 ^ 28)).setEstate t.tid
      fun es => es ++ [promiseEntry r heir h]).replyWith t.tid [] := by
  simp only [servePmake, takenUp_physDword hs, promiseState_eq, promiseWord_pending]
  exact if_neg (by rw [Bool.or_eq_true, decide_eq_true_eq, decide_eq_true_eq]; omega)

theorem pmake_fullTraps (hroom : ¬ roomy s t) : servesTrap s t 0x15 r.va :=
  servesTrap_atOnce hs (pmake_service hk)
    ((servePmake_eq (heir := heir) (h := h) hs hpending hstate).trans
      (if_pos ((estateFull_iff (tended_takenUp hs) t).mpr hroom)))

theorem pmake_makes (hroom : roomy s t) : ∃ s', exec .homeSliceServe s = .next s' ∧
    s'.mem = (((served s r).homeWrite r.pa (toBytes 8 (t.tid.toNat * 2 ^ 32 + 2 ^ 28))).setEstate t.tid
      fun _ => t.estate ++ [promiseEntry r heir h]).mem ∧
    s'.team? t.tid = some { t.gone with estate := t.estate ++ [promiseEntry r heir h] } := by
  have hfull : (takenUp s r).estateFull t = false :=
    Bool.eq_false_iff.mpr fun hf => (estateFull_iff (tended_takenUp hs) t).mp hf hroom
  have heq := servePmake_eq (heir := heir) (h := h) hs hpending hstate
  rw [hfull, if_neg Bool.false_ne_true] at heq
  generalize t.tid.toNat * 2 ^ 32 + 2 ^ 28 = word at heq ⊢
  have hm := hs.alive.2.1
  have hset := team?_setWord (takenUp_team hs) hm r.pa word
  have hestate := team?_setEstate hset hm fun es => es ++ [promiseEntry r heir h]
  have hstore := (storeOnly_setWord (takenUp s r) r.pa word).trans
    (storeOnly_setEstate _ t.tid fun es => es ++ [promiseEntry r heir h])
  obtain ⟨ts, hexec, hteam, hmem, -⟩ := serves_replies hs (pmake_service hk) heq
    (hstore.tended.tags.trans (tended_takenUp hs).tags) hestate (quiet_estate hs.quiet _)
  refine ⟨_, hexec, hmem.trans ?_, hteam.trans (congrArg some (Team.gone_estate t _))⟩
  exact ((sameStore_takenUp hs).homeWriteBy 0 false r.pa (toBytes 8 word)).setEstate_mem
    (f := fun _ => t.estate ++ [promiseEntry r heir h])
    (team?_setWord (s := served s r) (tid_of_served hs ▸ hs.team) hm r.pa word) hset rfl rfl rfl rfl
end

/-! ## PFULFIL -/

section
variable {s : State} {t : Team} {r : Req} (hs : Served s r t) {v : Dword} (hk : r.kind = .pfulfil v)
include hs hk

theorem pfulfil_traps (hw : s.physDword r.pa / 2 ^ 28 % 16 ≠ 1 ∨ s.physDword r.pa / 2 ^ 32 ≠ t.tid.toNat) :
    servesTrap s t 0x03 r.va := by
  refine servesTrap_atOnce hs (f := fun x => servePfulfil x r t v) (by rw [hk]; rfl) ?_
  simp only [servePfulfil, takenUp_physDword hs, promiseState_eq]
  exact if_pos (by simpa using hw)

/-- The state in which the promise is fulfilled and its entry has gone, its waiters not yet told. -/
def fulfilled (z : State) (t : Team) (r : Req) (w : Nat) (v : Dword) (f : List Estate → List Estate) : State :=
  (z.homeWrite r.pa (toBytes 8 (2 * 2 ^ 28 + if w.testBit 27 then 2 ^ 27 else 0) ++ toBytes 8 v.toNat)).setEstate t.tid f

variable (hpending : s.physDword r.pa / 2 ^ 28 % 16 = 1) (hholds : s.physDword r.pa / 2 ^ 32 = t.tid.toNat)
include hpending hholds

omit hk in
theorem servePfulfil_eq : servePfulfil (takenUp s r) r t v =
    ((fulfilled (takenUp s r) t r (s.physDword r.pa) v (dropEntry .promise r.va)).wakePromise r.pa).replyWith t.tid [] := by
  have hbytes : ∀ a b : Nat, dwordBytes [a, b] = toBytes 8 a ++ toBytes 8 b := fun a b => by simp [dwordBytes]
  simp only [servePfulfil, takenUp_physDword hs, promiseState_eq, promiseWord_fulfilled, hbytes]
  exact if_neg (by rw [Bool.or_eq_true, decide_eq_true_eq, decide_eq_true_eq]; omega)

theorem pfulfil_fulfils {m : State} (hm : m = fulfilled (served s r) t r (s.physDword r.pa) v fun _ => without t .promise r.va) :
    ∃ s', exec .homeSliceServe s = .next s' ∧ s'.mem = m.mem ∧
      ((∀ x ∈ s.promiseQ, x.tid ≠ t.tid) → s'.team? t.tid = some { t.gone with estate := without t .promise r.va }) ∧
      (∀ x ∈ s'.promiseQ, x.pa ≠ r.pa) ∧
      ∀ x y, x ∈ s.promiseQ → x.pa = r.pa → (∀ z ∈ s.promiseQ, z.tid = x.tid → z = x) → s.promiseQ.count x = 1 →
        s.team? x.tid = some y → x.tid ≠ t.tid → y.monitor = .none_ →
        s'.team? x.tid = some (wokenBy r.pa (m.physDword (r.pa + 8)) (m.physDword r.pa) x y) := by
  have hheq := servePfulfil_eq (v := v) hs hpending hholds
  have hmon := hs.alive.2.1
  generalize hw : s.physDword r.pa = w at hheq hm
  have hset := team?_homeWrite (takenUp_team hs) hmon r.pa
    (toBytes 8 (2 * 2 ^ 28 + if w.testBit 27 then 2 ^ 27 else 0) ++ toBytes 8 v.toNat)
  have hteam := team?_setEstate hset hmon (dropEntry .promise r.va)
  have hstore : StoreOnly (takenUp s r) (fulfilled (takenUp s r) t r w v (dropEntry .promise r.va)) :=
    (homeOnly_homeWriteBy ..).storeOnly.trans (storeOnly_setEstate ..)
  have hmem : (fulfilled (takenUp s r) t r w v (dropEntry .promise r.va)).mem = m.mem := by
    rw [hm]
    exact ((sameStore_takenUp hs).homeWriteBy ..).setEstate_mem (f := fun _ => without t .promise r.va)
      (team?_homeWrite (s := served s r) (tid_of_served hs ▸ hs.team) hmon r.pa _) hset rfl rfl rfl rfl
  have hothers : ∀ h u, h ≠ t.tid → s.team? h = some u → u.monitor = .none_ →
      (fulfilled (takenUp s r) t r w v (dropEntry .promise r.va)).team? h = some u := fun h u hh hu hum =>
    team?_setEstate_ne (team?_homeWrite ((takenUp_team? hs h).trans hu) hum _ _) hum hh _
  change (fulfilled (takenUp s r) t r w v (dropEntry .promise r.va)).team? t.tid = _ at hteam
  have htended := (tended_takenUp hs).trans hstore.tended
  generalize fulfilled (takenUp s r) t r w v (dropEntry .promise r.va) = z at hheq hteam hmem hothers htended
  have hqueue := htended.promiseQ
  generalize hl : z.promiseQ.filter (fun x => x.pa == r.pa) = l
  generalize hz : ({ z with promiseQ := z.promiseQ.filter fun x => !(x.pa == r.pa) } : State) = y0
  have hwake : z.wakePromise r.pa = l.foldl (wakeWaiter r.pa) y0 := by rw [wakePromise_eq, hl, hz]
  have hy0 : ∀ h, y0.team? h = z.team? h := fun h => by rw [← hz]; rfl
  have hy0m : y0.mem = z.mem := by rw [← hz]
  have hy0t : y0.tags = z.tags := by rw [← hz]
  have hy0q : y0.promiseQ = z.promiseQ.filter fun x => !(x.pa == r.pa) := by rw [← hz]
  have hsub : ∀ x ∈ l, x ∈ s.promiseQ := fun x hx => by
    rw [← hqueue]
    exact (List.mem_filter.mp (hl ▸ hx)).1
  have hwakes := tended_wakes r.pa l y0
  obtain ⟨u, hu, hq⟩ := quiet_wakes (l := l) r.pa ((hy0 t.tid).trans hteam) (quiet_estate hs.quiet _)
  rw [hwake] at hheq
  obtain ⟨ts, hexec, hgone, hmem', hkept⟩ := serves_replies hs (f := fun x => servePfulfil x r t v) (by rw [hk]; rfl) hheq
    (hwakes.tags.trans (hy0t.trans htended.tags)) hu hq
  have hreplied := (tended_replyWith hu hq []).promiseQ.trans (hwakes.promiseQ.trans hy0q)
  refine ⟨_, hexec, ?_, fun hnone => ?_, fun x hx => ?_, fun x y hx hpa hown hone hy hne hym => ?_⟩
  · exact hmem'.trans ((wakes_mem r.pa l y0).trans (hy0m.trans hmem))
  · have hsame := (team?_wakes_ne (s := y0) r.pa fun x hx => hnone x (hsub x hx)).trans ((hy0 t.tid).trans hteam)
    cases hu.symm.trans hsame
    exact hgone.trans (congrArg some (Team.gone_estate t _))
  · have hx' := (show _ = _ from hreplied) ▸ hx
    simpa using (List.mem_filter.mp hx').2
  · have hxl : x ∈ l := by
      rw [← hl, hqueue]
      exact List.mem_filter.mpr ⟨hx, by simp [hpa]⟩
    have hcount : l.count x = 1 := by
      rw [← hl, hqueue, List.count_filter (by simp [hpa])]
      exact hone
    have hword : ∀ a, y0.physDword a = m.physDword a := fun a => by rw [State.physDword, hy0m, hmem, State.physDword]
    refine (hkept x.tid hne).trans ((team?_wakes r.pa hxl hcount fun z hz => hown z (hsub z hz)).trans ?_)
    rw [hy0, hothers x.tid y hne hy hym, Option.map_some, hword, hword]
end

/-! ## PWAIT -/

section
variable {s : State} {t : Team} {r : Req} (hs : Served s r t) {sd : BitVec 7} {fl : Option Nat} (hk : r.kind = .pwait sd fl)
include hs hk

theorem pwait_traps (hw : 4 ≤ s.physDword r.pa / 2 ^ 28 % 16) : servesTrap s (t.lowerCount fl) 0x03 r.va := by
  have hlowered := team?_lowered (takenUp_team hs) fl
  have htended := (tended_takenUp hs).trans (storeOnly_modTeam (takenUp s r) t.tid fun u => u.lowerCount fl).tended
  have hsup : s.isSup (t.lowerCount fl) = s.isSup t := by rw [lowerCount_eq]; rfl
  refine servesTrap_of hs (f := fun x => servePwait x r t sd fl) (by rw [hk]; rfl) ?_ htended hlowered
    (quiet_lowerCount hs.quiet fl) ((htended.isSup _).trans (hsup.trans hs.alive.2.2))
  simp only [servePwait, takenUp_physDword hs, promiseState_eq]
  exact if_pos hw

theorem pwait_reads (h2 : 2 ≤ s.physDword r.pa / 2 ^ 28 % 16) (h4 : s.physDword r.pa / 2 ^ 28 % 16 < 4) (hd : sd.toNat < 127) :
    ∃ s', exec .homeSliceServe s = .next s' ∧ s'.mem = s.mem ∧
      s'.team? t.tid = some (((t.gone.lowerCount fl).setS sd.toNat (BitVec.ofNat 64 (s.physDword (r.pa + 8)))).setS
        (sd.toNat + 1) (BitVec.ofNat 64 (s.physDword r.pa))) ∧
      (3 ≤ r.acquire.getD 4 → (s'.core (coreOf t.tid)).cache = []) := by
  have hlowered := team?_lowered (takenUp_team hs) fl
  have hcore : r.core = coreOf t.tid := by rw [hs.core, tid_of_served hs]
  have heq : servePwait (takenUp s r) r t sd fl =
      (((takenUp s r).modTeam t.tid fun u => u.lowerCount fl).acquireAt r.core (r.acquire.getD 4)).replyWith t.tid
        [(sd, dw (s.physDword (r.pa + 8))), (sd + 1, dw (s.physDword r.pa))] := by
    simp only [servePwait, takenUp_physDword hs, promiseState_eq]
    exact (if_neg (by omega)).trans (if_pos h2)
  generalize hws : [(sd, dw (s.physDword (r.pa + 8))), (sd + 1, dw (s.physDword r.pa))] = ws at heq
  generalize hv : ((takenUp s r).modTeam t.tid fun u => u.lowerCount fl).acquireAt r.core (r.acquire.getD 4) = z at heq
  have hz : z.team? t.tid = some (t.lowerCount fl) := by
    rw [← hv]
    exact (team?_acquireAt ..).trans hlowered
  have htended := (tended_takenUp hs).trans (storeOnly_modTeam (takenUp s r) t.tid fun u => u.lowerCount fl).tended
  have hztags : z.tags = s.tags := by
    rw [← hv, ← htended.tags]
    exact (acquireAt_coresOnly ((takenUp s r).modTeam t.tid fun u => u.lowerCount fl) _ _).storeOnly.tended.tags
  have hzmem : z.mem = s.mem := by
    rw [← hv, acquireAt_mem, ← takenUp_mem hs, State.modTeam]
  have hq := quiet_lowerCount hs.quiet fl
  obtain ⟨ts, hexec, hteam, hmem, -⟩ := serves_replies hs (f := fun x => servePwait x r t sd fl) (by rw [hk]; rfl) heq hztags
    hz hq
  have hkept := replyWith_core hz hq ws (coreOf t.tid)
  generalize z.replyWith t.tid ws = y at hexec hteam hmem hkept
  refine ⟨_, hexec, hmem.trans hzmem, hteam.trans (congrArg some ?_), fun h3 => ?_⟩
  · rw [← hws, setAll_pair _ hd, Team.gone_setS, Team.gone_setS, gone_lowerCount]
    rfl
  · refine (congrArg Core.cache hkept).trans ?_
    rw [← hv, State.acquireAt, if_pos h3, core_dropCache, if_pos hcore.symm]

theorem pwait_parks (h2 : s.physDword r.pa / 2 ^ 28 % 16 < 2) : ∃ s', exec .homeSliceServe s = .next s' ∧ s'.mem = s.mem ∧
    s'.promiseQ = s.promiseQ ++ [{ pa := r.pa, tid := t.tid, sd, flag := fl, scope := r.acquire.getD 4 }] ∧
    s'.team? t.tid = some { t with run := .parked (.promise r.pa) none, held := none } := by
  have heq : servePwait (takenUp s r) r t sd fl = (takenUp s r).parkReq r t 2 (.promise r.pa) false fun s => { s with
      promiseQ := s.promiseQ ++ [{ pa := r.pa, tid := t.tid, sd, flag := fl, scope := r.acquire.getD 4 }] } := by
    simp only [servePwait, takenUp_physDword hs, promiseState_eq]
    exact (if_neg (by omega)).trans (if_neg (by omega))
  obtain ⟨w, ts, hexec, hmem, hteam, v, hv, rfl⟩ := serves_parks hs (f := fun x => servePwait x r t sd fl) (by rw [hk]; rfl) heq
    fun s => ⟨rfl, rfl, rfl⟩
  refine ⟨_, hexec, hmem, ?_, hteam⟩
  rw [← hv.promiseQ]
  rfl
end

/-- The promises' half of O26: each service is its change of the object, and a trap, a park, or a reply. -/
theorem promiseIsMadeFulfilledAndAwaited : Claims.PromiseIsMadeFulfilledAndAwaited := by
  rintro s t r w hs rfl
  refine ⟨fun heir h hk => ⟨pmake_traps hs hk, pmake_fullTraps hs hk, fun hpending hstate hroom => ?_⟩,
    fun v hk => ⟨pfulfil_traps hs hk, fun hpending hholds m hm => ?_⟩,
    fun sd fl hk hd => ⟨pwait_traps hs hk, fun h2 h4 => pwait_reads hs hk h2 h4 hd, fun h2 => ?_⟩⟩
  · obtain ⟨s', hexec, hmem, hteam⟩ := pmake_makes hs hk hpending hstate hroom
    exact ⟨s', _, hexec, rfl, hmem, hteam⟩
  · obtain ⟨s', hexec, hmem, hteam, hqueue, hwoken⟩ := pfulfil_fulfils hs hk hpending hholds hm
    refine ⟨s', hexec, hmem, hteam, hqueue, fun x y hx hpa hown hone hy hne hr hym hd => ?_⟩
    rw [hwoken x y hx hpa hown hone hy hne hym, wokenBy_waiting hr _ _ hd]
    rfl
  · obtain ⟨s', hexec, hmem, hqueue, hteam⟩ := pwait_parks hs hk h2
    exact ⟨s', _, hexec, hmem, hqueue, rfl, rfl, rfl, rfl, hteam⟩

end Sys2Proof.Machine
end

section
/-! PROOFS. The grants of a permit pool's queue (R217, R341, R345), and states that a grant cannot tell apart; O26. -/

namespace Sys2Proof.Machine

open Sys2Proof.Claims

/-! ## States that a grant cannot tell apart -/

theorem SameStore.modTeam {s w : State} (h : SameStore s w) (k : Handle) (f : Team → Team) :
    SameStore (s.modTeam k f) (w.modTeam k f) :=
  ⟨⟨h.maps.mem, h.maps.cores, h.maps.ctxs, h.maps.accepted, h.maps.moduleNumber, h.maps.routes, h.maps.links⟩, h.fresh⟩

/-- Two states agree in all that a grant reads: what a write through page tables reads, the teams, the arms, and the requests
for permits. -/
structure Alike (s w : State) : Prop where
  store : SameStore s w
  teams : w.teams = s.teams
  arms : w.arms = s.arms
  permitQ : w.permitQ = s.permitQ

/-- A line's arms fire by the arms and the teams alone. -/
theorem fireLine_of {s w : State} (h : w.teams = s.teams ∧ w.arms = s.arms) (line n : Nat) :
    (w.fireLine line n).teams = (s.fireLine line n).teams ∧ (w.fireLine line n).arms = (s.fireLine line n).arms := by
  unfold State.fireLine
  rw [h.2]
  refine List.foldl_rel (r := fun a b : State => a.teams = b.teams ∧ a.arms = b.arms) ⟨h.1, rfl⟩ fun a _ x y hxy => ?_
  exact ⟨by simp only [State.modTeam, hxy.1], hxy.2⟩

theorem touchSlice_teams (s : State) (pa n : Nat) (wr : Bool) :
    (s.touchSlice pa n wr).teams = s.teams ∧ (s.touchSlice pa n wr).arms = s.arms :=
  List.foldlRecOn (motive := fun w : State => w.teams = s.teams ∧ w.arms = s.arms) _ _ ⟨rfl, rfl⟩ fun w h p _ => by
    have hseen := seenOnly_touchAt w p.1 wr
    unfold SeenOnly at hseen
    rw [hseen]
    exact h

namespace Alike

variable {s w : State} (h : Alike s w)
include h

theorem team? (k : Handle) : w.team? k = s.team? k := team?_of_teams h.teams k

theorem physDword (a : Nat) : w.physDword a = s.physDword a := h.store.maps.physDword a

theorem isDying (k : Handle) : w.isDying k = s.isDying k := by rw [State.isDying, h.team?, State.isDying]

/-- What changes the cores alone. -/
theorem coresOnly {s' w' : State} (hs : CoresOnly s s') (hw : CoresOnly w w') (hstore : SameStore s' w') : Alike s' w' := by
  unfold CoresOnly at hs hw
  refine ⟨hstore, ?_, ?_, ?_⟩ <;> rw [hs, hw]
  · exact h.teams
  · exact h.arms
  · exact h.permitQ

theorem withPermitQ (q : List PermitWaiter) : Alike { s with permitQ := q } { w with permitQ := q } where
  store := ⟨⟨h.store.maps.mem, h.store.maps.cores, h.store.maps.ctxs, h.store.maps.accepted, h.store.maps.moduleNumber,
    h.store.maps.routes, h.store.maps.links⟩, h.store.fresh⟩
  teams := h.teams
  arms := h.arms
  permitQ := rfl

theorem modTeam (k : Handle) (f : Team → Team) : Alike (s.modTeam k f) (w.modTeam k f) where
  store := h.store.modTeam k f
  teams := by simp only [State.modTeam, h.teams]
  arms := h.arms
  permitQ := h.permitQ

theorem acquireAt (core scope : Nat) : Alike (s.acquireAt core scope) (w.acquireAt core scope) := by
  unfold State.acquireAt
  split
  · exact h.coresOnly (coresOnly_modCore ..) (coresOnly_modCore ..) (h.store.modCore core _)
  · exact h

theorem homeWriteBy (n : Nat) (nc : Bool) (pa : Nat) (bs : List Byte) :
    Alike (s.homeWriteBy n nc pa bs) (w.homeWriteBy n nc pa bs) := by
  have hfires : (w.homeWriteBy n nc pa bs).teams = (s.homeWriteBy n nc pa bs).teams ∧
      (w.homeWriteBy n nc pa bs).arms = (s.homeWriteBy n nc pa bs).arms := by
    unfold State.homeWriteBy
    refine List.foldl_rel (r := fun a b : State => a.teams = b.teams ∧ a.arms = b.arms) ?_ fun l _ a b hab => fireLine_of hab l 0
    split
    · exact ⟨h.teams, h.arms⟩
    · obtain ⟨hw, hw'⟩ := touchSlice_teams ({ w with mem := memWrite w.mem pa bs }.healSectors n pa bs.length) pa bs.length true
      obtain ⟨hs, hs'⟩ := touchSlice_teams ({ s with mem := memWrite s.mem pa bs }.healSectors n pa bs.length) pa bs.length true
      exact ⟨hw.trans (h.teams.trans hs.symm), hw'.trans (h.arms.trans hs'.symm)⟩
  have hs := (homeOnly_homeWriteBy s n nc pa bs).storeOnly.tended.permitQ
  have hw := (homeOnly_homeWriteBy w n nc pa bs).storeOnly.tended.permitQ
  exact ⟨h.store.homeWriteBy n nc pa bs, hfires.1, hfires.2, hw.trans (h.permitQ.trans hs.symm)⟩

theorem setWord (pa x : Nat) : Alike (s.setWord pa x) (w.setWord pa x) := h.homeWriteBy ..

end Alike

theorem followsStores_alike : FollowsStores Alike where
  store h := h.store
  fillTlb h port ctx va := h.coresOnly (coresOnly_fillTlb ..) (coresOnly_fillTlb ..) (h.store.fillTlb port ctx va)
  homeWriteBy h := h.homeWriteBy
  dropLine h core line := h.coresOnly (coresOnly_modCore ..) (coresOnly_modCore ..) (h.store.dropLine core line)

namespace Alike

variable {s w : State} (h : Alike s w)
include h

theorem setEstate (k : Handle) (f : List Estate → List Estate) : Alike (s.setEstate k f) (w.setEstate k f) := by
  unfold State.setEstate
  rw [h.team?]
  split
  · exact h
  · exact (followsStores_alike.writeEstate h rfl rfl rfl _ _).modTeam k _

theorem noteWrites (k : Handle) (scalar : Bool) (places : List (Nat × Nat)) :
    Alike (s.noteWrites k scalar places) (w.noteWrites k scalar places) where
  store := ⟨⟨h.store.maps.mem, h.store.maps.cores, h.store.maps.ctxs, h.store.maps.accepted, h.store.maps.moduleNumber,
    h.store.maps.routes, h.store.maps.links⟩, h.store.fresh⟩
  teams := h.teams
  arms := h.arms
  permitQ := h.permitQ

theorem notify (k : Handle) (for_ : Park → Bool) (x : Wake) : Alike (s.notify k for_ x) (w.notify k for_ x) where
  store := ⟨⟨h.store.maps.mem, h.store.maps.cores, congrArg (List.map _) h.store.maps.ctxs, h.store.maps.accepted,
    h.store.maps.moduleNumber, h.store.maps.routes, h.store.maps.links⟩, h.store.fresh⟩
  teams := (h.modTeam k (notified for_ x)).teams
  arms := h.arms
  permitQ := h.permitQ

theorem grant (k : Handle) (ws : List (BitVec 7 × Dword)) (scope : Nat) (for_ : Park → Bool) :
    Alike (s.grant k ws scope for_) (w.grant k ws scope for_) :=
  (((h.noteWrites k true _).modTeam k _).acquireAt _ scope).notify k for_ .done
end Alike

/-! ## One grant (R217) -/

/-- The entry that a grant makes or adds to. -/
def permitEntry (pa : Nat) (x : PermitWaiter) : Estate :=
  { obj := x.va, pa, kind := .permit, count := x.n, heir := x.heir, handle := x.handle }

/-- The pool's word is w and its request's team has its entry and has left its reservation. -/
def takenFrom (s : State) (pa : Nat) (x : PermitWaiter) (w : Nat) : State :=
  (({ s with permitQ := s.permitQ.filter fun y => !(y.tid == x.tid) }.setWord pa w).modTeam x.tid fun t =>
    { t with reservedEntries := 0 }).setEstate x.tid (addEntry (permitEntry pa x))

/-- A request is granted, its pool's word then w. -/
def givePermits (s : State) (pa : Nat) (x : PermitWaiter) (w : Nat) : State :=
  ((takenFrom s pa x w).modTeam x.tid fun t => t.lowerCount x.flag).grant x.tid [(x.sd, dw w)] x.scope (Park.isPermit pa)

/-- The request that a pool's grants turn to first. -/
def headOf (s : State) (pa : Nat) : Option PermitWaiter := s.permitQ.find? fun x => x.pa == pa && !s.isDying x.tid

theorem grantPermits_succ (fuel pa : Nat) (s : State) : grantPermits (fuel + 1) pa s =
    match headOf s pa with
    | none => s
    | some x => if s.physDword pa % 2 ^ 32 < x.n then s
      else grantPermits fuel pa (givePermits s pa x (s.physDword pa - x.n)) := by
  rw [grantPermits]
  rfl

theorem grantPermits_none {s : State} {pa : Nat} (h : headOf s pa = none) (fuel : Nat) : grantPermits fuel pa s = s := by
  cases fuel with
  | zero => rfl
  | succ fuel => rw [grantPermits_succ, h]

section
variable {s : State} {pa : Nat} {x : PermitWaiter} (h : headOf s pa = some x)
include h

theorem grantPermits_short (hn : s.physDword pa % 2 ^ 32 < x.n) (fuel : Nat) : grantPermits fuel pa s = s := by
  cases fuel with
  | zero => rfl
  | succ fuel => rw [grantPermits_succ, h]; exact if_pos hn

theorem grantPermits_gives (hn : x.n ≤ s.physDword pa % 2 ^ 32) (fuel : Nat) :
    grantPermits (fuel + 1) pa s = grantPermits fuel pa (givePermits s pa x (s.physDword pa - x.n)) := by
  rw [grantPermits_succ, h]
  exact if_neg (by omega)
end

theorem takenFrom_tended (s : State) (pa : Nat) (x : PermitWaiter) (w : Nat) :
    Tended { s with permitQ := s.permitQ.filter fun y => !(y.tid == x.tid) } (takenFrom s pa x w) :=
  (storeOnly_setWord ..).tended.trans ((storeOnly_modTeam ..).tended.trans (storeOnly_setEstate ..).tended)

theorem givePermits_tended (s : State) (pa : Nat) (x : PermitWaiter) (w : Nat) :
    Tended { s with permitQ := s.permitQ.filter fun y => !(y.tid == x.tid) } (givePermits s pa x w) :=
  (takenFrom_tended s pa x w).trans ((storeOnly_modTeam ..).tended.trans (tended_grant ..))

theorem givePermits_permitQ (s : State) (pa : Nat) (x : PermitWaiter) (w : Nat) :
    (givePermits s pa x w).permitQ = s.permitQ.filter fun y => !(y.tid == x.tid) := (givePermits_tended s pa x w).permitQ

theorem givePermits_mem (s : State) (pa : Nat) (x : PermitWaiter) (w : Nat) :
    (givePermits s pa x w).mem = (takenFrom s pa x w).mem := grant_mem ..

section
variable {s : State} {pa : Nat} {x : PermitWaiter} {y : Team} (hy : s.team? x.tid = some y) (hm : y.monitor = .none_) (w : Nat)
include hy hm

theorem takenFrom_mem : (takenFrom s pa x w).mem =
    ((s.setWord pa w).setEstate x.tid fun _ => addEntry (permitEntry pa x) y.estate).mem := by
  have hqueue : SameStore s { s with permitQ := s.permitQ.filter fun y => !(y.tid == x.tid) } :=
    ⟨⟨rfl, rfl, rfl, rfl, rfl, rfl, rfl⟩, rfl⟩
  obtain ⟨⟨h1, h2, h3, h4, h5, h6, h7⟩, h8⟩ := hqueue.homeWriteBy 0 false pa (toBytes 8 w)
  have hword : SameStore (s.setWord pa w) ((State.setWord { s with permitQ := s.permitQ.filter fun y => !(y.tid == x.tid) } pa
      w).modTeam x.tid fun t => { t with reservedEntries := 0 }) := ⟨⟨h1, h2, h3, h4, h5, h6, h7⟩, h8⟩
  have hset := team?_setWord (s := { s with permitQ := s.permitQ.filter fun y => !(y.tid == x.tid) }) hy hm pa w
  exact hword.setEstate_mem (u := { y with reservedEntries := 0 }) (team?_setWord hy hm pa w)
    ((State.team?_modTeam_same _ x.tid (fun t => { t with reservedEntries := 0 }) fun _ h => h).trans (congrArg (Option.map _) hset))
    rfl rfl rfl rfl

theorem team?_takenFrom : (takenFrom s pa x w).team? x.tid =
    some { y with reservedEntries := 0, estate := addEntry (permitEntry pa x) y.estate } := by
  have hset := team?_setWord (s := { s with permitQ := s.permitQ.filter fun y => !(y.tid == x.tid) }) hy hm pa w
  exact team?_setEstate (u := { y with reservedEntries := 0 })
    ((State.team?_modTeam_same _ x.tid (fun t => { t with reservedEntries := 0 }) fun _ h => h).trans (congrArg (Option.map _) hset))
    hm _

theorem team?_givePermits (hr : y.run = .parked (.permit pa) none) : (givePermits s pa x w).team? x.tid =
    some { (y.lowerCount x.flag).setS x.sd.toNat (dw w) with
      estate := addEntry (permitEntry pa x) y.estate, reservedEntries := 0, run := .parked (.permit pa) (some .done) } := by
  have hlowered := team?_lowered (team?_takenFrom (pa := pa) hy hm w) x.flag
  refine (team?_grant ..).trans ?_
  rw [if_pos rfl, hlowered, Option.map_some]
  generalize addEntry (permitEntry pa x) y.estate = es
  have hsame : ({ y with reservedEntries := 0, estate := es } : Team).lowerCount x.flag =
      { y.lowerCount x.flag with reservedEntries := 0, estate := es } := by
    cases x.flag <;> rfl
  rw [hsame]
  exact congrArg some (notified_waiting (u := { (y.lowerCount x.flag).setS x.sd.toNat (dw w) with
    estate := es, reservedEntries := 0 }) ((lowerCount_run y x.flag).trans hr)
    (show Park.isPermit pa (.permit pa) = true from beq_self_eq_true pa))
end

/-- A grant leaves every other team. -/
theorem team?_givePermits_ne {s : State} {k : Handle} {u : Team} {x : PermitWaiter} (hk : k ≠ x.tid) (hu : s.team? k = some u)
    (hm : u.monitor = .none_) (pa w : Nat) : (givePermits s pa x w).team? k = some u := by
  have hset := team?_setWord (s := { s with permitQ := s.permitQ.filter fun y => !(y.tid == x.tid) }) hu hm pa w
  have htaken : (takenFrom s pa x w).team? k = some u := team?_setEstate_ne
    ((State.team?_modTeam_ne _ (fun t => { t with reservedEntries := 0 }) hk fun _ h => h).trans hset) hm hk _
  refine (team?_grant ..).trans ((if_neg hk).trans ?_)
  exact (State.team?_modTeam_ne _ (fun t => t.lowerCount x.flag) hk fun v hv => (lowerCount_tid v x.flag).trans hv).trans htaken

/-! ## The grants of a queue -/

section
variable {s : State} {pa : Nat} {x : PermitWaiter}

theorem headOf_some (h : headOf s pa = some x) : x ∈ s.permitQ ∧ x.pa = pa := by
  have hp := List.find?_some h
  simp only [Bool.and_eq_true, beq_iff_eq] at hp
  exact ⟨List.mem_of_find?_eq_some h, hp.1⟩

theorem givePermits_shorter (hx : x ∈ s.permitQ) (w : Nat) : (givePermits s pa x w).permitQ.length < s.permitQ.length := by
  rw [givePermits_permitQ]
  exact List.length_filter_lt_length_iff_exists.mpr ⟨x, hx, by simp⟩

/-- Fuel beyond the queue's length makes no difference. -/
theorem grantPermits_fuel (pa n k : Nat) (s : State) (hn : s.permitQ.length < n) (hk : s.permitQ.length < k) :
    grantPermits n pa s = grantPermits k pa s := by
  induction n generalizing k s with
  | zero => omega
  | succ n ih =>
    obtain ⟨k, rfl⟩ : ∃ j, k = j + 1 := ⟨k - 1, by omega⟩
    cases h : headOf s pa with
    | none => rw [grantPermits_none h, grantPermits_none h]
    | some x =>
      by_cases hfits : s.physDword pa % 2 ^ 32 < x.n
      · rw [grantPermits_short h hfits, grantPermits_short h hfits]
      · have hless := givePermits_shorter (pa := pa) (headOf_some h).1 (s.physDword pa - x.n)
        rw [grantPermits_gives h (by omega), grantPermits_gives h (by omega)]
        exact ih k _ (by omega) (by omega)

theorem grantPool_gives (h : headOf s pa = some x) (hn : x.n ≤ s.physDword pa % 2 ^ 32) :
    s.grantPool pa = (givePermits s pa x (s.physDword pa - x.n)).grantPool pa := by
  rw [State.grantPool, grantPermits_gives h hn]
  exact grantPermits_fuel pa _ _ _ (givePermits_shorter (headOf_some h).1 _) (Nat.lt_succ_self _)
end

section
variable (pa fuel : Nat)

theorem grantPermits_tags (s : State) : (grantPermits fuel pa s).tags = s.tags := by
  induction fuel generalizing s with
  | zero => rfl
  | succ fuel ih =>
    cases h : headOf s pa with
    | none => rw [grantPermits_none h]
    | some x =>
      by_cases hfits : s.physDword pa % 2 ^ 32 < x.n
      · rw [grantPermits_short h hfits]
      · rw [grantPermits_gives h (by omega), ih]
        exact (givePermits_tended s pa x _).tags

/-- A team that is not among the pool's waiters stands as it stood. -/
theorem team?_grantPermits {k : Handle} {u : Team} (hm : u.monitor = .none_) (s : State) (hu : s.team? k = some u)
    (hq : ∀ x ∈ s.permitQ, x.pa = pa → x.tid ≠ k) : (grantPermits fuel pa s).team? k = some u := by
  induction fuel generalizing s with
  | zero => exact hu
  | succ fuel ih =>
    cases h : headOf s pa with
    | none => rw [grantPermits_none h, hu]
    | some x =>
      by_cases hfits : s.physDword pa % 2 ^ 32 < x.n
      · rw [grantPermits_short h hfits, hu]
      · obtain ⟨hx, hpa⟩ := headOf_some h
        rw [grantPermits_gives h (by omega)]
        refine ih _ (team?_givePermits_ne (hq x hx hpa).symm hu hm pa _) fun z hz => ?_
        rw [givePermits_permitQ] at hz
        exact hq z (List.mem_of_mem_filter hz)
end

theorem Alike.givePermits {s w : State} (h : Alike s w) (pa : Nat) (x : PermitWaiter) (n : Nat) :
    Alike (givePermits s pa x n) (givePermits w pa x n) := by
  have hqueue : Alike { s with permitQ := s.permitQ.filter fun y => !(y.tid == x.tid) }
      { w with permitQ := w.permitQ.filter fun y => !(y.tid == x.tid) } := by
    rw [h.permitQ]
    exact h.withPermitQ _
  exact ((((hqueue.setWord pa n).modTeam _ _).setEstate _ _).modTeam _ _).grant _ _ _ _

theorem Alike.headOf {s w : State} (h : Alike s w) (pa : Nat) : headOf w pa = headOf s pa := by
  simp only [Machine.headOf, h.permitQ, h.isDying]

theorem Alike.grantPermits (pa fuel : Nat) {s w : State} (h : Alike s w) : Alike (grantPermits fuel pa s) (grantPermits fuel pa w) := by
  induction fuel generalizing s w with
  | zero => exact h
  | succ fuel ih =>
    rw [grantPermits_succ, grantPermits_succ, h.headOf, h.physDword]
    split
    · exact h
    · split
      · exact h
      · exact ih (h.givePermits ..)

theorem Alike.grantPool {s w : State} (h : Alike s w) (pa : Nat) : Alike (s.grantPool pa) (w.grantPool pa) := by
  rw [State.grantPool, State.grantPool, h.permitQ]
  exact h.grantPermits pa _

end Sys2Proof.Machine
end

section
/-! PROOFS. PERMGET and PERMPUT at their home slice (R217, R345); O26. -/

namespace Sys2Proof.Machine

open Sys2Proof.Claims

theorem addEntry_owned {x : Estate} {t : Team} {a b : List Estate} {e : Estate} (hx : x.kind = .permit)
    (hestate : t.estate = a ++ e :: b) (he : e.kind = .permit) (ho : e.obj = x.obj)
    (ha : ∀ z ∈ a, z.kind = .permit → z.obj ≠ x.obj) :
    addEntry x t.estate = a ++ { e with count := e.count + x.count } :: b := by
  rw [hestate]
  exact addEntry_more hx he ho ha

/-! ## PERMGET -/

section
variable {s : State} {t : Team} {r : Req} (hs : Served s r t) {sd : BitVec 7} {n : Nat} {heir : BitVec 4} {h : Handle}
  {fl : Option Nat} (hk : r.kind = .permget sd n heir h fl)
include hs hk

omit hs in
theorem permget_service : serviceOf r t r.kind = some fun v => servePermget v r t sd n heir h fl := by rw [hk]; rfl

/-- The entry that a team's permits make or add to. -/
def permitsOf (r : Req) (n : Nat) (heir : BitVec 4) (h : Handle) : Estate :=
  { obj := r.va, pa := r.pa, kind := .permit, count := n, heir, handle := h }

/-- Some request for the pool stands in its queue, of a team that is not dying. -/
def queued (s : State) (pa : Nat) : Bool := s.permitQ.any fun x => x.pa == pa && !s.isDying x.tid

omit hk in
theorem queued_takenUp : queued (takenUp s r) r.pa = queued s r.pa := by
  have hdying : ∀ k, (takenUp s r).isDying k = s.isDying k := fun k => by rw [State.isDying, takenUp_team? hs, State.isDying]
  simp only [queued, (tended_takenUp hs).permitQ, hdying]

omit hk in
theorem servePermget_eq : servePermget (takenUp s r) r t sd n heir h fl =
    if (!owns t .permit r.va && (takenUp s r).estateFull t) = true then
      ((takenUp s r).modTeam t.tid fun u => u.lowerCount fl).replyTrap r 0x15
    else if (decide (n ≤ s.physDword r.pa % 2 ^ 32) && !queued s r.pa) = true then
      (((((takenUp s r).modTeam t.tid fun u => u.lowerCount fl).setWord r.pa (s.physDword r.pa - n)).setEstate t.tid
        (addEntry (permitsOf r n heir h))).acquireAt r.core (r.acquire.getD 4)).replyWith t.tid [(sd, dw (s.physDword r.pa - n))]
    else (takenUp s r).parkReq r t 1 (.permit r.pa) (!owns t .permit r.va) fun s => { s with permitQ := s.permitQ ++
      [{ pa := r.pa, tid := t.tid, va := r.va, sd, n, heir, handle := h, flag := fl, scope := r.acquire.getD 4 }] } := by
  rw [← queued_takenUp hs, ← takenUp_physDword hs, ← entry?_isSome]
  rfl

theorem permget_fullTraps (hown : owns t .permit r.va = false) (hroom : ¬ roomy s t) :
    servesTrap s (t.lowerCount fl) 0x15 r.va := by
  have hlowered := team?_lowered (takenUp_team hs) fl
  have htended := (tended_takenUp hs).trans (storeOnly_modTeam (takenUp s r) t.tid fun u => u.lowerCount fl).tended
  have hsup : s.isSup (t.lowerCount fl) = s.isSup t := by rw [lowerCount_eq]; rfl
  refine servesTrap_of hs (permget_service hk) ?_ htended hlowered (quiet_lowerCount hs.quiet fl)
    ((htended.isSup _).trans (hsup.trans hs.alive.2.2))
  refine (servePermget_eq hs).trans (if_pos ?_)
  rw [hown, (estateFull_iff (tended_takenUp hs) t).mpr hroom]
  rfl

variable (hroom : owns t .permit r.va = true ∨ roomy s t)
include hroom

omit hk in
theorem permget_roomy : (!owns t .permit r.va && (takenUp s r).estateFull t) = false := by
  rcases hroom with hown | hroom
  · rw [hown]
    rfl
  · rw [Bool.eq_false_iff.mpr fun hf => (estateFull_iff (tended_takenUp hs) t).mp hf hroom, Bool.and_false]

theorem permget_takes (hn : n ≤ s.physDword r.pa % 2 ^ 32) (hq : ∀ x ∈ s.permitQ, x.pa ≠ r.pa) :
    ∃ s', exec .homeSliceServe s = .next s' ∧
      s'.mem = ((((served s r).modTeam t.tid fun u => u.lowerCount fl).setWord r.pa (s.physDword r.pa - n)).setEstate t.tid
        fun _ => addEntry (permitsOf r n heir h) t.estate).mem ∧
      s'.team? t.tid = some { (t.gone.lowerCount fl).setS sd.toNat (BitVec.ofNat 64 (s.physDword r.pa - n)) with
        estate := addEntry (permitsOf r n heir h) t.estate } := by
  have hnone : queued s r.pa = false := List.any_eq_false.mpr fun x hx => by simp [hq x hx]
  have heq := servePermget_eq (sd := sd) (n := n) (heir := heir) (h := h) (fl := fl) hs
  rw [permget_roomy hs hroom, if_neg Bool.false_ne_true, if_pos (by rw [hnone, decide_eq_true hn]; rfl)] at heq
  generalize s.physDword r.pa - n = word at heq ⊢
  have hlower := lowerCount_monitor t fl
  have hm : (t.lowerCount fl).monitor = .none_ := hlower.trans hs.alive.2.1
  have htended := (tended_takenUp hs).trans (storeOnly_modTeam (takenUp s r) t.tid fun u => u.lowerCount fl).tended
  have hstands : (served s r).team? t.tid = some t := tid_of_served hs ▸ hs.team
  have hbase := team?_lowered hstands fl
  have hlowered := team?_lowered (takenUp_team hs) fl
  have hsame := (sameStore_takenUp hs).modTeam t.tid fun u => u.lowerCount fl
  generalize ((takenUp s r).modTeam t.tid fun u => u.lowerCount fl) = v at heq htended hlowered hsame
  have hset := team?_setWord hlowered hm r.pa word
  have hestate := team?_setEstate hset hm (addEntry (permitsOf r n heir h))
  have hstore := (storeOnly_setWord v r.pa word).trans
    ((storeOnly_setEstate _ t.tid (addEntry (permitsOf r n heir h))).trans
      (acquireAt_coresOnly _ r.core (r.acquire.getD 4)).storeOnly)
  obtain ⟨ts, hexec, hteam, hmem, -⟩ := serves_replies hs (permget_service hk) heq
    (hstore.tended.tags.trans htended.tags) ((team?_acquireAt ..).trans hestate) (quiet_estate (quiet_lowerCount hs.quiet fl) _)
  refine ⟨_, hexec, ?_, hteam.trans (congrArg some ?_)⟩
  · refine (hmem.trans (acquireAt_mem ..)).trans ?_
    exact (hsame.homeWriteBy 0 false r.pa (toBytes 8 word)).setEstate_mem
      (f := fun _ => addEntry (permitsOf r n heir h) t.estate) (team?_setWord hbase hm r.pa word) hset rfl rfl rfl
      (congrArg _ (lowerCount_estate t fl))
  · refine (Team.gone_setS _ _ _).trans ?_
    rw [Team.gone_estate, gone_lowerCount, lowerCount_estate]
    rfl

theorem permget_waits (hw : s.physDword r.pa % 2 ^ 32 < n ∨ ∃ x ∈ s.permitQ, x.pa = r.pa ∧ s.isDying x.tid = false) :
    ∃ s', exec .homeSliceServe s = .next s' ∧ s'.mem = s.mem ∧ s'.permitQ = s.permitQ ++
        [{ pa := r.pa, tid := t.tid, va := r.va, sd, n, heir, handle := h, flag := fl, scope := r.acquire.getD 4 }] ∧
      s'.team? t.tid = some (waitingTeam t (.permit r.pa) (!owns t .permit r.va)) := by
  have hno : ¬ (decide (n ≤ s.physDword r.pa % 2 ^ 32) && !queued s r.pa) = true := by
    rw [Bool.and_eq_true, decide_eq_true_eq, Bool.not_eq_true', queued, List.any_eq_false]
    rintro ⟨hn, hq⟩
    obtain hw | ⟨x, hx, hpa, hd⟩ := hw
    · omega
    · exact hq x hx (by simp [hpa, hd])
  have heq := servePermget_eq (sd := sd) (n := n) (heir := heir) (h := h) (fl := fl) hs
  rw [permget_roomy hs hroom, if_neg Bool.false_ne_true, if_neg hno] at heq
  obtain ⟨w, ts, hexec, hmem, hteam, v, hv, rfl⟩ := serves_parks hs (permget_service hk) heq fun s => ⟨rfl, rfl, rfl⟩
  refine ⟨_, hexec, hmem, ?_, hteam⟩
  rw [← hv.permitQ]
  rfl
end

/-! ## PERMPUT -/

theorem alike_takenUp {s : State} {t : Team} {r : Req} (hs : Served s r t) : Alike (served s r) (takenUp s r) := by
  obtain ⟨o, hv⟩ := takenUp_eq hs
  rw [hv]
  exact ⟨⟨⟨rfl, rfl, rfl, rfl, rfl, rfl, rfl⟩, rfl⟩, rfl, rfl, rfl⟩

/-- The grants that a PERMPUT of n permits leads to, with the team's estate as its change leaves it. -/
def putGrants (v : State) (t : Team) (r : Req) (w n : Nat) (es : List Estate) : State :=
  ((v.setEstate t.tid fun _ => es).setWord r.pa (poolWord (w + n) (w / 2 ^ 32))).grantPool r.pa

/-- They keep the team, that does not wait for the pool, and they go by what the request has left as it was. -/
theorem putGrants_keeps {s : State} {t : Team} {r : Req} (hs : Served s r t) (n : Nat) (es : List Estate)
    (hq : ∀ x ∈ s.permitQ, x.pa = r.pa → x.tid ≠ t.tid) :
    (putGrants (takenUp s r) t r (s.physDword r.pa) n es).team? t.tid = some { t with estate := es } ∧
      (putGrants (takenUp s r) t r (s.physDword r.pa) n es).tags = s.tags ∧
      Alike (putGrants (served s r) t r (s.physDword r.pa) n es) (putGrants (takenUp s r) t r (s.physDword r.pa) n es) := by
  have htended := tended_takenUp hs
  have hteam := takenUp_team hs
  have halike := alike_takenUp hs
  have hm := hs.alive.2.1
  generalize takenUp s r = v at htended hteam halike ⊢
  generalize hw : poolWord (s.physDword r.pa + n) (s.physDword r.pa / 2 ^ 32) = w
  have hset := (storeOnly_setEstate v t.tid fun _ => es).trans (storeOnly_setWord _ r.pa w)
  have hword := team?_setWord (team?_setEstate hteam hm fun _ => es) hm r.pa w
  simp only [putGrants, hw]
  refine ⟨team?_grantPermits (u := { t with estate := es }) _ _ hm _ hword fun x hx hpa => ?_, ?_, ?_⟩
  · rw [hset.tended.permitQ, htended.permitQ] at hx
    exact hq x hx hpa
  · exact (grantPermits_tags ..).trans (hset.tended.tags.trans htended.tags)
  · exact ((halike.setEstate t.tid fun _ => es).setWord _ _).grantPool r.pa

section
variable {s : State} {t : Team} {r : Req} (hs : Served s r t) {n : Nat} (hk : r.kind = .permput n)
include hs hk

omit hs in
theorem permput_service : serviceOf r t r.kind = some fun v => servePermput v r t n := by rw [hk]; rfl

theorem permput_unowned (hown : owns t .permit r.va = false) : servesTrap s t 0x03 r.va := by
  have hnone : t.entry? .permit r.va = none := Option.not_isSome_iff_eq_none.mp (by simp [entry?_isSome, hown])
  refine servesTrap_atOnce hs (permput_service hk) ?_
  simp only [servePermput, hnone]
  exact if_pos (by rw [Bool.or_eq_true, decide_eq_true_eq, decide_eq_true_eq]; omega)

variable {a b : List Estate} {e : Estate} (hestate : t.estate = a ++ e :: b) (he : e.kind = .permit) (ho : e.obj = r.va)
  (hab : ∀ x ∈ a ++ b, x.kind = .permit → x.obj ≠ r.va)
include hestate he ho hab

omit hs hk in
theorem permput_entry : t.entry? .permit r.va = some e := by
  rw [Team.entry?, hestate]
  exact find?_split (fun x hx => by simpa using hab x (List.mem_append_left _ hx)) (by simp [he, ho])

theorem permput_traps (hn : n = 0 ∨ e.count < n) : servesTrap s t 0x03 r.va := by
  refine servesTrap_atOnce hs (permput_service hk) ?_
  simp only [servePermput, permput_entry hestate he ho hab]
  exact if_pos (by rw [Bool.or_eq_true, decide_eq_true_eq, decide_eq_true_eq]; exact hn)

/-- The estate after n of the entry's permits have gone back. -/
def estateAfterPut (a b : List Estate) (e : Estate) (n : Nat) : List Estate :=
  if n = e.count then a ++ b else a ++ { e with count := e.count - n } :: b

omit hk in
theorem servePermput_eq (h1 : 1 ≤ n) (hn : n ≤ e.count) : servePermput (takenUp s r) r t n =
    (putGrants (takenUp s r) t r (s.physDword r.pa) n (estateAfterPut a b e n)).replyWith t.tid [] := by
  have ha : ∀ x ∈ a, x.kind = .permit → x.obj ≠ r.va := fun x hx => hab x (List.mem_append_left _ hx)
  have hb : ∀ x ∈ b, x.kind = .permit → x.obj ≠ r.va := fun x hx => hab x (List.mem_append_right _ hx)
  have hset := setEstate_congr (takenUp_team hs) (g := fun _ => estateAfterPut a b e n) (f := fun es =>
    if n = e.count then dropEntry .permit r.va es
    else updFirst (fun e => e.kind == .permit && e.obj == r.va) (fun e => { e with count := e.count - n }) es) (by
      simp only [estateAfterPut, hestate, dropEntry_split he ho ha hb,
        updFirst_split (p := fun e : Estate => e.kind == .permit && e.obj == r.va) (a := a) (b := b) (e := e)
          (fun e => { e with count := e.count - n }) (fun x hx => by simpa using ha x hx) (by simp [he, ho])])
  simp only [servePermput, permput_entry hestate he ho hab, takenUp_physDword hs, hset]
  exact if_neg (by rw [Bool.or_eq_true, decide_eq_true_eq, decide_eq_true_eq]; omega)

theorem permput_grants (h1 : 1 ≤ n) (hn : n ≤ e.count) (hq : ∀ x ∈ s.permitQ, x.pa = r.pa → x.tid ≠ t.tid) :
    ∃ s', exec .homeSliceServe s = .next s' ∧
      s'.mem = (putGrants (served s r) t r (s.physDword r.pa) n (estateAfterPut a b e n)).mem ∧
      s'.permitQ = (putGrants (served s r) t r (s.physDword r.pa) n (estateAfterPut a b e n)).permitQ ∧
      (∀ h, h ≠ t.tid → s'.team? h = (putGrants (served s r) t r (s.physDword r.pa) n (estateAfterPut a b e n)).team? h) ∧
      s'.team? t.tid = some { t.gone with estate := estateAfterPut a b e n } := by
  have heq := servePermput_eq hs hestate he ho hab h1 hn
  generalize estateAfterPut a b e n = es at heq ⊢
  obtain ⟨hkept, htags, hgrants⟩ := putGrants_keeps hs n es hq
  have hquiet := quiet_estate hs.quiet es
  generalize putGrants (takenUp s r) t r (s.physDword r.pa) n es = p at heq hkept htags hgrants
  generalize putGrants (served s r) t r (s.physDword r.pa) n es = g at hgrants ⊢
  obtain ⟨ts, hexec, hgone, hmem, hothers⟩ := serves_replies hs (permput_service hk) heq htags hkept hquiet
  have hqueue := (tended_replyWith hkept hquiet []).permitQ.trans hgrants.permitQ
  generalize p.replyWith t.tid [] = z at hexec hgone hmem hothers hqueue
  exact ⟨_, hexec, hmem.trans hgrants.store.maps.mem, hqueue, fun h hh => (hothers h hh).trans (hgrants.team? h),
    hgone.trans (congrArg some (Team.gone_estate t es))⟩
end

/-- Without a waiter the grants leave the pool's word as the PERMPUT has written it. -/
theorem putGrants_mem {v : State} (t : Team) {r : Req} (w n : Nat) (es : List Estate) (hq : ∀ x ∈ v.permitQ, x.pa ≠ r.pa) :
    (putGrants v t r w n es).mem = ((v.setEstate t.tid fun _ => es).setWord r.pa (poolWord (w + n) (w / 2 ^ 32))).mem := by
  have hset := (storeOnly_setEstate v t.tid fun _ => es).trans (storeOnly_setWord _ r.pa (poolWord (w + n) (w / 2 ^ 32)))
  rw [putGrants, State.grantPool, grantPermits_none]
  refine List.find?_eq_none.mpr fun x hx => ?_
  rw [hset.tended.permitQ] at hx
  simp [hq x hx]

/-- The permits' half of O26: one grant of a queue and the rest of its grants, and PERMGET and PERMPUT by their cases. -/
theorem permitsAreGrantedInOrder : Claims.PermitsAreGrantedInOrder := by
  refine ⟨fun s pa hdying => ?_, fun s pa x hx => ⟨fun hn => grantPermits_short hx hn _, fun y hn hy hr hm => ?_⟩, ?_⟩
  · refine grantPermits_none (List.find?_eq_none.mpr fun x hx => ?_) _
    by_cases hpa : x.pa = pa
    · simp [hdying x hx hpa]
    · simp [hpa]
  · refine ⟨_, addEntry (permitEntry pa x) y.estate, grantPool_gives hx hn, givePermits_permitQ .., ?_, fun hown => ?_,
      fun a e b hestate he ho ha => addEntry_owned (x := permitEntry pa x) rfl hestate he ho ha, ?_,
      fun h u hh hu hum => team?_givePermits_ne hh hu hum pa _⟩
    · exact (givePermits_mem ..).trans (takenFrom_mem hy hm _)
    · exact addEntry_new (.inr hown)
    · exact team?_givePermits hy hm _ hr
  · rintro s t r w hs rfl
    refine ⟨fun sd n heir h fl hk => ⟨permget_fullTraps hs hk, fun hroom => ⟨fun hn hq => ?_, fun hw => ?_⟩⟩,
      fun n hk => ⟨fun a e b hestate he ho hab => ⟨permput_traps hs hk hestate he ho hab, ?_⟩, permput_unowned hs hk⟩⟩
    · obtain ⟨s', hexec, hmem, hteam⟩ := permget_takes hs hk hroom hn hq
      exact ⟨s', _, hexec, fun hown => addEntry_new (.inr hown),
        fun a e b hestate he ho ha => addEntry_owned (x := permitsOf r n heir h) rfl hestate he ho ha, hmem, hteam⟩
    · obtain ⟨s', hexec, hmem, hqueue, hteam⟩ := permget_waits hs hk hroom hw
      refine ⟨s', _, hexec, hmem, hqueue, rfl, rfl, rfl, rfl, rfl, rfl, rfl, hteam.trans ?_⟩
      rw [waitingTeam]
      cases owns t .permit r.va <;> rfl
    · rintro h1 hn hq m g es hes rfl rfl
      obtain ⟨s', hexec, hmem, hqueue, hothers, hteam⟩ := permput_grants hs hk hestate he ho hab h1 hn hq
      obtain rfl : es = estateAfterPut a b e n := hes
      refine ⟨s', hexec, hmem, hqueue, hothers, hteam, fun hnone => memAs_setWord rfl (hmem.trans ?_)⟩
      exact putGrants_mem t _ n _ hnone

/-- Settles O26: promises and permits, each service by its cases. -/
theorem promisesAndPermitsAreServed : Obligations.PromisesAndPermitsAreServed :=
  ⟨promiseIsMadeFulfilledAndAwaited, permitsAreGrantedInOrder⟩

end Sys2Proof.Machine
end
